-- ==== Sys2Proof/Word.lean ====
section
/-! DEFINITION. The words of the KN-9640: bytes, 32-bit registers, byte strings. R4: every multi-byte
field is little-endian; byte strings stand in the order in which their standard sends them (R115). -/

namespace Sys2Proof

abbrev Byte := BitVec 8
abbrev Word := BitVec 32
/-- A byte string, first byte at the lowest address (R115). -/
abbrev Bytes := List Byte

/-- The two PCIe ports (R69). -/
inductive Port where
  | a
  | b
  deriving DecidableEq, Repr

end Sys2Proof
end

