-- ==== Sys2Proof/Syntax.lean ====
section
/-! DEFINITION. The commands of the block: one constructor per row of spec/opcode_table.json, in the
table's order. The rows carry no bits; the operands here are what the environment supplies with the
command: who acts, the value written, what a host read returned, how a physical event came out. -/

namespace Sys2Proof

/-- Who acts: an initiator of R24, or a virtual function of a port (R71). The PFs are initiators 0x2F
(port A) and 0x30 (port B). -/
inductive Who where
  | ini (n : BitVec 6)
  | vf (port : Port) (fn : BitVec 7)
  deriving DecidableEq, Repr

/-- Why a read of host memory failed (R98). -/
inductive ReadFail where
  | unsupported
  | abort
  | poisoned
  | timeout
  deriving DecidableEq, Repr

/-- What a read of host memory returned: the bytes, or a failure (R98). -/
inductive HostRead where
  | data (b : Bytes)
  | failed (why : ReadFail)
  deriving DecidableEq, Repr

/-- Privilege level of an access (R64, R68). -/
inductive Priv where
  | u
  | s
  | m
  deriving DecidableEq, Repr

/-- Access type (R64, R68). -/
inductive Access where
  | read
  | write
  | exec
  deriving DecidableEq, Repr

/-- What a read of a key-store slot met (R301): nothing, or a fault of the slot named. -/
inductive SlotFault where
  | clean
  | single (slot : BitVec 18)
  | double (slot : BitVec 18)
  | tag (slot : BitVec 18)
  deriving DecidableEq, Repr

/-- Units that a recipe step addresses (R140). -/
inductive StepUnit where
  | lane | hash | kbc | dkc | fmt | dec | cmp | hrd | hwr | alu | loop | fin
  deriving DecidableEq, Repr

/-- What a recipe step reads: a secret or public register of its context, or the output of a lane step, which may be marked releasable
(R138, R140). -/
inductive StepSource where
  | secret (n : BitVec 3)
  | pub (n : BitVec 4)
  | laneOut (releasable : Bool)
  deriving DecidableEq, Repr

/-- What a recipe step writes, with the value that its unit gives (R138, R140). -/
inductive StepTarget where
  | none
  | secret (n : BitVec 3) (v : BitVec 256)
  | pub (n : BitVec 4) (v : BitVec 64)
  | laneIn
  deriving DecidableEq, Repr

/-- One step as a recipe engine executes it (R140). `key`: it yields key material or a clear PIN. -/
structure MicroStep where
  unit : StepUnit
  key : Bool := false
  reads : List StepSource := []
  writes : StepTarget := .none
  deriving DecidableEq, Repr

/-- What the environment supplies to the execution of one command of a ring: the data buffer, the
host key blocks of type 0x2 references in the order key_ref_a, key_ref_b, inline (R112, R126, R128), the
steps that its recipe executes (R140), a failed TWIN comparison (R144), a failed comparison inside the formatter, decimalisation
unit or comparator (R143), the line whose MAC failed (R18) and what a slot read met (R301). -/
structure CmdEnv where
  data : HostRead := .data []
  blkA : HostRead := .data []
  blkB : HostRead := .data []
  blkC : HostRead := .data []
  blkD : HostRead := .data []
  steps : List MicroStep := []
  twinFail : Option (BitVec 7 × BitVec 7) := none
  dupFail : Bool := false
  ecc : Option (BitVec 31) := none
  slotFault : SlotFault := .clean
  deriving DecidableEq, Repr

/-- One officer's signature in an authorisation block (R389): index, kind (1 P-384, 2 ML-DSA-65), bytes. -/
structure OfficerSig where
  index : Nat
  kind : Nat
  sig : Bytes
  deriving DecidableEq, Repr

/-- A public key of a roster (R388): kind (1 P-384, 2 ML-DSA-65) and encoding. -/
structure OfficerKey where
  kind : Nat
  key : Bytes
  deriving DecidableEq, Repr

/-- A roster (R388) and, for the house, the peer's fingerprint (R403). -/
structure Roster where
  officers : List OfficerKey
  threshold : Nat
  pair : Option Bytes := none
  deriving DecidableEq, Repr

/-- A vendor token (R380): fingerprint, target state or image digest, nonce, two signatures. -/
structure VendorToken where
  fingerprint : Bytes
  target : Bytes
  nonce : Bytes
  sigMldsa : Bytes
  sigP384 : Bytes
  deriving DecidableEq, Repr

/-- A Zhoavan message as it stands complete in the mailbox (R385): sender, header fields, the body
without its authorisation block, the nonce that the signers used, the signatures, the owner
credential's signature and a vendor token where the message carries one. -/
structure ZHdr where
  sender : Who
  seq : Word := 0
  target : BitVec 16 := 0xFFFF
  body : Bytes := []
  nonce : Bytes := []
  sigs : List OfficerSig := []
  ownerSig : Bytes := []
  token : Option VendorToken := none
  deriving DecidableEq, Repr

/-- The values of PITCH_CREATE (R34); `none` is a presence bit of 0. -/
structure PitchValues where
  personality : Option (BitVec 8) := none
  quota : Option Nat := none
  reserve : Option Nat := none
  weight : Option Nat := none
  prioCap : Option Nat := none
  signCheck : Option Nat := none
  kbcCap : Option Nat := none
  dkcCap : Option Nat := none
  roster : Option Roster := none
  malformed : Bool := false
  deriving DecidableEq, Repr

/-- The values of PITCH_CONFIG (R387): those given change. -/
structure ConfigValues where
  quota : Option Nat := none
  reserve : Option Nat := none
  weight : Option Nat := none
  kbcCap : Option Nat := none
  dkcCap : Option Nat := none
  prioCap : Option Nat := none
  signCheck : Option Nat := none
  replay : Option (Bool × BitVec 16) := none
  deriving DecidableEq, Repr

/-- One component of PMK_LOAD form 1 (R394): ML-KEM-768 ciphertext, then 48 B. -/
structure PmkComponent where
  kem : Bytes
  wrapped : Bytes
  deriving DecidableEq, Repr

/-- The body of PMK_LOAD (R394): entry, form, components or block; the slot that takes the key. -/
structure PmkBody where
  entry : Nat
  form : Nat
  components : List PmkComponent := []
  block : Bytes := []
  slot : Option (BitVec 18) := none
  deriving DecidableEq, Repr

/-- One recipe of a set (R135): its entry in the set header and its body, with what the set checker finds in the body (R136): a host
write of a secret register, a branch on one, a backward branch, a loop count from neither a length nor a constant; the deepest loop
nesting and the largest loop count (R138). -/
structure Recipe where
  opcode : BitVec 16
  personality : BitVec 2
  steps : Nat
  budget : Nat
  units : List StepUnit := []
  digest : Bytes := []
  body : Bytes := []
  writesSecret : Bool := false
  branchesOnSecret : Bool := false
  backwardBranch : Bool := false
  badLoop : Bool := false
  nesting : Nat := 0
  loopCount : Nat := 1
  deriving DecidableEq, Repr

/-- A recipe set (R135): security version, how the verification of both signatures and of the chain of the signing certificate to the
vendor root comes out, its recipes. -/
structure RecipeSet where
  version : BitVec 16
  sigMldsaOk : Bool
  sigP384Ok : Bool
  chainOk : Bool
  recipes : List Recipe
  deriving DecidableEq, Repr

/-- A firmware image as read or received (R434): security version, digest, its two signatures,
the bytes the digest covers, and the recipe set that it delivers (R135). -/
structure Image where
  version : BitVec 16
  digest : Bytes
  content : Bytes
  sigMldsa : Bytes
  sigP384 : Bytes
  recipes : Option RecipeSet := none
  deriving DecidableEq, Repr

/-- The seven conditions of R381 as measured at the request, in the order listed there;
declared_ms is the device's own register and is not among them. -/
structure BurnConditions where
  vbat : Bool
  rails : Bool
  pwrfail : Bool
  warning : Bool
  temperature : Bool
  deriving DecidableEq, Repr

/-- Counts of the monitored clocks over one window (R23). -/
structure ClockCounts where
  hifA : Nat
  hifB : Nat
  core : Nat
  lane : Nat
  pke : Nat
  mem : Nat
  pair : Nat
  deriving DecidableEq, Repr

/-- How a burst came out; `ecc`: a line MAC failed (R18). -/
inductive BurstResult where
  | ok (b : Bytes)
  | failed
  | refused
  | ecc
  deriving DecidableEq, Repr

/-- What travels with a key beside its attributes (R154, R155; log entry 18): the hash of an HMAC key, the IK of a B1 key, the key context
of its block where that is "1". -/
structure KeyTag where
  hm : Option Byte := none
  ik : Bytes := []
  sent : Bool := false
  deriving DecidableEq, Repr

/-- One record of a skim or of a resync (R414). -/
inductive SkimRecord where
  | slot (n : BitVec 18) (csn : Nat) (key : Bytes) (attrs : BitVec 128) (gen : Word) (tag : KeyTag)
  | attrs (n : BitVec 18) (csn : Nat) (attrs : BitVec 128)
  | counter (n : BitVec 18) (csn : Nat) (value : BitVec 64)
  | pmk (pitch : BitVec 12) (csn : Nat) (table : List (Option (BitVec 18)))
  | contextKey (pitch : BitVec 12) (csn : Nat) (key : Bytes) (gen : BitVec 64)
  | pitch (pitch : BitVec 12) (csn : Nat) (state personality : BitVec 2) (quota reserve weight : Nat)
      (cfg : Word) (kbcCap dkcCap : Nat) (replayOn : Bool) (replayTol : BitVec 16)
  | block (blk : BitVec 12) (csn : Nat) (owner : Option (BitVec 12))
  | roster (target : BitVec 16) (csn : Nat) (r : Roster)
  | replay (pitch : BitVec 12) (csn : Nat) (hostTag : Word) (opcode status : BitVec 16)
  | device (csn : Nat) (mode epoch leap cfg : Word) (churn : Word) (bulkCap : BitVec 5) (minVersion : BitVec 16)
  | leap (csn : Nat) (l : Nat)
  | yielded (csn : Nat)
  deriving DecidableEq, Repr

/-- A skim frame (R414): epoch, lowest CSN, highest CSN at the close, records; with the sender's role and flags (R427). -/
structure Skim where
  epoch : Nat
  low : Nat := 0
  csn : Nat
  records : List SkimRecord
  role : BitVec 3 := 4
  flags : Byte := 0
  tagOk : Bool := true
  deriving DecidableEq, Repr

/-- A bonding offer (R404): fresh keys and nonce, the identity keys with their certificate chain, the roster, two signatures. -/
structure BondOffer where
  kemKey : Bytes
  point : Bytes
  nonce : Bytes
  p384Key : Bytes
  mldsaKey : Bytes
  chain : Bytes
  roster : Roster
  sigP384 : Bytes
  sigMldsa : Bytes
  deriving DecidableEq, Repr

/-- What is measured when a start runs (R430 to R434): balls, levels, images, BIST, entropy. -/
structure StartEnv where
  pairPresent : Bool := false
  vbatOk : Bool := false
  testEn : Bool := false
  failStep : Option Nat := none
  bistFailed : List Nat := []
  entropyOk : List Bool := [true, true, true, true]
  /-- DRBG instances whose known-answer test fails, R289 -/
  drbgKatFail : List Nat := []
  /-- sealed-store records of each flash, by their position, whose tag fails, R313 -/
  badRecords0 : List Nat := []
  badRecords1 : List Nat := []
  /-- what stands in image slots A and B of both flashes where they were written outside the device; none keeps its own -/
  imageA : Option Image := none
  imageB : Option Image := none
  deriving DecidableEq, Repr

/-- The commands of the block, one constructor per row of the table. -/
inductive Instr where
  | rwiWrite (who : Who) (off : BitVec 21) (v : Word)
  | rwiCompanionWrite (who : Who) (off : BitVec 21) (v : Word)
  | rwiWindowExpiry (who : Who) (off : BitVec 21)
  | regWrite (who : Who) (off : BitVec 21) (v : Word)
  | busAccess (n : BitVec 6) (priv : Priv) (kind : Access) (addr : BitVec 40) (data : Bytes) (len : Nat) (posted : Bool)
      (ecc : Bool := false)
  | mpuBarrierRead (n : BitVec 6)
  | mpuBarrierDrained (n : BitVec 6)
  | mpuBarrierTimeout (n : BitVec 6)
  | freqMonitorWindow (c : ClockCounts)
  | pwrEnvelopeWrite (who : Who) (v : Word)
  | envelopeTransition
  | pitchCreate (h : ZHdr) (v : PitchValues)
  | pitchDelete (h : ZHdr)
  | pitchDeleteDrained (p : BitVec 12)
  | pitchFreed (p : BitVec 12)
  | pitchSuspend (who : Who) (v : Word)
  | pitchResume (who : Who) (v : Word)
  | pitQuotaReserveWrite (who : Who) (reserve : Bool) (v : Word)
  | cacheShareChange (who : Who) (v : Word)
  | pitWinCommit (who : Who) (v : Word)
  | pitBlkOwnerWrite (who : Who) (v : Word)
  | functionLevelReset (port : Port) (fn : BitVec 7)
  | d3hotEntry (port : Port) (fn : BitVec 7)
  | dlDown (port : Port)
  | busMasterEnableSet (port : Port) (fn : BitVec 7)
  | perstAssert (port : Port)
  | configRequest (port : Port) (fn : BitVec 7) (write : Bool) (reg : BitVec 12) (v : Word)
  | ideIntegrityFail (port : Port) (stream : BitVec 3)
  | ideKm (port : Port) (stream : BitVec 3)
  | getVersion (port : Port)
  | getCapabilities (port : Port)
  | negotiateAlgorithms (port : Port) (offered : Bool)
  | getDigests (port : Port)
  | getCertificate (port : Port) (slot : BitVec 4)
  | challenge (port : Port) (nonce : Bytes)
  | getMeasurements (port : Port) (signed : Bool := false) (nonce : Bytes := [])
  | keyExchange (port : Port) (exchange : Bytes)
  | finish (port : Port) (verify : Bytes)
  | heartbeat (port : Port)
  | keyUpdate (port : Port) (all : Bool := false)
  | endSession (port : Port)
  | bindWrite (who : Who) (v : Word)
  | rqeWake (who : Who) (v : Word)
  | sweepStart (port : Port)
  | doorbellRecordReadDone (p : BitVec 12) (sq : BitVec 2) (r : HostRead)
  | sqeDataArrival (p : BitVec 12) (sq : BitVec 2) (sqe : Bytes)
  | ringCreate (who : Who) (v : Word) (r : HostRead)
  | ringDelete (who : Who) (v : Word)
  | ringReset (who : Who) (v : Word) (r : HostRead)
  | cqAdopt (who : Who) (v : Word)
  | orphanTimeout (p : BitVec 12)
  | orphanTimeoutWrite (who : Who) (v : Word)
  | coalesceTimer (p : BitVec 12)
  | msixUnmask (port : Port) (fn : BitVec 7) (vec : BitVec 11)
  | keyImportBlock (e : BitVec 17) (env : CmdEnv)
  | keyExportBlock (e : BitVec 17) (env : CmdEnv)
  | keyGenerateSym (e : BitVec 17) (env : CmdEnv)
  | keyCheckValue (e : BitVec 17) (env : CmdEnv)
  | keyTranslateBlock (e : BitVec 17) (env : CmdEnv)
  | keyCacheEvict (e : BitVec 17) (env : CmdEnv)
  | pinTranslate (e : BitVec 17) (env : CmdEnv)
  | pinVerifyOffset (e : BitVec 17) (env : CmdEnv)
  | pinVerifyPvv (e : BitVec 17) (env : CmdEnv)
  | pinGenerateOffset (e : BitVec 17) (env : CmdEnv)
  | cvcGenerate (e : BitVec 17) (env : CmdEnv)
  | cvcVerify (e : BitVec 17) (env : CmdEnv)
  | arqcVerify (e : BitVec 17) (env : CmdEnv)
  | arqcVerifyArpc (e : BitVec 17) (env : CmdEnv)
  | emvScriptProtect (e : BitVec 17) (env : CmdEnv)
  | macGenerate (e : BitVec 17) (env : CmdEnv)
  | macVerify (e : BitVec 17) (env : CmdEnv)
  | macTranslate (e : BitVec 17) (env : CmdEnv)
  | dukptDecryptData (e : BitVec 17) (env : CmdEnv)
  | dukptPinTranslate (e : BitVec 17) (env : CmdEnv)
  | dukptMacVerify (e : BitVec 17) (env : CmdEnv)
  | dukptInitialKey (e : BitVec 17) (env : CmdEnv)
  | dkcWalkerDone (w : BitVec 1) (ecc : Option (BitVec 31) := none)
  | tokenEncrypt (e : BitVec 17) (env : CmdEnv)
  | tokenDecrypt (e : BitVec 17) (env : CmdEnv)
  | cipherEncrypt (e : BitVec 17) (env : CmdEnv)
  | cipherDecrypt (e : BitVec 17) (env : CmdEnv)
  | aeadEncrypt (e : BitVec 17) (env : CmdEnv)
  | aeadDecrypt (e : BitVec 17) (env : CmdEnv)
  | hash (e : BitVec 17) (env : CmdEnv)
  | keyedHash (e : BitVec 17) (env : CmdEnv)
  | cipherContext (e : BitVec 17) (env : CmdEnv)
  | pkSign (e : BitVec 17) (env : CmdEnv)
  | pkVerify (e : BitVec 17) (env : CmdEnv)
  | pkAgree (e : BitVec 17) (env : CmdEnv)
  | rsaDecrypt (e : BitVec 17) (env : CmdEnv)
  | pkGenerate (e : BitVec 17) (env : CmdEnv)
  | kemEncaps (e : BitVec 17) (env : CmdEnv)
  | kemDecaps (e : BitVec 17) (env : CmdEnv)
  | pqSign (e : BitVec 17) (env : CmdEnv)
  | pqVerify (e : BitVec 17) (env : CmdEnv)
  | remoteKeyReceive (e : BitVec 17) (env : CmdEnv)
  | remoteKeySend (e : BitVec 17) (env : CmdEnv)
  | echo (e : BitVec 17) (env : CmdEnv)
  | random (e : BitVec 17) (env : CmdEnv)
  | pitchStatus (e : BitVec 17) (env : CmdEnv)
  | recipeSetSwitch (set : RecipeSet)
  | engineRequest (core : BitVec 5) (lattice handover : Bool)
  | engineOpComplete (lattice : Bool) (eng : BitVec 5)
  | signCheckDone (lattice : Bool) (eng : BitVec 5) (pass : Bool)
  | engineFault (lattice : Bool) (eng : BitVec 5)
  | dispatchLoad (core : BitVec 5)
  | dispatchTimeout (core : BitVec 5)
  | commandEnqueue (e : BitVec 17)
  | hrdGo (core : BitVec 5) (v : Word)
  | hrdDone (core : BitVec 5) (r : HostRead)
  | commandComplete (core : BitVec 5) (v : Word) (ecc : Bool := false)
  | coreException (core : BitVec 5)
  | coreWatchdog (core : BitVec 5)
  | coreDrain (who : Who) (v : Word)
  | coreReload (who : Who) (v : Word)
  | coreLoadTimeout (core : BitVec 5)
  | coreDrainDmaTimeout (core : BitVec 5)
  | persMaskWrite (who : Who) (v : Word)
  | liveUpdateStart (who : Who) (v : Word)
  | histClear (who : Who) (v : Word)
  | dmaStart (who : Who) (ch : BitVec 6) (priv : Priv)
  | dmaHalt (who : Who) (ch : BitVec 6)
  | dmaBurstComplete (ch : BitVec 6) (r : BurstResult)
  | dmaRetryTimer (ch : BitVec 6)
  | dmaDescriptorEnd (ch : BitVec 6)
  | mbxLockRead (who : Who) (m : BitVec 4)
  | mbxLockRelease (who : Who) (m : BitVec 4) (v : Word)
  | mbxMsgWrite (who : Who) (m : BitVec 4) (word : BitVec 6) (v : Word)
  | mbxDbSet (who : Who) (m : BitVec 4) (v : Word)
  | mbxDbClear (who : Who) (m : BitVec 4) (v : Word)
  | mbxAck (who : Who) (m : BitVec 4) (v : Word)
  | mbxForce (who : Who) (m : BitVec 4) (v : Word)
  | nonceGet (h : ZHdr)
  | attest (h : ZHdr)
  | regAccess (h : ZHdr) (write : Bool) (off : BitVec 21) (v : Word)
  | pitchConfig (h : ZHdr) (v : ConfigValues)
  | pmkLoad (h : ZHdr) (b : PmkBody)
  | pmkClear (h : ZHdr) (entry : Nat)
  | rosterSet (h : ZHdr) (r : Roster)
  | exportAuth (h : ZHdr) (seconds count : Nat)
  | exportAuthExpiry (p : BitVec 12)
  | attrWiden (h : ZHdr) (slot : BitVec 18) (attrs : BitVec 128)
  | fwStage (h : ZHdr) (img : Image)
  | fwAccept (h : ZHdr)
  | lcsTransition (h : ZHdr) (target : BitVec 4) (c : BurnConditions)
  | fuseBurnDone (verified : Bool)
  | waferTestTransition (c : BurnConditions)
  | manufacturingTransition (certWritten : Bool)
  | jtagScrap (t : VendorToken) (c : BurnConditions)
  | reintegrate (h : ZHdr) (declaredMs : Byte) (version : Word)
  | zeroise (h : ZHdr)
  | tamperClass (h : ZHdr) (bank : BitVec 2) (v : Word)
  | tamperFuse (h : ZHdr) (source : BitVec 6) (disable : Bool) (cls : BitVec 2) (c : BurnConditions)
  | fuseRepair (h : ZHdr) (c : BurnConditions)
  | ownerRotate (h : ZHdr) (keyHash : Bytes) (c : BurnConditions)
  | tallyRead (h : ZHdr) (first : Word) (count : BitVec 16)
  | tallyClear (h : ZHdr)
  | nonceExpiry (nonce : Bytes)
  | ownClaim (who : Who) (v : Word)
  | claimVerified (c : BurnConditions)
  | handoverStart (who : Who) (v : Word)
  | ownerRelease (who : Who) (v : Word)
  | handoverCancel (who : Who) (v : Word)
  | handoverTimeout
  | i3cLinkSilence
  | ownerLinkLoss
  | churnRemask (fault : SlotFault := .clean)
  | churnLagTimer
  | slotRestoreDone (slot : BitVec 18) (ok : Bool)
  | eraseOverwriteDone
  /-- katFailed: instances whose known-answer test fails -/
  | eraseRestartDone (katFailed : List Nat := [])
  | journalFlushTimer
  | journalWriteDone
  | cacheFlush (who : Who) (dkc : Bool) (v : Word)
  | cacheSweepDone (dkc : Bool)
  | tamperQualify (source : BitVec 6)
  | tamperConditionClear (source : BitVec 6)
  | holdRelease (source : BitVec 6)
  | qualWindowClose
  | meshCompare (mismatch : BitVec 6)
  | encSample (level : BitVec 8)
  | sensorSample (sensor : BitVec 2) (celsius : BitVec 8)
  | batteryAlarm (source : BitVec 6) (ticks : BitVec 16) (celsius : BitVec 8) (millivolt : Word) (joins : Bool)
  | vbatApply
  | coldStart (env : StartEnv)
  | warmStart (env : StartEnv)
  | secWatchdog
  | startStepFail (step : BitVec 4) (noImage : Bool)
  | startReady
  | supplyWarning (rail : BitVec 4) (millivolt : BitVec 16)
  | quietReadyClear
  | quietExit (lowest : BitVec 16)
  | railReset (rail : BitVec 4)
  | pwrfailAssert
  | pwrfailDeassertTimer
  | governorSample (milliwatt : BitVec 16)
  | calibrationStart (who : Who) (v : Word)
  | calibrationDone (code : BitVec 4)
  | bistInterval (powerOk : Bool)
  | bistRegionTake (region : BitVec 7)
  /-- result: 0 pass, 1 within redundancy, 2 beyond it, 3 no verdict -/
  | bistRegionDone (region : BitVec 7) (result : BitVec 2)
  /-- failed: a region of R448, or 107 + i for DRBG instance i -/
  | standbyKat (failed : Option (BitVec 7))
  | entropyTestFail (src : BitVec 2) (apt : Bool) (count : Nat := 1024)
  | entropyStartupDone (src : BitVec 2) (kat : Bool) (run : Nat := 0) (equal : Nat := 0)
  | entropyRetry (src : BitVec 2)
  | seedBlockReady (src : BitVec 2) (katOk : Bool := true)
  | drbgReseed (inst : BitVec 4)
  | drbgSeedTimeout (inst : BitVec 4)
  | pairLinkUp (width : BitVec 2) (peerNonce : Bytes)
  | pairOffer (o : BondOffer)
  | pairResponse (ciphertext sigP384 sigMldsa : Bytes)
  | keepAliveSend
  | pairLinkDown
  | healthFrame
  | witGrantQualify
  | takeoverClaimTimeout
  | peerClaimClear
  | peerClaimAssert
  | witGrantLoss
  | mirrorEpochClose
  | skimReceive (k : Skim)
  | skimAck (epoch csn : Nat) (role : BitVec 3) (flags : Byte)
  | ackTimeout
  | soloWaitExpiry
  | resyncReceive (records : List SkimRecord) (last : Bool)
  | yield (who : Who) (v : Word)
  | yieldDrainExpiry
  | tallyFlushTimer
  | tallyFlushDone
  | tallyPageRetry (flash : BitVec 1) (ok : Bool)
  | tailEraseDone
  | tokenRefill
  | tallyFetch (who : Who) (v : Word)
  | tallyFetchDone (who : Who)
  | eventClaim (who : Who)
  | hostPendingClear (who : Who) (n : BitVec 5) (v : Word)
  | sqeReadFailed (p : BitVec 12) (sq : BitVec 2) (why : ReadFail := .timeout)
  | pcieLinkUp (port : Port)
  | flrComplete (port : Port) (fn : BitVec 7)
  | d3hotExit (port : Port) (fn : BitVec 7)
  | busMasterEnableClear (port : Port) (fn : BitVec 7)
  | railResume (rail : BitVec 4)
  | vbatLoss
  | standbyLinkTimeout
  | pairRstRelease
  | zhoavanFragment (who : Who) (index : BitVec 16) (body : Bytes)
  | unknownMessageType (h : ZHdr) (type : BitVec 16)
  | secondsCounterTick (mainPower : Bool)
  | pairImageReceive (img : Image)
  deriving DecidableEq, Repr

end Sys2Proof
end

