-- ==== Sys2Proof/Machine/Bits.lean ====
section
/-! DEFINITION. Byte strings: numbers in them (R4: numeric fields little-endian; R115: byte strings in the order of
their standard), slices, exclusive-or, hexadecimal and decimal characters, nibbles. -/

namespace Sys2Proof.Machine

/-- Little-endian value of a byte string (R4). -/
def leNat : Bytes → Nat
  | [] => 0
  | b :: bs => b.toNat + 256 * leNat bs

/-- Big-endian value of a byte string (R115). -/
def beNat (b : Bytes) : Nat := b.foldl (fun a x => 256 * a + x.toNat) 0

/-- The `n` low bytes of a number, least significant first. -/
def toLE : Nat → Nat → Bytes
  | 0, _ => []
  | n + 1, v => BitVec.ofNat 8 v :: toLE n (v / 256)

/-- The `n` low bytes of a number, most significant first. -/
def toBE (n v : Nat) : Bytes := (toLE n v).reverse

/-- `len` bytes from offset `off`; shorter where the string ends. -/
def slice (b : Bytes) (off len : Nat) : Bytes := (b.drop off).take len

/-- The little-endian number in a field (R4). -/
def fieldLE (b : Bytes) (off len : Nat) : Nat := leNat (slice b off len)

/-- A byte of a string, 0 past its end. -/
def byteAt (b : Bytes) (i : Nat) : Byte := b.getD i 0

def zeros (n : Nat) : Bytes := List.replicate n 0

def xorB (a b : Bytes) : Bytes := List.zipWith (fun x y => x ^^^ y) a b

/-- A string filled with zeros on the right, or cut, to `n` bytes. -/
def padTo (n : Nat) (b : Bytes) : Bytes := b.take n ++ zeros (n - b.length)

def allZero (b : Bytes) : Bool := b.all (fun x => x = 0)

/-- Blocks of `n` bytes; the last one may be shorter. `fuel` bounds the number of blocks. -/
def chunksAux (n : Nat) : Nat → Bytes → List Bytes
  | 0, _ => []
  | f + 1, b => if b.isEmpty then [] else b.take n :: chunksAux n f (b.drop n)

def chunks (n : Nat) (b : Bytes) : List Bytes := chunksAux n b.length b

/-- The nibbles of a string, high nibble of each byte first. -/
def nibbles : Bytes → List Nat
  | [] => []
  | b :: bs => b.toNat / 16 :: b.toNat % 16 :: nibbles bs

/-- A string from its nibbles, high nibble first; a last odd nibble is dropped. -/
def ofNibbles : List Nat → Bytes
  | h :: l :: t => BitVec.ofNat 8 (16 * h + l) :: ofNibbles t
  | _ => []

/-- The value of an upper-case hexadecimal character (R152), none for any other byte. -/
def hexVal (c : Byte) : Option Nat :=
  if 0x30 ≤ c.toNat ∧ c.toNat ≤ 0x39 then some (c.toNat - 0x30)
  else if 0x41 ≤ c.toNat ∧ c.toNat ≤ 0x46 then some (c.toNat - 0x37)
  else none

def hexChar (n : Nat) : Byte := if n < 10 then BitVec.ofNat 8 (0x30 + n) else BitVec.ofNat 8 (0x37 + n)

/-- Bytes as upper-case hexadecimal characters. -/
def toHex (b : Bytes) : Bytes := (nibbles b).map hexChar

/-- Hexadecimal characters as bytes; none where one is no upper-case hexadecimal digit or their number is odd. -/
def ofHex (b : Bytes) : Option Bytes :=
  if b.length % 2 = 0 then (b.mapM hexVal).map ofNibbles else none

/-- Decimal characters of a number, `n` digits. -/
def decChars : Nat → Nat → Bytes
  | 0, _ => []
  | n + 1, v => decChars n (v / 10) ++ [BitVec.ofNat 8 (0x30 + v % 10)]

/-- The number that decimal characters spell. -/
def ofDec (b : Bytes) : Option Nat :=
  b.foldl (fun a c => a.bind fun v =>
    if 0x30 ≤ c.toNat ∧ c.toNat ≤ 0x39 then some (10 * v + (c.toNat - 0x30)) else none) (some 0)

/-- Characters of a string as bytes. -/
def ascii (s : String) : Bytes := s.toList.map fun c => BitVec.ofNat 8 c.toNat

/-- A value saturating at `m` after one more. -/
def satInc {w : Nat} (v : BitVec w) : BitVec w := if v = BitVec.allOnes w then v else v + 1

end Sys2Proof.Machine
end

