-- ==== Sys2Proof/Machine/Aes.lean ====
section
/-! DEFINITION. The AES block cipher (FIPS 197), which the spec uses by name: PRESUMED, from the standard. -/

namespace Sys2Proof.Machine.Aes

/-- Multiplication by x in GF(2^8). -/
def xtime (a : Byte) : Byte := BitVec.ofNat 8 (if a.toNat < 128 then 2 * a.toNat else (2 * a.toNat) ^^^ 0x11B)

/-- Product in GF(2^8): `n` bits of `b` from bit 0. -/
def gmulAux : Nat → Byte → Nat → Byte
  | 0, _, _ => 0
  | n + 1, a, b => if b % 2 = 0 then gmulAux n (xtime a) (b / 2) else a ^^^ gmulAux n (xtime a) (b / 2)

/-- A coefficient of MixColumns, below 16, times a byte. -/
def gmul (c : Nat) (b : Byte) : Byte := if c = 1 then b else gmulAux 4 b c

/-- A byte from a table of 16 rows, one hexadecimal number a row, its first byte the most significant. -/
def look (table : List Nat) (a : Byte) : Byte :=
  BitVec.ofNat 8 (table.getD (a.toNat / 16) 0 / 256 ^ (15 - a.toNat % 16))

/-- The substitution table (FIPS 197, figure 7). -/
def sTable : List Nat :=
  [0x637c777bf26b6fc53001672bfed7ab76,
   0xca82c97dfa5947f0add4a2af9ca472c0,
   0xb7fd9326363ff7cc34a5e5f171d83115,
   0x04c723c31896059a071280e2eb27b275,
   0x09832c1a1b6e5aa0523bd6b329e32f84,
   0x53d100ed20fcb15b6acbbe394a4c58cf,
   0xd0efaafb434d338545f9027f503c9fa8,
   0x51a3408f929d38f5bcb6da2110fff3d2,
   0xcd0c13ec5f974417c4a77e3d645d1973,
   0x60814fdc222a908846eeb814de5e0bdb,
   0xe0323a0a4906245cc2d3ac629195e479,
   0xe7c8376d8dd54ea96c56f4ea657aae08,
   0xba78252e1ca6b4c6e8dd741f4bbd8b8a,
   0x703eb5664803f60e613557b986c11d9e,
   0xe1f8981169d98e949b1e87e9ce5528df,
   0x8ca1890dbfe6426841992d0fb054bb16]

/-- Its inverse (FIPS 197, figure 14). -/
def invSTable : List Nat :=
  [0x52096ad53036a538bf40a39e81f3d7fb,
   0x7ce339829b2fff87348e4344c4dee9cb,
   0x547b9432a6c2233dee4c950b42fac34e,
   0x082ea16628d924b2765ba2496d8bd125,
   0x72f8f66486689816d4a45ccc5d65b692,
   0x6c704850fdedb9da5e154657a78d9d84,
   0x90d8ab008cbcd30af7e45805b8b34506,
   0xd02c1e8fca3f0f02c1afbd0301138a6b,
   0x3a9111414f67dcea97f2cfcef0b4e673,
   0x96ac7422e7ad3585e2f937e81c75df6e,
   0x47f11a711d29c5896fb7620eaa18be1b,
   0xfc563e4bc6d279209adbc0fe78cd5af4,
   0x1fdda8338807c731b11210592780ec5f,
   0x60517fa919b54a0d2de57a9f93c99cef,
   0xa0e03b4dae2af5b0c8ebbb3c83539961,
   0x172b047eba77d626e169146355210c7d]

def sbox (a : Byte) : Byte := look sTable a
def invSbox (a : Byte) : Byte := look invSTable a

def rcon : Nat → Byte
  | 0 => 1
  | n + 1 => xtime (rcon n)

/-- The next `n` words of the key schedule; `w` the words so far, newest first. -/
def expandAux (nk : Nat) : Nat → Nat → List Bytes → List Bytes
  | 0, _, w => w
  | n + 1, i, w =>
    let t := w.headD []
    let t' :=
      if i % nk = 0 then
        xorB ((t.drop 1 ++ t.take 1).map sbox) [rcon (i / nk - 1), 0, 0, 0]
      else if nk = 8 ∧ i % nk = 4 then t.map sbox
      else t
    expandAux nk n (i + 1) (xorB (w.getD (nk - 1) []) t' :: w)

/-- Round keys, 16 bytes each, first round key first. -/
def expand (key : Bytes) : List Bytes :=
  let nk := key.length / 4
  let w := expandAux nk (4 * (nk + 7) - nk) nk (chunks 4 key).reverse
  chunks 16 w.reverse.flatten

/-- Byte `i` of the result is byte `5 i mod 16` of the state (column order). -/
def shiftRows (s : Bytes) : Bytes := (List.range 16).map fun i => byteAt s (5 * i % 16)

def invShiftRows (s : Bytes) : Bytes := (List.range 16).map fun i => byteAt s (13 * i % 16)

def mixCol (a b c d : Nat) (s : Bytes) : Bytes :=
  ((chunks 4 s).map fun col =>
    (List.range 4).map fun i =>
      gmul a (byteAt col i) ^^^ gmul b (byteAt col ((i + 1) % 4)) ^^^ gmul c (byteAt col ((i + 2) % 4))
        ^^^ gmul d (byteAt col ((i + 3) % 4))).flatten

def encRounds : List Bytes → Bytes → Bytes
  | [], s => s
  | [k], s => xorB (shiftRows (s.map sbox)) k
  | k :: ks, s => encRounds ks (xorB (mixCol 2 3 1 1 (shiftRows (s.map sbox))) k)

def decRounds : List Bytes → Bytes → Bytes
  | [], s => s
  | [k], s => xorB ((invShiftRows s).map invSbox) k
  | k :: ks, s => decRounds ks (mixCol 14 11 13 9 (xorB ((invShiftRows s).map invSbox) k))

/-- One block enciphered under a key of 16, 24 or 32 bytes. -/
def enc (key blk : Bytes) : Bytes :=
  match expand key with
  | [] => blk
  | k :: ks => encRounds ks (xorB blk k)

/-- One block deciphered. -/
def dec (key blk : Bytes) : Bytes :=
  match (expand key).reverse with
  | [] => blk
  | k :: ks => decRounds ks (xorB blk k)

end Sys2Proof.Machine.Aes
end

