-- ==== Sys2Proof/Machine/Des.lean ====
section
/-! DEFINITION. The DES block cipher and TDES in EDE order (FIPS 46-3, SP 800-67), which the spec uses by name: PRESUMED,
from the standard. Bits are numbered from 1 at the most significant end, as the standard numbers them. -/

namespace Sys2Proof.Machine.Des

/-- The bits of `v` (width `w`) that a table names, in the table's order. -/
def permute (w : Nat) (t : List Nat) (v : Nat) : Nat :=
  t.foldl (fun a i => 2 * a + v / 2 ^ (w - i) % 2) 0

def rows (starts : List Nat) (step : Nat → Nat → Nat) (n : Nat) : List Nat :=
  (starts.map fun s => (List.range n).map (step s)).flatten

/-- Initial permutation: rows 58, 60, 62, 64, 57, 59, 61, 63, each falling by 8. -/
def ipTable : List Nat := rows [58, 60, 62, 64, 57, 59, 61, 63] (fun s k => s - 8 * k) 8

/-- Final permutation: rows 40, 39 … 33: 40 8 48 16 56 24 64 32. -/
def fpTable : List Nat :=
  rows [0, 1, 2, 3, 4, 5, 6, 7] (fun s k => (if k % 2 = 0 then 40 else 8) + 8 * (k / 2) - s) 8

/-- Expansion: bits 32 1 2 3 4 5, 4 5 6 7 8 9, … -/
def eTable : List Nat := rows [0, 1, 2, 3, 4, 5, 6, 7] (fun s k => (4 * s + k + 31) % 32 + 1) 6

def pTable : List Nat :=
  [16, 7, 20, 21, 29, 12, 28, 17, 1, 15, 23, 26, 5, 18, 31, 10]
    ++ [2, 8, 24, 14, 32, 27, 3, 9, 19, 13, 30, 6, 22, 11, 4, 25]

def pc1Table : List Nat :=
  rows [57, 58, 59] (fun s k => s - 8 * k) 8 ++ [60, 52, 44, 36]
    ++ rows [63, 62, 61] (fun s k => s - 8 * k) 8 ++ [28, 20, 12, 4]

def pc2Table : List Nat :=
  [14, 17, 11, 24, 1, 5, 3, 28, 15, 6, 21, 10, 23, 19, 12, 4, 26, 8, 16, 7, 27, 20, 13, 2]
    ++ [41, 52, 31, 37, 47, 55, 30, 40, 51, 45, 33, 48, 44, 49, 39, 56, 34, 53, 46, 42, 50, 36, 29, 32]

/-- Selection functions S1 to S8: rows 0 to 3 of 16 values, one hexadecimal digit a value. -/
def sBoxes : List Nat :=
  [0xe4d12fb83a6c59070f74e2d1a6cb953841e8d62bfc973a50fc8249175b3ea06d,
   0xf18e6b34972dc05a3d47f28ec01a69b50e7ba4d158c6932fd8a13f42b67c05e9,
   0xa09e63f51dc7b428d709346a285ecbf1d6498f30b12c5ae71ad069874fe3b52c,
   0x7de3069a1285bc4fd8b56f03472c1ae9a690cb7df13e52843f06a1d8945bc72e,
   0x2c417ab6853fd0e9eb2c47d150fa3986421bad78f9c5630eb8c71e2d6f09a453,
   0xc1af92680d34e75baf427c9561de0b389ef528c3704a1db6432c95fabe17608d,
   0x4b2ef08d3c975a61d0b7491ae35c2f8614bdc37eaf6805926bd814a7950fe23c,
   0xd2846fb1a93e50c71fd8a374c56b0e927b419ce206adf35821e74a8dfc90356b]

/-- The value of a selection function for its six bits: bits 1 and 6 the row, bits 2 to 5 the column. -/
def sVal (box v : Nat) : Nat :=
  let row := 2 * (v / 32) + v % 2
  let col := v / 2 % 16
  box / 16 ^ (63 - (16 * row + col)) % 16

/-- The cipher function of a round. -/
def f (k r : Nat) : Nat :=
  let x := permute 32 eTable r ^^^ k
  let y := sBoxes.zipIdx.foldl (fun a (b, i) => 16 * a + sVal b (x / 64 ^ (7 - i) % 64)) 0
  permute 32 pTable y

def shifts : List Nat := [1, 1, 2, 2, 2, 2, 2, 2, 1, 2, 2, 2, 2, 2, 2, 1]

def rot28 (v n : Nat) : Nat := (v * 2 ^ n + v / 2 ^ (28 - n)) % 2 ^ 28

def subkeysAux : List Nat → Nat → Nat → List Nat
  | [], _, _ => []
  | n :: ns, c, d =>
    let c' := rot28 c n
    let d' := rot28 d n
    permute 56 pc2Table (c' * 2 ^ 28 + d') :: subkeysAux ns c' d'

/-- The sixteen round keys of an 8-byte key; its parity bits take no part. -/
def subkeys (key : Bytes) : List Nat :=
  let v := permute 64 pc1Table (beNat key)
  subkeysAux shifts (v / 2 ^ 28) (v % 2 ^ 28)

def rounds : List Nat → Nat → Nat → Nat
  | [], l, r => r * 2 ^ 32 + l
  | k :: ks, l, r => rounds ks r (l ^^^ f k r)

def crypt (ks : List Nat) (blk : Bytes) : Bytes :=
  let v := permute 64 ipTable (beNat blk)
  toBE 8 (permute 64 fpTable (rounds ks (v / 2 ^ 32) (v % 2 ^ 32)))

def desEnc (key blk : Bytes) : Bytes := crypt (subkeys key) blk
def desDec (key blk : Bytes) : Bytes := crypt (subkeys key).reverse blk

/-- The three DES keys of a 16-byte (2-key) or 24-byte (3-key) TDES key; an 8-byte key three times itself. -/
def parts (key : Bytes) : Bytes × Bytes × Bytes :=
  let k1 := key.take 8
  let k2 := if key.length ≤ 8 then k1 else slice key 8 8
  let k3 := if key.length ≤ 16 then k1 else slice key 16 8
  (k1, k2, k3)

/-- TDES: encipher, decipher, encipher. -/
def enc (key blk : Bytes) : Bytes :=
  let (a, b, c) := parts key
  desEnc c (desDec b (desEnc a blk))

def dec (key blk : Bytes) : Bytes :=
  let (a, b, c) := parts key
  desDec a (desEnc b (desDec c blk))

end Sys2Proof.Machine.Des
end

