-- ==== Sys2Proof/Machine/Sha2.lean ====
section
/-! DEFINITION. SHA-256, SHA-384, SHA-512 (FIPS 180-4) and HMAC (FIPS 198-1), which the spec uses by name: PRESUMED, from
the standards. -/

namespace Sys2Proof.Machine.Sha2

/-- Round constants of SHA-512, four a number; their high halves are those of SHA-256. -/
def kTable : List Nat :=
  [0x428a2f98d728ae227137449123ef65cdb5c0fbcfec4d3b2fe9b5dba58189dbbc,
   0x3956c25bf348b53859f111f1b605d019923f82a4af194f9bab1c5ed5da6d8118,
   0xd807aa98a303024212835b0145706fbe243185be4ee4b28c550c7dc3d5ffb4e2,
   0x72be5d74f27b896f80deb1fe3b1696b19bdc06a725c71235c19bf174cf692694,
   0xe49b69c19ef14ad2efbe4786384f25e30fc19dc68b8cd5b5240ca1cc77ac9c65,
   0x2de92c6f592b02754a7484aa6ea6e4835cb0a9dcbd41fbd476f988da831153b5,
   0x983e5152ee66dfaba831c66d2db43210b00327c898fb213fbf597fc7beef0ee4,
   0xc6e00bf33da88fc2d5a79147930aa72506ca6351e003826f142929670a0e6e70,
   0x27b70a8546d22ffc2e1b21385c26c9264d2c6dfc5ac42aed53380d139d95b3df,
   0x650a73548baf63de766a0abb3c77b2a881c2c92e47edaee692722c851482353b]
  ++ [0xa2bfe8a14cf10364a81a664bbc423001c24b8b70d0f89791c76c51a30654be30,
   0xd192e819d6ef5218d69906245565a910f40e35855771202a106aa07032bbd1b8,
   0x19a4c116b8d2d0c81e376c085141ab532748774cdf8eeb9934b0bcb5e19b48a8,
   0x391c0cb3c5c95a634ed8aa4ae3418acb5b9cca4f7763e373682e6ff3d6b2b8a3,
   0x748f82ee5defb2fc78a5636f43172f6084c87814a1f0ab728cc702081a6439ec,
   0x90befffa23631e28a4506cebde82bde9bef9a3f7b2c67915c67178f2e372532b,
   0xca273eceea26619cd186b8c721c0c207eada7dd6cde0eb1ef57d4f7fee6ed178,
   0x06f067aa72176fba0a637dc5a2c898a6113f9804bef90dae1b710b35131c471b,
   0x28db77f523047d8432caab7b40c724933c9ebe0a15c9bebc431d67c49c100d4c,
   0x4cc5d4becb3e42b6597f299cfc657e2a5fcb6fab3ad6faec6c44198c4a475817]

def hInit512 : Nat :=
  0x6a09e667f3bcc908bb67ae8584caa73b3c6ef372fe94f82ba54ff53a5f1d36f1510e527fade682d19b05688c2b3e6c1f1f83d9abfb41bd6b5be0cd19137e2179

def hInit384 : Nat :=
  0xcbbb9d5dc1059ed8629a292a367cd5079159015a3070dd17152fecd8f70e593967332667ffc00b318eb44a8768581511db0c2e0d64f98fa747b5481dbefa4fa4

/-- The eight or four 64-bit words of a number. -/
def words64 (n v : Nat) : List Nat := (List.range n).map fun i => v / 2 ^ (64 * (n - 1 - i)) % 2 ^ 64

def k512 : List (BitVec 64) := ((kTable.map (words64 4)).flatten).map (BitVec.ofNat 64)
def k256 : List (BitVec 32) := (((kTable.map (words64 4)).flatten).take 64).map fun v => BitVec.ofNat 32 (v / 2 ^ 32)
def h512 : List (BitVec 64) := (words64 8 hInit512).map (BitVec.ofNat 64)
def h384 : List (BitVec 64) := (words64 8 hInit384).map (BitVec.ofNat 64)
def h256 : List (BitVec 32) := (words64 8 hInit512).map fun v => BitVec.ofNat 32 (v / 2 ^ 32)

/-- Rotation and shift amounts of the four sigma functions. -/
structure Sig where
  s0 : Nat × Nat × Nat
  s1 : Nat × Nat × Nat
  e0 : Nat × Nat × Nat
  e1 : Nat × Nat × Nat

def sig256 : Sig := ⟨(7, 18, 3), (17, 19, 10), (2, 13, 22), (6, 11, 25)⟩
def sig512 : Sig := ⟨(1, 8, 7), (19, 61, 6), (28, 34, 39), (14, 18, 41)⟩

def small {w : Nat} (t : Nat × Nat × Nat) (x : BitVec w) : BitVec w :=
  x.rotateRight t.1 ^^^ x.rotateRight t.2.1 ^^^ (x >>> t.2.2)

def big {w : Nat} (t : Nat × Nat × Nat) (x : BitVec w) : BitVec w :=
  x.rotateRight t.1 ^^^ x.rotateRight t.2.1 ^^^ x.rotateRight t.2.2

/-- `n` more words of the message schedule; `w` the words so far, newest first. -/
def schedule {w : Nat} (g : Sig) : Nat → List (BitVec w) → List (BitVec w)
  | 0, ws => ws
  | n + 1, ws =>
    schedule g n ((small g.s1 (ws.getD 1 0) + ws.getD 6 0 + small g.s0 (ws.getD 14 0) + ws.getD 15 0) :: ws)

/-- One round on the eight working variables a to h. -/
def round {w : Nat} (g : Sig) (v : List (BitVec w)) (kw : BitVec w × BitVec w) : List (BitVec w) :=
  match v with
  | [a, b, c, d, e, f, x, h] =>
    let t1 := h + big g.e1 e + ((e &&& f) ^^^ (~~~e &&& x)) + kw.1 + kw.2
    let t2 := big g.e0 a + ((a &&& b) ^^^ (a &&& c) ^^^ (b &&& c))
    [t1 + t2, a, b, c, d + t1, e, f, x]
  | v => v

def compress {w : Nat} (g : Sig) (k : List (BitVec w)) (h : List (BitVec w)) (blk : Bytes) : List (BitVec w) :=
  let m := (chunks (w / 8) blk).map fun c => BitVec.ofNat w (beNat c)
  let ws := (schedule g (k.length - 16) m.reverse).reverse
  List.zipWith (fun x y => x + y) h ((k.zip ws).foldl (round g) h)

/-- The message with the standard's padding to blocks of `n` bytes, its bit length in `l` bytes. -/
def pad (n l : Nat) (m : Bytes) : Bytes :=
  m ++ [0x80] ++ zeros ((n - (m.length + 1 + l) % n) % n) ++ toBE l (8 * m.length)

def hashWith {w : Nat} (g : Sig) (k h : List (BitVec w)) (m : Bytes) : Bytes :=
  (((chunks (2 * w) (pad (2 * w) (w / 4) m)).foldl (compress g k) h).map fun x => toBE (w / 8) x.toNat).flatten

def sha256 (m : Bytes) : Bytes := hashWith sig256 k256 h256 m
def sha512 (m : Bytes) : Bytes := hashWith sig512 k512 h512 m
def sha384 (m : Bytes) : Bytes := (hashWith sig512 k512 h384 m).take 48

/-- HMAC over a hash of block length `b`. -/
def hmac (b : Nat) (hash : Bytes → Bytes) (key m : Bytes) : Bytes :=
  let k := padTo b (if b < key.length then hash key else key)
  hash (k.map (fun x => x ^^^ 0x5C) ++ hash (k.map (fun x => x ^^^ 0x36) ++ m))

end Sys2Proof.Machine.Sha2
end

