-- ==== Sys2Proof/Machine/Sha3.lean ====
section
/-! DEFINITION. SHA-3 and SHAKE (FIPS 202), KMAC (SP 800-185), which the spec uses by name: PRESUMED, from the standards. -/

namespace Sys2Proof.Machine.Sha3

/-- The 25 lanes, lane x + 5 y. -/
abbrev Lanes := List (BitVec 64)

def lane (s : Lanes) (x y : Nat) : BitVec 64 := s.getD (x % 5 + 5 * (y % 5)) 0

def theta (s : Lanes) : Lanes :=
  let c := (List.range 5).map fun x => lane s x 0 ^^^ lane s x 1 ^^^ lane s x 2 ^^^ lane s x 3 ^^^ lane s x 4
  let d := (List.range 5).map fun x => c.getD ((x + 4) % 5) 0 ^^^ (c.getD ((x + 1) % 5) 0).rotateLeft 1
  s.zipIdx.map fun (v, i) => v ^^^ d.getD (i % 5) 0

/-- Rotation of each lane, in the order x + 5 y. -/
def offsets : List Nat :=
  [0, 1, 62, 28, 27, 36, 44, 6, 55, 20, 3, 10, 43, 25, 39, 41, 45, 15, 21, 8, 18, 2, 61, 56, 14]

/-- Rho and pi together: lane (x, y) of the result is lane (x + 3 y, x), rotated by that lane's offset. -/
def rhoPi (s : Lanes) : Lanes :=
  (List.range 25).map fun i =>
    let x := i % 5
    let y := i / 5
    let j := (x + 3 * y) % 5 + 5 * x
    (s.getD j 0).rotateLeft (offsets.getD j 0)

def chi (s : Lanes) : Lanes :=
  (List.range 25).map fun i =>
    let x := i % 5
    let y := i / 5
    lane s x y ^^^ (~~~ lane s (x + 1) y &&& lane s (x + 2) y)

def roundConstants : List Nat :=
  [0x0000000000000001, 0x0000000000008082, 0x800000000000808A, 0x8000000080008000, 0x000000000000808B,
   0x0000000080000001, 0x8000000080008081, 0x8000000000008009, 0x000000000000008A, 0x0000000000000088,
   0x0000000080008009, 0x000000008000000A] ++
  [0x000000008000808B, 0x800000000000008B, 0x8000000000008089, 0x8000000000008003, 0x8000000000008002,
   0x8000000000000080, 0x000000000000800A, 0x800000008000000A, 0x8000000080008081, 0x8000000000008080,
   0x0000000080000001, 0x8000000080008008]

def iota (rc : Nat) : Lanes → Lanes
  | [] => []
  | v :: s => (v ^^^ BitVec.ofNat 64 rc) :: s

def permutation (s : Lanes) : Lanes :=
  roundConstants.foldl (fun s rc => iota rc (chi (rhoPi (theta s)))) s

def absorb (s : Lanes) (blk : Bytes) : Lanes :=
  let w := (chunks 8 blk).map fun c => BitVec.ofNat 64 (leNat c)
  permutation (s.zipIdx.map fun (v, i) => v ^^^ w.getD i 0)

def squeeze (rate : Nat) : Nat → Lanes → Bytes
  | 0, _ => []
  | n + 1, s => ((s.map fun v => toLE 8 v.toNat).flatten).take rate ++ squeeze rate n (permutation s)

/-- The sponge at a rate in bytes, with the domain byte that starts the padding. -/
def sponge (rate : Nat) (dom : Byte) (m : Bytes) (len : Nat) : Bytes :=
  let p := rate - m.length % rate
  let padding := if p = 1 then [dom ^^^ 0x80] else [dom] ++ zeros (p - 2) ++ [0x80]
  let s := (chunks rate (m ++ padding)).foldl absorb (List.replicate 25 0)
  (squeeze rate (len / rate + 1) s).take len

def sha3_256 (m : Bytes) : Bytes := sponge 136 0x06 m 32
def sha3_384 (m : Bytes) : Bytes := sponge 104 0x06 m 48
def sha3_512 (m : Bytes) : Bytes := sponge 72 0x06 m 64
def shake128 (m : Bytes) (len : Nat) : Bytes := sponge 168 0x1F m len
def shake256 (m : Bytes) (len : Nat) : Bytes := sponge 136 0x1F m len

/-- The bytes of a number without leading zero bytes, at least one. -/
def minBytes (v : Nat) : Bytes := toBE (if v < 256 then 1 else if v < 65536 then 2 else if v < 2 ^ 24 then 3 else 4) v

def leftEncode (v : Nat) : Bytes := let b := minBytes v; BitVec.ofNat 8 b.length :: b
def rightEncode (v : Nat) : Bytes := let b := minBytes v; b ++ [BitVec.ofNat 8 b.length]
def encodeString (b : Bytes) : Bytes := leftEncode (8 * b.length) ++ b

def bytepad (b : Bytes) (w : Nat) : Bytes :=
  let x := leftEncode w ++ b
  x ++ zeros ((w - x.length % w) % w)

/-- KMAC with customisation `c`, output of `len` bytes. -/
def kmac (rate : Nat) (key m : Bytes) (len : Nat) (c : Bytes) : Bytes :=
  sponge rate 0x04
    (bytepad (encodeString [0x4B, 0x4D, 0x41, 0x43] ++ encodeString c) rate
      ++ bytepad (encodeString key) rate ++ m ++ rightEncode (8 * len)) len

def kmac128 (key m : Bytes) (len : Nat) (c : Bytes) : Bytes := kmac 168 key m len c
def kmac256 (key m : Bytes) (len : Nat) (c : Bytes) : Bytes := kmac 136 key m len c

end Sys2Proof.Machine.Sha3
end

