-- ==== Sys2Proof/Machine/Crypto.lean ====
section
/-! DEFINITION. The constructions over the ciphers and hashes that the spec names: modes (R238 to R242), CMAC and the ISO 9797-1
MACs (R201, R228), hash and keyed-hash codes (R116), X9.143 key derivation (R159), DUKPT derivation (R208 to R214), FF1
(R252). What a standard fixes and the spec only names is PRESUMED from the standard (log entry 4). -/

namespace Sys2Proof.Machine

/-! ## Block ciphers by algorithm code (R116) -/

def tdesAlg (alg : Nat) : Bool := alg = 0x11 || alg = 0x12
def blockLen (tdes : Bool) : Nat := if tdes then 8 else 16
def blockEnc (tdes : Bool) (key blk : Bytes) : Bytes := if tdes then Des.enc key blk else Aes.enc key blk
def blockDec (tdes : Bool) (key blk : Bytes) : Bytes := if tdes then Des.dec key blk else Aes.dec key blk

/-- Key length that an algorithm code names (R116). -/
def algLen (alg : Nat) : Option Nat :=
  match alg with
  | 0x01 => some 16
  | 0x02 => some 24
  | 0x03 => some 32
  | 0x11 => some 16
  | 0x12 => some 24
  | _ => none

/-! ## CBC, CTR, XTS (R238 to R241) -/

/-- CBC encryption of whole blocks; the output and the last ciphertext block. -/
def cbcEnc (tdes : Bool) (key : Bytes) : List Bytes → Bytes → Bytes × Bytes
  | [], iv => ([], iv)
  | b :: bs, iv =>
    let c := blockEnc tdes key (xorB b iv)
    let (o, l) := cbcEnc tdes key bs c
    (c ++ o, l)

def cbcDec (tdes : Bool) (key : Bytes) : List Bytes → Bytes → Bytes × Bytes
  | [], iv => ([], iv)
  | b :: bs, iv =>
    let p := xorB (blockDec tdes key b) iv
    let (o, l) := cbcDec tdes key bs b
    (p ++ o, l)

/-- The counter block with its rightmost 32 bits increased by one, big-endian (R241). -/
def ctrInc (c : Bytes) : Bytes :=
  let n := c.length - 4
  c.take n ++ toBE 4 ((beNat (c.drop n) + 1) % 2 ^ 32)

/-- CTR over a text in blocks; the output and the next counter block. -/
def ctrCrypt (tdes : Bool) (key : Bytes) : List Bytes → Bytes → Bytes × Bytes
  | [], c => ([], c)
  | b :: bs, c =>
    let (o, l) := ctrCrypt tdes key bs (ctrInc c)
    (xorB b (blockEnc tdes key c) ++ o, l)

/-- The rightmost 32 bits of a counter block cannot carry over `n` blocks (R241). -/
def ctrFits (c : Bytes) (n : Nat) : Bool := decide (beNat (c.drop (c.length - 4)) + n ≤ 2 ^ 32)

/-- The tweak times α (SP 800-38E: little-endian). -/
def xtsNext (t : Bytes) : Bytes :=
  let v := 2 * leNat t
  toLE 16 (if v < 2 ^ 128 then v else (v - 2 ^ 128) ^^^ 0x87)

def xtsCrypt (enc : Bool) (key : Bytes) : List Bytes → Bytes → Bytes × Bytes
  | [], t => ([], t)
  | b :: bs, t =>
    let x := xorB b t
    let y := xorB (if enc then Aes.enc key x else Aes.dec key x) t
    let (o, l) := xtsCrypt enc key bs (xtsNext t)
    (y ++ o, l)

/-! ## GCM (R242) -/

/-- Product in GF(2^128) as SP 800-38D numbers bits. -/
def gf128 : Nat → BitVec 128 → BitVec 128 → BitVec 128 → BitVec 128
  | 0, _, _, z => z
  | n + 1, x, v, z =>
    let z := if x.getMsbD 0 then z ^^^ v else z
    let v := if v.getLsbD 0 then (v >>> 1) ^^^ (0xE1 <<< 120) else v >>> 1
    gf128 n (x <<< 1) v z

def ghash (h : Bytes) : List Bytes → Bytes → Bytes
  | [], y => y
  | b :: bs, y =>
    let x := BitVec.ofNat 128 (beNat (xorB y (padTo 16 b)))
    ghash h bs (toBE 16 (gf128 128 x (BitVec.ofNat 128 (beNat h)) 0).toNat)

/-- The tag from the accumulator, the lengths and E(K, J0). -/
def gcmTag (h y : Bytes) (aad text : Nat) (ej0 : Bytes) : Bytes :=
  xorB (ghash h [toBE 8 (8 * aad) ++ toBE 8 (8 * text)] y) ej0

/-- A whole message sealed: ciphertext and 16-byte tag. -/
def gcmSeal (key iv aad text : Bytes) : Bytes × Bytes :=
  let h := Aes.enc key (zeros 16)
  let j0 := iv ++ [0, 0, 0, 1]
  let (c, _) := ctrCrypt false key (chunks 16 text) (ctrInc j0)
  (c, gcmTag h (ghash h (chunks 16 c) (ghash h (chunks 16 aad) (zeros 16))) aad.length text.length (Aes.enc key j0))

/-- A sealed message opened: its text, and whether the tag matched. -/
def gcmOpen (key iv aad c tag : Bytes) : Bytes × Bool :=
  let h := Aes.enc key (zeros 16)
  let j0 := iv ++ [0, 0, 0, 1]
  let (t, _) := ctrCrypt false key (chunks 16 c) (ctrInc j0)
  let full := gcmTag h (ghash h (chunks 16 c) (ghash h (chunks 16 aad) (zeros 16))) aad.length c.length (Aes.enc key j0)
  (t, decide (full.take tag.length = tag))

/-! ## MACs (R121, R201, R228) -/

/-- Doubling of a CMAC subkey. -/
def cmacDouble (l : Bytes) : Bytes :=
  let n := l.length
  let v := 2 * beNat l
  toBE n (if v < 2 ^ (8 * n) then v else (v - 2 ^ (8 * n)) ^^^ (if n = 8 then 0x1B else 0x87))

def cbcMac (tdes : Bool) (key : Bytes) (blocks : List Bytes) (iv : Bytes) : Bytes :=
  blocks.foldl (fun y b => blockEnc tdes key (xorB y b)) iv

/-- CMAC (SP 800-38B). -/
def cmac (tdes : Bool) (key m : Bytes) : Bytes :=
  let n := blockLen tdes
  let k1 := cmacDouble (blockEnc tdes key (zeros n))
  let k2 := cmacDouble k1
  let full := m.length ≠ 0 ∧ m.length % n = 0
  let cut := if full then m.length - n else m.length - m.length % n
  let last := if full then xorB (m.drop cut) k1 else xorB (padTo n (m.drop cut ++ [0x80])) k2
  blockEnc tdes key (xorB (cbcMac tdes key (chunks n (m.take cut)) (zeros n)) last)

/-- ISO 9797-1 padding method 1 or 2 to 8-byte blocks. -/
def isoPad (method : Nat) (m : Bytes) : Bytes :=
  let p := if method = 2 then m ++ [0x80] else m
  p ++ zeros ((8 - p.length % 8) % 8) ++ (if p.length = 0 then zeros 8 else [])

/-- MAC algorithm 1: CBC-MAC with TDES. -/
def isoMac1 (key : Bytes) (method : Nat) (m : Bytes) : Bytes := cbcMac true key (chunks 8 (isoPad method m)) (zeros 8)

/-- MAC algorithm 3: single DES under the left key, then decipher under the right, encipher under the left (third) key. -/
def isoMac3 (key : Bytes) (method : Nat) (m : Bytes) : Bytes :=
  let (a, b, c) := Des.parts key
  let y := (chunks 8 (isoPad method m)).foldl (fun y x => Des.desEnc a (xorB y x)) (zeros 8)
  Des.desEnc c (Des.desDec b y)

/-- A MAC by the algorithm byte of R121. -/
def isoMac (alg method : Nat) (key m : Bytes) : Bytes :=
  if alg = 1 then isoMac1 key method m else if alg = 3 then isoMac3 key method m else cmac false key m

/-! ## Hash codes (R116, R254) -/

def hashLen (code : Nat) : Nat :=
  if code = 1 ∨ code = 4 then 32 else if code = 2 ∨ code = 5 then 48 else 64

def hashOf (code : Nat) (m : Bytes) (outLen : Nat) : Bytes :=
  match code with
  | 0x01 => Sha2.sha256 m
  | 0x02 => Sha2.sha384 m
  | 0x03 => Sha2.sha512 m
  | 0x04 => Sha3.sha3_256 m
  | 0x05 => Sha3.sha3_384 m
  | 0x06 => Sha3.sha3_512 m
  | 0x07 => Sha3.shake128 m outLen
  | 0x08 => Sha3.shake256 m outLen
  | _ => []

def sha384 (m : Bytes) : Bytes := Sha2.sha384 m

/-- HMAC by the code 0x11 to 0x13, KMAC by 0x21 and 0x22. -/
def keyedHash (code : Nat) (key m : Bytes) (outLen : Nat) (cust : Bytes) : Bytes :=
  match code with
  | 0x11 => Sha2.hmac 64 Sha2.sha256 key m
  | 0x12 => Sha2.hmac 128 Sha2.sha384 key m
  | 0x13 => Sha2.hmac 128 Sha2.sha512 key m
  | 0x21 => Sha3.kmac128 key m outLen cust
  | 0x22 => Sha3.kmac256 key m outLen cust
  | _ => []

/-- KMAC256 with an ASCII label, output in bytes (R147). -/
def kdf (key x : Bytes) (len : Nat) (label : String) : Bytes := Sha3.kmac256 key x len (ascii label)

/-- The key of PK_AGREE (R268): KMAC of the KDF code with the label KN-PKA. -/
def agreeKdf (code : Nat) (z ctx : Bytes) (len : Nat) : Bytes :=
  if code = 0x21 then Sha3.kmac128 z ctx len (ascii "KN-PKA") else Sha3.kmac256 z ctx len (ascii "KN-PKA")

/-! ## X9.143 version D (R159) -/

/-- The KBEK (usage 0) or KBAK (usage 1) of a KBPK: CMAC over counter, usage, separator, algorithm, length in bits. -/
def x9143Derive (kbpk : Bytes) (usage : Nat) : Bytes :=
  let n := kbpk.length
  let blk := fun i : Nat => [BitVec.ofNat 8 i, 0, BitVec.ofNat 8 usage, 0, 0, BitVec.ofNat 8 (n / 8)] ++ toBE 2 (8 * n)
  (cmac false kbpk (blk 1) ++ cmac false kbpk (blk 2)).take n

/-! ## DUKPT (R208 to R215) -/

/-- Derivation data of X9.24-3 for key usage `u`: version, block counter, usage, algorithm and length of the key, then 8 bytes. -/
def aesDukptDerive (k : Bytes) (u : Nat) (d : Bytes) : Bytes :=
  let n := k.length
  let blk := fun i : Nat =>
    [0x01, BitVec.ofNat 8 i] ++ toBE 2 u ++ [0, BitVec.ofNat 8 (n / 8)] ++ toBE 2 (8 * n) ++ padTo 8 d
  (Aes.enc k (blk 1) ++ Aes.enc k (blk 2)).take n

def c0Mask : Bytes := [0xC0, 0xC0, 0xC0, 0xC0, 0, 0, 0, 0, 0xC0, 0xC0, 0xC0, 0xC0, 0, 0, 0, 0]

/-- The non-reversible key generation of X9.24: key, the 8-byte register. -/
def tdesDukptStep (k reg : Bytes) : Bytes :=
  let f := fun kk : Bytes => xorB (Des.desEnc (kk.take 8) (xorB reg (kk.drop 8))) (kk.drop 8)
  f (xorB k c0Mask) ++ f k

/-- initial_key of R214. `id` is the initial key ID (AES) or the initial KSN (TDES). -/
def dukptInitial (tdes : Bool) (bdk id : Bytes) : Bytes :=
  if tdes then Des.enc bdk id ++ Des.enc (xorB bdk c0Mask) id
  else aesDukptDerive bdk 0x8001 id

/-- One derivation step with the running counter r (R214). -/
def dukptStep (tdes : Bool) (id k : Bytes) (r : Nat) : Bytes :=
  if tdes then tdesDukptStep k (toBE 8 (beNat (id.drop 2 ++ [0, 0]) + r))
  else aesDukptDerive k 0x8000 (id.drop 4 ++ toBE 4 r)

/-- walk of R214 from bit `n - 1` down: key, running counter. -/
def dukptWalkAux (tdes : Bool) (id : Bytes) (c : Nat) : Nat → Nat → Bytes → Bytes
  | 0, _, k => k
  | n + 1, r, k =>
    if c.testBit n ∧ ¬ r.testBit n then
      dukptWalkAux tdes id c n (r + 2 ^ n) (dukptStep tdes id k (r + 2 ^ n))
    else dukptWalkAux tdes id c n r k

def dukptWalk (tdes : Bool) (id k : Bytes) (a c : Nat) : Bytes :=
  dukptWalkAux tdes id c (if tdes then 21 else 32) a k

/-- Working key kinds of R213. -/
inductive DukptUse where
  | dataRequest
  | dataResponse
  | pin
  | macRequest
  | macResponse
  deriving DecidableEq, Repr

def DukptUse.aesUsage : DukptUse → Nat
  | .dataRequest => 0x3000
  | .dataResponse => 0x3001
  | .pin => 0x1000
  | .macRequest => 0x2000
  | .macResponse => 0x2001

/-- The byte of each half that the TDES variant inverts. -/
def DukptUse.variantByte : DukptUse → Nat
  | .dataRequest => 5
  | .dataResponse => 3
  | .pin => 7
  | .macRequest => 6
  | .macResponse => 4

/-- use_derive of R213, R214: the working key from the key for counter c. -/
def dukptWorking (tdes : Bool) (id k : Bytes) (u : DukptUse) (c : Nat) : Bytes :=
  if tdes then
    let half : Bytes := (List.range 8).map fun i => if i = u.variantByte then 0xFF else 0
    let v := xorB k (half ++ half)
    match u with
    | .dataRequest => Des.enc v (v.take 8) ++ Des.enc v (v.drop 8)
    | .dataResponse => Des.enc v (v.take 8) ++ Des.enc v (v.drop 8)
    | _ => v
  else aesDukptDerive k u.aesUsage (id.drop 4 ++ toBE 4 c)

/-! ## FF1 (R252) -/

def numRadix (radix : Nat) (x : List Nat) : Nat := x.foldl (fun a d => radix * a + d) 0

/-- `m` numerals of a number, most significant first. -/
def strRadix (radix : Nat) : Nat → Nat → List Nat
  | 0, _ => []
  | m + 1, v => strRadix radix m (v / radix) ++ [v % radix]

/-- Bytes that hold a number below radix^v. -/
def ff1B (radix v : Nat) : Nat := (Nat.log2 (radix ^ v - 1) + 1 + 7) / 8

def ff1P (radix u n t : Nat) : Bytes :=
  [1, 2, 1] ++ toBE 3 radix ++ [10, BitVec.ofNat 8 u] ++ toBE 4 n ++ toBE 4 t

/-- y of round i: the number from the PRF output, d bytes. -/
def ff1Y (key tweak : Bytes) (radix u n b i num : Nat) : Nat :=
  let d := 4 * ((b + 3) / 4) + 4
  let q := tweak ++ zeros ((16 - (tweak.length + b + 1) % 16) % 16) ++ [BitVec.ofNat 8 i] ++ toBE b num
  let r := cbcMac false key (chunks 16 (ff1P radix u n tweak.length ++ q)) (zeros 16)
  beNat (r.take d)

def ff1EncRounds (key tweak : Bytes) (radix u v n b : Nat) : Nat → Nat → List Nat → List Nat → List Nat
  | 0, _, a, bb => a ++ bb
  | f + 1, i, a, bb =>
    let m := if i % 2 = 0 then u else v
    let y := ff1Y key tweak radix u n b i (numRadix radix bb)
    ff1EncRounds key tweak radix u v n b f (i + 1) bb (strRadix radix m ((numRadix radix a + y) % radix ^ m))

def ff1DecRounds (key tweak : Bytes) (radix u v n b : Nat) : Nat → List Nat → List Nat → List Nat
  | 0, a, bb => a ++ bb
  | i + 1, a, bb =>
    let m := if i % 2 = 0 then u else v
    let y := ff1Y key tweak radix u n b i (numRadix radix a)
    ff1DecRounds key tweak radix u v n b i
      (strRadix radix m ((numRadix radix bb + (radix ^ m - y % radix ^ m)) % radix ^ m)) a

def ff1 (enc : Bool) (key tweak : Bytes) (radix : Nat) (x : List Nat) : List Nat :=
  let n := x.length
  let u := n / 2
  let v := n - u
  let b := ff1B radix v
  if enc then ff1EncRounds key tweak radix u v n b 10 0 (x.take u) (x.drop u)
  else ff1DecRounds key tweak radix u v n b 10 (x.take u) (x.drop u)

end Sys2Proof.Machine
end

