-- ==== Sys2Proof/Config.lean ====
section
/-! DEFINITION. What the spec leaves open, as constants without a body (log entries 3 and 4): the values drawn from the entropy
sources and DRBGs, the choice of a cache set, what an implementation fixes. A statement about them holds whatever they are. -/

namespace Sys2Proof.Config

/-- The n-th free byte: what a DRBG, an entropy source or an unstated value gives (R288, R290; log entry 3). -/
opaque freeByte : Nat → Byte

/-- The keyed hash that selects a cache set (R168, R217); the spec names no function. -/
opaque setHash : Bytes → Nat

/-- Miller–Rabin rounds for a prime of so many bits: a table of FIPS 186-5 that R277 names and does not print (log entry 117). -/
opaque primeRounds : Nat → Nat

/-- The bound of an RSA prime search, in candidates, for a modulus size (R278): the spec gives it as a time (log entry 117). -/
opaque primeBound : Nat → Nat

/-- The algorithm code of R116 of a private key whose stored form does not show its curve or parameter set: length, key (log entry 118). -/
opaque formAlg : Nat → Bytes → Nat

/-- The vendor certificate chain of the identity keys (R148). -/
opaque certChain : Bytes

/-- A certificate chain leads from the vendor root to a pair of identity keys: P-384 key, ML-DSA-87 key, chain (R404). -/
opaque chainOk : Bytes → Bytes → Bytes → Bool

/-- The Device Root Secret (R146). -/
opaque rootSecret : Bytes

/-- The MPU regions that every start programs (R64, R430 step 10), key 32 × initiator + region: base, limit, permission word; the spec gives
none (log entry 100). -/
opaque startBase : Nat → BitVec 40
opaque startLimit : Nat → BitVec 40
opaque startPerm : Nat → Word

/-- The vendor root keys that verify firmware images and vendor tokens: ML-DSA-87 and P-384 (R135, R380, R434). -/
opaque vendorMldsa : Bytes
opaque vendorP384 : Bytes

/-- Internal addresses of a core's private SRAM and of its LPDDR5X working set (R315); the spec gives none (log entry 15). -/
opaque sramBase : Nat → BitVec 40
opaque workBase : Nat → BitVec 40

/-- Internal address of the shared LPDDR5X region of the cores (R17, R315; log entry 15). -/
opaque sharedBase : BitVec 40

/-- The source of the event that a failed line MAC raises (R18); R470 names none (log entry 36). -/
opaque eccSource : BitVec 9

/-- The keyed integrity tag of a slot or line: check key, its number, what it covers (R297); the spec names no function. -/
opaque slotTag : BitVec 256 → Nat → Bytes → BitVec 64

/-- The SECDED bits of a 64-bit SRAM word (R297); the spec names no code. -/
opaque secded : BitVec 64 → Byte

end Sys2Proof.Config
end

