-- ==== Sys2Proof/Machine/Map.lean ====
section
/-! DEFINITION. Sparse maps: a list of key and value pairs with keys strictly rising and no entry equal to the
value an unlisted key has. Equal maps are then equal lists. -/

namespace Sys2Proof.Machine

/-- A sparse map from keys to values; the value `d` of an unlisted key is given at each use. -/
abbrev SMap (α : Type) := List (Nat × α)

/-- The value at a key. -/
def SMap.get {α : Type} (d : α) : SMap α → Nat → α
  | [], _ => d
  | (j, v) :: m, k => if j = k then v else SMap.get d m k

/-- The list with the entry of a key replaced or inserted in order. -/
def SMap.put {α : Type} : SMap α → Nat → α → SMap α
  | [], k, v => [(k, v)]
  | (j, w) :: m, k, v => if j < k then (j, w) :: SMap.put m k v else if j = k then (k, v) :: m else (k, v) :: (j, w) :: m

/-- The map with the value of a key replaced: no entry where it is `d`. -/
def SMap.set {α : Type} [DecidableEq α] (d : α) (m : SMap α) (k : Nat) (v : α) : SMap α :=
  if v = d then m.filter fun e => e.1 ≠ k else SMap.put m k v

/-- Keys strictly rising, no entry equal to `d`. -/
def SMap.wf {α : Type} [DecidableEq α] (d : α) : SMap α → Bool
  | [] => true
  | (j, w) :: m => (w ≠ d) && m.all (fun e => j < e.1) && SMap.wf d m

/-- A key's value changed by a function. -/
def SMap.upd {α : Type} [DecidableEq α] (d : α) (m : SMap α) (k : Nat) (f : α → α) : SMap α :=
  SMap.set d m k (f (SMap.get d m k))

/-- Every listed value changed by a function; an entry that comes to equal `d` is dropped. -/
def SMap.mapv {α : Type} [DecidableEq α] (d : α) (f : Nat → α → α) (m : SMap α) : SMap α :=
  m.filterMap fun e => if f e.1 e.2 = d then none else some (e.1, f e.1 e.2)

end Sys2Proof.Machine
end

