-- ==== Sys2Proof/Machine/State.lean ====
section
/-! DEFINITION. The state of the block as plain data, and the state after reset: the device as shipped (R3), main power just
applied, no start run yet; every register at the reset value of its table. A default field value below IS the
reset value; where the spec gives none, the log entry named in NOTES.md says so. -/

namespace Sys2Proof.Machine

/-- A committed RWI register and its stored inverse (R7 to R9). -/
structure Rwi where
  val : Word := 0
  inv : Word := 0xFFFFFFFF
  deriving DecidableEq, Repr

/-- A pending RWI write (R8): writer, register offset, what its selector named, value, CLK_SEC time of the write. -/
structure RwiPending where
  who : Who
  off : Nat
  sel : Nat
  value : Word
  start : Nat
  deriving DecidableEq, Repr

/-! ## Pitches (R32 to R63) -/

/-- R32. -/
inductive PitchState where
  | free
  | active
  | suspended
  | deleting
  deriving DecidableEq, Repr

/-- A host memory window (R48): base and size in pages, the four attribute bits. -/
structure Window where
  base : BitVec 64 := 0
  pages : Word := 0
  read : Bool := false
  write : Bool := false
  portA : Bool := false
  portB : Bool := false
  deriving DecidableEq, Repr

/-- A replay-filter entry (R423). -/
structure ReplayEntry where
  hostTag : Word
  opcode : BitVec 16
  status : BitVec 16
  csn : Nat
  deriving DecidableEq, Repr

/-- An export authorisation in force (R396): its duration in seconds and the exports left. -/
structure ExportAuth where
  seconds : Nat
  count : Nat
  deriving DecidableEq, Repr

/-- One pitch. -/
structure Pitch where
  state : PitchState := .free
  pers : BitVec 2 := 0
  inFlight : Nat := 0
  cfg : Rwi := {}
  quota : Nat := 0
  reserve : Nat := 0
  weight : Nat := 0
  kbcCap : Nat := 0
  dkcCap : Nat := 0
  /-- cache generation tag, R53 -/
  gen : BitVec 16 := 0
  live : List Window := []
  staged : List Window := []
  /-- number of window sets committed: which set an admission was checked under, R51 -/
  winSet : Nat := 0
  /-- step of the deletion sequence reached, R54; 0 outside DELETING -/
  delStep : Nat := 0
  roster : Option Roster := none
  /-- SHA-384 digest of the roster in the private store, R306 -/
  rosterDigest : Bytes := []
  /-- PMK table of 4 entries, R149 -/
  pmk : List (Option (BitVec 18)) := [none, none, none, none]
  ctxKey : Option Bytes := none
  ctxGen : BitVec 64 := 0
  exportAuth : Option ExportAuth := none
  replay : List ReplayEntry := []
  /-- DKC_REPLAY, R222 -/
  replayOn : Bool := false
  replayTol : BitVec 16 := 0
  highCsn : Nat := 0
  done : BitVec 64 := 0
  refused : BitVec 64 := 0
  /-- SQEs whose priority was capped, R44 -/
  capped : Nat := 0
  kbcHit : Word := 0
  kbcMiss : Word := 0
  kbcFail : Word := 0
  dkcHit : Word := 0
  dkcAnchor : Word := 0
  dkcMiss : Word := 0
  dkcReplay : Word := 0
  schDisp : Word := 0
  bindA : Option (BitVec 7) := none
  bindB : Option (BitVec 7) := none
  /-- RQE_BIND.fn_a and fn_b as written, R108 -/
  fnA : BitVec 7 := 0
  fnB : BitVec 7 := 0
  deriving DecidableEq, Repr

/-- Owner of a slot block as far as it differs from R45's pitch n for block n. -/
inductive BlockOwner where
  | home
  | other (p : BitVec 12)
  | unassigned
  deriving DecidableEq, Repr

/-- The PIT selectors and error register of one initiator (R58, R63). -/
structure PitSel where
  pitch : BitVec 12 := 0
  win : BitVec 3 := 0
  blk : BitVec 12 := 0
  errValid : Bool := false
  errCode : BitVec 4 := 0
  deriving DecidableEq, Repr

structure Pit where
  pitches : SMap Pitch := []
  blocks : SMap BlockOwner := []
  pers0 : Rwi := {}
  pers1 : Rwi := {}
  pers2 : Rwi := {}
  pers3 : Rwi := {}
  sel : SMap PitSel := []
  deriving DecidableEq, Repr

/-! ## Rings and ports (R69 to R108, R431) -/

/-- R102. -/
inductive SqState where
  | free
  | active
  | error
  | draining
  deriving DecidableEq, Repr

/-- What a create or a reset of an SQ was written with (R102, R108). -/
structure Opening where
  who : Who
  port : Port
  fn : BitVec 7
  reset : Bool := false
  base : BitVec 64 := 0
  db : BitVec 64 := 0
  log2 : BitVec 5 := 0
  pin : Bool := false
  busyRefuse : Bool := false
  deriving DecidableEq, Repr

structure Sq where
  state : SqState := .free
  port : Port := .a
  fn : BitVec 7 := 0
  base : BitVec 64 := 0
  log2 : BitVec 5 := 0
  db : BitVec 64 := 0
  pin : Bool := false
  busyRefuse : Bool := false
  /-- count of SQEs fetched, R81 -/
  consumed : Word := 0
  head : BitVec 16 := 0
  /-- seq published by the last consistent record -/
  published : Word := 0
  /-- seq of the last record read, for the hot rule of R83 -/
  lastSeq : Word := 0
  hot : Bool := false
  /-- sweeps without a change of seq, R83 -/
  quietSweeps : Nat := 0
  /-- consecutive failed reads of the record, R98 -/
  failed : Nat := 0
  /-- consecutive failed reads of SQEs, R98 -/
  failedSqe : Nat := 0
  lastEvent : BitVec 4 := 0
  /-- a fetched SQE with fence waits for the earlier ones, R91 -/
  fenced : Bool := false
  /-- SQEs requested whose data has not arrived: entries and credits reserved, R90 -/
  fetching : Nat := 0
  /-- the last turn ended for want of an entry or a credit: tried again at the next sweep, R90 -/
  blocked : Bool := false
  /-- SQEs fetched for refusal only (busy_refuse), with the outcome of R42 found before the fetch -/
  refusing : Option (BitVec 16) := none
  /-- admitted commands not yet written or discarded -/
  outstanding : Nat := 0
  /-- refused SQEs whose CQE is not written yet, for which a fence waits too, R91 -/
  refusedHeld : Nat := 0
  /-- a create or reset through REG_WRITE whose one record read is under way, R102 -/
  opening : Option Opening := none
  /-- first doorbell read after a transition to ACTIVE takes consumed := seq, R411 -/
  resync : Bool := false
  deriving DecidableEq, Repr

/-- R103. -/
inductive CqState where
  | free
  | active
  | orphan
  deriving DecidableEq, Repr

/-- One CQE (R93, R94) without its phase, which the slot it is written to decides (R95). -/
structure Cqe where
  hostTag : Word := 0
  status : BitVec 16 := 0
  ringEvent : Bool := false
  sqIndex : BitVec 2 := 0
  port : Port := .a
  resultDropped : Bool := false
  replayed : Bool := false
  csnValid : Bool := false
  resultLen : Word := 0
  sqHead : BitVec 16 := 0
  csn : Nat := 0
  inline : BitVec 64 := 0
  deriving DecidableEq, Repr

/-- A completion held (R78, R103, R415): the CQE, its result bytes and where they go, its interrupt flags,
the tracker entry. -/
structure HeldCqe where
  cqe : Cqe
  result : Bytes := []
  resultPtr : BitVec 64 := 0
  resultCap : Nat := 0
  /-- the windows in force at the command's admission, R51 -/
  windows : List Window := []
  irqNow : Bool := false
  irqNone : Bool := false
  entry : Option Nat := none
  /-- a credit reserved at the fetch of a refused SQE goes back at the write, R96 -/
  credit : Bool := false
  /-- held under STRICT: it stays held until its skim is acknowledged, R27 -/
  strict : Bool := false
  deriving DecidableEq, Repr

structure Cq where
  state : CqState := .free
  port : Port := .a
  fn : BitVec 7 := 0
  base : BitVec 64 := 0
  log2 : BitVec 5 := 0
  coalTime : BitVec 8 := 0
  coalCount : BitVec 8 := 0
  vector : BitVec 11 := 0
  index : Nat := 0
  pass : Nat := 0
  cqHead : Nat := 0
  /-- invalid cq_head value last read, R97 -/
  badHead : Option Nat := none
  lastEvent : BitVec 4 := 0
  unconsumed : Nat := 0
  reserved : Nat := 0
  pending : Nat := 0
  timer : Bool := false
  /-- CLK_SEC time at which it became ORPHAN -/
  orphanAt : Nat := 0
  held : List HeldCqe := []
  /-- CQEs of ring events that wait for a credit, R101 -/
  latched : List Cqe := []
  deriving DecidableEq, Repr

/-- The RQE selectors, staged ring registers and error register of one initiator or function (R108). -/
structure RqeSel where
  bindSel : BitVec 12 := 0
  fnSel : BitVec 8 := 0
  pitch : BitVec 12 := 0
  cq : Bool := false
  sqIndex : BitVec 2 := 0
  base : BitVec 64 := 0
  db : BitVec 64 := 0
  log2 : BitVec 5 := 0
  pin : Bool := false
  busyRefuse : Bool := false
  coalTime : BitVec 8 := 0
  coalCount : BitVec 8 := 0
  vector : BitVec 11 := 0
  errValid : Bool := false
  errCode : BitVec 4 := 0
  deriving DecidableEq, Repr

inductive FnState where
  | d0
  | d3hot
  | flr
  deriving DecidableEq, Repr

/-- One PCIe function. -/
structure Fn where
  state : FnState := .d0
  bme : Bool := false
  maxSq : Nat := 0x40
  /-- RQE_DROP_CNT0 to 7 -/
  drops : List Word := [0, 0, 0, 0, 0, 0, 0, 0]
  /-- vectors whose mask bit is clear -/
  unmasked : List Nat := []
  /-- vectors whose PBA bit is set -/
  pba : List Nat := []
  /-- configuration space (R69, R71): base addresses of BAR0 and BAR2, Device Control and Device Control 2, MSI-X enable and function
  mask, and of a PF the SR-IOV VF enable with NumVFs -/
  bar0 : BitVec 64 := 0
  bar2 : BitVec 64 := 0
  devCtl : BitVec 16 := 0x2000
  devCtl2 : BitVec 16 := 0
  msixEnable : Bool := false
  msixMask : Bool := false
  vfEnable : Bool := false
  numVfs : BitVec 7 := 0
  deriving DecidableEq, Repr

/-- What an SPDM connection keeps (R72): the transcript so far, and of a session its handshake secret and the secrets of the requester's and
the responder's direction (log entry 26). -/
structure SpdmKeys where
  transcript : Bytes := []
  handshake : Bytes := []
  req : Bytes := []
  rsp : Bytes := []
  deriving DecidableEq, Repr

/-- One port. SPDM: 0 idle, 1 version, 2 capabilities, 3 algorithms; session 0 none, 1 handshake, 2 secured. -/
structure PortState where
  linkUp : Bool := false
  perst : Bool := false
  dlDown : Bool := true
  retry : Bool := true
  /-- 0 not keyed, 1 Secure, 2 Insecure; stream 0 is the link stream, 1 to 4 selective, R69, R73 -/
  ide : List (BitVec 2) := [0, 0, 0, 0, 0]
  spdm : Nat := 0
  session : Nat := 0
  sessionKeyUpdates : Nat := 0
  keys : SpdmKeys := {}
  /-- AER status, bit k the k-th error of R74 -/
  aer : BitVec 9 := 0
  sweeping : Bool := false
  /-- extra sweep wanted by a wake, R84 -/
  wake : Bool := false
  sweeps : Nat := 0
  /-- the SQ that had the last turn, 4 × pitch + index, R90, R91 -/
  lastTurn : Nat := 0
  stretched : BitVec 16 := 0
  lastLines : BitVec 16 := 0
  deriving DecidableEq, Repr

structure Rqe where
  periodA : BitVec 8 := 2
  periodB : BitVec 8 := 2
  orphanMs : BitVec 14 := 0x7D0
  sqs : SMap Sq := []
  cqs : SMap Cq := []
  fns : SMap Fn := []
  sel : SMap RqeSel := []
  portA : PortState := {}
  portB : PortState := {}
  deriving DecidableEq, Repr

/-! ## Tracker (R42, R309, R319) -/

/-- Wrapping binding of a cache entry (R167). -/
inductive Binding where
  | slot (n : BitVec 18) (gen : Word)
  | entry (index : BitVec 22) (seq : BitVec 16)
  | none
  deriving DecidableEq, Repr

/-- A key that a command has captured (R166): stored form, attributes, tag, binding of keys that it wraps, the slot it came from, the
handle of its cache entry; too weak a KBPK (R160). -/
structure Captured where
  key : Bytes
  attrs : BitVec 128
  tag : KeyTag := {}
  binding : Binding := .none
  slot : Option Nat := none
  handle : Nat := 0
  weak : Bool := false
  deriving DecidableEq, Repr

/-- The H of a derivation-cache entry that DONE raises (R224): KSN type, terminal, BDK binding, counter. -/
structure HighMark where
  tdes : Bool
  id : Bytes
  binding : Binding
  ctr : Nat
  deriving DecidableEq, Repr

/-- What the checking engine of a signature computes with (R274): algorithm code (0x30 + set for ML-DSA), hash code, salt length or context,
private key, digest or message, signature. -/
structure SignCheck where
  alg : Nat
  hash : Nat
  extra : Bytes
  key : Bytes
  input : Bytes
  sig : Bytes
  deriving DecidableEq, Repr

/-- A key that an engine operation makes (R110, R167): its target slot, stored form, attributes, where it is cached. -/
structure NewKey where
  slot : Option (BitVec 18) := none
  key : Bytes
  attrs : BitVec 128
  tag : KeyTag := {}
  binding : Binding := .none
  mac : Bytes := []
  /-- its handle goes to inline_result, else before the result -/
  inInline : Bool := false
  deriving DecidableEq, Repr

/-- What a route C command has come to before its CQE is built (R262, R321). -/
structure Prepared where
  status : BitVec 16 := 0
  result : Bytes := []
  inline : BitVec 64 := 0
  needed : Nat := 0
  /-- engine operation to run: 0 none, 1 big-number, 2 lattice -/
  engine : Nat := 0
  /-- the signature is checked on a second engine, R273 -/
  check : Bool := false
  /-- how the second engine checks it, R274; none for the pairwise test of R277 -/
  method : Option SignCheck := none
  /-- the operation fills a long-operation register when handed over, R281 -/
  long : Bool := false
  /-- a key that the operation makes: it commits and is cached once the operation, and its check, have passed (R110, R277) -/
  gen : Option NewKey := none
  /-- the H that DONE raises, R224 -/
  high : Option HighMark := none
  /-- what the engine's operand memory holds while the operation runs, R263 -/
  operand : Bytes := []
  deriving DecidableEq, Repr

/-- Where an admitted command stands. -/
inductive Phase where
  | admitted
  | queued
  | bound (core : BitVec 5)
  | handed
  | held
  deriving DecidableEq, Repr

structure Entry where
  sqe : Bytes
  pitch : BitVec 12
  sq : BitVec 2
  port : Port
  /-- port of the CQ whose windows the result range was checked against, R88 -/
  resPort : Port := .a
  prio : BitVec 3
  winSet : Nat
  /-- the windows in force at its admission, R51 -/
  windows : List Window := []
  /-- the SQE carries fence and waits for the earlier ones of its SQ, R91 -/
  fence : Bool := false
  phase : Phase := .admitted
  csn : Option Nat := none
  /-- status decided, R309 -/
  decided : Option (BitVec 16) := none
  prepared : Option Prepared := none
  /-- waits for restoration of a slot, R301; true after a tag mismatch -/
  restore : Option (BitVec 18 × Bool) := none
  /-- waits for the completion of the same replay key, R424 -/
  replayWait : Bool := false
  /-- waits for a derivation walker, R220, and the key for high(c) handed over -/
  walker : Option Nat := none
  anchor : Option Bytes := none
  /-- keys captured before a wait, R166 -/
  captured : Option (List (Option Captured)) := none
  /-- result of the command on its CQ is discarded, R106 -/
  discard : Bool := false
  /-- CLK_SEC time at which it entered its queue, R326 -/
  queuedAt : Nat := 0
  /-- recipe context it holds, 64 × engine + context, from its grant until its CQE is built, R139 -/
  ctx : Option Nat := none
  /-- lane mode SINGLE, and PKE sign-check ON, as they stood when it was dispatched, R27 -/
  single : Bool := false
  signCheck : Bool := true
  deriving DecidableEq, Repr

/-! ## Cores, scheduler, recipes (R135 to R145, R315 to R330) -/

inductive CoreState where
  | off
  | loading
  | idle
  | busy
  | draining
  | failed
  deriving DecidableEq, Repr

structure Core where
  state : CoreState := .off
  mask : BitVec 4 := 0xF
  /-- mask that takes effect at the next dispatch-port load, R316 -/
  maskNext : BitVec 4 := 0xF
  entry : Option Nat := none
  /-- bound pitch: that of the last command dispatched, until the next load, R57 -/
  boundPitch : Option (BitVec 12) := none
  blocked : Bool := false
  /-- arrival order of the blocked load, R324 -/
  blockedAt : Nat := 0
  drain : Bool := false
  drainReturned : Bool := false
  fw : BitVec 16 := 0
  hrdOff : Word := 0
  hrdLen : BitVec 17 := 0
  hrdDst : BitVec 40 := 0
  hrdStatus : BitVec 3 := 0
  resSrc : BitVec 40 := 0
  resLen : BitVec 24 := 0
  inline : BitVec 64 := 0
  /-- an engine operation of the bound command was handed over, R262 -/
  handed : Bool := false
  /-- CMC_COMPLETE written since the last dispatch-port load, R330 -/
  completed : Bool := false
  /-- firmware scratch of the bound command, R319: word offset to value -/
  scratch : SMap Word := []
  deriving DecidableEq, Repr

/-- A priority queue (R323, R325): pitches in turn order, deficits, commands in admission order. -/
structure Queue where
  turn : List Nat := []
  /-- the head pitch has started its turn -/
  inTurn : Bool := false
  deficit : SMap Nat := []
  cmds : List Nat := []
  deriving DecidableEq, Repr

/-- Selectors of one initiator in SCH, CMC, KBC, DKC, LAN, PKE, LTC, ENT, KST, TMP (held separately, R172, R233, R259,
R294, R314, R326, R330, R372). -/
structure Sel where
  schQ : BitVec 5 := 0
  schCore : BitVec 5 := 0
  schPitch : BitVec 12 := 0
  cmcCore : BitVec 5 := 0
  kbcPitch : BitVec 12 := 0
  dkcPitch : BitVec 12 := 0
  lanGroup : BitVec 5 := 0
  pkeEng : BitVec 5 := 0
  ltcEng : BitVec 3 := 0
  entSrc : BitVec 2 := 0
  entDrbg : BitVec 4 := 0
  kstSlot : BitVec 18 := 0
  tmpBank : BitVec 2 := 0
  evcSrc : BitVec 10 := 0
  evcHsrc : BitVec 10 := 0
  dmaErrValid : Bool := false
  dmaErrCode : BitVec 4 := 0
  tlyNum : Word := 0
  tlyState : BitVec 2 := 0
  tlyData : Bytes := []
  deriving DecidableEq, Repr

/-- A recipe context (R138, R139): what it is tagged with while it is held (pitch, tracker entry, set bank), its 8 secret and 16 public
registers, and the steps that its command has executed. -/
structure Ctx where
  held : Option (BitVec 12 × Nat × Bool) := none
  secret : List (BitVec 256) := List.replicate 8 0
  pub : List (BitVec 64) := List.replicate 16 0
  steps : Nat := 0
  deriving DecidableEq, Repr

/-- A loaded recipe set (R135, R138). -/
structure Bank where
  recipes : List Recipe := []
  version : BitVec 16 := 0
  deriving DecidableEq, Repr

structure Sch where
  timeoutUs : BitVec 16 := 0x3E8
  ageMs : BitVec 8 := 0x32
  queues : SMap Queue := []
  /-- histogram counters, key 8 × queue + bucket -/
  hist : SMap Word := []
  /-- personality that follows the last one served at each priority, R324 -/
  lastServed : SMap Nat := []
  loads : Nat := 0
  entries : SMap (Option Entry) := []
  deriving DecidableEq, Repr

structure Cmc where
  cores : SMap Core := []
  updDone : Bool := false
  updFailed : Bool := false
  updRunning : Bool := false
  updCore : BitVec 5 := 0
  updRollback : Bool := false
  updImage : BitVec 16 := 0
  oldImage : BitVec 16 := 0
  errValid : Bool := false
  errCode : BitVec 4 := 0
  /-- recipe contexts, key 64 × engine + context -/
  ctxs : SMap Ctx := []
  bank0 : Bank := {}
  bank1 : Bank := {}
  activeBank : Bool := false
  twinValid : Bool := false
  twinA : BitVec 7 := 0
  twinB : BitVec 7 := 0
  twinCount : BitVec 16 := 0
  deriving DecidableEq, Repr

/-! ## DMA, mailboxes, MPU (R64 to R68, R331 to R346) -/

/-- A descriptor as fetched (R332). -/
structure Descriptor where
  src : BitVec 64
  dst : BitVec 64
  srcLen : BitVec 32
  dstLen : BitVec 32
  srcStride : BitVec 32
  dstStride : BitVec 32
  srcLines : BitVec 16
  dstLines : BitVec 16
  control : BitVec 32
  next : BitVec 64
  deriving DecidableEq, Repr

structure Channel where
  desc : BitVec 40 := 0
  cur : BitVec 40 := 0
  retries : BitVec 3 := 3
  abortMode : Bool := false
  priority : BitVec 2 := 0
  /-- 0 idle, 1 running, 2 barrier wait, 3 halted -/
  state : BitVec 2 := 0
  code : BitVec 4 := 0
  completed : BitVec 16 := 0
  residue : Word := 0
  d : Option Descriptor := none
  /-- bytes read and not yet written, and counts of bytes read and written of the descriptor -/
  buffer : Bytes := []
  nread : Nat := 0
  nwritten : Nat := 0
  left : Nat := 0
  retrying : Bool := false
  /-- failed tries of the burst, R337 -/
  tries : Nat := 0
  haltWanted : Bool := false
  owner : BitVec 6 := 0
  priv : Priv := .m
  /-- the current descriptor has come to its end with this code, its write-back not yet made -/
  ended : Option (BitVec 4) := none
  deriving DecidableEq, Repr

structure Mailbox where
  owner : BitVec 6 := 0
  db : Word := 0
  mask : Word := 0
  ackValid : Bool := false
  ack : BitVec 16 := 0
  compat : Bool := false
  /-- compat bit that the next lock acquisition applies, R395 -/
  compatNext : Option Bool := none
  sideA : BitVec 7 := 0
  sideB : BitVec 7 := 0
  turn : Bool := false
  msg : SMap Word := []
  deriving DecidableEq, Repr

/-- MBX_ERR of one initiator for one mailbox (R346). -/
structure MbxErr where
  valid : Bool := false
  code : BitVec 4 := 0
  deriving DecidableEq, Repr

structure Region where
  base : BitVec 40 := 0
  limit : BitVec 40 := 0
  perm : Rwi := {}
  deriving DecidableEq, Repr

structure Mpu where
  selIni : BitVec 6 := 1
  selRgn : BitVec 5 := 0
  /-- key 32 × initiator + region -/
  regions : SMap Region := []
  gen : BitVec 16 := 0
  barrierTimeout : Bool := false
  /-- posted accesses not yet completed: initiator and the number of commits before their check -/
  outstanding : List (BitVec 6 × Nat) := []
  commits : Nat := 0
  stalled : List (BitVec 6) := []
  faultValid : Bool := false
  faultMore : BitVec 8 := 0
  faultCause : BitVec 4 := 0
  faultIni : BitVec 6 := 0
  faultPriv : BitVec 2 := 0
  faultType : BitVec 3 := 0
  faultAddr : BitVec 40 := 0
  errValid : Bool := false
  errCode : BitVec 4 := 0
  deriving DecidableEq, Repr

/-! ## Keys, caches, engines (R146 to R314) -/

/-- A key-store slot (R295 to R297), as the key-store port shows it unmasked; its 64 stored bytes are `State.cell` of Cells.lean. -/
structure Slot where
  key : Bytes := []
  attrs : BitVec 128 := 0
  gen : Word := 0
  tag : KeyTag := {}
  deriving DecidableEq, Repr

/-- A key-block cache entry (R167). -/
structure KbcEntry where
  valid : Bool := false
  gen : BitVec 16 := 0
  seq : BitVec 16 := 0
  mac : Bytes := []
  binding : Binding := .none
  attrs : BitVec 128 := 0
  tag : KeyTag := {}
  key : Bytes := []
  ref : Bool := false
  /-- its KBPK is too weak for it, R160 -/
  weak : Bool := false
  deriving DecidableEq, Repr

/-- A derivation cache entry (R216). -/
structure DkcEntry where
  valid : Bool := false
  tdes : Bool := false
  ref : Bool := false
  gen : BitVec 16 := 0
  binding : Binding := .none
  anchor : Nat := 0
  id : Bytes := []
  high : Nat := 0
  key : Bytes := []
  deriving DecidableEq, Repr

/-- A derivation walker at work (R218, R220). -/
structure Walker where
  entry : Nat
  pitch : BitVec 12
  tdes : Bool
  binding : Binding
  id : Bytes
  anchor : Nat
  key : Bytes
  /-- pitch generation at the lookup -/
  gen : BitVec 16
  /-- 0 nothing is stored, 1 rewrites the entry that it found, 2 fills a way -/
  mode : BitVec 2
  deriving DecidableEq, Repr

structure Caches where
  /-- key pitch × 2^22 + index -/
  kbc : SMap KbcEntry := []
  kbcEpoch : BitVec 22 := 0
  kbcHand : SMap Nat := []
  kbcSweeping : Bool := false
  /-- key pitch × 2^23 + index -/
  dkc : SMap DkcEntry := []
  dkcHand : SMap Nat := []
  dkcSweeping : Bool := false
  walker0 : Option Walker := none
  walker1 : Option Walker := none
  /-- commands that wait for a walker, in the order of their arrival, R220 -/
  walkQueue : List Nat := []
  /-- pitches whose deletion or share change waits for a sweep: pitch, and which caches are still swept -/
  sweeps : List (BitVec 12 × Bool × Bool) := []
  deriving DecidableEq, Repr

/-- A big-number or lattice engine (R294): state 0 idle, 1 operation, 2 check; the states of an engine that holds no work follow from
the BIST and the governor. Lane groups and hash units are held within one command only (log entry 22). -/
structure FuncUnit where
  state : BitVec 3 := 0
  pitch : BitVec 12 := 0
  entry : Option Nat := none
  checks : Option Nat := none
  /-- the result port is closed behind a sign-check -/
  behind : Bool := false
  longValid : Bool := false
  longPitch : BitVec 12 := 0
  longOpcode : BitVec 16 := 0
  longTag : Word := 0
  core : Option (BitVec 5) := none
  /-- its operation was handed over, R262 -/
  handover : Bool := false
  /-- operand memory: what the last operation left there, R263, R264 -/
  operand : Bytes := []
  deriving DecidableEq, Repr

/-- A waiting engine request (R261). -/
structure EngReq where
  lattice : Bool
  check : Option Nat
  prio : Nat
  core : Option (BitVec 5)
  entry : Nat
  handover : Bool
  deriving DecidableEq, Repr

structure EntSource where
  /-- 0 OFF, 1 STARTUP, 2 HEALTHY, 3 FAILED, 4 DISABLED -/
  state : BitVec 3 := 0
  startupFails : BitVec 8 := 0
  aptFails : BitVec 8 := 0
  rctFails : BitVec 8 := 0
  /-- operating seconds of the failures, R287 -/
  failures : List Nat := []
  deriving DecidableEq, Repr

structure Drbg where
  /-- 0 uninstantiated, 1 ready, 2 error -/
  state : BitVec 2 := 0
  kat : Bool := false
  since : Nat := 0
  reseeds : Word := 0
  waiting : Bool := false
  /-- the first of the two seed blocks of an instantiation, R288 -/
  block : Option Bytes := none
  /-- Key and V of CTR_DRBG, R288 -/
  key : BitVec 256 := 0
  v : BitVec 128 := 0
  deriving DecidableEq, Repr

structure Units where
  lanCap : BitVec 5 := 0x18
  heldFail : Word := 0
  pke : SMap FuncUnit := []
  pkeFailValid : Bool := false
  pkeFailSign : BitVec 5 := 0
  pkeFailCheck : BitVec 5 := 0
  pkeFailCount : BitVec 16 := 0
  ltc : SMap FuncUnit := []
  ltcFailValid : Bool := false
  ltcFailSign : BitVec 3 := 0
  ltcFailCheck : BitVec 3 := 0
  ltcFailCount : BitVec 16 := 0
  reqs : List EngReq := []
  sources : SMap EntSource := []
  drbgs : SMap Drbg := []
  /-- seed blocks at hand, oldest first, R286 -/
  seedBlocks : List Bytes := []
  aptCutoff : BitVec 10 := 0x320
  rctCutoff : BitVec 6 := 0x29
  deriving DecidableEq, Repr

/-- A sealed-store record (R311): its object and what it holds. -/
inductive Sealed where
  | slot (n : BitVec 18) (v : Slot)
  | counter (n : BitVec 18) (v : Slot)
  | pmk (p : BitVec 12) (t : List (Option (BitVec 18)))
  | contextKey (p : BitVec 12) (key : Option Bytes) (gen : BitVec 64)
  | bond (key : Option Bytes)
  | pitch (p : BitVec 12) (v : Pitch)
  | block (n : BitVec 12) (o : BlockOwner)
  | roster (target : BitVec 16) (r : Option Roster)
  deriving DecidableEq, Repr

/-- A journal record: its CSN and content, and once it is sealed its IV (R311). -/
structure JRec where
  csn : Nat
  what : Sealed
  iv : Bytes := []
  deriving DecidableEq, Repr

/-- Seeds and check key under which the cells of the key store and of the house private store stand (R297, R298, R306). -/
structure CellKeys where
  new : BitVec 256 := 0
  old : BitVec 256 := 0
  houseNew : BitVec 256 := 0
  houseOld : BitVec 256 := 0
  check : BitVec 256 := 0
  deriving DecidableEq, Repr

/-- The sealed store of one flash (R148, R311): header, records, and the values the spec keeps there. -/
structure Flash where
  /-- area header in clear: the identity fingerprint, R148, R380 -/
  header : Option Bytes := none
  records : List JRec := []
  minVersion : BitVec 16 := 0
  minRecipe : BitVec 16 := 0
  churn : BitVec 2 := 1
  parMode : Bool := false
  parEpoch : BitVec 7 := 0xA
  parLeap : BitVec 6 := 0x14
  parCfg : Word := 0x00064044
  calibrated : BitVec 4 := 0
  envelope : Bool := false
  holdup : BitVec 8 := 0
  classes : BitVec 96 := 0
  deriving DecidableEq, Repr

structure Kst where
  slots : SMap Slot := []
  /-- lines of LPDDR5X can be deciphered; false from the erase line to the restart, R308 -/
  readable : Bool := true
  /-- the cells are all zero: until the store is loaded, and from the overwrite on, R308, R313 -/
  cleared : Bool := true
  /-- after the erase line, what the cells still stand under, which no flop holds any more, R308 -/
  residue : Option CellKeys := none
  epoch : Word := 0
  seedNew : BitVec 256 := 0
  seedOld : BitVec 256 := 0
  houseNew : BitVec 256 := 0
  houseOld : BitVec 256 := 0
  checkKey : BitVec 256 := 0
  memKey : BitVec 512 := 0
  dsk : Option Bytes := none
  identity : Bool := false
  churnPeriod : Rwi := ⟨1, 0xFFFFFFFE⟩
  lagging : Bool := false
  paused : Bool := false
  boundary : Nat := 0
  /-- slot whose re-mask waits for its restoration, and whether its tag was wrong, R301, R302 -/
  restoring : Option (BitVec 18 × Bool) := none
  /-- churn period of the sweep in progress, R27 -/
  sweepPeriod : BitVec 2 := 1
  line : Bool := false
  phase : BitVec 3 := 0
  overwriteOk : Bool := false
  eraseMap : BitVec 48 := 0
  eraseCmd : Rwi := {}
  corrected : BitVec 16 := 0
  restored : BitVec 8 := 0
  tagFail : BitVec 8 := 0
  journal : List JRec := []
  /-- journal write to the flashes in progress: its records -/
  writing : List JRec := []
  lastCsn : Nat := 0
  flash0 : Flash := {}
  flash1 : Flash := {}
  /-- the sealed store is open -/
  opened : Bool := false
  /-- leap of the last takeover, R418, and the counter slots that took it -/
  leap : Nat := 0
  leaped : List Nat := []
  /-- bond key behind the fingerprint of its peer, R404 -/
  bond : Option Bytes := none
  deriving DecidableEq, Repr

/-! ## Tamper, battery domain, fuses (R347 to R402) -/

/-- An open qualification window (R360); `opener` is the source that opened it. -/
structure QWindow where
  sources : BitVec 48
  cls : BitVec 2
  opener : BitVec 6 := 0
  deriving DecidableEq, Repr

structure Tmp where
  hold : Bool := false
  window : Option QWindow := none
  /-- the erase record carries this window, R360 -/
  eraseWindow : Bool := false
  handover : Bool := false
  lastValid : Bool := false
  lastClass : BitVec 2 := 0
  windows : BitVec 16 := 0
  class0 : Rwi := {}
  class1 : Rwi := {}
  class2 : Rwi := {}
  latch : BitVec 48 := 0
  disabled : BitVec 48 := 0
  holdCfg : Rwi := ⟨0xA, 0xFFFFFFF5⟩
  /-- conditions that hold now (level sources) -/
  active : BitVec 48 := 0
  /-- HOLD sources in force -/
  inForce : BitVec 48 := 0
  /-- release_ms runs -/
  releasing : BitVec 48 := 0
  /-- sources that raised the erase line and have not re-armed, R362 -/
  disarmed : BitVec 48 := 0
  copied : BitVec 5 := 0
  copiedOverflow : BitVec 16 := 0
  temp0 : BitVec 8 := 0
  temp1 : BitVec 8 := 0
  tempb : BitVec 8 := 0
  /-- consecutive samples beyond a limit, key source 0 to 6 (6 and 7: the two sensors at the warning level) -/
  tempRuns : SMap Nat := []
  tempLimit : Rwi := ⟨0x7DCE, 0xFFFF8231⟩
  encCfg : Rwi := ⟨0x00080000, 0xFFF7FFFF⟩
  encLevel : BitVec 8 := 0
  encRuns : SMap Nat := []
  emeshCfg : Rwi := {}
  emeshMiss0 : BitVec 16 := 0
  emeshMiss1 : BitVec 16 := 0
  /-- consecutive mismatches, key net 0 to 5 -/
  meshRuns : SMap Nat := []
  deriving DecidableEq, Repr

/-- A battery tally record (R370). -/
structure BatRec where
  seconds : Word
  ticks : BitVec 16
  sources : BitVec 16
  cls : Byte
  celsius : Byte
  number : BitVec 16
  millivolt : Word
  deriving DecidableEq, Repr

/-- The battery domain's configuration copy (R364). -/
structure BatCopy where
  classes : BitVec 96
  disabled : BitVec 48
  tempLimit : Word
  encCfg : Word
  emeshCfg : Word
  holdCfg : Word
  deriving DecidableEq, Repr

structure Bat where
  vbat : Bool := false
  low : Bool := false
  seed : Option (BitVec 256) := none
  latch : Bool := false
  latchSource : BitVec 4 := 0
  count : BitVec 8 := 0
  copy : Option BatCopy := none
  tally : List BatRec := []
  number : BitVec 16 := 0
  overflow : BitVec 16 := 0
  seconds : Word := 0
  alarm : Bool := false
  ladder : BitVec 3 := 0
  failedStep : BitVec 4 := 0
  failures : BitVec 16 := 0
  /-- failures and their steps since the last READY, for the record of R436 -/
  sinceReady : List Nat := []
  deriving DecidableEq, Repr

/-- One OWNER_HASH slot (R393). -/
structure OwnerSlot where
  burned : Bool := false
  revoked : Bool := false
  hash : Bytes := []
  deriving DecidableEq, Repr

/-- What remains of a lifecycle burn (R378, R379, R383). -/
inductive BurnStep where
  | classFuses
  | bit (n : Nat)
  | scrapFuses
  | finish
  deriving DecidableEq, Repr

structure Fuses where
  lcsT : BitVec 5 := 0x3
  lcsC : BitVec 5 := 0x1C
  /-- class fuses, two a source -/
  cls : BitVec 96 := 0
  disable : BitVec 48 := 0
  owner0 : OwnerSlot := {}
  owner1 : OwnerSlot := {}
  repairs : Nat := 0
  /-- regions retired whose spare mapping is fused, R452 -/
  mapped : List Nat := []
  certWritten : Bool := true
  drs : Bool := true
  /-- every fuse of R383 is blown -/
  scrapped : Bool := false
  deriving DecidableEq, Repr

structure Lcs where
  fuses : Fuses := {}
  phase : BitVec 3 := 0
  precheck : BitVec 8 := 0
  scrapLeft : BitVec 16 := 0
  plan : List BurnStep := []
  target : BitVec 4 := 0
  /-- CLK_SEC time at which the transition began -/
  burnAt : Nat := 0
  holdup : BitVec 8 := 0
  sensed : Bool := false
  shadowFault : Bool := false
  group : BitVec 3 := 0
  burns : BitVec 16 := 0
  repairIgnored : BitVec 10 := 0
  burnState : BitVec 2 := 0
  burnGroup : BitVec 3 := 0
  pulses : BitVec 8 := 0
  deriving DecidableEq, Repr

/-! ## Ownership and messages (R385 to R400) -/

/-- OWN registers of one candidate (R400). -/
structure Candidate where
  nonce : Bytes := []
  status : BitVec 2 := 0
  code : BitVec 4 := 0
  claim : SMap Byte := []
  deriving DecidableEq, Repr

/-- A ceremony nonce (R390): value, owner, roster, decapsulation seed of its key. -/
structure Ceremony where
  nonce : Bytes
  owner : Who
  target : BitVec 16
  seed : Bytes
  deriving DecidableEq, Repr

structure Own where
  state : BitVec 2 := 0
  owner : BitVec 6 := 0
  target : BitVec 6 := 0
  /-- OWN_HANDOVER.target as last written -/
  written : BitVec 6 := 0
  epoch : BitVec 8 := 0
  candidates : SMap Candidate := []
  /-- claims waiting for verification, oldest first, as they stood when go was written -/
  claims : List (BitVec 6 × Bytes) := []
  i3cSilent : Bool := true
  ceremonies : List Ceremony := []
  houseRoster : Option Roster := none
  /-- public key of the owner credential, as the accepted claim carried it, R393 -/
  key : Bytes := []
  /-- the owner-signed house roster record in flash and its version, R392 -/
  houseRecord : Option Roster := none
  houseVersion : Word := 0
  /-- message in assembly on mailbox 0: index expected and body so far -/
  fragment : Option (BitVec 16 × Bytes) := none
  deriving DecidableEq, Repr

/-! ## Pair (R403 to R428) -/

inductive Role where
  | single
  | waiting
  | syncing
  | standby
  | active
  | solo
  | yielding
  | released
  deriving DecidableEq, Repr

structure Par where
  role : Role := .waiting
  claim : Bool := false
  grant : Bool := false
  peerClaim : Bool := false
  linkUp : Bool := false
  width : BitVec 2 := 0
  takeovers : BitVec 4 := 0
  /-- PAR_MODE as written; in force from the next epoch, R27 -/
  relaxed : Bool := false
  relaxedInForce : Bool := false
  epochUs : BitVec 7 := 0xA
  leapLog2 : BitVec 6 := 0x14
  drainUs : BitVec 10 := 0x64
  fence : Bool := false
  degradedOk : Bool := false
  soloMs : BitVec 4 := 2
  ackTimeout : BitVec 5 := 4
  standbyLost : Bool := false
  soloWait : Bool := false
  /-- number of the open epoch, records gathered in it -/
  epoch : Nat := 0
  records : List SkimRecord := []
  /-- skims sent and not acknowledged: epoch and highest CSN -/
  unacked : List (Nat × Nat) := []
  ackedCsn : Nat := 0
  /-- last epoch sent or applied -/
  lastEpoch : Nat := 0
  peerRole : BitVec 3 := 0
  peerFlags : Byte := 0
  errValid : Bool := false
  errCode : BitVec 4 := 0
  tagFailures : Nat := 0
  takeoverFlag : Bool := false
  yieldRefused : Bool := false
  yielded : Bool := false
  /-- 0 none, 1 draining, 2 final skim sent -/
  yieldStep : Nat := 0
  /-- the last skim applied carried a type 11 record, R420 -/
  lastYield : Bool := false
  /-- grant qualified: 1 waits for the peer claim, R420 -/
  takeStep : Nat := 0
  stuck : Bool := false
  rstLow : Bool := false
  hbSeq : BitVec 16 := 0
  offer : Option BondOffer := none
  ownOffer : Option BondOffer := none
  ownShared : Bytes := []
  ownResponse : Bytes := []
  /-- decapsulation seed and P-384 scalar of the own offer -/
  ownSeeds : Bytes := []
  /-- nonces of this link-up, R405 -/
  nonceOwn : Bytes := []
  noncePeer : Bytes := []
  session : Option Bytes := none
  frames : Nat := 0
  peerFrames : Nat := 0
  /-- a resync is being sent or received, R417 -/
  resyncing : Bool := false
  /-- skims that wait for the end of the resync -/
  skimQueue : List Skim := []
  /-- the resync is applied, and one skim is awaited, R407 -/
  loadedSync : Bool := false
  deriving DecidableEq, Repr

/-! ## Start, supplies, self-test (R429 to R457) -/

structure Glb where
  /-- READY as far as the start sets it; GLB_STATUS.READY also needs no HOLD and no long Quiet state -/
  startDone : Bool := false
  minimal : Bool := false
  startType : BitVec 2 := 0
  step : BitVec 4 := 0
  /-- CLK_SEC time of the POR release -/
  startAt : Nat := 0
  image : Bool := false
  gpioDir : BitVec 16 := 0
  gpioOut : BitVec 16 := 0
  gpioIn : BitVec 16 := 0
  /-- image slots A and B, and which one is preferred, in each flash -/
  slotA0 : Option Image := none
  slotA1 : Option Image := none
  slotB0 : Option Image := none
  slotB1 : Option Image := none
  preferB : Bool := false
  staged : Option Image := none
  minVersion : BitVec 16 := 0
  /-- minimum security version of recipe sets, R137 -/
  minRecipe : BitVec 16 := 0
  /-- the recipe set that the accepted image delivers, R135, R137 -/
  recipes : Option RecipeSet := none
  deriving DecidableEq, Repr

structure Pwr where
  bounded : Bool := false
  /-- envelope that the units in service follow -/
  inForceBounded : Bool := false
  band : BitVec 2 := 0
  calibrated : BitVec 4 := 0
  throttling : Bool := false
  powerMw : BitVec 16 := 0
  /-- samples in a row 0.3 W below the band's lower edge, R445 -/
  lowSamples : Nat := 0
  calState : BitVec 2 := 0
  calBand : BitVec 2 := 0
  calCode : BitVec 4 := 0
  quiet : Bool := false
  /-- READY cleared after 1 ms of the Quiet state -/
  quietLong : Bool := false
  warned : BitVec 9 := 0
  down : BitVec 9 := 0
  pwrfail : Bool := false
  lowest : BitVec 16 := 0
  /-- CLK_SEC time at which the Quiet state began, R440 -/
  quietAt : Nat := 0
  dipCount : BitVec 16 := 0
  dipMin : BitVec 16 := 0
  deriving DecidableEq, Repr

structure Bst where
  rotation : BitVec 12 := 0x258
  next : BitVec 7 := 0
  /-- regions wanted, and regions in their BIST -/
  wanted : List Nat := []
  out : List Nat := []
  retired : List Nat := []
  failValid : Bool := false
  failRegion : BitVec 7 := 0
  failures : BitVec 8 := 0
  applied : BitVec 16 := 0
  pending : BitVec 16 := 0
  /-- regions of passes triggered by a mismatch or a sign-check failure, with the source that waits -/
  triggered : List (Nat × Nat) := []
  /-- operating seconds of passed triggered passes by region, R453 -/
  passes : List (Nat × Nat) := []
  /-- operating seconds of the last start-time logic BIST, R432 -/
  lastBist : Nat := 0
  deriving DecidableEq, Repr

/-! ## Tally and events (R458 to R475) -/

structure TallyRec where
  number : Word
  code : BitVec 16
  actor : BitVec 6
  event : BitVec 10
  csn : Nat
  own : Bool
  seconds : Nat
  cycles : Nat
  headCopy : Bool := false
  battery : Bool := false
  suppressed : BitVec 16 := 0
  payload : Bytes := []
  deriving DecidableEq, Repr

structure Tly where
  buffer : List TallyRec := []
  /-- records that wait for room, exempt only -/
  staging : List TallyRec := []
  flushing : Nat := 0
  faulty0 : Bool := false
  faulty1 : Bool := false
  retries0 : Nat := 0
  retries1 : Nat := 0
  head : List TallyRec := []
  tail : List TallyRec := []
  /-- places of the tail in use, out of 10,240 -/
  erasing : Bool := false
  next : Word := 0
  /-- next record number and operating seconds in the control block, written at each flush, R460, R461 -/
  storedNext : Word := 0
  storedSeconds : Nat := 0
  tailFirst : Word := 0
  dropped : BitVec 16 := 0
  droppedUnreported : Nat := 0
  pageRetries : BitVec 16 := 0
  suppressed : Word := 0
  /-- tokens below 32, by code: how many are missing -/
  missing : SMap Nat := []
  /-- suppressed counts not yet carried, by code, with the first and last operating second -/
  held : SMap (Nat × Nat × Nat) := []
  seconds : Nat := 0
  cycles : Nat := 0
  deriving DecidableEq, Repr

/-- Route of a source (R471): security controller, cores, and the vector of each host port. -/
structure Route where
  sec : Bool := true
  cores : BitVec 24 := 0
  enA : Bool := false
  vecA : BitVec 11 := 0
  enB : Bool := false
  vecB : BitVec 11 := 0
  deriving DecidableEq, Repr

structure Evc where
  routes : SMap Route := [(424, { enA := true, enB := true })]
  ovf : Word := 0
  /-- pending sources, rising: destinations 0 to 23 the cores, 24 the security controller, 25 port A, 26 port B -/
  pend : SMap (List Nat) := []
  /-- raises to cores held during an erase, oldest first -/
  heldRaises : List (Nat × Nat) := []
  deriving DecidableEq, Repr

/-! ## What the block emits -/

/-- One thing the block sends out, in the order of issue. -/
inductive Out where
  /-- data of a register or bus read -/
  | read (who : Who) (v : Word)
  | busData (n : BitVec 6) (b : Bytes)
  | busError (n : BitVec 6)
  /-- answer to a request of a core that is refused, R57 -/
  | coreRefused (core : BitVec 5) (status : BitVec 16)
  /-- a posted write of a result to host memory -/
  | result (port : Port) (addr : BitVec 64) (b : Bytes)
  /-- the posted write of the 32 bytes of a CQE, R93 -/
  | cqe (port : Port) (addr : BitVec 64) (b : Bytes)
  | msix (port : Port) (fn : BitVec 7) (vec : BitVec 11)
  /-- line reads of doorbell records issued by a sweep, and an SQE read issued -/
  | recordRead (port : Port) (addr : BitVec 64)
  | sqeRead (port : Port) (addr : BitVec 64) (n : Nat)
  | hostRead (port : Port) (addr : BitVec 64) (len : Nat)
  | cfgRetry (port : Port)
  | cfgDone (port : Port) (v : Word)
  | spdm (port : Port) (code : Nat) (b : Bytes)
  | zreply (type : BitVec 16) (target : BitVec 16) (seq : Word) (status : BitVec 16) (b : Bytes)
  | mctp (b : Bytes)
  | health (b : Bytes)
  | skim (k : Skim)
  | ack (epoch csn : Nat) (flags : Byte)
  /-- nonce of a session, R405 -/
  | linkNonce (b : Bytes)
  | keepAlive
  | bondOffer (o : BondOffer)
  | bondResponse (b : Bytes)
  | resync (records : List SkimRecord)
  | pairImage (i : Image)
  deriving DecidableEq, Repr

/-! ## The whole state -/

structure State where
  /-- commands waiting, first in first out -/
  pending : List Instr := []
  /-- CLK_SEC cycles passed -/
  clk : Nat := 0
  /-- free values drawn so far: the model's own counter -/
  rng : Nat := 0
  csn : Nat := 0
  out : List Out := []
  imem : List Host.Cell := []
  rwi : List RwiPending := []
  pit : Pit := {}
  rqe : Rqe := {}
  sch : Sch := {}
  cmc : Cmc := {}
  sel : SMap Sel := []
  dma : SMap Channel := []
  mbx : SMap Mailbox := []
  /-- MBX_ERR, key 16 × initiator key + mailbox -/
  mbxErr : SMap MbxErr := []
  mpu : Mpu := {}
  caches : Caches := {}
  units : Units := {}
  kst : Kst := {}
  tmp : Tmp := {}
  bat : Bat := {}
  lcs : Lcs := {}
  own : Own := {}
  par : Par := {}
  glb : Glb := {}
  pwr : Pwr := {}
  bst : Bst := {}
  tly : Tly := {}
  evc : Evc := {}
  deriving DecidableEq, Repr

/-- The machine right after reset: every field at the value its register table, R3 or the log names. -/
def State.reset : State := {}

/-- Why the block stops. No command of this model faults: a refused access sets an error code or a status. -/
inductive Fault where
  /-- Raised by a command that names a unit the block does not have (a lane group, engine, core, region, instance
  or source number past the last one). Safe: the block is never given such a number. -/
  | noSuchUnit
  deriving DecidableEq, Repr

/-- Why a command has no meaning here. -/
inductive Refusal where
  /-- Raised by Dispatch.lean for a command not modelled yet, by its mnemonic. Safe. -/
  | notModelled (mnemonic : String)
  deriving DecidableEq, Repr

end Sys2Proof.Machine
end

