-- ==== Sys2Proof/Machine/Ops.lean ====
section
/-! DEFINITION. The named operations over the state that every command uses: pitches, rings, tracker entries and cores by their
number, internal memory, free values, event raises (R471 to R473), tally records (R458 to R466), commit numbers
(R110), the journal and the skim (R311, R414), posting of completions (R93 to R100, R408, R415). -/

namespace Sys2Proof.Machine

/-! ## Time -/

/-- CLK_SEC cycles in a microsecond, a millisecond and a second (R19, R20). -/
def usCycles : Nat := 200
def msCycles : Nat := 200000
def secCycles : Nat := 200000000

/-! ## Parts of the state by number -/

/-- The number under which an initiator or function keeps its selectors: initiators 0 to 63, then the VFs of the ports. -/
def whoKey : Who → Nat
  | .ini n => n.toNat
  | .vf .a fn => 64 + fn.toNat
  | .vf .b fn => 192 + fn.toNat

def Port.num : Port → Nat
  | .a => 0
  | .b => 1

def Port.ofBit (b : Bool) : Port := if b then .b else .a

def secIni : Who := .ini 1
def pfA : Who := .ini 0x2F
def pfB : Who := .ini 0x30

/-- The port and function of a host initiator (R24, R71). -/
def whoFn : Who → Option (Port × BitVec 7)
  | .ini n => if n = 0x2F then some (.a, 0) else if n = 0x30 then some (.b, 0) else none
  | .vf p fn => some (p, fn)

def State.pitch (s : State) (p : Nat) : Pitch := s.pit.pitches.get {} p

def State.updPitch (s : State) (p : Nat) (f : Pitch → Pitch) : State :=
  { s with pit := { s.pit with pitches := s.pit.pitches.upd {} p f } }

/-- Reserves of all pitches that are not FREE (R41). A FREE pitch holds no reserve. -/
def State.reserveSum (s : State) : Nat := (s.pit.pitches.map fun e => e.2.reserve).sum

/-- Entries of the shared pool in use (R42). -/
def State.sharedInUse (s : State) : Nat := (s.pit.pitches.map fun e => e.2.inFlight - e.2.reserve).sum

def State.sharedCapacity (s : State) : Nat := 131072 - s.reserveSum

def State.kbcSum (s : State) : Nat := (s.pit.pitches.map fun e => e.2.kbcCap).sum
def State.dkcSum (s : State) : Nat := (s.pit.pitches.map fun e => e.2.dkcCap).sum

def sqKey (p : Nat) (i : Nat) : Nat := 4 * p + i
def State.sq (s : State) (p i : Nat) : Sq := s.rqe.sqs.get {} (sqKey p i)
def State.updSq (s : State) (p i : Nat) (f : Sq → Sq) : State :=
  { s with rqe := { s.rqe with sqs := s.rqe.sqs.upd {} (sqKey p i) f } }

def State.cq (s : State) (p : Nat) : Cq := s.rqe.cqs.get {} p
def State.updCq (s : State) (p : Nat) (f : Cq → Cq) : State :=
  { s with rqe := { s.rqe with cqs := s.rqe.cqs.upd {} p f } }

def fnKey (port : Port) (fn : BitVec 7) : Nat := 128 * Port.num port + fn.toNat
def State.fn (s : State) (port : Port) (fn : BitVec 7) : Fn := s.rqe.fns.get {} (fnKey port fn)
def State.updFn (s : State) (port : Port) (fn : BitVec 7) (f : Fn → Fn) : State :=
  { s with rqe := { s.rqe with fns := s.rqe.fns.upd {} (fnKey port fn) f } }

def State.portState (s : State) : Port → PortState
  | .a => s.rqe.portA
  | .b => s.rqe.portB

def State.updPort (s : State) (port : Port) (f : PortState → PortState) : State :=
  match port with
  | .a => { s with rqe := { s.rqe with portA := f s.rqe.portA } }
  | .b => { s with rqe := { s.rqe with portB := f s.rqe.portB } }

def State.entry (s : State) (e : Nat) : Option Entry := s.sch.entries.get none e
def State.setEntry (s : State) (e : Nat) (v : Option Entry) : State :=
  { s with sch := { s.sch with entries := s.sch.entries.set none e v } }
def State.updEntry (s : State) (e : Nat) (f : Entry → Entry) : State :=
  { s with sch := { s.sch with entries := s.sch.entries.upd none e (Option.map f) } }

def State.core (s : State) (c : Nat) : Core := s.cmc.cores.get {} c
def State.updCore (s : State) (c : Nat) (f : Core → Core) : State :=
  { s with cmc := { s.cmc with cores := s.cmc.cores.upd {} c f } }

def State.selOf (s : State) (w : Who) : Sel := s.sel.get {} (whoKey w)
def State.updSel (s : State) (w : Who) (f : Sel → Sel) : State :=
  { s with sel := s.sel.upd {} (whoKey w) f }

def State.pitSel (s : State) (w : Who) : PitSel := s.pit.sel.get {} (whoKey w)
def State.updPitSel (s : State) (w : Who) (f : PitSel → PitSel) : State :=
  { s with pit := { s.pit with sel := s.pit.sel.upd {} (whoKey w) f } }

def State.rqeSel (s : State) (w : Who) : RqeSel := s.rqe.sel.get {} (whoKey w)
def State.updRqeSel (s : State) (w : Who) (f : RqeSel → RqeSel) : State :=
  { s with rqe := { s.rqe with sel := s.rqe.sel.upd {} (whoKey w) f } }

def State.chan (s : State) (c : Nat) : Channel := s.dma.get {} c
def State.updChan (s : State) (c : Nat) (f : Channel → Channel) : State :=
  { s with dma := s.dma.upd {} c f }

def State.box (s : State) (m : Nat) : Mailbox := s.mbx.get {} m
def State.updBox (s : State) (m : Nat) (f : Mailbox → Mailbox) : State :=
  { s with mbx := s.mbx.upd {} m f }

def State.slot (s : State) (n : Nat) : Slot := s.kst.slots.get {} n
def State.setSlot (s : State) (n : Nat) (v : Slot) : State :=
  { s with kst := { s.kst with slots := s.kst.slots.set {} n v } }

/-- A refusal of the PIT block: the initiator's PIT_ERR (R63). -/
def pitErr (w : Who) (code : BitVec 4) (s : State) : State :=
  s.updPitSel w fun x => { x with errValid := true, errCode := code }

/-- A refusal of the RQE block: RQE_ERR (R108). -/
def rqeErr (w : Who) (code : BitVec 4) (s : State) : State :=
  s.updRqeSel w fun x => { x with errValid := true, errCode := code }

def mpuErr (code : BitVec 4) (s : State) : State :=
  { s with mpu := { s.mpu with errValid := true, errCode := code } }

def parErr (code : BitVec 4) (s : State) : State :=
  { s with par := { s.par with errValid := true, errCode := code } }

def cmcErr (code : BitVec 4) (s : State) : State :=
  { s with cmc := { s.cmc with errValid := true, errCode := code } }

/-- The management owner or the security controller (R58). -/
def State.isOwner (s : State) (w : Who) : Bool := s.own.owner ≠ 0 && w = .ini s.own.owner

def isSec (w : Who) : Bool := w = secIni

def State.emit (s : State) (o : Out) : State := { s with out := s.out ++ [o] }

/-! ## Internal memory and free values -/

/-- One byte of the internal memory; an address that nothing has written reads 0 (log entry 2). -/
def memRead (m : List Host.Cell) (a : Nat) : Byte := SMap.get 0 m a

def memWrite (m : List Host.Cell) (a : Nat) (v : Byte) : List Host.Cell := SMap.set 0 m a v

def memReads (m : List Host.Cell) (a : Nat) : Nat → Bytes
  | 0 => []
  | n + 1 => memRead m a :: memReads m (a + 1) n

def memWrites (m : List Host.Cell) (a : Nat) : Bytes → List Host.Cell
  | [] => m
  | b :: bs => memWrites (memWrite m a b) (a + 1) bs

/-- The canonical form of the internal memory. -/
def Memory.wf (m : List Host.Cell) : Bool := SMap.wf 0 m

/-- The next `n` free bytes: raw noise (R286) and values that no rule states (log entry 3). -/
def State.freeBytes (s : State) (n : Nat) : Bytes := (List.range n).map fun i => Config.freeByte (s.rng + i)

def State.drew (s : State) (n : Nat) : State := { s with rng := s.rng + n }

/-- A draw of `n` bytes. -/
def draw (n : Nat) (s : State) : Bytes × State := (s.freeBytes n, s.drew n)

/-! ## Events (R470 to R473) -/

/-- Fire a vector of a function: the message, or the PBA bit where the vector is masked or Bus Master Enable is 0
(R99; PCIe for the PBA bit). -/
def msixSend (port : Port) (fn : BitVec 7) (vec : BitVec 11) (s : State) : State :=
  let f := s.fn port fn
  if f.unmasked.contains vec.toNat && f.bme && !f.msixMask then s.emit (.msix port fn vec)
  else if f.pba.contains vec.toNat then s
  else s.updFn port fn fun f => { f with pba := vec.toNat :: f.pba }

/-- Bit of an error in the AER status, in the order in which R74 names the errors. -/
def aerBit : ReadFail → Nat
  | .poisoned => 0
  | .timeout => 1
  | .abort => 2
  | .unsupported => 4

/-- The link stream of a port is Insecure: the TLPs that it carries are discarded (R73; log entry 110). -/
def State.ideCut (s : State) (port : Port) : Bool := (s.portState port).ide.head? = some 2

/-- What a read of host memory comes to: over an Insecure stream it loses its completion (R73, R98). -/
def State.hostRead (s : State) (port : Port) (r : HostRead) : HostRead := if s.ideCut port then .failed .timeout else r

/-- An access of a host function over an Insecure stream is discarded (R73). -/
def State.hostCut (s : State) (who : Who) : Bool :=
  match whoFn who with
  | some (port, _) => s.ideCut port
  | none => false

def fromHost (who : Who) (f : State → State) (s : State) : State := if s.hostCut who then s else f s

/-- A number put into a rising list; unchanged where it is there. -/
def insertNat (n : Nat) : List Nat → List Nat
  | [] => [n]
  | m :: l => if n < m then n :: m :: l else if n = m then m :: l else m :: insertNat n l

def evcOvf (s : State) : State := { s with evc := { s.evc with ovf := s.evc.ovf + 1 } }

/-- A raise reaches one destination: its pending bit is set, or the raise finds it set and is counted (R471). -/
def raiseAt (dest src : Nat) (s : State) : State :=
  let l := s.evc.pend.get [] dest
  if l.contains src then evcOvf s
  else { s with evc := { s.evc with pend := s.evc.pend.set [] dest (insertNat src l) } }

/-- A raise to a core: held during an erase, lost in OFF and LOADING (R473). -/
def raiseCore (c src : Nat) (s : State) : State :=
  if s.kst.phase ≠ 0 ∧ s.kst.phase ≠ 4 then
    { s with evc := { s.evc with heldRaises := s.evc.heldRaises ++ [(c, src)] } }
  else match (s.core c).state with
    | .off => evcOvf s
    | .loading => evcOvf s
    | _ => raiseAt c src s

/-- A raise to a host port: one MSI-X message when the bit goes from 0 to 1 (R471). Not gated (R408). -/
def raisePort (port : Port) (vec : BitVec 11) (src : Nat) (s : State) : State :=
  let dest := 25 + Port.num port
  if (s.evc.pend.get [] dest).contains src then evcOvf s
  else msixSend port 0 vec (raiseAt dest src s)

def raiseCores (cores : BitVec 24) (src : Nat) : Nat → State → State
  | 0, s => s
  | n + 1, s =>
    let s := raiseCores cores src n s
    if cores.getLsbD n then raiseCore n src s else s

/-- A source raises its event at every routed destination (R471). -/
def raise (src : Nat) (s : State) : State :=
  let r := s.evc.routes.get {} src
  let s := raiseCores r.cores src 24 s
  let s := if r.sec then raiseAt 24 src s else s
  let s := if r.enA then raisePort .a r.vecA src s else s
  if r.enB then raisePort .b r.vecB src s else s

/-- An AER error of a port: its status bit, and the event of R470. -/
def aerError (port : Port) (k : Nat) (s : State) : State :=
  raise (440 + 16 * Port.num port + k) (s.updPort port fun x => { x with aer := x.aer ||| BitVec.ofNat 9 (2 ^ k) })

/-- A failed device read is reported through AER (R74, R98). -/
def aerReport (port : Port) (why : ReadFail) (s : State) : State := aerError port (aerBit why) s

/-- Uncorrectable Internal Error, reported on both ports where a hardware fault sets DEGRADED (R74). -/
def aerInternal (degraded : Bool) (s : State) : State := if degraded then aerError .b 8 (aerError .a 8 s) else s

/-! ## The tally (R458 to R466) -/

/-- The codes marked "No" in the Limited column of R469: exempt, and each starts a flush. -/
def exemptCode (code : Nat) : Bool :=
  [0x0103, 0x0104, 0x0201, 0x0202, 0x0204, 0x0301, 0x0302, 0x0303, 0x0305, 0x0306, 0x0401, 0x0402, 0x0403, 0x0501,
   0x0502, 0x0503, 0x0504, 0x0601, 0x0602, 0x0603, 0x0604].contains code ||
  [0x0701, 0x0702, 0x0703, 0x0704, 0x0705, 0x0706, 0x0801, 0x0802, 0x0803, 0x0902, 0x0F01, 0x0F02, 0x0F03,
   0x0F04].contains code

/-- A flush starts: it takes every record that is buffered (R462). -/
def startFlush (s : State) : State :=
  if s.tly.flushing = 0 then { s with tly := { s.tly with flushing := s.tly.buffer.length } } else s

/-- A record enters the buffer: it takes the next number and its stamps (R459, R460, R462). -/
def enterBuffer (r : TallyRec) (s : State) : State :=
  let r := { r with number := s.tly.next, seconds := s.tly.seconds, cycles := s.tly.cycles,
                    csn := if r.own then r.csn else s.csn,
                    headCopy := decide (s.tly.next.toNat < 1024) }
  let s := { s with tly := { s.tly with buffer := s.tly.buffer ++ [r], next := s.tly.next + 1 } }
  if s.tly.buffer.length = 128 then startFlush (raise 473 s) else s

def tallyDrop (s : State) : State :=
  raise 474 { s with tly := { s.tly with dropped := satInc s.tly.dropped,
                                         droppedUnreported := s.tly.droppedUnreported + 1 } }

/-- An exempt record: any free buffer entry, else the staging area, else dropped (R463); it starts a flush (R462). -/
def tallyExempt (r : TallyRec) (s : State) : State :=
  if s.tly.buffer.length < 256 then startFlush (enterBuffer r s)
  else if s.tly.staging.length < 4 then { s with tly := { s.tly with staging := s.tly.staging ++ [r] } }
  else tallyDrop s

/-- A limited record: suppressed without a token, dropped where 224 entries are occupied (R463, R465). -/
def tallyLimited (r : TallyRec) (s : State) : State :=
  let code := r.code.toNat
  let miss := s.tly.missing.get 0 code
  let (n, t0, _) := s.tly.held.get (0, 0, 0) code
  if 32 ≤ miss then
    raise 475 { s with tly := { s.tly with suppressed := s.tly.suppressed + 1,
                                           held := s.tly.held.set (0, 0, 0) code
                                             (n + 1, if n = 0 then s.tly.seconds else t0, s.tly.seconds) } }
  else
    let s := { s with tly := { s.tly with missing := s.tly.missing.set 0 code (miss + 1) } }
    if s.tly.buffer.length < 224 then
      enterBuffer { r with suppressed := BitVec.ofNat 16 (min n 0xFFFF) }
        { s with tly := { s.tly with held := s.tly.held.set (0, 0, 0) code (0, 0, 0) } }
    else tallyDrop s

/-- A tally record: code, actor, event source (0x3FF for none), its own CSN where the code carries one, payload. A record that its
rule raises an event with carries that event's source (R458, log entry 91). -/
def tallyRec (code : BitVec 16) (actor : BitVec 6) (event : BitVec 10) (own : Option Nat) (payload : Bytes)
    (s : State) : State :=
  let r : TallyRec := { number := 0, code := code, actor := actor, event := event, csn := own.getD 0,
                        own := own.isSome, seconds := 0, cycles := 0, payload := padTo 32 payload }
  if exemptCode code.toNat then tallyExempt r s else tallyLimited r s

def tally (code : BitVec 16) (payload : Bytes) (s : State) : State := tallyRec code 0 0x3FF none payload s

/-- RWI_DISCARD NOTE (R7, R469): register offset and reason. -/
def rwiDiscard (off : Nat) (reason : Nat) (s : State) : State :=
  tally 0x0102 (toLE 4 off ++ [BitVec.ofNat 8 reason]) s

/-! ## CSNs, the journal and the skim (R110, R311, R414) -/

/-- The device sends skims (R407, R414); in SOLO only beside a resync (R417). -/
def State.mirrors (s : State) : Bool :=
  s.par.role = .active || s.par.role = .yielding || (s.par.role = .solo && s.par.resyncing)

/-- The next CSN is taken. -/
def nextCsn (s : State) : Nat := s.csn + 1
def tookCsn (s : State) : State := { s with csn := s.csn + 1 }

/-- A state change enters the open mirror epoch's skim (R414). -/
def mirror (r : SkimRecord) (s : State) : State :=
  if s.mirrors then { s with par := { s.par with records := s.par.records ++ [r] } } else s

/-- Records pending: in the buffer or on their way to the flashes (R311). -/
def State.journalPending (s : State) : Nat := s.kst.journal.length + s.kst.writing.length

/-- 16 records are pending: a further commit waits at its commit point (R311). -/
def State.journalFull (s : State) : Bool := decide (16 ≤ s.journalPending)

/-- The write of the records in the buffer starts, unless one is under way (R311). -/
def journalStart (s : State) : State :=
  if s.kst.writing = [] then { s with kst := { s.kst with writing := s.kst.journal, journal := [] } } else s

/-- A committed change becomes a journal record; the one that fills the buffer raises its event; with 8 pending a write starts (R311). One
commit that makes several records may pass 16 (log entry 121). -/
def journal (what : Sealed) (csn : Nat) (s : State) : State :=
  let s := { s with kst := { s.kst with journal := s.kst.journal ++ [{ csn := csn, what := what }] } }
  let s := if s.journalPending = 16 then raise 363 s else s
  if 8 ≤ s.kst.journal.length then journalStart s else s

/-- The pitch's configuration as skims and journal carry it (R36, R414). -/
def pitchSkim (p : Nat) (csn : Nat) (v : Pitch) : SkimRecord :=
  .pitch (BitVec.ofNat 12 p) csn
    (match v.state with | .free => 0 | .active => 1 | .suspended => 2 | .deleting => 3)
    v.pers v.quota v.reserve v.weight v.cfg.val v.kbcCap v.dkcCap v.replayOn v.replayTol

/-- A change of a pitch's configuration is journalled and mirrored (R36). -/
def sealPitch (p : Nat) (csn : Nat) (s : State) : State :=
  mirror (pitchSkim p csn (s.pitch p)) (journal (.pitch (BitVec.ofNat 12 p) (s.pitch p)) csn s)

/-- A slot write with its records (R297, R311): the generation advances. -/
def writeSlot (n : Nat) (key : Bytes) (attrs : BitVec 128) (tag : KeyTag) (csn : Nat) (s : State) : State :=
  let v : Slot := { key := key, attrs := attrs, gen := (s.slot n).gen + 1, tag := tag }
  mirror (.slot (BitVec.ofNat 18 n) csn key attrs v.gen tag)
    (journal (.slot (BitVec.ofNat 18 n) v) csn (s.setSlot n v))

/-! ## Posting completions (R93 to R100, R105, R106, R408, R415) -/

/-- The gate of R408: posting only with ACT_CLAIM_N asserted or in SINGLE. -/
def State.gateOpen (s : State) : Bool := s.par.role = .single || s.par.claim

/-- Epoch whose skim carries a CSN: one that is sent and not acknowledged, else the open one. -/
def State.epochOf (s : State) (csn : Nat) : Nat :=
  match s.par.unacked.find? fun u => decide (csn ≤ u.2) with
  | some u => u.1
  | none => s.par.epoch

/-- A CSN's completion waits for its skim (R415): in STRICT, and where it was held under STRICT (R27), until its CSN is acknowledged, in
RELAXED until every skim up to that of two epochs before its own is. -/
def State.mirrorHeld (s : State) (strict : Bool) (csn : Nat) : Bool :=
  (s.par.role = .active || s.par.role = .yielding) && decide (s.par.ackedCsn < csn) &&
    (strict || !s.par.relaxedInForce || s.par.unacked.any fun u => decide (u.1 + 2 ≤ s.epochOf csn))

/-- Everything that a posting waits for. -/
def State.postable (s : State) (p : Nat) (h : HeldCqe) : Bool :=
  let q := s.cq p
  q.state = .active && s.gateOpen && (s.fn q.port q.fn).bme
    && !(h.cqe.csnValid && s.mirrorHeld h.strict h.cqe.csn)

/-- Entries of a ring. -/
def ringSize (log2 : BitVec 5) : Nat := 2 ^ log2.toNat

/-- CQ credits (R96). -/
def Cq.credits (q : Cq) : Int := (ringSize q.log2 : Int) - 1 - q.unconsumed - q.reserved

/-- The CQ's vector fires: pending and timer are reset; while the gate is closed the message is discarded (R99, R408). -/
def fireVector (p : Nat) (s : State) : State :=
  let q := s.cq p
  let s := s.updCq p fun q => { q with pending := 0, timer := false }
  if s.gateOpen then msixSend q.port q.fn q.vector s else s

/-- After a CQE is written: coalescing (R99). -/
def coalesce (p : Nat) (irqNow irqNone : Bool) (s : State) : State :=
  let q := s.cq p
  let s := if irqNone then s
           else s.updCq p fun q => { q with pending := q.pending + 1,
                                            timer := q.timer || (q.coalCount ≠ 0 && q.coalTime ≠ 0) }
  if irqNow then fireVector p s
  else if irqNone then s
  else if q.coalCount = 0 then fireVector p s
  else if q.coalCount.toNat ≤ (s.cq p).pending then fireVector p s
  else s

/-- The flags of a CQE with its phase (R94). -/
def cqeFlags (phase : Bool) (c : Cqe) : Nat :=
  c.ringEvent.toNat * 2 ^ 7 + c.sqIndex.toNat * 2 ^ 5 + Port.num c.port * 2 ^ 4 + c.resultDropped.toNat * 2 ^ 3
    + c.replayed.toNat * 2 ^ 2 + c.csnValid.toNat * 2 + phase.toNat

/-- The 32 bytes of a CQE (R93). -/
def cqeBytes (phase : Bool) (c : Cqe) : Bytes :=
  toLE 4 c.hostTag.toNat ++ toLE 2 c.status.toNat ++ toLE 2 (cqeFlags phase c) ++ toLE 4 c.resultLen.toNat
    ++ toLE 4 c.sqHead.toNat ++ toLE 8 c.csn ++ toLE 8 c.inline.toNat

/-- A CQE is written at the write index with the phase of the pass (R95, R96). -/
def writeCqe (p : Nat) (c : Cqe) (s : State) : State :=
  let q := s.cq p
  let s := s.emit (.cqe q.port (q.base + BitVec.ofNat 64 (32 * q.index)) (cqeBytes (decide (q.pass % 2 = 0)) c))
  s.updCq p fun q =>
    if q.index + 1 = ringSize q.log2 then
      { q with index := 0, pass := q.pass + 1, unconsumed := q.unconsumed + 1 }
    else { q with index := q.index + 1, unconsumed := q.unconsumed + 1 }

/-- Where the fence of an SQ ends, its entry waits no longer, even for later commands of the SQ (R91). -/
def endFence (ends : Bool) (p : Nat) (i : BitVec 2) (s : State) : State :=
  if !ends then s
  else { s with sch := { s.sch with entries := s.sch.entries.mapv none fun _ o =>
      match o with
      | none => none
      | some x => some (if x.pitch.toNat = p ∧ x.sq = i then { x with fence := false } else x) } }

/-- No earlier command of the SQ waits for its CQE but the fenced one (R91). -/
def Sq.fenceOver (q : Sq) : Bool := decide (q.outstanding ≤ 1) && decide (q.refusedHeld = 0)

/-- A fence with nothing before it ends (R91). -/
def settleFence (p : Nat) (i : BitVec 2) (s : State) : State :=
  let q := s.sq p i.toNat
  let ends := q.fenced && q.fenceOver
  endFence ends p i (s.updSq p i.toNat fun q => { q with fenced := q.fenced && !ends })

/-- The CQE of a refused SQE is written: a fence waits for it no longer (R91). -/
def refusedWritten (p : Nat) (i : BitVec 2) (s : State) : State :=
  settleFence p i (s.updSq p i.toNat fun q => { q with refusedHeld := q.refusedHeld - 1 })

/-- One command fewer stands reserved on the CQ; one that is discarded holds no credit of a CQ created later (R96, R106). -/
def returnCredit (discard : Bool) (p : Nat) (s : State) : State :=
  if discard then s else s.updCq p fun q => { q with reserved := q.reserved - 1 }

/-- A tracker entry is freed (R90, R102): counts fall, a drained SQ becomes FREE, a fence with nothing before it ends, as does the
fence of the freed entry itself (R91). -/
def freeEntry (e : Nat) (s : State) : State :=
  match s.entry e with
  | none => s
  | some x =>
    let p := x.pitch.toNat
    let s := (s.setEntry e none).updPitch p fun v => { v with inFlight := v.inFlight - 1 }
    let s := returnCredit x.discard p s
    let q := s.sq p x.sq.toNat
    if q.outstanding ≤ 1 ∧ q.state = .draining then s.updSq p x.sq.toNat fun _ => {}
    else
      let s := s.updSq p x.sq.toNat fun q => { q with outstanding := q.outstanding - 1, fenced := q.fenced && !x.fence }
      settleFence p x.sq (endFence x.fence p x.sq s)

def freeOpt (e : Option Nat) (s : State) : State :=
  match e with
  | none => s
  | some e => freeEntry e s

/-- Result write, CQE write, MSI-X, in that order (R100). -/
def postNow (p : Nat) (h : HeldCqe) (s : State) : State :=
  let q := s.cq p
  let s := if h.result = [] then s else s.emit (.result q.port h.resultPtr h.result)
  let s := writeCqe p { h.cqe with sqHead := (s.sq p h.cqe.sqIndex.toNat).head } s
  let s := returnCredit (!h.credit) p s
  let s := if h.credit && !h.cqe.ringEvent then refusedWritten p h.cqe.sqIndex s else s
  freeOpt h.entry (coalesce p (h.irqNow || h.cqe.ringEvent) h.irqNone s)

/-- A completion is posted, or joins the held ones of its CQ in order, marked where it is held under STRICT (R27). -/
def post (p : Nat) (h : HeldCqe) (s : State) : State :=
  if s.postable p h then postNow p h s
  else s.updCq p fun q => { q with held := q.held ++ [{ h with strict := h.strict || (h.cqe.csnValid && !s.par.relaxedInForce) }] }

/-- The held completions of a CQ that may now go are posted, in order. -/
def releaseList (p : Nat) : List HeldCqe → State → State
  | [], s => s
  | h :: t, s => releaseList p t (post p h s)

def releaseCq (p : Nat) (s : State) : State :=
  releaseList p (s.cq p).held (s.updCq p fun q => { q with held := [] })

def releaseAll (s : State) : State := s.rqe.cqs.foldl (fun s e => releaseCq e.1 s) s

/-- A window of the pitch covers a range in a direction on a port; a range that wraps is in none (R49, R89). -/
def windowCovers (ws : List Window) (port : Port) (write : Bool) (base : BitVec 64) (len : Nat) : Bool :=
  decide (base.toNat + len ≤ 2 ^ 64) &&
    ws.any fun w =>
      (if write then w.write else w.read) && (match port with | .a => w.portA | .b => w.portB)
        && decide (w.base.toNat ≤ base.toNat)
        && decide (base.toNat + len ≤ w.base.toNat + w.pages.toNat * 4096)

/-! ## Commands in flight -/

/-- What a command came to. -/
structure Done where
  status : BitVec 16 := 0
  result : Bytes := []
  inline : BitVec 64 := 0
  /-- capacity needed, reported with BAD_LENGTH -/
  needed : Nat := 0
  replayed : Bool := false
  csn : Option Nat := none
  /-- the H that DONE raises, R224 -/
  high : Option HighMark := none
  deriving DecidableEq, Repr

/-- The replay entry of a committed command takes its status at completion (R423). -/
def replayStatus (p : Nat) (csn : Nat) (status : BitVec 16) (s : State) : State :=
  let v := s.pitch p
  match v.replay.find? (fun r => r.csn = csn) with
  | none => s
  | some r =>
    if r.status = status then s
    else mirror (.replay (BitVec.ofNat 12 p) csn r.hostTag r.opcode status)
      (s.updPitch p fun v =>
        { v with replay := v.replay.map fun r => if r.csn = csn then { r with status := status } else r })

/-- A roster as bytes, for its digest (R306). -/
def rosterBytes (r : Roster) : Bytes :=
  [BitVec.ofNat 8 r.officers.length, BitVec.ofNat 8 r.threshold] ++ (r.officers.map fun o => BitVec.ofNat 8 o.kind :: o.key).flatten
    ++ r.pair.getD []

/-- A tracker entry's number that is free, the lowest (log entry 10: which entry an admission takes). -/
def State.freeEntryNo (s : State) : Nat :=
  (s.sch.entries.foldl (fun a e => if e.1 = a then a + 1 else a) 0)

/-- Committed commands enter the pitch's replay filter: at most 1,024, the lowest CSN leaves (R423). -/
def replayInsert (p : Nat) (r : ReplayEntry) (s : State) : State :=
  let v := s.pitch p
  let l := if v.replay.length < 1024 then v.replay
           else let m := v.replay.foldl (fun a r => min a r.csn) r.csn
                v.replay.filter fun r => r.csn ≠ m
  mirror (.replay (BitVec.ofNat 12 p) r.csn r.hostTag r.opcode r.status)
    (s.updPitch p fun v => { v with replay := l ++ [r] })

/-- The commit point of a class C or D command (R110, R423): it takes the next CSN, enters the filter and the tracker header. -/
def commitEntry (e : Nat) (s : State) : State :=
  match s.entry e with
  | none => s
  | some x =>
    let c := nextCsn s
    let p := x.pitch.toNat
    let s := (tookCsn s).updEntry e fun x => { x with csn := some c }
    let s := s.updPitch p fun v => { v with highCsn := c }
    replayInsert p ⟨BitVec.ofNat 32 (leNat ((x.sqe.drop 4).take 4)), BitVec.ofNat 16 (leNat (x.sqe.take 2)), 0, c⟩ s

end Sys2Proof.Machine
end

