-- ==== Sys2Proof/Machine/CacheLines.lean ====
section
/-! DEFINITION. The lines of the two caches, their lookup keys and when they can hit: the key-block cache (R113, R167, R168), the
derivation cache (R216, R217) and its high-water counter (R224). -/

namespace Sys2Proof.Machine

/-! ## The key-block cache -/

def kbcKey (p idx : Nat) : Nat := 2 ^ 22 * p + idx
def State.kbcEntry (s : State) (p idx : Nat) : KbcEntry := s.caches.kbc.get {} (kbcKey p idx)
def State.setKbc (s : State) (p idx : Nat) (v : KbcEntry) : State :=
  { s with caches := { s.caches with kbc := s.caches.kbc.set {} (kbcKey p idx) v } }

/-- A wrapping binding is stale (R167). -/
def State.bindingStale (s : State) (p : Nat) : Binding → Bool
  | .slot n gen => (s.slot n.toNat).gen ≠ gen || (s.slot n.toNat).attrs.toNat % 4 ≠ 1
  | .entry idx seq => !(s.kbcEntry p idx.toNat).valid || (s.kbcEntry p idx.toNat).seq ≠ seq
  | .none => false

/-- The entry can hit: valid, its generation the pitch's, its binding not stale. -/
def State.kbcLive (s : State) (p idx : Nat) : Bool :=
  let v := s.kbcEntry p idx
  v.valid && v.gen = (s.pitch p).gen && !s.bindingStale p v.binding

def bindingBytes : Binding → Bytes
  | .slot n gen => 1 :: (toLE 4 n.toNat ++ toLE 4 gen.toNat)
  | .entry i q => 2 :: (toLE 4 i.toNat ++ toLE 4 q.toNat)
  | .none => [3]

/-- The set of a lookup key (R168): a keyed hash modulo the pitch's sets. -/
def State.kbcSet (s : State) (p : Nat) (b : Binding) (mac : Bytes) : Nat :=
  Config.setHash (toLE 2 p ++ toLE 2 (s.pitch p).gen.toNat ++ bindingBytes b ++ mac) % ((s.pitch p).kbcCap * 128)

/-- The index at which a block's lookup hits. -/
def State.kbcFind (s : State) (p : Nat) (b : Binding) (mac : Bytes) : Option Nat :=
  if (s.pitch p).kbcCap = 0 ∨ b = .none then none
  else
    let set := s.kbcSet p b mac
    ((List.range 8).map fun w => 8 * set + w).find? fun i =>
      s.kbcLive p i && (s.kbcEntry p i).binding = b && (s.kbcEntry p i).mac = mac

/-- Valid entries of a pitch (R171, R172). Those of an earlier generation are no longer the pitch's: its pages are assigned anew (R53,
R171; log entry 102). A stale binding leaves an entry valid (R167, R169). -/
def State.kbcUse (s : State) (p : Nat) : Nat :=
  (s.caches.kbc.filter fun e => e.1 / 2 ^ 22 = p && e.2.valid && e.2.gen = (s.pitch p).gen).length

/-! ## The derivation cache -/

def dkcKey (p idx : Nat) : Nat := 2 ^ 23 * p + idx
def State.dkcEntry (s : State) (p idx : Nat) : DkcEntry := s.caches.dkc.get {} (dkcKey p idx)
def State.setDkc (s : State) (p idx : Nat) (v : DkcEntry) : State :=
  { s with caches := { s.caches with dkc := s.caches.dkc.set {} (dkcKey p idx) v } }

/-- The BDK binding as the lookup key holds it (R216, R217): the slot or the cache entry, without its generation. -/
def bindingPlace : Binding → Bytes
  | .slot n _ => 0 :: toLE 4 n.toNat
  | .entry i _ => 1 :: toLE 4 i.toNat
  | .none => [2]

/-- The set of a lookup key (R217). -/
def State.dkcSet (s : State) (p : Nat) (tdes : Bool) (id : Bytes) (b : Binding) : Nat :=
  Config.setHash (toLE 2 p ++ toLE 2 (s.pitch p).gen.toNat ++ [if tdes then 1 else 0] ++ bindingPlace b ++ id)
    % ((s.pitch p).dkcCap * 128)

/-- The entry can hit at all: valid, generation current, BDK binding current. -/
def State.dkcLive (s : State) (p idx : Nat) : Bool :=
  let v := s.dkcEntry p idx
  v.valid && v.gen = (s.pitch p).gen && !s.bindingStale p v.binding

/-- The index at which a lookup hits (R217). -/
def State.dkcFind (s : State) (p : Nat) (tdes : Bool) (id : Bytes) (b : Binding) : Option Nat :=
  if (s.pitch p).dkcCap = 0 then none
  else
    let set := s.dkcSet p tdes id b
    ((List.range 8).map fun w => 8 * set + w).find? fun i =>
      let v := s.dkcEntry p i
      s.dkcLive p i && v.tdes = tdes && v.binding = b && v.id = id

/-- Valid entries of a pitch (R233), those of its generation (log entry 102). -/
def State.dkcUse (s : State) (p : Nat) : Nat :=
  (s.caches.dkc.filter fun e => e.1 / 2 ^ 23 = p && e.2.valid && e.2.gen = (s.pitch p).gen).length

/-- DONE raises H to the larger of H and c (R224). -/
def raiseHigh (p : Nat) (h : HighMark) (s : State) : State :=
  match s.dkcFind p h.tdes h.id h.binding with
  | none => s
  | some i => let v := s.dkcEntry p i; s.setDkc p i { v with high := max v.high h.ctr }

/-- The H that a command raises where it completes with DONE (R224). -/
def raiseMark (p : Nat) (status : BitVec 16) (h : Option HighMark) (s : State) : State :=
  match h with
  | some m => if status = 0 then raiseHigh p m s else s
  | none => s

end Sys2Proof.Machine
end

