-- ==== Sys2Proof/Machine/Lpddr.lean ====
section
/-! DEFINITION. The in-package LPDDR5X: its fixed partition, its lines with their MACs, and a MAC that fails (R17, R18). What a line holds
is kept as the memory controller shows it; without the memory key it shows nothing. -/

namespace Sys2Proof.Machine

/-- The regions of R17. -/
inductive MemRegion where
  | kbc | dkc | tracker | work | store | mac
  deriving DecidableEq, Repr

def MemRegion.all : List MemRegion := [.kbc, .dkc, .tracker, .work, .store, .mac]

def mebi : Nat := 1048576

/-- Size in bytes. -/
def MemRegion.size : MemRegion → Nat
  | .kbc => 512 * mebi
  | .dkc => 512 * mebi
  | .tracker => 128 * mebi
  | .work => 512 * mebi
  | .store => 128 * mebi
  | .mac => 256 * mebi

def MemRegion.code (r : MemRegion) : Nat := MemRegion.all.idxOf r

/-- Where a region begins: in the order of the table (log entry 116). -/
def MemRegion.base (r : MemRegion) : Nat := ((MemRegion.all.take r.code).map (·.size)).sum

/-- The region of an address of the 2 GiB. -/
def memRegion (a : BitVec 31) : MemRegion :=
  (MemRegion.all.find? fun r => decide (r.base ≤ a.toNat) && decide (a.toNat < r.base + r.size)).getD .mac

/-- The 64-byte line of an address, and where its 8-byte MAC stands. -/
def memLine (a : BitVec 31) : BitVec 31 := a &&& 0x7FFFFFC0
def lineMacAt (a : BitVec 31) : Nat := MemRegion.mac.base + 8 * (a.toNat / 64)

/-- The line behind an internal address: of the working set of a core, or of the region that the cores share (R17, R315; log entry 116);
none where the address is no LPDDR5X. -/
def workLine (a : Nat) : Option (BitVec 31) :=
  let off := match (List.range 24).find? (fun c =>
      decide ((Config.workBase c).toNat ≤ a) && decide (a < (Config.workBase c).toNat + 16 * mebi)) with
    | some c => some (16 * mebi * c + (a - (Config.workBase c).toNat))
    | none => if Config.sharedBase.toNat ≤ a ∧ a < Config.sharedBase.toNat + 128 * mebi
              then some (384 * mebi + (a - Config.sharedBase.toNat)) else none
  off.map fun o => memLine (BitVec.ofNat 31 (MemRegion.work.base + o))

/-- A MAC failed on a read (R18): the event, whose source R470 does not name, and the record of R469. -/
def memoryFault (line : BitVec 31) (s : State) : State :=
  let src := Config.eccSource.toNat
  raise src (tallyRec 0x0506 0 (BitVec.ofNat 10 src) none
    (BitVec.ofNat 8 (memRegion line).code :: toLE 4 (memLine line).toNat) s)

/-- The line at which a read of an internal address fails: one whose MAC the environment has broken, or any once the memory key is gone
(R18, R308). -/
def State.readFault (s : State) (ecc : Bool) (a : Nat) : Option (BitVec 31) := if ecc || !s.kst.readable then workLine a else none

end Sys2Proof.Machine
end

