-- ==== Sys2Proof/Machine/Drbg.lean ====
section
/-! DEFINITION. The ten DRBG instances (R286, R288, R289): AES-256 CTR_DRBG of SP 800-90A with its derivation function, which R288 names:
PRESUMED, from the standard (log entry 4). Only the raw bits of the noise sources are free values (log entry 3). -/

namespace Sys2Proof.Machine

/-! ## CTR_DRBG (SP 800-90A, 10.2.1, 10.3.2) -/

/-- The derivation function: 48 bytes from seed material. -/
def drbgDerive (input : Bytes) : Bytes :=
  let s := toBE 4 input.length ++ toBE 4 48 ++ input ++ [0x80]
  let s := s ++ zeros ((16 - s.length % 16) % 16)
  let bcc := fun (i : Nat) =>
    (chunks 16 (toBE 4 i ++ zeros 12 ++ s)).foldl (fun c b => Aes.enc ((List.range 32).map (BitVec.ofNat 8)) (xorB c b)) (zeros 16)
  let k := bcc 0 ++ bcc 1
  let x0 := Aes.enc k (bcc 2)
  let x1 := Aes.enc k x0
  x0 ++ x1 ++ Aes.enc k x1

/-- The next `n` bytes of the counter stream. -/
def Drbg.out (d : Drbg) (n : Nat) : Bytes :=
  (((List.range ((n + 15) / 16)).map fun i => Aes.enc (toBE 32 d.key.toNat) (toBE 16 (d.v + BitVec.ofNat 128 (i + 1)).toNat)).flatten).take n

/-- Key and V after an update with 48 bytes; `used` blocks of the stream are spent. -/
def Drbg.update (d : Drbg) (used : Nat) (data : Bytes) : Drbg :=
  let d := { d with v := d.v + BitVec.ofNat 128 used }
  let t := xorB (d.out 48) data
  { d with key := BitVec.ofNat 256 (beNat (t.take 32)), v := BitVec.ofNat 128 (beNat (t.drop 32)) }

/-- The instance after a generate request of `n` bytes. -/
def Drbg.served (d : Drbg) (n : Nat) : Drbg :=
  let u := d.update ((n + 15) / 16) (zeros 48)
  { u with since := d.since + 1 }

/-- A reseed with one block (R288). -/
def Drbg.reseeded (d : Drbg) (block : Bytes) : Drbg :=
  let u := d.update 0 (drbgDerive block)
  { u with since := 0, reseeds := d.reseeds + 1, waiting := false }

/-- An instantiation from two blocks; its known-answer test decides the state that it comes to (R288, R289). -/
def Drbg.started (d : Drbg) (a b : Bytes) (katOk : Bool) : Drbg :=
  let u := ({ d with key := 0, v := 0 } : Drbg).update 0 (drbgDerive (a ++ b))
  { u with state := if katOk then 1 else 2, kat := !katOk, since := 0, waiting := false, block := none }

/-! ## Instances -/

def State.drbg (s : State) (i : Nat) : Drbg := s.units.drbgs.get {} i

def State.updDrbg (s : State) (i : Nat) (f : Drbg → Drbg) : State :=
  { s with units := { s.units with drbgs := s.units.drbgs.upd {} i f } }

/-- What a generate request of an instance gives. -/
def State.drbgOut (s : State) (i n : Nat) : Bytes := (s.drbg i).out n

/-- Record and event of an instance that enters its error state (R289), and DEGRADED by a hardware fault (R74). -/
def drbgFailed (i : Nat) (kat : Bool) (s : State) : State :=
  aerInternal kat (raise 572 (tallyRec 0x0902 0 572 none [BitVec.ofNat 8 i, if kat then 1 else 0] s))

/-- An instance enters its error state (R289), cause 0 for want of seed, 1 a known-answer failure. -/
def drbgFail (i : Nat) (kat : Bool) (s : State) : State :=
  drbgFailed i kat (s.updDrbg i fun d => { d with state := 2, kat := kat, waiting := !kat, block := none })

/-- A seed block (R286): 768 raw bits of one source under SHA-256. -/
def State.seedBlock (s : State) : Bytes := Sha2.sha256 (s.freeBytes 96)

/-- Two blocks instantiate an instance, whose known-answer test may fail. -/
def drbgStart (katOk : Bool) (i : Nat) (a b : Bytes) (s : State) : State :=
  let s := s.updDrbg i fun d => d.started a b katOk
  if katOk then s else drbgFailed i true s

/-- A device start or an erase restart instantiates an instance. One that failed its known-answer test waits for a device start (R289). -/
def instantiateDrbg (device : Bool) (katFailed : List Nat) (s : State) (i : Nat) : State :=
  if (s.drbg i).kat && !device then s
  else
    let a := s.seedBlock
    let s := s.drew 96
    drbgStart (!(katFailed.contains i)) i a s.seedBlock (s.drew 96)

/-- The instance waits for a block: not instantiated, in error for want of seed, or at a reseed. -/
def Drbg.wants (d : Drbg) : Bool := d.state = 0 || (d.state = 2 && !d.kat) || d.waiting

/-- An instance takes a block: a reseed takes one, an instantiation two (R288, R289). -/
def seedInstance (katOk : Bool) (i : Nat) (block : Bytes) (s : State) : State :=
  let d := s.drbg i
  if d.state = 1 then s.updDrbg i fun d => d.reseeded block
  else match d.block with
    | none => s.updDrbg i fun d => { d with block := some block }
    | some a => drbgStart katOk i a block s

/-- A reseed: with a block at hand at once, else the instance waits and keeps serving (R289). -/
def drbgReseed (i : Nat) (s : State) : State :=
  if (s.drbg i).state ≠ 1 then s
  else match s.units.seedBlocks with
    | [] => if (s.drbg i).waiting then s else raise 573 (s.updDrbg i fun d => { d with waiting := true })
    | b :: l => seedInstance true i b { s with units := { s.units with seedBlocks := l } }

/-- After requests (R288, R289): at 65,536 since the last reseed the instance reseeds, at 2^20 it is in error. -/
def drbgLimit (i : Nat) (s : State) : State :=
  if 2 ^ 20 ≤ (s.drbg i).since then drbgFail i false s
  else if 65536 ≤ (s.drbg i).since then drbgReseed i s
  else s

/-- One generate request of `n` bytes. -/
def drbgRequest (i n : Nat) (s : State) : State := drbgLimit i (s.updDrbg i fun d => d.served n)

/-- A draw of instance 9 in bytes (R288). -/
def draw9 (n : Nat) (s : State) : Bytes × State := (s.drbgOut 9 n, drbgRequest 9 n s)

end Sys2Proof.Machine
end

