-- ==== Sys2Proof/Machine/Cells.lean ====
section
/-! DEFINITION. What the SRAM of the key store and of the house private store holds (R295 to R299, R302, R306), and what their ports show
once the seeds are gone (R308). State keeps the unmasked content; a cell is that content under the seeds in force. -/

namespace Sys2Proof.Machine

/-! ## The mask (R298) -/

/-- e, s and q in one block, as a number with its most significant byte first (log entry 120). -/
def maskBlock (e : Word) (n q : Nat) : Bytes := toBE 16 ((e.toNat * 2 ^ 18 + n) * 4 + q)

/-- The mask of slot or line `n`: four blocks of AES-256 under the seed. -/
def mask (seed : BitVec 256) (e : Word) (n : Nat) : Bytes :=
  (List.range 4).flatMap fun q => Aes.enc (toBE 32 seed.toNat) (maskBlock e n q)

/-- The seed of epoch e below the boundary, that of e − 1 from it on (R302, R305). -/
def maskAt (new old : BitVec 256) (e : Word) (boundary n : Nat) : Bytes := if n < boundary then mask new e n else mask old (e - 1) n

/-- The keys under which the cells stand: those of the flops, or after the erase line those that the flops held. -/
def State.cellKeys (s : State) : CellKeys :=
  s.kst.residue.getD { new := s.kst.seedNew, old := s.kst.seedOld, houseNew := s.kst.houseNew, houseOld := s.kst.houseOld,
                       check := s.kst.checkKey }

/-! ## Slots (R295, R297, R299) -/

/-- Bytes 0x00 to 0x37 of a slot. -/
def slotBody (v : Slot) : Bytes := padTo 32 v.key ++ toLE 16 v.attrs.toNat ++ toLE 4 v.gen.toNat ++ zeros 4

/-- The 64 bytes of a slot, its integrity tag in the last eight. -/
def slotBytes (check : BitVec 256) (n : Nat) (v : Slot) : Bytes := slotBody v ++ toLE 8 (Config.slotTag check n (slotBody v)).toNat

/-- The stored bytes of a slot: zero where the array is, else masked. -/
def State.cell (s : State) (n : Nat) : Bytes :=
  if s.kst.cleared then zeros 64
  else
    let k := s.cellKeys
    xorB (slotBytes k.check n (s.slot n)) (maskAt k.new k.old s.kst.epoch s.kst.boundary n)

/-- The check columns beside a slot: a byte for each of its eight words. -/
def State.cellChecks (s : State) (n : Nat) : Bytes := (chunks 8 (s.cell n)).map fun w => Config.secded (BitVec.ofNat 64 (leNat w))

/-- What the port makes of a cell with the seeds that the flops hold. -/
def State.portRead (s : State) (n : Nat) : Bytes :=
  xorB (s.cell n) (maskAt s.kst.seedNew s.kst.seedOld s.kst.epoch s.kst.boundary n)

/-- The slot that the port shows: what is stored while its seeds exist; nothing where the array is zero; else what the wrong mask leaves. -/
def State.shownSlot (s : State) (n : Nat) : Slot :=
  if s.kst.cleared then {}
  else match s.kst.residue with
    | none => s.slot n
    | some _ =>
      let b := s.portRead n
      { key := b.take 32, attrs := BitVec.ofNat 128 (fieldLE b 0x20 16), gen := BitVec.ofNat 32 (fieldLE b 0x30 4) }

/-! ## The house private store (R306) -/

/-- Content of the store by its address: context keys, roster digests, the bond key, the house roster (log entry 120). -/
def State.houseByte (s : State) (a : Nat) : Byte :=
  if a < 131072 then byteAt ((s.pitch (a / 32)).ctxKey.getD []) (a % 32)
  else if a < 327680 then byteAt (s.pitch ((a - 131072) / 48)).rosterDigest ((a - 131072) % 48)
  else if a < 327712 then byteAt (s.kst.bond.getD []) (a - 327680)
  else match s.own.houseRoster with
    | some r => byteAt (rosterBytes r) (a - 327712)
    | none => 0

def houseLines : Nat := 8192

/-- Bytes 0x00 to 0x37 of a line: 48 bytes of content, and a check field without a generation. -/
def State.houseBody (s : State) (n : Nat) : Bytes := ((List.range 48).map fun i => s.houseByte (48 * n + i)) ++ zeros 8

/-- The stored bytes of a line; the boundary passes one line after every 32 slots (R303). -/
def State.houseCell (s : State) (n : Nat) : Bytes :=
  if s.kst.cleared then zeros 64
  else
    let k := s.cellKeys
    let b := s.houseBody n
    xorB (b ++ toLE 8 (Config.slotTag k.check n b).toNat) (maskAt k.houseNew k.houseOld s.kst.epoch (s.kst.boundary / 32) n)

end Sys2Proof.Machine
end

