-- ==== Sys2Proof/Machine/Alarm.lean ====
section
/-! DEFINITION. The shared responses of the protection hardware: service stops, HOLD (R356, R357), the erase line (R307 to
R310), qualification of a tamper source (R347 to R363), a TWIN mismatch (R144). -/

namespace Sys2Proof.Machine

/-- LCS_STATE from the two fuse fields (R373): a thermometer code with its exact inverse, else 0xF. -/
def lcsCode (t c : BitVec 5) : Nat :=
  if c ≠ ~~~t then 0xF
  else match t.toNat with
    | 0 => 0
    | 1 => 1
    | 3 => 2
    | 7 => 3
    | 15 => 4
    | 31 => 5
    | _ => 0xF

def State.lcsState (s : State) : Nat := lcsCode s.lcs.fuses.lcsT s.lcs.fuses.lcsC

/-- Fields locked at FIELDED accept no commit any more (R372, R375). -/
def State.locked (s : State) : Bool := decide (3 ≤ s.lcsState)

/-- An erase runs: from the erase line to the end of the restart (R308). -/
def State.erasing (s : State) : Bool := s.kst.phase ≠ 0 && s.kst.phase ≠ 4

/-- No CSN is taken after that of the erase record until the restart ends (R309). -/
def State.csnClosed (s : State) : Bool := s.kst.phase = 3 && s.glb.startDone

/-- GLB_STATUS.READY (R455): the start is complete and the device serves: no HOLD, no Quiet state longer than 1 ms, no erase until
its restart ends (R308). -/
def State.ready (s : State) : Bool := s.glb.startDone && !s.tmp.hold && !s.pwr.quietLong && !s.erasing

/-- No command is granted a recipe context, a core, a lane group or an engine (R308, R356, R411, R422, R440), or the device is not
serving yet. -/
def State.dispatchStopped (s : State) : Bool :=
  !s.glb.startDone || s.tmp.hold || s.pwr.quiet || s.erasing || s.par.yieldStep ≠ 0
    || !(s.par.role = .active || s.par.role = .solo || s.par.role = .single)

/-- Sweeping and fetching are stopped: also while a calibration runs (R446). -/
def State.fetchStopped (s : State) : Bool := s.dispatchStopped || s.pwr.calState = 1

/-- Sources whose class is ERASE for ever (R347). -/
def fixedSource (n : Nat) : Bool := n ≤ 5 || (28 ≤ n && n ≤ 33) || n = 44

/-- Default classes of R347, two bits a source: HOLD for 6 and 45 to 47, NOTE for 16 and 21 to 23, ERASE for the others. -/
def defaultClass (n : Nat) : Nat :=
  if n = 6 ∨ (45 ≤ n ∧ n ≤ 47) then 1 else if n = 16 ∨ (21 ≤ n ∧ n ≤ 23) then 0 else 2

def packClasses (f : Nat → Nat) : Nat → Nat
  | 0 => 0
  | n + 1 => packClasses f n + f n * 4 ^ n

def defaultClasses : BitVec 96 := BitVec.ofNat 96 (packClasses defaultClass 48)

/-- The class of a source in force (R347, R358). -/
def State.classOf (s : State) (n : Nat) : Nat :=
  if fixedSource n then 2
  else
    let r := if n < 16 then s.tmp.class0 else if n < 32 then s.tmp.class1 else s.tmp.class2
    r.val.toNat / 4 ^ (n % 16) % 4

def setBit48 (v : BitVec 48) (n : Nat) : BitVec 48 := v ||| ((1 : BitVec 48) <<< n)
def clearBit48 (v : BitVec 48) (n : Nat) : BitVec 48 := v &&& ~~~((1 : BitVec 48) <<< n)

/-- A channel ended by the erase line: code 7, its event kept until the restart (R338). -/
def chanErase (c : Channel) : Channel :=
  if c.state = 0 then c else { c with state := 3, code := 7, d := none, buffer := [], retrying := false, ended := some 7 }

/-- An engine or unit that stops: idle, its operation discarded, its long-operation register cleared (R280, R281). -/
def unitStop (u : FuncUnit) : FuncUnit :=
  if u.state = 1 ∨ u.state = 2 then
    { u with state := 0, entry := none, checks := none, behind := false, core := none, handover := false, longValid := false,
             longPitch := 0, longOpcode := 0, longTag := 0 }
  else u

/-- Secret registers of a recipe context are cleared (R308). -/
def ctxErase (c : Ctx) : Ctx := { c with secret := List.replicate 8 0 }

/-- The erase line rises (R307, R308): seeds and keys are cleared, so the cells stand under seeds that exist nowhere; engines, DMA and
fetching stop, the erase latch is set. While it is high nothing more happens. -/
def eraseRise (source : BitVec 4) (s : State) : State :=
  if s.kst.line then s
  else
    let s := { s with
      kst := { s.kst with readable := false, residue := some s.cellKeys, seedNew := 0, seedOld := 0, houseNew := 0, houseOld := 0,
                          checkKey := 0, memKey := 0, dsk := none, identity := false, opened := false, line := true, phase := 1, overwriteOk := false,
                          paused := true, eraseMap := 0 },
      bat := { s.bat with latch := true, latchSource := source, count := satInc s.bat.count },
      caches := { s.caches with kbc := [], dkc := [], walker0 := none, walker1 := none, walkQueue := [] },
      cmc := { s.cmc with ctxs := s.cmc.ctxs.mapv {} fun _ c => ctxErase c },
      units := { s.units with pke := s.units.pke.mapv {} fun _ u => unitStop u,
                              ltc := s.units.ltc.mapv {} fun _ u => unitStop u, reqs := [] },
      pit := { s.pit with pitches := s.pit.pitches.mapv {} fun _ v =>
                 { v with ctxKey := none, exportAuth := none } },
      dma := s.dma.mapv {} fun _ c => chanErase c }
    raise 360 s

/-- A HOLD source comes into force (R356). -/
def holdStart (n : Nat) (s : State) : State :=
  { s with tmp := { s.tmp with hold := true, inForce := setBit48 s.tmp.inForce n,
                               releasing := if 44 ≤ n then setBit48 s.tmp.releasing n
                                            else clearBit48 s.tmp.releasing n } }

/-- A qualified source joins the window in progress or opens one (R360); while the erase line is high it joins the erase record
instead (R361). -/
def windowJoin (n c : Nat) (s : State) : State :=
  if s.kst.line then { s with kst := { s.kst with eraseMap := setBit48 s.kst.eraseMap n } }
  else match s.tmp.window with
    | some w =>
      { s with tmp := { s.tmp with window := some { w with sources := setBit48 w.sources n,
                                                            cls := if w.cls.toNat < c then BitVec.ofNat 2 c else w.cls } } }
    | none =>
      { s with tmp := { s.tmp with window := some { sources := setBit48 0 n, cls := BitVec.ofNat 2 c, opener := BitVec.ofNat 6 n },
                                   eraseWindow := false, windows := satInc s.tmp.windows } }

/-- The class of a qualified source acts (R355, R361, R362): ERASE raises the line, unless the source has not re-armed; the window
in progress goes into the erase record. -/
def classAct (n c : Nat) (s : State) : State :=
  if c = 2 then
    if s.kst.line ∨ s.tmp.disarmed.getLsbD n then s
    else
      let map := match s.tmp.window with | some w => w.sources | none => 0
      let s := eraseRise 1 s
      { s with kst := { s.kst with eraseMap := map },
               tmp := { s.tmp with eraseWindow := true,
                                   disarmed := if n < 44 then setBit48 s.tmp.disarmed n else s.tmp.disarmed } }
  else if c = 1 then holdStart n s
  else s

/-- A source qualifies (R347, R348, R355, R359, R365): its latch and event, its window, its class. A disabled source and any source
before the end of fuse sense never qualify; a level source that still holds does not qualify again. -/
def qualify (n : Nat) (s : State) : State :=
  if s.tmp.disabled.getLsbD n ∨ s.tmp.handover = false ∨ 48 ≤ n then s
  else if n < 44 ∧ s.tmp.active.getLsbD n then s
  else
    let c := s.classOf n
    let s := { s with tmp := { s.tmp with latch := setBit48 s.tmp.latch n,
                                          active := if n < 44 then setBit48 s.tmp.active n else s.tmp.active } }
    classAct n c (windowJoin n c (raise (376 + n) s))

/-- The payload of a window: bitmap, highest class, temperatures, lowest rail reading (R360). -/
def State.windowPayload (s : State) (map : BitVec 48) (cls : Nat) : Bytes :=
  toLE 6 map.toNat ++ [BitVec.ofNat 8 cls, s.tmp.temp0, s.tmp.temp1, s.tmp.tempb] ++ toLE 2 s.pwr.lowest.toNat

/-- A unit leaves service at once for a triggered BIST pass (R144, R275, R453). -/
def bistTrigger (region source : Nat) (s : State) : State :=
  { s with bst := { s.bst with triggered := s.bst.triggered ++ [(region, source)] } }

/-- The position of a physical lane, under which its event runs: the spare group takes over the position of the group it
replaces (R144, R470). -/
def State.lanePos (s : State) (a : Nat) : Nat :=
  if a < 96 then a
  else match s.bst.retired.find? (fun r => decide (r < 24)) with
    | some g => 4 * g + a % 4
    | none => a % 4

/-- A failed lane comparison (R144, steps 4 and 5; R145): the record, the alarm, both groups to BIST. Position events: R470; the
record carries the first lane's. -/
def twinMismatch (a b : BitVec 7) (p : BitVec 12) (op : BitVec 16) (s : State) : State :=
  let s := { s with cmc := { s.cmc with
    twinCount := satInc s.cmc.twinCount, twinValid := true,
    twinA := if s.cmc.twinValid then s.cmc.twinA else a, twinB := if s.cmc.twinValid then s.cmc.twinB else b } }
  let s := tallyRec 0x0502 0 (BitVec.ofNat 10 (64 + s.lanePos a.toNat)) none
    ([BitVec.ofNat 8 a.toNat, BitVec.ofNat 8 b.toNat] ++ toLE 2 p.toNat ++ toLE 2 op.toNat) s
  let s := raise (64 + s.lanePos a.toNat) (raise (64 + s.lanePos b.toNat) s)
  let s := qualify 45 s
  bistTrigger (b.toNat / 4) 45 (bistTrigger (a.toNat / 4) 45 s)

end Sys2Proof.Machine
end

