-- ==== Sys2Proof/Machine/Journal.lean ====
section
/-! DEFINITION. The sealed store (R311 to R313): the form of a record, and the landing of records in both flashes. How a payload is laid
out, where R311 does not say, is log entry 121. -/

namespace Sys2Proof.Machine

/-! ## The record (R311) -/

/-- Type and object number. -/
def Sealed.object : Sealed → Nat × Nat
  | .slot n _ => (1, n.toNat)
  | .counter n _ => (1, n.toNat)
  | .pmk p _ => (2, p.toNat)
  | .contextKey p _ _ => (3, p.toNat * 32 / 48)
  | .bond _ => (3, 327680 / 48)
  | .pitch p _ => (4, p.toNat)
  | .block n _ => (4, n.toNat)
  | .roster t _ => (5, t.toNat)

def PitchState.code : PitchState → Nat
  | .free => 0
  | .active => 1
  | .suspended => 2
  | .deleting => 3

/-- The payload before it is sealed. -/
def Sealed.payload : Sealed → Bytes
  | .slot _ v => (slotBody v).take 0x34
  | .counter _ v => (slotBody v).take 0x34
  | .pmk _ t => (t.map fun o => toLE 4 (match o with | some n => n.toNat | none => 2 ^ 32 - 1)).flatten
  | .contextKey _ k g => padTo 32 (k.getD []) ++ toLE 8 g.toNat
  | .bond k => padTo 32 (k.getD [])
  | .pitch _ v => [BitVec.ofNat 8 v.state.code, v.pers.setWidth 8] ++ toLE 4 v.quota ++ toLE 2 v.reserve ++ toLE 2 v.weight
      ++ toLE 4 v.cfg.val.toNat ++ toLE 2 v.kbcCap ++ toLE 2 v.dkcCap
  | .block _ o => toLE 2 (match o with | .home => 0xFFFE | .other p => p.toNat | .unassigned => 0xFFFF)
  | .roster _ r => match r with
    | some r => rosterBytes r
    | none => []

/-- One 128-byte unit: header, sealed payload, tag under the DSK. -/
def sealUnit (dsk : Bytes) (ty len obj csn : Nat) (iv payload : Bytes) : Bytes :=
  let head := toLE 2 ty ++ toLE 2 len ++ toLE 4 obj ++ toLE 8 csn ++ padTo 12 iv ++ zeros 4
  let (c, tag) := gcmSeal dsk (padTo 12 iv) head (padTo 64 payload)
  head ++ c ++ tag ++ List.replicate 16 0xFF

/-- A record as the flashes hold it; a payload of more than 64 bytes runs over several units. -/
def JRec.sealed (dsk : Bytes) (r : JRec) : Bytes :=
  let p := r.what.payload
  let (ty, obj) := r.what.object
  (List.range (max 1 ((p.length + 63) / 64))).flatMap fun i => sealUnit dsk ty p.length obj r.csn (r.iv.drop (12 * i)) (slice p (64 * i) 64)

/-- IV bytes that a record takes, 12 for each of its units. -/
def JRec.ivBytes (r : JRec) : Nat := 12 * max 1 ((r.what.payload.length + 63) / 64)

/-! ## Landing -/

/-- A record is sealed with an IV that instance 9 gives. -/
def sealRec (r : JRec) (s : State) : JRec × State :=
  let (iv, s) := draw9 r.ivBytes s
  ({ r with iv := iv }, s)

def sealAll : List JRec → State → List JRec × State
  | [], s => ([], s)
  | r :: l, s =>
    let (r, s) := sealRec r s
    let (l, s) := sealAll l s
    (r :: l, s)

/-- A flash with records appended (R312). -/
def flashAppend (l : List JRec) (f : Flash) : Flash := { f with records := f.records ++ l }

/-- Records reach both flashes (R311). -/
def journalLand (l : List JRec) (s : State) : State :=
  if !s.kst.opened then s
  else
    let (l, s) := sealAll l s
    { s with kst := { s.kst with flash0 := flashAppend l s.kst.flash0, flash1 := flashAppend l s.kst.flash1,
                                 lastCsn := l.foldl (fun a r => max a r.csn) s.kst.lastCsn } }

/-- All pending records are written (R312, R440, R442). While instance 9 is in error they cannot be sealed and stay pending. -/
def journalNow (s : State) : State :=
  if s.kst.opened && (s.drbg 9).state = 2 then s
  else journalLand (s.kst.writing ++ s.kst.journal) { s with kst := { s.kst with writing := [], journal := [] } }

/-- JOURNAL_FLUSH_TIMER (R311): the write of the pending records starts. -/
def execJournalFlushTimer (s : State) : Host.Outcome State Fault Refusal := .next (journalStart s)

/-- JOURNAL_WRITE_DONE (R311): the records are in both flashes; with 8 pending the next write starts. It waits while instance 9 gives no
IV. -/
def journalWriteDone (s : State) : State :=
  if s.kst.opened && (s.drbg 9).state = 2 then s
  else
    let s := journalLand s.kst.writing { s with kst := { s.kst with writing := [] } }
    if 8 ≤ s.kst.journal.length then journalStart s else s

def execJournalWriteDone (s : State) : Host.Outcome State Fault Refusal := .next (journalWriteDone s)

/-- Key-store writes of the security controller are deferred while supplies warn (R304), and wait for space in the journal (R311). -/
def State.storeWaits (s : State) : Bool := s.pwr.quiet || s.journalFull

/-- A record of the pitch's PMKs, roster or context key waits for the flashes (R54 step 6). -/
def State.removalPending (s : State) (p : Nat) : Bool :=
  (s.kst.writing ++ s.kst.journal).any fun r => match r.what with
    | .pmk q _ => q.toNat = p
    | .contextKey q _ _ => q.toNat = p
    | .roster t _ => t.toNat = p
    | _ => false

end Sys2Proof.Machine
end

