-- ==== Sys2Proof/Machine/Pitch.lean ====
section
/-! DEFINITION. Writes of the PIT block by register (R32 to R55, R58, R63): pitch control, quotas, cache shares, windows, slot
blocks; and the end of a deletion (R54). -/

namespace Sys2Proof.Machine

/-- A write of the PIT block reaches the pitch: from the owner or the security controller only, else ignored (R58); on a
standby only window registers (R411); the host over a link that is not cut (R73). -/
def pitGuard (who : Who) (window : Bool) (f : State → State) (s : State) : State :=
  if !(s.isOwner who || isSec who) then s
  else fromHost who (fun s =>
    if !window && (s.par.role = .standby || s.par.role = .syncing) then pitErr who 3 s else f s) s

def State.selPitch (s : State) (who : Who) : Nat := (s.pitSel who).pitch.toNat

/-- A write for the selected pitch; refused with code 3 while it is FREE (R63). -/
def pitWrite (who : Who) (window : Bool) (f : Nat → State → State) (s : State) : State :=
  pitGuard who window (fun s =>
    let p := s.selPitch who
    if (s.pitch p).state = .free then pitErr who 3 s else f p s) s

/-- A change by register is journalled and mirrored under the highest CSN committed (log entry 11). -/
def sealNow (p : Nat) (s : State) : State := sealPitch p s.csn s

/-- Whether rings of the pitch are swept (R32). -/
def suspendPitch (who : Who) (p : Nat) (s : State) : State :=
  if (s.pitch p).state = .active then sealNow p (s.updPitch p fun v => { v with state := .suspended })
  else pitErr who 3 s

def resumePitch (who : Who) (p : Nat) (s : State) : State :=
  if (s.pitch p).state = .suspended then sealNow p (s.updPitch p fun v => { v with state := .active })
  else pitErr who 3 s

/-- PIT_CTRL (R33, R63); every write for a DELETING pitch is refused with code 3 (R55). -/
def pitCtrlWrite (who : Who) (v : Word) (s : State) : State :=
  pitWrite who false (fun p s =>
    if (s.pitch p).state = .deleting then pitErr who 3 s
    else if v.getLsbD 0 && v.getLsbD 1 then pitErr who 1 s
    else if v.getLsbD 0 then suspendPitch who p s
    else if v.getLsbD 1 then resumePitch who p s
    else s) s

/-- PITCH_SUSPEND (R33): PIT_CTRL written with suspend. -/
def execPitchSuspend (who : Who) (v : Word) (s : State) : Host.Outcome State Fault Refusal := .next (pitCtrlWrite who v s)

/-- PITCH_RESUME (R33): PIT_CTRL written with resume. -/
def execPitchResume (who : Who) (v : Word) (s : State) : Host.Outcome State Fault Refusal := .next (pitCtrlWrite who v s)

/-- The bits [17:0] of PIT_QUOTA: 1 to 131,072 (R43, R63). -/
def quotaWrite (who : Who) (v : Word) (s : State) : State :=
  pitWrite who false (fun p s =>
    let q := v.toNat % 2 ^ 18
    if q = 0 ∨ 131072 < q then pitErr who 1 s
    else sealNow p (s.updPitch p fun x => { x with quota := q })) s

/-- PIT_RESERVE: 0 to 4,096, the device-wide sum at most 65,536 (R41, R63). -/
def reserveWrite (who : Who) (v : Word) (s : State) : State :=
  pitWrite who false (fun p s =>
    let r := v.toNat % 2 ^ 13
    if 4096 < r then pitErr who 1 s
    else if 65536 < s.reserveSum - (s.pitch p).reserve + r then pitErr who 2 s
    else sealNow p (s.updPitch p fun x => { x with reserve := r })) s

/-- PIT_QUOTA_RESERVE_WRITE (R41, R43). -/
def execPitQuotaReserveWrite (who : Who) (reserve : Bool) (v : Word) (s : State) : Host.Outcome State Fault Refusal :=
  .next (if reserve then reserveWrite who v s else quotaWrite who v s)

/-- PIT_WEIGHT: 1 to 255 (R63). -/
def weightWrite (who : Who) (v : Word) (s : State) : State :=
  pitWrite who false (fun p s =>
    let w := v.toNat % 256
    if w = 0 then pitErr who 1 s else sealNow p (s.updPitch p fun x => { x with weight := w })) s

/-- Every entry of a pitch in both caches becomes invalid; entry sequences stay (R53, R113). -/
def dropCaches (p : Nat) (s : State) : State :=
  { s with caches := { s.caches with
      kbc := s.caches.kbc.mapv {} (fun k e => if k / 2 ^ 22 = p then { e with valid := false } else e),
      dkc := s.caches.dkc.mapv {} (fun k e => if k / 2 ^ 23 = p then { e with valid := false } else e) } }

/-- The pitch's generation advances, so its entries are stale at once; a wrap sweeps both caches (R53, R54, R171). -/
def bumpGen (p : Nat) (s : State) : State :=
  let wrap := (s.pitch p).gen = 0xFFFF
  let s := s.updPitch p fun v => { v with gen := v.gen + 1 }
  if wrap then
    let s := dropCaches p s
    { s with caches := { s.caches with kbcSweeping := true, dkcSweeping := true,
                                       sweeps := s.caches.sweeps ++ [(BitVec.ofNat 12 p, true, true)] } }
  else s

/-- New cache shares of a pitch (R52, R171): the ranges, the sums, then the generation. The error code, or the state. -/
def setShares (p kbc dkc : Nat) (s : State) : Except (BitVec 4) State :=
  let v := s.pitch p
  if 4096 < kbc ∨ 8192 < dkc then .error 1
  else if 4096 < s.kbcSum - v.kbcCap + kbc ∨ 8192 < s.dkcSum - v.dkcCap + dkc then .error 2
  else if kbc = v.kbcCap ∧ dkc = v.dkcCap then .ok s
  else .ok (bumpGen p (s.updPitch p fun v => { v with kbcCap := kbc, dkcCap := dkc }))

/-- PIT_CACHE (R52, R55, R171). -/
def cacheShareWrite (who : Who) (v : Word) (s : State) : State :=
  pitWrite who false (fun p s =>
    if (s.pitch p).state = .deleting then pitErr who 3 s
    else match setShares p (v.toNat % 2 ^ 13) (v.toNat / 2 ^ 16 % 2 ^ 14) s with
      | .error c => pitErr who c s
      | .ok s => sealNow p s) s

/-- CACHE_SHARE_CHANGE (R171). -/
def execCacheShareChange (who : Who) (v : Word) (s : State) : Host.Outcome State Fault Refusal := .next (cacheShareWrite who v s)

/-! ## Windows (R48 to R51) -/

def padWindows (l : List Window) : List Window := l ++ List.replicate (8 - l.length) ({} : Window)

/-- The selected staged window changed (R50). -/
def stageWindow (who : Who) (f : Window → Window) (s : State) : State :=
  pitWrite who true (fun p s =>
    let i := (s.pitSel who).win.toNat
    s.updPitch p fun v =>
      let l := padWindows v.staged
      { v with staged := l.set i (f (l.getD i {})) }) s

def Window.bytes (w : Window) : Nat := w.pages.toNat * 4096

/-- Two windows overlap on a port (R48). -/
def windowsOverlap (a b : Window) : Bool :=
  a.pages ≠ 0 && b.pages ≠ 0 && ((a.portA && b.portA) || (a.portB && b.portB))
    && decide (a.base.toNat < b.base.toNat + b.bytes) && decide (b.base.toNat < a.base.toNat + a.bytes)

def overlapSet : List Window → Bool
  | [] => false
  | w :: ws => ws.any (windowsOverlap w) || overlapSet ws

/-- A staged set may be committed: no overlap on a port, no range past 2^64 (R50). -/
def windowSetOk (l : List Window) : Bool :=
  !overlapSet l && l.all fun w => decide (w.base.toNat + w.bytes ≤ 2 ^ 64)

/-- PIT_WIN_COMMIT (R50, R51, R55): all 8 live windows are replaced at once, or none. -/
def winCommit (who : Who) (v : Word) (s : State) : State :=
  pitWrite who true (fun p s =>
    if !v.getLsbD 0 then s
    else if (s.pitch p).state = .deleting then pitErr who 3 s
    else if windowSetOk (padWindows (s.pitch p).staged) then
      s.updPitch p fun v => { v with live := padWindows v.staged, winSet := v.winSet + 1 }
    else pitErr who 4 s) s

/-- PIT_WIN_COMMIT (R50). -/
def execPitWinCommit (who : Who) (v : Word) (s : State) : Host.Outcome State Fault Refusal := .next (winCommit who v s)

/-! ## Slot blocks (R45 to R47) -/

/-- The pitch that owns a block (R45). -/
def State.blockOwner (s : State) (n : Nat) : Option Nat :=
  match s.pit.blocks.get .home n with
  | .home => some n
  | .other p => some p.toNat
  | .unassigned => none

def slotKind (v : Slot) : Nat := v.attrs.toNat % 4

/-- Slots of a block that are occupied (R63, PIT_BLK_USED). -/
def State.blockUsed (s : State) (n : Nat) : Nat :=
  (s.kst.slots.filter fun e => e.1 / 64 = n && slotKind e.2 ≠ 0).length

/-- PIT_BLK_OWNER (R47, R55): neither owner DELETING, all 64 slots empty; the reassignment takes a CSN. DESIGN CHOICE (log entry 99): the
write is judged by the block alone, also while PIT_SEL names a FREE pitch, because R47 has it act on the block of PIT_BLK_SEL; R63's general
refusal with code 3 would read otherwise. While no CSN may be taken (R309) the write waits: it has no effect until it comes again. -/
def blkOwnerWrite (who : Who) (v : Word) (s : State) : State :=
  if s.csnClosed then s else pitGuard who false (fun s =>
    let n := (s.pitSel who).blk
    let deleting := fun o : Option Nat => match o with | some p => (s.pitch p).state = .deleting | none => false
    let old := s.blockOwner n.toNat
    let new : Option (BitVec 12) := if v.getLsbD 12 then none else some (v.extractLsb' 0 12)
    if deleting old || deleting (new.map (·.toNat)) then pitErr who 3 s
    else if s.blockUsed n.toNat ≠ 0 then pitErr who 5 s
    else
      let o : BlockOwner := match new with
        | none => .unassigned
        | some p => if p = n then .home else .other p
      let c := nextCsn s
      let s := tookCsn s
      let s := { s with pit := { s.pit with blocks := s.pit.blocks.set .home n.toNat o } }
      mirror (.block n c new) (journal (.block n o) c s)) s

/-- PIT_BLK_OWNER_WRITE (R47). -/
def execPitBlkOwnerWrite (who : Who) (v : Word) (s : State) : Host.Outcome State Fault Refusal := .next (blkOwnerWrite who v s)

/-! ## Deletion (R54) -/

/-- A slot of the pitch's blocks overwritten with zeros and emptied; its generation advances (R54 step 4, R297). -/
def emptySlotOf (s : State) (p n : Nat) (v : Slot) : Slot :=
  if s.blockOwner (n / 64) = some p ∧ slotKind v ≠ 0 then { key := [], attrs := 0, gen := v.gen + 1 } else v

def emptySlots (p : Nat) (s : State) : State :=
  let gone := s.kst.slots.filter fun e => s.blockOwner (e.1 / 64) = some p && slotKind e.2 ≠ 0
  let s := { s with kst := { s.kst with slots := s.kst.slots.mapv {} (emptySlotOf s p) } }
  gone.foldl (fun s e =>
    let v := s.slot e.1
    mirror (.slot (BitVec.ofNat 18 e.1) s.csn v.key v.attrs v.gen v.tag) (journal (.slot (BitVec.ofNat 18 e.1) v) s.csn s)) s

def State.slotsUsed (s : State) (p : Nat) : Nat :=
  (s.kst.slots.filter fun e => s.blockOwner (e.1 / 64) = some p && slotKind e.2 ≠ 0).length

/-- Rings of a pitch released, windows cleared (R54 step 3). -/
def releaseRings (p : Nat) (s : State) : State :=
  let s := (List.range 4).foldl (fun s i => s.updSq p i fun _ => {}) s
  let s := s.updCq p fun _ => {}
  s.updPitch p fun v => { v with live := [], staged := [] }

/-- The records that remove a pitch's PMKs, roster and context key from the sealed store (R54 step 6). -/
def removePitch (p : Nat) (s : State) : State :=
  let n := BitVec.ofNat 12 p
  let s := journal (.pmk n [none, none, none, none]) s.csn s
  let s := mirror (.pmk n s.csn [none, none, none, none]) s
  journal (.contextKey n none 0) s.csn (journal (.roster (BitVec.ofNat 16 p) none) s.csn s)

/-- PITCH_DELETE_DRAINED (R54 steps 3 to 5, and the start of step 6): runs once a DELETING pitch has nothing in flight, and not while
key-store writes wait (R304, R311). The number of slots emptied is kept for the record of step 7. -/
def pitchDeleteDrained (p : Nat) (s : State) : State :=
  let v := s.pitch p
  if v.state = .deleting ∧ v.inFlight = 0 ∧ v.delStep = 0 ∧ ¬ s.storeWaits then
    let n := s.slotsUsed p
    let s := emptySlots p (releaseRings p s)
    let s := bumpGen p s
    removePitch p (s.updPitch p fun v => { v with kbcCap := 0, dkcCap := 0, reserve := 0, pmk := [none, none, none, none], delStep := n + 1 })
  else s

def execPitchDeleteDrained (p : BitVec 12) (s : State) : Host.Outcome State Fault Refusal := .next (pitchDeleteDrained p.toNat s)

/-- PITCH_FREED (R54 steps 6 and 7): once the removals stand in both flashes, roster, context key, replay filter and export authorisation
go; the record; FREE. A cache sweep of a generation wrap ends first. Bindings stay (R75: they belong to the ring block). -/
def pitchFreed (p : Nat) (s : State) : State :=
  let v := s.pitch p
  if v.state = .deleting ∧ v.delStep ≠ 0 ∧ ¬ s.caches.sweeps.any (fun x => x.1.toNat = p) ∧ ¬ s.removalPending p ∧ ¬ s.csnClosed then
    let c := nextCsn s
    let s := (tookCsn s).updPitch p fun v =>
      { gen := v.gen, bindA := v.bindA, bindB := v.bindB, fnA := v.fnA, fnB := v.fnB, winSet := v.winSet }
    sealPitch p c (tallyRec 0x0402 0 0x3FF (some c) (toLE 2 p ++ toLE 4 (v.delStep - 1)) s)
  else s

def execPitchFreed (p : BitVec 12) (s : State) : Host.Outcome State Fault Refusal := .next (pitchFreed p.toNat s)

end Sys2Proof.Machine
end

