-- ==== Sys2Proof/Machine/Rwi.lean ====
section
/-! DEFINITION. Inverted-shadow registers (R7 to R9): which registers they are, who may write them, what a commit does, and why a
write is discarded. -/

namespace Sys2Proof.Machine

/-- The RWI registers. -/
inductive RwiReg where
  | pitCfg (p : Nat)
  | pers (n : Nat)
  | mpuPerm (k : Nat)
  | churn
  | eraseCmd
  | tmpClass (bank : Nat)
  | holdCfg
  | tempLimit
  | encCfg
  | emeshCfg
  deriving DecidableEq, Repr

/-- Key of the selected MPU region: 32 × initiator + region. -/
def State.mpuKey (s : State) : Nat := 32 * s.mpu.selIni.toNat + s.mpu.selRgn.toNat

/-- The RWI register at a register offset, as the initiator's selectors stand. -/
def State.rwiReg (s : State) (who : Who) (off : Nat) : Option RwiReg :=
  match off with
  | 0x030008 => some (.pitCfg (s.selPitch who))
  | 0x0300C0 => some (.pers 0)
  | 0x0300C8 => some (.pers 1)
  | 0x0300D0 => some (.pers 2)
  | 0x0300D8 => some (.pers 3)
  | 0x080014 => some (.mpuPerm s.mpuKey)
  | 0x090004 => some .churn
  | 0x090014 => some .eraseCmd
  | 0x120008 => some (.tmpClass (s.selOf who).tmpBank.toNat)
  | 0x120020 => some .holdCfg
  | 0x130004 => some .tempLimit
  | 0x13000C => some .encCfg
  | 0x130018 => some .emeshCfg
  | _ => none

def Mpu.region (m : Mpu) (k : Nat) : Region := m.regions.get {} k
def State.region (s : State) (k : Nat) : Region := s.mpu.region k
def State.updRegion (s : State) (k : Nat) (f : Region → Region) : State :=
  { s with mpu := { s.mpu with regions := s.mpu.regions.upd {} k f } }

/-- The committed value and inverse. -/
def State.rwiGet (s : State) : RwiReg → Rwi
  | .pitCfg p => (s.pitch p).cfg
  | .pers n => match n with | 0 => s.pit.pers0 | 1 => s.pit.pers1 | 2 => s.pit.pers2 | _ => s.pit.pers3
  | .mpuPerm k => (s.region k).perm
  | .churn => s.kst.churnPeriod
  | .eraseCmd => s.kst.eraseCmd
  | .tmpClass b => match b with | 0 => s.tmp.class0 | 1 => s.tmp.class1 | 2 => s.tmp.class2 | _ => {}
  | .holdCfg => s.tmp.holdCfg
  | .tempLimit => s.tmp.tempLimit
  | .encCfg => s.tmp.encCfg
  | .emeshCfg => s.tmp.emeshCfg

/-- The fields of a register: reserved bits are not kept (R5). -/
def RwiReg.mask : RwiReg → Word
  | .pitCfg _ => 0x701
  | .pers _ => 1
  | .mpuPerm _ => 0x800001FF
  | .churn => 3
  | .eraseCmd => 0xFF
  | .tmpClass _ => 0xFFFFFFFF
  | .holdCfg => 0x3FFF
  | .tempLimit => 0xFFFF
  | .encCfg => 0xFFFFFF
  | .emeshCfg => 3

/-- A committed value with its inverse (R8, R9). -/
def Rwi.of (v : Word) : Rwi := ⟨v, ~~~v⟩

def putPers (n : Nat) (r : Rwi) (p : Pit) : Pit :=
  match n with
  | 0 => { p with pers0 := r }
  | 1 => { p with pers1 := r }
  | 2 => { p with pers2 := r }
  | _ => { p with pers3 := r }

def putClass (b : Nat) (r : Rwi) (t : Tmp) : Tmp :=
  match b with
  | 0 => { t with class0 := r }
  | 1 => { t with class1 := r }
  | 2 => { t with class2 := r }
  | _ => t

/-- The three class registers as one value of two bits a source. -/
def State.classBits (s : State) : BitVec 96 := s.tmp.class2.val ++ s.tmp.class1.val ++ s.tmp.class0.val

/-- The battery domain's copy is written at every commit of a register it holds (R364). -/
def bumpCopy (s : State) : State :=
  let c : BatCopy :=
      { classes := s.classBits, disabled := s.tmp.disabled, tempLimit := s.tmp.tempLimit.val, encCfg := s.tmp.encCfg.val,
        emeshCfg := s.tmp.emeshCfg.val, holdCfg := s.tmp.holdCfg.val }
  { s with bat := { s.bat with copy := some c } }

/-- The sealed store's device values, in both flashes (R305, R358, R442). -/
def sealFlashes (f : Flash → Flash) (s : State) : State :=
  if !s.kst.opened then s else
  { s with kst := { s.kst with flash0 := f s.kst.flash0, flash1 := f s.kst.flash1 } }

/-- PAR_CFG as a word (R427). -/
def State.parCfgWord (s : State) : Word :=
  BitVec.ofNat 32 (s.par.drainUs.toNat * 2 ^ 12 + (if s.par.fence then 2 ^ 10 else 0)
    + (if s.par.degradedOk then 2 ^ 9 else 0) + s.par.soloMs.toNat * 2 ^ 5 + s.par.ackTimeout.toNat)

/-- The device configuration record of a skim (R414, type 9). -/
def State.deviceRecord (s : State) : SkimRecord :=
  .device s.csn (if s.par.relaxed then 1 else 0) (BitVec.ofNat 32 s.par.epochUs.toNat) (BitVec.ofNat 32 s.par.leapLog2.toNat)
    s.parCfgWord s.kst.churnPeriod.val s.units.lanCap s.glb.minVersion

def mirrorDevice (s : State) : State := mirror s.deviceRecord s

/-! ## Conditions of a commit (reasons 3 and 4 of R7) -/

def classField (v : Word) (k : Nat) : Nat := v.toNat / 4 ^ k % 4

def anyField3 (v : Word) (n : Nat) : Bool := (List.range n).any fun k => classField v k = 3

/-- A temperature limit may only be tightened, within its range (R349). -/
def tempLimitOk (old v : Word) : Bool :=
  let hi := (v.extractLsb' 8 8).toNat
  let lo := (v.extractLsb' 0 8).toInt
  decide (90 ≤ hi) && decide (hi ≤ 125) && decide (-50 ≤ lo) && decide (lo ≤ -20)
    && decide (hi ≤ (old.extractLsb' 8 8).toNat) && decide ((old.extractLsb' 0 8).toInt ≤ lo)

def regionOn (r : Region) : Bool := r.perm.val.getLsbD 31

/-- Two regions share a granule. -/
def regionsMeet (a b : Region) : Bool :=
  decide (a.base.toNat ≤ b.limit.toNat + 63) && decide (b.base.toNat ≤ a.limit.toNat + 63)

/-- Refusal of an MPU enable: 1 overlap with an enabled region of the same initiator, 3 limit below base (R66). DESIGN CHOICE (log entry
97): R66 gives the two no order; where both hold, code 3 is reported. -/
def Mpu.refusal (m : Mpu) (k : Nat) (v : Word) : Option (BitVec 4) :=
  if !v.getLsbD 31 then none
  else if (m.region k).limit.toNat < (m.region k).base.toNat then some 3
  else if (List.range 32).any (fun i => let j := 32 * (k / 32) + i
      j ≠ k && regionOn (m.region j) && regionsMeet (m.region j) (m.region k)) then some 1
  else none

def State.mpuRefusal (s : State) (k : Nat) (v : Word) : Option (BitVec 4) := s.mpu.refusal k v

/-- A commit of MPU_RGN_PERM: the rule takes effect and the generation advances (R67). -/
def Mpu.commit (k : Nat) (w : Rwi) (m : Mpu) : Mpu :=
  { m with regions := m.regions.upd {} k fun x => { x with perm := w }, gen := m.gen + 1, commits := m.commits + 1 }

/-- Why a commit is discarded, if it is: its reason of R7. -/
def State.commitRefusal (s : State) (r : RwiReg) (v : Word) : Option Nat :=
  match r with
  | .holdCfg => if s.locked then some 4
                else if v.toNat % 2 ^ 14 = 0 ∨ 10000 < v.toNat % 2 ^ 14 then some 3 else none
  | .tempLimit => if s.locked then some 4 else if tempLimitOk s.tmp.tempLimit.val v then none else some 3
  | .encCfg => if s.locked then some 4
               else if anyField3 v 8 ∨ v.toNat / 2 ^ 16 % 256 = 0 then some 3 else none
  | .emeshCfg => if s.locked then some 4 else none
  | .tmpClass _ => if s.locked ∨ anyField3 v 16 then some 3 else none
  | .churn => if v.toNat % 4 = 3 then some 3 else none
  | .mpuPerm k => if (s.mpuRefusal k v).isSome then some 3 else none
  | _ => none

/-- The effect of a commit. -/
def rwiCommit (r : RwiReg) (v : Word) (s : State) : State :=
  let w := Rwi.of (v &&& r.mask)
  match r with
  | .pitCfg p => sealNow p (s.updPitch p fun x => { x with cfg := w })
  | .pers n => { s with pit := putPers n w s.pit }
  | .mpuPerm k => { s with mpu := s.mpu.commit k w }
  | .churn => mirrorDevice (sealFlashes (fun f => { f with churn := (v.extractLsb' 0 2) })
      { s with kst := { s.kst with churnPeriod := w } })
  | .eraseCmd =>
    let s := { s with kst := { s.kst with eraseCmd := w } }
    if w.val = 0x5A then eraseRise (if s.lcs.phase = 1 then 3 else 2) s else s
  | .tmpClass b =>
    let s := bumpCopy { s with tmp := putClass b w s.tmp }
    sealFlashes (fun f => { f with classes := s.classBits }) s
  | .holdCfg => bumpCopy { s with tmp := { s.tmp with holdCfg := w } }
  | .tempLimit => bumpCopy { s with tmp := { s.tmp with tempLimit := w } }
  | .encCfg => bumpCopy { s with tmp := { s.tmp with encCfg := w } }
  | .emeshCfg => bumpCopy { s with tmp := { s.tmp with emeshCfg := w } }

/-! ## The two writes -/

/-- Who may write the register: the PIT block its owner or the security controller (R58), the others the security controller only
(R64, R314, R372). A refusal that has a code leaves it. -/
def rwiGuard (who : Who) (r : RwiReg) (f : State → State) (s : State) : State :=
  match r with
  | .pitCfg _ => pitWrite who false (fun _ s => f s) s
  | .pers _ => pitGuard who false f s
  | .mpuPerm k => if !isSec who then mpuErr 5 s
                  else if k / 32 = 0 ∨ 0x31 < k / 32 then mpuErr 4 s else f s
  | _ => if isSec who then f s else s

/-- The pending writes that are past their 256 CLK_SEC cycles (R7). -/
def State.lapsed (s : State) (x : RwiPending) : Bool := decide (x.start + 256 < s.clk)

def discardAll (l : List RwiPending) (reason : Nat) (s : State) : State :=
  l.foldl (fun s x => rwiDiscard x.off reason s) s

/-- Lapsed pending writes are discarded with reason 1. -/
def expireRwi (s : State) : State :=
  let l := s.rwi.filter s.lapsed
  discardAll l 1 { s with rwi := s.rwi.filter fun x => !s.lapsed x }

def samePending (who : Who) (off : Nat) (x : RwiPending) : Bool := x.who = who && x.off = off

/-- The first write: the value waits; an earlier one is replaced and the window starts again (R8). -/
def rwiFirst (who : Who) (off : Nat) (v : Word) (s : State) : State :=
  match s.rwiReg who off with
  | none => s
  | some r => rwiGuard who r (fun s =>
      let s := expireRwi s
      let x : RwiPending := { who := who, off := off, sel := 0, value := v, start := s.clk }
      { s with rwi := s.rwi.filter (fun y => !samePending who off y) ++ [x] }) s

/-- The companion write (R7): commits, or is discarded with its reason. -/
def rwiSecond (who : Who) (off : Nat) (v : Word) (s : State) : State :=
  match s.rwiReg who off with
  | none => s
  | some r => rwiGuard who r (fun s =>
      let s := expireRwi s
      match s.rwi.find? (samePending who off) with
      | none => rwiDiscard off 5 s
      | some x =>
        let s := { s with rwi := s.rwi.filter fun y => !samePending who off y }
        if v ≠ ~~~x.value then rwiDiscard off 2 s
        else match s.commitRefusal r x.value with
          | some reason =>
            let s := match r with
              | .mpuPerm k => (match s.mpuRefusal k x.value with | some c => mpuErr c s | none => s)
              | _ => s
            rwiDiscard off reason s
          | none => rwiCommit r x.value s) s

/-- A selector write discards what waits under it (reason 6); what has lapsed before it went with reason 1 (R7). -/
def rwiSelector (who : Who) (off : Nat) (s : State) : State :=
  let s := expireRwi s
  let l := s.rwi.filter (samePending who off)
  discardAll l 6 { s with rwi := s.rwi.filter fun y => !samePending who off y }

/-- RWI_WRITE (R7, R8): the write of an RWI register at `off`. -/
def execRwiWrite (who : Who) (off : BitVec 21) (v : Word) (s : State) : Host.Outcome State Fault Refusal :=
  .next (fromHost who (rwiFirst who off.toNat v) s)

/-- RWI_COMPANION_WRITE (R7): the write of the companion of the RWI register at `off`. -/
def execRwiCompanionWrite (who : Who) (off : BitVec 21) (v : Word) (s : State) : Host.Outcome State Fault Refusal :=
  .next (fromHost who (rwiSecond who off.toNat v) s)

/-- The window of a pending write ends (R7, reason 1). -/
def rwiWindowEnd (who : Who) (off : Nat) (s : State) : State :=
  let l := s.rwi.filter fun x => samePending who off x && decide (x.start + 256 ≤ s.clk)
  if l = [] then s
  else discardAll l 1 { s with rwi := s.rwi.filter fun x => !(samePending who off x && decide (x.start + 256 ≤ s.clk)) }

/-- RWI_WINDOW_EXPIRY (R7). -/
def execRwiWindowExpiry (who : Who) (off : BitVec 21) (s : State) : Host.Outcome State Fault Refusal :=
  .next (rwiWindowEnd who off.toNat s)

end Sys2Proof.Machine
end

