-- ==== Sys2Proof/Machine/Mpu.lean ====
section
/-! DEFINITION. Memory protection units (R64 to R68): the check of an access, the fault record, the barrier. -/

namespace Sys2Proof.Machine

def privCode : Priv → Nat
  | .u => 0
  | .s => 1
  | .m => 3

def accessCode : Access → Nat
  | .read => 1
  | .write => 2
  | .exec => 4

/-- Bit of MPU_RGN_PERM that grants an access. -/
def permBit (p : Priv) (k : Access) : Nat :=
  (match p with | .u => 0 | .s => 3 | .m => 6) + (match k with | .read => 0 | .write => 1 | .exec => 2)

/-- Enabled regions of an initiator. -/
def State.mpuRegions (s : State) (n : Nat) : List Region :=
  (List.range 32).map (fun i => s.region (32 * n + i)) |>.filter regionOn

def Region.holds (r : Region) (a : Nat) : Bool := decide (r.base.toNat ≤ a) && decide (a ≤ r.limit.toNat + 63)

/-- Cores are judged at their privilege, the other initiators at M (R64). -/
def judged (n : Nat) (p : Priv) : Priv := if 2 ≤ n ∧ n ≤ 0x19 then p else .m

/-- Cause of the refusal of an access, none where it is permitted (R25, R65). -/
def State.mpuCause (s : State) (n : Nat) (p : Priv) (k : Access) (a len : Nat) : Option (BitVec 4) :=
  if 0x32 ≤ n then some 4
  else
    let last := a + (len - 1)
    match (s.mpuRegions n).filter (fun r => r.holds a) with
    | [] => some 1
    | l =>
      match l.filter (fun r => r.holds last) with
      | [] => some 3
      | l => if l.any (fun r => r.perm.val.getLsbD (permBit (judged n p) k)) then none else some 2

/-- A refused access: the fault is held if none is, else counted; the event (R65, R68). -/
def mpuFault (n : Nat) (p : Priv) (k : Access) (a : Nat) (cause : BitVec 4) (s : State) : State :=
  let m := s.mpu
  let m := if m.faultValid then { m with faultMore := satInc m.faultMore }
           else { m with faultValid := true, faultMore := 0, faultCause := cause, faultIni := BitVec.ofNat 6 n,
                         faultPriv := BitVec.ofNat 2 (privCode (judged n p)), faultType := BitVec.ofNat 3 (accessCode k),
                         faultAddr := BitVec.ofNat 40 a }
  raise (504 + (n + 63) % 64 % 40) { s with mpu := m }

/-- The value of MPU_BARRIER. -/
def State.barrierWord (s : State) : Word := BitVec.ofNat 32 (bit' s.mpu.barrierTimeout + s.mpu.gen.toNat)
where bit' (b : Bool) : Nat := if b then 2 ^ 31 else 0

/-- Accesses checked under an earlier generation are outstanding (R67). -/
def State.olderOutstanding (s : State) : Bool := s.mpu.outstanding.any fun x => decide (x.2 < s.mpu.commits)

/-- A region as a start programs it (R64, R430 step 10). Which regions it programs the spec does not say: they are free (log entry 100),
written under the rules of R66. -/
def programRegion (m : Mpu) (k : Nat) : Mpu :=
  let m := { m with regions := m.regions.set {} k
                      { base := Config.startBase k &&& 0xFFFFFFFFC0, limit := Config.startLimit k &&& 0xFFFFFFFFC0 } }
  let v := Config.startPerm k &&& 0x800001FF
  if (m.refusal k v).isSome then m else m.commit k (Rwi.of v)

/-- The regions of every initiator from 0x01 to 0x31. -/
def programMpu (m : Mpu) : Mpu := ((List.range (49 * 32)).map (· + 32)).foldl programRegion m

/-- A stalled or answered read of MPU_BARRIER returns: the timeout bit is that of this read alone (R67, R68). -/
def barrierReturn (n : BitVec 6) (timeout : Bool) (s : State) : State :=
  let s := { s with mpu := { s.mpu with barrierTimeout := timeout } }
  s.emit (.read (.ini n) s.barrierWord)

/-- A reader stalls no longer. -/
def unstall (n : BitVec 6) (s : State) : State := { s with mpu := { s.mpu with stalled := s.mpu.stalled.erase n } }

/-- The internal address of MPU_BARRIER (R31, R68). -/
def barrierAddr : Nat := 0xC008001C

/-- A refused access ends in an error response (R25, R65). -/
def refuseAccess (n : BitVec 6) (p : Priv) (k : Access) (a : Nat) (cause : BitVec 4) (s : State) : State :=
  (mpuFault n.toNat p k a cause s).emit (.busError n)

/-- A reserved initiator number (R24, R25). -/
def reservedIni (n : BitVec 6) : Bool := decide (0x32 ≤ n.toNat)

/-- A read of MPU_BARRIER (R67): refused for a reserved initiator (R25), answered at once, or it stalls. -/
def barrierRead (n : BitVec 6) (s : State) : State :=
  if reservedIni n then refuseAccess n .m .read barrierAddr 4 s
  else if s.olderOutstanding then { s with mpu := { s.mpu with stalled := s.mpu.stalled ++ [n] } }
  else barrierReturn n false s

/-- MPU_BARRIER_READ (R67). -/
def execMpuBarrierRead (n : BitVec 6) (s : State) : Host.Outcome State Fault Refusal := .next (barrierRead n s)

/-- The earlier accesses have completed (R67). -/
def barrierDrained (n : BitVec 6) (s : State) : State :=
  let s := { s with mpu := { s.mpu with outstanding := s.mpu.outstanding.filter fun x => decide (s.mpu.commits ≤ x.2) } }
  if s.mpu.stalled.contains n then barrierReturn n false (unstall n s) else s

/-- MPU_BARRIER_DRAINED (R67). -/
def execMpuBarrierDrained (n : BitVec 6) (s : State) : Host.Outcome State Fault Refusal := .next (barrierDrained n s)

/-- 65,536 CLK_CORE cycles with an access outstanding: the read returns with the timeout bit (R67). -/
def barrierTimeout (n : BitVec 6) (s : State) : State :=
  if s.mpu.stalled.contains n then barrierReturn n true (unstall n s) else s

/-- MPU_BARRIER_TIMEOUT (R67). -/
def execMpuBarrierTimeout (n : BitVec 6) (s : State) : Host.Outcome State Fault Refusal := .next (barrierTimeout n s)

end Sys2Proof.Machine
end

