-- ==== Sys2Proof/Machine/Dma.lean ====
section
/-! DEFINITION. The internal DMA (R331 to R340). A burst is one read or one write of at most 256 bytes; the channel alternates them
(log entry 16). -/

namespace Sys2Proof.Machine

/-- The initiator that owns a channel (R331). -/
def chanOwner (c : Nat) : BitVec 6 := if c < 48 then BitVec.ofNat 6 (2 + c / 2) else 1

def dmaErr (who : Who) (code : BitVec 4) (s : State) : State :=
  s.updSel who fun x => { x with dmaErrValid := true, dmaErrCode := code }

/-- A write of a channel register (R331): others than its owner are ignored, with code 1. -/
def chanGuard (who : Who) (c : Nat) (f : State → State) (s : State) : State :=
  if who = .ini (chanOwner c) then f s else dmaErr who 1 s

def chanRunning (c : Channel) : Bool := c.state = 1 || c.state = 2

/-- The descriptor at an address (R332). -/
def readDescriptor (m : List Host.Cell) (a : Nat) : Descriptor :=
  let b := memReads m a 64
  { src := BitVec.ofNat 64 (fieldLE b 0x00 8), dst := BitVec.ofNat 64 (fieldLE b 0x08 8),
    srcLen := BitVec.ofNat 32 (fieldLE b 0x10 4), dstLen := BitVec.ofNat 32 (fieldLE b 0x14 4),
    srcStride := BitVec.ofNat 32 (fieldLE b 0x18 4), dstStride := BitVec.ofNat 32 (fieldLE b 0x1C 4),
    srcLines := BitVec.ofNat 16 (fieldLE b 0x20 2), dstLines := BitVec.ofNat 16 (fieldLE b 0x22 2),
    control := BitVec.ofNat 32 (fieldLE b 0x24 4), next := BitVec.ofNat 64 (fieldLE b 0x28 8) }

def Descriptor.total (d : Descriptor) : Nat := d.srcLen.toNat * d.srcLines.toNat
def Descriptor.last (d : Descriptor) : Bool := d.control.getLsbD 2
def Descriptor.irq (d : Descriptor) : Bool := d.control.getLsbD 1

/-- First and last lines lie in the 40-bit space: between them every line does, as strides are constant. -/
def linesOk (base : BitVec 64) (len stride : BitVec 32) (lines : BitVec 16) : Bool :=
  let b : Int := base.toNat
  let e : Int := b + ((lines.toNat : Int) - 1) * stride.toInt
  decide (b + (len.toNat : Int) ≤ 2 ^ 40) && decide (0 ≤ e) && decide (e + (len.toNat : Int) ≤ 2 ^ 40)

/-- The checks of R333. -/
def Descriptor.ok (d : Descriptor) : Bool :=
  decide (d.src.toNat < 2 ^ 40) && decide (d.dst.toNat < 2 ^ 40) && decide (d.control.toNat < 8)
    && decide (1 ≤ d.srcLen.toNat) && decide (d.srcLen.toNat ≤ 65536)
    && decide (1 ≤ d.dstLen.toNat) && decide (d.dstLen.toNat ≤ 65536)
    && decide (1 ≤ d.srcLines.toNat) && decide (1 ≤ d.dstLines.toNat)
    && decide (d.srcLen.toNat * d.srcLines.toNat = d.dstLen.toNat * d.dstLines.toNat)
    && linesOk d.src d.srcLen d.srcStride d.srcLines && linesOk d.dst d.dstLen d.dstStride d.dstLines
    && (d.last || decide (d.next.toNat % 64 = 0 ∧ d.next.toNat < 2 ^ 40))

/-- Both MPUs judge an access of a channel (R331): the first that refuses it, with its cause. -/
def State.chanRefusal (s : State) (c : Channel) (k : Access) (a len : Nat) : Option (Nat × BitVec 4) :=
  match s.mpuCause 0x2A .m k a len with
  | some x => some (0x2A, x)
  | none => (s.mpuCause c.owner.toNat c.priv k a len).map fun x => (c.owner.toNat, x)

/-- The current descriptor has come to its end; what was read and not written is discarded. -/
def endDescriptor (c : Nat) (code : BitVec 4) (s : State) : State :=
  s.updChan c fun x => { x with ended := some code, buffer := [], retrying := false, tries := 0 }

/-- A refusal by an MPU: not retried, recorded, code 5 (R337). -/
def chanRefused (c : Nat) (n : Nat) (p : Priv) (k : Access) (a : Nat) (cause : BitVec 4) (s : State) : State :=
  endDescriptor c 5 (mpuFault n p k a cause s)

/-- The descriptor at DMA_CH_CUR is fetched and checked (R331, R333). -/
def fetchDescriptor (c : Nat) (s : State) : State :=
  let x := s.chan c
  let a := x.cur.toNat
  match s.chanRefusal x .read a 64 with
  | some (n, cause) => chanRefused c n x.priv .read a cause (s.updChan c fun x => { x with d := none })
  | none =>
    let d := readDescriptor s.imem a
    let s := s.updChan c fun x => { x with d := some d, buffer := [], nread := 0, nwritten := 0, left := d.total, tries := 0 }
    if d.ok then s else endDescriptor c 6 s

/-- Start at DMA_CH_DESC (R331, R338). -/
def dmaStart (who : Who) (c : Nat) (p : Priv) (s : State) : State :=
  chanGuard who c (fun s =>
    let x := s.chan c
    if chanRunning x then dmaErr who 2 s
    else fetchDescriptor c (s.updChan c fun x =>
      { x with state := 1, cur := x.desc, owner := chanOwner c, priv := p, haltWanted := false, ended := none,
               retrying := false })) s

/-- DMA_START (R331). -/
def execDmaStart (who : Who) (ch : BitVec 6) (priv : Priv) (s : State) : Host.Outcome State Fault Refusal :=
  .next (dmaStart who ch.toNat priv s)

/-- An abort (R338): the write-back carries code 3. A descriptor that has come to its end keeps its code, and the channel halts after it. -/
def chanAbort (c : Nat) (s : State) : State :=
  let x := s.chan c
  if !chanRunning x then s
  else if x.ended.isNone then endDescriptor c 3 s
  else s.updChan c fun x => { x with haltWanted := true }

/-- Halt as DMA_CH_CFG.halt_mode selects (R338). -/
def dmaHalt (who : Who) (c : Nat) (s : State) : State :=
  chanGuard who c (fun s =>
    let x := s.chan c
    if !chanRunning x then s
    else if x.abortMode then chanAbort c s
    else if x.state = 2 then endDescriptor c 2 s
    else s.updChan c fun x => { x with haltWanted := true }) s

/-- DMA_HALT (R338). -/
def execDmaHalt (who : Who) (ch : BitVec 6) (s : State) : Host.Outcome State Fault Refusal :=
  .next (dmaHalt who ch.toNat s)

/-- Address and longest burst at position `k` of a stream of lines (R333, R334). -/
def streamAt (base : BitVec 64) (len : BitVec 32) (stride : BitVec 32) (k : Nat) : Nat × Nat :=
  let a := ((base.toNat : Int) + (k / len.toNat : Nat) * stride.toInt + (k % len.toNat : Nat)).toNat
  (a, min (len.toNat - k % len.toNat) (256 - a % 256))

/-- Register blocks are no memory that a descriptor moves: reads give 0, writes go nowhere (log entry 16). -/
def isRegister (a : Nat) : Bool := decide (0xC0000000 ≤ a) && decide (a < 0xC0200000)

/-- A failed burst is retried, at most `retries` times, then code 4 (R337). -/
def failBurst (c : Nat) (s : State) : State :=
  let x := s.chan c
  if x.retries.toNat ≤ x.tries then endDescriptor c 4 s
  else s.updChan c fun x => { x with tries := x.tries + 1, retrying := true }

/-- The read burst of a channel: at most 256 bytes into the buffer. A failed line MAC fails it (R18). -/
def readBurst (ecc : Bool) (c : Nat) (d : Descriptor) (s : State) : State :=
  let x := s.chan c
  let (a, n) := streamAt d.src d.srcLen d.srcStride x.nread
  match s.chanRefusal x .read a n with
  | some (k, cause) => chanRefused c k x.priv .read a cause s
  | none =>
    match s.readFault ecc a with
    | some l => failBurst c (memoryFault l s)
    | none =>
      let b := if isRegister a then zeros n else memReads s.imem a n
      s.updChan c fun x => { x with buffer := b, nread := x.nread + n, tries := 0 }

/-- The write burst: the next bytes of the buffer; the last one ends the descriptor with code 1. -/
def writeBurst (c : Nat) (d : Descriptor) (s : State) : State :=
  let x := s.chan c
  let (a, m) := streamAt d.dst d.dstLen d.dstStride x.nwritten
  let n := min m x.buffer.length
  match s.chanRefusal x .write a n with
  | some (k, cause) => chanRefused c k x.priv .write a cause s
  | none =>
    let s := if isRegister a then s else { s with imem := memWrites s.imem a (x.buffer.take n) }
    let s := s.updChan c fun x => { x with buffer := x.buffer.drop n, nwritten := x.nwritten + n, left := x.left - n, tries := 0 }
    if d.total ≤ x.nwritten + n then endDescriptor c 1 s else s

def burstComplete (c : Nat) (r : BurstResult) (s : State) : State :=
  let x := s.chan c
  match x.d with
  | none => s
  | some d =>
    if x.state ≠ 1 ∨ x.ended.isSome ∨ x.retrying then s
    else match r with
      | .failed => failBurst c s
      | .refused => endDescriptor c 5 s
      | .ok _ => if x.buffer = [] then readBurst false c d s else writeBurst c d s
      | .ecc => if x.buffer = [] then readBurst true c d s else failBurst c s

/-- DMA_BURST_COMPLETE (R334, R337). -/
def execDmaBurstComplete (ch : BitVec 6) (r : BurstResult) (s : State) : Host.Outcome State Fault Refusal :=
  .next (burstComplete ch.toNat r s)

/-- DMA_RETRY_TIMER (R337): the burst may be tried again. -/
def execDmaRetryTimer (ch : BitVec 6) (s : State) : Host.Outcome State Fault Refusal :=
  .next (s.updChan ch.toNat fun x => { x with retrying := false })

/-- The write-back of a descriptor: bytes 0x30 to 0x37 (R332). -/
def writeBack (c : Nat) (code : BitVec 4) (residue : Nat) (s : State) : State :=
  let a := (s.chan c).cur.toNat + 0x30
  { s with imem := memWrites s.imem a (toLE 4 (2 ^ 31 + code.toNat) ++ toLE 4 residue) }

/-- The end of a descriptor (R335, R336, R338). -/
def descriptorEnd (c : Nat) (s : State) : State :=
  let x := s.chan c
  match x.ended with
  | none => s
  | some code =>
    if code = 7 then s
    else
      let s := if x.d.isSome then writeBack c code x.left s else s
      let last : Bool := match x.d with | some d => d.last | none => true
      let irq : Bool := match x.d with | some d => d.irq | none => false
      let s := s.updChan c fun x =>
        { x with ended := none, code := code, completed := x.completed + 1, residue := BitVec.ofNat 32 x.left }
      let s := if irq ∨ last ∨ code ≠ 1 then raise c s else s
      if code ≠ 1 then s.updChan c fun x => { x with state := 3 }
      else if last then s.updChan c fun x => { x with state := 0 }
      else
        let next : BitVec 40 := match x.d with | some d => d.next.extractLsb' 0 40 | none => 0
        if x.haltWanted then s.updChan c fun x => { x with state := 3, desc := next, haltWanted := false }
        else fetchDescriptor c (s.updChan c fun x => { x with cur := next })

/-- DMA_DESCRIPTOR_END (R336). -/
def execDmaDescriptorEnd (ch : BitVec 6) (s : State) : Host.Outcome State Fault Refusal :=
  .next (descriptorEnd ch.toNat s)

/-- DMA_CH_CFG and DMA_CH_DESC are written only while the channel is idle or halted (R340). -/
def chanConfig (who : Who) (c : Nat) (f : Channel → Channel) (s : State) : State :=
  chanGuard who c (fun s => if chanRunning (s.chan c) then dmaErr who 2 s else s.updChan c f) s

end Sys2Proof.Machine
end

