-- ==== Sys2Proof/Machine/Flags.lean ====
section
/-! DEFINITION. Status that follows from other state: DEGRADED, the effective envelope, units in service, GLB_STATUS. -/

namespace Sys2Proof.Machine

/-- Regions of R448 retired in a range. -/
def State.retiredIn (s : State) (lo n : Nat) : Nat :=
  (s.bst.retired.filter fun r => decide (lo ≤ r) && decide (r < lo + n)).length

/-- Some DRBG instance is in its error state (R289). -/
def State.drbgError (s : State) : Bool := (List.range 10).any fun i => (s.drbg i).state = 2

/-- GLB_STATUS.DEGRADED (R234, R260, R289, R451). -/
def State.degraded (s : State) : Bool :=
  decide (1 < s.retiredIn 0 25) || decide (2 < s.retiredIn 25 26) || decide (0 < s.retiredIn 51 56) || s.drbgError

/-- CALIBRATION_PARTIAL (R447). -/
def State.calibrationPartial (s : State) : Bool := s.pwr.calibrated ≠ 0xF

/-- The effective envelope is BOUNDED (R28, R447). -/
def State.bounded (s : State) : Bool := s.pwr.bounded || s.calibrationPartial

/-- Power cap in mW (R443, R447). -/
def State.powerCap (s : State) : Nat :=
  if s.calibrationPartial && !s.pwr.calibrated.getLsbD 2 then 6000 else if s.pwr.inForceBounded then 8000 else 15000

/-- Units of a kind before unit `k` that are not retired: its rank among those that can serve. -/
def State.rank (s : State) (base k : Nat) : Nat := k - s.retiredIn base k

/-- State of a unit that holds no work (R259, R294): retired, spare, out by the governor, or idle. Kind by the first region index; the
numbers are those of R443; the governor keeps the lowest-numbered ones (log entry 14). -/
def State.restState (s : State) (base k : Nat) : BitVec 3 :=
  let full := if base = 0 then 24 else if base = 25 then 24 else 8
  let low := if base = 0 then 11 else if base = 25 then 11 else 4
  if s.bst.retired.contains (base + k) then 6
  else if full ≤ s.rank base k then 4
  else if s.pwr.inForceBounded ∧ low ≤ s.rank base k then 5
  else 0

/-- Cores that the governor keeps: in BOUNDED the two lowest of each cluster (R329). -/
def State.governorKeeps (s : State) (c : Nat) : Bool := !s.pwr.inForceBounded || decide (c % 4 < 2)

/-- A region that the scheduler does not grant: in its BIST, or wanted for one (R449, R453). -/
def State.withdrawn (s : State) (r : Nat) : Bool :=
  s.bst.out.contains r || s.bst.wanted.contains r || s.bst.triggered.any fun x => x.1 = r

/-- Hash groups and recipe engines in service (R443). -/
def State.hashInService (s : State) (g : Nat) : Bool :=
  !s.bst.retired.contains (59 + g) && !s.withdrawn (59 + g) && (!s.pwr.inForceBounded || decide (g < 4))
def State.recipeInService (s : State) (r : Nat) : Bool :=
  !s.bst.retired.contains (67 + r) && !s.withdrawn (67 + r) && (!s.pwr.inForceBounded || decide (r < 8))

def bit (b : Bool) (n : Nat) : Nat := if b then 2 ^ n else 0

/-- GLB_STATUS (R455). -/
def State.glbStatus (s : State) : Word :=
  BitVec.ofNat 32 (bit s.ready 31 + bit s.degraded 30 + bit s.bat.latch 29 + bit s.calibrationPartial 28 + bit s.tmp.hold 27
    + bit s.pwr.quiet 26 + bit s.glb.minimal 25 + bit s.bounded 24 + s.lcsState * 2 ^ 16 + s.glb.startType.toNat * 2 ^ 4
    + s.glb.step.toNat)

/-- KST_ERASE_STATUS (R314). -/
def State.eraseStatus (s : State) : Word :=
  BitVec.ofNat 32 (bit s.bat.latch 31 + s.kst.phase.toNat * 2 ^ 28 + s.bat.latchSource.toNat * 2 ^ 24 + bit s.kst.overwriteOk 23
    + s.bat.count.toNat)

end Sys2Proof.Machine
end

