-- ==== Sys2Proof/Machine/Mailbox.lean ====
section
/-! DEFINITION. Mailboxes (R341 to R346). Which error a misplaced access of a side or of a stranger sets, where R343 and R346 do
not say, is log entry 12. -/

namespace Sys2Proof.Machine

/-- The core that an initiator is (R24). -/
def whoCore : Who → Option Nat
  | .ini n => if 2 ≤ n.toNat ∧ n.toNat ≤ 0x19 then some (n.toNat - 2) else none
  | .vf _ _ => none

/-- The initiators of a side (R341). -/
def State.sideInis (s : State) (side : BitVec 7) : List (BitVec 6) :=
  if side.toNat = 0 then []
  else if side.toNat < 0x40 then [side.extractLsb' 0 6]
  else if side.toNat ≤ 0x45 then (List.range 4).map fun k => BitVec.ofNat 6 (2 + 4 * (side.toNat - 0x40) + k)
  else if side.toNat = 0x46 ∧ s.own.owner ≠ 0 then [s.own.owner]
  else []

def State.onSide (s : State) (side : BitVec 7) : Who → Bool
  | .ini n => (s.sideInis side).contains n
  | .vf _ _ => false

def State.isSide (s : State) (m : Nat) (who : Who) : Bool :=
  s.onSide (s.box m).sideA who || s.onSide (s.box m).sideB who

/-- The sender's side is A. -/
def State.senderA (s : State) (m : Nat) : Bool := s.onSide (s.box m).sideA (.ini (s.box m).owner)

def State.isSender (s : State) (m : Nat) (who : Who) : Bool := (s.box m).owner ≠ 0 && who = .ini (s.box m).owner

def State.isReceiver (s : State) (m : Nat) (who : Who) : Bool :=
  (s.box m).owner ≠ 0 && !s.isSender m who
    && s.onSide (if s.senderA m then (s.box m).sideB else (s.box m).sideA) who

def mbxErrKey (who : Who) (m : Nat) : Nat := 16 * whoKey who + m

/-- MBX_ERR of one initiator (R346). -/
def mbxError (who : Who) (m : Nat) (code : BitVec 4) (s : State) : State :=
  { s with mbxErr := s.mbxErr.set {} (mbxErrKey who m) ⟨true, code⟩ }

/-- The error of an access by someone whose turn it is not. -/
def mbxDeny (who : Who) (m : Nat) (s : State) : State :=
  if !s.isSide m who then mbxError who m 2 s
  else if (s.box m).owner = 0 then mbxError who m 1 s
  else mbxError who m 3 s

def senderEvent (m : Nat) (s : State) : State := raise (240 + 2 * m + if s.senderA m then 0 else 1) s
def receiverEvent (m : Nat) (s : State) : State := raise (240 + 2 * m + if s.senderA m then 1 else 0) s

/-- A new owner takes the lock; a compat setting that waits for it is applied (R395). -/
def takeLock (n : BitVec 6) (b : Mailbox) : Mailbox :=
  { b with owner := n, compat := b.compatNext.getD b.compat, compatNext := none }

/-- MBX_LOCK read (R342): the value read, and the state. -/
def lockRead (who : Who) (m : Nat) (s : State) : State :=
  let b := s.box m
  match who with
  | .ini n =>
    if !s.isSide m who then mbxError who m 2 (s.emit (.read who 0x3F))
    else if b.owner = 0 then (s.updBox m (takeLock n)).emit (.read who 0)
    else if b.owner = n then s.emit (.read who 0)
    else s.emit (.read who (b.owner.setWidth 32))
  | .vf _ _ => mbxError who m 2 (s.emit (.read who 0x3F))

/-- MBX_LOCK_READ (R342). -/
def execMbxLockRead (who : Who) (m : BitVec 4) (s : State) : Host.Outcome State Fault Refusal := .next (fromHost who (lockRead who m.toNat) s)

/-- Release: doorbells, acknowledge and turn are cleared. -/
def freeLock (b : Mailbox) : Mailbox := { b with owner := 0, db := 0, ackValid := false, ack := 0, turn := false }

def lockRelease (who : Who) (m : Nat) (v : Word) (s : State) : State :=
  if !s.isSender m who then mbxError who m 1 s
  else if v = 0 then s.updBox m freeLock
  else s

/-- MBX_LOCK_RELEASE (R342). -/
def execMbxLockRelease (who : Who) (m : BitVec 4) (v : Word) (s : State) : Host.Outcome State Fault Refusal :=
  .next (fromHost who (lockRelease who m.toNat v) s)

/-- The side that has the turn. -/
def State.hasTurn (s : State) (m : Nat) (who : Who) : Bool :=
  if (s.box m).turn then s.isReceiver m who else s.isSender m who

def msgWrite (who : Who) (m i : Nat) (v : Word) (s : State) : State :=
  if s.hasTurn m who then s.updBox m fun b => { b with msg := b.msg.set 0 i v } else mbxDeny who m s

/-- MBX_MSG_WRITE (R343). -/
def execMbxMsgWrite (who : Who) (m : BitVec 4) (i : BitVec 6) (v : Word) (s : State) : Host.Outcome State Fault Refusal :=
  .next (fromHost who (msgWrite who m.toNat i.toNat v) s)

/-- One raise for each bit of a word (R343). -/
def raiseBits (m : Nat) (v : Word) : Nat → State → State
  | 0, s => s
  | n + 1, s =>
    let s := raiseBits m v n s
    if v.getLsbD n then receiverEvent m s else s

def dbSet (who : Who) (m : Nat) (v : Word) (s : State) : State :=
  let b := s.box m
  if !s.isSender m who then (if s.isSide m who then mbxError who m 1 s else mbxError who m 2 s)
  else if b.turn then mbxError who m 3 s
  else if v = 0 then s
  else raiseBits m (v &&& b.mask) 32
    (s.updBox m fun b => { b with db := b.db ||| v, turn := true, ackValid := false, ack := 0 })

/-- MBX_DB_SET (R343). -/
def execMbxDbSet (who : Who) (m : BitVec 4) (v : Word) (s : State) : Host.Outcome State Fault Refusal :=
  .next (fromHost who (dbSet who m.toNat v) s)

def dbClear (who : Who) (m : Nat) (v : Word) (s : State) : State :=
  if !s.isReceiver m who then mbxDeny who m s
  else
    let s := s.updBox m fun b => { b with db := b.db &&& ~~~v }
    let b := s.box m
    if b.compat ∧ b.turn ∧ b.db = 0 then senderEvent m (s.updBox m fun b => { b with turn := false }) else s

/-- MBX_DB_CLEAR (R343, R344). -/
def execMbxDbClear (who : Who) (m : BitVec 4) (v : Word) (s : State) : Host.Outcome State Fault Refusal :=
  .next (fromHost who (dbClear who m.toNat v) s)

def ackWrite (who : Who) (m : Nat) (v : Word) (s : State) : State :=
  let b := s.box m
  if b.compat then s
  else if !s.isReceiver m who then mbxDeny who m s
  else if b.ackValid then mbxError who m 4 s
  else senderEvent m (s.updBox m fun b => { b with ackValid := true, ack := v.extractLsb' 0 16, turn := false })

/-- MBX_ACK (R343, R344). -/
def execMbxAck (who : Who) (m : BitVec 4) (v : Word) (s : State) : Host.Outcome State Fault Refusal :=
  .next (fromHost who (ackWrite who m.toNat v) s)

/-- Release by hardware: buffer zeroed, code 5 for both sides (R345). `owner` names the side 0x46 as it was. -/
def hwRelease (m : Nat) (s : State) : State :=
  let b := s.box m
  if b.owner = 0 then s
  else
    let who := (b.owner :: (s.sideInis b.sideA ++ s.sideInis b.sideB)).eraseDups
    let s := who.foldl (fun s n => mbxError (.ini n) m 5 s) s
    s.updBox m fun b => { freeLock b with msg := [] }

/-- The locks that an initiator holds. -/
def releaseLocksOf (n : BitVec 6) (s : State) : State :=
  (List.range 16).foldl (fun s m => if (s.box m).owner = n ∧ n ≠ 0 then hwRelease m s else s) s

/-! ## A pending handover (R395) -/

def State.candidate (s : State) (n : BitVec 6) : Candidate := s.own.candidates.get {} n.toNat
def State.updCandidate (s : State) (n : BitVec 6) (f : Candidate → Candidate) : State :=
  { s with own := { s.own with candidates := s.own.candidates.upd {} n.toNat f } }

/-- The link of a candidate is down: a PF's port in DL_Down, PERST_N, D3hot; I3C silent (R395). -/
def State.linkIsDown (s : State) (n : BitVec 6) : Bool :=
  if n = 0x2E then s.own.i3cSilent
  else
    let p : Port := if n = 0x2F then .a else .b
    let x := s.portState p
    x.dlDown || x.perst || (s.fn p 0).state = .d3hot

/-- A handover ends without confirmation: the old owner stays. -/
def handoverEnd (s : State) : State :=
  if s.own.state ≠ 2 then s
  else ({ s with own := { s.own with state := 1, target := 0 } }).updCandidate s.own.owner fun c => { c with status := 3, code := 8 }

/-- The target of a handover whose link is down ends it. -/
def handoverCheck (s : State) : State :=
  if s.own.state = 2 ∧ s.linkIsDown s.own.target then handoverEnd s else s

def mbxForce (who : Who) (m : Nat) (v : Word) (s : State) : State :=
  if !isSec who then mbxError who m 6 s else if v.getLsbD 0 then hwRelease m s else s

/-- MBX_FORCE (R345). -/
def execMbxForce (who : Who) (m : BitVec 4) (v : Word) (s : State) : Host.Outcome State Fault Refusal :=
  .next (mbxForce who m.toNat v s)

/-- MBX_CFG and MBX_DB_MASK by register (R343, R346). -/
def mbxCfgWrite (who : Who) (m : Nat) (v : Word) (s : State) : State :=
  if !isSec who then mbxError who m 6 s
  else s.updBox m fun b => { b with sideA := v.extractLsb' 0 7, sideB := v.extractLsb' 8 7, compat := v.getLsbD 16 }

def mbxMaskWrite (who : Who) (m : Nat) (v : Word) (s : State) : State :=
  if s.isReceiver m who then s.updBox m fun b => { b with mask := v } else mbxDeny who m s

end Sys2Proof.Machine
end

