-- ==== Sys2Proof/Machine/Contexts.lean ====
section
/-! DEFINITION. Routes of commands (R12, R109, R141), the priority queues with their deficit round-robin (R323 to R325), recipe contexts
(R138 to R142, R44), the replay filter's lookup (R424), and the end of a command (R131, R132). -/

namespace Sys2Proof.Machine

def stHwFault : BitVec 16 := 0x0701
def stMemoryEcc : BitVec 16 := 0x0703

/-! ## Routes (R12, R109, R141) -/

/-- Route R opcodes of R109. -/
def recipeOpcodes : List Nat :=
  [0x0104, 0x0105, 0x0106, 0x0201, 0x0202, 0x0203, 0x0204, 0x0301, 0x0302, 0x0303, 0x0304, 0x0305, 0x0401, 0x0402, 0x0403,
   0x0501, 0x0502, 0x0503, 0x0504, 0x0601, 0x0602, 0x0701, 0x0702, 0x0703, 0x0704, 0x0705, 0x0706, 0x0F01]

def State.activeBank (s : State) : Bank := if s.cmc.activeBank then s.cmc.bank1 else s.cmc.bank0

def Entry.opcode (x : Entry) : Nat := fieldLE x.sqe 0 2

/-- The command runs on a recipe engine: the active set has a recipe for its opcode and personality (R12, R141). -/
def State.onRecipe (s : State) (x : Entry) : Bool :=
  recipeOpcodes.contains x.opcode &&
    s.activeBank.recipes.any fun r => r.opcode.toNat = x.opcode && r.personality = (s.pitch x.pitch.toNat).pers

/-- A fenced command waits until the CQE of every earlier SQE of its SQ is written (R91). -/
def State.fenceWaits (s : State) (x : Entry) : Bool := x.fence && !(s.sq x.pitch.toNat x.sq.toNat).fenceOver

/-! ## Queues (R323 to R325) -/

def State.queue (s : State) (q : Nat) : Queue := s.sch.queues.get {} q
def State.updQueue (s : State) (q : Nat) (f : Queue → Queue) : State :=
  { s with sch := { s.sch with queues := s.sch.queues.upd {} q f } }

def State.queueOf (s : State) (x : Entry) : Nat := 8 * (s.pitch x.pitch.toNat).pers.toNat + x.prio.toNat

def State.pitchOf (s : State) (e : Nat) : Nat := match s.entry e with | some x => x.pitch.toNat | none => 0

/-- cost(c) of R325. -/
def State.costOf (s : State) (e : Nat) : Nat :=
  match s.entry e with | some x => 16 + fieldLE x.sqe 0x28 4 / 4096 | none => 16

/-- Commands of a pitch in a queue, oldest first. -/
def State.inQueue (s : State) (q p : Nat) : List Nat := (s.queue q).cmds.filter fun e => s.pitchOf e = p

/-- The command leaves its queue; a pitch with none left leaves the turn order with deficit 0. -/
def takeFrom (q e : Nat) (s : State) : State :=
  let p := s.pitchOf e
  let s := s.updQueue q fun x => { x with cmds := x.cmds.erase e }
  if s.inQueue q p = [] then
    s.updQueue q fun x => { x with turn := x.turn.erase p, deficit := x.deficit.set 0 p 0,
                                   inTurn := x.inTurn && x.turn.head? ≠ some p }
  else s

/-- next_from of R325; `fuel` bounds the turns that serve nothing. -/
def nextFrom (q : Nat) : Nat → State → Option (Nat × State)
  | 0, _ => none
  | fuel + 1, s =>
    let x := s.queue q
    match x.turn with
    | [] => none
    | p :: rest =>
      let d := x.deficit.get 0 p + if x.inTurn then 0 else (s.pitch p).weight
      match s.inQueue q p with
      | [] => none
      | e :: _ =>
        if s.costOf e ≤ d then
          let s := s.updQueue q fun x => { x with inTurn := true, deficit := x.deficit.set 0 p (d - s.costOf e) }
          some (e, takeFrom q e s)
        else
          nextFrom q fuel (s.updQueue q fun x => { x with turn := rest ++ [p], inTurn := false, deficit := x.deficit.set 0 p d })

/-! ## Recipe contexts (R44, R138, R139, R142) -/

def contexts : Nat := 1024

def State.ctx (s : State) (k : Nat) : Ctx := s.cmc.ctxs.get {} k
def State.updCtx (s : State) (k : Nat) (f : Ctx → Ctx) : State :=
  { s with cmc := { s.cmc with ctxs := s.cmc.ctxs.upd {} k f } }

/-- The recipe engine of a context. -/
def ctxEngine (k : Nat) : Nat := k / 64

/-- A context that may be granted: of an engine in service, the lowest number (log entry 103). -/
def State.freeCtx (s : State) : Option Nat :=
  (List.range contexts).find? fun k => s.recipeInService (ctxEngine k) && (s.ctx k).held.isNone

/-- The queue of commands that wait for a context, one for each priority (R44, R325; log entry 103). -/
def ctxQueue (x : Entry) : Nat := 32 + x.prio.toNat

/-- The most urgent queue of waiting recipe commands (R44). -/
def State.ctxTop (s : State) : Option Nat := ((List.range 8).map fun k => 39 - k).find? fun q => (s.queue q).cmds ≠ []

/-- The lane mode of a personality: 1 SINGLE (R26). -/
def State.laneSingle (s : State) (pers : BitVec 2) : Bool :=
  let reg := if pers = 0 then s.pit.pers0 else if pers = 1 then s.pit.pers1 else if pers = 2 then s.pit.pers2 else s.pit.pers3
  reg.val.getLsbD 0

/-- A command keeps the modes in which it was dispatched (R27). -/
def State.dispatched (s : State) (x : Entry) : Entry :=
  let v := s.pitch x.pitch.toNat
  { x with single := s.laneSingle v.pers, signCheck := v.cfg.val.getLsbD 0 }

/-- A command gets a context, tagged with its pitch, its tracker entry and the set bank (R139, R142). -/
def grantCtx (k e : Nat) (s : State) : State :=
  match s.entry e with
  | none => s
  | some x =>
    (s.updEntry e fun x => { s.dispatched x with ctx := some k }).updCtx k fun _ => { held := some (x.pitch, e, s.cmc.activeBank) }

/-- Free contexts are granted to waiting commands (R44, R325). `fuel` counts the grants. -/
def grantContexts : Nat → State → State
  | 0, s => s
  | fuel + 1, s =>
    if s.dispatchStopped then s
    else match s.ctxTop, s.freeCtx with
      | some q, some k =>
        match nextFrom q (4112 * ((s.queue q).turn.length + 1) + 1) s with
        | some (e, t) => grantContexts fuel (grantCtx k e t)
        | none => s
      | _, _ => s

/-- Commands that stand in a context queue. -/
def State.ctxQueued (s : State) : Nat := ((List.range 8).map fun k => (s.queue (32 + k)).cmds.length).sum

def serveContexts (s : State) : State := grantContexts s.ctxQueued s

/-- A command of a recipe that waits for nothing but a context (R139, R141). -/
def State.wantsCtx (s : State) (x : Entry) : Bool :=
  x.phase = .admitted && x.ctx.isNone && s.onRecipe x && !s.fenceWaits x && !x.replayWait

/-- A command joins a queue, its pitch the tail of the turn order. -/
def joinQueue (q e p : Nat) (s : State) : State :=
  s.updQueue q fun y => { y with cmds := y.cmds ++ [e], turn := if y.turn.contains p then y.turn else y.turn ++ [p] }

/-- A command is routed to a recipe engine: it gets a context, or waits for one (R12, R44, R139). -/
def routeRecipe (e : Nat) (s : State) : State :=
  match s.entry e with
  | none => s
  | some x =>
    if s.wantsCtx x ∧ ¬ (s.queue (ctxQueue x)).cmds.contains e then serveContexts (joinQueue (ctxQueue x) e x.pitch.toNat s) else s

/-- The registers of a context are zeroed when its command ends, and it is free again (R139). -/
def releaseCtx (k : Option Nat) (s : State) : State :=
  match k with
  | none => s
  | some k => s.updCtx k fun _ => {}

/-- The recipe under which a context runs: that of the bank with which it is tagged (R142). -/
def State.ctxRecipe (s : State) (x : Entry) (k : Nat) : Option Recipe :=
  match (s.ctx k).held with
  | none => none
  | some (_, _, bank) =>
    (if bank then s.cmc.bank1 else s.cmc.bank0).recipes.find? fun r =>
      r.opcode.toNat = x.opcode && r.personality = (s.pitch x.pitch.toNat).pers

/-- Contexts held, and those of the bank that is not active (R142, R145). -/
def State.ctxHeld (s : State) : Nat := (s.cmc.ctxs.filter fun c => c.2.held.isSome).length
def State.switching (s : State) : Bool :=
  s.cmc.ctxs.any fun c => match c.2.held with
    | some (_, _, bank) => bank ≠ s.cmc.activeBank
    | none => false

/-- Commands that wait for a context (R145). -/
def State.ctxWaiting (s : State) : Nat :=
  (s.sch.entries.filter fun e => match e.2 with
    | some x => s.wantsCtx x
    | none => false).length

/-! ## The end of a command (R131, R132) -/

/-- The CQE of a command (R93, R94, R132): a status other than DONE carries no result; result_len is 0 but for BAD_LENGTH. -/
def doneCqe (x : Entry) (d : Done) (dropped : Bool) : Cqe :=
  { hostTag := BitVec.ofNat 32 (leNat ((x.sqe.drop 4).take 4)), status := d.status, sqIndex := x.sq, port := x.port,
    resultDropped := dropped, replayed := d.replayed, csnValid := d.csn.isSome, csn := d.csn.getD 0,
    resultLen := if d.status = 0 then (if dropped then 0 else BitVec.ofNat 32 d.result.length)
                 else if d.status = 0x0102 then BitVec.ofNat 32 d.needed else 0,
    inline := d.inline }

/-- The tracker entry of a command that ended: its keys and its context are gone (R59, R139, R166). -/
def Entry.ended (x : Entry) (d : Done) : Entry :=
  { x with phase := .held, decided := some d.status, csn := d.csn, ctx := none, captured := none, anchor := none, walker := none,
           restore := none, replayWait := false, prepared := none }

/-- An engine that works for a command that has ended goes on for nobody: its result stays behind its port (R264). -/
def orphanUnit (e : Nat) (u : FuncUnit) : FuncUnit := if u.entry = some e then { u with entry := none, checks := none } else u

/-- What a command leaves when it ends: its engine requests and operations, its place before the walkers, its turn in a context queue, the
registers of its context, and the context itself (R139). -/
def leaveEngine (e : Nat) (x : Entry) (s : State) : State :=
  let s := { s with units := { s.units with
    reqs := s.units.reqs.filter (fun r => r.entry ≠ e),
    pke := s.units.pke.mapv {} fun _ u => orphanUnit e u, ltc := s.units.ltc.mapv {} fun _ u => orphanUnit e u } }
  let s := { s with caches := { s.caches with walkQueue := s.caches.walkQueue.erase e } }
  releaseCtx x.ctx (takeFrom (ctxQueue x) e s)

/-- The completion of a command as its CQ takes it (R93, R105, R132). -/
def heldCqe (e : Nat) (x : Entry) (d : Done) (port : Port) : HeldCqe :=
  let cap := fieldLE x.sqe 0x2C 4
  let ptr := BitVec.ofNat 64 (fieldLE x.sqe 0x30 8)
  let res := if d.status = 0 then d.result else []
  let dropped := decide (res ≠ []) && decide (port ≠ x.resPort) && !windowCovers x.windows port true ptr cap
  let flags := fieldLE x.sqe 2 2
  { cqe := doneCqe x d dropped, result := if dropped then [] else res, resultPtr := ptr, resultCap := cap,
    windows := x.windows, irqNow := flags.testBit 1, irqNone := flags.testBit 2, entry := some e }

/-- A command ends: counters, replay entry and H, then its CQE is posted, held or (after an orphan timeout) discarded with the entry
freed (R106, R107, R131, R132, R224); its context goes to the next command that waits for one. Every status other than DONE counts as
refused, as R132 says (log entry 104). -/
def finish (e : Nat) (d : Done) (s : State) : State :=
  match s.entry e with
  | none => s
  | some x =>
    let p := x.pitch.toNat
    let s := match d.csn with
      | some c => if d.replayed then s else replayStatus p c d.status s
      | none => s
    let s := raiseMark p d.status d.high s
    let s := s.updPitch p fun v =>
      if d.status = 0 then { v with done := v.done + 1 } else { v with refused := v.refused + 1 }
    let s := (leaveEngine e x s).updEntry e fun x => x.ended d
    let s := if x.discard then freeEntry e s else post p (heldCqe e x d (s.cq p).port) s
    serveContexts s

/-! ## The replay filter (R424) -/

/-- Opcodes with bit 8 to_slot or hw_nonce (R117), and CIPHER_CONTEXT with op 1: class C or D from opcode and flags (R424). -/
def classKnown (sqe : Bytes) : Bool :=
  let op := fieldLE sqe 0 2
  let bit8 := (fieldLE sqe 2 2).testBit 8
  (bit8 && [0x0101, 0x0103, 0x0803, 0x0805, 0x0901, 0x0902, 0x0A01, 0x0701, 0x0703].contains op) ||
    (op = 0x0707 && byteAt sqe 0x40 = 1)

/-- What the replay filter holds for a command's key (R424). -/
def State.replayFind (s : State) (p : Nat) (sqe : Bytes) : Option ReplayEntry :=
  (s.pitch p).replay.find? fun r =>
    r.hostTag = BitVec.ofNat 32 (fieldLE sqe 4 4) && r.opcode = BitVec.ofNat 16 (fieldLE sqe 0 2)

/-- Another command of the same replay key is still in flight (R424). -/
def State.replayBusy (s : State) (e p : Nat) (sqe : Bytes) : Bool :=
  s.sch.entries.any fun x => x.1 ≠ e && match x.2 with
    | none => false
    | some y => y.pitch.toNat = p && !y.replayWait && y.phase ≠ .held
        && fieldLE y.sqe 4 4 = fieldLE sqe 4 4 && fieldLE y.sqe 0 2 = fieldLE sqe 0 2

/-- The lookup of R424: a match answers the command, the same key in flight makes it wait. -/
def replayLookup (e : Nat) (s : State) : State :=
  match s.entry e with
  | none => s
  | some x =>
    let p := x.pitch.toNat
    if s.replayBusy e p x.sqe then s.updEntry e fun x => { x with replayWait := true }
    else
      let s := s.updEntry e fun x => { x with replayWait := false }
      match s.replayFind p x.sqe with
      | none => s
      | some r => finish e { status := r.status, replayed := true, csn := some r.csn } s

end Sys2Proof.Machine
end

