-- ==== Sys2Proof/Machine/Rings.lean ====
section
/-! DEFINITION. Rings and doorbell records (R75 to R108): bindings, sweeps, record reads, entry checks and admission, ring
creation to adoption, orphan timeout, coalescing, MSI-X unmask. -/

namespace Sys2Proof.Machine

/-! ## Statuses of R131 that the ring stage uses -/

def stBadOpcode : BitVec 16 := 0x0101
def stBadLength : BitVec 16 := 0x0102
def stBadField : BitVec 16 := 0x0103
def stBadAlign : BitVec 16 := 0x0104
def stBadPointer : BitVec 16 := 0x0105
def stQuota : BitVec 16 := 0x0501
def stPersonality : BitVec 16 := 0x0502
def stBusyRetry : BitVec 16 := 0x0504
def stAbortHost : BitVec 16 := 0x0601
def stDmaFault : BitVec 16 := 0x0702

/-! ## Bindings (R75, R76) -/

/-- The pitch holds a ring on a port. -/
def State.hasRing (s : State) (p : Nat) (port : Port) : Bool :=
  ((s.cq p).state ≠ .free && (s.cq p).port = port) ||
    (List.range 4).any fun i => (s.sq p i).state ≠ .free && (s.sq p i).port = port

/-- A write of an owner register of the RQE block (R76): others are refused with code 2. -/
def rqeOwner (who : Who) (f : State → State) (s : State) : State :=
  fromHost who (fun s => if s.isOwner who then f s else rqeErr who 2 s) s

def bindWrite (who : Who) (v : Word) (s : State) : State :=
  rqeOwner who (fun s =>
    let p := (s.rqeSel who).bindSel.toNat
    let a : Option (BitVec 7) := if v.getLsbD 15 then some (v.extractLsb' 0 7) else none
    let b : Option (BitVec 7) := if v.getLsbD 31 then some (v.extractLsb' 16 7) else none
    let x := s.pitch p
    if (x.bindA ≠ a && s.hasRing p .a) || (x.bindB ≠ b && s.hasRing p .b) then rqeErr who 3 s
    else s.updPitch p fun x => { x with bindA := a, bindB := b, fnA := v.extractLsb' 0 7, fnB := v.extractLsb' 16 7 }) s

/-- BIND_WRITE (R75). -/
def execBindWrite (who : Who) (v : Word) (s : State) : Host.Outcome State Fault Refusal := .next (bindWrite who v s)

/-- The pitch is bound to a function on a port (R75). -/
def State.bound (s : State) (p : Nat) (port : Port) (fn : BitVec 7) : Bool :=
  match port with
  | .a => (s.pitch p).bindA = some fn
  | .b => (s.pitch p).bindB = some fn

/-! ## Ring events (R101) -/

def ringBase (port : Port) : Nat := 296 + 32 * Port.num port

def dropCount (port : Port) (fn : BitVec 7) (n : Nat) (s : State) : State :=
  raise (ringBase port + 9 + n)
    (s.updFn port fn fun f => { f with drops := f.drops.set n (f.drops.getD n 0 + 1) })

/-- Entries and credits reserved for SQEs whose data has not arrived go back (R90, R102). -/
def returnReservations (p i : Nat) (s : State) : State :=
  let q := s.sq p i
  let n := if q.refusing.isSome then q.fetching - 1 else q.fetching
  let s := s.updPitch p fun v => { v with inFlight := v.inFlight - n }
  let s := s.updCq p fun c => { c with reserved := c.reserved - q.fetching }
  s.updSq p i fun q => { q with fetching := 0, refusing := none }

/-- The CQE of a ring event (R101). -/
def ringEventCqe (q : Sq) (i : Nat) (status : BitVec 16) (seq : Word) : Cqe :=
  { status := status, ringEvent := true, sqIndex := BitVec.ofNat 2 i, port := q.port, resultLen := seq }

/-- Latched ring events of a pitch are written as credits return (R101); each takes a credit until it is written (R96). -/
def flushList (p : Nat) : List Cqe → State → State
  | [], s => s.updCq p fun q => { q with latched := [] }
  | c :: l, s =>
    if 0 < (s.cq p).credits then
      flushList p l (post p { cqe := c, irqNow := true, credit := true } (s.updCq p fun q => { q with reserved := q.reserved + 1 }))
    else s.updCq p fun q => { q with latched := c :: l }

def flushLatched (p : Nat) (s : State) : State := flushList p (s.cq p).latched s

/-- A fault of the ring: the SQ goes to ERROR; its CQE is written, or waits for a credit (R101, R102). -/
def ringEvent (p i : Nat) (status : BitVec 16) (code : BitVec 4) (seq : Word) (s : State) : State :=
  let s := returnReservations p i s
  let q := s.sq p i
  let s := s.updSq p i fun q => { q with state := .error, lastEvent := code }
  let s := dropCount q.port q.fn 7 (raise (ringBase q.port) s)
  flushLatched p (s.updCq p fun c => { c with latched := c.latched ++ [ringEventCqe q i status seq] })

/-! ## Sweeps (R83 to R85) -/

/-- The head-source SQ: the lowest-indexed SQ in ACTIVE or ERROR (R97). -/
def State.headSource (s : State) (p : Nat) : Option Nat :=
  (List.range 4).find? fun i => (s.sq p i).state = .active || (s.sq p i).state = .error

/-- The record lies in a readable window of the SQ's port (R49, R101). -/
def State.recordOk (s : State) (k : Nat) (q : Sq) : Bool := windowCovers (s.pitch (k / 4)).live q.port false q.db 16

/-- The record of an SQ is due in a sweep (R32, R83, R97). A cold SQ is due where the port's count of sweeps is a multiple of 64 (log
entry 105). -/
def State.sweepDue (s : State) (port : Port) (n : Nat) (k : Nat) (q : Sq) : Bool :=
  let p := k / 4
  let low := decide (4 * (s.cq p).credits < (ringSize (s.cq p).log2 : Int)) && s.headSource p = some (k % 4)
  q.port = port && (s.pitch p).state = .active &&
    ((q.state = .active && (q.hot || q.pin || n % 64 = 0 || low)) || (q.state = .error && low))

/-- The record is due and may be read (R49). -/
def State.sweepReads (s : State) (port : Port) (n : Nat) (k : Nat) (q : Sq) : Bool := s.sweepDue port n k q && s.recordOk k q

def lineOf (a : BitVec 64) : BitVec 64 := a &&& ~~~(63 : BitVec 64)

/-- The sweep finds the record of an ACTIVE SQ outside a readable window: a ring event, with the last seq read (R49, R101). -/
def lostRecord (k : Nat) (s : State) : State := ringEvent (k / 4) (k % 4) stBadPointer 3 (s.sq (k / 4) (k % 4)).lastSeq s

/-- SQs of a port in round-robin order: those after the one that had the last turn, then the others (R90, R91; log entry 106). -/
def State.turnOrder (s : State) (port : Port) : SMap Sq :=
  let last := (s.portState port).lastTurn
  (s.rqe.sqs.filter fun e => e.2.port = port && decide (last < e.1))
    ++ s.rqe.sqs.filter fun e => e.2.port = port && decide (e.1 ≤ last)

/-- A sweep of a port: one 64-byte line read for all records in the line, in round-robin order; a sweep longer than its period is
counted (R85, R90). A record outside a readable window is not read. -/
def sweepStart (port : Port) (s : State) : State :=
  let ps := s.portState port
  if s.fetchStopped || ps.dlDown || ps.perst then s
  else
    let lines := (((s.turnOrder port).filter fun e => s.sweepReads port ps.sweeps e.1 e.2).map fun e => lineOf e.2.db).eraseDups
    let period := match port with | .a => s.rqe.periodA | .b => s.rqe.periodB
    let late := decide (32 * period.toNat < lines.length)
    let lost := (s.rqe.sqs.filter fun e => s.sweepDue port ps.sweeps e.1 e.2 && e.2.state = .active && !s.recordOk e.1 e.2).map (·.1)
    let s := lost.foldl (fun s k => lostRecord k s) (if late then raise (ringBase port + 1) s else s)
    let s := s.updPort port fun x =>
      { x with sweeps := ps.sweeps + 1, wake := false, lastLines := BitVec.ofNat 16 lines.length,
               stretched := if late then x.stretched + 1 else x.stretched }
    lines.foldl (fun s a => s.emit (.recordRead port a)) s

/-- SWEEP_START (R83, R85). -/
def execSweepStart (port : Port) (s : State) : Host.Outcome State Fault Refusal := .next (sweepStart port s)

/-- An SQ of the waking function becomes hot (R84). -/
def wakeSq (port : Port) (fn : BitVec 7) (q : Sq) : Sq :=
  if q.state ≠ .free ∧ q.port = port ∧ q.fn = fn then { q with hot := true, quietSweeps := 0 } else q

def rqeWake (who : Who) (s : State) : State :=
  match whoFn who with
  | none => s
  | some (port, fn) =>
    if s.ideCut port then s else
    let s := { s with rqe := { s.rqe with sqs := s.rqe.sqs.mapv {} (fun _ q => wakeSq port fn q) } }
    s.updPort port fun x => { x with wake := true }

/-- RQE_WAKE (R84). -/
def execRqeWake (who : Who) (_v : Word) (s : State) : Host.Outcome State Fault Refusal := .next (rqeWake who s)

/-! ## Record reads (R81, R90, R97, R98, R411) -/

structure Record where
  tail : Nat
  seq : Word
  cqHead : Nat

/-- The doorbell record (R80). -/
def readRecord (b : Bytes) : Record :=
  { tail := fieldLE b 0 2, seq := BitVec.ofNat 32 (fieldLE b 4 4), cqHead := fieldLE b 8 2 }

def recordAgrees (r : Record) (size : Nat) : Bool := r.tail = r.seq.toNat % size

/-- cq_head from the head-source record (R97). -/
def takeCqHead (p i : Nat) (h : Nat) (s : State) : State :=
  let q := s.cq p
  if s.headSource p ≠ some i ∨ q.state = .free then s
  else
    let size := ringSize q.log2
    let d := (h + size - q.cqHead) % size
    if h < size ∧ d ≤ q.unconsumed then
      s.updCq p fun q => { q with cqHead := h, unconsumed := q.unconsumed - d, badHead := none }
    else if q.badHead = some h then s
    else raise (ringBase q.port + 2) (s.updCq p fun q => { q with badHead := some h, lastEvent := 5 })

/-- The admission rule (R42): the refusal, if any. -/
def State.admission (s : State) (p : Nat) : Option (BitVec 16) :=
  let v := s.pitch p
  if v.quota ≤ v.inFlight then some stQuota
  else if v.inFlight < v.reserve then none
  else if s.sharedInUse < s.sharedCapacity then none
  else some stBusyRetry

/-- Up to `n` SQEs requested, each with an entry and a credit reserved (R90); with busy_refuse one for refusal. The number. -/
def reserveFetches (p i : Nat) : Nat → State → State × Nat
  | 0, s => (s, 0)
  | n + 1, s =>
    let q := s.sq p i
    if (s.cq p).credits ≤ 0 ∨ q.refusing.isSome ∨ q.fenced then (s, 0)
    else match s.admission p with
      | none =>
        let s := s.updPitch p fun v => { v with inFlight := v.inFlight + 1 }
        let s := s.updCq p fun c => { c with reserved := c.reserved + 1 }
        let (s, k) := reserveFetches p i n (s.updSq p i fun q => { q with fetching := q.fetching + 1 })
        (s, k + 1)
      | some st =>
        if q.busyRefuse then
          let s := s.updCq p fun c => { c with reserved := c.reserved + 1 }
          (s.updSq p i fun q => { q with fetching := q.fetching + 1, refusing := some st }, 1)
        else (s, 0)

/-- SQ memory inside a readable window of the SQ's port (R49, R101). -/
def State.sqMemoryOk (s : State) (p i : Nat) : Bool :=
  let q := s.sq p i
  windowCovers (s.pitch p).live q.port false q.base (128 * ringSize q.log2)

/-- Published SQEs of an SQ that no read has been issued for. -/
def Sq.work (q : Sq) : Nat := (q.published - q.consumed).toNat - q.fetching

/-- SQEs that a turn asks for: at most 8, contiguous in the ring (R85, R91). -/
def Sq.turnSize (q : Sq) : Nat :=
  min (min q.work 8) (ringSize q.log2 - (q.head.toNat + q.fetching) % ringSize q.log2)

/-- One turn of an SQ with published work (R90, R91, R101). -/
def fetchTurn (p i : Nat) (s : State) : State :=
  let q := s.sq p i
  if q.work = 0 ∨ q.fenced then s
  else if !s.sqMemoryOk p i then ringEvent p i stBadPointer 3 q.published s
  else
    let next := (q.head.toNat + q.fetching) % ringSize q.log2
    let (s, k) := reserveFetches p i q.turnSize s
    let s := s.updSq p i fun x => { x with blocked := decide (k < q.turnSize) && x.refusing.isNone }
    if k = 0 then s
    else (s.updPort q.port fun x => { x with lastTurn := sqKey p i }).emit (.sqeRead q.port (q.base + BitVec.ofNat 64 (128 * next)) k)

/-- The next turn of an SQ whose last one has brought all its data and was not blocked (R90, R91). -/
def nextTurn (p i : Nat) (s : State) : State :=
  let q := s.sq p i
  if q.fetching = 0 ∧ ¬ q.blocked ∧ ¬ q.resync ∧ q.state = .active ∧ (s.pitch p).state = .active ∧ ¬ s.fetchStopped then
    fetchTurn p i s
  else s

/-- A turn of a port has ended: the SQs with published work and no turn of their own under way have theirs, round-robin (R91). -/
def nextTurns (port : Port) (s : State) : State := (s.turnOrder port).foldl (fun s e => nextTurn (e.1 / 4) (e.1 % 4) s) s

/-- Heat of an SQ after a read (R83). -/
def heat (seq : Word) (q : Sq) : Sq :=
  if q.lastSeq = seq then
    { q with quietSweeps := q.quietSweeps + 1, hot := q.hot && decide (q.quietSweeps + 1 < 256) }
  else { q with quietSweeps := 0, hot := true, lastSeq := seq }

/-- A record as it arrived for an ACTIVE SQ. -/
def takeRecord (p i : Nat) (r : Record) (s : State) : State :=
  let q := s.sq p i
  let size := ringSize q.log2
  let s := s.updSq p i fun q => heat r.seq { q with failed := 0 }
  if q.resync then
    s.updSq p i fun q => { q with resync := false, consumed := r.seq, published := r.seq,
                                  head := BitVec.ofNat 16 (r.seq.toNat % size) }
  else if !recordAgrees r size then ringEvent p i stBadField 1 r.seq s
  else if size - 1 < (r.seq - q.consumed).toNat then ringEvent p i stBadLength 2 r.seq s
  else fetchTurn p i (s.updSq p i fun q => { q with published := r.seq })

/-- The second failed read in a row: a ring event (R98). -/
def failTwice (p i : Nat) (s : State) : State :=
  ringEvent p i stDmaFault 4 (s.sq p i).lastSeq (s.updSq p i fun q => { q with failed := 0, failedSqe := 0 })

/-- A failed read of a record: the second in a row is a ring event (R98). -/
def readFailed (p i : Nat) (s : State) : State :=
  let q := s.sq p i
  if q.state ≠ .active then s
  else if 1 ≤ q.failed then failTwice p i s
  else s.updSq p i fun q => { q with failed := q.failed + 1 }

/-- The record of an SQ that is swept has been read. -/
def sweptRecord (p i : Nat) (r : HostRead) (s : State) : State :=
  let q := s.sq p i
  if q.state ≠ .active ∧ q.state ≠ .error then s
  else match r with
    | .failed why => readFailed p i (aerReport q.port why s)
    | .data b =>
      let rec' := readRecord b
      let s := flushLatched p (takeCqHead p i rec'.cqHead s)
      if q.state = .active ∧ (s.pitch p).state = .active ∧ ¬ s.fetchStopped then takeRecord p i rec' s else s

/-! ## Entry checks and admission (R86 to R91, R424) -/

/-- The opcodes of R109. -/
def opcodes : List Nat :=
  [0x0101, 0x0102, 0x0103, 0x0104, 0x0105, 0x0106, 0x0201, 0x0202, 0x0203, 0x0204, 0x0301, 0x0302, 0x0303, 0x0304, 0x0305,
   0x0401, 0x0402, 0x0403, 0x0501, 0x0502, 0x0503, 0x0504, 0x0601, 0x0602] ++
  [0x0701, 0x0702, 0x0703, 0x0704, 0x0705, 0x0706, 0x0707, 0x0801, 0x0802, 0x0803, 0x0804, 0x0805, 0x0901, 0x0902, 0x0903,
   0x0904, 0x0A01, 0x0A02, 0x0F01, 0x0F02, 0x0F03]

/-- Opcode classes of a personality (R37). -/
def persClasses (p : BitVec 2) : List Nat :=
  match p.toNat with
  | 0 => [0x01, 0x02, 0x03, 0x04, 0x05, 0x0F]
  | 1 => [0x01, 0x06, 0x0F]
  | 2 => [0x01, 0x07, 0x08, 0x09, 0x0F]
  | _ => [0x01, 0x09, 0x0A, 0x0F]

/-- Checks 1 to 6 of R88: the status of the first that fails. -/
def entryChecks (s : State) (p i : Nat) (sqe : Bytes) : Option (BitVec 16) :=
  let q := s.sq p i
  let v := s.pitch p
  let op := fieldLE sqe 0 2
  let flags := fieldLE sqe 2 2
  let pf := fieldLE sqe 8 2
  let dlen := fieldLE sqe 0x28 4
  let rcap := fieldLE sqe 0x2C 4
  let rptr := fieldLE sqe 0x30 8
  if flags / 8 % 32 ≠ 0 ∨ (flags.testBit 1 ∧ flags.testBit 2) ∨ pf / 4096 ≠ 0 ∨ fieldLE sqe 10 2 / 8 ≠ 0 ∨
      fieldLE sqe 12 4 ≠ 0 ∨ fieldLE sqe 0x38 8 ≠ 0 then some stBadField
  else if pf ≠ p then some stBadField
  else if !(persClasses v.pers).contains (op / 256) then some stPersonality
  else if !opcodes.contains op then some stBadOpcode
  else if rcap ≠ 0 ∧ rptr % 8 ≠ 0 then some stBadAlign
  else if (dlen ≠ 0 && !windowCovers v.live q.port false (BitVec.ofNat 64 (fieldLE sqe 0x20 8)) dlen) ||
      (rcap ≠ 0 && !windowCovers v.live (s.cq p).port true (BitVec.ofNat 64 rptr) rcap) then some stBadPointer
  else none

/-- RQE_DROP_CNT index of a ring-stage status (R108). -/
def dropIndex (st : BitVec 16) : Nat :=
  if st = stBadField then 0 else if st = stBadOpcode then 1 else if st = stPersonality then 2
  else if st = stBadAlign then 3 else if st = stBadPointer then 4 else if st = stQuota then 5 else 6

/-- A refusal at the ring: the CQE with the status, the counters (R88, R89, R132). An SQE refused for having irq_none and irq_now set has
neither in its CQE (log entry 107). -/
def refuseSqe (p i : Nat) (sqe : Bytes) (st : BitVec 16) (s : State) : State :=
  let q := s.sq p i
  let s := dropCount q.port q.fn (dropIndex st) (s.updSq p i fun q => { q with refusedHeld := q.refusedHeld + 1 })
  let s := s.updPitch p fun v => { v with refused := v.refused + 1 }
  let flags := fieldLE sqe 2 2
  post p { cqe := { hostTag := BitVec.ofNat 32 (fieldLE sqe 4 4), status := st, sqIndex := BitVec.ofNat 2 i, port := q.port },
           irqNow := flags.testBit 1 && !flags.testBit 2, irqNone := flags.testBit 2 && !flags.testBit 1,
           credit := true } s

/-- A command is admitted to the tracker (R42, R44, R91) and routed (R12). -/
def admitSqe (p i : Nat) (sqe : Bytes) (s : State) : State :=
  let q := s.sq p i
  let e := s.freeEntryNo
  let cap := (s.pitch p).cfg.val.toNat / 256 % 8
  let pr := fieldLE sqe 10 2 % 8
  let fence := (fieldLE sqe 2 2).testBit 0 && (decide (0 < q.outstanding) || decide (0 < q.refusedHeld))
  let x : Entry := { sqe := padTo 128 sqe, pitch := BitVec.ofNat 12 p, sq := BitVec.ofNat 2 i, port := q.port,
                     resPort := (s.cq p).port, prio := BitVec.ofNat 3 (min pr cap), winSet := (s.pitch p).winSet,
                     windows := (s.pitch p).live,
                     fence := fence, queuedAt := s.clk }
  let s := (s.setEntry e (some x)).updSq p i fun q => { q with outstanding := q.outstanding + 1, fenced := fence }
  let s := if cap < pr then s.updPitch p fun v => { v with capped := v.capped + 1 } else s
  routeRecipe e (if classKnown sqe then replayLookup e s else s)

/-- A fence that waits: no later SQE is admitted, those asked for are read again afterwards (R91). -/
def fenceStops (p i : Nat) (s : State) : State := if (s.sq p i).fenced then flushLatched p (returnReservations p i s) else s

/-- Data of one fetched SQE (R88, R90), in ring order; after the last of a turn the SQ has its next (R91). -/
def sqeTaken (p i : Nat) (sqe : Bytes) (s : State) : State :=
  let q := s.sq p i
  if q.fetching = 0 ∨ q.fenced ∨ q.state ≠ .active then s
  else
    let refusing := decide (q.fetching = 1) && q.refusing.isSome
    let st := match entryChecks s p i sqe with
      | some st => some st
      | none => if refusing then q.refusing else none
    let s := s.updSq p i fun q =>
      { q with fetching := q.fetching - 1, consumed := q.consumed + 1, failedSqe := 0,
               refusing := if refusing then none else q.refusing,
               head := BitVec.ofNat 16 ((q.head.toNat + 1) % ringSize q.log2) }
    match st with
    | some st =>
      let s := if refusing then s else s.updPitch p fun v => { v with inFlight := v.inFlight - 1 }
      nextTurns q.port (refuseSqe p i sqe st s)
    | none => nextTurns q.port (fenceStops p i (admitSqe p i sqe s))

/-- A failed SQE read: its reservation goes back, the SQE is fetched again at a later sweep; the second SQE read in a row to fail is a
ring event (R98). -/
def sqeReadFailed (p i : Nat) (why : ReadFail) (s : State) : State :=
  let q := s.sq p i
  if q.fetching = 0 ∨ q.state ≠ .active then s
  else
    let s := flushLatched p (returnReservations p i (aerReport q.port why s))
    if 1 ≤ q.failedSqe then failTwice p i s else s.updSq p i fun q => { q with failedSqe := q.failedSqe + 1 }

/-- SQE_READ_FAILED (R98). -/
def execSqeReadFailed (p : BitVec 12) (i : BitVec 2) (s : State) (why : ReadFail := .timeout) : Host.Outcome State Fault Refusal :=
  .next (sqeReadFailed p.toNat i.toNat why s)

/-- Data of one fetched SQE; over an Insecure stream its read has failed (R73). -/
def sqeArrived (p i : Nat) (sqe : Bytes) (s : State) : State :=
  if s.ideCut (s.sq p i).port then sqeReadFailed p i .timeout s else sqeTaken p i sqe s

/-- SQE_DATA_ARRIVAL (R42, R86 to R91, R424). -/
def execSqeDataArrival (p : BitVec 12) (i : BitVec 2) (sqe : Bytes) (s : State) : Host.Outcome State Fault Refusal :=
  .next (sqeArrived p.toNat i.toNat (padTo 128 sqe) s)

/-! ## Ring control (R79, R102, R103, R105) -/

/-- A control write of a function for its selected ring: bound (R75), not more than one bit (R108). -/
def ringCtrl (who : Who) (v : Word) (f : Port → BitVec 7 → Nat → State → State) (s : State) : State :=
  match whoFn who with
  | none => s
  | some (port, fn) =>
    let p := (s.rqeSel who).pitch.toNat
    if v.toNat % 16 = 0 ∨ s.ideCut port then s
    else if ¬ [1, 2, 4, 8].contains (v.toNat % 16) then rqeErr who 1 s
    else if !s.bound p port fn then rqeErr who 2 s
    else f port fn p s

def log2Ok (n : BitVec 5) : Bool := decide (6 ≤ n.toNat) && decide (n.toNat ≤ 16)

def coalBad (count time : BitVec 8) : Bool := count ≠ 0 && time = 0

/-- Pitch may take new rings (R79). -/
def State.ringPitchOk (s : State) (p : Nat) : Bool := (s.pitch p).state = .active || (s.pitch p).state = .suspended

/-- Create of a CQ. DESIGN CHOICE (log entries 108 and 109): where one exists the refusal is R103's code 3, not the code 7 that R79 gives
for the limit of one; where several limits are broken, the code is that of the first in this order. -/
def createCq (who : Who) (port : Port) (fn : BitVec 7) (p : Nat) (s : State) : State :=
  let x := s.rqeSel who
  if (s.cq p).state ≠ .free then rqeErr who 3 s
  else if !log2Ok x.log2 then rqeErr who 1 s
  else if coalBad x.coalCount x.coalTime then rqeErr who 8 s
  else if !windowCovers (s.pitch p).live port true x.base (32 * ringSize x.log2) then rqeErr who 4 s
  else flushLatched p (s.updCq p fun q =>
    { state := .active, port := port, fn := fn, base := x.base, log2 := x.log2, coalTime := x.coalTime, coalCount := x.coalCount,
      vector := x.vector, latched := q.latched })

/-- Submission rings that a function holds, and that the device holds (R77). -/
def State.fnSqs (s : State) (port : Port) (fn : BitVec 7) : Nat :=
  (s.rqe.sqs.filter fun e => e.2.state ≠ .free && e.2.port = port && e.2.fn = fn).length
def State.allSqs (s : State) : Nat := (s.rqe.sqs.filter fun e => e.2.state ≠ .free).length

def State.anySq (s : State) (p : Nat) : Bool := (List.range 4).any fun i => (s.sq p i).state ≠ .free

/-- What an SQ that is to be created was staged with. -/
def RqeSel.opening (x : RqeSel) (who : Who) (port : Port) (fn : BitVec 7) : Opening :=
  { who := who, port := port, fn := fn, base := x.base, db := x.db, log2 := x.log2, pin := x.pin, busyRefuse := x.busyRefuse }

/-- The limits of R77, R79 and R102 that are judged before the record is read: the refusal. DESIGN CHOICE (log entry 109): of several, the
first in this order. -/
def State.createSqRefusal (s : State) (o : Opening) (p i : Nat) : Option (BitVec 4) :=
  if (s.sq p i).state ≠ .free then some 3
  else if (s.cq p).state = .free ∨ (¬ s.anySq p ∧ i ≠ 0) then some 7
  else if !log2Ok o.log2 then some 1
  else if (s.fn o.port o.fn).maxSq ≤ s.fnSqs o.port o.fn ∨ 8192 ≤ s.allSqs then some 5
  else if !windowCovers (s.pitch p).live o.port false o.base (128 * ringSize o.log2) ||
      !windowCovers (s.pitch p).live o.port false o.db 16 then some 4
  else none

/-- The state of an SQ that is created or reset with a record (R81, R102). -/
def Opening.start (o : Opening) (d : Record) (q : Sq) : Sq :=
  if o.reset then
    { q with state := .active, consumed := d.seq, published := d.seq, lastSeq := d.seq, head := BitVec.ofNat 16 d.tail, failed := 0,
             failedSqe := 0, blocked := false, hot := true, quietSweeps := 0, resync := false }
  else
    { state := .active, port := o.port, fn := o.fn, base := o.base, log2 := o.log2, db := o.db, pin := o.pin,
      busyRefuse := o.busyRefuse, consumed := d.seq, published := d.seq, lastSeq := d.seq, hot := true,
      head := BitVec.ofNat 16 d.tail }

/-- The one record read of a create or reset has come (R98, R102). -/
def openRecord (p i : Nat) (o : Opening) (r : HostRead) (s : State) : State :=
  match r with
  | .failed why => rqeErr o.who 9 (aerReport o.port why s)
  | .data b =>
    let d := readRecord b
    if !recordAgrees d (ringSize (if o.reset then (s.sq p i).log2 else o.log2)) then rqeErr o.who 6 s
    else s.updSq p i (o.start d)

/-- A record for a create or reset that waited for it: its conditions hold still, or the write is refused. -/
def openWith (p i : Nat) (o : Opening) (r : HostRead) (s : State) : State :=
  if o.reset then (if (s.sq p i).state = .error then openRecord p i o r s else rqeErr o.who 3 s)
  else match s.createSqRefusal o p i with
    | some c => rqeErr o.who c s
    | none => openRecord p i o r s

/-- What follows the conditions of a create or reset: with the record read (RING_CREATE, RING_RESET), its result; without it (REG_WRITE),
the read is issued, and DOORBELL_RECORD_READ_DONE brings it (log entry 73). -/
def openNow (p i : Nat) (o : Opening) (r : Option HostRead) (s : State) : State :=
  match r with
  | some r => openRecord p i o (s.hostRead o.port r) s
  | none => (s.updSq p i fun q => { q with opening := some o }).emit (.recordRead o.port (if o.reset then (s.sq p i).db else o.db))

def createSq (who : Who) (port : Port) (fn : BitVec 7) (p : Nat) (r : Option HostRead) (s : State) : State :=
  let x := s.rqeSel who
  let o := x.opening who port fn
  match s.createSqRefusal o p x.sqIndex.toNat with
  | some c => rqeErr who c s
  | none => openNow p x.sqIndex.toNat o r s

/-- Create of the selected ring (R79, R102, R103). -/
def ringCreate (who : Who) (v : Word) (r : Option HostRead) (s : State) : State :=
  ringCtrl who v (fun port fn p s =>
    if !v.getLsbD 0 then s
    else if !s.ringPitchOk p then rqeErr who 3 s
    else if (s.rqeSel who).cq then createCq who port fn p s
    else createSq who port fn p r s) s

/-- RING_CREATE (R75, R77, R79, R102, R103). -/
def execRingCreate (who : Who) (v : Word) (r : HostRead) (s : State) : Host.Outcome State Fault Refusal :=
  .next (ringCreate who v (some r) s)

/-- An SQ stops fetching for good: DRAINING, or FREE at once with nothing outstanding (R102). -/
def drainSq (p i : Nat) (s : State) : State :=
  let s := returnReservations p i s
  flushLatched p (if (s.sq p i).outstanding = 0 then s.updSq p i fun _ => {} else s.updSq p i fun q => { q with state := .draining })

/-- Delete of the selected ring, by the function bound on its port (R75, R97, R102, R103). -/
def ringDelete (who : Who) (v : Word) (s : State) : State :=
  ringCtrl who v (fun port _ p s =>
    let x := s.rqeSel who
    let i := x.sqIndex.toNat
    if !v.getLsbD 1 then s
    else if x.cq then
      if s.anySq p then rqeErr who 7 s
      else if (s.cq p).state ≠ .active then rqeErr who 3 s
      else if (s.cq p).port ≠ port then rqeErr who 2 s
      else s.updCq p fun _ => {}
    else if (s.sq p i).state ≠ .active ∧ (s.sq p i).state ≠ .error then rqeErr who 3 s
    else if (s.sq p i).port ≠ port then rqeErr who 2 s
    else if i = 0 ∧ (List.range 4).any (fun j => j ≠ 0 && (s.sq p j).state ≠ .free) then rqeErr who 7 s
    else drainSq p i s) s

/-- RING_DELETE (R97, R102, R103). -/
def execRingDelete (who : Who) (v : Word) (s : State) : Host.Outcome State Fault Refusal := .next (ringDelete who v s)

/-- Reset of an SQ in ERROR with a fresh record, by the function bound on its port (R75, R98, R102). -/
def ringReset (who : Who) (v : Word) (r : Option HostRead) (s : State) : State :=
  ringCtrl who v (fun port fn p s =>
    let x := s.rqeSel who
    let i := x.sqIndex.toNat
    if !v.getLsbD 2 then s
    else if x.cq ∨ (s.sq p i).state ≠ .error then rqeErr who 3 s
    else if (s.sq p i).port ≠ port then rqeErr who 2 s
    else openNow p i { who := who, port := port, fn := fn, reset := true } r s) s

/-- RING_RESET (R81, R98, R102). -/
def execRingReset (who : Who) (v : Word) (r : HostRead) (s : State) : Host.Outcome State Fault Refusal :=
  .next (ringReset who v (some r) s)

/-- A record has been read: for a create or reset that waits for it, else for the sweep. -/
def recordReadDone (p i : Nat) (r : HostRead) (s : State) : State :=
  match (s.sq p i).opening with
  | some o => openWith p i o (s.hostRead o.port r) (s.updSq p i fun q => { q with opening := none })
  | none => sweptRecord p i (s.hostRead (s.sq p i).port r) s

/-- DOORBELL_RECORD_READ_DONE (R81, R90, R97, R98, R101). -/
def execDoorbellRecordReadDone (p : BitVec 12) (i : BitVec 2) (r : HostRead) (s : State) :
    Host.Outcome State Fault Refusal := .next (recordReadDone p.toNat i.toNat r s)

/-- A held completion whose result range lies outside the new port's writable windows loses its result (R105); the windows are those
in force at the command's admission (R51). -/
def adoptHeld (port : Port) (h : HeldCqe) : HeldCqe :=
  if h.result ≠ [] ∧ ¬ windowCovers h.windows port true h.resultPtr h.resultCap then
    { h with result := [], cqe := { h.cqe with resultLen := 0, resultDropped := true } }
  else h

/-- Adoption by the function bound on the other port (R103, R105). -/
def cqAdopt (who : Who) (v : Word) (s : State) : State :=
  ringCtrl who v (fun port fn p s =>
    let x := s.rqeSel who
    let q := s.cq p
    if !v.getLsbD 3 then s
    else if !x.cq || (q.state ≠ .active && q.state ≠ .orphan) || q.port = port then rqeErr who 3 s
    else if !log2Ok x.log2 then rqeErr who 1 s
    else if coalBad x.coalCount x.coalTime then rqeErr who 8 s
    else if !windowCovers (s.pitch p).live port true x.base (32 * ringSize x.log2) then rqeErr who 4 s
    else
      let s := s.updCq p fun q =>
        { q with state := .active, port := port, fn := fn, base := x.base, log2 := x.log2, coalTime := x.coalTime,
                 coalCount := x.coalCount, vector := x.vector, index := 0, pass := 0, cqHead := 0, badHead := none,
                 unconsumed := 0, pending := 0, timer := false, held := q.held.map (adoptHeld port) }
      flushLatched p (releaseCq p (raise (ringBase port + 4) s))) s

/-- CQ_ADOPT (R95, R105). -/
def execCqAdopt (who : Who) (v : Word) (s : State) : Host.Outcome State Fault Refusal := .next (cqAdopt who v s)

/-! ## Orphans (R106) -/

def freeList (p : Nat) : List HeldCqe → State → State
  | [], s => s
  | h :: t, s => freeList p t (freeOpt h.entry (if h.credit && !h.cqe.ringEvent then refusedWritten p h.cqe.sqIndex s else s))

/-- Commands of the pitch in flight that hold no completion yet. -/
def State.executing (s : State) (p : Nat) : List Nat :=
  (s.sch.entries.filter fun e => match e.2 with
    | some x => x.pitch.toNat = p && x.phase ≠ .held
    | none => false).map (·.1)

/-- The CQ left ORPHAN becomes FREE: held completions and later ones are discarded, with one record; SQEs asked for stay in host memory,
since no credit is left for them (R106, R107). -/
def orphanExpire (p : Nat) (s : State) : State :=
  if (s.cq p).state ≠ .orphan then s
  else
    let q := s.cq p
    let ex := s.executing p
    let s := (List.range 4).foldl (fun s i => returnReservations p i s) s
    let s := freeList p q.held (s.updCq p fun q => { q with held := [] })
    let s := ex.foldl (fun s e => s.updEntry e fun x => { x with discard := true }) s
    let s := s.updCq p fun q => { latched := q.latched }
    raise (ringBase q.port + 3)
      (tallyRec 0x0403 0 (BitVec.ofNat 10 (ringBase q.port + 3)) none (toLE 2 p ++ toLE 4 (q.held.length + ex.length)) s)

/-- ORPHAN_TIMEOUT (R106). -/
def execOrphanTimeout (p : BitVec 12) (s : State) : Host.Outcome State Fault Refusal := .next (orphanExpire p.toNat s)

/-- RQE_ORPHAN_TIMEOUT: 1 to 10,000 ms; timers already as old end at the write (R76, R106). -/
def orphanTimeoutWrite (who : Who) (v : Word) (s : State) : State :=
  rqeOwner who (fun s =>
    let ms := v.toNat % 2 ^ 14
    if ms = 0 ∨ 10000 < ms then rqeErr who 1 s
    else
      let s := { s with rqe := { s.rqe with orphanMs := BitVec.ofNat 14 ms } }
      let due := s.rqe.cqs.filter fun e => e.2.state = .orphan && decide (e.2.orphanAt + ms * msCycles ≤ s.clk)
      due.foldl (fun s e => orphanExpire e.1 s) s) s

/-- ORPHAN_TIMEOUT_WRITE (R106). -/
def execOrphanTimeoutWrite (who : Who) (v : Word) (s : State) : Host.Outcome State Fault Refusal :=
  .next (orphanTimeoutWrite who v s)

/-! ## Interrupts (R99) -/

def coalesceTimer (p : Nat) (s : State) : State :=
  if (s.cq p).timer then fireVector p s else s

/-- COALESCE_TIMER (R99). -/
def execCoalesceTimer (p : BitVec 12) (s : State) : Host.Outcome State Fault Refusal := .next (coalesceTimer p.toNat s)

/-- Messages whose PBA bit is set and that may now go are sent (R99): Bus Master Enable set, neither the vector nor the function masked. -/
def sendPending (port : Port) (fn : BitVec 7) (s : State) : State :=
  let f := s.fn port fn
  if !f.bme || f.msixMask then s
  else
    let go := f.pba.filter fun v => f.unmasked.contains v
    let s := s.updFn port fn fun f => { f with pba := f.pba.filter fun v => !go.contains v }
    go.foldl (fun s v => s.emit (.msix port fn (BitVec.ofNat 11 v))) s

def msixUnmask (port : Port) (fn : BitVec 7) (vec : BitVec 11) (s : State) : State :=
  sendPending port fn (s.updFn port fn fun f => { f with unmasked := insertNat vec.toNat f.unmasked })

/-- MSIX_UNMASK (R99). -/
def execMsixUnmask (port : Port) (fn : BitVec 7) (vec : BitVec 11) (s : State) : Host.Outcome State Fault Refusal :=
  .next (msixUnmask port fn vec s)

end Sys2Proof.Machine
end

