-- ==== Sys2Proof/Machine/Pcie.lean ====
section
/-! DEFINITION. The PCIe ports and functions (R69 to R78): resets, power states, link events, configuration requests, IDE. What a
function reset clears in a function is PCIe's and presumed (log entry 8). -/

namespace Sys2Proof.Machine

def pcieBase (port : Port) : Nat := 440 + 16 * Port.num port

/-- A command leaves its priority queue. -/
def dropFromQueues (e : Nat) (s : State) : State :=
  match s.entry e with
  | none => s
  | some x => takeFrom (s.queueOf x) e s

/-- The command has not begun to execute (R131, ABORT_HOST): it holds neither a recipe context nor a core (R356). -/
def notBegun (x : Entry) : Bool := (x.phase = .admitted && x.ctx.isNone) || x.phase = .queued

/-- Commands of an SQ that have not begun end with ABORT_HOST. -/
def abortSq (p i : Nat) (s : State) : State :=
  let l := (s.sch.entries.filter fun e => match e.2 with
    | some x => x.pitch.toNat = p && x.sq.toNat = i && notBegun x && x.csn.isNone
    | none => false).map (·.1)
  l.foldl (fun s e => finish e { status := stAbortHost } (dropFromQueues e s)) s

/-- An event of R78 on one submission ring. -/
def stopSq (k : Nat) (s : State) : State :=
  let p := k / 4
  let i := k % 4
  if (s.sq p i).state = .draining then abortSq p i s
  else
    let s := returnReservations p i s
    let s := s.updSq p i fun q => { q with state := .draining, opening := none }
    let s := abortSq p i s
    flushLatched p (if (s.sq p i).state = .draining ∧ (s.sq p i).outstanding = 0 then s.updSq p i fun _ => {} else s)

/-- An event of R78 on one completion ring: it is ORPHAN and its timer starts. -/
def orphanCq (p : Nat) (s : State) : State :=
  if (s.cq p).state = .active then s.updCq p fun q => { q with state := .orphan, orphanAt := s.clk, timer := false, pending := 0 }
  else s

/-- R78 for every ring that a function of a set created. -/
def stopRings (port : Port) (fns : BitVec 7 → Bool) (s : State) : State :=
  let cqs := (s.rqe.cqs.filter fun e => e.2.state ≠ .free && e.2.port = port && fns e.2.fn).map (·.1)
  let sqs := (s.rqe.sqs.filter fun e => e.2.state ≠ .free && e.2.port = port && fns e.2.fn).map (·.1)
  sqs.foldl (fun s k => stopSq k s) (cqs.foldl (fun s p => orphanCq p s) s)

/-- A function reset: configuration space and the vector table go; limits and counters stay. -/
def resetFn (f : Fn) : Fn := { state := f.state, maxSq := f.maxSq, drops := f.drops }

/-- The functions of a port that an event on `fn` acts on: the FLR of a PF acts on its VFs too (R78). -/
def covers (fn : BitVec 7) (x : BitVec 7) : Bool := fn = 0 || x = fn

/-- Every listed function of the port in a set changed. -/
def mapFns (port : Port) (fns : BitVec 7 → Bool) (f : Fn → Fn) (s : State) : State :=
  { s with rqe := { s.rqe with fns := s.rqe.fns.mapv {} (fun k (v : Fn) =>
      if k / 128 = Port.num port ∧ fns (BitVec.ofNat 7 k) then f v else v) } }

/-- The PF of a port as an initiator (R24). -/
def pfIni : Port → BitVec 6
  | .a => 0x2F
  | .b => 0x30

/-- FUNCTION_LEVEL_RESET (R78, R345): the rings, the function's own state, the PF's mailbox locks; keys, bindings and ownership stay. -/
def functionLevelReset (port : Port) (fn : BitVec 7) (s : State) : State :=
  let s := stopRings port (covers fn) s
  let s := mapFns port (covers fn) (fun f => resetFn f) s
  let s := s.updFn port fn fun f => { f with state := .flr }
  let s := if fn = 0 then releaseLocksOf (pfIni port) s else s
  raise (ringBase port + 5) s

def execFunctionLevelReset (port : Port) (fn : BitVec 7) (s : State) : Host.Outcome State Fault Refusal :=
  .next (functionLevelReset port fn s)

/-- FLR_COMPLETE (R78, R103): the function is in D0; an orphan CQ stays. -/
def execFlrComplete (port : Port) (fn : BitVec 7) (s : State) : Host.Outcome State Fault Refusal :=
  .next (if (s.fn port fn).state = .flr then s.updFn port fn fun f => { f with state := .d0 } else s)

/-- D3HOT_ENTRY (R78). -/
def execD3hotEntry (port : Port) (fn : BitVec 7) (s : State) : Host.Outcome State Fault Refusal :=
  let s := stopRings port (fun x => x = fn) s
  .next (raise (ringBase port + 6) (handoverCheck (s.updFn port fn fun f => { f with state := .d3hot })))

/-- D3HOT_EXIT (R103): the function is in D0 again; an orphan CQ stays. -/
def execD3hotExit (port : Port) (fn : BitVec 7) (s : State) : Host.Outcome State Fault Refusal :=
  .next (if (s.fn port fn).state = .d3hot then s.updFn port fn fun f => { f with state := .d0 } else s)

/-- The link of a port is gone: rings, functions, IDE streams, the SPDM session, the PF's locks (R69, R73, R78, R345). -/
def linkGone (port : Port) (s : State) : State :=
  let s := stopRings port (fun _ => true) s
  let s := mapFns port (fun _ => true) (fun f => { resetFn f with state := .d0 }) s
  let s := s.updPort port fun x =>
    { x with linkUp := false, dlDown := true, ide := [0, 0, 0, 0, 0], spdm := 0, session := 0, sessionKeyUpdates := 0, keys := {} }
  raise (ringBase port + 7) (raise (pcieBase port + 10) (handoverCheck (releaseLocksOf (pfIni port) s)))

/-- DL_DOWN (R78). -/
def execDlDown (port : Port) (s : State) : Host.Outcome State Fault Refusal := .next (linkGone port s)

/-- PERST_ASSERT: the port's conventional reset; its link is down (R78, R470). -/
def execPerstAssert (port : Port) (s : State) : Host.Outcome State Fault Refusal :=
  .next (raise (pcieBase port + 11) (handoverCheck ((linkGone port s).updPort port fun x => { x with perst := true })))

/-- The PHY supply of a port is below its resume level (R439): rails 6 and 7, and 8 for both. -/
def State.phyDown (s : State) (port : Port) : Bool := s.pwr.down.getLsbD (6 + Port.num port) || s.pwr.down.getLsbD 8

/-- A port's link is up. -/
def pcieUp (port : Port) (s : State) : State :=
  raise (pcieBase port + 9) (s.updPort port fun x => { x with linkUp := true, dlDown := false, perst := false })

/-- PCIE_LINK_UP (R431). -/
def execPcieLinkUp (port : Port) (s : State) : Host.Outcome State Fault Refusal :=
  .next (if s.phyDown port then s else pcieUp port s)

/-- CQs of a function post what Bus Master Enable held (R78). -/
def releaseFn (port : Port) (fn : BitVec 7) (s : State) : State :=
  ((s.rqe.cqs.filter fun e => e.2.state = .active && e.2.port = port && e.2.fn = fn).map (·.1)).foldl
    (fun s p => releaseCq p s) s

def setBme (port : Port) (fn : BitVec 7) (on : Bool) (s : State) : State :=
  let s := s.updFn port fn fun f => { f with bme := on }
  if on then sendPending port fn (releaseFn port fn s) else s

/-- BUS_MASTER_ENABLE_SET (R78). -/
def execBusMasterEnableSet (port : Port) (fn : BitVec 7) (s : State) : Host.Outcome State Fault Refusal :=
  .next (setBme port fn true s)

/-- BUS_MASTER_ENABLE_CLEAR (R78). -/
def execBusMasterEnableClear (port : Port) (fn : BitVec 7) (s : State) : Host.Outcome State Fault Refusal :=
  .next (setBme port fn false s)

/-! ## Configuration space (R69, R71, R74, R431)

The header stands where PCIe puts it. Where the capabilities stand is not in the spec: this model puts the PCI Express capability at 0x40,
the MSI-X capability at 0xB0, AER at 0x100 and SR-IOV at 0x140 (log entry 111). -/

/-- The AER status as PCIe numbers its bits, from the order of R74. -/
def aerWord (a : BitVec 9) : Nat :=
  bit (a.getLsbD 0) 12 + bit (a.getLsbD 1) 14 + bit (a.getLsbD 2) 15 + bit (a.getLsbD 3) 16 + bit (a.getLsbD 4) 20
    + bit (a.getLsbD 5) 18 + bit (a.getLsbD 6) 19 + bit (a.getLsbD 7) 17 + bit (a.getLsbD 8) 22

/-- The AER status with the errors of a word cleared. -/
def aerClear (v : Word) (a : BitVec 9) : BitVec 9 :=
  BitVec.ofNat 9 (((List.range 9).filter fun k => a.getLsbD k && !v.getLsbD (Nat.log2 (aerWord (BitVec.ofNat 9 (2 ^ k))))).map (2 ^ ·)).sum

/-- Size of BAR0 (R71): 2 MiB of a PF, 64 KiB of a VF. BAR2 has 64 KiB. -/
def bar0Size (fn : BitVec 7) : Nat := if fn = 0 then 0x200000 else 0x10000
def bar2Size : Nat := 0x10000

/-- A base address register takes the address bits above its size; the low word shows a 64-bit, non-prefetchable memory BAR. -/
def barSet (size : Nat) (high : Bool) (v : Word) (b : BitVec 64) : BitVec 64 :=
  let n := if high then b.toNat % 2 ^ 32 + v.toNat * 2 ^ 32 else b.toNat / 2 ^ 32 * 2 ^ 32 + v.toNat
  BitVec.ofNat 64 (n / size * size)
def barLow (b : BitVec 64) : Nat := b.toNat % 2 ^ 32 + 4

/-- Max payload size 128, 256 or 512 B; max read request size 128 to 4,096 B (R69): another code leaves the field as it was. -/
def devCtlSet (v old : BitVec 16) : BitVec 16 :=
  let mps := if v.toNat / 32 % 8 ≤ 2 then v.toNat / 32 % 8 else old.toNat / 32 % 8
  let mrrs := if v.toNat / 4096 % 8 ≤ 5 then v.toNat / 4096 % 8 else old.toNat / 4096 % 8
  BitVec.ofNat 16 (v.toNat % 32 + mps * 32 + v.toNat / 256 % 16 * 256 + mrrs * 4096)

/-- The capabilities of R69 as PCIe encodes them: function level reset and payload to 512 B; ranges A to D and 10-bit tags; 32 GT/s by 8
lanes. -/
def devCap : Nat := 2 ^ 28 + 2
def devCap2 : Nat := 0xF + 2 ^ 16 + 2 ^ 17
def linkCap : Nat := 5 + 8 * 16

/-- A read of configuration space; registers that neither the spec nor R69's capabilities fix read free values. -/
def State.configRead (s : State) (port : Port) (fn : BitVec 7) (reg : Nat) (free : Nat) : Nat :=
  let f := s.fn port fn
  match reg with
  | 0x004 => free - free / 4 % 2 * 4 + bit f.bme 2
  | 0x008 => 0x108000 * 256 + free % 256
  | 0x010 => barLow f.bar0
  | 0x014 => f.bar0.toNat / 2 ^ 32
  | 0x018 => barLow f.bar2
  | 0x01C => f.bar2.toNat / 2 ^ 32
  | 0x03C => 0
  | 0x044 => devCap
  | 0x048 => f.devCtl.toNat
  | 0x04C => linkCap
  | 0x064 => devCap2
  | 0x068 => f.devCtl2.toNat
  | 0x0B0 => 0x11 + 2047 * 2 ^ 16 + bit f.msixMask 30 + bit f.msixEnable 31
  | 0x0B4 => 2
  | 0x0B8 => 0x8000 + 2
  | 0x104 => aerWord (s.portState port).aer
  | 0x148 => if fn = 0 then bit f.vfEnable 0 + bit f.vfEnable 3 + bit true 4 else 0
  | 0x14C => if fn = 0 then 127 * 2 ^ 16 + 127 else 0
  | 0x150 => if fn = 0 then f.numVfs.toNat else 0
  | _ => free

/-- A write of configuration space. Bit 15 of Device Control starts a Function Level Reset. -/
def configWrite (port : Port) (fn : BitVec 7) (reg : Nat) (v : Word) (s : State) : State :=
  let upd := fun (g : Fn → Fn) => s.updFn port fn g
  match reg with
  | 0x004 => setBme port fn (v.getLsbD 2) s
  | 0x010 => upd fun f => { f with bar0 := barSet (bar0Size fn) false v f.bar0 }
  | 0x014 => upd fun f => { f with bar0 := barSet (bar0Size fn) true v f.bar0 }
  | 0x018 => upd fun f => { f with bar2 := barSet bar2Size false v f.bar2 }
  | 0x01C => upd fun f => { f with bar2 := barSet bar2Size true v f.bar2 }
  | 0x048 =>
    if v.getLsbD 15 then functionLevelReset port fn s
    else upd fun f => { f with devCtl := devCtlSet (v.extractLsb' 0 16) f.devCtl }
  | 0x068 => upd fun f => { f with devCtl2 := v.extractLsb' 0 16 }
  | 0x0B0 => sendPending port fn (upd fun f => { f with msixMask := v.getLsbD 30, msixEnable := v.getLsbD 31 })
  | 0x104 => s.updPort port fun x => { x with aer := aerClear v x.aer }
  | 0x148 => if fn = 0 then upd fun f => { f with vfEnable := v.getLsbD 0 } else s
  | 0x150 => if fn = 0 ∧ v.toNat % 2 ^ 16 ≤ 127 ∧ ¬ (s.fn port fn).vfEnable then upd fun f => { f with numVfs := v.extractLsb' 0 7 } else s
  | _ => s

/-- CONFIG_REQUEST (R69, R71, R73, R431): Retry Status until the ports answer, then as PCIe defines; discarded on an Insecure stream. -/
def configRequest (port : Port) (fn : BitVec 7) (write : Bool) (reg : BitVec 12) (v : Word) (s : State) : State :=
  if (s.portState port).retry then s.emit (.cfgRetry port)
  else if s.ideCut port then s
  else if write then (configWrite port fn reg.toNat v s).emit (.cfgDone port 0)
  else
    let (b, s) := draw 4 s
    s.emit (.cfgDone port (BitVec.ofNat 32 (s.configRead port fn reg.toNat (leNat b))))

def execConfigRequest (port : Port) (fn : BitVec 7) (write : Bool) (reg : BitVec 12) (v : Word) (s : State) :
    Host.Outcome State Fault Refusal := .next (configRequest port fn write reg v s)

/-- IDE_INTEGRITY_FAIL (R73): streams 0 (link) to 4; the stream is Insecure. -/
def execIdeIntegrityFail (port : Port) (stream : BitVec 3) (s : State) : Host.Outcome State Fault Refusal :=
  if 5 ≤ stream.toNat then .fault .noSuchUnit
  else .next (raise (ringBase port + 8) (s.updPort port fun x => { x with ide := x.ide.set stream.toNat 2 }))

/-- IDE_KM (R73): only inside a secured SPDM session; the stream is Secure again. -/
def execIdeKm (port : Port) (stream : BitVec 3) (s : State) : Host.Outcome State Fault Refusal :=
  if 5 ≤ stream.toNat then .fault .noSuchUnit
  else .next (if (s.portState port).session = 2 then s.updPort port fun x => { x with ide := x.ide.set stream.toNat 1 } else s)

end Sys2Proof.Machine
end

