-- ==== Sys2Proof/Machine/Cores.lean ====
section
/-! DEFINITION. Routes, priority queues, the dispatch port and the cores (R130, R141, R315 to R330). -/

namespace Sys2Proof.Machine

/-- The status codes of R131. -/
def statusCodes : List Nat :=
  [0x0000, 0x0101, 0x0102, 0x0103, 0x0104, 0x0105, 0x0201, 0x0202, 0x0203, 0x0204, 0x0205, 0x0206, 0x0301, 0x0302, 0x0303,
   0x0304, 0x0401, 0x0402, 0x0403, 0x0404, 0x0501, 0x0502, 0x0503, 0x0504, 0x0601, 0x0602, 0x0603, 0x0604, 0x0701, 0x0702,
   0x0703]

/-! ## Selection (R324) -/

/-- Queues that a mask serves and that hold a command. -/
def State.served (s : State) (mask : BitVec 4) : List Nat :=
  (List.range 32).filter fun q => mask.getLsbD (q / 8) && (s.queue q).cmds ≠ []

def State.queuedAt (s : State) (e : Nat) : Nat := match s.entry e with | some x => x.queuedAt | none => 0

/-- The queue of a list whose head has waited longest. -/
def State.oldestQueue (s : State) : List Nat → Option (Nat × Nat)
  | [] => none
  | q :: l =>
    match (s.queue q).cmds with
    | [] => s.oldestQueue l
    | e :: _ =>
      match s.oldestQueue l with
      | none => some (q, e)
      | some (q', e') => if s.queuedAt e ≤ s.queuedAt e' then some (q, e) else some (q', e')

/-- The next personality in turn at a priority among the served queues. -/
def pickPers (l : List Nat) (top first : Nat) : Option Nat :=
  ((List.range 4).map fun k => 8 * ((first + k) % 4) + top).find? fun q => l.contains q

/-- select of R324: the command, and the state without it in its queue. -/
def selectCmd (mask : BitVec 4) (s : State) : Option (Nat × State) :=
  let l := s.served mask
  match s.oldestQueue l with
  | none => none
  | some (q, e) =>
    if s.sch.ageMs ≠ 0 ∧ s.queuedAt e + s.sch.ageMs.toNat * msCycles < s.clk then some (e, takeFrom q e s)
    else
      let top := l.foldl (fun a q => max a (q % 8)) 0
      match pickPers l top (s.sch.lastServed.get 0 top) with
      | none => none
      | some q =>
        let s := { s with sch := { s.sch with lastServed := s.sch.lastServed.set 0 top ((q / 8 + 1) % 4) } }
        nextFrom q (4112 * ((s.queue q).turn.length + 1) + 1) s

/-! ## Dispatch (R317 to R319, R326) -/

def coreWho (c : Nat) : Who := .ini (BitVec.ofNat 6 (2 + c))

def dispatchWord (p : BitVec 12) (e : Nat) : Word := BitVec.ofNat 32 (2 ^ 31 + p.toNat * 2 ^ 17 + e % 2 ^ 17)
def drainWord : Word := 0x40000000

/-- Histogram bucket of a wait in CLK_SEC cycles (R326). -/
def waitBucket (w : Nat) : Nat :=
  let us := w / usCycles
  if us < 1 then 0 else if us < 4 then 1 else if us < 16 then 2 else if us < 64 then 3 else if us < 256 then 4
  else if us < 1000 then 5 else if us < 4000 then 6 else 7

/-- The core is bound to a command (R57, R317). -/
def bindCore (c e : Nat) (s : State) : State :=
  match s.entry e with
  | none => s
  | some x =>
    let q := s.queueOf x
    let key := 8 * q + waitBucket (s.clk - x.queuedAt)
    let s := { s with sch := { s.sch with hist := s.sch.hist.upd 0 key (· + 1) } }
    let s := s.updPitch x.pitch.toNat fun v => { v with schDisp := v.schDisp + 1 }
    let s := s.updEntry e fun x => { s.dispatched x with phase := .bound (BitVec.ofNat 5 c) }
    let s := s.updCore c fun k =>
      { k with state := .busy, entry := some e, boundPitch := some x.pitch, blocked := false, handed := false, completed := false, scratch := [],
               hrdStatus := 0 }
    s.emit (.read (coreWho c) (dispatchWord x.pitch e))

/-- A core that asks for work gets a command if one waits for it. -/
def tryDispatch (c : Nat) (s : State) : Option State :=
  if s.dispatchStopped then none
  else match selectCmd (s.core c).mask s with
    | none => none
    | some (e, s) => some (bindCore c e s)

/-- Blocked cores in the order of their loads. -/
def State.blockedCores (s : State) : List Nat :=
  let l := (List.range 24).filter fun c => (s.core c).blocked
  l.insertionSort fun a b => (s.core a).blockedAt ≤ (s.core b).blockedAt

/-- Waiting loads are served (R324); also when dispatch resumes (R357, R440). -/
def serveBlocked (s : State) : State :=
  s.blockedCores.foldl (fun s c => match tryDispatch c s with | some s => s | none => s) s

/-- A command enters its priority queue (R323). -/
def commandEnqueue (e : Nat) (s : State) : State :=
  match s.entry e with
  | none => s
  | some x =>
    if x.phase ≠ .admitted ∨ x.ctx.isSome ∨ s.onRecipe x ∨ s.fenceWaits x then s
    else
      let s := if x.replayWait then replayLookup e s else s
      match s.entry e with
      | none => s
      | some x =>
        if x.replayWait ∨ x.phase ≠ .admitted then s
        else
          let q := s.queueOf x
          let p := x.pitch.toNat
          serveBlocked (joinQueue q e p (s.updEntry e fun x => { x with phase := .queued, queuedAt := s.clk }))

/-- COMMAND_ENQUEUE (R130, R323). -/
def execCommandEnqueue (e : BitVec 17) (s : State) : Host.Outcome State Fault Refusal := .next (commandEnqueue e.toNat s)

/-! ## Leaving service (R327, R345) -/

/-- The private SRAM and the working set of a core are zeroed (R327). -/
def zeroCoreMemory (c : Nat) (s : State) : State :=
  let inside := fun (a base size : Nat) => decide (base ≤ a) && decide (a < base + size)
  { s with imem := s.imem.filter fun x =>
      !inside x.1 ((Config.sramBase c).toNat) 393216 && !inside x.1 ((Config.workBase c).toNat) 16777216 }

/-- LOADING: memory zeroed, the image copied, pending event bits cleared, locks released (R327, R345, R473). -/
def coreLoad (c : Nat) (fw : BitVec 16) (s : State) : State :=
  let s := releaseLocksOf (BitVec.ofNat 6 (2 + c)) (zeroCoreMemory c s)
  let s := { s with evc := { s.evc with pend := s.evc.pend.set [] c [] } }
  s.updCore c fun k => { mask := k.mask, maskNext := k.maskNext, state := .loading, fw := fw }

def channelsRest (c : Nat) (s : State) : Bool :=
  !chanRunning (s.chan (2 * c)) && !chanRunning (s.chan (2 * c + 1))

/-- Version of the image that a reload copies (R328). -/
def State.reloadFw (s : State) : BitVec 16 :=
  if s.cmc.updRunning && !s.cmc.updRollback then s.cmc.updImage else s.cmc.oldImage

/-- A drained core whose channels rest is OFF; a live update reloads it at once (R327, R328). -/
def coreTryOff (c : Nat) (s : State) : State :=
  let k := s.core c
  if k.state = .draining ∧ k.drainReturned ∧ channelsRest c s then
    let s := releaseLocksOf (BitVec.ofNat 6 (2 + c)) s
    let s := s.updCore c fun k => { mask := k.mask, maskNext := k.maskNext, state := .off, fw := k.fw }
    if s.cmc.updRunning ∧ s.cmc.updCore.toNat = c ∧ ¬ s.bst.wanted.contains (83 + c) then coreLoad c s.reloadFw s else s
  else s

/-- A drain request (R317, R327): a blocked core gets the drain word at once. -/
def requestDrain (c : Nat) (s : State) : State :=
  let k := s.core c
  if k.state = .idle ∨ k.state = .busy then
    let s := s.updCore c fun k => { k with state := .draining, drain := true }
    if k.blocked then
      coreTryOff c ((s.updCore c fun k => { k with blocked := false, drainReturned := true }).emit (.read (coreWho c) drainWord))
    else s
  else s

/-! ## Live update (R328) -/

/-- The next core that the update takes, from `n` on: not retired, not held OFF by the governor; on a rollback only those that run
the new image. -/
def State.nextUpdate (s : State) (n : Nat) : Option Nat :=
  (List.range 24).find? fun c => decide (n ≤ c) && !s.bst.retired.contains (83 + c) && s.governorKeeps c
    && (!s.cmc.updRollback || (s.core c).fw = s.cmc.updImage)

/-- One core is taken: drained where it serves, loaded where it is OFF or FAILED. -/
def updateTake (c : Nat) (s : State) : State :=
  let s := { s with cmc := { s.cmc with updCore := BitVec.ofNat 5 c } }
  match (s.core c).state with
  | .off => if s.bst.out.contains (83 + c) then s else coreLoad c s.reloadFw s
  | .failed => coreLoad c s.reloadFw s
  | _ => requestDrain c s

/-- The update goes on from core `n`, or ends with its record. -/
def updateNext (n : Nat) (s : State) : State :=
  match s.nextUpdate n with
  | some c => updateTake c s
  | none =>
    let back := s.cmc.updRollback
    let s := tally 0x0705 [if back then 1 else 0, 24] s
    { s with cmc := { s.cmc with updRunning := false, updDone := !back, updRollback := false,
                                 oldImage := if back then s.cmc.oldImage else s.cmc.updImage } }

/-- The update that takes core `c` sees it serve again. -/
def updateRejoined (c : Nat) (s : State) : State :=
  if s.cmc.updRunning ∧ s.cmc.updCore.toNat = c then updateNext (if s.cmc.updRollback then 0 else c + 1) s else s

/-- CMC_UPDATE.start (R328, R330). -/
def liveUpdateStart (who : Who) (v : Word) (s : State) : State :=
  if !isSec who || !v.getLsbD 8 || s.cmc.updRunning then s
  else updateNext 0 { s with cmc := { s.cmc with updRunning := true, updDone := false, updFailed := false, updRollback := false } }

/-- LIVE_UPDATE_START (R328). -/
def execLiveUpdateStart (who : Who) (v : Word) (s : State) : Host.Outcome State Fault Refusal := .next (liveUpdateStart who v s)

/-! ## Mis-steps (R130, R322) -/

/-- A class C command past its commit point: it completes with DONE whenever its CQE is written (R110, R132). The opcodes that take a CSN as
class D are CIPHER_ENCRYPT, AEAD_ENCRYPT, PK_SIGN and PQ_SIGN (R109). -/
def Entry.committedC (x : Entry) : Bool := x.csn.isSome && !([0x0701, 0x0703, 0x0801, 0x0903].contains x.opcode)

/-- What a command whose engine operation has ended comes to (R262). -/
def preparedDone (x : Entry) (d : Prepared) : Done :=
  { status := d.status, result := d.result, inline := d.inline, needed := d.needed, csn := x.csn, high := d.high }

/-- A command ends with HW_FAULT at a mis-step of its core: event and FW_FAULT record. Causes: 1 load while holding a command,
2 handover without an operation, 3 exception, 4 the 8 s bound, 5 status outside R131, 6 result longer than result_cap. -/
def coreFault (c e cause : Nat) (s : State) : State :=
  let p := s.pitchOf e
  let s := match s.entry e with
    | none => s
    | some x => finish e (if x.committedC then preparedDone x (x.prepared.getD {}) else { status := stHwFault, csn := x.csn }) s
  raise (272 + c) (tallyRec 0x0505 0 (BitVec.ofNat 10 (272 + c)) none ([BitVec.ofNat 8 c, BitVec.ofNat 8 cause] ++ toLE 2 p) s)

def unbind (c : Nat) (s : State) : State :=
  s.updCore c fun k => { k with entry := none, state := if k.state = .busy then .idle else k.state, hrdStatus := 0 }

/-- A mis-step that reloads the core with the same image. -/
def faultReload (c cause : Nat) (s : State) : State :=
  match (s.core c).entry with
  | none => s
  | some e =>
    let fw := (s.core c).fw
    coreLoad c fw (coreFault c e cause s)

/-- CORE_EXCEPTION (R322). -/
def execCoreException (core : BitVec 5) (s : State) : Host.Outcome State Fault Refusal :=
  if 24 ≤ core.toNat then .fault .noSuchUnit else .next (faultReload core.toNat 3 s)

/-- CORE_WATCHDOG (R130, R322). -/
def execCoreWatchdog (core : BitVec 5) (s : State) : Host.Outcome State Fault Refusal :=
  if 24 ≤ core.toNat then .fault .noSuchUnit else .next (faultReload core.toNat 4 s)

/-! ## The load (R317, R322, R327) -/

/-- A load from CMC_DISPATCH. -/
def dispatchLoad (c : Nat) (s : State) : State :=
  let k := s.core c
  if k.state = .off ∨ k.state = .failed ∨ k.blocked then s
  else
    let s := match k.entry with
      | some e => unbind c (coreFault c e 1 s)
      | none => s
    let s := s.updCore c fun k => { k with mask := k.maskNext, completed := false, boundPitch := none }
    let s := if (s.core c).state = .loading then updateRejoined c (s.updCore c fun k => { k with state := .idle }) else s
    if (s.core c).drain then
      coreTryOff c ((s.updCore c fun k => { k with drainReturned := true }).emit (.read (coreWho c) drainWord))
    else match tryDispatch c s with
      | some s => s
      | none =>
        if s.sch.timeoutUs = 0 then s.emit (.read (coreWho c) 0)
        else
          let s := { s with sch := { s.sch with loads := s.sch.loads + 1 } }
          s.updCore c fun k => { k with blocked := true, blockedAt := s.sch.loads }

/-- DISPATCH_LOAD (R317). -/
def execDispatchLoad (core : BitVec 5) (s : State) : Host.Outcome State Fault Refusal :=
  if 24 ≤ core.toNat then .fault .noSuchUnit else .next (dispatchLoad core.toNat s)

def dispatchTimeout (c : Nat) (s : State) : State :=
  if (s.core c).blocked then (s.updCore c fun k => { k with blocked := false }).emit (.read (coreWho c) 0) else s

/-- DISPATCH_TIMEOUT (R317). -/
def execDispatchTimeout (core : BitVec 5) (s : State) : Host.Outcome State Fault Refusal :=
  if 24 ≤ core.toNat then .fault .noSuchUnit else .next (dispatchTimeout core.toNat s)

/-! ## Host reads of a core (R320) -/

/-- A range lies in the core's private SRAM or working set. -/
def inCoreMemory (c a n : Nat) : Bool :=
  (decide ((Config.sramBase c).toNat ≤ a) && decide (a + n ≤ (Config.sramBase c).toNat + 393216)) ||
    (decide ((Config.workBase c).toNat ≤ a) && decide (a + n ≤ (Config.workBase c).toNat + 16777216))

def hrdGo (c : Nat) (v : Word) (s : State) : State :=
  let k := s.core c
  if !v.getLsbD 0 then s
  else match k.entry.bind s.entry with
    | none => cmcErr 4 s
    | some x =>
      let n := k.hrdLen.toNat
      if k.hrdStatus = 1 then s
      else if n = 0 ∨ 65536 < n ∨ fieldLE x.sqe 0x28 4 < k.hrdOff.toNat + n then s.updCore c fun k => { k with hrdStatus := 2 }
      else if !inCoreMemory c k.hrdDst.toNat n then s.updCore c fun k => { k with hrdStatus := 3 }
      else (s.updCore c fun k => { k with hrdStatus := 1 }).emit
        (.hostRead x.port (BitVec.ofNat 64 (fieldLE x.sqe 0x20 8 + k.hrdOff.toNat)) n)

/-- HRD_GO (R320). -/
def execHrdGo (core : BitVec 5) (v : Word) (s : State) : Host.Outcome State Fault Refusal :=
  if 24 ≤ core.toNat then .fault .noSuchUnit else .next (hrdGo core.toNat v s)

def hrdDone (c : Nat) (r : HostRead) (s : State) : State :=
  let k := s.core c
  let port := match k.entry.bind s.entry with | some x => x.port | none => .a
  if k.hrdStatus ≠ 1 then s
  else match s.hostRead port r with
    | .failed why => (aerReport port why s).updCore c fun k => { k with hrdStatus := 4 }
    | .data b =>
      let s := { s with imem := memWrites s.imem k.hrdDst.toNat (padTo k.hrdLen.toNat b) }
      s.updCore c fun k => { k with hrdStatus := 5 }

/-- HRD_DONE (R320). -/
def execHrdDone (core : BitVec 5) (r : HostRead) (s : State) : Host.Outcome State Fault Refusal :=
  if 24 ≤ core.toNat then .fault .noSuchUnit else .next (hrdDone core.toNat r s)

/-! ## Completion by a core (R130, R262, R321, R322) -/

/-- What a completion without handover carries: firmware's status unless a hardware check already decided a refusal, and DONE for a class C
command that has committed (R110); the result named by CMC_RES, else what the hardware units prepared (log entry 17). -/
def coreDone (k : Core) (x : Entry) (status : BitVec 16) (imem : List Host.Cell) : Done :=
  match x.prepared with
  | none => { status := status, csn := x.csn, inline := k.inline, result := memReads imem k.resSrc.toNat k.resLen.toNat }
  | some d =>
    let st := if x.committedC then 0 else if d.status ≠ 0 ∧ status = 0 then d.status else status
    if k.resLen ≠ 0 ∨ d.engine ≠ 0 then
      { status := st, csn := x.csn, inline := k.inline, needed := d.needed, high := d.high,
        result := memReads imem k.resSrc.toNat k.resLen.toNat }
    else { status := st, csn := x.csn, inline := d.inline, needed := d.needed, high := d.high, result := d.result }

/-- The command bound to a core ends with MEMORY_ECC after a failed read (R18); a class C command that has committed ends with DONE
(R110). -/
def eccEnd (e : Nat) (s : State) : State :=
  match s.entry e with
  | none => s
  | some x => finish e (if x.committedC then preparedDone x (x.prepared.getD {}) else { status := stMemoryEcc, csn := x.csn }) s

/-- A handed-over operation of the command waits or runs (R262). -/
def State.handoverOut (s : State) (e : Nat) : Bool :=
  s.units.reqs.any (fun r => r.entry = e && (r.handover || r.check.isSome)) || s.units.pke.any (fun u => u.2.entry = some e && u.2.handover)
    || s.units.ltc.any fun u => u.2.entry = some e && u.2.handover

/-- CMC_COMPLETE (R321); `ecc`: a line MAC fails where the result is read (R18). -/
def commandComplete (c : Nat) (v : Word) (ecc : Bool) (s : State) : State :=
  let k := s.core c
  match k.entry with
  | none => cmcErr (if k.completed then 5 else 4) s
  | some e =>
    match s.entry e with
    | none => s
    | some x =>
      let free := fun s : State => unbind c (s.updCore c fun k => { k with completed := true })
      let status := v.extractLsb' 0 16
      if v.getLsbD 31 then
        if k.handed then
          let s := free (s.updEntry e fun x => { x with phase := .handed })
          match x.prepared with
          | some d => if s.handoverOut e then s else finish e (preparedDone x d) s
          | none => s
        else free (coreFault c e 2 s)
      else if !statusCodes.contains status.toNat then free (coreFault c e 5 s)
      else if fieldLE x.sqe 0x2C 4 < k.resLen.toNat then free (coreFault c e 6 s)
      else match (if k.resLen = 0 then none else s.readFault ecc k.resSrc.toNat) with
        | some l => free (eccEnd e (memoryFault l s))
        | none => free (finish e (coreDone k x status s.imem) s)

/-- COMMAND_COMPLETE (R321). -/
def execCommandComplete (core : BitVec 5) (v : Word) (s : State) (ecc : Bool := false) : Host.Outcome State Fault Refusal :=
  if 24 ≤ core.toNat then .fault .noSuchUnit else .next (commandComplete core.toNat v ecc s)

/-! ## Draining, reloading, masks (R316, R327, R330) -/

/-- A write of the CMC block by the security controller for the selected core (R330). -/
def cmcGuard (who : Who) (f : Nat → State → State) (s : State) : State :=
  let c := (s.selOf who).cmcCore.toNat
  if isSec who ∧ c < 24 then f c s else s

/-- CORE_DRAIN (R327, R330): CMC_CORE_CTRL.drain. -/
def execCoreDrain (who : Who) (v : Word) (s : State) : Host.Outcome State Fault Refusal :=
  .next (cmcGuard who (fun c s => if v.getLsbD 0 then requestDrain c s else s) s)

/-- CORE_RELOAD (R327, R330): CMC_CORE_CTRL.reload of an OFF or FAILED core. -/
def coreReload (who : Who) (v : Word) (s : State) : State :=
  cmcGuard who (fun c s =>
    if v.getLsbD 1 ∧ ((s.core c).state = .off ∨ (s.core c).state = .failed) ∧ ¬ s.bst.out.contains (83 + c)
      ∧ ¬ s.bst.retired.contains (83 + c) then coreLoad c s.reloadFw s else s) s

def execCoreReload (who : Who) (v : Word) (s : State) : Host.Outcome State Fault Refusal := .next (coreReload who v s)

/-- 100 ms in LOADING: FAILED, with event and record; a live update rolls back (R327, R328). -/
def coreLoadTimeout (c : Nat) (s : State) : State :=
  let k := s.core c
  if k.state ≠ .loading then s
  else
    let s := s.updCore c fun k => { k with state := .failed }
    let s := raise (272 + c) (tallyRec 0x0706 0 (BitVec.ofNat 10 (272 + c)) none ([BitVec.ofNat 8 c] ++ toLE 2 k.fw.toNat) s)
    if s.cmc.updRunning ∧ s.cmc.updCore.toNat = c ∧ ¬ s.cmc.updRollback then
      let s := { s with cmc := { s.cmc with updFailed := true, updRollback := true } }
      updateTake c s
    else if s.cmc.updRunning ∧ s.cmc.updCore.toNat = c then updateNext (c + 1) s
    else s

/-- CORE_LOAD_TIMEOUT (R327). -/
def execCoreLoadTimeout (core : BitVec 5) (s : State) : Host.Outcome State Fault Refusal :=
  if 24 ≤ core.toNat then .fault .noSuchUnit else .next (coreLoadTimeout core.toNat s)

/-- 10 ms after the drain word, channels still running are aborted, and the core is OFF (R327, R338). -/
def drainDmaTimeout (c : Nat) (s : State) : State :=
  let k := s.core c
  if k.state = .draining ∧ k.drainReturned then
    let s := descriptorEnd (2 * c) (chanAbort (2 * c) s)
    coreTryOff c (descriptorEnd (2 * c + 1) (chanAbort (2 * c + 1) s))
  else s

/-- CORE_DRAIN_DMA_TIMEOUT (R327). -/
def execCoreDrainDmaTimeout (core : BitVec 5) (s : State) : Host.Outcome State Fault Refusal :=
  if 24 ≤ core.toNat then .fault .noSuchUnit else .next (drainDmaTimeout core.toNat s)

/-- The core counts as in service for R316. -/
def coreServes (k : Core) : Bool := k.state = .idle || k.state = .busy || k.state = .loading

/-- Every personality keeps a core whose mask includes it. -/
def State.masksOk (s : State) (c : Nat) (m : BitVec 4) : Bool :=
  (List.range 4).all fun p => (List.range 24).any fun i =>
    coreServes (s.core i) && (if i = c then m.getLsbD p else (s.core i).maskNext.getLsbD p)

/-- PERS_MASK_WRITE (R316): CMC_CORE_CFG. -/
def persMaskWrite (who : Who) (v : Word) (s : State) : State :=
  cmcGuard who (fun c s =>
    let m := v.extractLsb' 0 4
    if s.masksOk c m then s.updCore c fun k => { k with maskNext := m } else cmcErr 3 s) s

def execPersMaskWrite (who : Who) (v : Word) (s : State) : Host.Outcome State Fault Refusal := .next (persMaskWrite who v s)

/-- HIST_CLEAR (R326): SCH_HIST_CLR. -/
def execHistClear (who : Who) (v : Word) (s : State) : Host.Outcome State Fault Refusal :=
  .next (if isSec who ∧ v.getLsbD 0 then { s with sch := { s.sch with hist := [] } } else s)

/-! ## Recipe sets (R135 to R138, R142) -/

/-- The hardware set checker (R136) with the limits of R138 and the digest of the body (R135). -/
def recipeOk (r : Recipe) : Bool :=
  !r.writesSecret && !r.branchesOnSecret && !r.backwardBranch && !r.badLoop && decide (r.steps ≤ 1024)
    && (persClasses r.personality).contains (r.opcode.toNat / 256)
    && decide (r.budget ≤ 2 ^ 22) && decide (r.nesting ≤ 2) && decide (1 ≤ r.loopCount) && decide (r.loopCount ≤ 2 ^ 20)

def noTwice : List Recipe → Bool
  | [] => true
  | r :: l => !l.any (fun x => x.opcode = r.opcode && x.personality = r.personality) && noTwice l

/-- The verification of a set (R135): both signatures, the chain of the signing certificate, the digest of every body. -/
def setVerified (x : RecipeSet) : Bool :=
  x.sigMldsaOk && x.sigP384Ok && x.chainOk && x.recipes.all fun r => r.digest = sha384 r.body

/-- The set checker's verdict and the limits of a set (R136, R138). -/
def setOk (x : RecipeSet) : Bool :=
  setVerified x && x.recipes.all recipeOk && noTwice x.recipes && decide (x.recipes.length ≤ 256)
    && decide ((x.recipes.map (·.steps)).sum ≤ 16384)

/-- A command whose recipe is not in the set that is active now waits for no context any more: it takes route C (R141, R142). -/
def leaveContexts (s : State) : State :=
  s.sch.entries.foldl (fun s e => match e.2 with
    | some x => if x.phase = .admitted ∧ x.ctx = none ∧ ¬ s.onRecipe x then takeFrom (ctxQueue x) e.1 s else s
    | none => s) s

/-- RECIPE_SET_SWITCH (R137, R142): the set that the accepted image delivers, verified and checked, becomes active at one point; a set of
no accepted image is none of the device's. -/
def recipeSetSwitch (x : RecipeSet) (s : State) : State :=
  if s.switching ∨ ¬ setOk x ∨ x.version.toNat < s.glb.minRecipe.toNat ∨ s.glb.recipes ≠ some x then s
  else
    let b : Bank := { recipes := x.recipes, version := x.version }
    serveContexts (leaveContexts
      { s with cmc := if s.cmc.activeBank then { s.cmc with bank0 := b, activeBank := false }
                      else { s.cmc with bank1 := b, activeBank := true } })

def execRecipeSetSwitch (set : RecipeSet) (s : State) : Host.Outcome State Fault Refusal := .next (recipeSetSwitch set s)

end Sys2Proof.Machine
end

