-- ==== Sys2Proof/Machine/MlKem.lean ====
section
/-! DEFINITION. ML-KEM (FIPS 203), which R265 and R282 name: PRESUMED, from the standard (log entry 4). Polynomials are lists of 256
coefficients; the transform of the standard is written as evaluation, which is what its butterflies compute. -/

namespace Sys2Proof.Machine

/-! ## Polynomials -/

abbrev Poly := List Nat

/-- The value of a polynomial at x. -/
def Poly.eval (q x : Nat) (f : Poly) : Nat := f.foldr (fun c a => (c + x * a) % q) 0

def Poly.add (q : Nat) (f g : Poly) : Poly := List.zipWith (fun a b => (a + b) % q) f g
def Poly.sub (q : Nat) (f g : Poly) : Poly := List.zipWith (fun a b => (a + (q - b % q)) % q) f g

/-- The coefficients at even and at odd places. -/
def evens : List Nat → List Nat
  | a :: _ :: l => a :: evens l
  | [a] => [a]
  | [] => []

def odds : List Nat → List Nat
  | _ :: b :: l => b :: odds l
  | _ => []

def interleave : List Nat → List Nat → List Nat
  | a :: l, b :: m => a :: b :: interleave l m
  | _, _ => []

/-- x to the power n modulo q. -/
def powQ (q x : Nat) : Nat → Nat
  | 0 => 1 % q
  | n + 1 => powQ q x n * x % q

/-- The `n` low bits of a number in reverse. -/
def bitRev : Nat → Nat → Nat
  | 0, _ => 0
  | n + 1, v => v % 2 * 2 ^ n + bitRev n (v / 2)

/-- The bits of a byte string, least significant bit of each byte first. -/
def bytesBits (b : Bytes) : List Bool := b.flatMap fun x => (List.range 8).map fun i => x.toNat.testBit i

def bitsNat : List Bool → Nat
  | [] => 0
  | b :: l => b.toNat + 2 * bitsNat l

def natBits (d v : Nat) : List Bool := (List.range d).map v.testBit

def chunksOf {α : Type} (n : Nat) : Nat → List α → List (List α)
  | 0, _ => []
  | f + 1, l => if l.isEmpty then [] else l.take n :: chunksOf n f (l.drop n)

def bitsBytes (l : List Bool) : Bytes := (chunksOf 8 l.length l).map fun c => BitVec.ofNat 8 (bitsNat c)

/-- ByteEncode and ByteDecode of `d` bits a coefficient. -/
def encodeBits (d : Nat) (f : Poly) : Bytes := bitsBytes (f.flatMap (natBits d))
def decodeBits (d : Nat) (b : Bytes) : Poly := (chunksOf d (8 * b.length) (bytesBits b)).map bitsNat

/-! ## Parameters -/

structure KemSet where
  k : Nat
  eta1 : Nat
  du : Nat
  dv : Nat

def kemSet (set : Nat) : KemSet := if set = 1 then ⟨2, 3, 10, 4⟩ else if set = 2 then ⟨3, 2, 10, 4⟩ else ⟨4, 2, 11, 5⟩

def kq : Nat := 3329

/-! ## The transform -/

/-- ζ^(2 BitRev7(i) + 1) for i below 128. -/
def kemGammas : List Nat := (List.range 128).map fun i => powQ kq 17 (2 * bitRev 7 i + 1)

def kemNtt (f : Poly) : Poly := kemGammas.flatMap fun g => [Poly.eval kq g (evens f), Poly.eval kq g (odds f)]

def kemInv (f : Poly) : Poly :=
  let one := fun (v : List Nat) => (List.range 128).map fun j =>
    3303 * ((List.zipWith (fun g a => a * powQ kq g (256 - j) % kq) kemGammas v).sum) % kq
  interleave (one (evens f)) (one (odds f))

/-- The product in the transform domain: pairs modulo X² − γ. -/
def kemMul (f g : Poly) : Poly :=
  (List.zip kemGammas (List.zip (List.zip (evens f) (odds f)) (List.zip (evens g) (odds g)))).flatMap fun (z, (a0, a1), (b0, b1)) =>
    [(a0 * b0 + a1 * b1 % kq * z) % kq, (a0 * b1 + a1 * b0) % kq]

def zeroPoly : Poly := List.replicate 256 0

/-- The inner product of two vectors in the transform domain. -/
def kemDot (u v : List Poly) : Poly := (List.zipWith kemMul u v).foldl (Poly.add kq) zeroPoly

/-! ## Sampling -/

/-- Numbers below q from a byte stream, three bytes giving two candidates. -/
def kemReject : Bytes → List Nat
  | a :: b :: c :: l =>
    let d1 := a.toNat + 256 * (b.toNat % 16)
    let d2 := b.toNat / 16 + 16 * c.toNat
    (if d1 < kq then [d1] else []) ++ (if d2 < kq then [d2] else []) ++ kemReject l
  | _ => []

/-- SampleNTT. The stream taken is longer than the standard's bound on its iterations. -/
def sampleNtt (seed : Bytes) : Poly := ((kemReject (Sha3.shake128 seed 1344)) ++ zeroPoly).take 256

/-- SamplePolyCBD. -/
def samplePoly (eta : Nat) (b : Bytes) : Poly :=
  (chunksOf (2 * eta) 256 (bytesBits b)).map fun c =>
    ((c.take eta).count true + (kq - (c.drop eta).count true)) % kq

def kemPrf (eta : Nat) (s : Bytes) (n : Nat) : Poly := samplePoly eta (Sha3.shake256 (s ++ [BitVec.ofNat 8 n]) (64 * eta))

def compress (d x : Nat) : Nat := (x * 2 ^ (d + 1) + kq) / (2 * kq) % 2 ^ d
def decompress (d y : Nat) : Nat := (2 * y * kq + 2 ^ d) / 2 ^ (d + 1)

/-- Row i of the matrix, or of its transpose. -/
def kemRow (k : Nat) (rho : Bytes) (transpose : Bool) (i : Nat) : List Poly :=
  (List.range k).map fun j =>
    sampleNtt (rho ++ if transpose then [BitVec.ofNat 8 i, BitVec.ofNat 8 j] else [BitVec.ofNat 8 j, BitVec.ofNat 8 i])

/-! ## K-PKE -/

/-- Encryption and decryption key of K-PKE from a seed. -/
def pkeKeys (set : Nat) (d : Bytes) : Bytes × Bytes :=
  let m := kemSet set
  let g := Sha3.sha3_512 (d ++ [BitVec.ofNat 8 m.k])
  let rho := g.take 32
  let sigma := g.drop 32
  let s := (List.range m.k).map fun i => kemNtt (kemPrf m.eta1 sigma i)
  let e := (List.range m.k).map fun i => kemNtt (kemPrf m.eta1 sigma (m.k + i))
  let t := (List.range m.k).map fun i => Poly.add kq (kemDot (kemRow m.k rho false i) s) (e.getD i zeroPoly)
  ((t.map (encodeBits 12)).flatten ++ rho, (s.map (encodeBits 12)).flatten)

def kemVector (k : Nat) (b : Bytes) : List Poly := (List.range k).map fun i => decodeBits 12 (slice b (384 * i) 384)

def pkeEncrypt (set : Nat) (ek msg rand : Bytes) : Bytes :=
  let m := kemSet set
  let t := kemVector m.k ek
  let rho := ek.drop (384 * m.k)
  let y := (List.range m.k).map fun i => kemNtt (kemPrf m.eta1 rand i)
  let e1 := fun i => kemPrf 2 rand (m.k + i)
  let u := (List.range m.k).map fun i => Poly.add kq (kemInv (kemDot (kemRow m.k rho true i) y)) (e1 i)
  let mu := (bytesBits msg).map fun b => decompress 1 b.toNat
  let v := Poly.add kq (Poly.add kq (kemInv (kemDot t y)) (kemPrf 2 rand (2 * m.k))) mu
  (u.map fun p => encodeBits m.du (p.map (compress m.du))).flatten ++ encodeBits m.dv (v.map (compress m.dv))

def pkeDecrypt (set : Nat) (dk c : Bytes) : Bytes :=
  let m := kemSet set
  let u := (List.range m.k).map fun i => (decodeBits m.du (slice c (32 * m.du * i) (32 * m.du))).map (decompress m.du)
  let v := (decodeBits m.dv (c.drop (32 * m.du * m.k))).map (decompress m.dv)
  let w := Poly.sub kq v (kemInv (kemDot (kemVector m.k dk) (u.map kemNtt)))
  encodeBits 1 (w.map (compress 1))

/-! ## ML-KEM -/

/-- The encapsulation key of the stored seeds d and z (R151, R282). -/
def kemPublic (set : Nat) (seed : Bytes) : Bytes := (pkeKeys set (seed.take 32)).1

/-- Encapsulation with m: ciphertext and shared key. -/
def kemEncaps (set : Nat) (ek m : Bytes) : Bytes × Bytes :=
  let g := Sha3.sha3_512 (m ++ Sha3.sha3_256 ek)
  (pkeEncrypt set ek m (g.drop 32), g.take 32)

/-- Decapsulation from the stored seeds, with implicit rejection: J(z ‖ c) where the re-encryption differs (R282, R283). -/
def kemDecaps (set : Nat) (seed c : Bytes) : Bytes :=
  let (ek, dk) := pkeKeys set (seed.take 32)
  let m := pkeDecrypt set dk c
  let g := Sha3.sha3_512 (m ++ Sha3.sha3_256 ek)
  if pkeEncrypt set ek m (g.drop 32) = c then g.take 32 else Sha3.shake256 (seed.drop 32 ++ c) 32

end Sys2Proof.Machine
end

