-- ==== Sys2Proof/Machine/Ecc.lean ====
section
/-! DEFINITION. The elliptic curves of R265: the groups of ECDSA and ECDH (FIPS 186-5, RFC 5639, SP 800-56A) and EdDSA (RFC 8032). Constants
and formulas are those of the standards that the spec names: PRESUMED (log entry 4). -/

namespace Sys2Proof.Machine

/-! ## Residues -/

def bitLen (v : Nat) : Nat := if v = 0 then 0 else Nat.log2 v + 1

/-- The bits of a number, most significant first. -/
def bitsOf (v : Nat) : List Bool := ((List.range (bitLen v)).map v.testBit).reverse

def powMod (b e m : Nat) : Nat := (bitsOf e).foldl (fun a i => let q := a * a % m; if i then q * b % m else q) (1 % m)

/-- The inverse modulo a prime. -/
def invMod (a p : Nat) : Nat := powMod a (p - 2) p

def subMod (a b m : Nat) : Nat := (a % m + (m - b % m)) % m

/-! ## Short Weierstrass curves, y² = x³ + a x + b -/

structure Curve where
  p : Nat
  a : Nat
  b : Nat
  gx : Nat
  gy : Nat
  n : Nat

def p256 : Curve where
  p := 0xFFFFFFFF00000001000000000000000000000000FFFFFFFFFFFFFFFFFFFFFFFF
  a := 0xFFFFFFFF00000001000000000000000000000000FFFFFFFFFFFFFFFFFFFFFFFC
  b := 0x5AC635D8AA3A93E7B3EBBD55769886BC651D06B0CC53B0F63BCE3C3E27D2604B
  gx := 0x6B17D1F2E12C4247F8BCE6E563A440F277037D812DEB33A0F4A13945D898C296
  gy := 0x4FE342E2FE1A7F9B8EE7EB4A7C0F9E162BCE33576B315ECECBB6406837BF51F5
  n := 0xFFFFFFFF00000000FFFFFFFFFFFFFFFFBCE6FAADA7179E84F3B9CAC2FC632551

def p384 : Curve where
  p := 0xFFFFFFFFFFFFFFFFFFFFFFFFFFFFFFFFFFFFFFFFFFFFFFFFFFFFFFFFFFFFFFFEFFFFFFFF0000000000000000FFFFFFFF
  a := 0xFFFFFFFFFFFFFFFFFFFFFFFFFFFFFFFFFFFFFFFFFFFFFFFFFFFFFFFFFFFFFFFEFFFFFFFF0000000000000000FFFFFFFC
  b := 0xB3312FA7E23EE7E4988E056BE3F82D19181D9C6EFE8141120314088F5013875AC656398D8A2ED19D2A85C8EDD3EC2AEF
  gx := 0xAA87CA22BE8B05378EB1C71EF320AD746E1D3B628BA79B9859F741E082542A385502F25DBF55296C3A545E3872760AB7
  gy := 0x3617DE4A96262C6F5D9E98BF9292DC29F8F41DBD289A147CE9DA3113B5F0B8C00A60B1CE1D7E819D7A431D7C90EA0E5F
  n := 0xFFFFFFFFFFFFFFFFFFFFFFFFFFFFFFFFFFFFFFFFFFFFFFFFC7634D81F4372DDF581A0DB248B0A77AECEC196ACCC52973

def p521 : Curve where
  p := 2 ^ 521 - 1
  a := 2 ^ 521 - 4
  b := 0x0051953EB9618E1C9A1F929A21A0B68540EEA2DA725B99B315F3B8B489918EF109E156193951EC7E937B1652C0BD3BB1BF073573DF883D2C34F1EF451FD46B503F00
  gx := 0x00C6858E06B70404E9CD9E3ECB662395B4429C648139053FB521F828AF606B4D3DBAA14B5E77EFE75928FE1DC127A2FFA8DE3348B3C1856A429BF97E7E31C2E5BD66
  gy := 0x011839296A789A3BC0045C8A5FB42C7D1BD998F54449579B446817AFBD17273E662C97EE72995EF42640C550B9013FAD0761353C7086A272C24088BE94769FD16650
  n := 0x01FFFFFFFFFFFFFFFFFFFFFFFFFFFFFFFFFFFFFFFFFFFFFFFFFFFFFFFFFFFFFFFFFA51868783BF2F966B7FCC0148F709A5D03BB5C9B8899C47AEBB6FB71E91386409

def bp256 : Curve where
  p := 0xA9FB57DBA1EEA9BC3E660A909D838D726E3BF623D52620282013481D1F6E5377
  a := 0x7D5A0975FC2C3057EEF67530417AFFE7FB8055C126DC5C6CE94A4B44F330B5D9
  b := 0x26DC5C6CE94A4B44F330B5D9BBD77CBF958416295CF7E1CE6BCCDC18FF8C07B6
  gx := 0x8BD2AEB9CB7E57CB2C4B482FFC81B7AFB9DE27E1E3BD23C23A4453BD9ACE3262
  gy := 0x547EF835C3DAC4FD97F8461A14611DC9C27745132DED8E545C1D54C72F046997
  n := 0xA9FB57DBA1EEA9BC3E660A909D838D718C397AA3B561A6F7901E0E82974856A7

def bp384 : Curve where
  p := 0x8CB91E82A3386D280F5D6F7E50E641DF152F7109ED5456B412B1DA197FB71123ACD3A729901D1A71874700133107EC53
  a := 0x7BC382C63D8C150C3C72080ACE05AFA0C2BEA28E4FB22787139165EFBA91F90F8AA5814A503AD4EB04A8C7DD22CE2826
  b := 0x04A8C7DD22CE28268B39B55416F0447C2FB77DE107DCD2A62E880EA53EEB62D57CB4390295DBC9943AB78696FA504C11
  gx := 0x1D1C64F068CF45FFA2A63A81B7C13F6B8847A3E77EF14FE3DB7FCAFE0CBD10E8E826E03436D646AAEF87B2E247D4AF1E
  gy := 0x8ABE1D7520F9C2A45CB1EB8E95CFD55262B70B29FEEC5864E19C054FF99129280E4646217791811142820341263C5315
  n := 0x8CB91E82A3386D280F5D6F7E50E641DF152F7109ED5456B31F166E6CAC0425A7CF3AB6AF6B7FC3103B883202E9046565

def bp512 : Curve where
  p := 0xAADD9DB8DBE9C48B3FD4E6AE33C9FC07CB308DB3B3C9D20ED6639CCA703308717D4D9B009BC66842AECDA12AE6A380E62881FF2F2D82C68528AA6056583A48F3
  a := 0x7830A3318B603B89E2327145AC234CC594CBDD8D3DF91610A83441CAEA9863BC2DED5D5AA8253AA10A2EF1C98B9AC8B57F1117A72BF2C7B9E7C1AC4D77FC94CA
  b := 0x3DF91610A83441CAEA9863BC2DED5D5AA8253AA10A2EF1C98B9AC8B57F1117A72BF2C7B9E7C1AC4D77FC94CADC083E67984050B75EBAE5DD2809BD638016F723
  gx := 0x81AEE4BDD82ED9645A21322E9C4C6A9385ED9F70B5D916C1B43B62EEF4D0098EFF3B1F78E2D0D48D50D1687B93B97D5F7C6D5047406A5E688B352209BCB9F822
  gy := 0x7DDE385D566332ECC0EABFA9CF7822FDF209F70024A57B1AA000C55B881F8111B2DCDE494A5F485E5BCA4BD88A2763AED1CA2B2FA8F0540678CD1E0F3AD80892
  n := 0xAADD9DB8DBE9C48B3FD4E6AE33C9FC07CB308DB3B3C9D20ED6639CCA70330870553E5C414CA92619418661197FAC10471DB1D381085DDADDB58796829CA90069

/-- The curve of an algorithm code 0x01 to 0x06 (R116). -/
def curve (alg : Nat) : Curve :=
  match alg with
  | 1 => p256
  | 2 => p384
  | 3 => p521
  | 4 => bp256
  | 5 => bp384
  | _ => bp512

/-- A point; none is the point at infinity. -/
abbrev EcPoint := Option (Nat × Nat)

def Curve.holds (c : Curve) (x y : Nat) : Bool :=
  decide (x < c.p) && decide (y < c.p) && y * y % c.p = (x * x * x + c.a * x + c.b) % c.p

def Curve.add (c : Curve) (p q : EcPoint) : EcPoint :=
  match p, q with
  | none, q => q
  | p, none => p
  | some (x1, y1), some (x2, y2) =>
    if x1 = x2 ∧ (y1 + y2) % c.p = 0 then none
    else
      let l := if x1 = x2 then (3 * x1 * x1 + c.a) * invMod (2 * y1 % c.p) c.p % c.p
               else subMod y2 y1 c.p * invMod (subMod x2 x1 c.p) c.p % c.p
      let x := subMod (l * l) (x1 + x2) c.p
      some (x, subMod (l * subMod x1 x c.p) y1 c.p)

def Curve.mul (c : Curve) (k : Nat) (p : EcPoint) : EcPoint :=
  (bitsOf k).foldl (fun a b => let d := c.add a a; if b then c.add d p else d) none

def Curve.base (c : Curve) : EcPoint := some (c.gx, c.gy)

/-- Bytes of a coordinate or scalar. -/
def Curve.len (c : Curve) : Nat := (bitLen c.p + 7) / 8

/-- The uncompressed encoding of a point. -/
def Curve.encode (c : Curve) (p : EcPoint) : Bytes :=
  match p with
  | none => [0]
  | some (x, y) => 4 :: (toBE c.len x ++ toBE c.len y)

/-- A point read from its uncompressed encoding, on the curve. -/
def Curve.decode (c : Curve) (b : Bytes) : EcPoint :=
  let x := beNat (slice b 1 c.len)
  let y := beNat (slice b (1 + c.len) c.len)
  if byteAt b 0 = 4 ∧ b.length = 2 * c.len + 1 ∧ c.holds x y then some (x, y) else none

/-- A scalar from bitlen(n) + 64 random bits (R277; FIPS 186-5 A.2.1, A.3.1). -/
def Curve.scalarLen (c : Curve) : Nat := (bitLen c.n + 64 + 7) / 8
def Curve.scalar (c : Curve) (rand : Bytes) : Nat := beNat rand % 2 ^ (bitLen c.n + 64) % (c.n - 1) + 1

/-! ## ECDSA and ECDH -/

/-- A digest as a number: cut to its leftmost bitlen(n) bits (R266). -/
def Curve.digest (c : Curve) (h : Bytes) : Nat := beNat h / 2 ^ (8 * h.length - bitLen c.n)

/-- A signature under the nonce k; none where r or s is 0. -/
def Curve.signWith (c : Curve) (d : Nat) (h : Bytes) (k : Nat) : Option Bytes :=
  match c.mul k c.base with
  | none => none
  | some (x, _) =>
    let r := x % c.n
    let s := invMod k c.n * (c.digest h + r * d) % c.n
    if r = 0 ∨ s = 0 then none else some (toBE c.len r ++ toBE c.len s)

/-- A signature under the nonce that random bytes give. -/
def Curve.sign (c : Curve) (d : Nat) (h rand : Bytes) : Option Bytes := c.signWith d h (c.scalar rand)

/-- The verification equation for r and s in range. -/
def Curve.verify (c : Curve) (pub : EcPoint) (h sig : Bytes) : Bool :=
  let r := beNat (sig.take c.len)
  let s := beNat (sig.drop c.len)
  let w := invMod s c.n
  match c.add (c.mul (c.digest h * w % c.n) c.base) (c.mul (r * w % c.n) pub) with
  | none => false
  | some (x, _) => decide (0 < r) && decide (r < c.n) && decide (0 < s) && decide (s < c.n) && x % c.n = r

/-- The check of R274: t = (e + r·d)·s⁻¹, and x(t·G) against r. -/
def Curve.signCheck (c : Curve) (d : Nat) (h sig : Bytes) : Bool :=
  let r := beNat (sig.take c.len)
  let s := beNat (sig.drop c.len)
  match c.mul ((c.digest h + r * d) * invMod s c.n % c.n) c.base with
  | none => false
  | some (x, _) => x % c.n = r % c.n

/-- Z: the x coordinate of the Diffie-Hellman point, of the byte length of p (R265). -/
def Curve.dh (c : Curve) (d : Nat) (pub : Bytes) : Bytes :=
  match c.mul d (c.decode pub) with
  | none => zeros c.len
  | some (x, _) => toBE c.len x

/-! ## EdDSA (RFC 8032) -/

/-- An Edwards curve a x² + y² = 1 + d x² y²: bytes of an encoding, cofactor bits, the bit that a secret scalar sets. -/
structure EdCurve where
  p : Nat
  a : Nat
  d : Nat
  gx : Nat
  gy : Nat
  l : Nat
  len : Nat
  cof : Nat
  top : Nat

def ed25519 : EdCurve where
  p := 2 ^ 255 - 19
  a := 2 ^ 255 - 20
  d := 0x52036CEE2B6FFE738CC740797779E89800700A4D4141D8AB75EB4DCA135978A3
  gx := 0x216936D3CD6E53FEC0A4E231FDD6DC5C692CC7609525A7B2C9562D608F25D51A
  gy := 0x6666666666666666666666666666666666666666666666666666666666666658
  l := 2 ^ 252 + 27742317777372353535851937790883648493
  len := 32
  cof := 3
  top := 254

def ed448 : EdCurve where
  p := 2 ^ 448 - 2 ^ 224 - 1
  a := 1
  d := 2 ^ 448 - 2 ^ 224 - 1 - 39081
  gx := 224580040295924300187604334099896036246789641632564134246125461686950415467406032909029192869357953282578032075146446173674602635247710
  gy := 298819210078481492676017930443930673437544040154080242095928241372331506189835876003536878655418784733982303233503462500531545062832660
  l := 2 ^ 446 - 13818066809895115352007386748515426880336692474882178609894547503885
  len := 57
  cof := 2
  top := 447

def edCurve (alg : Nat) : EdCurve := if alg = 0x10 then ed25519 else ed448

def EdCurve.add (c : EdCurve) (p q : Nat × Nat) : Nat × Nat :=
  let m := c.d * p.1 % c.p * q.1 % c.p * p.2 % c.p * q.2 % c.p
  let x := (p.1 * q.2 + p.2 * q.1) * invMod ((1 + m) % c.p) c.p % c.p
  let y := subMod (p.2 * q.2) (c.a * p.1 * q.1) c.p * invMod (subMod 1 m c.p) c.p % c.p
  (x, y)

def EdCurve.mul (c : EdCurve) (k : Nat) (p : Nat × Nat) : Nat × Nat :=
  (bitsOf k).foldl (fun a b => let d := c.add a a; if b then c.add d p else d) (0, 1)

def EdCurve.base (c : EdCurve) : Nat × Nat := (c.gx, c.gy)

def EdCurve.encode (c : EdCurve) (p : Nat × Nat) : Bytes := toLE c.len (p.2 + p.1 % 2 * 2 ^ (8 * c.len - 1))

/-- A square root modulo p, where there is one. -/
def EdCurve.sqrt (c : EdCurve) (v : Nat) : Option Nat :=
  let r := if c.p % 4 = 3 then powMod v ((c.p + 1) / 4) c.p
           else
             let r := powMod v ((c.p + 3) / 8) c.p
             if r * r % c.p = v % c.p then r else r * powMod 2 ((c.p - 1) / 4) c.p % c.p
  if r * r % c.p = v % c.p then some r else none

/-- A point read from its encoding. -/
def EdCurve.decode (c : EdCurve) (b : Bytes) : Option (Nat × Nat) :=
  let v := leNat b
  let y := v % 2 ^ (8 * c.len - 1)
  let sign := v / 2 ^ (8 * c.len - 1) % 2
  if b.length ≠ c.len ∨ c.p ≤ y then none
  else match c.sqrt (subMod (y * y) 1 c.p * invMod (subMod (c.d * y * y) c.a c.p) c.p) with
    | none => none
    | some x =>
      if x = 0 ∧ sign = 1 then none
      else some (if x % 2 = sign then x else c.p - x, y)

/-- The hash of the curve, behind its domain prefix. -/
def edHash (alg : Nat) (ctx m : Bytes) : Bytes :=
  if alg = 0x10 then
    Sha2.sha512 ((if ctx = [] then [] else ascii "SigEd25519 no Ed25519 collisions" ++ [0, BitVec.ofNat 8 ctx.length] ++ ctx) ++ m)
  else Sha3.shake256 (ascii "SigEd448" ++ [0, BitVec.ofNat 8 ctx.length] ++ ctx ++ m) 114

/-- The secret scalar and the prefix of a seed. -/
def edExpand (alg : Nat) (seed : Bytes) : Nat × Bytes :=
  let c := edCurve alg
  let h := if alg = 0x10 then Sha2.sha512 seed else Sha3.shake256 seed 114
  (leNat (h.take c.len) % 2 ^ c.top / 2 ^ c.cof * 2 ^ c.cof + 2 ^ c.top, h.drop c.len)

def edPublic (alg : Nat) (seed : Bytes) : Bytes := (edCurve alg).encode ((edCurve alg).mul (edExpand alg seed).1 (edCurve alg).base)

def edSign (alg : Nat) (ctx seed m : Bytes) : Bytes :=
  let c := edCurve alg
  let (s, pre) := edExpand alg seed
  let r := leNat (edHash alg ctx (pre ++ m)) % c.l
  let rb := c.encode (c.mul r c.base)
  let k := leNat (edHash alg ctx (rb ++ edPublic alg seed ++ m)) % c.l
  rb ++ toLE c.len ((r + k * s) % c.l)

/-- The verification equation, both sides times the cofactor. -/
def edVerify (alg : Nat) (ctx pub m sig : Bytes) : Bool :=
  let c := edCurve alg
  let s := leNat (sig.drop c.len)
  match c.decode pub, c.decode (sig.take c.len) with
  | some a, some r =>
    let k := leNat (edHash alg ctx (sig.take c.len ++ pub ++ m)) % c.l
    sig.length = 2 * c.len && decide (s < c.l)
      && c.mul (2 ^ c.cof * s) c.base = c.mul (2 ^ c.cof) (c.add r (c.mul k a))
  | _, _ => false

/-- The check of R274: [S]B = R + [k]A, with A computed again from the seed. -/
def edSignCheck (alg : Nat) (ctx seed m sig : Bytes) : Bool :=
  let c := edCurve alg
  let pub := edPublic alg seed
  match c.decode (sig.take c.len) with
  | none => false
  | some r =>
    let k := leNat (edHash alg ctx (sig.take c.len ++ pub ++ m)) % c.l
    c.mul (leNat (sig.drop c.len)) c.base = c.add r (c.mul (k * (edExpand alg seed).1) c.base)

/-- An EdDSA public key (R271): it decodes, and [L]A is the identity. -/
def edPublicOk (alg : Nat) (pub : Bytes) : Bool :=
  match (edCurve alg).decode pub with
  | none => false
  | some a => (edCurve alg).mul (edCurve alg).l a = (0, 1)

end Sys2Proof.Machine
end

