-- ==== Sys2Proof/Machine/Rsa.lean ====
section
/-! DEFINITION. RSA (R265): PKCS#1 v1.5 and PSS signatures (FIPS 186-5), OAEP (SP 800-56B), key generation (R277, FIPS 186-5 A.1.3).
Formats are those of the standards that the spec names: PRESUMED (log entry 4). -/

namespace Sys2Proof.Machine

/-! ## Keys in stored form (R151) -/

/-- Extended Euclid: s with s·a = gcd modulo m. `fuel` bounds the divisions. -/
def euclid : Nat → Int → Int → Int → Int → Int
  | 0, _, _, s, _ => s
  | f + 1, a, b, s, t => if b = 0 then s else euclid f b (a % b) t (s - a / b * t)

/-- The inverse modulo any m, for a prime to it. -/
def invAny (a m : Nat) : Nat := (euclid (3 * bitLen m + 8) (a % m : Nat) (m : Nat) 1 0 % (m : Int)).toNat

structure RsaPrivate where
  p : Nat
  q : Nat
  dp : Nat
  dq : Nat
  qinv : Nat
  e : Nat

/-- A private key of `bits`: with its CRT values to 6,144 bits, else they are expanded (R151). -/
def rsaPrivate (bits : Nat) (k : Bytes) : RsaPrivate :=
  let n := bits / 16
  let at' := fun i => beNat (slice k (i * n) n)
  if bits ≤ 6144 then { p := at' 0, q := at' 1, dp := at' 2, dq := at' 3, qinv := at' 4, e := beNat (k.drop (5 * n)) }
  else
    let p := at' 0
    let q := at' 1
    let e := beNat (k.drop (2 * n))
    { p := p, q := q, dp := invAny e (p - 1), dq := invAny e (q - 1), qinv := invAny q p, e := e }

def RsaPrivate.n (k : RsaPrivate) : Nat := k.p * k.q

/-- c^d mod n by the Chinese remainder theorem. -/
def RsaPrivate.apply (k : RsaPrivate) (c : Nat) : Nat :=
  let m1 := powMod (c % k.p) k.dp k.p
  let m2 := powMod (c % k.q) k.dq k.q
  m2 + k.q * (k.qinv * subMod m1 m2 k.p % k.p)

/-- The public key of a private one: n, then e in 4 bytes. -/
def RsaPrivate.public (bits : Nat) (k : RsaPrivate) : Bytes := toBE (bits / 8) k.n ++ toBE 4 k.e

/-! ## Encodings -/

/-- MGF1 under a hash. -/
def mgf1 (hash : Nat) (seed : Bytes) (len : Nat) : Bytes :=
  (((List.range (len / hashLen hash + 1)).map fun i => hashOf hash (seed ++ toBE 4 i) 0).flatten).take len

/-- Last byte of a hash's object identifier under 2.16.840.1.101.3.4.2. -/
def hashOid (hash : Nat) : Byte :=
  match hash with
  | 1 => 1
  | 2 => 2
  | 3 => 3
  | 4 => 8
  | 5 => 9
  | 6 => 10
  | 7 => 11
  | _ => 12

def nistOid (hash : Nat) : Bytes := [0x06, 0x09, 0x60, 0x86, 0x48, 0x01, 0x65, 0x03, 0x04, 0x02, hashOid hash]

/-- EMSA-PKCS1-v1_5 of a digest in `n` bytes. -/
def pkcs1 (hash n : Nat) (h : Bytes) : Bytes :=
  let t := [0x30, BitVec.ofNat 8 (17 + h.length), 0x30, 0x0D] ++ nistOid hash ++ [0x05, 0x00, 0x04, BitVec.ofNat 8 h.length] ++ h
  [0, 1] ++ List.replicate (n - 3 - t.length) 0xFF ++ [0] ++ t

/-- The lowest bits of the first byte that a number of `bits` leaves in use. -/
def topMask (bits : Nat) : Byte := BitVec.ofNat 8 (2 ^ ((bits + 7) % 8 + 1) - 1)

/-- EMSA-PSS encoding of a digest with its salt, in `bits` bits. -/
def pssEncode (hash bits : Nat) (h salt : Bytes) : Bytes :=
  let n := (bits + 7) / 8
  let hh := hashOf hash (zeros 8 ++ h ++ salt) 0
  let db := zeros (n - salt.length - hh.length - 2) ++ [1] ++ salt
  let m := xorB db (mgf1 hash hh db.length)
  (match m with
    | b :: l => (b &&& topMask bits) :: l
    | [] => []) ++ hh ++ [0xBC]

/-- EMSA-PSS verification: salt length given. -/
def pssVerify (hash bits saltLen : Nat) (h em : Bytes) : Bool :=
  let n := (bits + 7) / 8
  let hl := hashLen hash
  let m := em.take (n - hl - 1)
  let hh := slice em (n - hl - 1) hl
  let db := match xorB m (mgf1 hash hh m.length) with
    | b :: l => (b &&& topMask bits) :: l
    | [] => []
  let pre := n - hl - saltLen - 2
  decide (hl + saltLen + 2 ≤ n) && em.length = n && byteAt em (n - 1) = 0xBC && byteAt em 0 &&& ~~~ topMask bits = 0
    && allZero (db.take pre) && byteAt db pre = 1 && hashOf hash (zeros 8 ++ h ++ db.drop (pre + 1)) 0 = hh

/-- The encoded message of a signature: 0x20 PKCS#1 v1.5, 0x21 PSS. -/
def rsaEncode (alg hash n : Nat) (h salt : Bytes) : Bytes :=
  if alg = 0x20 then pkcs1 hash n h else pssEncode hash (8 * n - 1) h salt

def rsaSign (alg hash bits : Nat) (key h salt : Bytes) : Bytes :=
  toBE (bits / 8) ((rsaPrivate bits key).apply (beNat (rsaEncode alg hash (bits / 8) h salt)))

/-- A signature under a public key n, e. -/
def rsaVerify (alg hash bits saltLen : Nat) (pub h sig : Bytes) : Bool :=
  let n := beNat (pub.take (bits / 8))
  let m := powMod (beNat sig) (beNat (pub.drop (bits / 8))) n
  if alg = 0x20 then toBE (bits / 8) m = pkcs1 hash (bits / 8) h
  else pssVerify hash (8 * (bits / 8) - 1) saltLen h (toBE (bits / 8) m)

/-- The check of R274: s^e mod n against the message encoded again. The salt is read back from the encoding. -/
def rsaSignCheck (alg hash bits saltLen : Nat) (key h sig : Bytes) : Bool :=
  rsaVerify alg hash bits saltLen ((rsaPrivate bits key).public bits) h sig

/-! ## OAEP -/

/-- EME-OAEP encoding of a message in `n` bytes with its seed. -/
def oaepEncode (hash n : Nat) (label m seed : Bytes) : Bytes :=
  let hl := hashLen hash
  let db := hashOf hash label 0 ++ zeros (n - m.length - 2 * hl - 2) ++ [1] ++ m
  let mdb := xorB db (mgf1 hash seed db.length)
  [0] ++ xorB seed (mgf1 hash mdb hl) ++ mdb

/-- EME-OAEP decoding; none on any failure of SP 800-56B. -/
def oaepDecode (hash n : Nat) (label em : Bytes) : Option Bytes :=
  let hl := hashLen hash
  let mdb := em.drop (hl + 1)
  let seed := xorB (slice em 1 hl) (mgf1 hash mdb hl)
  let db := xorB mdb (mgf1 hash seed mdb.length)
  let rest := (db.drop hl).dropWhile fun b => b = 0
  if 2 * hl + 2 ≤ n ∧ em.length = n ∧ byteAt em 0 = 0 ∧ db.take hl = hashOf hash label 0 ∧ rest.head? = some 1 then some (rest.drop 1)
  else none

def oaepEncrypt (hash bits : Nat) (label pub m seed : Bytes) : Bytes :=
  toBE (bits / 8) (powMod (beNat (oaepEncode hash (bits / 8) label m seed)) (beNat (pub.drop (bits / 8))) (beNat (pub.take (bits / 8))))

def oaepDecrypt (hash bits : Nat) (label key c : Bytes) : Option Bytes :=
  oaepDecode hash (bits / 8) label (toBE (bits / 8) ((rsaPrivate bits key).apply (beNat c)))

/-! ## Key generation (R277) -/

/-- A divisor below 2^16 other than 1. -/
def smallDivisor (c : Nat) : Bool := (List.range 65534).any fun d => c % (d + 2) = 0

/-- One Miller–Rabin round: w with w − 1 = 2^a · m, base b. -/
def millerRabin (w b : Nat) : Bool :=
  let a := (List.range (bitLen w)).find? (fun i => (w - 1).testBit i) |>.getD 0
  let z := powMod b ((w - 1) / 2 ^ a) w
  z = 1 || (List.range a).any fun i => powMod z (2 ^ i) w = w - 1

/-- The rules for a candidate prime of `len` bytes (R277), with the bytes that its bases come from; `other` is the first prime, 0 while
there is none. -/
def primeOk (bases : Bytes) (len e other c : Nat) : Bool :=
  decide (2 ^ (16 * len - 1) ≤ c * c) && !smallDivisor c && Nat.gcd e (c - 1) = 1
    && decide (2 ^ (8 * len - 100) < (if c ≤ other then other - c else c - other))
    && (List.range (Config.primeRounds (8 * len))).all fun i => millerRabin c (beNat (slice bases (len * i) len) % (c - 3) + 2)

/-- Candidates in turn, one generate request each; none where the search meets its bound (R278). -/
def findPrime (len e other : Nat) : Nat → Drbg → Option Nat × Drbg
  | 0, d => (none, d)
  | fuel + 1, d =>
    let n := len * (Config.primeRounds (8 * len) + 1)
    let b := d.out n
    let c := beNat (b.take len) / 2 * 2 + 1
    if primeOk (b.drop len) len e other c then (some c, d.served n) else findPrime len e other fuel (d.served n)

/-- Stored form of a private key from its primes (R151). -/
def rsaStored (bits e p q : Nat) : Bytes :=
  let len := bits / 16
  let crt := toBE len (invAny e (p - 1)) ++ toBE len (invAny e (q - 1)) ++ toBE len (invAny q p)
  toBE len p ++ toBE len q ++ (if bits ≤ 6144 then crt else []) ++ toBE 4 e

/-- Both primes, with d above 2^(nlen/2). -/
def rsaSearch (bits e : Nat) : Nat → Drbg → Option Bytes × Drbg
  | 0, d => (none, d)
  | fuel + 1, d =>
    let (p, d) := findPrime (bits / 16) e 0 fuel d
    let (q, d) := findPrime (bits / 16) e (p.getD 0) fuel d
    match p, q with
    | some p, some q =>
      if 2 ^ (bits / 2) < invAny e (Nat.lcm (p - 1) (q - 1)) then (some (rsaStored bits e p q), d) else rsaSearch bits e fuel d
    | _, _ => (none, d)

end Sys2Proof.Machine
end

