-- ==== Sys2Proof/Machine/MlDsa.lean ====
section
/-! DEFINITION. ML-DSA (FIPS 204), which R265, R266 and R284 name: PRESUMED, from the standard (log entry 4). -/

namespace Sys2Proof.Machine

/-! ## Parameters -/

structure DsaSet where
  k : Nat
  l : Nat
  eta : Nat
  tau : Nat
  /-- bytes of the commitment hash -/
  ct : Nat
  gamma1 : Nat
  gamma2 : Nat
  omega : Nat

def dq : Nat := 8380417

def dsaSet (set : Nat) : DsaSet :=
  if set = 1 then ⟨4, 4, 2, 39, 32, 2 ^ 17, (dq - 1) / 88, 80⟩
  else if set = 2 then ⟨6, 5, 4, 49, 48, 2 ^ 19, (dq - 1) / 32, 55⟩
  else ⟨8, 7, 2, 60, 64, 2 ^ 19, (dq - 1) / 32, 75⟩

def DsaSet.beta (m : DsaSet) : Nat := m.tau * m.eta

/-! ## The transform -/

def dsaPoints : List Nat := (List.range 256).map fun i => powMod 1753 (2 * bitRev 8 i + 1) dq

def dsaNtt (f : Poly) : Poly := dsaPoints.map fun g => Poly.eval dq g f

def dsaInvPoints : List Nat := dsaPoints.map fun g => powMod g (dq - 2) dq

/-- Coefficient j is 256⁻¹ Σ f̂ᵢ gᵢ^(−j): the powers are carried along. -/
def dsaInvAux (f : Poly) : Nat → List Nat → Poly
  | 0, _ => []
  | n + 1, w =>
    8347681 * ((List.zipWith (fun a g => a * g % dq) f w).sum) % dq :: dsaInvAux f n (List.zipWith (fun a g => a * g % dq) w dsaInvPoints)

def dsaInv (f : Poly) : Poly := dsaInvAux f 256 (List.replicate 256 1)

def dsaMul (f g : Poly) : Poly := List.zipWith (fun a b => a * b % dq) f g
def dsaDot (u v : List Poly) : Poly := (List.zipWith dsaMul u v).foldl (Poly.add dq) zeroPoly

/-! ## Rounding -/

/-- The distance from 0 modulo q. -/
def normQ (a : Nat) : Nat := min (a % dq) (dq - a % dq)
def normPoly (f : Poly) : Nat := f.foldl (fun m a => max m (normQ a)) 0
def normVec (v : List Poly) : Nat := v.foldl (fun m f => max m (normPoly f)) 0

/-- Power2Round: t1, t0. -/
def power2Round (r : Nat) : Nat × Nat :=
  let r0 := r % 8192
  if r0 ≤ 4096 then (r / 8192, r0) else (r / 8192 + 1, r0 + dq - 8192)

/-- Decompose: r1, r0 with r0 as a residue. -/
def decompose (g2 r : Nat) : Nat × Nat :=
  let r0 := r % (2 * g2)
  let (hi, lo) : Nat × Nat := if r0 ≤ g2 then (r - r0, r0) else (r + (2 * g2 - r0), (r0 + dq - 2 * g2) % dq)
  if hi = dq - 1 then (0, (lo + dq - 1) % dq) else (hi / (2 * g2), lo)

def highBits (g2 r : Nat) : Nat := (decompose g2 r).1
def lowBits (g2 r : Nat) : Nat := (decompose g2 r).2

/-- MakeHint of z and r; UseHint. -/
def makeHint (g2 z r : Nat) : Bool := highBits g2 r ≠ highBits g2 ((r + z) % dq)

def useHint (g2 : Nat) (h : Bool) (r : Nat) : Nat :=
  let m := (dq - 1) / (2 * g2)
  let (r1, r0) := decompose g2 r
  if !h then r1 else if r0 ≠ 0 ∧ r0 ≤ (dq - 1) / 2 then (r1 + 1) % m else (r1 + m - 1) % m

/-! ## Packing -/

/-- BitPack of coefficients in −a..b, in the bits of a + b. -/
def bitPack (a b : Nat) (f : Poly) : Bytes := encodeBits (bitLen (a + b)) (f.map fun w => (b + dq - w) % dq)
def bitUnpack (a b : Nat) (v : Bytes) : Poly := (decodeBits (bitLen (a + b)) v).map fun w => (b + dq - w) % dq

def hintRow (h : List Bool) : List Nat := (List.range 256).filter fun i => h.getD i false

/-- HintBitPack: the places of the ones, then the running counts. -/
def hintPack (omega : Nat) (h : List (List Bool)) : Bytes :=
  let rows := h.map hintRow
  let places := rows.flatten
  let counts := (List.range h.length).map fun i => ((rows.take (i + 1)).map (·.length)).sum
  (places.map (BitVec.ofNat 8)) ++ zeros (omega - places.length) ++ counts.map (BitVec.ofNat 8)

def rising : List Nat → Bool
  | a :: b :: l => decide (a < b) && rising (b :: l)
  | _ => true

/-- HintBitUnpack; none where the encoding is malformed. -/
def hintUnpack (omega k : Nat) (v : Bytes) : Option (List (List Bool)) :=
  let places := (v.take omega).map (·.toNat)
  let counts := (List.range k).map fun i => (byteAt v (omega + i)).toNat
  let start := fun i => if i = 0 then 0 else counts.getD (i - 1) 0
  let rows := (List.range k).map fun i => (places.drop (start i)).take (counts.getD i 0 - start i)
  let last := counts.getD (k - 1) 0
  if ((List.range k).all fun i => decide (start i ≤ counts.getD i 0)) ∧ last ≤ omega ∧ rows.all rising
      ∧ (places.drop last).all (fun p => p = 0) then
    some (rows.map fun r => (List.range 256).map fun i => r.contains i)
  else none

/-! ## Sampling -/

def dsaReject : Bytes → List Nat
  | a :: b :: c :: l =>
    let z := a.toNat + 256 * b.toNat + 65536 * (c.toNat % 128)
    if z < dq then z :: dsaReject l else dsaReject l
  | _ => []

/-- RejNTTPoly. The streams taken are longer than the standard's bounds on its loops. -/
def rejNtt (seed : Bytes) : Poly := (dsaReject (Sha3.shake128 seed 1344) ++ zeroPoly).take 256

/-- RejBoundedPoly. -/
def rejBounded (eta : Nat) (seed : Bytes) : Poly :=
  let one := fun (n : Nat) => if eta = 2 then (if n < 15 then [(2 + dq - n % 5) % dq] else []) else (if n < 9 then [(4 + dq - n) % dq] else [])
  (((Sha3.shake256 seed 1088).flatMap fun b => one (b.toNat % 16) ++ one (b.toNat / 16)) ++ zeroPoly).take 256

def dsaMatrix (m : DsaSet) (rho : Bytes) : List (List Poly) :=
  (List.range m.k).map fun r => (List.range m.l).map fun s => rejNtt (rho ++ [BitVec.ofNat 8 s, BitVec.ofNat 8 r])

/-- SampleInBall: `js` are the bytes left, `signs` the sign bits, from place 256 − τ up. -/
def ballAux : Nat → Nat → Bytes → Nat → Poly → Poly
  | 0, _, _, _, c => c
  | _, _, [], _, c => c
  | fuel + 1, i, b :: js, signs, c =>
    if 256 ≤ i then c
    else if i < b.toNat then ballAux fuel i js signs c
    else
      let c := (c.set i (c.getD b.toNat 0)).set b.toNat (if signs % 2 = 1 then dq - 1 else 1)
      ballAux fuel (i + 1) js (signs / 2) c

def sampleInBall (tau : Nat) (seed : Bytes) : Poly :=
  let s := Sha3.shake256 seed 544
  ballAux 544 (256 - tau) (s.drop 8) (leNat (s.take 8)) zeroPoly

def expandMask (m : DsaSet) (rho : Bytes) (kappa : Nat) : List Poly :=
  let c := bitLen (m.gamma1 - 1) + 1
  (List.range m.l).map fun r => bitUnpack (m.gamma1 - 1) m.gamma1 (Sha3.shake256 (rho ++ toLE 2 (kappa + r)) (32 * c))

/-! ## Keys -/

structure DsaKey where
  rho : Bytes
  k : Bytes
  tr : Bytes
  pub : Bytes
  a : List (List Poly)
  s1 : List Poly
  s2 : List Poly
  t0 : List Poly

/-- ML-DSA.KeyGen_internal of a seed (R151). -/
def dsaExpand (set : Nat) (xi : Bytes) : DsaKey :=
  let m := dsaSet set
  let h := Sha3.shake256 (xi ++ [BitVec.ofNat 8 m.k, BitVec.ofNat 8 m.l]) 128
  let rho := h.take 32
  let rho' := slice h 32 64
  let a := dsaMatrix m rho
  let s1 := (List.range m.l).map fun r => rejBounded m.eta (rho' ++ toLE 2 r)
  let s2 := (List.range m.k).map fun r => rejBounded m.eta (rho' ++ toLE 2 (m.l + r))
  let n1 := s1.map dsaNtt
  let t := (List.zipWith (fun row s => Poly.add dq (dsaInv (dsaDot row n1)) s) a s2).map fun f => f.map power2Round
  let pub := rho ++ (t.map fun f => encodeBits 10 (f.map (·.1))).flatten
  { rho := rho, k := h.drop 96, tr := Sha3.shake256 pub 64, pub := pub, a := a, s1 := s1, s2 := s2, t0 := t.map fun f => f.map (·.2) }

def dsaPublic (set : Nat) (xi : Bytes) : Bytes := (dsaExpand set xi).pub

/-- The message as it is hashed: pure, or HashML-DSA under a hash code with the digest (R266, R284). -/
def dsaMessage (hash : Nat) (ctx m : Bytes) : Bytes :=
  (if hash = 0 then [0, BitVec.ofNat 8 ctx.length] ++ ctx else [1, BitVec.ofNat 8 ctx.length] ++ ctx ++ nistOid hash) ++ m

/-! ## Signing -/

def w1Encode (m : DsaSet) (w : List Poly) : Bytes := (w.map (encodeBits (bitLen ((dq - 1) / (2 * m.gamma2) - 1)))).flatten

/-- One iteration of the loop: the signature, none where it is rejected. -/
def dsaTry (m : DsaSet) (key : DsaKey) (mu rho : Bytes) (kappa : Nat) : Option Bytes :=
  let g2 := m.gamma2
  let y := expandMask m rho kappa
  let ny := y.map dsaNtt
  let w := key.a.map fun row => dsaInv (dsaDot row ny)
  let ct := Sha3.shake256 (mu ++ w1Encode m (w.map fun f => f.map (highBits g2))) m.ct
  let c := dsaNtt (sampleInBall m.tau ct)
  let times := fun (v : List Poly) => v.map fun f => dsaInv (dsaMul c (dsaNtt f))
  let z := List.zipWith (Poly.add dq) y (times key.s1)
  let r := List.zipWith (Poly.sub dq) w (times key.s2)
  let ct0 := times key.t0
  let h := List.zipWith (fun a b => List.zipWith (fun t r => makeHint g2 ((dq - t) % dq) ((r + t) % dq)) a b) ct0 r
  if m.gamma1 - m.beta ≤ normVec z ∨ g2 - m.beta ≤ normVec (r.map fun f => f.map (lowBits g2)) ∨ g2 ≤ normVec ct0
      ∨ m.omega < (h.map fun f => f.count true).sum then none
  else some (ct ++ (z.map (bitPack (m.gamma1 - 1) m.gamma1)).flatten ++ hintPack m.omega h)

/-- The loop: the signature, none where it stops, and the iterations made. -/
def dsaLoop (m : DsaSet) (key : DsaKey) (mu rho : Bytes) : Nat → Nat → Option Bytes × Nat
  | 0, i => (none, i)
  | fuel + 1, i =>
    match dsaTry m key mu rho (i * m.l) with
    | some s => (some s, i + 1)
    | none => dsaLoop m key mu rho fuel (i + 1)

/-- Signing with its random input; it stops after 1,000 iterations (R284). -/
def dsaRun (set hash : Nat) (ctx xi msg rnd : Bytes) : Option Bytes × Nat :=
  let m := dsaSet set
  let key := dsaExpand set xi
  let mu := Sha3.shake256 (key.tr ++ dsaMessage hash ctx msg) 64
  dsaLoop m key mu (Sha3.shake256 (key.k ++ rnd ++ mu) 64) 1000 0

def dsaSign (set hash : Nat) (ctx xi msg rnd : Bytes) : Option Bytes := (dsaRun set hash ctx xi msg rnd).1

/-- Cycles of a signing operation with so many iterations (R284, R291). -/
def dsaCycles (set i : Nat) : Nat :=
  if set = 1 then 28000 + 20000 * i else if set = 2 then 40000 + 25500 * i else 60000 + 48000 * i

/-! ## Verification -/

def dsaVerify (set hash : Nat) (ctx pub msg sig : Bytes) : Bool :=
  let m := dsaSet set
  let g1 := m.gamma1
  let zl := 32 * (bitLen (g1 - 1) + 1)
  let ct := sig.take m.ct
  let z := (List.range m.l).map fun i => bitUnpack (g1 - 1) g1 (slice sig (m.ct + zl * i) zl)
  let t1 := (List.range m.k).map fun i => decodeBits 10 (slice pub (32 + 320 * i) 320)
  match hintUnpack m.omega m.k (sig.drop (m.ct + zl * m.l)) with
  | none => false
  | some h =>
    let mu := Sha3.shake256 (Sha3.shake256 pub 64 ++ dsaMessage hash ctx msg) 64
    let c := dsaNtt (sampleInBall m.tau ct)
    let nz := z.map dsaNtt
    let w := List.zipWith (fun row t =>
      dsaInv (Poly.sub dq (dsaDot row nz) (dsaMul c (dsaNtt (t.map fun v => v * 8192 % dq))))) (dsaMatrix m (pub.take 32)) t1
    let w1 := List.zipWith (fun a b => List.zipWith (fun h r => useHint m.gamma2 h r) a b) h w
    sig.length = m.ct + zl * m.l + m.omega + m.k && decide (normVec z < g1 - m.beta)
      && Sha3.shake256 (mu ++ w1Encode m w1) m.ct = ct

/-- The check of R274: FIPS 204 verification, with the public key of the checking engine's own expansion. -/
def dsaSignCheck (set hash : Nat) (ctx xi msg sig : Bytes) : Bool := dsaVerify set hash ctx (dsaPublic set xi) msg sig

end Sys2Proof.Machine
end

