-- ==== Sys2Proof/Machine/PublicArith.lean ====
section
/-! DEFINITION. Public-key operations by the algorithm codes of R116: 0x01 to 0x06 curves, 0x10 and 0x11 EdDSA, 0x20 to 0x22 RSA; 0x30 + set
for ML-DSA and 0x40 + set for ML-KEM are the model's own numbers. Stored forms: R151. -/

namespace Sys2Proof.Machine

def eccPrivLens : List Nat := [32, 48, 66, 64, 57]
def eccPointLens : List Nat := [65, 97, 133, 129]

/-- Modulus bits of an RSA stored form: public n, e; private with CRT values to 6,144 bits, p, q, e above. -/
def rsaBits (pub : Bool) (len : Nat) : Option Nat :=
  [2048, 3072, 4096, 5120, 6144, 7168, 8192].find? fun n =>
    decide (len = (if pub then n / 8 + 4 else if n ≤ 6144 then 5 * (n / 16) + 4 else 2 * (n / 16) + 4))

def isEcdsa (alg : Nat) : Bool := decide (1 ≤ alg) && decide (alg ≤ 6)
def isEddsa (alg : Nat) : Bool := alg = 0x10 || alg = 0x11
def isRsaSig (alg : Nat) : Bool := alg = 0x20 || alg = 0x21
def isRsa (alg : Nat) : Bool := alg = 0x20 || alg = 0x21 || alg = 0x22

/-- Modulus bits of a key. -/
def rsaSize (pub : Bool) (k : Bytes) : Nat := (rsaBits pub k.length).getD 0

/-- The encoding of the public key of a private one. -/
def pkPublic (alg : Nat) (k : Bytes) : Bytes :=
  if isEcdsa alg then (curve alg).encode ((curve alg).mul (beNat k) (curve alg).base)
  else if isEddsa alg then edPublic alg k
  else if isRsa alg then (rsaPrivate (rsaSize false k) k).public (rsaSize false k)
  else if alg / 16 = 3 then dsaPublic (alg % 16) k
  else kemPublic (alg % 16) k

/-- Random bytes that a signature takes: a nonce (R277), a salt, rnd. -/
def randLen (alg : Nat) (extra : Bytes) : Nat :=
  if isEcdsa alg then (curve alg).scalarLen else if alg = 0x21 then leNat extra else if alg / 16 = 3 then 32 else 0

/-- A signature: `extra` is the context, or the salt length in 2 bytes; `m` the digest or message. None where its operation stops: after
1,000 iterations (R284), or for a nonce that gives a zero (log entry 117). -/
def pkSign (alg hash : Nat) (extra key m rand : Bytes) : Option Bytes :=
  if isEcdsa alg then (curve alg).sign (beNat key) m rand
  else if isEddsa alg then some (edSign alg extra key m)
  else if isRsaSig alg then some (rsaSign alg hash (rsaSize false key) key m rand)
  else dsaSign (alg % 16) hash extra key m rand

def pkVerify (alg hash : Nat) (extra pub m sig : Bytes) : Bool :=
  if isEcdsa alg then (curve alg).verify ((curve alg).decode pub) m sig
  else if isEddsa alg then edVerify alg extra pub m sig
  else if isRsaSig alg then rsaVerify alg hash (rsaSize true pub) (leNat extra) pub m sig
  else dsaVerify (alg % 16) hash extra pub m sig

/-- The check of a signature on a second engine (R274). -/
def SignCheck.holds (c : SignCheck) : Bool :=
  if isEcdsa c.alg then (curve c.alg).signCheck (beNat c.key) c.input c.sig
  else if isEddsa c.alg then edSignCheck c.alg c.extra c.key c.input c.sig
  else if isRsaSig c.alg then rsaSignCheck c.alg c.hash (rsaSize false c.key) (leNat c.extra) c.key c.input c.sig
  else dsaSignCheck (c.alg % 16) c.hash c.extra c.key c.input c.sig

/-- Key generation (R277) over a DRBG instance: the private key in stored form, none where a prime search meets its bound. -/
def pkGenerate (alg bits e : Nat) (d : Drbg) : Option Bytes × Drbg :=
  if isEcdsa alg then
    let c := curve alg
    (some (toBE c.len (c.scalar (d.out c.scalarLen))), d.served c.scalarLen)
  else if isEddsa alg then (some (d.out (edCurve alg).len), d.served (edCurve alg).len)
  else rsaSearch bits e (Config.primeBound bits) d

end Sys2Proof.Machine
end

