-- ==== Sys2Proof/Machine/Operands.lean ====
section
/-! DEFINITION. Operand forms of the commands: attributes (R162, R296), key references (R112), the checks on the form of an SQE
(R114 to R117, check 1 of R128), KCVs (R173), stored forms (R151) and strengths (R160). -/

namespace Sys2Proof.Machine

/-! ## Attributes (R296) -/

/-- Rows of R156 counted from 0, as R296 encodes them. -/
inductive Use where
  | b0 | b1 | c0 | d0 | e0 | e1 | e2 | k1 | k2 | k3 | m1 | m3 | m6 | m7 | p0 | s0 | v1 | v2 | u91 | u92 | u93
  deriving DecidableEq, Repr

def Use.all : List Use :=
  [.b0, .b1, .c0, .d0, .e0, .e1, .e2, .k1, .k2, .k3, .m1, .m3, .m6, .m7, .p0, .s0, .v1, .v2, .u91, .u92, .u93]

def Use.code (u : Use) : Nat := Use.all.idxOf u
def Use.name (u : Use) : Bytes :=
  ascii (["B0", "B1", "C0", "D0", "E0", "E1", "E2", "K1", "K2", "K3", "M1", "M3", "M6", "M7", "P0", "S0", "V1", "V2", "91", "92",
    "93"].getD u.code "")

/-- Algorithms of R154. -/
inductive Alg where
  | a | t | e | r | h | l
  deriving DecidableEq, Repr

def Alg.all : List Alg := [.a, .t, .e, .r, .h, .l]
def Alg.code (x : Alg) : Nat := Alg.all.idxOf x
def Alg.char (x : Alg) : Byte := (ascii "ATERH9").getD x.code 0

/-- Modes of use of R157. -/
inductive Mode where
  | b | c | d | e | g | v | s | x
  deriving DecidableEq, Repr

def Mode.all : List Mode := [.b, .c, .d, .e, .g, .v, .s, .x]
def Mode.code (x : Mode) : Nat := Mode.all.idxOf x
def Mode.char (x : Mode) : Byte := (ascii "BCDEGVSX").getD x.code 0

/-- The attributes of a key. `expo` is exportability: 0 N, 1 S, 2 E. -/
structure Attr where
  use : Use
  alg : Alg
  mode : Mode
  expo : Nat
  world : Nat := 6
  life : Nat := 6
  ctrKind : Nat := 0
  ctrLimit : Nat := 0
  len : Nat
  owner : Nat := 0
  deriving DecidableEq, Repr

/-- Slots of a stored form (R151). -/
def runSlots (len : Nat) : Nat := (len + 31) / 32

/-- The attribute field of a head slot (R296). -/
def Attr.pack (a : Attr) : BitVec 128 :=
  BitVec.ofNat 128 (a.ctrLimit % 2 ^ 48 * 2 ^ 80 + a.ctrKind * 2 ^ 78 + runSlots a.len * 2 ^ 72 + a.len * 2 ^ 61 + a.expo * 2 ^ 59
    + a.mode.code * 2 ^ 56 + a.alg.code * 2 ^ 53 + a.use.code * 2 ^ 48 + a.life * 2 ^ 43 + a.world * 2 ^ 40 + a.owner * 2 ^ 28 + 1)

def Attr.unpack (v : BitVec 128) : Attr :=
  let f := fun (lo n : Nat) => v.toNat / 2 ^ lo % 2 ^ n
  { use := Use.all.getD (f 48 5) .b0, alg := Alg.all.getD (f 53 3) .a, mode := Mode.all.getD (f 56 3) .b, expo := f 59 2,
    world := f 40 3, life := f 43 5, ctrKind := f 78 2, ctrLimit := f 80 48, len := f 61 11, owner := f 28 12 }

/-- Continuation (2) and counter (3) slots carry the owner and their kind (R296). -/
def tailAttrs (owner kind : Nat) : BitVec 128 := BitVec.ofNat 128 (owner * 2 ^ 28 + kind)

def attrKind (v : BitVec 128) : Nat := v.toNat % 4
def attrOwner (v : BitVec 128) : Nat := v.toNat / 2 ^ 28 % 2 ^ 12

/-! ## Usages, algorithms, modes (R156, R157) -/

/-- Algorithms that a usage allows. -/
def Use.algs : Use → List Alg
  | .b1 => [.a]
  | .k1 => [.a]
  | .k2 => [.r]
  | .k3 => [.e]
  | .m1 => [.t]
  | .m3 => [.t]
  | .m6 => [.a]
  | .m7 => [.h]
  | .s0 => [.e, .r, .l]
  | .v2 => [.t]
  | .u91 => [.a]
  | .u92 => [.l]
  | .u93 => [.l]
  | _ => [.a, .t]

/-- Modes that a usage allows. -/
def Use.modes : Use → List Mode
  | .b0 => [.x]
  | .b1 => [.x]
  | .c0 => [.c, .g, .v]
  | .d0 => [.b, .d, .e]
  | .e0 => [.x]
  | .e1 => [.x]
  | .e2 => [.x]
  | .k1 => [.b, .d, .e]
  | .k2 => [.d, .e]
  | .k3 => [.x]
  | .m1 => [.c, .g, .v]
  | .m3 => [.c, .g, .v]
  | .m6 => [.c, .g, .v]
  | .m7 => [.c, .g, .v]
  | .p0 => [.b, .d, .e]
  | .s0 => [.s, .v]
  | .v1 => [.c, .g, .v]
  | .v2 => [.c, .v]
  | .u91 => [.b, .d, .e]
  | .u92 => [.d, .e]
  | .u93 => [.s, .v]

/-- Mode permits encryption, wrapping, encapsulation; the opposite direction; generation; verification (R157). -/
def Mode.enc (m : Mode) : Bool := m = .b || m = .e
def Mode.dec (m : Mode) : Bool := m = .b || m = .d
def Mode.gen (m : Mode) : Bool := m = .c || m = .g
def Mode.ver (m : Mode) : Bool := m = .c || m = .v

/-! ## Stored forms (R151) -/

/-- The stored form is a public key. -/
def isPublic (u : Use) (al : Alg) (m : Mode) (len : Nat) : Bool :=
  match al with
  | .e => if u = .k3 then eccPointLens.contains len else m = .v
  | .r => m = .e || m = .v
  | .l => m = .e || m = .v
  | _ => false

/-- Lengths in bytes that algorithm, usage and mode allow (R151, R156). EdDSA public keys: R271. An S0 key of algorithm 9 is the ML-DSA-65
key of R176. -/
def lenOk (u : Use) (al : Alg) (m : Mode) (len : Nat) : Bool :=
  match al with
  | .a => [16, 24, 32].contains len
  | .t => len = 16 || (len = 24 && u ≠ .v2 && u ≠ .m3)
  | .h => decide (16 ≤ len) && decide (len ≤ 64)
  | .e =>
    if u = .k3 then (eccPointLens ++ [32, 48, 66, 64]).contains len
    else if m = .v then (eccPointLens ++ [32, 57]).contains len
    else eccPrivLens.contains len
  | .r => (rsaBits (isPublic u al m len) len).isSome
  | .l =>
    if u = .u92 then (if m = .e then [800, 1184, 1568].contains len else len = 64)
    else if m = .v then (if u = .s0 then len = 1952 else [1312, 1952].contains len) else len = 32

/-- Lengths in bytes that an algorithm has in the stored form of a key, public or private by its mode (R151, R159). -/
def formOk (al : Alg) (m : Mode) (len : Nat) : Bool :=
  match al with
  | .a => [16, 24, 32].contains len
  | .t => [16, 24].contains len
  | .h => decide (16 ≤ len) && decide (len ≤ 64)
  | .e =>
    if m = .v then (eccPointLens ++ [32, 57]).contains len
    else if m = .s then eccPrivLens.contains len
    else (eccPointLens ++ eccPrivLens).contains len
  | .r => (rsaBits (m = .e || m = .v) len).isSome
  | .l =>
    match m with
    | .e => [800, 1184, 1568].contains len
    | .d => len = 64
    | .v => [1312, 1952].contains len
    | .s => len = 32
    | _ => [32, 64, 800, 1184, 1312, 1568, 1952].contains len

/-- Usage, algorithm and mode are allowed together (R156, R157). -/
def rowOk (u : Use) (al : Alg) (m : Mode) : Bool := u.algs.contains al && u.modes.contains m

/-! ## Strengths (R160) -/

/-- Security strength in bits. A lattice seed does not show its parameter set: it counts as the strongest (log entry 19). -/
def strength (u : Use) (al : Alg) (m : Mode) (len : Nat) : Nat :=
  match al with
  | .a => 8 * len
  | .t => if len = 16 then 80 else 112
  | .h => min (8 * len) 256
  | .e => if len = 32 ∨ len = 65 then 128 else if len = 48 ∨ len = 97 ∨ len = 57 then 192 else 256
  | .r => match rsaBits (isPublic u al m len) len with
    | some n => if n < 3072 then 112 else if n < 8192 then 128 else 192
    | none => 256
  | .l => if len = 800 ∨ len = 1312 then 128 else if len = 1184 ∨ len = 1952 then 192 else 256

def Attr.strength (a : Attr) : Nat := Machine.strength a.use a.alg a.mode a.len

/-- A KBPK of `n` bytes may wrap the key (R160). -/
def kbpkCovers (n : Nat) (a : Attr) : Bool := n = 32 || decide (a.strength ≤ 8 * n)

/-! ## Validation of public keys (R271) -/

def rsaPublicOk (k : Bytes) : Bool :=
  match rsaBits true k.length with
  | none => false
  | some n =>
    let m := beNat (k.take (n / 8))
    let e := beNat (k.drop (n / 8))
    m % 2 = 1 && decide (2 ^ (n - 1) ≤ m) && e % 2 = 1 && decide (65537 ≤ e)

/-- The modulus check of FIPS 203: every 12-bit coefficient before the 32-byte seed is below q. -/
def kemModulusOk (k : Bytes) : Bool :=
  (chunks 3 (k.take (k.length - 32))).all fun c =>
    let v := leNat c
    decide (v % 4096 < 3329) && decide (v / 4096 < 3329)

/-- An elliptic-curve point: below p and on a curve of its length. -/
def eccPointOk (k : Bytes) : Bool := [1, 2, 3, 4, 5, 6].any fun c => ((curve c).decode k).isSome

def publicOk (u : Use) (al : Alg) (m : Mode) (k : Bytes) : Bool :=
  if !isPublic u al m k.length then true
  else match al with
    | .e => if eccPointLens.contains k.length then eccPointOk k else edPublicOk (if k.length = 32 then 0x10 else 0x11) k
    | .r => rsaPublicOk k
    | .l => if u = .u92 then kemModulusOk k else true
    | _ => true

/-! ## Key check values (R173) -/

/-- Algorithm codes that a private stored form may belong to. -/
def privateAlgs (u : Use) (al : Alg) (len : Nat) : List Nat :=
  match al with
  | .r => [0x22]
  | .l => if u = .u92 then [0x41, 0x42, 0x43] else if u = .s0 then [0x32] else [0x31, 0x32, 0x33]
  | _ =>
    if len = 66 then [3] else if len = 64 then [6] else if len = 57 then [0x11] else if len = 48 then [2, 5]
    else if u = .k3 then [1, 4] else [1, 4, 0x10]

/-- The algorithm of a private key. Where its form does not show the curve or parameter set the choice is free (log entry 118). -/
def privateAlg (a : Attr) (k : Bytes) : Nat :=
  let l := privateAlgs a.use a.alg k.length
  l.getD (Config.formAlg k.length k % l.length) 0

/-- The encoding of the public key of an asymmetric key. -/
def publicEncoding (a : Attr) (k : Bytes) : Bytes :=
  if isPublic a.use a.alg a.mode k.length then k else pkPublic (privateAlg a k) k

/-- The keyed hash of a key: HMAC by its HM, else KMAC, KMAC256 where the key may serve it (R257; log entry 20). -/
def hashKcv (tag : KeyTag) (k : Bytes) : Bytes :=
  match tag.hm with
  | some h => Machine.keyedHash (0x10 + h.toNat) k (zeros 16) 0 []
  | none => if 32 ≤ k.length then Machine.keyedHash 0x22 k (zeros 16) 32 [] else Machine.keyedHash 0x21 k (zeros 16) 32 []

/-- The KCV of a key by a method; none where the method does not apply. -/
def kcv (method : Nat) (a : Attr) (tag : KeyTag) (k : Bytes) : Option Bytes :=
  match a.alg with
  | .t => if method = 0 then some ((Des.enc k (zeros 8)).take 3) else none
  | .a => if method = 0 then some ((Aes.enc k (zeros 16)).take 3)
          else if method = 1 then some ((cmac false k (zeros 16)).take 3) else none
  | .h => if method = 0 then some ((hashKcv tag k).take 3) else none
  | _ => if method = 0 then some ((Sha2.sha256 (publicEncoding a k)).take 3) else none

/-- By the default column of R173. -/
def kcvDefault (a : Attr) (tag : KeyTag) (k : Bytes) : Bytes := (kcv (if a.alg = .a then 1 else 0) a tag k).getD []

/-- KCV of a KBPK by method 1, as KP holds it. -/
def kcvKbpk (k : Bytes) : Bytes := (cmac false k (zeros 16)).take 3

/-- Bytes in inline_result, the first at the lowest address. -/
def inlineOf (b : Bytes) : BitVec 64 := BitVec.ofNat 64 (leNat (b.take 8))

/-! ## Key references (R112) -/

inductive Ref where
  | none
  | slot (n : Nat)
  | host (len addr : Nat)
  | handle (epoch seq idx : Nat)
  | carried (len off : Nat)
  deriving DecidableEq, Repr

def Ref.type : Ref → Nat
  | .none => 0
  | .slot _ => 1
  | .host _ _ => 2
  | .handle _ _ _ => 3
  | .carried _ _ => 4

/-- A reference read from its 8 bytes; none where its layout is broken. An inline block that passes the 64-byte area is such a layout: no
status is stated for it, and the model refuses it with BAD_FIELD at check 1 (DESIGN CHOICE, log entry 114). -/
def parseRef (v : Nat) : Option Ref :=
  let low := v % 2 ^ 60
  match v / 2 ^ 60 with
  | 0 => if low = 0 then some .none else none
  | 1 => if low < 2 ^ 18 then some (.slot low) else none
  | 2 => let n := low / 2 ^ 48; if 16 ≤ n ∧ n ≤ 2048 then some (.host n (low % 2 ^ 48)) else none
  | 3 => some (.handle (low / 2 ^ 38) (low / 2 ^ 22 % 2 ^ 16) (low % 2 ^ 22))
  | 4 =>
    let n := low / 256
    let o := low % 256
    if 16 ≤ n ∧ n ≤ 64 ∧ o % 16 = 0 ∧ o + n ≤ 64 then some (.carried n o) else none
  | _ => none

def handleValue (epoch seq idx : Nat) : Nat := 3 * 2 ^ 60 + epoch * 2 ^ 38 + seq % 2 ^ 16 * 2 ^ 22 + idx

/-! ## How a command stops short -/

/-- A status other than DONE with the capacity needed and inline_result; a wait that leaves the command as it stood; a wait for a slot's
restoration (R301). -/
inductive Stop where
  | fail (status : BitVec 16) (needed : Nat) (inline : BitVec 64)
  | wait
  /-- waits with what it has done so far standing, R218 -/
  | parked
  /-- a failed comparison, of two lanes or inside a duplicated unit, R144 -/
  | mismatch (lanes : Option (BitVec 7 × BitVec 7)) (inline : BitVec 64)
  | restore (slot : BitVec 18) (tag : Bool)
  /-- answered by the replay filter, R424 -/
  | replayed (r : ReplayEntry)
  deriving DecidableEq, Repr

/-- A command in execution: it changes the state and may stop. -/
abbrev Act := ExceptT Stop (StateM State)

def refuse {α : Type} (status : BitVec 16) : Act α := throw (.fail status 0 0)
def check (b : Bool) (status : BitVec 16) : Act Unit := if b then pure () else refuse status

def stKeyNotFound : BitVec 16 := 0x0201
def stKeyBlockAuth : BitVec 16 := 0x0202
def stKeyUsage : BitVec 16 := 0x0203
def stKeyPitch : BitVec 16 := 0x0204
def stKeyLifecycle : BitVec 16 := 0x0205
def stKeyErased : BitVec 16 := 0x0206
def stVerifyMismatch : BitVec 16 := 0x0301
def stTagMismatch : BitVec 16 := 0x0302
def stSignatureInvalid : BitVec 16 := 0x0303
def stPinFormat : BitVec 16 := 0x0304
def stInputRange : BitVec 16 := 0x0401
def stPointInvalid : BitVec 16 := 0x0402
def stCounterExhausted : BitVec 16 := 0x0403
def stMessageLimit : BitVec 16 := 0x0404
def stAuthRequired : BitVec 16 := 0x0503
def stAbortReset : BitVec 16 := 0x0602
def stAbortTamper : BitVec 16 := 0x0603
def stAbortSwitchover : BitVec 16 := 0x0604

/-! ## The form of an SQE (check 1 of R128) -/

def Entry.flagBits (x : Entry) : Nat := fieldLE x.sqe 2 2 / 256
def Entry.flag (x : Entry) (n : Nat) : Bool := (fieldLE x.sqe 2 2).testBit n
def Entry.dataLen (x : Entry) : Nat := fieldLE x.sqe 0x28 4
def Entry.resultCap (x : Entry) : Nat := fieldLE x.sqe 0x2C 4
def Entry.byte (x : Entry) (off : Nat) : Nat := (byteAt x.sqe off).toNat
def Entry.num (x : Entry) (off n : Nat) : Nat := fieldLE x.sqe off n
def Entry.bytes (x : Entry) (off n : Nat) : Bytes := slice x.sqe off n

/-- Inline bytes outside the fields used are 0 (R115). -/
def unusedZero (sqe : Bytes) (used : List (Nat × Nat)) : Bool :=
  (List.range 64).all fun i => byteAt sqe (0x40 + i) = 0 || used.any fun u => decide (u.1 ≤ 0x40 + i) && decide (0x40 + i < u.1 + u.2)

/-- Places of inline key blocks. -/
def carriedAreas : List Ref → List (Nat × Nat)
  | [] => []
  | .carried n o :: l => (0x40 + o, n) :: carriedAreas l
  | _ :: l => carriedAreas l

/-- No two areas overlap; the same block named twice is one area. -/
def areasApart : List (Nat × Nat) → Bool
  | [] => true
  | a :: l => l.all (fun b => decide (a.1 + a.2 ≤ b.1) || decide (b.1 + b.2 ≤ a.1) || a = b) && areasApart l

/-- Fields of the opcode and inline blocks lie apart (R114). -/
def placementOk (used : List (Nat × Nat)) (refs : List Ref) : Bool :=
  areasApart (carriedAreas refs) &&
    (carriedAreas refs).all fun a => used.all fun b => decide (a.1 + a.2 ≤ b.1) || decide (b.1 + b.2 ≤ a.1)

/-- key_ref_a, key_ref_b and inline references: where they stand and the types allowed. -/
abbrev RefForm := Nat × List Nat

def offA : Nat := 0x10
def offB : Nat := 0x18

/-- References read, each of an allowed type (R112). -/
def readRefs (sqe : Bytes) : List RefForm → Option (List Ref)
  | [] => some []
  | (off, types) :: l =>
    match parseRef (fieldLE sqe off 8), readRefs sqe l with
    | some r, some t => if types.contains r.type then some (r :: t) else none
    | _, _ => none

/-- Flags, reference types, unused bytes and inline blocks of check 1. The field ranges of the opcode follow it. -/
def checkForm (x : Entry) (flags : Nat) (forms : List RefForm) (used : List (Nat × Nat)) : Act (List Ref) :=
  match readRefs x.sqe forms with
  | none => refuse stBadField
  | some refs =>
    if x.flagBits &&& flags ≠ x.flagBits ∨ ¬ placementOk used refs ∨ ¬ unusedZero x.sqe (used ++ carriedAreas refs) then
      refuse stBadField
    else pure refs

/-- Fields of an X9.143 header template as R116 wants them at check 1; its codes are tested at check 9. -/
def templateForm (t : Bytes) : Bool :=
  byteAt t 0 = 0x44 && slice t 1 4 = ascii "0000" && slice t 9 2 = ascii "00" && slice t 12 2 = ascii "00"
    && (ascii "ESN").contains (byteAt t 11) && (ascii "01").contains (byteAt t 14) && byteAt t 15 = 0x30

/-- Codes of a header: usage, algorithm, mode, exportability. -/
structure Header where
  use : Use
  alg : Alg
  mode : Mode
  expo : Nat
  deriving DecidableEq, Repr

def expoOf (c : Byte) : Option Nat := if c = 0x4E then some 0 else if c = 0x53 then some 1 else if c = 0x45 then some 2 else none
def expoChar (e : Nat) : Byte := if e = 0 then 0x4E else if e = 1 then 0x53 else 0x45

def readHeader (t : Bytes) : Option Header :=
  match Use.all.find? (fun u => u.name = slice t 5 2), Alg.all.find? (fun a => a.char = byteAt t 7),
      Mode.all.find? (fun m => m.char = byteAt t 8), expoOf (byteAt t 11) with
  | some u, some a, some m, some e => some ⟨u, a, m, e⟩
  | _, _, _, _ => none

/-- The usage, algorithm and mode of a template for a key of algorithm A, T or H and its length (R118); none is KEY_USAGE. -/
def symTemplate (t : Bytes) (len : Nat) : Option Header :=
  match readHeader t with
  | none => none
  | some h =>
    if rowOk h.use h.alg h.mode && h.use ≠ .b1 && [Alg.a, .t, .h].contains h.alg && lenOk h.use h.alg h.mode len then some h else none

end Sys2Proof.Machine
end

