-- ==== Sys2Proof/Machine/Keys.lean ====
section
/-! DEFINITION. Keys: key blocks read and written (R152 to R161), the key-block cache (R113, R167 to R171), capture of keys by the
checks 4 to 10 of R128 (R166), target slots and their commit (R110, R299), counters (R164, R245), and the frame in which every opcode
runs (R128, R132, R139). -/

namespace Sys2Proof.Machine

/-! ## Reading a key block (R152, R154, R155) -/

structure Block where
  raw : Bytes
  h : Header
  ctx : Byte
  opts : List (Bytes × Bytes)
  /-- header and optional blocks -/
  front : Bytes
  ekd : Bytes
  mac : Bytes
  binary : Bool
  deriving DecidableEq, Repr

def optIds : List Bytes := ["IK", "KP", "KC", "HM", "TS", "PB", "9K"].map ascii

/-- `n` optional blocks: their IDs with data, and the bytes after them. -/
def readOpts : Nat → Bytes → Option (List (Bytes × Bytes) × Bytes)
  | 0, b => some ([], b)
  | n + 1, b =>
    match ofHex (slice b 2 2) with
    | some [l] =>
      if l.toNat < 4 ∨ b.length < l.toNat ∨ ¬ optIds.contains (b.take 2) then none
      else match readOpts n (b.drop l.toNat) with
        | some (o, r) => if o.any (fun x => x.1 = b.take 2) then none else some ((b.take 2, slice b 4 (l.toNat - 4)) :: o, r)
        | none => none
    | _ => none

def optOf (o : List (Bytes × Bytes)) (id : String) : Option Bytes := (o.find? fun x => x.1 = ascii id).map (·.2)

/-- Data of each optional block that has a rule, but for the comparisons (R155, R163). Hexadecimal digits are upper case in every option, as
R151 and R163 have them for the body and for 9K (DESIGN CHOICE, log entry 112). -/
def optDataOk (h : Header) (o : List (Bytes × Bytes)) : Bool :=
  let hex := fun (id : String) (n : Nat) => match optOf o id with
    | none => true
    | some d => d.length = n && (ofHex d).isSome
  let method1 := fun (id : String) => match optOf o id with
    | none => true
    | some d => d.length = 8 && d.take 2 = ascii "01" && (ofHex d).isSome
  hex "IK" 16 && ((optOf o "IK").isSome = (h.use = .b1)) && method1 "KP" && method1 "KC" && hex "9K" 16
    && (match optOf o "HM" with
        | none => true
        | some d => h.alg = .h && [ascii "01", ascii "02", ascii "03"].contains d)

/-- A block as it is carried, parsed; none where R152, R154 or R155 fail it. -/
def parseBlock (b : Bytes) : Option Block :=
  match readHeader b, ofDec (slice b 1 4), ofDec (slice b 12 2) with
  | some h, some len, some n =>
    if byteAt b 0 ≠ 0x44 ∨ len ≠ b.length ∨ slice b 9 2 ≠ ascii "00" ∨ 8 < n ∨ ¬ (ascii "01").contains (byteAt b 14)
        ∨ byteAt b 15 ≠ 0x30 ∨ ¬ h.use.modes.contains h.mode then none
    else match readOpts n (b.drop 16) with
      | none => none
      | some (o, body) =>
        let olen := b.length - 16 - body.length
        let bin := decide (32 ≤ body.length) && body.length % 16 = 0
        let pr := decide (64 ≤ body.length) && body.length % 32 = 0 && body.all fun c => (hexVal c).isSome
        if olen % 16 ≠ 0 ∨ ¬ optDataOk h o then none
        else if pr then
          match ofHex body with
          | some r => some ⟨b, h, byteAt b 14, o, b.take (16 + olen), r.take (r.length - 16), r.drop (r.length - 16), false⟩
          | none => none
        else if bin then
          some ⟨b, h, byteAt b 14, o, b.take (16 + olen), body.take (body.length - 16), body.drop (body.length - 16), true⟩
        else none
  | _, _, _ => none

/-- KCV that KP names. -/
def Block.kp (b : Block) : Option Bytes := (optOf b.opts "KP").bind fun d => ofHex (d.drop 2)

/-- Attributes of 9K, or the defaults (R162, R163): world, lifecycle, counter kind, limit; none outside the definitions. -/
def read9K (o : List (Bytes × Bytes)) : Option (Nat × Nat × Nat × Nat) :=
  match optOf o "9K" with
  | none => some (6, 6, 0, 0)
  | some d =>
    match d.mapM hexVal with
    | some (w :: l1 :: l0 :: k :: lim) =>
      if w < 8 ∧ l1 < 2 ∧ k < 3 then some (w, 16 * l1 + l0, k, lim.foldl (fun a x => 16 * a + x) 0) else none
    | _ => none

/-- The key context byte of a tag (R154). -/
def KeyTag.context (t : KeyTag) : Byte := if t.sent then 0x31 else 0x30

/-- A key with its attributes, as a command captures it (R166). -/
structure Key where
  val : Bytes
  attr : Attr
  tag : KeyTag
  /-- binding of keys that this key wraps, R167 -/
  binding : Binding
  slot : Option Nat := none
  /-- its KBPK is too weak for it, R160 -/
  weak : Bool := false
  deriving DecidableEq, Repr

/-- verify of R159 under a KBPK: the key with its attributes; none is KEY_BLOCK_AUTH. -/
def verifyBlock (kbpk : Bytes) (b : Block) : Option (Bytes × Attr × KeyTag) :=
  let kd := (cbcDec false (x9143Derive kbpk 0) (chunks 16 b.ekd) b.mac).1
  let m := cmac false (x9143Derive kbpk 1) (b.front ++ kd)
  let bits := beNat (kd.take 2)
  let n := bits / 8
  let k := slice kd 2 n
  match read9K b.opts with
  | none => none
  | some (w, l, ck, cl) =>
    let a : Attr := { use := b.h.use, alg := b.h.alg, mode := b.h.mode, expo := b.h.expo, world := w, life := l, ctrKind := ck,
                      ctrLimit := cl, len := n }
    let tag : KeyTag := { hm := (optOf b.opts "HM").map fun d => byteAt d 1 - 0x30, ik := ((optOf b.opts "IK").bind ofHex).getD [],
                          sent := b.ctx = 0x31 }
    let kcOk : Bool := match (optOf b.opts "KC").bind fun d => ofHex (d.drop 2) with
      | none => true
      | some c => c = kcvDefault a tag k
    let kpOk : Bool := match b.kp with
      | none => true
      | some c => c = kcvKbpk kbpk
    if m = b.mac ∧ bits % 8 = 0 ∧ b.ekd.length = (n + 17) / 16 * 16 ∧ formOk a.alg a.mode n ∧ kcOk ∧ kpOk
        ∧ publicOk a.use a.alg a.mode k then some (k, a, tag) else none

/-! ## Writing a key block (R153, R155) -/

/-- Optional blocks in the order of R155; PB fills to 16 bytes with free characters. The free bytes taken. -/
def writeOpts (fresh : Bytes) (a : Attr) (tag : KeyTag) (kbpk : Bytes) : Bytes × Nat × Nat :=
  let ik := if a.use = .b1 then ascii "IK14" ++ toHex (padTo 8 tag.ik) else []
  let kp := ascii "KP0C01" ++ toHex (kcvKbpk kbpk)
  let hm := match tag.hm with
    | some h => ascii "HM06" ++ toHex [h]
    | none => []
  let plain := a.world = 6 && a.life = 6 && a.ctrKind = 0 && a.ctrLimit = 0
  let k9 := if plain then []
            else ascii "9K14" ++ [hexChar a.world] ++ toHex (toBE 1 a.life) ++ [hexChar a.ctrKind] ++ toHex (toBE 6 a.ctrLimit)
  let o := ik ++ kp ++ hm ++ k9
  let n := 1 + (if ik = [] then 0 else 1) + (if hm = [] then 0 else 1) + (if k9 = [] then 0 else 1)
  let gap := (16 - o.length % 16) % 16
  if gap = 0 then (o, n, 0)
  else
    let len := if gap < 4 then gap + 16 else gap
    (o ++ ascii "PB" ++ toHex (toBE 1 len) ++ (fresh.take (len - 4)).map (fun c => c &&& 0x7F), n + 1, len - 4)

/-- A block written under a KBPK: exportability and key context given. The block and the free bytes taken; none where it fits
in neither form. -/
def writeBlock (fresh : Bytes) (kbpk : Bytes) (expo : Nat) (ctx : Byte) (a : Attr) (tag : KeyTag) (k : Bytes) : Option (Bytes × Nat) :=
  let (o, n, t) := writeOpts fresh a tag kbpk
  let p := (k.length + 17) / 16 * 16
  let kd := toBE 2 (8 * k.length) ++ k ++ slice fresh t (p - 2 - k.length)
  let printable := decide (48 + o.length + 2 * p ≤ 2048)
  let len := if printable then 48 + o.length + 2 * p else 32 + o.length + p
  if 2048 < len then none
  else
    let head := [0x44] ++ decChars 4 len ++ a.use.name ++ [a.alg.char, a.mode.char] ++ ascii "00" ++ [expoChar expo] ++ decChars 2 n
      ++ [ctx, 0x30]
    let mac := cmac false (x9143Derive kbpk 1) (head ++ o ++ kd)
    let body := (cbcEnc false (x9143Derive kbpk 0) (chunks 16 kd) mac).1 ++ mac
    some (head ++ o ++ (if printable then toHex body else body), t + (p - 2 - k.length))

/-- The MAC of a block that the device wrote. -/
def writtenMac (b : Bytes) : Bytes := match parseBlock b with | some x => x.mac | none => []

/-! ## Slots (R151, R297, R299) -/

def slotEmpty (s : State) (n : Nat) : Bool := attrKind (s.slot n).attrs = 0

/-- The key at a head slot. -/
def State.slotKey (s : State) (n : Nat) : Option Key :=
  let v := s.slot n
  if attrKind v.attrs ≠ 1 then none
  else
    let a := Attr.unpack v.attrs
    some { val := (((List.range (runSlots a.len)).map fun i => padTo 32 (s.slot (n + i)).key).flatten).take a.len,
           attr := a, tag := v.tag, binding := .slot (BitVec.ofNat 18 n) v.gen, slot := some n }

/-- Slots that a key takes: its run and its counter slot. -/
def slotsNeeded (a : Attr) : Nat := runSlots a.len + (if a.ctrKind = 0 then 0 else 1)

/-- The run and its counter slot lie in one block and are empty (R299). -/
def slotsFree (s : State) (n : Nat) (a : Attr) : Bool :=
  decide (n % 64 + slotsNeeded a ≤ 64) && (List.range (slotsNeeded a)).all fun i => slotEmpty s (n + i)

/-- A key written to its slots: head, continuations, counter slot at 0 with its leap bit set (R164, R296, R418). -/
def putKey (n : Nat) (owner : Nat) (a : Attr) (tag : KeyTag) (k : Bytes) (csn : Nat) (s : State) : State :=
  let r := runSlots a.len
  let s := writeSlot n (padTo 32 (k.take 32)) ({ a with owner := owner }).pack tag csn s
  let s := (List.range (r - 1)).foldl (fun s i =>
    writeSlot (n + i + 1) (padTo 32 ((k.drop (32 * (i + 1))).take 32)) (tailAttrs owner 2) {} csn s) s
  if a.ctrKind = 0 then s
  else
    let s := writeSlot (n + r) (zeros 32) (tailAttrs owner 3) {} csn s
    { s with kst := { s.kst with leaped := insertNat (n + r) s.kst.leaped } }

/-! ## The cache (R113, R167 to R171) -/

def kbcCount (f : Pitch → Pitch) (p : Nat) (s : State) : State := s.updPitch p f
def kbcHit (p : Nat) (s : State) : State := s.updPitch p fun v => { v with kbcHit := v.kbcHit + 1 }
def kbcMiss (p : Nat) (s : State) : State := s.updPitch p fun v => { v with kbcMiss := v.kbcMiss + 1 }
def kbcFail (p : Nat) (s : State) : State := s.updPitch p fun v => { v with kbcFail := v.kbcFail + 1 }

/-- The way that the clock hand of a set comes to: reference bits on its path are cleared (R169). `fuel` bounds the two turns. -/
def clockWay (p set : Nat) : Nat → Nat → State → Nat × State
  | 0, w, s => (w % 8, s)
  | f + 1, w, s =>
    let i := 8 * set + w % 8
    if (s.kbcEntry p i).ref then clockWay p set f (w + 1) (s.setKbc p i { s.kbcEntry p i with ref := false })
    else (w % 8, s)

/-- The way to fill (R169): an invalid one, a stale one, the one not referenced for longest. -/
def pickWay (p set : Nat) (s : State) : Nat × State :=
  let ways := (List.range 8).map fun w => 8 * set + w
  match ways.find? (fun i => !(s.kbcEntry p i).valid) with
  | some i => (i, s)
  | none => match ways.find? (fun i => !s.kbcLive p i) with
    | some i => (i, s)
    | none =>
      let hand := 2 ^ 19 * p + set
      let (w, s) := clockWay p set 16 (s.caches.kbcHand.get 0 hand) s
      (8 * set + w, { s with caches := { s.caches with kbcHand := s.caches.kbcHand.set 0 hand ((w + 1) % 8) } })

/-- The key can be held in the cache (R164, R167), also where its KBPK is too weak for it (R169). -/
def cacheable (s : State) (p : Nat) (k : Key) : Bool :=
  decide (0 < (s.pitch p).kbcCap) && decide (k.attr.len ≤ 80) && k.attr.ctrKind = 0

/-- A key is placed in the cache; its handle, 0 where it is not kept (R113, R169). -/
def cachePlace (p : Nat) (b : Binding) (mac : Bytes) (k : Key) (s : State) : Nat × State :=
  if !cacheable s p k then (0, s)
  else
    let (i, s) := pickWay p (s.kbcSet p b mac) s
    let seq := (s.kbcEntry p i).seq + 1
    let v : KbcEntry := { valid := true, gen := (s.pitch p).gen, seq := seq, mac := mac, binding := b,
                          attrs := ({ k.attr with owner := p }).pack, tag := k.tag, key := k.val, ref := true,
                          weak := k.weak }
    (handleValue s.caches.kbcEpoch.toNat seq.toNat i, s.setKbc p i v)

/-- The key of a cache entry. -/
def State.cachedKey (s : State) (p idx : Nat) : Key :=
  let v := s.kbcEntry p idx
  { val := v.key, attr := Attr.unpack v.attrs, tag := v.tag, binding := .entry (BitVec.ofNat 22 idx) v.seq, weak := v.weak }

/-- A handle that is current names its entry (R113, R168). -/
def State.handleLive (s : State) (p epoch seq idx : Nat) : Bool :=
  epoch = s.caches.kbcEpoch.toNat && decide (idx < (s.pitch p).kbcCap * 1024) && (s.kbcEntry p idx).seq.toNat = seq && s.kbcLive p idx

/-! ## The frame of a command -/

/-- A command as its opcode sees it. -/
structure Run where
  e : Nat
  x : Entry
  p : Nat
  env : CmdEnv
  recipe : Bool
  /-- its recipe broke the check on HWR steps, or its step budget, R140, R141 -/
  broken : Bool := false
  deriving DecidableEq, Repr

/-- World bit of its initiator (R24, R56): recipe engine RCP, core PERS. -/
def Run.world (r : Run) : Nat := if r.recipe then 2 else 1

/-- What an opcode gives. Engine fields as in Prepared. -/
structure Ans where
  /-- DONE, or how an operation ended that ran to its end -/
  status : BitVec 16 := 0
  result : Bytes := []
  inline : BitVec 64 := 0
  engine : Nat := 0
  check : Bool := false
  method : Option SignCheck := none
  long : Bool := false
  gen : Option NewKey := none
  high : Option HighMark := none
  operand : Bytes := []
  deriving DecidableEq, Repr

/-! ## Checks 2 to 10 of R128 -/

/-- Check 2 for an opcode without a data buffer (R490). -/
def noData (r : Run) : Act PUnit := check (r.x.dataLen = 0) stBadLength

/-- Check 4 (R310). -/
def checkErased (refs : List Ref) (creates : Bool) : Act PUnit := do
  let s ← get
  check (!(s.bat.latch && (creates || refs.any fun r => r ≠ .none))) stKeyErased

/-- A failed read of host memory: reported through AER, the command ends with DMA_FAULT (R74, R98). -/
def failedRead {α : Type} (r : Run) (why : ReadFail) : Act α := do
  modify (aerReport r.x.port why)
  refuse stDmaFault

/-- Check 5: the range of a type 0x2 block in a window, and its read. -/
def checkRange (r : Run) (ref : Ref) (h : HostRead) : Act PUnit :=
  match ref with
  | .host n a => do
    check (windowCovers r.x.windows r.x.port false (BitVec.ofNat 64 a) n) stBadPointer
    match (← get).hostRead r.x.port h with
    | .failed why => failedRead r why
    | .data b => check (b.length = n) stDmaFault
  | _ => pure ()

/-- Check 6 (R46). -/
def checkOwned (r : Run) (ref : Ref) : Act PUnit :=
  match ref with
  | .slot n => do
    let s ← get
    check (s.blockOwner (n / 64) = some r.p) stKeyPitch
  | _ => pure ()

/-- What check 7 finds: no key, a key, a block with the KBPK that R158 chooses where the command gives none. -/
inductive Found where
  | none
  | key (k : Key)
  | block (raw : Bytes) (pmk : Option Key)
  deriving DecidableEq, Repr

/-- The bytes of a block. -/
def blockBytes (r : Run) (ref : Ref) (h : HostRead) : Bytes :=
  match ref with
  | .host n _ => match h with | .data b => b.take n | .failed _ => []
  | .carried n o => slice r.x.sqe (0x40 + o) n
  | _ => []

/-- A PMK of the pitch by its table entry. -/
def State.pmkKey (s : State) (p i : Nat) : Option Key :=
  match (s.pitch p).pmk.getD i none with
  | some n => s.slotKey n.toNat
  | none => none

/-- The KBPK of a block under the pitch's PMKs (R158). -/
def State.pmkFor (s : State) (p : Nat) (kp : Option Bytes) : Option Key :=
  match kp with
  | none => s.pmkKey p 0
  | some c => ((List.range 4).filterMap fun i => s.pmkKey p i).find? fun k => kcvKbpk k.val = c

/-- The slots of the run whose head is slot `n`. -/
def State.runOf (s : State) (n : Nat) : Nat :=
  if attrKind (s.slot n).attrs = 1 then runSlots (Attr.unpack (s.slot n).attrs).len else 1

/-- The read of the run at slot `n` (R301): a correction, or a wait for the restoration of a slot. -/
def slotRead (r : Run) (n : Nat) : Act PUnit := do
  let s ← get
  let hit := fun (m : BitVec 18) => decide (n ≤ m.toNat) && decide (m.toNat < n + s.runOf n)
  match r.env.slotFault with
  | .clean => pure ()
  | .single m => if hit m then set { s with kst := { s.kst with corrected := satInc s.kst.corrected } } else pure ()
  | .double m => if hit m then throw (.restore m false) else pure ()
  | .tag m =>
    if hit m then
      set (qualify 47 { s with kst := { s.kst with tagFail := satInc s.kst.tagFail } })
      throw (.restore m true)
    else pure ()

/-- Slots that check 7 reads for a reference: its own, or those of the PMKs that a block may be under. -/
def State.slotsRead (s : State) (r : Run) (wrapped : Bool) (ref : Ref) (h : HostRead) : List Nat :=
  match ref with
  | .none => []
  | .slot n => [n]
  | .handle _ _ _ => []
  | _ =>
    if wrapped then []
    else
      let t := (s.pitch r.p).pmk.filterMap fun o => o.map (·.toNat)
      match (parseBlock (blockBytes r ref h)).bind (·.kp) with
      | none => t.take 1
      | some _ => t

/-- Every slot that a command captures a key from is read once, also where two references name it (R205). -/
def readSlots (r : Run) (l : List (Ref × HostRead)) : Act PUnit := do
  let s ← get
  (l.flatMap fun x => s.slotsRead r false x.1 x.2).eraseDups.forM (slotRead r)

/-- Check 7: occupied slot, current handle, the KBPK of a block. A block that does not parse names no KP: it is looked up under entry 0
(DESIGN CHOICE, log entry 113). -/
def checkFound (r : Run) (wrapped : Bool) (ref : Ref) (h : HostRead) : Act Found :=
  match ref with
  | .none => pure .none
  | .slot n => do
    match (← get).slotKey n with
    | some k => pure (.key k)
    | none => refuse stKeyNotFound
  | .handle ep q i => do
    let s ← get
    if s.handleLive r.p ep q i then
      let k := s.cachedKey r.p i
      set (kbcHit r.p (s.setKbc r.p i { s.kbcEntry r.p i with ref := true }))
      pure (.key k)
    else
      set (kbcMiss r.p s)
      refuse stKeyNotFound
  | _ => do
    let raw := blockBytes r ref h
    if wrapped then pure (.block raw none)
    else
      match (← get).pmkFor r.p ((parseBlock raw).bind (·.kp)) with
      | some k => pure (.block raw (some k))
      | none => refuse stKeyNotFound

/-- A block looked up, else verified and filled (R159, R168, R169). A block in a type 0x4 reference is binary (R152). The key and its
handle. -/
def lookupBlock (r : Run) (fill binaryOnly : Bool) (raw : Bytes) (kb : Key) : Act (Key × Nat) := do
  let s ← get
  match parseBlock raw with
  | none =>
    set (kbcFail r.p (kbcMiss r.p s))
    refuse stKeyBlockAuth
  | some b =>
    if binaryOnly && !b.binary then
      set (kbcFail r.p (kbcMiss r.p s))
      refuse stKeyBlockAuth
    else match s.kbcFind r.p kb.binding b.mac with
    | some i =>
      let v := s.kbcEntry r.p i
      set (kbcHit r.p (s.setKbc r.p i { v with ref := true }))
      pure (s.cachedKey r.p i, handleValue s.caches.kbcEpoch.toNat v.seq.toNat i)
    | none =>
      match verifyBlock kb.val b with
      | none =>
        set (kbcFail r.p (kbcMiss r.p s))
        refuse stKeyBlockAuth
      | some (k, a, tag) =>
        let key : Key := { val := k, attr := { a with owner := r.p }, tag := tag, binding := .none,
                           weak := !kbpkCovers kb.val.length a }
        let s := kbcMiss r.p s
        if fill then
          let (h, s) := cachePlace r.p kb.binding b.mac key s
          set s
          let bind : Binding :=
            if h = 0 then .none else .entry (BitVec.ofNat 22 (h % 2 ^ 22)) (BitVec.ofNat 16 (h / 2 ^ 22))
          pure ({ key with binding := bind }, h)
        else
          set s
          pure (key, 0)

/-- Check 8: a block under the KBPK given or chosen. -/
def checkBlock (r : Run) (fill : Bool) (under : Option Key) (ref : Ref) (f : Found) : Act (Option (Key × Nat)) :=
  match f with
  | .none => pure none
  | .key k => pure (some (k, 0))
  | .block raw pmk =>
    match under.or pmk with
    | some kb => do
      let x ← lookupBlock r fill (ref.type = 4) raw kb
      pure (some x)
    | none => refuse stKeyNotFound

/-- Check 9 for one key: world, owner, its row of R156, strength of its KBPK, the counter rule of R164, what the opcode needs. -/
def checkUse (r : Run) (ctrOk : Bool) (need : Key → Bool) (k : Key) : Act PUnit :=
  check (rowOk k.attr.use k.attr.alg k.attr.mode && lenOk k.attr.use k.attr.alg k.attr.mode k.attr.len
      && k.attr.world.testBit r.world && k.attr.owner = r.p && !k.weak
      && (k.attr.ctrKind = 0 || k.slot.isSome || ctrOk) && need k)
    stKeyUsage

/-- Check 10. -/
def checkLife (k : Key) : Act PUnit := do
  check (k.attr.life.testBit ((← get).lcsState - 1)) stKeyLifecycle

/-- A reference with what the opcode needs of its key. -/
structure Want where
  ref : Ref
  read : HostRead
  need : Key → Bool

/-- A captured key as the tracker entry keeps it while its command waits. -/
def Key.keep (k : Key) (handle : Nat) : Captured :=
  { key := k.val, attrs := k.attr.pack, tag := k.tag, binding := k.binding, slot := k.slot, handle := handle, weak := k.weak }

def Captured.back (c : Captured) : Key × Nat :=
  ({ val := c.key, attr := Attr.unpack c.attrs, tag := c.tag, binding := c.binding, slot := c.slot, weak := c.weak }, c.handle)

/-- The keys of a command: captured once, and kept through every wait (R166). -/
def keeping (r : Run) (first : Act (List (Option (Key × Nat)))) : Act (List (Option (Key × Nat))) :=
  match r.x.captured with
  | some l => pure (l.map fun c => c.map (·.back))
  | none => do
    let keys ← first
    modify fun s => s.updEntry r.e fun x => { x with captured := some (keys.map fun k => k.map fun y => y.1.keep y.2) }
    pure keys

/-- Checks 5 to 10 over the references of a command in their order, for blocks under PMKs; `also` is what check 9 asks of the keys
together. The keys. -/
def captureWith (r : Run) (fill : Bool) (l : List Want) (also : List (Option Key) → Bool) : Act (List (Option (Key × Nat))) :=
  keeping r do
    l.forM fun w => checkRange r w.ref w.read
    l.forM fun w => checkOwned r w.ref
    readSlots r (l.map fun w => (w.ref, w.read))
    let found ← l.mapM fun w => checkFound r false w.ref w.read
    let keys ← (l.zip found).mapM fun w => checkBlock r fill none w.1.ref w.2
    (l.zip keys).forM fun w => match w.2 with
      | some k => checkUse r false w.1.need k.1
      | none => pure ()
    check (also (keys.map fun k => k.map (·.1))) stKeyUsage
    keys.forM fun k => match k with
      | some k => checkLife k.1
      | none => pure ()
    pure keys

def capture (r : Run) (l : List Want) (also : List (Option Key) → Bool) : Act (List (Option Key)) := do
  let keys ← captureWith r true l also
  pure (keys.map fun k => k.map (·.1))

/-- The key that a reference names, before its capture: as far as check 2 needs it for the length of a modulus (R128, R266). -/
def State.peekKey (s : State) (r : Run) (ref : Ref) (h : HostRead) : Option Key :=
  match ref with
  | .none => none
  | .slot n => if s.blockOwner (n / 64) = some r.p then s.slotKey n else none
  | .handle ep q i => if s.handleLive r.p ep q i then some (s.cachedKey r.p i) else none
  | _ =>
    match parseBlock (blockBytes r ref h) with
    | none => none
    | some b =>
      match s.pmkFor r.p b.kp with
      | none => none
      | some kb => (verifyBlock kb.val b).map fun v => { val := v.1, attr := { v.2.1 with owner := r.p }, tag := v.2.2, binding := .none }

/-- Modulus bytes of an RSA key. -/
def modulusLen (a : Attr) : Nat := ((rsaBits (isPublic a.use a.alg a.mode a.len) a.len).getD 0) / 8

/-- Check 2 for a signature or ciphertext of modulus length (R266). -/
def checkModulus (r : Run) (ref : Ref) (n : Nat) : Act PUnit := do
  match (← get).peekKey r ref r.env.blkA with
  | some k => check (k.attr.alg ≠ .r || n = modulusLen k.attr) stBadLength
  | none => check (decide (256 ≤ n) && decide (n ≤ 1024) && n % 128 = 0) stBadLength

/-- Capture of one key. -/
def captureOne (r : Run) (ref : Ref) (need : Key → Bool) : Act Key := do
  match ← capture r [⟨ref, r.env.blkA, need⟩] (fun _ => true) with
  | [some k] => pure k
  | _ => refuse stKeyNotFound

/-- Capture of the keys of key_ref_a and key_ref_b; `also` is asked of both. -/
def captureTwo (r : Run) (a b : Ref) (needA needB : Key → Bool) (also : Key → Key → Bool) : Act (Key × Key) := do
  let both := fun l => match l with
    | [some k, some l] => also k l
    | _ => true
  match ← capture r [⟨a, r.env.blkA, needA⟩, ⟨b, r.env.blkB, needB⟩] both with
  | [some k, some l] => pure (k, l)
  | _ => refuse stKeyNotFound

def anyType : List Nat := [1, 2, 3, 4]
def heldType : List Nat := [1, 3]

/-! ## Checks 11 to 13, the data, execution -/

/-- Check 12 for a key with these attributes (R116, R299). -/
def checkTarget (r : Run) (n : Nat) (a : Attr) : Act PUnit := do
  let s ← get
  check (s.blockOwner (n / 64) = some r.p) stKeyPitch
  check (slotsFree s n a) stBadField

/-- Check 13. -/
def checkCap (r : Run) (n : Nat) : Act PUnit :=
  if n ≤ r.x.resultCap then pure () else throw (.fail stBadLength n 0)

/-- The data buffer: read at execution; a failed read is DMA_FAULT (R98). -/
def readData (r : Run) : Act Bytes :=
  if r.x.dataLen = 0 then pure []
  else do
    match (← get).hostRead r.x.port r.env.data with
    | .data b => if b.length = r.x.dataLen then pure b else refuse stDmaFault
    | .failed why => failedRead r why

/-- A lane group in service that no BIST has taken or wants (R236, R443, R449). -/
def State.laneServes (s : State) (g : Nat) : Bool := decide (g < 25) && s.restState 0 g = 0 && !s.withdrawn g

/-- The two lanes of a TWIN pair: of different groups, both in service (R143). -/
def State.twinPair (s : State) (l : BitVec 7 × BitVec 7) : Bool :=
  l.1.toNat / 4 ≠ l.2.toNat / 4 && s.laneServes (l.1.toNat / 4) && s.laneServes (l.2.toNat / 4)

/-- Lane groups in service, and hash units that HASH and KEYED_HASH may hold: three quarters of those in service (R236, R256). -/
def State.laneGroups (s : State) : Nat := ((List.range 25).filter s.laneServes).length
def State.hashCap (s : State) : Nat := 4 * ((List.range 8).filter s.hashInService).length * 3 / 4

/-- Opcodes that need no lane: KEY_CACHE_EVICT, hashes, class 0x0F and the engine classes. -/
def laneless (opcode : Nat) : Bool := [0x0106, 0x0705, 0x0706].contains opcode || decide (0x0800 ≤ opcode)

/-- The command finds the units that it holds (R143, R236, R256): lanes of one group, of two in TWIN, a group within LAN_BULK_CAP, a hash
unit. One that finds none waits. -/
def State.unitsServe (s : State) (single : Bool) (opcode : Nat) : Bool :=
  if opcode = 0x0705 ∨ opcode = 0x0706 then decide (0 < s.hashCap)
  else laneless opcode ||
    (decide ((if single then 1 else 2) ≤ s.laneGroups) && (opcode / 256 ≠ 7 || decide (0 < s.units.lanCap.toNat)))

/-- Lanes are granted: their mask generators are reseeded from instance 6 (R235). One request of 32 bytes stands for the grants of a command
(log entry 115). -/
def lanesUsed (lane : Bool) (s : State) : State := if lane then drbgRequest 6 32 s else s

/-- Faults met in execution: a line MAC (R18), lanes without their DRBG (R235), a recipe that breaks R140 or R141, a failed comparison
inside a duplicated unit (R143), or of the lanes in TWIN (R144). All leave the CSN taken and the counter value spent. -/
def unitFaults (r : Run) (lane : Bool) (inline : BitVec 64) : Act PUnit := do
  match r.env.ecc with
  | some l => do
    modify (memoryFault l)
    throw (.fail stMemoryEcc 0 inline)
  | none => pure ()
  if r.broken then throw (.fail stHwFault 0 inline)
  let s ← get
  if lane && (s.drbg 6).state = 2 then throw (.fail stHwFault 0 inline)
  if r.env.dupFail then throw (.mismatch none inline)
  match r.env.twinFail with
  | some l => if lane && !r.x.single && s.twinPair l then throw (.mismatch (some l) inline)
  | none => pure ()
  set (lanesUsed lane s)

/-- A draw from the DRBG that serves the command (R288, R289): HW_FAULT while that instance is in error. -/
def drawFrom (inst n : Nat) : Act Bytes := do
  let s ← get
  if (s.drbg inst).state = 2 then refuse stHwFault
  else
    set (drbgRequest inst n s)
    pure (s.drbgOut inst n)

/-- The cluster to which a recipe engine is attached (R288). -/
def engineCluster (k : Nat) : Nat := if k < 12 then k / 3 else if k < 14 then 4 else 5

/-- The instance of the cluster that runs the command: of its core, or of its recipe engine (R288, R290). -/
def Entry.drbg (x : Entry) : Nat :=
  match x.phase with
  | .bound c => c.toNat / 4
  | _ => engineCluster (ctxEngine (x.ctx.getD 0))

def Run.drbg (r : Run) : Nat := r.x.drbg

/-- A commit point waits while supplies warn (R440) and for space in the journal (R311), and is not reached once an erase or a hand-over
began (R309, R422). -/
def State.commitWaits (s : State) : Bool := s.storeWaits || s.erasing || s.par.yieldStep ≠ 0

/-- The commit point of class C with a target slot (R110, R134): the precondition once more, the CSN, the slots. -/
def commitSlot (r : Run) (n : Nat) (k : Key) : Act PUnit := do
  let s ← get
  if s.commitWaits then throw .wait
  check (slotsFree s n k.attr) stBadField
  let s := commitEntry r.e s
  set (putKey n r.p k.attr k.tag k.val s.csn s)

/-- End of a key's counter (R245). -/
def counterEnd (a : Attr) : Nat := if a.ctrLimit = 0 then 2 ^ 64 - 1 else a.ctrLimit

/-- The value of a counter slot, with the leap that its first access after a takeover adds (R418). -/
def State.counterValue (s : State) (n fin : Nat) : Nat :=
  let v := leNat ((s.slot n).key.take 8)
  if s.kst.leap = 0 ∨ s.kst.leaped.contains n ∨ fin ≤ v then v else min (v + s.kst.leap) fin

/-- A counter slot takes a value; its generation stays (R297). -/
def setCounter (n v : Nat) (s : State) : State :=
  let w : Slot := { s.slot n with key := toLE 8 v ++ zeros 24 }
  let s := s.setSlot n w
  { s with kst := { s.kst with leaped := insertNat n s.kst.leaped } }

/-- A counter advance in the journal (R311): once per 4,096 values, rounded up to the next multiple. -/
def journalCounter (n v : Nat) (due : Bool) (s : State) : State :=
  if due then
    let w : Slot := { s.slot n with key := toLE 8 ((v + 4095) / 4096 * 4096) ++ zeros 24 }
    journal (.counter (BitVec.ofNat 18 n) w) s.csn s
  else s

/-- The commit point of class D (R110, R245): the counter value that the command spends. -/
def spendCounter (r : Run) (k : Key) : Act Nat := do
  let s ← get
  if s.commitWaits then throw .wait
  match k.slot with
  | none => refuse stKeyUsage
  | some n =>
    let c := n + runSlots k.attr.len
    slotRead r c
    let s ← get
    let v := s.counterValue c (counterEnd k.attr)
    if counterEnd k.attr ≤ v then refuse stCounterExhausted
    else
      let s := commitEntry r.e s
      let fresh := s.kst.leaped.contains c
      let s := journalCounter c (v + 1) (v % 4096 = 0 || !fresh) (setCounter c (v + 1) s)
      set (mirror (.counter (BitVec.ofNat 18 c) s.csn (BitVec.ofNat 64 (v + 1))) s)
      pure v

/-- A stop after the commit point still shows the spent value (R110, R275). -/
def spent {α : Type} (v : BitVec 64) (a : Act α) : Act α :=
  tryCatch a fun x => match x with
    | .fail st n _ => throw (.fail st n v)
    | o => throw o

/-- The lookup of R424 between capture and the counter of a signing command. -/
def replayAfterCapture (r : Run) : Act PUnit := do
  let s ← get
  if s.replayBusy r.e r.p r.x.sqe then throw .wait
  match s.replayFind r.p r.x.sqe with
  | some m => throw (.replayed m)
  | none => pure ()

/-! ## Running an opcode -/

/-- The command runs now: in its recipe context, or on the core to which it is bound, with the units that it needs (R139, R236, R317,
R356). -/
def State.runsNow (s : State) (x : Entry) (opcode : Nat) : Bool :=
  x.opcode = opcode && !s.fenceWaits x && x.restore.isNone && x.walker.isNone && !s.pwr.quiet && !s.erasing && s.unitsServe x.single opcode &&
    (match x.phase with
     | .admitted => x.ctx.isSome
     | .bound _ => x.prepared.isNone
     | _ => false)

/-- What a command came to, with the CSN of its commit point. -/
def doneOf (s : State) (e : Nat) (status : BitVec 16) (a : Ans) (needed : Nat) : Done :=
  { status := status, result := a.result, inline := a.inline, needed := needed, csn := (s.entry e).bind (·.csn), high := a.high }

/-- The kind of engine that runs a command's operation: 1 big-number, 2 lattice (R262); of remote key loading by its profile. -/
def opEngine (x : Entry) : Nat :=
  if x.opcode / 256 = 8 then 1 else if x.opcode / 256 = 9 then 2
  else if x.opcode / 256 = 10 then (if x.byte 0x40 = 3 then 2 else 1) else 0

/-- HW_FAULT on a recipe engine raises its event (R470). -/
def engineFaulted (x : Entry) (status : BitVec 16) (s : State) : State :=
  match x.ctx with
  | some k => if status = stHwFault then raise (224 + ctxEngine k) s else s
  | none => s

/-- The outcome goes to the CQE, or to the core's completion and the engines (R262, R321). An operation that fails a check runs no shorter
on its engine, and ends with its status (R129). -/
def conclude (e : Nat) (recipe : Bool) (status : BitVec 16) (a : Ans) (needed : Nat) (s : State) : State :=
  if recipe then
    match s.entry e with
    | none => s
    | some x => engineFaulted x status (finish e (doneOf s e status a needed) s)
  else s.updEntry e fun x =>
    { x with decided := if status = 0 then x.decided else some status,
             prepared := some { status := status, result := a.result, inline := a.inline, needed := needed,
                                engine := if status = 0 then a.engine else opEngine x, check := status = 0 && a.check,
                                method := a.method, long := a.long, gen := a.gen, high := a.high, operand := a.operand } }

/-- After a failed comparison (R144): the command completes, then the alarm, and of two lanes both groups go to BIST. -/
def afterMismatch (x : Entry) (lanes : Option (BitVec 7 × BitVec 7)) (s : State) : State :=
  match lanes with
  | some (a, b) => twinMismatch a b x.pitch (BitVec.ofNat 16 x.opcode) s
  | none => qualify 45 s

/-! ## Recipe steps (R138, R140, R141) -/

/-- The hardware check on a step: a host write of a secret register, or of lane output that is not releasable. -/
def stepViolates (t : MicroStep) : Bool :=
  t.unit = .hwr && t.reads.any fun x => match x with
    | .secret _ => true
    | .pub _ => false
    | .laneOut releasable => !releasable

/-- The registers of a context after a step. One that yields key material or a clear PIN writes secret registers and lane inputs only. -/
def stepRun (t : MicroStep) (c : Ctx) : Ctx :=
  let c := { c with steps := c.steps + 1 }
  match t.writes with
  | .secret n v => { c with secret := c.secret.set n.toNat v }
  | .pub n v => if t.key then c else { c with pub := c.pub.set n.toNat v }
  | _ => c

/-- The steps that a command's recipe has executed by now act on its context. -/
def runSteps (x : Entry) (l : List MicroStep) (s : State) : State :=
  match x.ctx with
  | some k => s.updCtx k fun c => l.foldl (fun c t => stepRun t c) c
  | none => s

/-- The recipe broke the check on HWR steps, or went past its step budget (R140, R141). -/
def State.recipeBroken (s : State) (x : Entry) (l : List MicroStep) : Bool :=
  l.any stepViolates ||
    match x.ctx with
    | none => false
    | some k => match s.ctxRecipe x k with
      | none => false
      | some r => decide (r.budget < (s.ctx k).steps + l.length)

/-- A command that waits before its commit point keeps its keys and what their capture did; what it drew is not drawn (R110, R166). -/
def waiting (s t : State) : State := { t with units := s.units }

/-- One opcode over its tracker entry. A command that does not run now is left as it stands. -/
def runOp (e : Nat) (opcode : Nat) (env : CmdEnv) (op : Run → Act Ans) (s : State) : State :=
  let s := routeRecipe e s
  match s.entry e with
  | none => s
  | some x =>
    if !s.runsNow x opcode then s
    else
      let s := if x.replayWait then replayLookup e s else s
      match s.entry e with
      | none => s
      | some x =>
        if x.replayWait ∨ x.phase = .held then s
        else
          let recipe := decide (x.phase = .admitted)
          let r : Run := { e := e, x := x, p := x.pitch.toNat, env := env, recipe := recipe,
                           broken := recipe && s.recipeBroken x env.steps }
          match (op r).run s with
          | (.ok a, t) => conclude e recipe a.status a 0 t
          | (.error (.fail st n i), t) => conclude e recipe st { inline := i } n t
          | (.error (.mismatch l i), t) => afterMismatch x l (conclude e recipe stHwFault { inline := i } 0 t)
          | (.error .wait, t) => runSteps x env.steps (waiting s t)
          | (.error .parked, t) => runSteps x env.steps t
          | (.error (.restore n tag), t) => runSteps x env.steps (t.updEntry e fun x => { x with restore := some (n, tag) })
          | (.error (.replayed m), t) => finish e { status := m.status, replayed := true, csn := some m.csn } t

end Sys2Proof.Machine
end

