-- ==== Sys2Proof/Machine/KeyCmds.lean ====
section
/-! DEFINITION. Class 0x01: the general key commands (R118, R153, R161). -/

namespace Sys2Proof.Machine

/-! ## KBPKs and exports -/

/-- An AES key of usage K1 whose mode lets it unwrap or wrap (R128, R157). -/
def isKbpk (wrap : Bool) (k : Key) : Bool := k.attr.use = .k1 && k.attr.alg = .a && (if wrap then k.attr.mode.enc else k.attr.mode.dec)

/-- Export of a key under a template (R161): not N, nothing but exportability changes, and that only towards N. -/
def exportable (h : Option Header) (a : Attr) : Bool :=
  a.expo ≠ 0 && match h with
    | none => false
    | some h => h.use = a.use && h.alg = a.alg && h.mode = a.mode && decide (h.expo ≤ a.expo)

/-- The written block fits in 2,048 B (R153). -/
def blockFits (kbpk : Bytes) (a : Attr) (tag : KeyTag) (k : Bytes) : Bool := (writeBlock (zeros 64) kbpk 0 0x30 a tag k).isSome

/-- Length of the block of a key of `n` bytes. -/
def blockLength (kbpk : Key) (a : Attr) (tag : KeyTag) (n : Nat) : Nat :=
  match writeBlock (zeros 64) kbpk.val 0 0x30 a tag (zeros n) with
  | some (b, _) => b.length
  | none => 0

/-- Check 11 for a key of exportability S (R161, R396). -/
def checkAuth (r : Run) (a : Attr) : Act PUnit := do
  check (a.expo ≠ 1 || ((← get).pitch r.p).exportAuth.isSome) stAuthRequired

/-- An authorisation after one export. -/
def ExportAuth.spend (a : ExportAuth) : Option ExportAuth :=
  if a.count ≤ 1 then none
  else some { a with count := a.count - 1 }

/-- An export of a key of exportability S counts against the authorisation (R396). -/
def countExport (p : Nat) (a : Attr) (s : State) : State :=
  if a.expo ≠ 1 then s
  else s.updPitch p fun v => { v with exportAuth := v.exportAuth.bind ExportAuth.spend }

/-- A key written out under a KBPK after check 13 for its block and `more` bytes beside it. -/
def writeOut (r : Run) (more : Nat) (kbpk : Key) (expo : Nat) (ctx : Byte) (a : Attr) (tag : KeyTag) (k : Bytes) : Act Bytes := do
  let fresh := (← get).drbgOut r.drbg 64
  match writeBlock fresh kbpk.val expo ctx a tag k with
  | none => refuse stKeyUsage
  | some (b, n) =>
    checkCap r (more + b.length)
    let _ ← drawFrom r.drbg n
    pure b

def handleBytes (h : Nat) : Bytes := toLE 8 h

/-- A target slot field in range (R116). -/
def targetOk (r : Run) (off : Nat) : Bool := !r.x.flag 8 || decide (r.x.num off 4 < 2 ^ 18)

/-- The target slot field where to_slot makes it a field (R116). -/
def targetField (x : Entry) (off : Nat) : List (Nat × Nat) := if x.flag 8 then [(off, 4)] else []

/-! ## KEY_IMPORT_BLOCK -/

/-- Checks 5 to 10 for a KBPK and a block under it (R128, R158): the imported key with its handle. -/
def importKeys (r : Run) (toSlot : Bool) (a b : Ref) : Act (List (Option (Key × Nat))) :=
  keeping r do
    checkRange r a r.env.blkA
    checkRange r b r.env.blkB
    checkOwned r a
    readSlots r [(a, r.env.blkA)]
    match ← checkFound r false a r.env.blkA with
    | .key kb =>
      let f ← checkFound r true b r.env.blkB
      checkUse r false (isKbpk false) kb
      checkLife kb
      match ← checkBlock r true (some kb) b f with
      | some (k, h) =>
        checkUse r toSlot (fun _ => true) k
        checkLife k
        pure [some (k, h)]
      | none => refuse stKeyNotFound
    | _ => refuse stKeyNotFound

def keyImport (r : Run) : Act Ans := do
  let toSlot := r.x.flag 8
  match ← checkForm r.x 1 [(offA, heldType), (offB, [2, 4])] (targetField r.x 0x40) with
  | [a, b] =>
    check (targetOk r 0x40) stBadField
    noData r
    checkErased [a, b] toSlot
    match ← importKeys r toSlot a b with
    | [some (k, h)] =>
      if toSlot then checkTarget r (r.x.num 0x40 4) k.attr
      checkCap r 8
      unitFaults r true 0
      if toSlot then commitSlot r (r.x.num 0x40 4) k
      pure { result := handleBytes h, inline := inlineOf (kcvDefault k.attr k.tag k.val) }
    | _ => refuse stKeyNotFound
  | _ => refuse stBadField

/-- KEY_IMPORT_BLOCK (R118, R158, R164). -/
def execKeyImportBlock (e : BitVec 17) (env : CmdEnv) (s : State) : Host.Outcome State Fault Refusal :=
  .next (runOp e.toNat 0x0101 env keyImport s)

/-! ## KEY_EXPORT_BLOCK -/

def keyExport (r : Run) : Act Ans := do
  match ← checkForm r.x 0 [(offA, heldType), (offB, heldType)] [(0x40, 16)] with
  | [a, b] =>
    let t := r.x.bytes 0x40 16
    check (templateForm t) stBadField
    noData r
    checkErased [a, b] false
    let (k, kb) ← captureTwo r a b (fun k => exportable (readHeader t) k.attr) (isKbpk true)
      (fun k kb => kbpkCovers kb.val.length k.attr && blockFits kb.val k.attr k.tag k.val)
    checkAuth r k.attr
    let expo := (expoOf (byteAt t 11)).getD 0
    let blk ← writeOut r 0 kb expo (byteAt t 14) k.attr k.tag k.val
    unitFaults r true 0
    modify (countExport r.p k.attr)
    pure { result := blk, inline := inlineOf (kcvDefault k.attr k.tag k.val) }
  | _ => refuse stBadField

/-- KEY_EXPORT_BLOCK (R118, R153, R161). -/
def execKeyExportBlock (e : BitVec 17) (env : CmdEnv) (s : State) : Host.Outcome State Fault Refusal :=
  .next (runOp e.toNat 0x0102 env keyExport s)

/-! ## KEY_GENERATE_SYM -/

/-- The length that the byte at 0x54 selects for a template's algorithm (R118). -/
def symLength (alg : Byte) (n : Nat) : Nat := if n ≠ 0 then n else if alg = 0x54 then 24 else 32

/-- Length and hash bytes of check 1 (R118). -/
def symFieldsOk (alg : Byte) (n hm : Nat) : Bool :=
  (if alg = 0x41 then [0, 16, 24, 32].contains n
   else if alg = 0x54 then [0, 16, 24].contains n
   else if alg = 0x48 then n = 0 || (decide (16 ≤ n) && decide (n ≤ 64))
   else true) &&
  (hm = 0 || ([0x11, 0x12, 0x13].contains hm && alg ≠ 0x41 && alg ≠ 0x54))

/-- The attributes that a template gives a new key of the pitch. -/
def newAttr (h : Header) (len p : Nat) : Attr := { use := h.use, alg := h.alg, mode := h.mode, expo := h.expo, len := len, owner := p }

def keyGenerate (r : Run) : Act Ans := do
  let toSlot := r.x.flag 8
  match ← checkForm r.x 1 [(offA, [0, 1, 3]), (offB, [0])] ([(0x40, 16), (0x54, 1), (0x55, 1)] ++ targetField r.x 0x50) with
  | [a, _] =>
    let t := r.x.bytes 0x40 16
    let n := symLength (byteAt t 7) (r.x.byte 0x54)
    let hm := r.x.byte 0x55
    check (templateForm t && (toSlot || a ≠ .none) && targetOk r 0x50 && symFieldsOk (byteAt t 7) (r.x.byte 0x54) hm) stBadField
    noData r
    checkErased [a] true
    let hd := symTemplate t n
    let covers := fun (kb : Key) => match hd with
      | some h => kbpkCovers kb.val.length (newAttr h n r.p)
      | none => false
    let ks ← capture r [⟨a, .data [], isKbpk true⟩] (fun l => hd.isSome && l.all fun k => match k with | some kb => covers kb | none => true)
    match hd with
    | none => refuse stKeyUsage
    | some h =>
      let at' := newAttr h n r.p
      let tag : KeyTag := { hm := if hm = 0 then none else some (BitVec.ofNat 8 (hm - 0x10)) }
      if toSlot then checkTarget r (r.x.num 0x50 4) at'
      checkCap r (8 + match ks with | [some kb] => blockLength kb at' tag n | _ => 0)
      let val ← drawFrom r.drbg n
      let k : Key := { val := val, attr := at', tag := tag, binding := .none }
      let (blk, bind) ← match ks with
        | [some kb] => do
          let b ← writeOut r 8 kb h.expo (byteAt t 14) at' tag val
          pure (b, kb.binding)
        | _ => pure ([], Binding.none)
      unitFaults r true 0
      if toSlot then commitSlot r (r.x.num 0x50 4) k
      let s ← get
      let (hv, s) := cachePlace r.p bind (if blk = [] then val else writtenMac blk) k s
      set s
      pure { result := handleBytes hv ++ blk, inline := inlineOf (kcvDefault at' tag val) }
  | _ => refuse stBadField

/-- KEY_GENERATE_SYM (R118). -/
def execKeyGenerateSym (e : BitVec 17) (env : CmdEnv) (s : State) : Host.Outcome State Fault Refusal :=
  .next (runOp e.toNat 0x0103 env keyGenerate s)

/-! ## KEY_CHECK_VALUE -/

def keyCheckValue (r : Run) : Act Ans := do
  match ← checkForm r.x 0 [(offA, anyType), (offB, [0])] [(0x40, 1)] with
  | [a, _] =>
    let m := r.x.byte 0x40
    check (decide (m ≤ 1)) stBadField
    noData r
    checkErased [a] false
    let k ← captureOne r a (fun _ => true)
    match kcv m k.attr k.tag k.val with
    | none => refuse stBadField
    | some c =>
      unitFaults r true 0
      pure { inline := inlineOf c }
  | _ => refuse stBadField

/-- KEY_CHECK_VALUE (R118, R173). -/
def execKeyCheckValue (e : BitVec 17) (env : CmdEnv) (s : State) : Host.Outcome State Fault Refusal :=
  .next (runOp e.toNat 0x0104 env keyCheckValue s)

/-! ## KEY_TRANSLATE_BLOCK -/

/-- The header under which the new block is written: the template, or the source header where the template is all zeros. -/
def translateHeader (t : Bytes) (b : Block) : Option Header × Byte :=
  if allZero t then (some b.h, b.ctx) else (readHeader t, byteAt t 14)

def keyTranslate (r : Run) : Act Ans := do
  match ← checkForm r.x 0 [(offA, anyType), (offB, anyType)] [(0x40, 16)] with
  | [a, b] =>
    let t := r.x.bytes 0x40 16
    check (allZero t || templateForm t) stBadField
    check (decide (16 ≤ r.x.dataLen) && decide (r.x.dataLen ≤ 2048)) stBadLength
    checkErased [a, b] false
    let (src, dst) ← captureTwo r a b (isKbpk false) (isKbpk true) (fun _ _ => true)
    let raw ← readData r
    match parseBlock raw with
    | none => refuse stKeyBlockAuth
    | some blk =>
      match verifyBlock src.val blk with
      | none => refuse stKeyBlockAuth
      | some (kv, at', tag) =>
        let k : Key := { val := kv, attr := { at' with owner := r.p }, tag := tag, binding := .none,
                         weak := !kbpkCovers src.val.length at' }
        let (h, ctx) := translateHeader t blk
        checkUse r false (fun k => exportable h k.attr && kbpkCovers dst.val.length k.attr && blockFits dst.val k.attr tag kv) k
        checkLife k
        checkAuth r at'
        let expo := match h with
          | some h => h.expo
          | none => 0
        let out ← writeOut r 0 dst expo ctx at' tag kv
        unitFaults r true 0
        modify (countExport r.p at')
        pure { result := out, inline := inlineOf (kcvDefault at' tag kv) }
  | _ => refuse stBadField

/-- KEY_TRANSLATE_BLOCK (R118, R161). -/
def execKeyTranslateBlock (e : BitVec 17) (env : CmdEnv) (s : State) : Host.Outcome State Fault Refusal :=
  .next (runOp e.toNat 0x0105 env keyTranslate s)

/-! ## KEY_CACHE_EVICT -/

/-- An entry invalidated; its sequence stays. -/
def evictEntry (p idx : Nat) (s : State) : State := s.setKbc p idx { seq := (s.kbcEntry p idx).seq }

/-- Every entry of a pitch invalidated (R171). -/
def evictPitch (p : Nat) (s : State) : State :=
  { s with caches := { s.caches with kbc := s.caches.kbc.mapv {} fun k v => if k / 2 ^ 22 = p then { seq := v.seq } else v } }

def keyCacheEvict (r : Run) : Act Ans := do
  match ← checkForm r.x 0 [(offA, [0, 2, 3, 4]), (offB, [0])] [(0x40, 1)] with
  | [a, _] =>
    let scope := r.x.byte 0x40
    check (if scope = 0 then a ≠ .none else scope = 1 && a = .none) stBadField
    noData r
    checkErased [a] (scope = 1)
    match ← captureWith r false [⟨a, r.env.blkA, fun _ => true⟩] (fun _ => true) with
    | [some (_, h)] =>
      match a with
      | .handle _ _ i => do
        unitFaults r false 0
        modify (evictEntry r.p i)
        pure { inline := 1 }
      | _ => do
        unitFaults r true 0
        if h = 0 then pure {}
        else do
          modify (evictEntry r.p (h % 2 ^ 22))
          pure { inline := 1 }
    | _ => do
      unitFaults r false 0
      let s ← get
      set (evictPitch r.p s)
      pure { inline := BitVec.ofNat 64 (s.kbcUse r.p) }
  | _ => refuse stBadField

/-- KEY_CACHE_EVICT (R118, R171). -/
def execKeyCacheEvict (e : BitVec 17) (env : CmdEnv) (s : State) : Host.Outcome State Fault Refusal :=
  .next (runOp e.toNat 0x0106 env keyCacheEvict s)

end Sys2Proof.Machine
end

