-- ==== Sys2Proof/Machine/PublicKey.lean ====
section
/-! DEFINITION. Class 0x08: public-key commands (R125, R265 to R277). -/

namespace Sys2Proof.Machine

/-! ## Engines in service (R260, R276) -/

/-- First region of a kind of engine (R448): big-number 25, lattice 51. -/
def engBase (lattice : Bool) : Nat := if lattice then 51 else 25
def engCount (lattice : Bool) : Nat := if lattice then 8 else 26

def State.engServes (s : State) (lattice : Bool) (k : Nat) : Bool :=
  s.restState (engBase lattice) k = 0 && !s.withdrawn (engBase lattice + k)

/-- A signature that needs a second engine needs two in service (R276). -/
def checkPair (lattice : Bool) : Act PUnit := do
  let s ← get
  check (decide (2 ≤ ((List.range (engCount lattice)).filter fun k => s.engServes lattice k).length)) stHwFault

/-! ## Algorithms (R116, R265, R266) -/

/-- Bytes of a scalar or coordinate of a curve. -/
def curveLen (alg : Nat) : Nat :=
  match alg with
  | 1 => 32
  | 2 => 48
  | 3 => 66
  | 4 => 32
  | 5 => 48
  | 6 => 64
  | 0x10 => 32
  | _ => 57

/-- Signature length: RSA by its modulus in bytes (R266). -/
def sigLen (alg n : Nat) : Nat := if isEcdsa alg then 2 * curveLen alg else if alg = 0x10 then 64 else if alg = 0x11 then 114 else n

/-- A signing or verification key of an algorithm. -/
def sigKey (alg : Nat) (pub : Bool) (k : Key) : Bool :=
  k.attr.use = .s0 && k.attr.mode = (if pub then .v else .s) &&
    (if isRsaSig alg then k.attr.alg = .r
     else k.attr.alg = .e && k.attr.len = (if pub && isEcdsa alg then 2 * curveLen alg + 1 else curveLen alg))

/-- Fields 0x40 to 0x46 of PK_SIGN and PK_VERIFY (R266, R267). -/
def sigFieldsOk (x : Entry) : Bool :=
  let alg := x.byte 0x40
  let h := x.byte 0x41
  let input := x.byte 0x42
  let salt := x.num 0x44 2
  let ctx := x.byte 0x46
  decide (input ≤ 1) &&
  (if isEddsa alg then h = 0 && input = 1 && salt = 0
   else (isEcdsa alg || isRsaSig alg) && decide (1 ≤ h) && decide (h ≤ 6) && ctx = 0
     && (if alg = 0x21 then decide (salt ≤ hashLen h) else salt = 0))

def sigFields : List (Nat × Nat) := [(0x40, 1), (0x41, 1), (0x42, 1), (0x44, 2), (0x46, 1)]

/-- Context, or the salt length in 2 bytes. -/
def sigExtra (x : Entry) (data : Bytes) : Bytes := if isEddsa (x.byte 0x40) then data.take (x.byte 0x46) else toLE 2 (x.num 0x44 2)

/-- What is signed: the EdDSA message, else the digest as given or made (R266). -/
def sigInput (x : Entry) (data : Bytes) : Bytes :=
  let m := data.drop (x.byte 0x46)
  if isEddsa (x.byte 0x40) ∨ x.byte 0x42 = 0 then m else hashOf (x.byte 0x41) m 0

/-- Length rule for context with digest or message (R266, R267). -/
def sigDataOk (x : Entry) (len : Nat) : Bool :=
  decide (x.byte 0x46 ≤ len) && decide (len ≤ 65536) &&
    (isEddsa (x.byte 0x40) || x.byte 0x42 = 1 || len - x.byte 0x46 = hashLen (x.byte 0x41))

/-- The signature is checked on a second engine (R273): EdDSA always, ECDSA and RSA by PIT_CFG.sign_check as it stood at dispatch (R27). -/
def Run.signChecked (r : Run) (alg : Nat) : Bool := isEddsa alg || r.x.signCheck

/-- The random bytes of a signature, none where it takes none. -/
def drawSign (inst alg : Nat) (extra : Bytes) : Act Bytes :=
  if randLen alg extra = 0 then pure [] else drawFrom inst (randLen alg extra)

/-- A signature; HW_FAULT where its operation stops. -/
def makeSign (inst alg hash : Nat) (extra key m : Bytes) : Act Bytes := do
  let rand ← drawSign inst alg extra
  match pkSign alg hash extra key m rand with
  | some sig => pure sig
  | none => refuse stHwFault

/-- Operations above 1,600,000 cycles (R281, R291). -/
def longSign (alg n : Nat) : Bool := isRsaSig alg && decide (384 ≤ n)
def longVerify (alg : Nat) : Bool := alg = 6
def longGenerate (alg : Nat) : Bool := decide (0x20 ≤ alg) || [3, 5, 6].contains alg

/-! ## PK_SIGN -/

/-- The usage counter of a signing key: looked up in the replay filter, then reserved (R245, R424). -/
def useCounter (r : Run) (k : Key) : Act (BitVec 64) := do
  if k.attr.ctrKind = 1 then
    replayAfterCapture r
    let v ← spendCounter r k
    pure (BitVec.ofNat 64 v)
  else pure 0

def pkSignCmd (r : Run) : Act Ans := do
  let x := r.x
  let alg := x.byte 0x40
  match ← checkForm x 0 [(offA, heldType), (offB, [0])] sigFields with
  | [a, _] =>
    check (sigFieldsOk x) stBadField
    check (sigDataOk x x.dataLen) stBadLength
    checkErased [a] false
    let k ← captureOne r a (sigKey alg false)
    let n := sigLen alg (modulusLen k.attr)
    if k.attr.ctrKind = 1 then replayAfterCapture r
    checkCap r n
    let checked := r.signChecked alg
    if checked then checkPair false
    let inl ← useCounter r k
    spent inl do
      let d ← readData r
      unitFaults r false inl
      let m := sigInput x d
      let sig ← makeSign 7 alg (x.byte 0x41) (sigExtra x d) k.val m
      pure { result := sig, inline := inl, engine := 1, check := checked, long := longSign alg n, operand := k.val ++ m ++ sig,
             method := some ⟨alg, x.byte 0x41, sigExtra x d, k.val, m, sig⟩ }
  | _ => refuse stBadField

/-- PK_SIGN (R125, R265 to R267, R273). -/
def execPkSign (e : BitVec 17) (env : CmdEnv) (s : State) : Host.Outcome State Fault Refusal :=
  .next (runOp e.toNat 0x0801 env pkSignCmd s)

/-! ## PK_VERIFY -/

/-- Range checks of a signature (R270). -/
def sigRange (alg : Nat) (pub sig : Bytes) : Option (BitVec 16) :=
  if isEcdsa alg then
    let n := (curve alg).n
    let r := beNat (sig.take (curveLen alg))
    let s := beNat (sig.drop (curveLen alg))
    if r = 0 ∨ n ≤ r ∨ s = 0 ∨ n ≤ s then some stInputRange else none
  else if isEddsa alg then
    let c := edCurve alg
    let y := leNat (sig.take c.len) % 2 ^ (8 * c.len - 1)
    if c.l ≤ leNat (sig.drop c.len) ∨ c.p ≤ y then some stInputRange
    else if (c.decode (sig.take c.len)).isNone then some stPointInvalid else none
  else
    let s := beNat sig
    if s = 0 ∨ beNat (pub.take sig.length) ≤ s then some stInputRange else none

def pkVerifyCmd (r : Run) : Act Ans := do
  let x := r.x
  let alg := x.byte 0x40
  let sl := x.num 0x48 2
  match ← checkForm x 0 [(offA, anyType), (offB, [0])] (sigFields ++ [(0x48, 2)]) with
  | [a, _] =>
    check (sigFieldsOk x) stBadField
    check (decide (sl ≤ x.dataLen) && sigDataOk x (x.dataLen - sl) && (isRsaSig alg || sl = sigLen alg 0)) stBadLength
    if isRsaSig alg then checkModulus r a sl
    checkErased [a] false
    let k ← captureOne r a (sigKey alg true)
    let d ← readData r
    unitFaults r false 0
    let sig := d.drop (x.dataLen - sl)
    let m := d.take (x.dataLen - sl)
    match sigRange alg k.val sig with
    | some st => refuse st
    | none =>
      let ok := pkVerify alg (x.byte 0x41) (sigExtra x m) k.val (sigInput x m) sig
      pure { status := if ok then 0 else stSignatureInvalid, inline := if ok then 1 else 0, engine := 1, long := longVerify alg,
             operand := k.val ++ sigInput x m ++ sig }
  | _ => refuse stBadField

/-- PK_VERIFY (R125, R270). -/
def execPkVerify (e : BitVec 17) (env : CmdEnv) (s : State) : Host.Outcome State Fault Refusal :=
  .next (runOp e.toNat 0x0802 env pkVerifyCmd s)

/-! ## PK_AGREE (R268, R270) -/

/-- The checks of an ECDH point: the status of a bad one. -/
def pointCheck (alg : Nat) (pt : Bytes) : Option (BitVec 16) :=
  let c := curve alg
  if byteAt pt 0 = 0 ∨ c.p ≤ beNat (slice pt 1 c.len) ∨ c.p ≤ beNat (slice pt (1 + c.len) c.len) then some stInputRange
  else if (c.decode pt).isNone then some stPointInvalid
  else none

/-- An ECDH private key of a curve. -/
def agreeKey (alg : Nat) (k : Key) : Bool :=
  k.attr.use = .k3 && k.attr.alg = .e && k.attr.mode = .x && k.attr.len = curveLen alg

def targetSlot (r : Run) (off : Nat) : Option (BitVec 18) := if r.x.flag 8 then some (BitVec.ofNat 18 (r.x.num off 4)) else none

/-- Check 12 where to_slot is 1. -/
def checkSlot (r : Run) (off : Nat) (a : Attr) : Act PUnit := if r.x.flag 8 then checkTarget r (r.x.num off 4) a else pure ()

/-- Key length that a template's algorithm derives (R268). -/
def agreeLen (alg : Byte) : Nat := if alg = 0x54 then 24 else 32

def pkAgreeCmd (r : Run) : Act Ans := do
  let x := r.x
  let c := x.byte 0x40
  let t := x.bytes 0x50 16
  match ← checkForm x 1 [(offA, anyType), (offB, [0])] ([(0x40, 1), (0x41, 1), (0x42, 1), (0x50, 16)] ++ targetField x 0x44) with
  | [a, _] =>
    check (isEcdsa c && (x.byte 0x41 = 0x21 || x.byte 0x41 = 0x22) && templateForm t && targetOk r 0x44) stBadField
    let pl := 2 * curveLen c + 1
    check (x.dataLen = pl + x.byte 0x42) stBadLength
    checkErased [a] true
    let len := agreeLen (byteAt t 7)
    let hd := symTemplate t len
    let k ← captureOne r a (fun k => agreeKey c k && hd.isSome)
    match hd with
    | none => refuse stKeyUsage
    | some h =>
      let at' := newAttr h len r.p
      checkSlot r 0x44 at'
      checkCap r 8
      let d ← readData r
      unitFaults r false 0
      match pointCheck c (d.take pl) with
      | some st => refuse st
      | none =>
        let z := (curve c).dh (beNat k.val) (d.take pl)
        let v := agreeKdf (x.byte 0x41) z (d.drop pl) len
        pure { inline := inlineOf (kcvDefault at' {} v), engine := 1, long := decide (c = 6), operand := k.val ++ d.take pl ++ z,
               gen := some { slot := targetSlot r 0x44, key := v, attrs := at'.pack, mac := v } }
  | _ => refuse stBadField

/-- PK_AGREE (R125, R268, R270). -/
def execPkAgree (e : BitVec 17) (env : CmdEnv) (s : State) : Host.Outcome State Fault Refusal :=
  .next (runOp e.toNat 0x0803 env pkAgreeCmd s)

/-! ## RSA_DECRYPT (R269) -/

/-- The modulus of a private stored form, which begins with p and q. -/
def privateModulus (k : Bytes) (n : Nat) : Nat := beNat (k.take (n / 2)) * beNat (slice k (n / 2) (n / 2))

def rsaDecryptCmd (r : Run) : Act Ans := do
  let x := r.x
  let out := x.byte 0x42
  let t := x.bytes 0x50 16
  let hc := x.byte 0x41
  match ← checkForm x 0 [(offA, anyType), (offB, [0])]
      ([(0x40, 1), (0x41, 1), (0x42, 1), (0x44, 1)] ++ if out = 1 then [(0x50, 16)] else []) with
  | [a, _] =>
    check (x.byte 0x40 = 0x22 && decide (1 ≤ hc) && decide (hc ≤ 6) && decide (out ≤ 1) && (out = 0 || templateForm t)) stBadField
    check (decide (x.byte 0x44 ≤ x.dataLen)) stBadLength
    checkModulus r a (x.dataLen - x.byte 0x44)
    checkErased [a] (out = 1)
    let k ← captureOne r a fun k => k.attr.use = .k2 && k.attr.mode = .d && out = 1
    let n := modulusLen k.attr
    checkCap r 8
    let d ← readData r
    unitFaults r false 0
    let c := beNat (d.take n)
    check (c ≠ 0 && decide (c < privateModulus k.val n)) stInputRange
    match oaepDecrypt hc (8 * n) (d.drop n) k.val (d.take n) with
    | none => refuse stKeyBlockAuth
    | some v =>
      match symTemplate t v.length with
      | none => refuse stKeyUsage
      | some h =>
        let at' := newAttr h v.length r.p
        pure { inline := inlineOf (kcvDefault at' {} v), engine := 1, long := decide (384 ≤ n), operand := k.val ++ d ++ v,
               gen := some { key := v, attrs := at'.pack, mac := v } }
  | _ => refuse stBadField

/-- RSA_DECRYPT (R125, R269). -/
def execRsaDecrypt (e : BitVec 17) (env : CmdEnv) (s : State) : Host.Outcome State Fault Refusal :=
  .next (runOp e.toNat 0x0804 env rsaDecryptCmd s)

/-! ## PK_GENERATE (R277, R278) -/

/-- A key made over instance 7 (R277, R288). -/
def generateKey (alg bits e : Nat) : Act (Option Bytes) := do
  let s ← get
  check ((s.drbg 7).state ≠ 2) stHwFault
  let (k, d) := pkGenerate alg bits e (s.drbg 7)
  set (drbgLimit 7 (s.updDrbg 7 fun _ => d))
  pure k

/-- Length of the stored form of a generated private key. -/
def genLen (alg bits : Nat) : Nat :=
  if isRsa alg then (if bits ≤ 6144 then 5 * (bits / 16) + 4 else 2 * (bits / 16) + 4) else curveLen alg

/-- Length of its public key. -/
def genPublicLen (alg bits : Nat) : Nat := if isRsa alg then bits / 8 + 4 else if isEddsa alg then curveLen alg else 2 * curveLen alg + 1

/-- The template of a private key of the algorithm (R156). -/
def genTemplate (t : Bytes) (alg bits : Nat) : Option Header :=
  match readHeader t with
  | none => none
  | some h =>
    let len := genLen alg bits
    if rowOk h.use h.alg h.mode && h.alg = (if isRsa alg then .r else .e) && !isPublic h.use h.alg h.mode len
        && (h.mode ≠ .e) && (h.use ≠ .k3 || isEcdsa alg) && lenOk h.use h.alg h.mode len then some h else none

def pkGenerateCmd (r : Run) : Act Ans := do
  let x := r.x
  let alg := x.byte 0x40
  let rsa := isRsa alg
  let bits := x.num 0x42 2
  let t := x.bytes 0x50 16
  let e0 := x.num 0x44 4
  let ex := if e0 = 0 then 65537 else e0
  match ← checkForm x 1 [(offA, [0]), (offB, 0 :: anyType)]
      ([(0x40, 1), (0x50, 16)] ++ (if rsa then [(0x42, 2), (0x44, 4)] else []) ++ targetField x 0x48) with
  | [_, b] =>
    check ((isEcdsa alg || isEddsa alg || (rsa && decide (2048 ≤ bits) && decide (bits ≤ 8192) && bits % 1024 = 0
      && ex % 2 = 1 && decide (65537 ≤ ex))) && templateForm t && targetOk r 0x48) stBadField
    noData r
    checkErased [b] true
    let hd := genTemplate t alg bits
    let len := genLen alg bits
    let covers := fun (kb : Key) => match hd with
      | some h => let a := newAttr h len r.p; kbpkCovers kb.val.length a && blockFits kb.val a {} (zeros len)
      | none => false
    let ks ← capture r [⟨b, r.env.blkB, isKbpk true⟩]
      (fun l => hd.isSome && l.all fun k => match k with | some kb => covers kb | none => true)
    match hd with
    | none => refuse stKeyUsage
    | some h =>
      let at' := newAttr h len r.p
      checkSlot r 0x48 at'
      let pl := genPublicLen alg bits
      checkCap r (8 + pl + match ks with | [some kb] => blockLength kb at' {} len | _ => 0)
      checkPair false
      unitFaults r false 0
      match ← generateKey alg bits ex with
      | none =>
        modify (tally 0x0504 (toLE 2 r.p ++ x.bytes 4 4 ++ toLE 2 bits))
        refuse stHwFault
      | some k =>
        let (blk, bind) ← match ks with
          | [some kb] => do
            let o ← writeOut r (8 + pl) kb h.expo (byteAt t 14) at' {} k
            pure (o, kb.binding)
          | _ => pure ([], Binding.none)
        pure { result := pkPublic alg k ++ blk, operand := k, engine := 1, check := true, long := longGenerate alg,
               gen := some { slot := targetSlot r 0x48, key := k, attrs := at'.pack, binding := bind,
                             mac := if blk = [] then k else writtenMac blk } }
  | _ => refuse stBadField

/-- PK_GENERATE (R125, R277, R278). -/
def execPkGenerate (e : BitVec 17) (env : CmdEnv) (s : State) : Host.Outcome State Fault Refusal :=
  .next (runOp e.toNat 0x0805 env pkGenerateCmd s)

end Sys2Proof.Machine
end

