-- ==== Sys2Proof/Machine/Lattice.lean ====
section
/-! DEFINITION. Classes 0x09 and 0x0A: ML-KEM and ML-DSA commands and remote key loading (R126, R174 to R177, R279, R282 to R285). -/

namespace Sys2Proof.Machine

/-! ## ML-KEM (R282, R283) -/

def kemKeyLen (set : Nat) : Nat := if set = 1 then 800 else if set = 2 then 1184 else 1568
def kemCtLen (set : Nat) : Nat := if set = 1 then 768 else if set = 2 then 1088 else 1568

/-- The header of a shared key: an AES-256 key (R282). -/
def kemTemplate (t : Bytes) : Option Header :=
  match symTemplate t 32 with
  | some h => if h.alg = .a then some h else none
  | none => none

def kemFields (x : Entry) : List (Nat × Nat) := [(0x40, 1), (0x50, 16)] ++ targetField x 0x44

def kemFieldsOk (r : Run) : Bool :=
  decide (1 ≤ r.x.byte 0x40) && decide (r.x.byte 0x40 ≤ 3) && templateForm (r.x.bytes 0x50 16) && targetOk r 0x44

/-- The shared key as the engine makes it. -/
def kemNew (r : Run) (h : Header) (k : Bytes) : NewKey :=
  { slot := targetSlot r 0x44, key := k, attrs := (newAttr h 32 r.p).pack, mac := k, inInline := true }

def kemEncapsCmd (r : Run) : Act Ans := do
  let x := r.x
  let set := x.byte 0x40
  match ← checkForm x 1 [(offA, anyType), (offB, [0])] (kemFields x) with
  | [a, _] =>
    check (kemFieldsOk r) stBadField
    noData r
    checkErased [a] true
    let hd := kemTemplate (x.bytes 0x50 16)
    let k ← captureOne r a fun k => k.attr.use = .u92 && k.attr.mode = .e && k.attr.len = kemKeyLen set && hd.isSome
    match hd with
    | none => refuse stKeyUsage
    | some h =>
      checkSlot r 0x44 (newAttr h 32 r.p)
      checkCap r (kemCtLen set)
      unitFaults r false 0
      check (kemModulusOk k.val) stInputRange
      let m ← drawFrom 8 32
      let (c, z) := kemEncaps set k.val m
      pure { result := c, engine := 2, operand := k.val ++ m ++ z ++ c, gen := some (kemNew r h z) }
  | _ => refuse stBadField

/-- KEM_ENCAPS (R126, R282). -/
def execKemEncaps (e : BitVec 17) (env : CmdEnv) (s : State) : Host.Outcome State Fault Refusal :=
  .next (runOp e.toNat 0x0901 env kemEncapsCmd s)

def kemDecapsCmd (r : Run) : Act Ans := do
  let x := r.x
  let set := x.byte 0x40
  match ← checkForm x 1 [(offA, heldType), (offB, [0])] (kemFields x) with
  | [a, _] =>
    check (kemFieldsOk r) stBadField
    check (x.dataLen = kemCtLen set) stBadLength
    checkErased [a] true
    let hd := kemTemplate (x.bytes 0x50 16)
    let k ← captureOne r a fun k => k.attr.use = .u92 && k.attr.mode = .d && hd.isSome
    match hd with
    | none => refuse stKeyUsage
    | some h =>
      checkSlot r 0x44 (newAttr h 32 r.p)
      let d ← readData r
      unitFaults r false 0
      let z := kemDecaps set k.val d
      pure { engine := 2, operand := k.val ++ d ++ z, gen := some (kemNew r h z) }
  | _ => refuse stBadField

/-- KEM_DECAPS (R126, R282, R283). -/
def execKemDecaps (e : BitVec 17) (env : CmdEnv) (s : State) : Host.Outcome State Fault Refusal :=
  .next (runOp e.toNat 0x0902 env kemDecapsCmd s)

/-! ## ML-DSA (R266, R267, R284, R285) -/

def dsaSigLen (set : Nat) : Nat := if set = 1 then 2420 else if set = 2 then 3309 else 4627
def dsaKeyLen (set : Nat) : Nat := if set = 1 then 1312 else 1952

/-- Digest length of HashML-DSA (R266). -/
def dsaHashLen (h : Nat) : Nat := if h = 7 then 32 else if h = 8 then 64 else hashLen h

def dsaFieldsOk (x : Entry) : Bool :=
  decide (1 ≤ x.byte 0x40) && decide (x.byte 0x40 ≤ 3) && decide (x.byte 0x41 ≤ 8) && decide (x.byte 0x42 ≤ 1)

/-- Context with message, or with the digest where a hash is named (R266, R267). -/
def dsaDataOk (x : Entry) (len : Nat) : Bool :=
  decide (x.byte 0x44 ≤ len) && decide (len ≤ 65536) && (x.byte 0x41 = 0 || len - x.byte 0x44 = dsaHashLen (x.byte 0x41))

def dsaFields : List (Nat × Nat) := [(0x40, 1), (0x41, 1), (0x42, 1), (0x44, 1)]

def pqSignCmd (r : Run) : Act Ans := do
  let x := r.x
  let set := x.byte 0x40
  match ← checkForm x 0 [(offA, anyType), (offB, [0])] dsaFields with
  | [a, _] =>
    check (dsaFieldsOk x) stBadField
    check (dsaDataOk x x.dataLen) stBadLength
    checkErased [a] false
    let k ← captureOne r a fun k => k.attr.use = .u93 && k.attr.mode = .s
    if k.attr.ctrKind = 1 then replayAfterCapture r
    checkCap r (dsaSigLen set)
    checkPair true
    let inl ← useCounter r k
    spent inl do
      let d ← readData r
      unitFaults r false inl
      let rnd ← if x.byte 0x42 = 0 then drawFrom 8 32 else pure (zeros 32)
      let ctx := d.take (x.byte 0x44)
      let m := d.drop (x.byte 0x44)
      let (sig, i) := dsaRun set (x.byte 0x41) ctx k.val m rnd
      pure { status := if sig.isSome then 0 else stHwFault, result := sig.getD [], inline := inl, engine := 2, check := true,
             long := decide (1600000 < dsaCycles set i), operand := k.val ++ m ++ sig.getD [],
             method := some ⟨0x30 + set, x.byte 0x41, ctx, k.val, m, sig.getD []⟩ }
  | _ => refuse stBadField

/-- PQ_SIGN (R126, R266, R273, R284). -/
def execPqSign (e : BitVec 17) (env : CmdEnv) (s : State) : Host.Outcome State Fault Refusal :=
  .next (runOp e.toNat 0x0903 env pqSignCmd s)

/-- Set 3 names no key that a reference can carry: block verification fails (R285). -/
def noSetThree (r : Run) (a : Ref) : Act PUnit := do
  checkRange r a r.env.blkA
  checkOwned r a
  let _ ← checkFound r false a r.env.blkA
  refuse stKeyBlockAuth

def pqVerifyCmd (r : Run) : Act Ans := do
  let x := r.x
  let set := x.byte 0x40
  let sl := x.num 0x48 2
  match ← checkForm x 0 [(offA, anyType), (offB, [0])] (dsaFields ++ [(0x48, 2)]) with
  | [a, _] =>
    check (dsaFieldsOk x) stBadField
    check (sl = dsaSigLen set && decide (sl ≤ x.dataLen) && dsaDataOk x (x.dataLen - sl)) stBadLength
    checkErased [a] false
    if set = 3 then noSetThree r a
    let k ← captureOne r a fun k => k.attr.use = .u93 && k.attr.mode = .v && k.attr.len = dsaKeyLen set
    let d ← readData r
    unitFaults r false 0
    let m := d.take (x.dataLen - sl)
    let sig := d.drop (x.dataLen - sl)
    let ok := pkVerify (0x30 + set) (x.byte 0x41) (m.take (x.byte 0x44)) k.val (m.drop (x.byte 0x44)) sig
    pure { status := if ok then 0 else stSignatureInvalid, inline := if ok then 1 else 0, engine := 2, operand := k.val ++ m ++ sig }
  | _ => refuse stBadField

/-- PQ_VERIFY (R126, R266, R285). -/
def execPqVerify (e : BitVec 17) (env : CmdEnv) (s : State) : Host.Outcome State Fault Refusal :=
  .next (runOp e.toNat 0x0904 env pqVerifyCmd s)

/-! ## Remote key loading (R174 to R177) -/

/-- A fingerprint: 16 bytes of SHA-384 over a public-key encoding (R174). -/
def keyPrint (b : Bytes) : Bytes := (sha384 b).take 16

/-- The transport KBPK (R175). -/
def transportKbpk (z head : Bytes) : Bytes := kdf z (sha384 head) 32 "KN-TKM-KBPK"

/-- Signature algorithm of a transport message for a key of usage S0 or 93 (R174): its code, its algorithm code, the signature length.
ML-DSA-65 keys are of usage 93, or S0 with algorithm 9 (R156); a public key of another length is of another set. -/
def transportSig (a : Attr) : Option (Nat × Nat × Nat) :=
  if a.alg = .l then (if a.len = 32 ∨ a.len = 1952 then some (2, 0x32, 3309) else none)
  else if a.alg = .r then some (3, 0x21, modulusLen a)
  else if a.len = 48 ∨ a.len = 97 then some (1, 2, 96)
  else none

/-- A transport message signed or checked: SHA-384 and a salt of 48 bytes for RSA-PSS, the message itself for ML-DSA. -/
def transportInput (code : Nat) (m : Bytes) : Nat × Bytes × Bytes :=
  if code = 2 then (0, [], m) else (2, (if code = 3 then toLE 2 48 else toLE 2 0), sha384 m)

/-- A public recipient key of a profile (R176). -/
def recipientKey (profile : Nat) (k : Key) : Bool :=
  if profile = 1 then k.attr.use = .k2 && k.attr.mode = .e
  else if profile = 2 then k.attr.use = .k3 && k.attr.len = 97
  else k.attr.use = .u92 && k.attr.mode = .e && k.attr.len = 1184

/-- A receiving private key of a profile (R126). -/
def receivingKey (profile : Nat) (k : Key) : Bool :=
  if profile = 1 then k.attr.use = .k2 && k.attr.mode = .d
  else if profile = 2 then k.attr.use = .k3 && k.attr.len = 48
  else k.attr.use = .u92 && k.attr.mode = .d

/-- E of a profile (R174). -/
def encLen (profile : Nat) (a : Attr) : Nat := if profile = 1 then modulusLen a else if profile = 2 then 97 else 1185

def profileOk (p : Nat) : Bool := p = 1 || p = 2 || p = 3

/-- A signing key of a profile (R176). -/
def sendSigner (profile : Nat) (k : Key) : Bool :=
  (k.attr.use = .s0 || k.attr.use = .u93) && k.attr.mode = .s && (transportSig k.attr).isSome && (profile ≠ 3 || k.attr.alg = .l)

/-- The encapsulation and Z that a sender makes (R174, R175): the ephemeral scalar, the OAEP secret, and the random input of the
encapsulation come from the DRBGs. -/
def encapsulate (profile : Nat) (rcpt : Key) (pt : Bytes) : Act (Bytes × Bytes) := do
  if profile = 1 then
    let z ← drawFrom 7 32
    let seed ← drawFrom 7 48
    pure (oaepEncrypt 2 (8 * modulusLen rcpt.attr) [] rcpt.val z seed, z)
  else
    let d := (curve 2).scalar (← drawFrom 7 (curve 2).scalarLen)
    let eph := pkPublic 2 (toBE 48 d)
    let zec := (curve 2).dh d pt
    if profile = 2 then pure (eph, zec)
    else
      let m ← drawFrom 8 32
      let (c, z) := kemEncaps 2 rcpt.val m
      pure (c ++ eph, z ++ zec)

/-- The first 64 bytes of a transport message. -/
def transportHead (profile code e k s : Nat) (nonce rp sp : Bytes) : Bytes :=
  [1, BitVec.ofNat 8 profile, BitVec.ofNat 8 code, 0] ++ toLE 2 e ++ toLE 2 k ++ toLE 2 s ++ zeros 6 ++ nonce ++ rp ++ sp

def offC : Nat := 0x48
def offD : Nat := 0x50

/-- The keys of REMOTE_KEY_SEND and what is asked of each (R161, R176). -/
def sendWants (r : Run) (profile : Nat) (refs : List Ref) : List Want :=
  match refs with
  | a :: b :: c :: l =>
    [⟨a, r.env.blkA, fun k => k.attr.expo ≠ 0⟩, ⟨b, r.env.blkB, recipientKey profile⟩, ⟨c, r.env.blkC, sendSigner profile⟩] ++
      l.map fun d => ⟨d, r.env.blkD, recipientKey 2⟩
  | _ => []

/-- The message of REMOTE_KEY_SEND. `pt` is the recipient's P-384 point, empty in profile 1. -/
def sendMessage (r : Run) (profile : Nat) (k rcpt signer : Key) (pt : Bytes) : Act Ans := do
  match transportSig signer.attr with
  | none => refuse stKeyUsage
  | some (code, alg, sl) =>
    let e := encLen profile rcpt.attr
    let kl := blockLength { k with val := zeros 32 } k.attr k.tag k.attr.len
    checkAuth r k.attr
    checkCap r (64 + e + kl + sl)
    let checked := code = 2 || r.x.signCheck
    if checked then checkPair (code = 2)
    unitFaults r false 0
    if profile = 3 then check (kemModulusOk rcpt.val) stInputRange
    let nonce ← drawFrom r.drbg 16
    let (enc, z) ← encapsulate profile rcpt pt
    let rp := keyPrint (if profile = 3 then rcpt.val ++ pt else rcpt.val)
    let sp := keyPrint (pkPublic alg signer.val)
    let head := transportHead profile code e kl sl nonce rp sp ++ enc
    let kb : Key := { val := transportKbpk z head, attr := k.attr, tag := {}, binding := .none }
    let blk ← writeOut r (64 + e + sl) kb 0 (KeyTag.context k.tag) k.attr k.tag k.val
    let (h, extra, m) := transportInput code (head ++ blk)
    let sig ← makeSign (if code = 2 then 8 else 7) alg h extra signer.val m
    modify (countExport r.p k.attr)
    pure { result := head ++ blk ++ sig, operand := signer.val ++ m ++ sig, method := some ⟨alg, h, extra, signer.val, m, sig⟩,
           inline := inlineOf (kcvDefault k.attr k.tag k.val), engine := if code = 2 then 2 else 1, check := checked,
           long := decide (code = 3) && longSign 0x21 sl }

def remoteSendCmd (r : Run) : Act Ans := do
  let x := r.x
  let profile := x.byte 0x40
  let refs ← checkForm x 0 ([(offA, anyType), (offB, anyType), (offC, anyType)] ++ if profile = 3 then [(offD, anyType)] else [])
    ([(0x40, 1), (0x48, 8)] ++ if profile = 3 then [(0x50, 8)] else [])
  check (profileOk profile) stBadField
  noData r
  checkErased refs false
  match ← capture r (sendWants r profile refs) (fun _ => true) with
  | [some k, some rcpt, some signer] => sendMessage r profile k rcpt signer (if profile = 2 then rcpt.val else [])
  | [some k, some rcpt, some signer, some pt] => sendMessage r profile k rcpt signer pt.val
  | _ => refuse stKeyNotFound

/-- REMOTE_KEY_SEND (R126, R174 to R176, R273). -/
def execRemoteKeySend (e : BitVec 17) (env : CmdEnv) (s : State) : Host.Outcome State Fault Refusal :=
  .next (runOp e.toNat 0x0A02 env remoteSendCmd s)

/-- The public encoding that a recipient fingerprint covers (R174). -/
def recipientEncoding (profile : Nat) (k : Key) (ec : Option Key) : Bytes :=
  if profile = 1 then pkPublic 0x22 k.val
  else if profile = 2 then pkPublic 2 k.val
  else kemPublic 2 k.val ++ match ec with
    | some e => pkPublic 2 e.val
    | none => []

/-- The signature algorithm of a message matches the sender's verification key, and the signature verifies (checks 4 and 5). -/
def transportVerified (m : Bytes) (sender : Key) (e k : Nat) : Bool :=
  match transportSig sender.attr with
  | none => false
  | some (code, alg, sl) =>
    let sig := m.drop (64 + e + k)
    let (h, extra, i) := transportInput code (m.take (64 + e + k))
    slice m 0x30 16 = keyPrint sender.val && (byteAt m 2).toNat = code && sig.length = sl
      && pkVerify alg h extra sender.val i sig

/-- Z of the receiver, or the status that stops it (checks 6 and 7). -/
def receiverZ (profile : Nat) (k : Key) (ec : Option Key) (enc : Bytes) : BitVec 16 ⊕ Bytes :=
  if profile = 1 then
    let c := beNat enc
    if c = 0 ∨ privateModulus k.val (modulusLen k.attr) ≤ c then .inl stInputRange
    else match oaepDecrypt 2 (8 * modulusLen k.attr) [] k.val enc with
      | some z => if z.length = 32 then .inr z else .inl stKeyBlockAuth
      | none => .inl stKeyBlockAuth
  else
    let pt := enc.drop (enc.length - 97)
    match pointCheck 2 pt with
    | some st => .inl st
    | none =>
      if profile = 2 then .inr ((curve 2).dh (beNat k.val) pt)
      else .inr (kemDecaps 2 k.val (enc.take 1088) ++
        match ec with
        | some e => (curve 2).dh (beNat e.val) pt
        | none => [])

/-- Checks 8 and 9 of R177: the key that the message carries. -/
def receivedKey (r : Run) (kbpk raw : Bytes) : Act Key := do
  match (parseBlock raw).bind (verifyBlock kbpk) with
  | none => refuse stKeyBlockAuth
  | some (v, a, tag) =>
    let k : Key := { val := v, attr := { a with owner := r.p }, tag := tag, binding := .none }
    checkUse r (r.x.flag 8) (fun _ => true) k
    if r.x.flag 8 then
      check (slotsFree (← get) (r.x.num 0x44 4) k.attr) stBadField
    pure k

/-- The checks of R177 over a message. -/
def receiveMessage (r : Run) (profile : Nat) (k sender : Key) (ec : Option Key) : Act Ans := do
  let x := r.x
  if x.flag 8 then
    let s ← get
    check (s.blockOwner (x.num 0x44 4 / 64) = some r.p) stKeyPitch
    check (slotEmpty s (x.num 0x44 4)) stBadField
  checkCap r 8
  let m ← readData r
  unitFaults r false 0
  let e := fieldLE m 4 2
  let kl := fieldLE m 6 2
  check (x.dataLen = 64 + e + kl + fieldLE m 8 2 && e = encLen profile k.attr) stBadLength
  check (byteAt m 0 = 1 && (byteAt m 1).toNat = profile && byteAt m 3 = 0 && allZero (slice m 0x0A 6)) stBadField
  check (slice m 0x20 16 = keyPrint (recipientEncoding profile k ec)) stBadField
  check (transportVerified m sender e kl) stSignatureInvalid
  match receiverZ profile k ec (slice m 64 e) with
  | .inl st => refuse st
  | .inr z =>
    let raw := slice m (64 + e) kl
    let got ← receivedKey r (transportKbpk z (m.take (64 + e))) raw
    pure { inline := inlineOf (kcvDefault got.attr got.tag got.val), engine := if profile = 3 then 2 else 1,
           long := decide (profile = 1) && decide (384 ≤ e),
           gen := some { slot := targetSlot r 0x44, key := got.val, attrs := got.attr.pack, tag := got.tag, mac := writtenMac raw },
           operand := k.val ++ slice m 64 e ++ z }

/-- The keys of REMOTE_KEY_RECEIVE and what is asked of each (R126). -/
def receiveWants (r : Run) (profile : Nat) (refs : List Ref) : List Want :=
  match refs with
  | a :: b :: l =>
    [⟨a, r.env.blkA, receivingKey profile⟩,
     ⟨b, r.env.blkB, fun k => (k.attr.use = .s0 || k.attr.use = .u93) && k.attr.mode = .v⟩] ++
      l.map fun c => ⟨c, r.env.blkC, receivingKey 2⟩
  | _ => []

def remoteReceiveCmd (r : Run) : Act Ans := do
  let x := r.x
  let profile := x.byte 0x40
  let refs ← checkForm x 1 ([(offA, anyType), (offB, anyType)] ++ if profile = 3 then [(offC, anyType)] else [])
    ([(0x40, 1)] ++ (if profile = 3 then [(0x48, 8)] else []) ++ targetField x 0x44)
  check (profileOk profile && targetOk r 0x44) stBadField
  check (decide (64 ≤ x.dataLen) && decide (x.dataLen ≤ 8192)) stBadLength
  checkErased refs true
  match ← capture r (receiveWants r profile refs) (fun _ => true) with
  | [some k, some v] => receiveMessage r profile k v none
  | [some k, some v, some ec] => receiveMessage r profile k v (some ec)
  | _ => refuse stKeyNotFound

/-- REMOTE_KEY_RECEIVE (R126, R174, R175, R177). -/
def execRemoteKeyReceive (e : BitVec 17) (env : CmdEnv) (s : State) : Host.Outcome State Fault Refusal :=
  .next (runOp e.toNat 0x0A01 env remoteReceiveCmd s)

end Sys2Proof.Machine
end

