-- ==== Sys2Proof/Machine/Engines.lean ====
section
/-! DEFINITION. Engine requests and operations (R261 to R264, R275, R277, R280, R281). `lattice` selects the kind: the 26 big-number
engines or the 8 lattice engines. -/

namespace Sys2Proof.Machine

/-! ## Engines by number -/

def State.engine (s : State) (lattice : Bool) (k : Nat) : FuncUnit := if lattice then s.units.ltc.get {} k else s.units.pke.get {} k

def State.updEngine (s : State) (lattice : Bool) (k : Nat) (f : FuncUnit → FuncUnit) : State :=
  if lattice then { s with units := { s.units with ltc := s.units.ltc.upd {} k f } }
  else { s with units := { s.units with pke := s.units.pke.upd {} k f } }

/-- The event of an engine: that of its position, which a spare takes over from the engine it replaces (R470). -/
def State.engEvent (s : State) (lattice : Bool) (k : Nat) : Nat :=
  if lattice then 184 + k
  else if k < 24 then 160 + k
  else
    let gone := s.bst.retired.filter fun r => decide (25 ≤ r) && decide (r < 49)
    160 + (gone.getD (k - 24 - s.retiredIn 49 (k - 24)) 25 - 25)

/-- A free engine in service. -/
def State.engFree (s : State) (lattice : Bool) (k : Nat) : Bool := s.engServes lattice k && (s.engine lattice k).state = 0

/-- An engine is free; its operand memory keeps what the last operation left there (R264). -/
def engRelease (lattice : Bool) (k : Nat) (s : State) : State := s.updEngine lattice k fun u => { operand := u.operand }

/-! ## Grants (R261, R281) -/

/-- `b` goes ahead of the earlier `a`. -/
def ahead (a b : EngReq) : Bool := (b.check.isSome && a.check.isNone) || (b.check.isSome = a.check.isSome && decide (a.prio < b.prio))

def bestReq : List EngReq → Option EngReq
  | [] => none
  | r :: l => some (l.foldl (fun a b => if ahead a b then b else a) r)

/-- The kind of engine that a command's operation needs, as Prepared.engine has it. -/
def engKind (lattice : Bool) : Nat := if lattice then 2 else 1

/-- The operation fills the long-operation register (R281): an RSA key generation, or a long operation that was handed over. -/
def fillsLong (x : Entry) (r : EngReq) : Bool :=
  match x.prepared with
  | none => false
  | some d => d.engine = engKind r.lattice && d.long && (r.handover || (x.opcode = 0x0805 && isRsa (x.byte 0x40)))

/-- What an operation leaves in operand memory (R263): its operands and its result; of one whose operands the model does not hold, what
stood there. -/
def operandsOf (x : Entry) (u : FuncUnit) : Bytes :=
  match x.prepared with
  | none => u.operand
  | some d => if d.operand = [] then u.operand else d.operand

/-- An engine takes a request. -/
def grant (k : Nat) (r : EngReq) (s : State) : State :=
  let s := { s with units := { s.units with reqs := s.units.reqs.erase r } }
  match s.entry r.entry with
  | none => s
  | some x =>
    let long := r.check.isNone && fillsLong x r
    s.updEngine r.lattice k fun u =>
      { state := if r.check.isSome then 2 else 1, pitch := x.pitch, entry := some r.entry, checks := r.check, core := r.core,
        handover := r.handover, operand := operandsOf x u,
        longValid := long, longPitch := if long then x.pitch else 0, longOpcode := if long then BitVec.ofNat 16 x.opcode else 0,
        longTag := if long then BitVec.ofNat 32 (x.num 4 4) else 0 }

/-- Engines are not granted: Quiet state (R440), erase (R308), hand-over (R422), no start complete. Under a HOLD commands that
execute still get them (R356). -/
def State.enginesStopped (s : State) : Bool := s.pwr.quiet || s.erasing || s.par.yieldStep ≠ 0 || !s.glb.startDone

/-- Free engines of a kind take waiting requests. `fuel` counts the engines. -/
def grantAll (lattice : Bool) : Nat → State → State
  | 0, s => s
  | fuel + 1, s =>
    if s.enginesStopped then s
    else
      match (List.range (engCount lattice)).find? (s.engFree lattice), bestReq (s.units.reqs.filter fun r => r.lattice = lattice) with
      | some k, some r => grantAll lattice fuel (grant k r s)
      | _, _ => s

def serveEngines (s : State) : State := grantAll true 8 (grantAll false 26 s)

/-- Dispatch, context and engine grants resume (R357, R440, R446). -/
def resumeService (s : State) : State := serveEngines (serveContexts (serveBlocked s))

/-! ## ENGINE_REQUEST -/

/-- Requests and operations that a core has outstanding. -/
def State.outstandingOf (s : State) (c : BitVec 5) : Nat :=
  (s.units.reqs.filter fun r => r.core = some c).length + (s.units.pke.filter fun u => u.2.core = some c).length
    + (s.units.ltc.filter fun u => u.2.core = some c).length

/-- A request that a core makes without a bound command is refused with KEY_PITCH, and raises the event of its access faults (R57, R470). -/
def coreRefused (core : BitVec 5) (s : State) : State :=
  raise (504 + (core.toNat + 1) % 40) (s.emit (.coreRefused core stKeyPitch))

/-- A request of a core (R57, R261, R262): for its command's operation, or for another operation on the way to it. Only the last one can be
handed over; one past 16 outstanding is not taken. -/
def engineRequest (core : BitVec 5) (lattice handover : Bool) (s : State) : State :=
  let c := core.toNat
  match (s.core c).entry with
  | none => coreRefused core s
  | some e =>
    match s.entry e with
    | none => s
    | some x =>
      let last : Bool := match x.prepared with
        | none => false
        | some d => d.engine = 0 || d.engine = engKind lattice
      if 16 ≤ s.outstandingOf core ∨ (handover ∧ ¬ last) then s
      else
        let r : EngReq := { lattice := lattice, check := none, prio := x.prio.toNat, core := some core, entry := e, handover := handover }
        let s := { s with units := { s.units with reqs := s.units.reqs ++ [r] } }
        serveEngines (s.updCore c fun k => { k with handed := k.handed || handover })

/-- ENGINE_REQUEST (R261). -/
def execEngineRequest (core : BitVec 5) (lattice handover : Bool) (s : State) : Host.Outcome State Fault Refusal :=
  if 24 ≤ core.toNat then .fault .noSuchUnit else .next (engineRequest core lattice handover s)

/-! ## The end of an operation (R262, R275, R277) -/

/-- A handed-over operation has ended: the command completes (R262). -/
def handedEnd (handover : Bool) (e : Nat) (d : Prepared) (s : State) : State :=
  match s.entry e with
  | none => s
  | some x => if handover && x.phase = .handed then finish e (preparedDone x d) s else s

/-- The command's operation has ended: it completes if that one was handed over; else its core completes it. -/
def engineEnd (handover : Bool) (e : Nat) (d : Prepared) (s : State) : State :=
  let d := { d with engine := 0, gen := none, method := none }
  handedEnd handover e d (s.updEntry e fun x =>
    { x with prepared := some d, decided := if d.status = 0 then x.decided else some d.status })

/-- A key that an operation made goes to the cache, its handle to the result or to inline_result. -/
def engineKey (handover : Bool) (e : Nat) (p : Nat) (g : NewKey) (d : Prepared) (s : State) : State :=
  let k : Key := { val := g.key, attr := Attr.unpack g.attrs, tag := g.tag, binding := .none }
  let (h, s) := cachePlace p g.binding g.mac k s
  let d := if g.inInline then { d with inline := BitVec.ofNat 64 h } else { d with result := handleBytes h ++ d.result }
  engineEnd handover e d s

/-- The commit point of a command whose engine made a key, and its end (R110, R134, R169). None while it waits. -/
def engineSettle (handover : Bool) (e : Nat) (s : State) : Option State :=
  match s.entry e with
  | none => some s
  | some x =>
    match x.prepared with
    | none => some s
    | some d =>
      match d.gen with
      | none => some (engineEnd handover e d s)
      | some g =>
        let p := x.pitch.toNat
        match g.slot with
        | none => some (engineKey handover e p g d s)
        | some n =>
          let a := Attr.unpack g.attrs
          if s.commitWaits then none
          else if ¬ slotsFree s n.toNat a then some (engineEnd handover e { d with status := stBadField, result := [], inline := 0 } s)
          else
            let s := commitEntry e s
            some (engineKey handover e p g d (putKey n.toNat p a g.tag g.key s.csn s))

/-- The event of a long operation that ends (R470). -/
def longEnded (lattice : Bool) (k : Nat) (s : State) : State :=
  if (s.engine lattice k).longValid then
    raise (s.engEvent lattice k) (s.updEngine lattice k fun u =>
      { u with longValid := false, longPitch := 0, longOpcode := 0, longTag := 0 })
  else s

/-- An operation ends: the signature waits behind the result port for its check, or the command goes on. An operation that is not the one
whose result the command gives frees its engine, and completes the command if it was the one handed over. Engines hold in the Quiet
state (R440). -/
def engineOpComplete (lattice : Bool) (k : Nat) (s : State) : State :=
  let u := s.engine lattice k
  if u.state ≠ 1 ∨ u.behind ∨ s.pwr.quiet then s
  else
    let free := engRelease lattice k (longEnded lattice k s)
    match u.entry with
    | none => serveEngines free
    | some e =>
      match (s.entry e).bind (·.prepared) with
      | none => serveEngines free
      | some d =>
        if d.engine ≠ engKind lattice then serveEngines (handedEnd u.handover e d free)
        else if d.check then
          let r : EngReq := { lattice := lattice, check := some k, prio := 0, core := none, entry := e, handover := false }
          let s := (longEnded lattice k s).updEngine lattice k fun u => { u with behind := true, core := none }
          serveEngines { s with units := { s.units with reqs := s.units.reqs ++ [r] } }
        else match engineSettle u.handover e free with
          | some s => serveEngines s
          | none => s

/-- ENGINE_OP_COMPLETE (R262). -/
def execEngineOpComplete (lattice : Bool) (eng : BitVec 5) (s : State) : Host.Outcome State Fault Refusal :=
  if engCount lattice ≤ eng.toNat then .fault .noSuchUnit else .next (engineOpComplete lattice eng.toNat s)

/-! ## SIGN_CHECK_DONE (R275, R277) -/

/-- The record of a failed check: the first since valid was cleared, and the count. -/
def checkFailed (lattice : Bool) (sign chk : Nat) (s : State) : State :=
  let u := s.units
  { s with units :=
      if lattice then
        { u with ltcFailSign := if u.ltcFailValid then u.ltcFailSign else BitVec.ofNat 3 sign,
                 ltcFailCheck := if u.ltcFailValid then u.ltcFailCheck else BitVec.ofNat 3 chk,
                 ltcFailValid := true, ltcFailCount := satInc u.ltcFailCount }
      else
        { u with pkeFailSign := if u.pkeFailValid then u.pkeFailSign else BitVec.ofNat 5 sign,
                 pkeFailCheck := if u.pkeFailValid then u.pkeFailCheck else BitVec.ofNat 5 chk,
                 pkeFailValid := true, pkeFailCount := satInc u.pkeFailCount } }

/-- A failed sign-check: nothing released, HW_FAULT, both engines recorded, the alarm, both engines to BIST. -/
def signCheckFail (lattice handover : Bool) (sign chk e : Nat) (d : Prepared) (s : State) : State :=
  let x := s.entry e
  let s := engineEnd handover e { d with status := stHwFault, result := [] } s
  if d.gen.isSome then s
  else
    let s := checkFailed lattice sign chk s
    let s := tallyRec 0x0503 0 (BitVec.ofNat 10 (s.engEvent lattice sign)) none ([if lattice then 1 else 0, BitVec.ofNat 8 sign, BitVec.ofNat 8 chk]
      ++ (match x with | some x => toLE 2 x.pitch.toNat ++ toLE 2 x.opcode | none => [])) s
    let s := raise (s.engEvent lattice chk) (raise (s.engEvent lattice sign) s)
    bistTrigger (engBase lattice + chk) 46 (bistTrigger (engBase lattice + sign) 46 (qualify 46 s))

/-- How a check comes out: `pass` is what the environment finds wrong with neither engine, and the check of R274 itself must hold. The
pairwise test of R277 is `pass` alone. -/
def checkPasses (pass : Bool) (d : Prepared) : Bool := pass && match d.method with
  | some m => m.holds
  | none => true

def signCheckDone (lattice : Bool) (k : Nat) (pass : Bool) (s : State) : State :=
  let u := s.engine lattice k
  if s.pwr.quiet then s
  else match u.checks, u.entry with
  | some sign, some e =>
    let handover := (s.engine lattice sign).handover
    let free := engRelease lattice sign (engRelease lattice k s)
    match (s.entry e).bind (·.prepared) with
    | none => serveEngines free
    | some d =>
      if checkPasses pass d then
        match engineSettle handover e free with
        | some s => serveEngines s
        | none => s
      else serveEngines (signCheckFail lattice handover sign k e d free)
  | _, _ => if u.state = 2 then serveEngines (engRelease lattice k s) else s

/-- SIGN_CHECK_DONE (R275). -/
def execSignCheckDone (lattice : Bool) (eng : BitVec 5) (pass : Bool) (s : State) : Host.Outcome State Fault Refusal :=
  if engCount lattice ≤ eng.toNat then .fault .noSuchUnit else .next (signCheckDone lattice eng.toNat pass s)

/-! ## ENGINE_FAULT (R280) -/

/-- ABORT_RESET record of a command. -/
def abortReset (x : Entry) (s : State) : State := tally 0x0501 (toLE 2 x.pitch.toNat ++ x.bytes 4 4 ++ toLE 2 x.opcode) s

/-- The engine that checks the result of another. -/
def State.checkerOf (s : State) (lattice : Bool) (k : Nat) : Option Nat :=
  (List.range (engCount lattice)).find? fun j => (s.engine lattice j).checks = some k

def engReleaseOpt (lattice : Bool) (k : Option Nat) (s : State) : State :=
  match k with
  | some k => engRelease lattice k s
  | none => s

/-- An engine resets: its operation, or the check it makes, is lost with its command; with a signing engine its checking engine is free, and
the other way round. -/
def engineFault (lattice : Bool) (k : Nat) (s : State) : State :=
  let u := s.engine lattice k
  if u.state = 0 then s
  else
    let s := raise (s.engEvent lattice k) s
    let s := engRelease lattice k (engReleaseOpt lattice (s.checkerOf lattice k) (engReleaseOpt lattice u.checks s))
    match u.entry with
    | none => serveEngines s
    | some e =>
      let s := { s with units := { s.units with reqs := s.units.reqs.filter fun r => r.entry ≠ e } }
      match s.entry e with
      | none => serveEngines s
      | some x =>
        let s := abortReset x s
        let d := x.prepared.getD {}
        serveEngines (engineEnd true e { d with status := stAbortReset, result := [], inline := if x.csn.isSome then d.inline else 0 } s)

/-- ENGINE_FAULT (R280). -/
def execEngineFault (lattice : Bool) (eng : BitVec 5) (s : State) : Host.Outcome State Fault Refusal :=
  if engCount lattice ≤ eng.toNat then .fault .noSuchUnit else .next (engineFault lattice eng.toNat s)

end Sys2Proof.Machine
end

