-- ==== Sys2Proof/Machine/Tally.lean ====
section
/-! DEFINITION. The tally (R458 to R468): the record format, flushes, flash faults, the tail, reading and clearing; and the reads and
clears of the event controller (R471, R475). -/

namespace Sys2Proof.Machine

/-! ## The record (R458) -/

/-- One step of the CRC-32 of IEEE 802.3, bits least significant first. -/
def crcBit (c : BitVec 32) : BitVec 32 := if c.getLsbD 0 then (c >>> 1) ^^^ 0xEDB88320 else c >>> 1

def crcByte (c : BitVec 32) (b : Byte) : BitVec 32 :=
  let x := c ^^^ b.setWidth 32
  crcBit (crcBit (crcBit (crcBit (crcBit (crcBit (crcBit (crcBit x)))))))

def crc32 (m : Bytes) : BitVec 32 := ~~~(m.foldl crcByte 0xFFFFFFFF)

/-- The 64 bytes of a record. -/
def TallyRec.bytes (r : TallyRec) : Bytes :=
  let b := toLE 4 r.number.toNat ++ toLE 2 r.code.toNat ++ toLE 2 (r.actor.toNat * 1024 + r.event.toNat) ++ toLE 8 r.csn
    ++ toLE 5 r.seconds ++ toLE 3 r.cycles
    ++ [BitVec.ofNat 8 ((if r.own then 1 else 0) + (if r.headCopy then 2 else 0) + (if r.battery then 4 else 0)), 0]
    ++ toLE 2 r.suppressed.toNat ++ padTo 32 r.payload
  b ++ toLE 4 (crc32 b).toNat

/-- A held record by its number (R467): buffered, in the head or in the tail. -/
def State.tallyFind (s : State) (n : Word) : Option TallyRec :=
  (s.tly.buffer ++ s.tly.head ++ s.tly.tail).find? fun r => r.number = n

/-! ## Flushes (R461 to R464) -/

def tailPlaces : Nat := 10240
def tailUnit : Nat := 1024

/-- Records that a flush may land: those it took, as far as the tail has free places. -/
def State.landing (s : State) : List TallyRec := s.tly.buffer.take (min s.tly.flushing (tailPlaces - s.tly.tail.length))

/-- Oldest record held in the tail. -/
def tailOldest (t : Tly) : Tly := { t with tailFirst := match t.tail with | r :: _ => r.number | [] => t.next }

/-- The oldest unit is erased in the background when fewer than 1,024 places are free (R461). -/
def tailCheck (s : State) : State :=
  if tailPlaces - s.tly.tail.length < tailUnit then { s with tly := { s.tly with erasing := true } } else s

/-- Records land in the tail, those below 1,024 in the head too (R461). -/
def landFlush (s : State) : State :=
  let l := s.landing
  let h := s.tly.head ++ l.filter (·.headCopy)
  let full := decide (h.length = 1024) && decide (s.tly.head.length < 1024)
  let s := { s with tly := tailOldest { s.tly with buffer := s.tly.buffer.drop l.length, head := h, tail := s.tly.tail ++ l,
                                                   flushing := 0, storedSeconds := s.tly.seconds,
                                                   storedNext := match l.getLast? with | some r => r.number + 1 | none => s.tly.storedNext } }
  tailCheck (if full then raise 478 s else s)

def exemptRec (code : BitVec 16) (payload : Bytes) : TallyRec :=
  { number := 0, code := code, actor := 0, event := 0x3FF, csn := 0, own := false, seconds := 0, cycles := 0, payload := padTo 32 payload }

/-- Records that waited for room enter the buffer; a count of dropped ones is reported first (R463). -/
def admitStaged (s : State) : State :=
  let n := s.tly.droppedUnreported
  let s := if n ≠ 0 ∧ s.tly.buffer.length < 256 then
      enterBuffer (exemptRec 0x0F03 (toLE 4 n)) { s with tly := { s.tly with droppedUnreported := 0 } }
    else s
  let room := 256 - s.tly.buffer.length
  let l := s.tly.staging.take room
  if n = 0 ∧ l = [] then s
  else startFlush (l.foldl (fun s r => enterBuffer r s) { s with tly := { s.tly with staging := s.tly.staging.drop room } })

/-- TALLY_FLUSH_DONE (R462, R464): with both flashes faulty the records stay buffered. -/
def tallyFlushDone (s : State) : State :=
  if s.tly.flushing = 0 then s
  else if s.tly.faulty0 && s.tly.faulty1 then { s with tly := { s.tly with flushing := 0 } }
  else admitStaged (raise 472 (landFlush s))

def execTallyFlushDone (s : State) : Host.Outcome State Fault Refusal := .next (tallyFlushDone s)

/-- A flush that ends before what follows it (R378, R379, R440, R442, R468). -/
def flushNow (s : State) : State :=
  tallyFlushDone { s with tly := { s.tly with flushing := s.tly.buffer.length } }

/-- One TALLY_SUPPRESSED record of a code (R465). -/
def suppressedRec (s : State) (x : Nat × (Nat × Nat × Nat)) : State :=
  if x.2.1 = 0 ∨ 256 ≤ s.tly.buffer.length then s
  else enterBuffer (exemptRec 0x0F01 (toLE 2 x.1 ++ toLE 4 x.2.1 ++ toLE 5 x.2.2.1 ++ toLE 5 x.2.2.2))
    { s with tly := { s.tly with held := s.tly.held.set (0, 0, 0) x.1 (0, 0, 0) } }

/-- TALLY_FLUSH_TIMER (R462, R465). -/
def tallyFlushTimer (s : State) : State := startFlush (s.tly.held.foldl suppressedRec s)

def execTallyFlushTimer (s : State) : Host.Outcome State Fault Refusal := .next (tallyFlushTimer s)

/-- A flash accepts a page again: with both, the missing records are copied and recorded (R464). -/
def flashRecovered (flash : BitVec 1) (s : State) : State :=
  let was := if flash = 0 then s.tly.faulty0 else s.tly.faulty1
  let s := { s with tly := if flash = 0 then { s.tly with retries0 := 0, faulty0 := false }
                           else { s.tly with retries1 := 0, faulty1 := false } }
  if was ∧ ¬ s.tly.faulty0 ∧ ¬ s.tly.faulty1 then tally 0x0F04 (BitVec.ofNat 8 flash.toNat :: toLE 4 (s.tly.tail.length / 4)) s else s

/-- A failed retry: after the third the device goes on with the other flash (R464). -/
def flashFailed (flash : BitVec 1) (s : State) : State :=
  let n := (if flash = 0 then s.tly.retries0 else s.tly.retries1) + 1
  let f := decide (3 ≤ n)
  let s := { s with tly := if flash = 0 then { s.tly with retries0 := n, faulty0 := s.tly.faulty0 || f }
                           else { s.tly with retries1 := n, faulty1 := s.tly.faulty1 || f } }
  if f then raise 476 s else s

/-- TALLY_PAGE_RETRY (R464): the page whose write failed is written again. -/
def tallyPageRetry (flash : BitVec 1) (ok : Bool) (s : State) : State :=
  let s := { s with tly := { s.tly with pageRetries := satInc s.tly.pageRetries } }
  if ok then flashRecovered flash s else flashFailed flash s

def execTallyPageRetry (flash : BitVec 1) (ok : Bool) (s : State) : Host.Outcome State Fault Refusal :=
  .next (tallyPageRetry flash ok s)

/-- TAIL_ERASE_DONE (R461). -/
def tailEraseDone (s : State) : State :=
  if s.tly.erasing then { s with tly := tailOldest { s.tly with erasing := false, tail := s.tly.tail.drop tailUnit } } else s

def execTailEraseDone (s : State) : Host.Outcome State Fault Refusal := .next (tailEraseDone s)

/-- TOKEN_REFILL (R465). -/
def execTokenRefill (s : State) : Host.Outcome State Fault Refusal :=
  .next { s with tly := { s.tly with missing := s.tly.missing.mapv 0 fun _ n => n - 1 } }

/-! ## Reading (R467, R474) -/

/-- The tally can be read in every state but SCRAPPED and an invalid pattern. -/
def State.tallyOffered (s : State) : Bool := s.lcsState ≠ 5 && s.lcsState ≠ 15

/-- Who reads and writes TLY: the security controller, the cores, a PF (not in minimal service mode, R437), the I3C owner by message. -/
def State.tlyAccess (s : State) (who : Who) : Bool :=
  match who with
  | .vf _ _ => false
  | .ini n => s.tallyOffered
      && ((decide (1 ≤ n.toNat) && decide (n.toNat ≤ 25)) || (!s.glb.minimal && decide (0x2E ≤ n.toNat) && decide (n.toNat ≤ 0x30)))

/-- A write of TLY_RD_NUM (R474). -/
def tallyFetch (who : Who) (v : Word) (s : State) : State :=
  if s.tlyAccess who then s.updSel who fun x => { x with tlyNum := v, tlyState := 1, tlyData := [] } else s

/-- TALLY_FETCH. -/
def execTallyFetch (who : Who) (v : Word) (s : State) : Host.Outcome State Fault Refusal := .next (fromHost who (tallyFetch who v) s)

/-- TALLY_FETCH_DONE: the record, or not held. -/
def tallyFetchDone (who : Who) (s : State) : State :=
  let x := s.selOf who
  if x.tlyState ≠ 1 then s
  else match s.tallyFind x.tlyNum with
    | some r => s.updSel who fun x => { x with tlyState := 2, tlyData := r.bytes }
    | none => s.updSel who fun x => { x with tlyState := 3 }

def execTallyFetchDone (who : Who) (s : State) : Host.Outcome State Fault Refusal := .next (tallyFetchDone who s)

/-! ## Events (R471, R475) -/

/-- The destination whose pending bits an initiator claims: cores, security controller. -/
def claimDest : Who → Option Nat
  | .ini n => if n = 1 then some 24 else if 2 ≤ n.toNat ∧ n.toNat ≤ 25 then some (n.toNat - 2) else none
  | .vf _ _ => none

/-- EVENT_CLAIM: the lowest pending source is returned and cleared. -/
def eventClaim (who : Who) (s : State) : State :=
  match claimDest who with
  | none => s.emit (.read who 0)
  | some d =>
    match s.evc.pend.get [] d with
    | [] => s.emit (.read who 0x3FF)
    | n :: l => ({ s with evc := { s.evc with pend := s.evc.pend.set [] d l } }).emit (.read who (BitVec.ofNat 32 (2 ^ 31 + n)))

def execEventClaim (who : Who) (s : State) : Host.Outcome State Fault Refusal := .next (eventClaim who s)

/-- HOST_PENDING_CLEAR: a PF clears pending bits of its own port. -/
def hostPendingClear (who : Who) (n : Nat) (v : Word) (s : State) : State :=
  let d := if who = pfA then some 25 else if who = pfB then some 26 else none
  match d with
  | none => s
  | some d =>
    if 18 ≤ n then s
    else
      let l := (s.evc.pend.get [] d).filter fun k => !(k / 32 = n && v.getLsbD (k % 32))
      { s with evc := { s.evc with pend := s.evc.pend.set [] d l } }

def execHostPendingClear (who : Who) (n : BitVec 5) (v : Word) (s : State) : Host.Outcome State Fault Refusal :=
  .next (fromHost who (hostPendingClear who n.toNat v) s)

end Sys2Proof.Machine
end

