-- ==== Sys2Proof/Machine/Tamper.lean ====
section
/-! DEFINITION. Tamper and environment monitors (R347 to R371): qualification, clearing, release, windows, meshes, enclosure inputs,
sensors, the battery domain. -/

namespace Sys2Proof.Machine

/-- A watched input is one that its configuration names: enclosure inputs in mode 1 or 2, enabled mesh channels (R353, R354). -/
def State.watched (s : State) (n : Nat) : Bool :=
  if 34 ≤ n ∧ n ≤ 41 then decide (1 ≤ classField s.tmp.encCfg.val (n - 34)) && decide (classField s.tmp.encCfg.val (n - 34) ≤ 2)
  else if n = 42 ∨ n = 43 then s.tmp.emeshCfg.val.getLsbD (n - 42)
  else true

/-- The registers whose committed value and inverse are compared (R367). -/
def State.shadows (s : State) : List (Nat × Rwi) :=
  [(0x0300C0, s.pit.pers0), (0x0300C8, s.pit.pers1), (0x0300D0, s.pit.pers2), (0x0300D8, s.pit.pers3),
   (0x090004, s.kst.churnPeriod), (0x090014, s.kst.eraseCmd), (0x120008, s.tmp.class0), (0x120008, s.tmp.class1),
   (0x120008, s.tmp.class2), (0x120020, s.tmp.holdCfg), (0x130004, s.tmp.tempLimit), (0x13000C, s.tmp.encCfg),
   (0x130018, s.tmp.emeshCfg)] ++ s.pit.pitches.map (fun e => (0x030008, e.2.cfg))
   ++ s.mpu.regions.map (fun e => (0x080014, e.2.perm))

/-- The name that a SHADOW_NAME record carries: register offset, or 0xFFFFFFFF for a fuse group. -/
def State.shadowName (s : State) : Nat :=
  match s.shadows.find? (fun x => x.2.inv ≠ ~~~x.2.val) with
  | some x => x.1
  | none => 0xFFFFFFFF

/-- A source qualifies as the monitors found it (R347, R355, R367). -/
def tamperQualify (n : Nat) (s : State) : State :=
  if !s.watched n then s
  else
    let s := if n = 16 then { s with bat := { s.bat with low := true } } else s
    let s := if n = 44 ∧ s.tmp.handover ∧ ¬ s.tmp.disabled.getLsbD 44 then tallyRec 0x0103 0 420 none (toLE 4 s.shadowName) s else s
    qualify n s

/-- TAMPER_QUALIFY (R355). -/
def execTamperQualify (source : BitVec 6) (s : State) : Host.Outcome State Fault Refusal :=
  if 48 ≤ source.toNat then .fault .noSuchUnit else .next (tamperQualify source.toNat s)

/-- The condition of a level source is absent: release_ms starts for a source in force or one that erased (R357, R362). -/
def conditionClear (n : Nat) (s : State) : State :=
  if 44 ≤ n then s
  else
    let s := if n = 16 then { s with bat := { s.bat with low := false } } else s
    if s.tmp.active.getLsbD n then
      let t := { s.tmp with active := clearBit48 s.tmp.active n }
      { s with tmp := if t.inForce.getLsbD n || t.disarmed.getLsbD n then { t with releasing := setBit48 t.releasing n } else t }
    else s

/-- TAMPER_CONDITION_CLEAR (R357). -/
def execTamperConditionClear (source : BitVec 6) (s : State) : Host.Outcome State Fault Refusal :=
  if 48 ≤ source.toNat then .fault .noSuchUnit else .next (conditionClear source.toNat s)

/-- A source leaves force; the HOLD ends with the last one, and waiting commands are dispatched (R357). -/
def endForce (n : Nat) (s : State) : State :=
  let f := clearBit48 s.tmp.inForce n
  let t := { s with tmp := { s.tmp with inForce := f, hold := f ≠ 0 } }
  if s.tmp.hold ∧ f = 0 then resumeService t else t

/-- Sources 45 and 46 wait for the BIST passes that they caused (R357). -/
def State.passPending (s : State) (n : Nat) : Bool := s.bst.triggered.any fun x => x.2 = n

/-- release_ms of a source ends (R357, R362). -/
def holdRelease (n : Nat) (s : State) : State :=
  if !s.tmp.releasing.getLsbD n then s
  else
    let s := { s with tmp := { s.tmp with releasing := clearBit48 s.tmp.releasing n,
                                          disarmed := clearBit48 s.tmp.disarmed n } }
    if s.passPending n then s else endForce n s

/-- HOLD_RELEASE (R357). -/
def execHoldRelease (source : BitVec 6) (s : State) : Host.Outcome State Fault Refusal :=
  if 48 ≤ source.toNat then .fault .noSuchUnit else .next (holdRelease source.toNat s)

/-- A window closes (R360, R363, R466): its TAMPER_WINDOW record, unless the erase record carries it. -/
def windowClose (s : State) : State :=
  match s.tmp.window with
  | none => s
  | some w =>
    let s0 := s
    let s := { s with tmp := { s.tmp with window := none, eraseWindow := false, lastValid := true, lastClass := w.cls } }
    if s0.tmp.eraseWindow then s
    else
      let r : TallyRec := { number := 0, code := 0x0101, actor := 0, event := BitVec.ofNat 10 (376 + w.opener.toNat), csn := 0,
                            own := false, seconds := 0, cycles := 0, payload := padTo 32 (s.windowPayload w.sources w.cls.toNat) }
      if w.cls = 0 then tallyLimited r s else tallyExempt r s

/-- QUAL_WINDOW_CLOSE (R360). -/
def execQualWindowClose (s : State) : Host.Outcome State Fault Refusal := .next (windowClose s)

/-! ## Meshes, inputs, sensors -/

/-- One level source sampled with a run of `need` bad samples to qualify: the count before and whether this sample is bad. -/
def sampled (n need count : Nat) (bad : Bool) (s : State) : State :=
  if bad then (if need ≤ count + 1 then qualify n s else s) else conditionClear n s

def nextRun (count : Nat) (bad : Bool) : Nat := if bad then min (count + 1) 255 else 0

def meshNet (i : Nat) : Nat := if i < 4 then 30 + i else 38 + i

/-- One net of a mesh compare (R352, R354). -/
def meshOne (mismatch : BitVec 6) (i : Nat) (s : State) : State :=
  let n := meshNet i
  if !s.watched n then s
  else
    let bad := mismatch.getLsbD i
    let c := s.tmp.meshRuns.get 0 i
    let s := { s with tmp := { s.tmp with
      meshRuns := s.tmp.meshRuns.set 0 i (nextRun c bad),
      emeshMiss0 := if i = 4 ∧ bad then satInc s.tmp.emeshMiss0 else s.tmp.emeshMiss0,
      emeshMiss1 := if i = 5 ∧ bad then satInc s.tmp.emeshMiss1 else s.tmp.emeshMiss1 } }
    sampled n 2 c bad s

/-- MESH_COMPARE (R352): package nets in bits 0 to 3, external channels in bits 4 and 5. -/
def execMeshCompare (mismatch : BitVec 6) (s : State) : Host.Outcome State Fault Refusal :=
  .next ((List.range 6).foldl (fun s i => meshOne mismatch i s) s)

/-- One enclosure input of a sample (R353). -/
def encOne (level : BitVec 8) (i : Nat) (s : State) : State :=
  let mode := classField s.tmp.encCfg.val i
  let bad := (mode = 1 && level.getLsbD i) || (mode = 2 && !level.getLsbD i)
  let c := s.tmp.encRuns.get 0 i
  let s := { s with tmp := { s.tmp with encRuns := s.tmp.encRuns.set 0 i (nextRun c bad) } }
  sampled (34 + i) (s.tmp.encCfg.val.extractLsb' 16 8).toNat c bad s

/-- ENC_SAMPLE (R353). -/
def execEncSample (level : BitVec 8) (s : State) : Host.Outcome State Fault Refusal :=
  .next ((List.range 8).foldl (fun s i => encOne level i s) { s with tmp := { s.tmp with encLevel := level } })

/-- High limit and low limit of ENV_TEMP_LIMIT (R349). -/
def State.tempHigh (s : State) : Int := (s.tmp.tempLimit.val.extractLsb' 8 8).toNat
def State.tempLow (s : State) : Int := (s.tmp.tempLimit.val.extractLsb' 0 8).toInt

def tempRun (key n need : Nat) (bad : Bool) (s : State) : State :=
  let c := s.tmp.tempRuns.get 0 key
  sampled n need c bad { s with tmp := { s.tmp with tempRuns := s.tmp.tempRuns.set 0 key (nextRun c bad) } }

/-- The warning level, source 6: either main sensor in 3 samples; it clears when both are more than 5 °C below (R347, R349). -/
def tempWarn (key : Nat) (t : Int) (s : State) : State :=
  let bad := decide (s.tempHigh - 15 ≤ t)
  let c := s.tmp.tempRuns.get 0 key
  let s := { s with tmp := { s.tmp with tempRuns := s.tmp.tempRuns.set 0 key (nextRun c bad) } }
  if bad ∧ 3 ≤ c + 1 then qualify 6 s
  else if s.tmp.temp0.toInt < s.tempHigh - 20 ∧ s.tmp.temp1.toInt < s.tempHigh - 20 then conditionClear 6 s
  else s

/-- One temperature sample (R347, R349): main sensors 0 and 1, the battery sensor 2. -/
def sensorSample (sensor : Nat) (v : BitVec 8) (s : State) : State :=
  let t := v.toInt
  let need := if sensor = 2 then 2 else 3
  let s := { s with tmp := if sensor = 0 then { s.tmp with temp0 := v } else if sensor = 1 then { s.tmp with temp1 := v }
                           else { s.tmp with tempb := v } }
  let s := tempRun (2 * sensor) (2 * sensor) need (decide (t < s.tempLow)) s
  let s := tempRun (2 * sensor + 1) (2 * sensor + 1) need (decide (s.tempHigh < t)) s
  if sensor < 2 then tempWarn (6 + sensor) t s else s

/-- SENSOR_SAMPLE (R347). -/
def execSensorSample (sensor : BitVec 2) (celsius : BitVec 8) (s : State) : Host.Outcome State Fault Refusal :=
  if sensor = 3 then .fault .noSuchUnit else .next (sensorSample sensor.toNat celsius s)

/-! ## The battery domain (R364, R368 to R370) -/

/-- The configuration copy when VBAT is first applied (R347, R349, R364). -/
def firstCopy : BatCopy :=
  { classes := defaultClasses, disabled := 0, tempLimit := 0x7DCE, encCfg := 0x00080000, emeshCfg := 0, holdCfg := 0xA }

/-- VBAT_APPLY (R364, R368): the first application loads the copy and starts the seconds counter. -/
def vbatApply (s : State) : State :=
  if s.bat.vbat then s
  else
    let b : Bat := match s.bat.copy with
      | some _ => { s.bat with vbat := true }
      | none => { s.bat with vbat := true, copy := some firstCopy, seconds := 0 }
    { s with bat := b }

def execVbatApply (s : State) : Host.Outcome State Fault Refusal := .next (vbatApply s)

/-- VBAT_LOSS (R368): with main power absent too, all that the battery domain holds is gone. -/
def execVbatLoss (s : State) : Host.Outcome State Fault Refusal := .next { s with bat := {} }

/-- Bit of a battery-watched source in a battery record (R370). -/
def batBit (n : Nat) : Option Nat :=
  if n = 4 then some 0 else if n = 5 then some 1 else if 30 ≤ n ∧ n ≤ 43 then some (n - 28) else none

def BatCopy.classOf (c : BatCopy) (n : Nat) : Nat := if fixedSource n then 2 else c.classes.toNat / 4 ^ n % 4

/-- The source is watched on battery power (R353, R354, R359, R369). -/
def BatCopy.watches (c : BatCopy) (n : Nat) : Bool :=
  (batBit n).isSome && !c.disabled.getLsbD n &&
    (if 34 ≤ n ∧ n ≤ 41 then classField c.encCfg (n - 34) = 1 || classField c.encCfg (n - 34) = 2
     else if n = 42 ∨ n = 43 then c.emeshCfg.getLsbD (n - 42) else true)

/-- A record of the battery tally: 16 are kept, then only the overflow count advances (R370). -/
def batRecord (r : BatRec) (b : Bat) : Bat :=
  if b.tally.length < 16 then { b with tally := b.tally ++ [r], number := b.number + 1 }
  else { b with overflow := satInc b.overflow, number := b.number + 1 }

/-- A source joins the last record (R369). -/
def batJoin (m : BitVec 16) (c : Nat) (b : Bat) : Bat :=
  match b.tally.getLast? with
  | none => b
  | some r =>
    { b with tally := b.tally.dropLast ++ [{ r with sources := r.sources ||| m,
                                                    cls := if r.cls.toNat < c then BitVec.ofNat 8 c else r.cls }] }

/-- BATTERY_ALARM (R369, R370). `joins`: within 250 µs of the record before. -/
def batteryAlarm (n : Nat) (ticks : BitVec 16) (celsius : BitVec 8) (mv : Word) (joins : Bool) (s : State) : State :=
  match s.bat.copy, batBit n with
  | some c, some k =>
    if !c.watches n then s
    else
      let cls := c.classOf n
      let m : BitVec 16 := (1 : BitVec 16) <<< k
      let b := s.bat
      let b := if joins ∧ b.tally ≠ [] then batJoin m cls b
               else batRecord { seconds := b.seconds, ticks := ticks, sources := m, cls := BitVec.ofNat 8 cls,
                                celsius := celsius, number := b.number, millivolt := mv } b
      let b := if cls = 2 then { b with seed := none, latch := true, alarm := true, count := satInc b.count,
                                        latchSource := 4 } else b
      { s with bat := b }
  | _, _ => s

def execBatteryAlarm (source : BitVec 6) (ticks : BitVec 16) (celsius : BitVec 8) (millivolt : Word) (joins : Bool)
    (s : State) : Host.Outcome State Fault Refusal := .next (batteryAlarm source.toNat ticks celsius millivolt joins s)

/-- SECONDS_COUNTER_TICK (R368, R460): the battery counter while it runs, and with main power the operating seconds. Link tag failures are
counted by the second (R427). -/
def secondsTick (main : Bool) (s : State) : State :=
  let s := if s.bat.copy.isSome then { s with bat := { s.bat with seconds := s.bat.seconds + 1 } } else s
  if main then { s with tly := { s.tly with seconds := s.tly.seconds + 1 }, par := { s.par with tagFailures := 0 } } else s

def execSecondsCounterTick (mainPower : Bool) (s : State) : Host.Outcome State Fault Refusal := .next (secondsTick mainPower s)

end Sys2Proof.Machine
end

