-- ==== Sys2Proof/Machine/Bist.lean ====
section
/-! DEFINITION. Online self-test (R448 to R454), the standby's known-answer tests (R426) and the envelope's units (R27, R329, R443). -/

namespace Sys2Proof.Machine

/-! ## Units that the governor takes in and out (R27, R329, R443) -/

/-- Every personality keeps a core without core `c` (R316). -/
def State.coreSpared (s : State) (c : Nat) : Bool :=
  (List.range 4).all fun p => (List.range 24).any fun i => i ≠ c && coreServes (s.core i) && (s.core i).maskNext.getLsbD p

/-- The governor drains a core that the envelope does not keep, or loads one that it keeps again. -/
def governCore (s : State) (c : Nat) : State :=
  let k := s.core c
  if s.bst.retired.contains (83 + c) || s.withdrawn (83 + c) then s
  else if s.governorKeeps c then (if k.state = .off then coreLoad c s.reloadFw s else s)
  else if s.coreSpared c then requestDrain c s else s

/-- ENVELOPE_TRANSITION (R27): the units in service follow the effective envelope; work in flight completes on the units it holds. -/
def envelopeTransition (s : State) : State :=
  if s.pwr.inForceBounded = s.bounded then s
  else
    let s := { s with pwr := { s.pwr with inForceBounded := s.bounded } }
    serveEngines (serveContexts ((List.range 24).foldl governCore s))

def execEnvelopeTransition (s : State) : Host.Outcome State Fault Refusal := .next (envelopeTransition s)

/-- PWR_ENVELOPE (R27, R456): kept in the sealed store; the owner's write arrives through REG_ACCESS. -/
def envelopeWrite (v : Word) (s : State) : State :=
  sealFlashes (fun f => { f with envelope := v.getLsbD 0 }) { s with pwr := { s.pwr with bounded := v.getLsbD 0 } }

/-- PWR_ENVELOPE_WRITE (R27, R456): the security controller only. -/
def execPwrEnvelopeWrite (who : Who) (v : Word) (s : State) : Host.Outcome State Fault Refusal :=
  .next (if isSec who then envelopeWrite v s else s)

/-! ## Regions (R448) -/

def regions : Nat := 107

/-- A region holds no work (R448). -/
def State.regionFree (s : State) (r : Nat) : Bool :=
  if 25 ≤ r ∧ r ≤ 50 then (s.engine false (r - 25)).state = 0
  else if 51 ≤ r ∧ r ≤ 58 then (s.engine true (r - 51)).state = 0
  else if 67 ≤ r ∧ r ≤ 82 then !s.cmc.ctxs.any fun c => ctxEngine c.1 = r - 67 && c.2.held.isSome
  else if 83 ≤ r then (s.core (r - 83)).state = .off
  else true

/-- Regions out at once (R443). -/
def State.outLimit (s : State) : Nat := if s.pwr.inForceBounded then 1 else 2

/-- Engines of a kind in service without engine `k`. -/
def State.servingWithout (s : State) (lattice : Bool) (k : Nat) : Nat :=
  ((List.range (engCount lattice)).filter fun j => j ≠ k && s.engServes lattice j).length

/-- A region is skipped at this interval (R450). -/
def State.regionSkipped (s : State) (powerOk : Bool) (r : Nat) : Bool :=
  !powerOk || decide (s.outLimit ≤ s.bst.out.length + s.bst.wanted.length)
    || (25 ≤ r && r ≤ 50 && decide (s.servingWithout false (r - 25) < 2))
    || (51 ≤ r && r ≤ 58 && decide (s.servingWithout true (r - 51) < 2))
    || (83 ≤ r && (s.cmc.updRunning || !s.coreSpared (r - 83)))

def nextRegion (r : BitVec 7) : BitVec 7 := if regions ≤ r.toNat + 1 then 0 else r + 1

/-- BIST_INTERVAL (R450, R356, R440): the next region is wanted, or skipped and tried again; a retired one is passed by. -/
def bistInterval (powerOk : Bool) (s : State) : State :=
  let r := s.bst.next.toNat
  if !s.glb.startDone || s.tmp.hold || s.pwr.quiet || s.erasing then s
  else if s.bst.retired.contains r then { s with bst := { s.bst with next := nextRegion s.bst.next } }
  else if s.regionSkipped powerOk r || s.withdrawn r then s
  else
    let s := { s with bst := { s.bst with wanted := s.bst.wanted ++ [r], next := nextRegion s.bst.next } }
    if 83 ≤ r then requestDrain (r - 83) s else s

def execBistInterval (powerOk : Bool) (s : State) : Host.Outcome State Fault Refusal := .next (bistInterval powerOk s)

/-- The memory BIST of an engine overwrites its operand memory (R264, R449). -/
def operandWiped (r : Nat) (s : State) : State :=
  if 25 ≤ r ∧ r ≤ 50 then s.updEngine false (r - 25) fun u => { u with operand := [] }
  else if 51 ≤ r ∧ r ≤ 58 then s.updEngine true (r - 51) fun u => { u with operand := [] }
  else s

/-- BIST_REGION_TAKE (R449): a wanted region that is free goes out; what it held is cleared. -/
def bistRegionTake (r : Nat) (s : State) : State :=
  if s.withdrawn r && !s.bst.out.contains r && s.regionFree r && !s.pwr.quiet then
    operandWiped r { s with bst := { s.bst with out := s.bst.out ++ [r], wanted := s.bst.wanted.erase r } }
  else s

def execBistRegionTake (region : BitVec 7) (s : State) : Host.Outcome State Fault Refusal :=
  if regions ≤ region.toNat then .fault .noSuchUnit else .next (bistRegionTake region.toNat s)

/-! ## The end of a region (R449, R451 to R453) -/

/-- A core that comes back from its region loads; one that the governor does not keep stays OFF. -/
def regionReturn (r : Nat) (s : State) : State :=
  let s := { s with bst := { s.bst with out := s.bst.out.erase r } }
  if 83 ≤ r then
    let c := r - 83
    if s.cmc.updRunning ∧ s.cmc.updCore.toNat = c then coreLoad c s.reloadFw s
    else if s.governorKeeps c then coreLoad c (s.core c).fw s else s
  else serveEngines (serveContexts s)

/-- BST_FAIL and the record (R451). Failure: 1 within redundancy, 2 beyond. Action: 1 repaired, 2 spare, 3 retired. -/
def bistRecord (r failure action : Nat) (s : State) : State :=
  let s := { s with bst := { s.bst with failRegion := if s.bst.failValid then s.bst.failRegion else BitVec.ofNat 7 r,
                                        failValid := true, failures := satInc s.bst.failures } }
  tallyRec 0x0801 0 480 none [BitVec.ofNat 8 r, BitVec.ofNat 8 failure, BitVec.ofNat 8 action] (raise 480 s)

/-- A spare of the kind is free (R234, R260). -/
def State.spareFor (s : State) (r : Nat) : Bool :=
  (r ≤ 24 && s.retiredIn 0 25 = 0) || (25 ≤ r && r ≤ 50 && decide (s.retiredIn 25 26 < 2))

/-- A region is retired: its spare enters service, or DEGRADED is set (R451) and reported as an internal error (R74). -/
def regionRetire (r : Nat) (s : State) : State :=
  let spare := s.spareFor r
  let s := bistRecord r 2 (if spare then 2 else 3) s
  let s := { s with bst := { s.bst with out := s.bst.out.erase r, wanted := s.bst.wanted.erase r,
                                        triggered := s.bst.triggered.filter fun x => x.1 ≠ r,
                                        retired := if s.bst.retired.contains r then s.bst.retired else s.bst.retired ++ [r],
                                        pending := if spare then s.bst.pending + 1 else s.bst.pending } }
  let s := aerInternal (!spare) (raise 482 s)
  serveEngines (if spare then raise 483 s else s)

/-- A soft repair (R451). -/
def softRepair (r : Nat) (s : State) : State :=
  let s := { s with bst := { s.bst with applied := satInc s.bst.applied, pending := s.bst.pending + 1 } }
  raise 481 (bistRecord r 1 1 s)

/-- Passes of a region in triggered runs in the last 24 h of operating time (R453). -/
def State.recentPasses (s : State) (r : Nat) : Nat :=
  (s.bst.passes.filter fun x => x.1 = r && decide (s.tly.seconds < x.2 + 86400)).length

/-- Sources 45 and 46 leave force when their last pass has ended and release_ms is over (R357). -/
def passEnded (n : Nat) (s : State) : State :=
  if s.tmp.inForce.getLsbD n && !s.tmp.releasing.getLsbD n && !s.passPending n then endForce n s else s

/-- A triggered pass that passed: the third in 24 h retires the unit (R453). -/
def triggeredPass (r : Nat) (s : State) : State :=
  let s := { s with bst := { s.bst with triggered := s.bst.triggered.filter (fun x => x.1 ≠ r),
                                        passes := s.bst.passes ++ [(r, s.tly.seconds)] } }
  if 3 ≤ s.recentPasses r then regionRetire r s else regionReturn r s

/-- BIST_REGION_DONE (R451, R453, R454): 0 pass, 1 failure within redundancy, 2 failure beyond it, 3 no verdict. In the Quiet state the
patterns stand still. -/
def bistRegionDone (r : Nat) (result : BitVec 2) (s : State) : State :=
  if !s.bst.out.contains r || s.pwr.quiet then s
  else
    let was := s.bst.triggered.any fun x => x.1 = r
    let s :=
      if result = 2 then regionRetire r s
      else if result = 1 then
        let s := { s with bst := { s.bst with triggered := s.bst.triggered.filter fun x => x.1 ≠ r } }
        regionReturn r (softRepair r s)
      else if result = 3 then regionReturn r { s with bst := { s.bst with next := BitVec.ofNat 7 r } }
      else if was then triggeredPass r s
      else regionReturn r s
    passEnded 45 (passEnded 46 s)

def execBistRegionDone (region : BitVec 7) (result : BitVec 2) (s : State) : Host.Outcome State Fault Refusal :=
  if regions ≤ region.toNat then .fault .noSuchUnit else .next (bistRegionDone region.toNat result s)

/-- Regions that the Quiet state stopped return without a verdict at its exit, and the first is tried again next (R454). -/
def quietRegions (s : State) : State :=
  match s.bst.out with
  | [] => s
  | r :: l =>
    let s := { s with bst := { s.bst with next := if s.bst.triggered.any (fun x => x.1 = r) then s.bst.next else BitVec.ofNat 7 r } }
    (r :: l).foldl (fun s r => regionReturn r s) s

/-- STANDBY_KAT (R426): a unit's region, or 107 + i for DRBG instance i, that failed its known-answer test. -/
def standbyKat (failed : Option (BitVec 7)) (s : State) : State :=
  if s.par.role ≠ .standby then s
  else match failed with
    | none => s
    | some r =>
      if r.toNat < regions then (if s.bst.retired.contains r.toNat then s else regionRetire r.toNat s)
      else drbgFail (r.toNat - regions) true s

def execStandbyKat (failed : Option (BitVec 7)) (s : State) : Host.Outcome State Fault Refusal :=
  if (failed.getD 0).toNat < 117 then .next (standbyKat failed s) else .fault .noSuchUnit

end Sys2Proof.Machine
end

