-- ==== Sys2Proof/Machine/PinCmds.lean ====
section
/-! DEFINITION. Class 0x02: PIN blocks (R178 to R186) and PIN verification (R187 to R191). -/

namespace Sys2Proof.Machine

/-! ## PANs and PIN blocks -/

/-- The digits of a PAN field (R116, R185); none where the encoding is broken. -/
def readPan (b : Bytes) : Option (List Nat) :=
  let n := (byteAt b 0).toNat
  let d := nibbles (slice b 1 10)
  if 12 ≤ n ∧ n ≤ 19 ∧ (d.take n).all (fun x => decide (x ≤ 9)) ∧ (d.drop n).all (fun x => decide (x = 15)) ∧ byteAt b 11 = 0 then
    some (d.take n) else none

/-- PAN12 of R179: the 12 rightmost digits without the check digit, a 0 at the left where only 11 are. -/
def pan12 (d : List Nat) : List Nat :=
  let r := d.dropLast
  let t := r.drop (r.length - 12)
  List.replicate (12 - t.length) 0 ++ t

/-- The PAN field of a format (R179). -/
def panField (fmt : Nat) (d : List Nat) : Bytes :=
  if fmt = 4 then padTo 16 (ofNibbles ((d.length - 12) :: d ++ List.replicate (31 - d.length) 0))
  else if fmt = 1 then zeros 8
  else ofNibbles ([0, 0, 0, 0] ++ pan12 d)

/-- Numbers 0 to 5 drawn uniformly: the 3-bit groups of a string that are below 6 (log entry 119). -/
def sixes (b : Bytes) : List Nat := ((List.range (8 * b.length / 3)).map fun i => leNat b / 8 ^ i % 8).filter fun n => n < 6

/-- The clear PIN field with 8 fresh bytes for its random part (R179, R182). -/
def pinField (fmt : Nat) (pin : List Nat) (fresh : Bytes) : Bytes :=
  let r := nibbles fresh
  let head := fmt :: pin.length :: pin
  let six := sixes fresh
  let fill := fun i : Nat => if fmt = 0 then 15 else if fmt = 1 then r.getD i 0 else if fmt = 3 then 10 + six.getD i 0 else 10
  let f := ofNibbles (head ++ (List.range (16 - head.length)).map fill)
  if fmt = 4 then f ++ padTo 8 fresh else f

/-- encipher of R180. -/
def pinEncipher (fmt : Nat) (k pf pan : Bytes) : Bytes :=
  if fmt = 4 then Aes.enc k (xorB (Aes.enc k pf) pan)
  else if fmt = 1 then Des.enc k pf
  else Des.enc k (xorB pf pan)

/-- decipher of R180. -/
def pinDecipher (fmt : Nat) (k blk pan : Bytes) : Bytes :=
  if fmt = 4 then Aes.dec k (xorB (Aes.dec k blk) pan)
  else if fmt = 1 then Des.dec k blk
  else xorB (Des.dec k blk) pan

/-- The checks of R181 on a clear PIN field: the PIN digits where all hold. -/
def pinOf (fmt : Nat) (pf : Bytes) : Option (List Nat) :=
  let n := nibbles (pf.take 8)
  let len := n.getD 1 0
  let digits := (n.drop 2).take len
  let fill := n.drop (2 + len)
  let fillOk := if fmt = 0 then fill.all (fun x => decide (x = 15)) else if fmt = 3 then fill.all (fun x => decide (10 ≤ x))
                else if fmt = 4 then fill.all (fun x => decide (x = 10)) else true
  if n.getD 0 0 = fmt ∧ 4 ≤ len ∧ len ≤ 12 ∧ digits.all (fun x => decide (x ≤ 9)) ∧ fillOk then some digits else none

def formatOk (fmt : Nat) : Bool := [0, 1, 3, 4].contains fmt

/-- The block length of a format. -/
def pinLen (fmt : Nat) : Nat := if fmt = 4 then 16 else 8

/-- The operand field of a PIN block: bytes 8 to 15 are 0 outside format 4 (R116, R181). -/
def pinBlockOk (fmt : Nat) (b : Bytes) : Bool := fmt = 4 || allZero (b.drop 8)

/-- A PIN key of the format's algorithm (R156, R178). -/
def pinKey (fmt : Nat) (enc : Bool) (k : Key) : Bool :=
  k.attr.use = .p0 && k.attr.alg = (if fmt = 4 then .a else .t) && (if enc then k.attr.mode.enc else k.attr.mode.dec)

/-- The fresh bytes that an output format needs (R182). -/
def pinFresh (r : Run) (fmt : Nat) : Act Bytes := if fmt = 0 then pure [] else drawFrom r.drbg (if fmt = 3 then 32 else 8)

/-- A PIN block built and enciphered from digits. -/
def pinBuild (fmt : Nat) (k : Bytes) (pin : List Nat) (fresh : Bytes) (pan : List Nat) : Bytes :=
  pinEncipher fmt k (pinField fmt pin fresh) (panField fmt pan)

/-- The match flag and status of a verification. -/
def verdict (ok : Bool) : Act Ans := if ok then pure { inline := 1 } else refuse stVerifyMismatch

/-! ## PIN_TRANSLATE -/

/-- The pairs of R183. -/
def translatePair (fin fout : Nat) : Bool := formatOk fin && formatOk fout && (fout ≠ 1 || fin = 1)

def pinTranslate (r : Run) : Act Ans := do
  let x := r.x
  let fin := x.byte 0x5C
  let fout := x.byte 0x5D
  let change := x.flag 9
  let usesPan := fin ≠ 1 || fout ≠ 1
  let used := [(0x40, 16), (0x5C, 1), (0x5D, 1)] ++ (if usesPan then [(0x50, 12)] else []) ++ (if change then [(0x60, 12)] else [])
  match ← checkForm x 2 [(offA, anyType), (offB, anyType)] used with
  | [a, b] =>
    let panA := readPan (x.bytes 0x50 12)
    let panB := if change then readPan (x.bytes 0x60 12) else panA
    check (translatePair fin fout && pinBlockOk fin (x.bytes 0x40 16) && !(change && (fin = 1 || fout = 1))
      && (!usesPan || panA.isSome) && (!change || panB.isSome)) stBadField
    noData r
    checkErased [a, b] false
    let (ka, kb) ← captureTwo r a b (pinKey fin false) (pinKey fout true) (fun _ _ => true)
    checkCap r (pinLen fout)
    let fresh ← pinFresh r fout
    unitFaults r true 0
    let pf := pinDecipher fin ka.val ((x.bytes 0x40 16).take (pinLen fin)) (panField fin (panA.getD []))
    match pinOf fin pf with
    | none => refuse stPinFormat
    | some pin => pure { result := pinBuild fout kb.val pin fresh (panB.getD []) }
  | _ => refuse stBadField

/-- PIN_TRANSLATE (R119, R183 to R186). -/
def execPinTranslate (e : BitVec 17) (env : CmdEnv) (s : State) : Host.Outcome State Fault Refusal :=
  .next (runOp e.toNat 0x0201 env pinTranslate s)

/-! ## The offset method (R187 to R189) -/

/-- A decimalisation table as its 16 digits (R188). -/
def readTable (b : Bytes) : Option (List Nat) :=
  let d := nibbles b
  if d.length = 16 ∧ d.all (fun x => decide (x ≤ 9)) ∧
      (List.range 10).all (fun k => decide (1 ≤ d.count k) && decide (d.count k ≤ 2)) then some d else none

/-- natural_pin of R187. -/
def naturalPin (k : Key) (vdata : Bytes) (table : List Nat) (len : Nat) : List Nat :=
  let c := if k.attr.alg = .t then Des.enc k.val vdata else (Aes.enc k.val (vdata ++ vdata)).take 8
  ((nibbles c).take len).map fun h => table.getD h 0

/-- An offset field of `len` digits, then 0xF to 12 (R189). -/
def readOffset (b : Bytes) (len : Nat) : Option (List Nat) :=
  let d := nibbles b
  if (d.take len).all (fun x => decide (x ≤ 9)) ∧ (d.drop len).all (fun x => decide (x = 15)) then some (d.take len) else none

/-- A PIN verification key for a method and direction. -/
def pvk (u : Use) (gen : Bool) (k : Key) : Bool := k.attr.use = u && (if gen then k.attr.mode.gen else k.attr.mode.ver)

/-- PAN of class 0x02 where the input format binds one. -/
def pinPanField (fin : Nat) : List (Nat × Nat) := if fin = 1 then [] else [(0x50, 12)]

/-- The PIN that a verification command deciphers; PIN_FORMAT where R181 fails it. -/
def customerPin (r : Run) (k : Key) (fin : Nat) (pan : List Nat) : Option (List Nat) :=
  pinOf fin (pinDecipher fin k.val ((r.x.bytes 0x40 16).take (pinLen fin)) (panField fin pan))

/-- Fields that the offset commands share: formats, length, table, PAN. -/
def offsetFields (x : Entry) : Bool :=
  let fin := x.byte 0x5C
  formatOk fin && pinBlockOk fin (x.bytes 0x40 16) && decide (4 ≤ x.byte 0x5D) && decide (x.byte 0x5D ≤ 12)
    && (readTable (x.bytes 0x60 8)).isSome && (fin = 1 || (readPan (x.bytes 0x50 12)).isSome)

/-- Natural PIN and customer PIN of an offset command, after its checks. -/
def offsetPins (r : Run) (gen : Bool) : Act (List Nat × List Nat) := do
  let x := r.x
  let fin := x.byte 0x5C
  let used := [(0x40, 16), (0x5C, 1), (0x5D, 1), (0x60, 8), (0x70, 8)] ++ pinPanField fin ++ (if gen then [] else [(0x68, 6)])
  match ← checkForm x 0 [(offA, anyType), (offB, anyType)] used with
  | [a, b] =>
    check (offsetFields x && (gen || (readOffset (x.bytes 0x68 6) (x.byte 0x5D)).isSome)) stBadField
    noData r
    checkErased [a, b] false
    let (ka, kb) ← captureTwo r a b (pinKey fin false) (pvk .v1 gen) (fun _ _ => true)
    unitFaults r true 0
    let nat := naturalPin kb (x.bytes 0x70 8) ((readTable (x.bytes 0x60 8)).getD []) (x.byte 0x5D)
    match customerPin r ka fin ((readPan (x.bytes 0x50 12)).getD []) with
    | none => refuse stPinFormat
    | some pin => pure (nat, pin)
  | _ => refuse stBadField

def pinVerifyOffset (r : Run) : Act Ans := do
  let (nat, pin) ← offsetPins r false
  let len := r.x.byte 0x5D
  let off := (readOffset (r.x.bytes 0x68 6) len).getD []
  verdict (decide (len ≤ pin.length) && List.zipWith (fun a b => (a + b) % 10) nat off = pin.take len)

/-- PIN_VERIFY_OFFSET (R119, R187, R189). -/
def execPinVerifyOffset (e : BitVec 17) (env : CmdEnv) (s : State) : Host.Outcome State Fault Refusal :=
  .next (runOp e.toNat 0x0202 env pinVerifyOffset s)

def pinGenerateOffset (r : Run) : Act Ans := do
  let (nat, pin) ← offsetPins r true
  let len := r.x.byte 0x5D
  if pin.length < len then refuse stPinFormat
  else
    let off := List.zipWith (fun a b => (a + 10 - b) % 10) (pin.take len) nat
    pure { inline := inlineOf (ofNibbles (off ++ List.replicate (12 - len) 15)) }

/-- PIN_GENERATE_OFFSET (R119, R189). -/
def execPinGenerateOffset (e : BitVec 17) (env : CmdEnv) (s : State) : Host.Outcome State Fault Refusal :=
  .next (runOp e.toNat 0x0204 env pinGenerateOffset s)

/-! ## The PVV method (R190, R191) -/

/-- scan of R191. -/
def scan (h : List Nat) (k : Nat) : List Nat :=
  (h.filter (fun x => decide (x ≤ 9)) ++ (h.filter fun x => decide (10 ≤ x)).map (fun x => x - 10)).take k

/-- The PVV of a PIN (R190). -/
def pvv (k : Bytes) (pan : List Nat) (pvki : Nat) (pin : List Nat) : List Nat :=
  let r := pan.dropLast
  let t := r.drop (r.length - 11) ++ [pvki] ++ pin.take 4
  scan (nibbles (Des.enc k (ofNibbles t))) 4

def pinVerifyPvv (r : Run) : Act Ans := do
  let x := r.x
  let fin := x.byte 0x5C
  match ← checkForm x 0 [(offA, anyType), (offB, anyType)] [(0x40, 16), (0x50, 12), (0x5C, 1), (0x5D, 1), (0x5E, 2)] with
  | [a, b] =>
    let want := nibbles (x.bytes 0x5E 2)
    match readPan (x.bytes 0x50 12) with
    | none => refuse stBadField
    | some pan =>
      check (formatOk fin && pinBlockOk fin (x.bytes 0x40 16) && decide (x.byte 0x5D ≤ 6) && want.all (fun n => decide (n ≤ 9))) stBadField
      noData r
      checkErased [a, b] false
      let (ka, kb) ← captureTwo r a b (pinKey fin false) (pvk .v2 false) (fun _ _ => true)
      unitFaults r true 0
      match customerPin r ka fin pan with
      | none => refuse stPinFormat
      | some pin => verdict (pvv kb.val pan (x.byte 0x5D) pin = want)
  | _ => refuse stBadField

/-- PIN_VERIFY_PVV (R119, R190). -/
def execPinVerifyPvv (e : BitVec 17) (env : CmdEnv) (s : State) : Host.Outcome State Fault Refusal :=
  .next (runOp e.toNat 0x0203 env pinVerifyPvv s)

end Sys2Proof.Machine
end

