-- ==== Sys2Proof/Machine/MacCmds.lean ====
section
/-! DEFINITION. Class 0x04: message authentication codes (R121, R201 to R203). -/

namespace Sys2Proof.Machine

/-- Parameters of a MAC: algorithm, padding, length (R121). -/
structure MacParams where
  alg : Nat
  pad : Nat
  len : Nat
  deriving DecidableEq, Repr

def macParams (x : Entry) (off : Nat) : MacParams := ⟨x.byte off, x.byte (off + 1), x.byte (off + 2)⟩

def MacParams.ok (m : MacParams) : Bool :=
  if m.alg = 5 then m.pad = 0 && decide (4 ≤ m.len) && decide (m.len ≤ 16)
  else (m.alg = 1 || m.alg = 3) && (m.pad = 1 || m.pad = 2) && decide (4 ≤ m.len) && decide (m.len ≤ 8)

/-- A key for the parameters and a direction; algorithm 3 takes no 3-key TDES key (R201). -/
def macKey (m : MacParams) (gen : Bool) (k : Key) : Bool :=
  k.attr.use = (if m.alg = 1 then .m1 else if m.alg = 3 then .m3 else .m6) && (if gen then k.attr.mode.gen else k.attr.mode.ver)
    && (m.alg ≠ 3 || k.attr.len = 16)

/-- The MAC of a message (R202). -/
def macOf (m : MacParams) (k msg : Bytes) : Bytes := (isoMac m.alg m.pad k msg).take m.len

/-- A MAC of up to 8 bytes goes to inline_result, a longer one to the result (R121). -/
def macAns (b : Bytes) : Ans := if b.length ≤ 8 then { inline := inlineOf b } else { result := b }

def macCap (m : MacParams) : Nat := if m.len ≤ 8 then 0 else m.len

def messageLen (r : Run) (max : Nat) : Act PUnit := check (decide (1 ≤ r.x.dataLen) && decide (r.x.dataLen ≤ max)) stBadLength

def macGenerate (r : Run) : Act Ans := do
  match ← checkForm r.x 0 [(offA, anyType), (offB, [0])] [(0x40, 3)] with
  | [a, _] =>
    let m := macParams r.x 0x40
    check m.ok stBadField
    messageLen r (2 ^ 20)
    checkErased [a] false
    let k ← captureOne r a (macKey m true)
    checkCap r (macCap m)
    let d ← readData r
    unitFaults r true 0
    pure (macAns (macOf m k.val d))
  | _ => refuse stBadField

/-- MAC_GENERATE (R121, R201, R202). -/
def execMacGenerate (e : BitVec 17) (env : CmdEnv) (s : State) : Host.Outcome State Fault Refusal :=
  .next (runOp e.toNat 0x0401 env macGenerate s)

def macVerify (r : Run) : Act Ans := do
  let m := macParams r.x 0x40
  match ← checkForm r.x 0 [(offA, anyType), (offB, [0])] [(0x40, 3), (0x50, min m.len 16)] with
  | [a, _] =>
    check m.ok stBadField
    messageLen r (2 ^ 20)
    checkErased [a] false
    let k ← captureOne r a (macKey m false)
    let d ← readData r
    unitFaults r true 0
    verdict (macOf m k.val d = r.x.bytes 0x50 m.len)
  | _ => refuse stBadField

/-- MAC_VERIFY (R121, R202). -/
def execMacVerify (e : BitVec 17) (env : CmdEnv) (s : State) : Host.Outcome State Fault Refusal :=
  .next (runOp e.toNat 0x0402 env macVerify s)

def macTranslate (r : Run) : Act Ans := do
  let mi := macParams r.x 0x40
  let mo := macParams r.x 0x43
  match ← checkForm r.x 0 [(offA, anyType), (offB, anyType)] [(0x40, 6), (0x50, min mi.len 16)] with
  | [a, b] =>
    check (mi.ok && mo.ok) stBadField
    messageLen r (2 ^ 20)
    checkErased [a, b] false
    let (ka, kb) ← captureTwo r a b (macKey mi false) (macKey mo true) (fun _ _ => true)
    checkCap r (macCap mo)
    let d ← readData r
    unitFaults r true 0
    if macOf mi ka.val d = r.x.bytes 0x50 mi.len then pure (macAns (macOf mo kb.val d)) else refuse stVerifyMismatch
  | _ => refuse stBadField

/-- MAC_TRANSLATE (R121, R203). -/
def execMacTranslate (e : BitVec 17) (env : CmdEnv) (s : State) : Host.Outcome State Fault Refusal :=
  .next (runOp e.toNat 0x0403 env macTranslate s)

end Sys2Proof.Machine
end

