-- ==== Sys2Proof/Machine/Bulk.lean ====
section
/-! DEFINITION. Classes 0x06 and 0x07: tokenisation (R252), bulk ciphers, hardware nonce counters, chaining contexts, held output
(R238 to R251), hashes (R254 to R257). -/

namespace Sys2Proof.Machine

/-! ## Parameters of a cipher command (R239, R240, R243) -/

structure Bulk where
  aead : Bool
  enc : Bool
  alg : Nat
  mode : Nat
  tag : Nat
  aad : Nat
  ctxIn : Bool
  ctxOut : Bool
  notFinal : Bool
  hw : Bool
  held : Bool
  deriving DecidableEq, Repr

def readBulk (x : Entry) : Bulk :=
  let op := x.opcode
  let aead := decide (op = 0x0703) || decide (op = 0x0704)
  { aead := aead, enc := decide (op = 0x0701) || decide (op = 0x0703), alg := x.byte 0x40, mode := x.byte 0x41,
    tag := if aead then x.byte 0x42 else 0, aad := if aead then x.num 0x48 4 else 0, ctxIn := x.flag 9, ctxOut := x.flag 10,
    notFinal := x.flag 11, hw := x.flag 8, held := x.flag 12 }

/-- Opcode flags of R117. -/
def bulkFlags (op : Nat) : Nat := if op = 0x0701 ∨ op = 0x0703 then 0x0F else if op = 0x0702 then 0x0E else 0x1E

def Bulk.ivLen (b : Bulk) : Nat := if b.aead then 12 else blockLen (tdesAlg b.alg)

/-- Inline fields that the layout uses (R124). -/
def Bulk.used (b : Bulk) : List (Nat × Nat) :=
  [(0x40, 1), (0x41, 1)] ++ (if b.aead then [(0x42, 1), (0x48, 4)] else []) ++ (if b.hw then [(0x44, 4)] else [])
    ++ (if b.ctxIn || b.hw then [] else [(0x50, b.ivLen)])

/-- Field and flag combinations of check 1 (R117, R238, R239, R242, R243). -/
def Bulk.fieldsOk (b : Bulk) : Bool :=
  let tdes := tdesAlg b.alg
  (algLen b.alg).isSome && (!b.notFinal || b.ctxOut) &&
  (if b.aead then
     b.mode = 5 && !tdes && decide (12 ≤ b.tag) && decide (b.tag ≤ 16) && !(b.held && (b.ctxIn || b.notFinal))
       && !(b.ctxOut && !b.notFinal) && !(b.aad ≠ 0 && b.ctxIn)
   else [2, 3, 4].contains b.mode && !(b.mode = 4 && (tdes || b.alg = 2)) && !(b.hw && (tdes || b.mode ≠ 3))) &&
  !(b.hw && b.ctxIn)

/-- Parts of the data buffer beside the text (R240). -/
def Bulk.parts (b : Bulk) : Nat :=
  (if b.ctxIn then 128 else 0) + b.aad + (if b.aead && !b.enc && !b.notFinal then b.tag else 0)

/-- The length rules of check 3 (R240, R250). -/
def Bulk.lengthsOk (b : Bulk) (text : Nat) : Bool :=
  let n := blockLen (tdesAlg b.alg)
  decide (b.aad + text ≤ 2 ^ 24) && (!b.notFinal || text % n = 0) && (!b.held || decide (text ≤ 65536)) &&
  (if b.aead then true else if b.mode = 3 then decide (1 ≤ text) else text % n = 0 && decide (n ≤ text))

/-- The symmetric algorithm code of a key (R116). -/
def keyAlgCode (a : Attr) : Nat :=
  if a.alg = .t then (if a.len = 16 then 0x11 else 0x12) else if a.len = 16 then 1 else if a.len = 24 then 2 else 3

/-- A data key for the command (R239, R244). -/
def Bulk.keyOk (b : Bulk) (k : Key) : Bool :=
  k.attr.use = .d0 && keyAlgCode k.attr = b.alg && (if b.enc then k.attr.mode.enc else k.attr.mode.dec)
    && (!b.enc || (b.hw = (k.attr.ctrKind = 2)))

/-! ## Chaining contexts (R246, R247) -/

structure Chain where
  text : Nat
  aad : Nat
  chain : Bytes
  extra : Bytes
  ej0 : Bytes
  deriving DecidableEq, Repr

def Bulk.wrapped (b : Bulk) : Bool := b.mode = 4 || b.mode = 5

def opFn (b : Bulk) : Nat := (if b.aead then 3 else 1) + (if b.enc then 0 else 1)

/-- Key binding of a context. -/
def ctxBinding (ck : Bytes) (keys : Bytes) : Bytes := kdf ck keys 16 "KN-CTX-KEY"

/-- A context sealed under the pitch's context key. -/
def sealCtx (b : Bulk) (ck : Bytes) (gen : Nat) (iv keys : Bytes) (c : Chain) : Bytes :=
  let head := [if b.wrapped then 2 else 1, BitVec.ofNat 8 (opFn b), BitVec.ofNat 8 b.alg, BitVec.ofNat 8 b.mode, BitVec.ofNat 8 b.tag]
    ++ zeros 3 ++ toLE 8 c.text ++ toLE 8 c.aad ++ toLE 8 gen ++ iv ++ zeros 4
  let body := ctxBinding ck keys ++ padTo 16 c.chain ++ padTo 16 c.extra ++ padTo 16 c.ej0
  if b.wrapped then
    let (e, t) := gcmSeal ck iv head body
    head ++ e ++ t
  else head ++ body ++ (gcmSeal ck iv (head ++ body) []).2

/-- Seal, generation and form of a context; its 64 body bytes in clear. -/
def unsealCtx (ck : Bytes) (gen : Nat) (c : Bytes) : Option Bytes :=
  let iv := slice c 0x20 12
  let form := (byteAt c 0).toNat
  let mode := (byteAt c 3).toNat
  let (body, ok) := if form = 2 then gcmOpen ck iv (c.take 0x30) (slice c 0x30 64) (slice c 0x70 16)
                    else (slice c 0x30 64, (gcmOpen ck iv (c.take 0x70) [] (slice c 0x70 16)).2)
  if ok ∧ fieldLE c 0x18 8 = gen ∧ ((form = 1 ∧ (mode = 2 ∨ mode = 3)) ∨ (form = 2 ∧ (mode = 4 ∨ mode = 5))) then some body else none

/-- A context accepted for a command (R247). -/
def openCtx (b : Bulk) (ck : Bytes) (gen : Nat) (keys : Bytes) (c : Bytes) : Option Chain :=
  match unsealCtx ck gen c with
  | none => none
  | some body =>
    if (byteAt c 1).toNat = opFn b ∧ (byteAt c 2).toNat = b.alg ∧ (byteAt c 3).toNat = b.mode ∧ (byteAt c 4).toNat = b.tag
        ∧ body.take 16 = ctxBinding ck keys then
      some { text := fieldLE c 8 8, aad := fieldLE c 0x10 8, chain := slice body 16 16, extra := slice body 32 16,
             ej0 := slice body 48 16 }
    else none

/-! ## Running a mode -/

/-- What a segment gives: output, chain for the next, full GCM tag; or COUNTER_EXHAUSTED (R241). -/
structure Segment where
  out : Bytes
  next : Chain
  tag : Bytes := []

/-- Where a fresh message starts. -/
def startChain (b : Bulk) (k k2 iv : Bytes) : Chain :=
  if b.mode = 4 then { text := 0, aad := 0, chain := Aes.enc k2 iv, extra := [], ej0 := [] }
  else if b.mode = 5 then
    { text := 0, aad := 0, chain := iv ++ [0, 0, 0, 2], extra := zeros 16, ej0 := Aes.enc k (iv ++ [0, 0, 0, 1]) }
  else { text := 0, aad := 0, chain := iv, extra := [], ej0 := [] }

/-- The counter of a context that earlier segments have brought past its last value: it stands at 0 again (R241). -/
def ctrSpent (c : Bytes) : Bool := beNat (c.drop (c.length - 4)) = 0

/-- The counter or block index can take the segment (R241). -/
def chainFits (b : Bulk) (c : Chain) (text : Nat) : Bool :=
  let n := blockLen (tdesAlg b.alg)
  let blocks := (text + n - 1) / n
  if b.mode = 3 ∨ b.mode = 5 then ctrFits (c.chain.take n) blocks && (blocks = 0 || c.text = 0 || !ctrSpent (c.chain.take n))
  else if b.mode = 4 then decide (leNat (c.extra.take 8) + blocks ≤ 2 ^ 20)
  else true

def runSegment (b : Bulk) (k : Bytes) (c : Chain) (aad text : Bytes) : Segment :=
  let tdes := tdesAlg b.alg
  let n := blockLen tdes
  let bl := chunks n text
  if b.mode = 2 then
    let (o, l) := if b.enc then cbcEnc tdes k bl (c.chain.take n) else cbcDec tdes k bl (c.chain.take n)
    { out := o, next := { c with text := c.text + text.length, chain := l } }
  else if b.mode = 3 then
    let (o, l) := ctrCrypt tdes k bl (c.chain.take n)
    { out := o, next := { c with text := c.text + text.length, chain := l } }
  else if b.mode = 4 then
    let (o, l) := xtsCrypt b.enc k bl c.chain
    { out := o, next := { c with text := c.text + text.length, chain := l, extra := toLE 8 (leNat (c.extra.take 8) + bl.length) } }
  else
    let h := Aes.enc k (zeros 16)
    let (o, l) := ctrCrypt false k bl c.chain
    let y := ghash h (chunks 16 (if b.enc then o else text)) (ghash h (chunks 16 aad) c.extra)
    let next : Chain := { text := c.text + text.length, aad := c.aad + aad.length, chain := l, extra := y, ej0 := c.ej0 }
    { out := o, next := next, tag := gcmTag h y next.aad next.text c.ej0 }

/-- Plaintext written before its tag failed, then overwritten with zeros (R249). -/
def spill (r : Run) (text : Bytes) (s : State) : State :=
  let q := s.cq r.p
  if q.state = .active ∧ s.gateOpen ∧ (s.fn q.port q.fn).bme ∧ text ≠ [] then
    let a := BitVec.ofNat 64 (r.x.num 0x30 8)
    (s.emit (.result q.port a text)).emit (.result q.port a (zeros text.length))
  else s

/-- What follows the commit point: data, context, lanes, tag, output (R240 to R250). -/
def bulkRun (r : Run) (b : Bulk) (k k2 : Bytes) (ck : Option Bytes) (gen : Nat) (iv : Bytes) (inl : BitVec 64) : Act Ans := do
  let d ← readData r
  let ctx := if b.ctxIn then d.take 128 else []
  let rest := if b.ctxIn then d.drop 128 else d
  let tagLen := b.parts - (if b.ctxIn then 128 else 0) - b.aad
  let text := (rest.drop b.aad).take (rest.length - b.aad - tagLen)
  let start := if b.ctxIn then openCtx b (ck.getD []) gen (k ++ k2) ctx else some (startChain b k k2 iv)
  match start with
  | none => refuse stKeyBlockAuth
  | some c =>
    check (chainFits b c text.length) stCounterExhausted
    unitFaults r true inl
    let g := runSegment b k c (rest.take b.aad) text
    let saved ← if b.ctxOut then do
        let ivc ← drawFrom r.drbg 12
        pure (sealCtx b (ck.getD []) gen ivc (k ++ k2) g.next)
      else pure []
    if b.aead && !b.enc && !b.notFinal then
      if g.tag.take b.tag = rest.drop (rest.length - b.tag) then pure { result := g.out ++ saved }
      else
        if b.held then modify fun s => { s with units := { s.units with heldFail := s.units.heldFail + 1 } }
        else modify (spill r g.out)
        refuse stTagMismatch
    else pure { result := g.out ++ (if b.aead && b.enc && !b.notFinal then g.tag.take b.tag else []) ++ saved, inline := inl }

/-- A class 0x07 cipher command. -/
def bulk (r : Run) : Act Ans := do
  let x := r.x
  let b := readBulk x
  let xts := decide (b.mode = 4) && !b.aead
  match ← checkForm x (bulkFlags x.opcode) [(offA, anyType), (offB, if xts then anyType else [0])] b.used with
  | [ra, rb] =>
    check b.fieldsOk stBadField
    check (decide (b.parts ≤ x.dataLen)) stBadLength
    let text := x.dataLen - b.parts
    check (b.lengthsOk text) stMessageLimit
    checkErased [ra, rb] (b.ctxIn || b.ctxOut)
    let twoOk := fun l => match l with
      | [some p, some q] => decide (q.attr.alg = p.attr.alg) && decide (q.attr.len = p.attr.len) && decide (q.val ≠ p.val)
      | _ => true
    match ← capture r [⟨ra, r.env.blkA, b.keyOk⟩, ⟨rb, r.env.blkB, b.keyOk⟩] twoOk with
    | [some ka, kb] =>
      let s ← get
      let ck := (s.pitch r.p).ctxKey
      let gen := (s.pitch r.p).ctxGen.toNat
      checkCap r (text + (if b.aead && b.enc && !b.notFinal then b.tag else 0) + (if b.ctxOut then 128 else 0))
      let k2 := match kb with
        | some k => k.val
        | none => []
      if b.hw then
        let v ← spendCounter r ka
        let inl := BitVec.ofNat 64 v
        let iv := x.bytes 0x44 4 ++ toBE 8 v ++ (if b.aead then [] else zeros 4)
        spent inl (bulkRun r b ka.val k2 ck gen iv inl)
      else bulkRun r b ka.val k2 ck gen (x.bytes 0x50 b.ivLen) 0
    | _ => refuse stKeyNotFound
  | _ => refuse stBadField

/-- CIPHER_ENCRYPT (R124, R238 to R247). -/
def execCipherEncrypt (e : BitVec 17) (env : CmdEnv) (s : State) : Host.Outcome State Fault Refusal :=
  .next (runOp e.toNat 0x0701 env bulk s)

/-- CIPHER_DECRYPT (R124, R238 to R247). -/
def execCipherDecrypt (e : BitVec 17) (env : CmdEnv) (s : State) : Host.Outcome State Fault Refusal :=
  .next (runOp e.toNat 0x0702 env bulk s)

/-- AEAD_ENCRYPT (R124, R242 to R247). -/
def execAeadEncrypt (e : BitVec 17) (env : CmdEnv) (s : State) : Host.Outcome State Fault Refusal :=
  .next (runOp e.toNat 0x0703 env bulk s)

/-- AEAD_DECRYPT (R124, R242, R249, R250). -/
def execAeadDecrypt (e : BitVec 17) (env : CmdEnv) (s : State) : Host.Outcome State Fault Refusal :=
  .next (runOp e.toNat 0x0704 env bulk s)

/-! ## CIPHER_CONTEXT (R150, R248) -/

/-- Rotation of the pitch context key at its commit point. -/
def rotateContext (r : Run) (want : Nat) : Act Ans := do
  let s ← get
  if s.commitWaits then throw .wait
  check ((s.pitch r.p).ctxGen.toNat = want) stBadField
  let key ← drawFrom 9 32
  modify (commitEntry r.e)
  modify fun s =>
    let g := (s.pitch r.p).ctxGen + 1
    let s := s.updPitch r.p fun v => { v with ctxKey := some key, ctxGen := g }
    mirror (.contextKey r.x.pitch s.csn key g) (journal (.contextKey r.x.pitch (some key) g) s.csn s)
  pure { inline := ((← get).pitch r.p).ctxGen }

def cipherContext (r : Run) : Act Ans := do
  let x := r.x
  let op := x.byte 0x40
  let _ ← checkForm x 0 [(offA, [0]), (offB, [0])] ([(0x40, 1)] ++ if op = 1 then [(0x48, 8)] else [])
  check (op = 1 || op = 2) stBadField
  check (x.dataLen = if op = 1 then 0 else 128) stBadLength
  checkErased [] true
  if op = 1 then
    unitFaults r false 0
    rotateContext r (x.num 0x48 8)
  else
    let s ← get
    let d ← readData r
    unitFaults r true 0
    match unsealCtx ((s.pitch r.p).ctxKey.getD []) (s.pitch r.p).ctxGen.toNat d with
    | some _ => pure { inline := 1 }
    | none => refuse stKeyBlockAuth

/-- CIPHER_CONTEXT (R124, R248). -/
def execCipherContext (e : BitVec 17) (env : CmdEnv) (s : State) : Host.Outcome State Fault Refusal :=
  .next (runOp e.toNat 0x0707 env cipherContext s)

/-! ## Hashes (R254 to R257) -/

def hashOutOk (code out : Nat) : Bool :=
  if code = 7 ∨ code = 8 then decide (1 ≤ out) && decide (out ≤ 512) else decide (1 ≤ code) && decide (code ≤ 6) && out = 0

def hashCmd (r : Run) : Act Ans := do
  let x := r.x
  let code := x.byte 0x40
  let out := x.num 0x42 2
  let _ ← checkForm x 0 [(offA, [0]), (offB, [0])] [(0x40, 1), (0x42, 2)]
  check (hashOutOk code out) stBadField
  check (decide (x.dataLen ≤ 2 ^ 24)) stMessageLimit
  checkCap r (if code = 7 ∨ code = 8 then out else hashLen code)
  let d ← readData r
  unitFaults r false 0
  pure { result := hashOf code d out }

/-- HASH (R124, R257). -/
def execHash (e : BitVec 17) (env : CmdEnv) (s : State) : Host.Outcome State Fault Refusal :=
  .next (runOp e.toNat 0x0705 env hashCmd s)

/-- Field checks of KEYED_HASH. -/
def keyedHashFields (code out cust : Nat) : Bool :=
  if [0x11, 0x12, 0x13].contains code then out = 0 && cust = 0
  else (code = 0x21 || code = 0x22) && decide (16 ≤ out) && decide (out ≤ 64) && decide (cust ≤ 32)

/-- Key checks of KEYED_HASH. -/
def keyedHashKey (code : Nat) (k : Key) : Bool :=
  k.attr.use = .m7 && k.attr.mode.gen &&
    (if [0x11, 0x12, 0x13].contains code then k.tag.hm = some (BitVec.ofNat 8 (code - 0x10))
     else k.tag.hm.isNone && (code = 0x21 || decide (32 ≤ k.attr.len)))

def keyedHashCmd (r : Run) : Act Ans := do
  let x := r.x
  let code := x.byte 0x40
  let out := x.num 0x42 2
  let cust := x.byte 0x44
  match ← checkForm x 0 [(offA, anyType), (offB, [0])] [(0x40, 1), (0x42, 2), (0x44, 1), (0x60, min cust 32)] with
  | [a, _] =>
    check (keyedHashFields code out cust) stBadField
    check (decide (x.dataLen ≤ 2 ^ 24)) stMessageLimit
    checkErased [a] false
    let k ← captureOne r a (keyedHashKey code)
    checkCap r (if [0x11, 0x12, 0x13].contains code then hashLen (code - 0x10) else out)
    let d ← readData r
    unitFaults r false 0
    pure { result := keyedHash code k.val d out (x.bytes 0x60 cust) }
  | _ => refuse stBadField

/-- KEYED_HASH (R124, R257). -/
def execKeyedHash (e : BitVec 17) (env : CmdEnv) (s : State) : Host.Outcome State Fault Refusal :=
  .next (runOp e.toNat 0x0706 env keyedHashCmd s)

/-! ## Tokenisation (R252) -/

def tokenFields (x : Entry) : Bool :=
  let radix := x.byte 0x40
  let n := x.byte 0x41
  let m := n - x.byte 0x42 - x.byte 0x43
  decide (2 ≤ radix) && decide (radix ≤ 64) && decide (1 ≤ n) && decide (n ≤ 32) && decide (2 ≤ m) && decide (1000000 ≤ radix ^ m)
    && decide (x.byte 0x44 ≤ 24) && (x.bytes 0x60 n).all fun b => decide (b.toNat < radix)

def token (enc : Bool) (r : Run) : Act Ans := do
  let x := r.x
  let n := x.byte 0x41
  match ← checkForm x 0 [(offA, anyType), (offB, [0])] [(0x40, 5), (0x48, min (x.byte 0x44) 24), (0x60, min n 32)] with
  | [a, _] =>
    check (tokenFields x) stBadField
    noData r
    checkErased [a] false
    let k ← captureOne r a fun k => k.attr.use = .u91 && (if enc then k.attr.mode.enc else k.attr.mode.dec)
    checkCap r n
    unitFaults r true 0
    let sy := (x.bytes 0x60 n).map (·.toNat)
    let l := x.byte 0x42
    let m := n - l - x.byte 0x43
    let y := ff1 enc k.val (x.bytes 0x48 (x.byte 0x44)) (x.byte 0x40) ((sy.drop l).take m)
    pure { result := (sy.take l ++ y ++ sy.drop (l + m)).map (BitVec.ofNat 8) }
  | _ => refuse stBadField

/-- TOKEN_ENCRYPT (R123, R252). -/
def execTokenEncrypt (e : BitVec 17) (env : CmdEnv) (s : State) : Host.Outcome State Fault Refusal :=
  .next (runOp e.toNat 0x0601 env (token true) s)

/-- TOKEN_DECRYPT (R123, R252). -/
def execTokenDecrypt (e : BitVec 17) (env : CmdEnv) (s : State) : Host.Outcome State Fault Refusal :=
  .next (runOp e.toNat 0x0602 env (token false) s)

end Sys2Proof.Machine
end

