-- ==== Sys2Proof/Machine/CardCmds.lean ====
section
/-! DEFINITION. Class 0x03: card verification codes (R192 to R194), EMV cryptograms (R195 to R198), issuer scripts (R199, R200). -/

namespace Sys2Proof.Machine

def bcdOk (b : Bytes) : Bool := (nibbles b).all fun n => decide (n ≤ 9)

/-! ## Card verification codes -/

/-- Expiry YYMM (R194). -/
def expiryOk (b : Bytes) : Bool :=
  let n := nibbles b
  let m := 10 * n.getD 2 0 + n.getD 3 0
  bcdOk b && decide (1 ≤ m) && decide (m ≤ 12)

/-- Three BCD digits followed by 0xF. -/
def threeDigits (b : Bytes) : Bool :=
  let n := nibbles b
  (n.take 3).all (fun x => decide (x ≤ 9)) && n.getD 3 0 = 15

/-- The service code of a variant (R192). -/
def serviceCode (x : Entry) : List Nat :=
  if x.byte 0x50 = 0 then (nibbles (x.bytes 0x4E 2)).take 3 else if x.byte 0x50 = 1 then [0, 0, 0] else [9, 9, 9]

/-- cvc of R193 over the 16 bytes of the 32 digits. -/
def cvc (k : Key) (b : Bytes) : List Nat :=
  let ka := k.val.take 8
  let kb := k.val.drop 8
  let c := if k.attr.alg = .t then
             Des.desEnc ka (Des.desDec kb (Des.desEnc ka (xorB (Des.desEnc ka (b.take 8)) (b.drop 8))))
           else (Aes.enc k.val b).take 8
  scan (nibbles c) 3

/-- A CVK: C0, not 3-key TDES (R193). -/
def cvk (gen : Bool) (k : Key) : Bool :=
  k.attr.use = .c0 && (k.attr.alg ≠ .t || k.attr.len = 16) && (if gen then k.attr.mode.gen else k.attr.mode.ver)

/-- The code that a CVC command computes, after its checks. -/
def cvcCode (r : Run) (gen : Bool) : Act (List Nat) := do
  let x := r.x
  let v := x.byte 0x50
  let used := [(0x40, 12), (0x4C, 2), (0x50, 1)] ++ (if v = 0 then [(0x4E, 2)] else []) ++ (if gen then [] else [(0x52, 2)])
  match ← checkForm x 0 [(offA, anyType), (offB, [0])] used with
  | [a, _] =>
    match readPan (x.bytes 0x40 12) with
    | none => refuse stBadField
    | some pan =>
      check (expiryOk (x.bytes 0x4C 2) && decide (v ≤ 2) && (v ≠ 0 || threeDigits (x.bytes 0x4E 2))
        && (gen || threeDigits (x.bytes 0x52 2))) stBadField
      noData r
      checkErased [a] false
      let k ← captureOne r a (cvk gen)
      unitFaults r true 0
      let d := pan ++ nibbles (x.bytes 0x4C 2) ++ serviceCode x
      pure (cvc k (ofNibbles (d ++ List.replicate (32 - d.length) 0)))
  | _ => refuse stBadField

def cvcGenerate (r : Run) : Act Ans := do
  let c ← cvcCode r true
  pure { inline := inlineOf (ofNibbles (c ++ [15])) }

/-- CVC_GENERATE (R120, R192 to R194). -/
def execCvcGenerate (e : BitVec 17) (env : CmdEnv) (s : State) : Host.Outcome State Fault Refusal :=
  .next (runOp e.toNat 0x0301 env cvcGenerate s)

def cvcVerify (r : Run) : Act Ans := do
  let c ← cvcCode r false
  verdict (c = (nibbles (r.x.bytes 0x52 2)).take 3)

/-- CVC_VERIFY (R120, R193). -/
def execCvcVerify (e : BitVec 17) (env : CmdEnv) (s : State) : Host.Outcome State Fault Refusal :=
  .next (runOp e.toNat 0x0302 env cvcVerify s)

/-! ## EMV keys (R195, R196) -/

/-- A byte with odd parity in its low bit. -/
def oddParity (b : Byte) : Byte :=
  let h := b &&& 0xFE
  let ones := ((List.range 8).filter fun i => h.getLsbD i).length
  if ones % 2 = 0 then h ||| 1 else h

/-- card_master_key. -/
def cardMasterKey (imk : Key) (pan : List Nat) (psn : Byte) : Bytes :=
  let d := pan ++ [psn.toNat / 16, psn.toNat % 16]
  let y := ofNibbles (List.replicate (16 - d.length) 0 ++ d.drop (d.length - 16))
  let y2 := y.map fun b => b ^^^ 0xFF
  if imk.attr.alg = .t then (Des.enc imk.val y ++ Des.enc imk.val y2).map oddParity
  else (Aes.enc imk.val (y ++ y2) ++ Aes.enc imk.val (y2 ++ y)).take imk.val.length

/-- session_key with the diversification value `v` of 8 bytes. -/
def sessionKey (tdes : Bool) (mk v : Bytes) : Bytes :=
  let f := fun m : Byte => v.set 2 m
  if tdes then (Des.enc mk (f 0xF0) ++ Des.enc mk (f 0x0F)).map oddParity
  else (Aes.enc mk (f 0xF0 ++ zeros 8) ++ Aes.enc mk (f 0x0F ++ zeros 8)).take mk.length

/-- The card key, or the session key where the session byte asks for it. -/
def emvKey (k : Key) (pan : List Nat) (psn : Byte) (session : Nat) (v : Bytes) : Bytes :=
  let mk := cardMasterKey k pan psn
  if session = 1 then sessionKey (k.attr.alg = .t) mk v else mk

/-- The 8-byte MAC of R197. -/
def emvMac (tdes : Bool) (k m : Bytes) : Bytes := if tdes then isoMac3 k 2 m else (cmac false k m).take 8

/-- An EMV master key of a usage: AES, or 2-key TDES. -/
def emvMaster (u : Use) (k : Key) : Bool := k.attr.use = u && (k.attr.alg ≠ .t || k.attr.len = 16)

/-- Fields 0x40 to 0x57 of the EMV commands (R120). -/
def emvFields : List (Nat × Nat) := [(0x40, 12), (0x4C, 1), (0x4D, 1), (0x4E, 2), (0x50, 8)]

def emvFieldsOk (x : Entry) : Bool :=
  (readPan (x.bytes 0x40 12)).isSome && bcdOk (x.bytes 0x4C 1) && decide (x.byte 0x4D ≤ 1)

/-- The cryptogram key of a command (R195, R196). -/
def arqcKey (x : Entry) (k : Key) : Bytes :=
  emvKey k ((readPan (x.bytes 0x40 12)).getD []) (byteAt x.sqe 0x4C) (x.byte 0x4D) (x.bytes 0x4E 2 ++ zeros 6)

/-! ## ARQC and ARPC (R197, R198) -/

def arqcVerify (r : Run) : Act Ans := do
  let x := r.x
  match ← checkForm x 0 [(offA, anyType), (offB, [0])] emvFields with
  | [a, _] =>
    check (emvFieldsOk x) stBadField
    check (decide (1 ≤ x.dataLen) && decide (x.dataLen ≤ 255)) stBadLength
    checkErased [a] false
    let k ← captureOne r a (emvMaster .e0)
    let d ← readData r
    unitFaults r true 0
    verdict (emvMac (k.attr.alg = .t) (arqcKey x k) d = x.bytes 0x50 8)
  | _ => refuse stBadField

/-- ARQC_VERIFY (R120, R195 to R197). -/
def execArqcVerify (e : BitVec 17) (env : CmdEnv) (s : State) : Host.Outcome State Fault Refusal :=
  .next (runOp e.toNat 0x0303 env arqcVerify s)

/-- The ARPC (R198). -/
def arpc (tdes : Bool) (k : Bytes) (x : Entry) (prop : Bytes) : Bytes :=
  let q := x.bytes 0x50 8
  if x.byte 0x5C = 1 then
    let y := xorB q (x.bytes 0x60 2 ++ zeros 6)
    if tdes then Des.enc k y else (Aes.enc k (y ++ zeros 8)).take 8
  else (emvMac tdes k (q ++ x.bytes 0x60 4 ++ prop)).take 4

def arqcVerifyArpc (r : Run) : Act Ans := do
  let x := r.x
  let m := x.byte 0x5C
  let n := x.byte 0x64
  match ← checkForm x 0 [(offA, anyType), (offB, [0])] (emvFields ++ [(0x5C, 1), (0x60, if m = 1 then 2 else 4), (0x64, 1)]) with
  | [a, _] =>
    check (emvFieldsOk x && (m = 1 || m = 2) && (m ≠ 1 || n = 0) && decide (n ≤ 8)) stBadField
    check (decide (n + 1 ≤ x.dataLen) && decide (x.dataLen ≤ n + 255)) stBadLength
    checkErased [a] false
    let k ← captureOne r a (emvMaster .e0)
    checkCap r (if m = 1 then 8 else 4)
    let d ← readData r
    unitFaults r true 0
    let tdes := decide (k.attr.alg = .t)
    let key := arqcKey x k
    if emvMac tdes key (d.take (d.length - n)) = x.bytes 0x50 8 then
      pure { inline := 1, result := arpc tdes key x (d.drop (d.length - n)) }
    else refuse stVerifyMismatch
  | _ => refuse stBadField

/-- ARQC_VERIFY_ARPC (R120, R198). -/
def execArqcVerifyArpc (e : BitVec 17) (env : CmdEnv) (s : State) : Host.Outcome State Fault Refusal :=
  .next (runOp e.toNat 0x0304 env arqcVerifyArpc s)

/-! ## Issuer scripts (R199, R200) -/

/-- Padding of the confidential data: 0x80 and zeros, always. -/
def pad80 (n : Nat) (d : Bytes) : Bytes := let p := d ++ [0x80]; p ++ zeros ((n - p.length % n) % n)

/-- script_protect: the enciphered data, if any, and the MAC. -/
def scriptProtect (x : Entry) (cmd : Bytes) (macTdes : Bool) (skMac : Bytes) (enc : Option (Bool × Bytes)) : Bytes :=
  let d := match enc with
    | none => cmd.drop 5
    | some (tdes, sk) =>
      (cbcEnc tdes sk (chunks (blockLen tdes) (pad80 (blockLen tdes) (cmd.drop 5))) (zeros (blockLen tdes))).1
  let mac := emvMac macTdes skMac
    (cmd.take 4 ++ [BitVec.ofNat 8 (d.length + 8)] ++ x.bytes 0x4E 2 ++ x.bytes 0x50 8 ++ d)
  (if enc.isSome then d else []) ++ mac

/-- The key of a script: R195, and with session 1 R196 with V the ARQC (R199). -/
def scriptKey (x : Entry) (k : Key) : Bytes :=
  emvKey k ((readPan (x.bytes 0x40 12)).getD []) (byteAt x.sqe 0x4C) (x.byte 0x4D) (x.bytes 0x50 8)

def emvScript (r : Run) : Act Ans := do
  let x := r.x
  let encipher := x.flag 8
  match ← checkForm x 1 [(offA, anyType), (offB, if encipher then anyType else [0])] emvFields with
  | [a, b] =>
    check (emvFieldsOk x) stBadField
    check (decide (5 ≤ x.dataLen) && decide (x.dataLen ≤ 255)) stBadLength
    check (decide (x.dataLen - 5 ≤ if encipher then 239 else 247)) stMessageLimit
    checkErased [a, b] false
    match ← capture r [⟨a, r.env.blkA, emvMaster .e2⟩, ⟨b, r.env.blkB, emvMaster .e1⟩] (fun _ => true) with
    | [some ka, kb] =>
      let bl := match kb with
        | some k => let n := blockLen (k.attr.alg = .t); (x.dataLen - 5) / n * n + n
        | none => 0
      checkCap r (bl + 8)
      let d ← readData r
      check ((byteAt d 4).toNat = x.dataLen - 5) stBadLength
      unitFaults r true 0
      pure { result := scriptProtect x d (ka.attr.alg = .t) (scriptKey x ka)
                         (kb.map fun k => (decide (k.attr.alg = .t), scriptKey x k)) }
    | _ => refuse stKeyNotFound
  | _ => refuse stBadField

/-- EMV_SCRIPT_PROTECT (R120, R199, R200). -/
def execEmvScriptProtect (e : BitVec 17) (env : CmdEnv) (s : State) : Host.Outcome State Fault Refusal :=
  .next (runOp e.toNat 0x0305 env emvScript s)

end Sys2Proof.Machine
end

