-- ==== Sys2Proof/Machine/Dukpt.lean ====
section
/-! DEFINITION. Class 0x05: DUKPT commands, the derivation cache with its walkers and the replay check (R208 to R229). -/

namespace Sys2Proof.Machine

/-! ## Key serial numbers (R208 to R210) -/

structure Ksn where
  tdes : Bool
  id : Bytes
  ctr : Nat
  deriving DecidableEq, Repr

/-- The KSN at 0x40 by its type byte. -/
def readKsn (x : Entry) : Ksn :=
  if x.byte 0x4C = 1 then
    let b7 := byteAt x.sqe 0x47
    { tdes := true, id := x.bytes 0x40 7 ++ [b7 &&& 0xE0], ctr := beNat ((b7 &&& 0x1F) :: x.bytes 0x48 2) }
  else { tdes := false, id := x.bytes 0x40 8, ctr := beNat (x.bytes 0x48 4) }

/-- What check 1 asks of a KSN (R116, R210). -/
def ksnFieldOk (x : Entry) : Bool :=
  decide (x.byte 0x4C ≤ 1) && (x.byte 0x4C = 0 || x.num 0x4A 2 = 0) && (readKsn x).ctr ≠ 0

def ones (n : Nat) : Nat := ((List.range 32).filter fun i => n.testBit i).length

/-- A counter that the terminal can have reached (R210). -/
def Ksn.reachable (k : Ksn) : Bool := decide (ones k.ctr ≤ if k.tdes then 10 else 16)

/-- high(c) of R215. -/
def highOf (c : Nat) : Nat := c / 256 * 256

/-- A BDK for the KSN type (R211). -/
def bdkOk (tdes : Bool) (k : Key) : Bool :=
  k.attr.use = .b0 && k.attr.mode = .x && (if tdes then k.attr.alg = .t && k.attr.len = 16 else k.attr.alg = .a)

/-! ## The derivation cache (R216 to R219) -/

/-- The clock hand of a set (R219); `fuel` bounds its two turns. -/
def dkcClock (p set : Nat) : Nat → Nat → State → Nat × State
  | 0, w, s => (w % 8, s)
  | f + 1, w, s =>
    let i := 8 * set + w % 8
    if (s.dkcEntry p i).ref then dkcClock p set f (w + 1) (s.setDkc p i { s.dkcEntry p i with ref := false })
    else (w % 8, s)

/-- The way that a miss fills (R219). -/
def dkcPick (p set : Nat) (s : State) : Nat × State :=
  let ways := (List.range 8).map fun w => 8 * set + w
  match ways.find? (fun i => !(s.dkcEntry p i).valid) with
  | some i => (i, s)
  | none => match ways.find? (fun i => !s.dkcLive p i) with
    | some i => (i, s)
    | none =>
      let hand := 2 ^ 20 * p + set
      let (w, s) := dkcClock p set 16 (s.caches.dkcHand.get 0 hand) s
      (8 * set + w, { s with caches := { s.caches with dkcHand := s.caches.dkcHand.set 0 hand ((w + 1) % 8) } })

/-! ## Walkers (R218, R220) -/

/-- A walker works towards the entry of the lookup key. -/
def walkerSame (p : BitVec 12) (k : Ksn) (b : Binding) (w : Option Walker) : Bool :=
  match w with
  | none => false
  | some w => w.pitch = p && w.tdes = k.tdes && w.binding = b && w.id = k.id && w.mode ≠ 0

/-- The number of a walker that is free. -/
def State.freeWalker (s : State) : Option Nat :=
  if s.caches.walker0.isNone then some 0 else if s.caches.walker1.isNone then some 1 else none

def setWalker (n : Nat) (w : Option Walker) (s : State) : State :=
  if n = 0 then { s with caches := { s.caches with walker0 := w } } else { s with caches := { s.caches with walker1 := w } }

/-- The walker's key for high(c) from the BDK (R218). -/
def walkerKey (k : Ksn) (bdk : Bytes) : Bytes := dukptWalk k.tdes k.id (dukptInitial k.tdes bdk k.id) 0 (highOf k.ctr)

/-- A walker rewrites or fills the entry of the lookup key: a lookup of the same key waits, and looks up again (R220). -/
def State.walkerBusy (s : State) (p : BitVec 12) (k : Ksn) (b : Binding) : Bool :=
  walkerSame p k b s.caches.walker0 || walkerSame p k b s.caches.walker1

/-- A command joins the line of those that wait for a walker (R220). -/
def queueWalker (e : Nat) (s : State) : State :=
  if s.caches.walkQueue.contains e then s else { s with caches := { s.caches with walkQueue := s.caches.walkQueue ++ [e] } }

/-- A command goes to a walker in its turn of arrival (R220); `count` is what its lookup counts. -/
def startWalker (r : Run) (k : Ksn) (bdk : Key) (mode : BitVec 2) (count : Pitch → Pitch) : Act Bytes := do
  let s ← get
  match s.freeWalker with
  | some n =>
    if s.caches.walkQueue = [] ∨ s.caches.walkQueue.head? = some r.e then
      let w : Walker := { entry := r.e, pitch := r.x.pitch, tdes := k.tdes, binding := bdk.binding, id := k.id,
                          anchor := highOf k.ctr, key := walkerKey k bdk.val, gen := (s.pitch r.p).gen, mode := mode }
      let s := (s.updPitch r.p count).updEntry r.e fun x => { x with walker := some n }
      let s := { s with caches := { s.caches with walkQueue := s.caches.walkQueue.erase r.e } }
      set (setWalker n (some w) s)
      throw .parked
    else
      set (queueWalker r.e s)
      throw .wait
  | none =>
    set (queueWalker r.e s)
    throw .wait

/-- The replay check (R223). -/
def State.replayRefuses (s : State) (p c high : Nat) : Bool :=
  (s.pitch p).replayOn && decide (c + (s.pitch p).replayTol.toNat < high)

/-- The DKC step: the key for high(c) (R218, R223). -/
def dkcStep (r : Run) (k : Ksn) (bdk : Key) : Act Bytes := do
  match r.x.anchor with
  | some key => pure key
  | none =>
    check k.reachable stCounterExhausted
    let s ← get
    if s.walkerBusy r.x.pitch k bdk.binding then throw .wait
    match s.dkcFind r.p k.tdes k.id bdk.binding with
    | some i =>
      let v := s.dkcEntry r.p i
      if s.replayRefuses r.p k.ctr v.high then
        set (s.updPitch r.p fun v => { v with dkcReplay := v.dkcReplay + 1 })
        refuse stCounterExhausted
      else
        let t := s.setDkc r.p i { v with ref := true }
        if v.anchor = highOf k.ctr then
          set (t.updPitch r.p fun v => { v with dkcHit := v.dkcHit + 1 })
          pure v.key
        else
          set t
          startWalker r k bdk (if v.anchor < highOf k.ctr then 1 else 0) fun v => { v with dkcAnchor := v.dkcAnchor + 1 }
    | none =>
      startWalker r k bdk (if (s.pitch r.p).dkcCap = 0 then 0 else 2) fun v => { v with dkcMiss := v.dkcMiss + 1 }

/-- The walker's entry: rewritten with its H kept, or filled with H = 0 (R218, R219). -/
def walkerStore (w : Walker) (s : State) : State :=
  let p := w.pitch.toNat
  if w.gen ≠ (s.pitch p).gen ∨ w.mode = 0 then s
  else match s.dkcFind p w.tdes w.id w.binding with
    | some i => s.setDkc p i { s.dkcEntry p i with anchor := w.anchor, key := w.key, ref := true }
    | none =>
      if w.mode = 1 ∨ (s.pitch p).dkcCap = 0 then s
      else
        let (i, s) := dkcPick p (s.dkcSet p w.tdes w.id w.binding) s
        s.setDkc p i { valid := true, tdes := w.tdes, ref := true, gen := w.gen, binding := w.binding, anchor := w.anchor,
                       id := w.id, high := 0, key := w.key }

/-- A walker has come to the key for high(c): it hands the key over, then stores it (R218). A failed line MAC ends its command with
MEMORY_ECC, and nothing is stored (R18). -/
def walkerDone (n : Nat) (ecc : Option (BitVec 31)) (s : State) : State :=
  match (if n = 0 then s.caches.walker0 else s.caches.walker1) with
  | none => s
  | some w =>
    let mine : Bool := match s.entry w.entry with
      | some x => x.walker = some n
      | none => false
    match ecc with
    | some l =>
      let s := setWalker n none (memoryFault l s)
      if mine then finish w.entry { status := stMemoryEcc } s else s
    | none =>
      let s := if mine then s.updEntry w.entry fun x => { x with walker := none, anchor := some w.key } else s
      setWalker n none (walkerStore w s)

/-- DKC_WALKER_DONE (R218, R220). -/
def execDkcWalkerDone (w : BitVec 1) (s : State) (ecc : Option (BitVec 31) := none) : Host.Outcome State Fault Refusal :=
  .next (walkerDone w.toNat ecc s)

/-- The working key of a use (R213, R214). -/
def workingKey (k : Ksn) (anchorKey : Bytes) (u : DukptUse) : Bytes :=
  dukptWorking k.tdes k.id (dukptWalk k.tdes k.id anchorKey (highOf k.ctr) k.ctr) u k.ctr

/-- The H that the command raises when it completes with DONE (R224). -/
def Ksn.mark (k : Ksn) (bdk : Key) : HighMark := { tdes := k.tdes, id := k.id, binding := bdk.binding, ctr := k.ctr }

/-! ## DUKPT_DECRYPT_DATA (R226) -/

def dukptDecrypt (r : Run) : Act Ans := do
  let x := r.x
  let k := readKsn x
  let m := x.byte 0x4E
  match ← checkForm x 0 [(offA, heldType), (offB, [0])]
      [(0x40, if k.tdes then 10 else 12), (0x4C, 1), (0x4D, 1), (0x4E, 1), (0x50, blockLen k.tdes)] with
  | [a, _] =>
    check (ksnFieldOk x && decide (x.byte 0x4D ≤ 1) && (m = 2 || (m = 3 && !k.tdes))) stBadField
    check (decide (16 ≤ x.dataLen) && decide (x.dataLen ≤ 4096)) stBadLength
    check (m = 3 || x.dataLen % blockLen k.tdes = 0) stMessageLimit
    checkErased [a] false
    let bdk ← captureOne r a (bdkOk k.tdes)
    checkCap r x.dataLen
    let ak ← dkcStep r k bdk
    let d ← readData r
    let iv := x.bytes 0x50 (blockLen k.tdes)
    check (m ≠ 3 || ctrFits iv ((x.dataLen + 15) / 16)) stCounterExhausted
    unitFaults r true 0
    let wk := workingKey k ak (if x.byte 0x4D = 0 then .dataRequest else .dataResponse)
    let bl := chunks (blockLen k.tdes) d
    pure { result := if m = 3 then (ctrCrypt false wk bl iv).1 else (cbcDec k.tdes wk bl iv).1, high := some (k.mark bdk) }
  | _ => refuse stBadField

/-- DUKPT_DECRYPT_DATA (R122, R226). -/
def execDukptDecryptData (e : BitVec 17) (env : CmdEnv) (s : State) : Host.Outcome State Fault Refusal :=
  .next (runOp e.toNat 0x0501 env dukptDecrypt s)

/-! ## DUKPT_PIN_TRANSLATE (R227) -/

def dukptPin (r : Run) : Act Ans := do
  let x := r.x
  let k := readKsn x
  let fin := x.byte 0x4D
  let fout := x.byte 0x4E
  let usesPan := fin ≠ 1 || fout ≠ 1
  let pan := readPan (x.bytes 0x60 12)
  match ← checkForm x 0 [(offA, heldType), (offB, anyType)]
      ([(0x40, if k.tdes then 10 else 12), (0x4C, 1), (0x4D, 1), (0x4E, 1), (0x50, 16)] ++ if usesPan then [(0x60, 12)] else []) with
  | [a, b] =>
    check (ksnFieldOk x && translatePair fin fout && pinBlockOk fin (x.bytes 0x50 16) && (!usesPan || pan.isSome)) stBadField
    noData r
    checkErased [a, b] false
    let (bdk, kb) ← captureTwo r a b (fun q => bdkOk k.tdes q && (fin = 4) = !k.tdes) (pinKey fout true) (fun _ _ => true)
    checkCap r (pinLen fout)
    let ak ← dkcStep r k bdk
    let fresh ← pinFresh r fout
    unitFaults r true 0
    let wk := workingKey k ak .pin
    match pinOf fin (pinDecipher fin wk ((x.bytes 0x50 16).take (pinLen fin)) (panField fin (pan.getD []))) with
    | some pin => pure { result := pinBuild fout kb.val pin fresh (pan.getD []), high := some (k.mark bdk) }
    | none => refuse stPinFormat
  | _ => refuse stBadField

/-- DUKPT_PIN_TRANSLATE (R122, R227). -/
def execDukptPinTranslate (e : BitVec 17) (env : CmdEnv) (s : State) : Host.Outcome State Fault Refusal :=
  .next (runOp e.toNat 0x0502 env dukptPin s)

/-! ## DUKPT_MAC_VERIFY (R228) -/

def dukptMac (r : Run) : Act Ans := do
  let x := r.x
  let k := readKsn x
  let n := x.byte 0x4D
  match ← checkForm x 0 [(offA, heldType), (offB, [0])]
      [(0x40, if k.tdes then 10 else 12), (0x4C, 1), (0x4D, 1), (0x4E, 1), (0x50, min n 16)] with
  | [a, _] =>
    check (ksnFieldOk x && decide (4 ≤ n) && decide (n ≤ if k.tdes then 8 else 16) && decide (x.byte 0x4E ≤ 1)) stBadField
    messageLen r 65536
    checkErased [a] false
    let bdk ← captureOne r a (bdkOk k.tdes)
    let ak ← dkcStep r k bdk
    let d ← readData r
    unitFaults r true 0
    let wk := workingKey k ak (if x.byte 0x4E = 0 then .macRequest else .macResponse)
    if (isoMac (if k.tdes then 3 else 5) 1 wk d).take n = x.bytes 0x50 n then
      pure { inline := 1, high := some (k.mark bdk) }
    else refuse stVerifyMismatch
  | _ => refuse stBadField

/-- DUKPT_MAC_VERIFY (R122, R228). -/
def execDukptMacVerify (e : BitVec 17) (env : CmdEnv) (s : State) : Host.Outcome State Fault Refusal :=
  .next (runOp e.toNat 0x0503 env dukptMac s)

/-! ## DUKPT_INITIAL_KEY (R229) -/

def dukptInitialKey (r : Run) : Act Ans := do
  let x := r.x
  match ← checkForm x 0 [(offA, heldType), (offB, anyType)] [(0x40, 8), (0x48, 1), (0x50, 16)] with
  | [a, b] =>
    let t := x.bytes 0x50 16
    check (x.byte 0x48 = 0 && templateForm t) stBadField
    noData r
    checkErased [a, b] false
    let hd := readHeader t
    let hdOk := match hd with
      | some h => h.use = .b1 && h.alg = .a && h.mode = .x
      | none => false
    let (bdk, kb) ← captureTwo r a b (bdkOk false) (isKbpk true) (fun bdk kb => hdOk && decide (bdk.val.length ≤ kb.val.length))
    match hd with
    | none => refuse stKeyUsage
    | some h =>
      let ik := dukptInitial false bdk.val (x.bytes 0x40 8)
      let at' := newAttr h bdk.val.length r.p
      let tag : KeyTag := { ik := x.bytes 0x40 8 }
      let out ← writeOut r 0 kb h.expo (byteAt t 14) at' tag ik
      unitFaults r true 0
      pure { result := out, inline := inlineOf (kcvDefault at' tag ik) }
  | _ => refuse stBadField

/-- DUKPT_INITIAL_KEY (R122, R229). -/
def execDukptInitialKey (e : BitVec 17) (env : CmdEnv) (s : State) : Host.Outcome State Fault Refusal :=
  .next (runOp e.toNat 0x0504 env dukptInitialKey s)

end Sys2Proof.Machine
end

