-- ==== Sys2Proof/Machine/Diag.lean ====
section
/-! DEFINITION. Class 0x0F: ECHO, RANDOM and PITCH_STATUS (R127, R290). -/

namespace Sys2Proof.Machine

/-- ECHO: any inline bytes; a copy of the data. -/
def echoCmd (r : Run) : Act Ans := do
  match ← checkForm r.x 0 [(offA, [0]), (offB, [0])] [(0x40, 64)] with
  | [_, _] =>
    check (decide (r.x.dataLen ≤ 4096)) stBadLength
    checkCap r r.x.dataLen
    let d ← readData r
    unitFaults r false 0
    pure { result := d, inline := inlineOf (r.x.bytes 0x40 8) }
  | _ => refuse stBadField

/-- ECHO (R127). -/
def execEcho (e : BitVec 17) (env : CmdEnv) (s : State) : Host.Outcome State Fault Refusal :=
  .next (runOp e.toNat 0x0F01 env echoCmd s)

/-- RANDOM: one generate request of the instance of the cluster that runs it. -/
def randomCmd (r : Run) : Act Ans := do
  match ← checkForm r.x 0 [(offA, [0]), (offB, [0])] [(0x40, 4)] with
  | [_, _] =>
    let n := r.x.num 0x40 4
    check (decide (1 ≤ n) && decide (n ≤ 65536)) stBadField
    noData r
    checkCap r n
    unitFaults r false 0
    let b ← drawFrom r.drbg n
    pure { result := b }
  | _ => refuse stBadField

/-- RANDOM (R127, R290). -/
def execRandom (e : BitVec 17) (env : CmdEnv) (s : State) : Host.Outcome State Fault Refusal :=
  .next (runOp e.toNat 0x0F02 env randomCmd s)

/-- The status record of a pitch (R127). -/
def State.statusRecord (s : State) (p : Nat) : Bytes :=
  let v := s.pitch p
  [BitVec.ofNat 8 v.state.code, BitVec.ofNat 8 v.pers.toNat, 0, 0] ++ toLE 4 v.inFlight ++ toLE 4 v.quota ++ toLE 4 v.reserve
    ++ toLE 4 (s.slotsUsed p) ++ toLE 4 (s.kbcUse p) ++ toLE 4 (s.dkcUse p) ++ toLE 4 v.replay.length ++ toLE 8 v.highCsn
    ++ toLE 8 v.done.toNat ++ toLE 8 v.refused.toNat ++ toLE 8 v.ctxGen.toNat

def pitchStatusCmd (r : Run) : Act Ans := do
  match ← checkForm r.x 0 [(offA, [0]), (offB, [0])] [] with
  | [_, _] =>
    noData r
    checkCap r 64
    unitFaults r false 0
    let b := (← get).statusRecord r.p
    pure { result := b, inline := inlineOf b }
  | _ => refuse stBadField

/-- PITCH_STATUS (R127). -/
def execPitchStatus (e : BitVec 17) (env : CmdEnv) (s : State) : Host.Outcome State Fault Refusal :=
  .next (runOp e.toNat 0x0F03 env pitchStatusCmd s)

end Sys2Proof.Machine
end

