-- ==== Sys2Proof/Machine/Entropy.lean ====
section
/-! DEFINITION. Entropy sources and DRBG instances (R286 to R289). -/

namespace Sys2Proof.Machine

def State.source (s : State) (k : Nat) : EntSource := s.units.sources.get {} k
def State.updSource (s : State) (k : Nat) (f : EntSource → EntSource) : State :=
  { s with units := { s.units with sources := s.units.sources.upd {} k f } }

/-- A failure of a source (R287): its counters, event and record. Tests: 0 repetition, 1 proportion, 2 start-up. -/
def sourceFail (k test : Nat) (s : State) : State :=
  let now := s.tly.seconds
  let s := s.updSource k fun x =>
    { x with state := 3, failures := x.failures ++ [now],
             rctFails := if test = 0 then satInc x.rctFails else x.rctFails,
             aptFails := if test = 1 then satInc x.aptFails else x.aptFails,
             startupFails := if test = 2 then satInc x.startupFails else x.startupFails }
  raise (568 + k) (tallyRec 0x0901 0 (BitVec.ofNat 10 (568 + k)) none [BitVec.ofNat 8 k, BitVec.ofNat 8 test, 3] s)

/-- A continuous test fails at its cutoff of ENT_HEALTH_CFG (R287): a run of identical bits, or equal bits in a window. -/
def State.testFails (s : State) (apt : Bool) (count : Nat) : Bool :=
  decide ((if apt then s.units.aptCutoff.toNat else s.units.rctCutoff.toNat) ≤ count)

/-- ENTROPY_TEST_FAIL (R287). -/
def execEntropyTestFail (src : BitVec 2) (apt : Bool) (s : State) (count : Nat := 1024) : Host.Outcome State Fault Refusal :=
  .next (if (s.source src.toNat).state = 2 ∧ s.testFails apt count then sourceFail src.toNat (if apt then 1 else 0) s else s)

/-- ENTROPY_STARTUP_DONE (R287): 4,096 bits through both tests, and the known-answer test of the conditioner. -/
def execEntropyStartupDone (src : BitVec 2) (kat : Bool) (s : State) (run : Nat := 0) (equal : Nat := 0) :
    Host.Outcome State Fault Refusal :=
  .next (if (s.source src.toNat).state ≠ 1 then s
         else if kat && !s.testFails false run && !s.testFails true equal then s.updSource src.toNat fun x => { x with state := 2 }
         else sourceFail src.toNat 2 s)

/-- Failures of the last 24 h of operating seconds. -/
def State.recentFailures (s : State) (k : Nat) : Nat :=
  ((s.source k).failures.filter fun t => decide (s.tly.seconds < t + 86400)).length

/-- ENTROPY_RETRY (R287): 1 ms after a failure. -/
def execEntropyRetry (src : BitVec 2) (s : State) : Host.Outcome State Fault Refusal :=
  let k := src.toNat
  .next (if (s.source k).state ≠ 3 then s
         else s.updSource k fun x => { x with state := if s.recentFailures k < 3 then 1 else 4 })

/-! ## Seed blocks (R286, R288, R289) -/

/-- SEED_BLOCK_READY (R286): a block of a HEALTHY source goes to the lowest-numbered instance that waits, else it is kept. -/
def execSeedBlockReady (src : BitVec 2) (s : State) (katOk : Bool := true) : Host.Outcome State Fault Refusal :=
  let block := s.seedBlock
  let t := s.drew 96
  .next (if (s.source src.toNat).state ≠ 2 then s
         else match (List.range 10).find? fun i => (s.drbg i).wants with
           | some i => seedInstance katOk i block t
           | none => { t with units := { t.units with seedBlocks := t.units.seedBlocks ++ [block] } })

/-- DRBG_RESEED (R288). -/
def execDrbgReseed (i : BitVec 4) (s : State) : Host.Outcome State Fault Refusal :=
  if 10 ≤ i.toNat then .fault .noSuchUnit else .next (drbgReseed i.toNat s)

/-- DRBG_SEED_TIMEOUT (R289): 10 s without a reseed. -/
def execDrbgSeedTimeout (i : BitVec 4) (s : State) : Host.Outcome State Fault Refusal :=
  if 10 ≤ i.toNat then .fault .noSuchUnit
  else .next (if (s.drbg i.toNat).state = 1 then drbgFail i.toNat false s else s)

end Sys2Proof.Machine
end

