-- ==== Sys2Proof/Machine/KeyStore.lean ====
section
/-! DEFINITION. The key store: churn (R302 to R305), restoration of slots (R301), erasure (R308 to R310), cache flushes and sweeps
(R171, R172, R233). The cells themselves are in Cells.lean, the sealed store in Journal.lean. -/

namespace Sys2Proof.Machine

/-! ## The churn -/

def sweepEnd : Nat := 262144

/-- The churn is paused (R304): by an erase, a supply warning, for want of a seed, or in a warm start. -/
def State.churnPaused (s : State) : Bool :=
  s.kst.paused || s.pwr.quiet || (s.kst.boundary = sweepEnd && (s.drbg 9).state = 2) || (!s.glb.startDone && s.glb.startType = 2)

/-- A draw of 32 bytes of DRBG instance 9 as a number. -/
def seed9 (s : State) : Nat × State :=
  let (b, s) := draw9 32 s
  (leNat b, s)

/-- A new sweep (R302 step 1, R306): both pairs of seeds shift, the epoch advances, the period is captured (R305). -/
def sweepBegin (s : State) : State :=
  let (a, s) := seed9 s
  let (b, s) := seed9 s
  { s with kst := { s.kst with seedOld := s.kst.seedNew, seedNew := BitVec.ofNat 256 a, houseOld := s.kst.houseNew,
                               houseNew := BitVec.ofNat 256 b, epoch := s.kst.epoch + 1, boundary := 0,
                               sweepPeriod := s.kst.churnPeriod.val.extractLsb' 0 2 } }

/-- The boundary passes a slot, and with every 32nd a line of the house private store (R302, R303). At the end the old seeds are cleared. -/
def churnStep (s : State) : State :=
  let b := s.kst.boundary + 1
  { s with kst := { s.kst with boundary := b, seedOld := if b = sweepEnd then 0 else s.kst.seedOld,
                               houseOld := if b = sweepEnd then 0 else s.kst.houseOld } }

def correct (s : State) : State := { s with kst := { s.kst with corrected := satInc s.kst.corrected } }

/-- A tag that does not match (R301): the count and the fault-injection alarm. -/
def tagFault (s : State) : State := qualify 47 { s with kst := { s.kst with tagFail := satInc s.kst.tagFail } }

/-- The re-mask of a slot waits for its restoration (R301). -/
def churnWait (n : BitVec 18) (tag : Bool) (s : State) : State := { s with kst := { s.kst with restoring := some (n, tag) } }

/-- A re-mask reads its slot, checks it and writes it under the new seed (R301, R302). -/
def remask (fault : SlotFault) (s : State) : State :=
  match fault with
  | .clean => churnStep s
  | .single n => churnStep (if n.toNat = s.kst.boundary then correct s else s)
  | .double n => if n.toNat = s.kst.boundary then churnWait n false s else churnStep s
  | .tag n => if n.toNat = s.kst.boundary then tagFault (churnWait n true s) else churnStep s

/-- One pace interval (R302): slot b is re-masked, or a new sweep begins. -/
def churnRemask (fault : SlotFault) (s : State) : State :=
  if s.churnPaused || s.kst.cleared || s.kst.restoring.isSome then s
  else if s.kst.boundary = sweepEnd then sweepBegin s
  else remask fault s

/-- CHURN_REMASK (R302). -/
def execChurnRemask (s : State) (fault : SlotFault := .clean) : Host.Outcome State Fault Refusal := .next (churnRemask fault s)

/-- CHURN_LAG_TIMER (R304): the pause has lasted 10 s. -/
def execChurnLagTimer (s : State) : Host.Outcome State Fault Refusal :=
  .next (if s.churnPaused then
      raise 361 (tallyRec 0x0202 0 361 none (toLE 4 10 ++ toLE 4 s.kst.epoch.toNat ++ toLE 4 s.kst.boundary)
        { s with kst := { s.kst with lagging := true } })
    else s)

/-! ## Restoration (R301) -/

/-- The slot in the last record that holds it. -/
def lastSlot (n : Nat) (l : List JRec) : Option Slot :=
  l.foldl (fun a r => match r.what with
    | .slot m v => if m.toNat = n then some v else a
    | .counter m v => if m.toNat = n then some v else a
    | _ => a) none

/-- The slot as the journal buffer, else the sealed store, holds it. -/
def State.sealedSlot (s : State) (n : Nat) : Option Slot :=
  match lastSlot n s.kst.journal with
  | some v => some v
  | none => match lastSlot n s.kst.writing with
    | some v => some v
    | none => lastSlot n s.kst.flash0.records

/-- A slot emptied: its generation advances (R297). -/
def emptySlot (n : Nat) (s : State) : State :=
  let v : Slot := { gen := (s.slot n).gen + 1 }
  journal (.slot (BitVec.ofNat 18 n) v) s.csn (s.setSlot n v)

/-- Entries that wait for a slot, and whether a tag mismatch made them wait. -/
def State.waitingFor (s : State) (n : Nat) : List (Nat × Bool) :=
  s.sch.entries.filterMap fun e => match e.2 with
    | some x => match x.restore with
      | some (m, t) => if m.toNat = n then some (e.1, t) else none
      | none => none
    | none => none

/-- A command whose slot could not be restored. -/
def restoreFail (e : Nat) (s : State) : State :=
  match s.entry e with
  | none => s
  | some x => conclude e (x.phase = .admitted) stKeyNotFound {} 0 s

/-- The re-mask that waits for a slot, and whether a tag mismatch made it wait. -/
def State.churnFor (s : State) (n : Nat) : Option Bool :=
  match s.kst.restoring with
  | some (m, t) => if m.toNat = n then some t else none
  | none => none

/-- Nothing waits for the slot any more. -/
def endWaits (l : List (Nat × Bool)) (churn : Bool) (s : State) : State :=
  let s := l.foldl (fun s e => s.updEntry e.1 fun x => { x with restore := none }) s
  if churn then { s with kst := { s.kst with restoring := none } } else s

/-- SLOT_RESTORE_DONE (R301): the waiting commands and the churn may proceed, or the slot is emptied and the commands end with
KEY_NOT_FOUND. -/
def slotRestoreDone (n : Nat) (ok : Bool) (s : State) : State :=
  let l := s.waitingFor n
  let churn := s.churnFor n
  if l = [] ∧ churn = none then s
  else
    let found := if ok then s.sealedSlot n else none
    let tag : Bool := l.any (·.2) || churn = some true
    let s := endWaits l churn.isSome s
    let s := raise 362 (tallyRec 0x0203 0 362 none (toLE 4 n ++ [if tag then 1 else 0, if found.isSome then 1 else 0]) s)
    match found with
    | some v =>
      let s := s.setSlot n v
      { s with kst := { s.kst with restored := satInc s.kst.restored } }
    | none => l.foldl (fun s e => restoreFail e.1 s) (emptySlot n s)

def execSlotRestoreDone (slot : BitVec 18) (ok : Bool) (s : State) : Host.Outcome State Fault Refusal :=
  .next (slotRestoreDone slot.toNat ok s)

/-! ## Erasure (R308, R309) -/

/-- Opcodes whose commit point is that of class D (R109). -/
def Entry.classD (x : Entry) : Bool := [0x0701, 0x0703, 0x0801, 0x0903].contains x.opcode

/-- How a command that is ended by an abort completes (R309, R422): a status already decided stays, where DONE is none; class C past its
commit point is DONE; class D past it keeps its CSN and the value it spent. -/
def abortDone (x : Entry) (status : BitVec 16) : Done :=
  let spent := if x.csn.isSome then (x.prepared.map (·.inline)).getD 0 else 0
  match x.decided with
  | some st => if st ≠ 0 then { status := st, csn := x.csn, inline := spent }
               else if x.csn.isSome && !x.classD then { csn := x.csn }
               else { status := status, csn := x.csn, inline := spent }
  | none => if x.csn.isSome && !x.classD then { csn := x.csn } else { status := status, csn := x.csn, inline := spent }

/-- A command in flight ends: its core is free, its queue loses it. -/
def abortEntry (status : BitVec 16) (e : Nat) (s : State) : State :=
  match s.entry e with
  | none => s
  | some x =>
    if x.phase = .held then s
    else
      let s := match x.phase with
        | .queued => takeFrom (s.queueOf x) e s
        | .bound c => unbind c.toNat s
        | _ => s
      let s := { s with units := { s.units with reqs := s.units.reqs.filter fun r => r.entry ≠ e } }
      finish e (abortDone x status) s

def abortAll (status : BitVec 16) (s : State) : State := s.sch.entries.foldl (fun s e => abortEntry status e.1 s) s

/-- A completion that is held when the erase comes, its result not written (R309): a status other than DONE stays, and DONE of class C past
its commit point; any other is ABORT_TAMPER. -/
def heldAborted (x : Entry) (h : HeldCqe) : HeldCqe :=
  let own := h.cqe.csnValid && !h.cqe.replayed
  if h.cqe.status ≠ 0 then h
  else if own && !x.classD then { h with result := [], cqe := { h.cqe with resultLen := 0, inline := 0 } }
  else { h with result := [], cqe := { h.cqe with status := stAbortTamper, resultLen := 0, resultDropped := false, replayed := false,
                                                  csnValid := own, csn := if own then h.cqe.csn else 0,
                                                  inline := if own then h.cqe.inline else 0 } }

/-- It counts as refused then (R132). -/
def recount (p : Nat) (old new : HeldCqe) (s : State) : State :=
  if old.cqe.status = new.cqe.status then s else s.updPitch p fun v => { v with done := v.done - 1, refused := v.refused + 1 }

/-- The held completions of a CQ at the erase. -/
def abortHeldCq (p : Nat) (s : State) : State :=
  let l := (s.cq p).held
  let f := fun (h : HeldCqe) => match h.entry.bind s.entry with
    | some x => heldAborted x h
    | none => h
  let s := l.foldl (fun s h => recount p h (f h) s) s
  if l = [] then s else s.updCq p fun q => { q with held := l.map f }

def abortHeld (s : State) : State := s.rqe.cqs.foldl (fun s c => abortHeldCq c.1 s) s

/-- The erase record (R307, R360, R361): source, phase, and for an alarm the payload of its window; it takes a CSN. -/
def eraseRecord (s : State) : State :=
  let c := nextCsn s
  let s := tookCsn { s with kst := { s.kst with phase := 3 } }
  tallyRec 0x0201 0 360 (some c)
    ([BitVec.ofNat 8 s.bat.latchSource.toNat, BitVec.ofNat 8 s.kst.phase.toNat] ++
      if s.bat.latchSource = 1 ∨ s.kst.eraseMap ≠ 0 then s.windowPayload s.kst.eraseMap 2 else []) s

/-- Cores that are in service load verified firmware. -/
def reloadCores (s : State) : State :=
  (List.range 24).foldl (fun s c =>
    let k := s.core c
    if k.state = .off ∨ k.state = .failed then s else coreLoad c k.fw s) s

/-- An instance whose known-answer test failed stays in error until a device start (R289). -/
def drbgWiped (d : Drbg) : Drbg := { reseeds := d.reseeds, kat := d.kat, state := if d.kat then 2 else 0 }

/-- What the overwrite zeroes (R308): slots, private store, operand memories, context registers, DRBG state, journal buffer. -/
def overwriteAll (s : State) : State :=
  { s with
    kst := { s.kst with slots := [], cleared := true, residue := none, restoring := none, journal := [], writing := [], phase := 3,
                        overwriteOk := true, line := false, bond := none, leaped := [] },
    own := { s.own with houseRoster := none },
    pit := { s.pit with pitches := s.pit.pitches.mapv {} fun _ v => { v with rosterDigest := [], replay := [] } },
    units := { s.units with drbgs := s.units.drbgs.mapv {} fun _ d => drbgWiped d, seedBlocks := [],
                            pke := s.units.pke.mapv {} fun _ u => { u with operand := [] },
                            ltc := s.units.ltc.mapv {} fun _ u => { u with operand := [] } },
    cmc := { s.cmc with ctxs := s.cmc.ctxs.mapv {} fun _ c => { c with secret := List.replicate 8 0, pub := List.replicate 16 0 } },
    sch := { s.sch with queues := s.sch.queues.mapv {} fun _ _ => {} } }

/-- A lifecycle transition that erased goes on to its first fuse-burn window (R379). -/
def burnAfterErase (s : State) : State :=
  if s.lcs.plan ≠ [] ∧ s.lcs.phase = 1 then { s with lcs := { s.lcs with phase := 3, burnState := 1 } } else s

/-- ERASE_OVERWRITE_DONE (R308, R309): the record, then a CQE for every command in flight; the restart begins with the cores. -/
def eraseOverwriteDone (s : State) : State :=
  if !s.kst.line then s
  else burnAfterErase (reloadCores (overwriteAll (abortAll stAbortTamper (abortHeld (eraseRecord s)))))

def execEraseOverwriteDone (s : State) : Host.Outcome State Fault Refusal := .next (eraseOverwriteDone s)

/-- A draw of a cache epoch (R113). Each new epoch differs from the one it replaces; R113 does not say what follows a draw that does not:
DESIGN CHOICE (log entry 122), the drawn value plus 1. -/
def newEpoch (s : State) : State :=
  let (b, s) := draw9 3 s
  let n := BitVec.ofNat 22 (leNat b)
  { s with caches := { s.caches with kbcEpoch := if n = s.caches.kbcEpoch then n + 1 else n } }

/-- A draw of a memory key: two keys of 256 bits (R18, R308). -/
def newMemKey (s : State) : State :=
  let (b, s) := draw9 64 s
  { s with imem := [], kst := { s.kst with memKey := BitVec.ofNat 512 (leNat b), readable := true } }

/-- Caches of a rebuilt memory (R113, R221): nothing in them. -/
def freshCaches (s : State) : State :=
  { s with caches := { s.caches with kbc := [], kbcHand := [], kbcSweeping := false, dkc := [], dkcHand := [], dkcSweeping := false,
                                     walker0 := none, walker1 := none, walkQueue := [], sweeps := [] } }

/-- Events of channels that the erase line ended (R338). -/
def chanEraseEvents (s : State) : State :=
  (List.range 64).foldl (fun s c =>
    let x := s.chan c
    if x.state = 3 ∧ x.code = 7 ∧ x.ended = some 7 then raise c (s.updChan c fun x => { x with ended := none }) else s) s

/-- Raises to cores held during the erase are delivered (R473). -/
def deliverHeld (s : State) : State :=
  let l := s.evc.heldRaises
  l.foldl (fun s x => raiseCore x.1 x.2 s) { s with evc := { s.evc with heldRaises := [] } }

/-- ERASE_RESTART_DONE (R308, R361): DRBGs, memory key, caches and memory anew; held events go out; service resumes unless a HOLD is
still in force. -/
def eraseRestartDone (katFailed : List Nat) (s : State) : State :=
  if s.kst.phase ≠ 3 then s
  else
    let s := (List.range 10).foldl (instantiateDrbg false katFailed) s
    let s := newEpoch (freshCaches (newMemKey s))
    resumeService (deliverHeld (chanEraseEvents { s with kst := { s.kst with phase := 4 } }))

def execEraseRestartDone (s : State) (katFailed : List Nat := []) : Host.Outcome State Fault Refusal :=
  .next (eraseRestartDone katFailed s)

/-! ## Cache flushes (R172, R233) -/

def evictDkc (p : Nat) (s : State) : State :=
  { s with caches := { s.caches with dkc := s.caches.dkc.mapv {} fun k v => if k / 2 ^ 23 = p then {} else v } }

/-- CACHE_FLUSH: KBC_FLUSH or DKC_FLUSH for the selected pitch. -/
def cacheFlush (who : Who) (dkc : Bool) (v : Word) (s : State) : State :=
  if !isSec who || !v.getLsbD 0 then s
  else if dkc then
    let s := evictDkc (s.selOf who).dkcPitch.toNat s
    { s with caches := { s.caches with dkcSweeping := true } }
  else
    let s := evictPitch (s.selOf who).kbcPitch.toNat s
    { s with caches := { s.caches with kbcSweeping := true } }

def execCacheFlush (who : Who) (dkc : Bool) (v : Word) (s : State) : Host.Outcome State Fault Refusal := .next (cacheFlush who dkc v s)

/-- CACHE_SWEEP_DONE (R54, R171, R172). -/
def cacheSweepDone (dkc : Bool) (s : State) : State :=
  let l := (s.caches.sweeps.map fun x => if dkc then (x.1, x.2.1, false) else (x.1, false, x.2.2)).filter fun x => x.2.1 || x.2.2
  { s with caches := if dkc then { s.caches with dkcSweeping := false, sweeps := l } else { s.caches with kbcSweeping := false, sweeps := l } }

def execCacheSweepDone (dkc : Bool) (s : State) : Host.Outcome State Fault Refusal := .next (cacheSweepDone dkc s)

end Sys2Proof.Machine
end

