-- ==== Sys2Proof/Machine/Start.lean ====
section
/-! DEFINITION. Starts (R429 to R437): what a reset clears, the steps of R430 and R432, firmware images (R434), the Vault Seed and the
sealed store at step 11 (R148), the key-store load (R313), READY, the failed-start ladder (R436). A start command runs its steps up to 13,
or up to the one that fails; START_READY is step 14. -/

namespace Sys2Proof.Machine

/-! ## What a reset leaves (R429, R433) -/

/-- What a cold start finds: the battery domain, fuses, flashes, and the tally and images in them (R146, R311, R368, R461); and the cache
epoch, which the next one must not repeat (R113). -/
def coldClear (s : State) : State :=
  { pending := s.pending, clk := s.clk, rng := s.rng, out := s.out, csn := s.csn,
    kst := { flash0 := s.kst.flash0, flash1 := s.kst.flash1, lastCsn := s.kst.lastCsn },
    caches := { kbcEpoch := s.caches.kbcEpoch },
    bat := s.bat,
    lcs := { fuses := s.lcs.fuses },
    own := { houseRecord := s.own.houseRecord, houseVersion := s.own.houseVersion },
    glb := { slotA0 := s.glb.slotA0, slotA1 := s.glb.slotA1, slotB0 := s.glb.slotB0, slotB1 := s.glb.slotB1,
             preferB := s.glb.preferB, startType := 1, startAt := s.clk },
    bst := { retired := s.bst.retired },
    tly := { head := s.tly.head, tail := s.tly.tail, tailFirst := s.tly.tailFirst, next := s.tly.storedNext,
             storedNext := s.tly.storedNext, seconds := s.tly.storedSeconds, storedSeconds := s.tly.storedSeconds,
             cycles := s.tly.cycles } }

/-- The key store is kept through a warm start (R432). -/
def State.storeKept (s : State) : Bool := !s.bat.latch && s.tmp.latch = 0

/-- The failures of a noise source count for 24 h of operating time, whatever starts there are between (R287). -/
def keptFailures (x : EntSource) : EntSource := { failures := x.failures }

/-- Long-operation registers live in the always-on domain (R281). -/
def longOnly (u : FuncUnit) : FuncUnit :=
  if u.longValid then { longValid := true, longPitch := u.longPitch, longOpcode := u.longOpcode, longTag := u.longTag } else {}

/-- What a warm start finds besides: fuse shadows and tamper configuration, TMP_LATCH, soft repairs and retirements, BST_FAIL.valid,
long-operation records, failures of the noise sources, the tally buffer, and the key store where it is kept (R281, R287, R372, R432, R452,
R457, R462). The journal buffer is written first (log entry 23). -/
def warmClear (s : State) : State :=
  let s := journalNow s
  let c := coldClear s
  let k := c.kst
  { c with
    kst := if s.storeKept then
        { k with slots := s.kst.slots, cleared := s.kst.cleared, epoch := s.kst.epoch, seedNew := s.kst.seedNew,
                 seedOld := s.kst.seedOld, houseNew := s.kst.houseNew, houseOld := s.kst.houseOld, checkKey := s.kst.checkKey,
                 boundary := s.kst.boundary, sweepPeriod := s.kst.sweepPeriod, leap := s.kst.leap, leaped := s.kst.leaped }
      else k,
    tmp := { class0 := s.tmp.class0, class1 := s.tmp.class1, class2 := s.tmp.class2, latch := s.tmp.latch,
             disabled := s.tmp.disabled, holdCfg := s.tmp.holdCfg, tempLimit := s.tmp.tempLimit, encCfg := s.tmp.encCfg,
             emeshCfg := s.tmp.emeshCfg },
    bst := { retired := s.bst.retired, failValid := s.bst.failValid, failRegion := s.bst.failRegion, pending := s.bst.pending,
             lastBist := s.bst.lastBist },
    units := { pke := s.units.pke.mapv {} fun _ u => longOnly u, ltc := s.units.ltc.mapv {} fun _ u => longOnly u,
               sources := s.units.sources.mapv {} fun _ x => keptFailures x },
    tly := { c.tly with buffer := s.tly.buffer, staging := s.tly.staging, next := s.tly.next },
    glb := { c.glb with startType := 2 } }

/-! ## Steps 2 and 3 -/

/-- The 48-bit source bitmap of a battery record (R370). -/
def batSources (m : BitVec 16) : Nat :=
  (List.range 16).foldl (fun a k => if m.getLsbD k then a + 2 ^ (if k < 2 then 4 + k else 28 + k) else a) 0

/-- A battery record in the tally (R371): window bitmap and class, then the battery seconds counter, with the copy flag and the
power-cycle count of this start. -/
def batCopyRec (cycles : Nat) (s : State) (r : BatRec) : State :=
  let t : TallyRec :=
      { number := s.tly.next, code := if r.cls = 2 then 0x0201 else 0x0101, actor := 0, event := 0x3FF, csn := s.csn, own := false,
        seconds := s.tly.seconds, cycles := cycles, battery := true, headCopy := decide (s.tly.next.toNat < 1024),
        payload := padTo 32 (toLE 6 (batSources r.sources) ++ [r.cls, 0, 0, r.celsius] ++ toLE 2 r.millivolt.toNat
          ++ toLE 4 r.seconds.toNat ++ toLE 2 r.ticks.toNat ++ toLE 2 r.number.toNat) }
  { s with tly := { s.tly with buffer := s.tly.buffer ++ [t], next := s.tly.next + 1 } }

/-- Step 2 (R366, R371): the battery tally is copied and emptied; with the erase latch set the key store is overwritten. -/
def batteryCheck (warm : Bool) (s : State) : State :=
  let n := s.bat.tally.length
  let o := s.bat.overflow
  let s := s.bat.tally.foldl (batCopyRec (s.tly.cycles + if warm then 0 else 1)) s
  let s := if o = 0 then s else tally 0x0104 (toLE 2 o.toNat) s
  let s := { s with tmp := { s.tmp with copied := BitVec.ofNat 5 n, copiedOverflow := o },
                    bat := { s.bat with tally := [], overflow := 0, number := 0, alarm := false } }
  if s.bat.latch then { s with kst := { s.kst with slots := [], cleared := true, phase := 3, overwriteOk := true } } else s

/-- The class that a source's two class fuses hold (R358). -/
def fuseClass (v : BitVec 96) (n : Nat) : Nat :=
  match v.toNat / 4 ^ n % 4 with
  | 0 => 0
  | 1 => 1
  | _ => 2

/-- The classes that are loaded at fuse sense (R358, R365): from fuses in FIELDED and later, else from the copy. -/
def State.sensedClasses (s : State) (c : BatCopy) : BitVec 96 :=
  if s.locked then
    BitVec.ofNat 96 (packClasses (fun n => if fixedSource n then defaultClass n else fuseClass s.lcs.fuses.cls n) 48)
  else c.classes

/-- Step 3 of a cold start: fuses and the configuration copy are loaded, and the battery-domain sources handed over (R365). -/
def fuseSense (s : State) : State :=
  let c := s.bat.copy.getD firstCopy
  let k := s.sensedClasses c
  let s := { s with
    tmp := { s.tmp with class0 := Rwi.of (k.extractLsb' 0 32), class1 := Rwi.of (k.extractLsb' 32 32),
                        class2 := Rwi.of (k.extractLsb' 64 32), disabled := s.lcs.fuses.disable, holdCfg := Rwi.of c.holdCfg,
                        tempLimit := Rwi.of c.tempLimit, encCfg := Rwi.of c.encCfg, emeshCfg := Rwi.of c.emeshCfg,
                        handover := true },
    lcs := { s.lcs with sensed := true } }
  if s.bat.copy.isSome then bumpCopy s else s

/-- The scrap burn begins or resumes in ROM (R383). How many fuses are left to blow is a free value. -/
def scrapBegin (s : State) : State :=
  { s.drew 2 with lcs := { s.lcs with phase := 4, plan := [.scrapFuses], burnState := 1, burnGroup := 7,
                                      scrapLeft := BitVec.ofNat 16 (leNat (s.freeBytes 2)) } }

/-- Step 3: LCS_STATE 0xF stops here (R374); a SCRAPPED unit resumes its scrap burn (R383). -/
def senseStep (warm : Bool) (s : State) : Option State :=
  if s.lcsState = 0xF then none
  else
    let s := if warm then { s with lcs := { s.lcs with sensed := true }, tmp := { s.tmp with handover := true } } else fuseSense s
    let s := if 4 ≤ s.lcsState then { s with own := { s.own with houseRecord := none } } else s
    if s.lcsState = 5 ∧ ¬ s.lcs.fuses.scrapped then some (scrapBegin s) else some s

/-! ## Steps 7 to 9 -/

/-- Step 7 (R430, R432, R452): every unit is tested; those whose spare mapping is fused are not. A warm start tests where R432 says. -/
def bistStart (warm : Bool) (env : StartEnv) (s : State) : State :=
  let due := !warm || s.bst.failValid || s.bst.retired ≠ [] || decide (s.bst.lastBist + 86400 < s.tly.seconds)
  if !due then s
  else
    let mapped := s.lcs.fuses.mapped
    let old := s.bst.retired
    let bad := (env.bistFailed.filter fun r => decide (r < regions) && !mapped.contains r).eraseDups
    let s := { s with bst := { s.bst with retired := mapped, lastBist := s.tly.seconds } }
    let s := bad.foldl (fun s r => regionRetire r s) s
    (old.filter fun r => !s.bst.retired.contains r).foldl (fun s r => tally 0x0802 [BitVec.ofNat 8 r] s) s

/-- Step 8 (R287, R289): the start-up tests; no HEALTHY source fails the start. -/
def entropyStart (env : StartEnv) (s : State) : Option State :=
  let s := (List.range 4).foldl (fun s k =>
    if env.entropyOk.getD k false then s.updSource k fun x => { x with state := 2 } else sourceFail k 2 s) s
  if (List.range 4).any fun k => (s.source k).state = 2 then some s else none

/-- The bytes that an image's signatures cover: header and digest. -/
def imageMessage (i : Image) : Bytes := toLE 2 i.version.toNat ++ i.digest

/-- R434: both signatures and the digest; a recipe set that fails its verification fails the image (R136). -/
def imageOk (i : Image) : Bool :=
  i.digest = sha384 i.content
    && pkVerify 0x33 0 [] Config.vendorMldsa (imageMessage i) i.sigMldsa
    && pkVerify 0x02 2 [] Config.vendorP384 (sha384 (imageMessage i)) i.sigP384
    && (match i.recipes with | some x => setVerified x | none => true)

/-- The image of a slot that passes, from either flash. -/
def State.slotImage (s : State) (b : Bool) : Option Image :=
  (if b then [s.glb.slotB0, s.glb.slotB1] else [s.glb.slotA0, s.glb.slotA1]).foldl (fun a i =>
    match a, i with
    | some a, _ => some a
    | none, some i => if imageOk i then some i else none
    | none, none => none) none

/-- The image that step 9 runs, and whether it is B: the preferred one first, on the OTHER rung the other one (R434, R436). -/
def State.chosenImage (s : State) : Option (Bool × Image) :=
  let first := if s.bat.ladder = 5 then !s.glb.preferB else s.glb.preferB
  match s.slotImage first with
  | some i => some (first, i)
  | none => (s.slotImage (!first)).map fun i => (!first, i)

/-- Images that stand in the flashes. -/
def placeImages (env : StartEnv) (s : State) : State :=
  let g := s.glb
  let g := match env.imageA with | some i => { g with slotA0 := some i, slotA1 := some i } | none => g
  let g := match env.imageB with | some i => { g with slotB0 := some i, slotB1 := some i } | none => g
  { s with glb := g }

def imageStep (s : State) : Option State :=
  match s.chosenImage with
  | none => none
  | some (b, i) => some { s with glb := { s.glb with image := b, recipes := i.recipes },
                                 cmc := { s.cmc with oldImage := i.version, updImage := i.version } }

/-! ## Step 10 -/

/-- Sides of R341. -/
def mailboxSides (s : State) : State :=
  let f := fun (m : Nat) (side : BitVec 7) (s : State) => s.updBox m fun b => { b with sideA := 1, sideB := side }
  (List.range 6).foldl (fun s c => f (2 + c) (BitVec.ofNat 7 (0x40 + c)) s) (f 1 0x46 (f 0 0x46 s))

/-- A valid long-operation register becomes a record (R281). -/
def longRecord (s : State) (u : Nat × FuncUnit) : State :=
  if u.2.longValid then
    tally 0x0501 (toLE 2 u.2.longPitch.toNat ++ toLE 4 u.2.longTag.toNat ++ toLE 2 u.2.longOpcode.toNat) s
  else s

def longRecords (s : State) : State := s.units.ltc.foldl longRecord (s.units.pke.foldl longRecord s)

/-- The claim nonces of the candidates are drawn (R397). -/
def drawNonces (s : State) : State :=
  [(0x2E : BitVec 6), 0x2F, 0x30].foldl (fun s n =>
    let (b, s) := draw9 32 s
    s.updCandidate n fun c => { c with nonce := b }) s

/-- TEST_EN high outside MAKER is noted. -/
def noteTestEn (env : StartEnv) (s : State) : State :=
  if env.testEn ∧ s.lcsState ≠ 1 then tallyLimited (exemptRec 0x0101 []) s else s

/-- The DRBG instances of a device start (R288), then the claim nonces. -/
def startDrbgs (env : StartEnv) (s : State) : State := drawNonces ((List.range 10).foldl (instantiateDrbg true env.drbgKatFail) s)

/-- The long-operation registers become records, and the engines are as at reset. -/
def endLong (s : State) : State :=
  let s := longRecords s
  { s with units := { s.units with pke := [], ltc := [] } }

/-- Step 10: the tally opens (R460, R462), MPU regions (R64), mailbox sides (R341), DRBGs (R288), long-operation records (R281). -/
def secStart (warm : Bool) (env : StartEnv) (s : State) : State :=
  let s := { s with tly := { s.tly with seconds := s.tly.seconds + 1, cycles := s.tly.cycles + if warm then 0 else 1 } }
  let s := if s.tly.buffer = [] then s else startFlush s
  let s := startDrbgs env (mailboxSides s)
  noteTestEn env (endLong { s with mpu := programMpu s.mpu })

/-! ## Steps 11 and 12 (R36, R148, R313) -/

/-- What a sealed record restores at step 11; slots come at step 12. -/
def restoreRec (s : State) (r : JRec) : State :=
  match r.what with
  | .slot _ _ => s
  | .counter _ _ => s
  | .pmk p t => s.updPitch p.toNat fun v => { v with pmk := t }
  | .contextKey p k g => s.updPitch p.toNat fun v => { v with ctxKey := k, ctxGen := g }
  | .bond k => { s with kst := { s.kst with bond := k } }
  | .pitch p x => s.updPitch p.toNat fun v =>
      { v with state := x.state, pers := x.pers, quota := x.quota, reserve := x.reserve, weight := x.weight, cfg := x.cfg,
               kbcCap := x.kbcCap, dkcCap := x.dkcCap }
  | .block n o => { s with pit := { s.pit with blocks := s.pit.blocks.set .home n.toNat o } }
  | .roster t r =>
    if t = 0xFFFF then { s with own := { s.own with houseRoster := r } }
    else s.updPitch t.toNat fun v =>
      { v with roster := r, rosterDigest := match r with | some x => sha384 (rosterBytes x) | none => [] }

def loadSlot (s : State) (r : JRec) : State :=
  match r.what with
  | .slot n v => s.setSlot n.toNat v
  | .counter n v => s.setSlot n.toNat v
  | _ => s

/-- The records of a flash whose tags hold. -/
def goodRecords (bad : List Nat) (l : List JRec) : List JRec := (l.zipIdx.filter fun x => !bad.contains x.2).map (·.1)

/-- The records that no flash holds valid (R313). -/
def State.droppedRecords (env : StartEnv) (s : State) : List JRec :=
  let good := goodRecords env.badRecords0 s.kst.flash0.records ++ goodRecords env.badRecords1 s.kst.flash1.records
  (s.kst.flash0.records ++ s.kst.flash1.records).eraseDups.filter fun r => !good.contains r

/-- A slot whose newest record was dropped starts empty: its older records are no use any more (R313). -/
def outdated (dropped : List JRec) (r : JRec) : Bool :=
  r.what.object.1 = 1 && dropped.any fun d => d.what.object = r.what.object && decide (r.csn ≤ d.csn)

/-- The valid records of both flashes in the order of their CSNs. -/
def State.validRecords (env : StartEnv) (s : State) : List JRec :=
  let good := (goodRecords env.badRecords0 s.kst.flash0.records ++ goodRecords env.badRecords1 s.kst.flash1.records).eraseDups
  (good.filter fun r => !outdated (s.droppedRecords env) r).insertionSort fun a b => a.csn ≤ b.csn

/-- Both flashes are read (R313): a record valid in one of them is copied into the other, one valid in neither is dropped with its tally
record. -/
def readFlashes (env : StartEnv) (s : State) : State :=
  let gone := s.droppedRecords env
  let l := s.validRecords env
  let s := { s with kst := { s.kst with flash0 := { s.kst.flash0 with records := l }, flash1 := { s.kst.flash1 with records := l } } }
  gone.foldl (fun s r => tally 0x0204 (BitVec.ofNat 8 r.what.object.1 :: toLE 4 r.what.object.2) s) s

/-- PAR_CFG from its word (R427). -/
def setParCfg (v : Word) (p : Par) : Par :=
  { p with ackTimeout := v.extractLsb' 0 5, soloMs := v.extractLsb' 5 4, degradedOk := v.getLsbD 9, fence := v.getLsbD 10,
           drainUs := v.extractLsb' 12 10 }

/-- Device values kept in the sealed store (R305, R398, R446, R456). -/
def restoreDevice (s : State) : State :=
  let f := s.kst.flash0
  let par := setParCfg f.parCfg s.par
  { s with
    kst := { s.kst with churnPeriod := Rwi.of (f.churn.setWidth 32), sweepPeriod := f.churn },
    par := { par with relaxed := f.parMode, relaxedInForce := f.parMode, epochUs := f.parEpoch, leapLog2 := f.parLeap },
    pwr := { s.pwr with bounded := f.envelope, calibrated := f.calibrated },
    glb := { s.glb with minVersion := f.minVersion, minRecipe := f.minRecipe },
    lcs := { s.lcs with holdup := f.holdup } }

/-- The house roster of the owner-signed record, where the sealed store gives none (R148, R392). -/
def rosterFromRecord (s : State) : State := { s with own := { s.own with houseRoster := s.own.houseRecord } }

/-- DSK under a Vault Seed (R147). -/
def dskOf (seed : BitVec 256) : Bytes := kdf Config.rootSecret (toBE 32 seed.toNat) 32 "KN-DSK"

/-- The P-384 identity key (R147). -/
def identityP384 : Bytes := toBE 48 (beNat (kdf Config.rootSecret [] 56 "KN-DIK-P384") % ((curve 2).n - 1) + 1)

/-- The ML-DSA-87 identity key (R147). -/
def identityMldsa : Bytes := kdf Config.rootSecret [] 32 "KN-DIK-MLDSA87"

/-- The identity fingerprint: the first 16 bytes of SHA-384 of the P-384 identity public key (R380). -/
def deviceFingerprint : Bytes := padTo 16 (sha384 (pkPublic 2 identityP384))

/-- The sealed store is opened and what it holds restored. -/
def openStore (env : StartEnv) (seed : BitVec 256) (s : State) : State :=
  let s := readFlashes env { s with kst := { s.kst with dsk := some (dskOf seed), opened := true } }
  restoreDevice (s.kst.flash0.records.foldl restoreRec s)

/-- An empty sealed store with its header in both flashes (R148, R380). -/
def emptyStore (s : State) : State :=
  let f : Flash := { header := some deviceFingerprint }
  { s with kst := { s.kst with flash0 := f, flash1 := f } }

/-- Either flash holds a sealed-store area header (R148). -/
def State.storeHeader (s : State) : Bool := s.kst.flash0.header.isSome || s.kst.flash1.header.isSome

/-- A new Vault Seed from DRBG instance 9 (R146). -/
def newVaultSeed (s : State) : BitVec 256 × State :=
  let (v, s) := seed9 s
  (BitVec.ofNat 256 v, { s with bat := { s.bat with seed := some (BitVec.ofNat 256 v) } })

/-- The Vault Seed table of R148. -/
def unsealTable (env : StartEnv) (s : State) : State :=
  match s.bat.seed, s.storeHeader with
  | some k, true => openStore env k s
  | some k, false => openStore env k (tally 0x0204 [0, 0] (rosterFromRecord (emptyStore s)))
  | none, false =>
    if s.lcsState = 2 ∧ env.vbatOk ∧ s.bat.vbat then
      let (k, s) := newVaultSeed s
      openStore env k (emptyStore s)
    else rosterFromRecord s
  | none, true => rosterFromRecord s

/-- Steps 11 and 12 are skipped with the erase latch set and in RETURNED (R310, R430); a MAKER unit has no sealed store (R375). -/
def State.storeSkipped (s : State) : Bool := s.bat.latch || !(s.lcsState = 2 || s.lcsState = 3)

/-- Step 11: identity keys (R147, R376), the sealed store, the minimum security version (R435). -/
def unsealStep (env : StartEnv) (s : State) : Option State :=
  let s := { s with kst := { s.kst with identity := decide (1 ≤ s.lcsState) && decide (s.lcsState ≤ 3) } }
  let s := if s.storeSkipped then rosterFromRecord s else unsealTable env s
  if s.cmc.oldImage.toNat < s.glb.minVersion.toNat then none
  else some { s with pwr := { s.pwr with inForceBounded := s.bounded } }

/-- Step 12 (R304, R306, R313): new seeds, e = 1, b = 262,144, every slot as the sealed store holds it, where it is open; skipped where
the store is kept. -/
def loadStore (warm : Bool) (s : State) : State :=
  if warm && s.storeKept || s.storeSkipped then s
  else
    let (a, s) := seed9 s
    let (h, s) := seed9 s
    let (c, s) := seed9 s
    let s := { s with kst := { s.kst with seedNew := BitVec.ofNat 256 a, seedOld := 0, houseNew := BitVec.ofNat 256 h, houseOld := 0,
                                          checkKey := BitVec.ofNat 256 c, epoch := 1, boundary := 262144, slots := [], cleared := false } }
    if s.kst.opened then s.kst.flash0.records.foldl loadSlot s else s

/-! ## Step 13 -/

/-- Cores that the governor keeps and no BIST retired are loaded. -/
def loadCores (s : State) : State :=
  (List.range 24).foldl (fun s c =>
    if s.bst.retired.contains (83 + c) || !s.governorKeeps c then s else coreLoad c s.cmc.oldImage s) s

/-- Step 13 (R17, R113, R136, R327): a new memory key, empty memory and caches, the recipe set of the image, cores. -/
def memoryStart (s : State) : State :=
  let s := newEpoch (freshCaches (newMemKey s))
  loadCores (match s.glb.recipes with
    | none => s
    | some r => recipeSetSwitch r s)

/-! ## The start -/

/-- One step; none where it fails or the device stops there. A BLANK or SCRAPPED unit goes no further than step 3 (R373, R430). -/
def startStep (warm : Bool) (env : StartEnv) (n : Nat) (s : State) : Option State :=
  match n with
  | 2 => some (batteryCheck warm s)
  | 3 => senseStep warm s
  | 4 => if s.lcsState = 0 ∨ s.lcsState = 5 then none else some s
  | 7 => some (bistStart warm env s)
  | 8 => entropyStart env s
  | 9 => imageStep s
  | 10 => some (secStart warm env s)
  | 11 => unsealStep env s
  | 12 => some (loadStore warm s)
  | 13 => some (memoryStart s)
  | _ => some s

/-- Steps from `n` on; GLB_STATUS.step shows the last one completed. -/
def startSteps (warm : Bool) (env : StartEnv) : Nat → Nat → State → State
  | 0, _, s => s
  | fuel + 1, n, s =>
    if env.failStep = some n then s
    else match startStep warm env n s with
      | none => s
      | some s => startSteps warm env fuel (n + 1) { s with glb := { s.glb with step := BitVec.ofNat 4 n } }

/-- Role at a start (R406, R407). -/
def startRole (env : StartEnv) (s : State) : State :=
  { s with par := { s.par with role := if env.pairPresent then .waiting else .single } }

/-- A start leaves minimal service mode with the ladder at FIRST (R436). -/
def leaveMinimal (s : State) : State :=
  if s.bat.ladder = 6 then { s with bat := { s.bat with ladder := 0 } } else s

def coldStart (env : StartEnv) (s : State) : State :=
  startSteps false env 13 1 (startRole env (placeImages env (leaveMinimal (coldClear s))))

/-- COLD_START (R430). -/
def execColdStart (env : StartEnv) (s : State) : Host.Outcome State Fault Refusal := .next (coldStart env s)

/-- In minimal service mode SYS_RST_N starts cold (R436). -/
def warmStart (env : StartEnv) (s : State) : State :=
  if s.bat.ladder = 6 then coldStart env s
  else startSteps true env 13 1 (startRole env (placeImages env (warmClear s)))

/-- WARM_START (R432). -/
def execWarmStart (env : StartEnv) (s : State) : Host.Outcome State Fault Refusal := .next (warmStart env s)

/-- SEC_WATCHDOG (R429): the reset of a warm start; WARM_START then runs its steps. -/
def execSecWatchdog (s : State) : Host.Outcome State Fault Refusal := .next (warmClear s)

/-! ## READY (R430, R431, R436, R455) -/

def openPorts (s : State) : State :=
  (s.updPort .a fun x => { x with retry := false }).updPort .b fun x => { x with retry := false }

def startReady (s : State) : State :=
  if s.glb.startDone ∨ s.glb.minimal ∨ s.glb.step ≠ 13 then s
  else
    let rung := s.bat.ladder
    let fails := s.bat.sinceReady
    let ms := (s.clk - s.glb.startAt) / msCycles
    let s := openPorts { s with glb := { s.glb with startDone := true, step := 14 },
                                bat := { s.bat with ladder := 0, sinceReady := [] },
                                kst := { s.kst with phase := if s.kst.phase = 3 then 4 else s.kst.phase } }
    let s := if fails = [] then s
             else tally 0x0702 (BitVec.ofNat 8 fails.length :: (fails.take 31).map fun n => BitVec.ofNat 8 n) s
    tally 0x0701 ([s.glb.startType.setWidth 8, if s.glb.image then 1 else 0] ++ toLE 4 ms ++ [rung.setWidth 8]) s

/-- START_READY (R430, step 14). -/
def execStartReady (s : State) : Host.Outcome State Fault Refusal := .next (startReady s)

/-! ## Failed starts (R436, R437) -/

/-- Minimal service mode: ports leave Retry Status, mailbox 0 serves. -/
def enterMinimal (s : State) : State :=
  let s := if (s.box 0).sideA = 1 then s else drawNonces (mailboxSides s)
  openPorts { s with glb := { s.glb with minimal := true }, bat := { s.bat with ladder := 6 } }

/-- START_STEP_FAIL (R436): a step of a start in progress. `noImage`: step 9 found no valid image. An invalid lifecycle pattern and a
SCRAPPED unit count no failure. -/
def startStepFail (n : BitVec 4) (noImage : Bool) (s : State) : State :=
  if s.glb.startDone ∨ s.glb.minimal ∨ s.glb.startType = 0 ∨ n = 0 ∨ s.lcsState = 15 ∨ s.lcsState = 5 ∨ s.lcsState = 0 then s
  else
    let b := s.bat
    let s := { s with bat := { b with failures := satInc b.failures, failedStep := n, sinceReady := b.sinceReady ++ [n.toNat] } }
    if (n = 9 ∧ (noImage ∨ s.chosenImage = none)) ∨ 5 ≤ b.ladder.toNat then enterMinimal s
    else { s with bat := { s.bat with ladder := b.ladder + 1 } }

def execStartStepFail (step : BitVec 4) (noImage : Bool) (s : State) : Host.Outcome State Fault Refusal :=
  .next (startStepFail step noImage s)

end Sys2Proof.Machine
end

