-- ==== Sys2Proof/Machine/Power.lean ====
section
/-! DEFINITION. Supplies and the Quiet state (R439 to R442), the governor (R444, R445), calibration (R446), frequency monitors (R23). Rails
are numbered in the order of R439: LOGIC, SRAM, IO, MEM2H, MEMQ, MEM1, PHY_A, PHY_B, VDDH_PHY. -/

namespace Sys2Proof.Machine

/-! ## The Quiet state -/

/-- Entry (R440): grants and sweeping stop, the churn pauses, tally and journal flush; PWR_DIP counts it. -/
def quietEnter (s : State) : State :=
  if s.pwr.quiet then s
  else
    let s := { s with pwr := { s.pwr with quiet := true, quietLong := false, quietAt := s.clk, lowest := 0xFFFF,
                                          dipCount := satInc s.pwr.dipCount } }
    startFlush (journalStart (raise 553 s))

def lower (a b : BitVec 16) : BitVec 16 := if a.toNat < b.toNat then a else b

/-- SUPPLY_WARNING (R439, R440): rails 0 to 5 bring the Quiet state, the PHY rails a record. -/
def supplyWarning (rail : Nat) (mv : BitVec 16) (s : State) : State :=
  let s := raise (544 + rail) s
  if rail < 6 then
    let s := quietEnter s
    { s with pwr := { s.pwr with warned := s.pwr.warned ||| ((1 : BitVec 9) <<< rail), lowest := lower mv s.pwr.lowest } }
  else tallyRec 0x0703 0 (BitVec.ofNat 10 (544 + rail)) none (toLE 2 (2 ^ rail) ++ toLE 4 0 ++ toLE 2 mv.toNat) s

def execSupplyWarning (rail : BitVec 4) (millivolt : BitVec 16) (s : State) : Host.Outcome State Fault Refusal :=
  if 9 ≤ rail.toNat then .fault .noSuchUnit else .next (supplyWarning rail.toNat millivolt s)

/-- QUIET_READY_CLEAR (R440): the Quiet state has lasted 1 ms. -/
def execQuietReadyClear (s : State) : Host.Outcome State Fault Refusal :=
  .next (if s.pwr.quiet then { s with pwr := { s.pwr with quietLong := true } } else s)

/-- The end of the Quiet state (R440, R454): the record, regions return, held units and grants resume. Commands that wait at their
commit point go on when they come again (log entry 13). -/
def quietEnd (s : State) : State :=
  let low := if s.pwr.lowest = 0xFFFF then 0 else s.pwr.lowest
  let us := (s.clk - s.pwr.quietAt) / usCycles
  let rails := s.pwr.warned.toNat
  let s := { s with pwr := { s.pwr with quiet := false, quietLong := false, warned := 0, dipMin := low, pwrfail := false },
                    lcs := if s.lcs.plan = [] ∨ s.lcs.phase = 1 then s.lcs else { s.lcs with burnState := 1 } }
  resumeService (quietRegions (tally 0x0703 (toLE 2 rails ++ toLE 4 us ++ toLE 2 low.toNat) s))

/-- QUIET_EXIT (R440): every warned rail has stayed above its resume level for 50 µs. With PWRFAIL_N asserted the state goes on (R441). -/
def quietExit (lowest : BitVec 16) (s : State) : State :=
  if !s.pwr.quiet || s.pwr.warned = 0 then s
  else
    let s := { s with pwr := { s.pwr with lowest := lower lowest s.pwr.lowest } }
    if s.pwr.pwrfail then { s with pwr := { s.pwr with warned := 0 } } else quietEnd s

def execQuietExit (lowest : BitVec 16) (s : State) : Host.Outcome State Fault Refusal := .next (quietExit lowest s)

/-! ## Reset levels (R429, R439) -/

/-- The pair link is gone with its supply. -/
def pairSupplyGone (s : State) : State := { s with par := { s.par with linkUp := false, width := 0 } }

/-- RAIL_RESET: rails 0 to 2 reset cold, 3 to 5 warm (the start itself follows as COLD_START or WARM_START); a PHY rail takes its links
down. -/
def railReset (rail : Nat) (s : State) : State :=
  if rail < 3 then coldClear s
  else if rail < 6 then warmClear s
  else
    let s := { s with pwr := { s.pwr with down := s.pwr.down ||| ((1 : BitVec 9) <<< rail) } }
    if rail = 6 then linkGone .a s
    else if rail = 7 then linkGone .b s
    else raise 427 (pairSupplyGone (linkGone .b (linkGone .a s)))

def execRailReset (rail : BitVec 4) (s : State) : Host.Outcome State Fault Refusal :=
  if 9 ≤ rail.toNat then .fault .noSuchUnit else .next (railReset rail.toNat s)

/-- A port whose PHY supply is back and whose PERST_N is high comes up. -/
def portResume (port : Port) (s : State) : State :=
  if s.phyDown port || (s.portState port).perst then s else pcieUp port s

/-- RAIL_RESUME (R439). The pair link trains again with PAIR_LINK_UP. -/
def railResume (rail : Nat) (s : State) : State :=
  if rail < 6 ∨ ¬ s.pwr.down.getLsbD rail then s
  else
    let s := { s with pwr := { s.pwr with down := s.pwr.down &&& ~~~((1 : BitVec 9) <<< rail) } }
    if rail = 6 then portResume .a s else if rail = 7 then portResume .b s else portResume .b (portResume .a s)

def execRailResume (rail : BitVec 4) (s : State) : Host.Outcome State Fault Refusal :=
  if 9 ≤ rail.toNat then .fault .noSuchUnit else .next (railResume rail.toNat s)

/-! ## PWRFAIL_N (R442, R312) -/

/-- PWRFAIL_ASSERT: the Quiet state, then the long-operation records, the journal and the tally. -/
def pwrfailAssert (s : State) : State :=
  let s := quietEnter (raise 556 { s with pwr := { s.pwr with pwrfail := true } })
  flushNow (journalNow (longRecords s))

def execPwrfailAssert (s : State) : Host.Outcome State Fault Refusal := .next (pwrfailAssert s)

/-- PWRFAIL_DEASSERT_TIMER: 10 ms deasserted with no rail below its resume level. -/
def execPwrfailDeassertTimer (s : State) : Host.Outcome State Fault Refusal :=
  .next (if s.pwr.pwrfail then quietEnd s else s)

/-! ## The governor (R444, R445) -/

def bandOf (mw : Nat) : Nat := if mw < 3000 then 0 else if mw < 6000 then 1 else if mw < 10500 then 2 else 3
def bandEdge (b : Nat) : Nat := if b = 0 then 0 else if b = 1 then 3000 else if b = 2 then 6000 else 10500

/-- Samples of 10 µs in the 1 ms after which a band is lowered. -/
def lowRun : Nat := 100

def setBand (b : Nat) (s : State) : State :=
  raise 555 { s with pwr := { s.pwr with band := BitVec.ofNat 2 b, lowSamples := 0 } }

def bandSample (mw : Nat) (s : State) : State :=
  let b := s.pwr.band.toNat
  if b < bandOf mw then setBand (bandOf mw) s
  else if mw + 300 ≤ bandEdge b then
    if lowRun ≤ s.pwr.lowSamples + 1 then setBand (bandOf mw) s
    else { s with pwr := { s.pwr with lowSamples := s.pwr.lowSamples + 1 } }
  else { s with pwr := { s.pwr with lowSamples := 0 } }

/-- GOVERNOR_SAMPLE: the new 1 ms average; throttling from 0.3 W below the cap until 0.5 W below it. -/
def governorSample (mw : BitVec 16) (s : State) : State :=
  let was := s.pwr.throttling
  let now : Bool := if s.powerCap ≤ mw.toNat + 300 then true else if mw.toNat + 500 ≤ s.powerCap then false else was
  let s := { s with pwr := { s.pwr with powerMw := mw, throttling := now } }
  bandSample mw.toNat (if now && !was then raise 554 s else s)

def execGovernorSample (milliwatt : BitVec 16) (s : State) : Host.Outcome State Fault Refusal := .next (governorSample milliwatt s)

/-! ## Calibration (R446) -/

def State.calRefused (s : State) : Bool :=
  s.tmp.hold || s.pwr.quiet || s.bat.latch || s.pwr.calState = 1 || !(s.lcsState = 2 || s.lcsState = 3)

/-- PWR_CAL_CTRL: the security controller, and the owner's write through it. -/
def calibrationStart (v : Word) (s : State) : State :=
  if !v.getLsbD 0 then s
  else if s.calRefused then
    { s with pwr := { s.pwr with calCode := 1, calState := if s.pwr.calState = 1 then 1 else 3 } }
  else { s with pwr := { s.pwr with calState := 1, calBand := v.extractLsb' 1 2, calCode := 0 } }

def execCalibrationStart (who : Who) (v : Word) (s : State) : Host.Outcome State Fault Refusal :=
  .next (if isSec who then calibrationStart v s else s)

/-- CALIBRATION_DONE: code 0 calibrates the band; 2 a peak above the bound, 3 load not reached. -/
def calibrationDone (code : BitVec 4) (s : State) : State :=
  if s.pwr.calState ≠ 1 then s
  else
    let b := s.pwr.calBand
    let ok := code = 0
    let s := { s with pwr := { s.pwr with calState := if ok then 2 else 3, calCode := code,
                                          calibrated := if ok then s.pwr.calibrated ||| ((1 : BitVec 4) <<< b.toNat) else s.pwr.calibrated } }
    let s := sealFlashes (fun f => { f with calibrated := s.pwr.calibrated }) s
    resumeService (raise 564 (tallyRec 0x0704 0 564 none [b.setWidth 8, code.setWidth 8] s))

def execCalibrationDone (code : BitVec 4) (s : State) : Host.Outcome State Fault Refusal := .next (calibrationDone code s)

/-! ## Frequency monitors (R23, R347) -/

/-- Tamper source, event and expected count of each clock of R23 in a window of 1,024 CLK_SEC cycles, in that order. -/
def monitored (c : ClockCounts) : List (Nat × Nat × Nat × Nat) :=
  [(21, 557, c.hifA, 5120), (22, 558, c.hifB, 5120), (17, 559, c.core, 6400), (18, 560, c.lane, 7680), (19, 561, c.pke, 8192),
   (20, 562, c.mem, 5463), (23, 563, c.pair, 3300)]

/-- More than 8 % from the expected count. -/
def deviates (count expected : Nat) : Bool :=
  decide (100 * expected + 8 * expected < 100 * count) || decide (100 * count + 8 * expected < 100 * expected)

def monitorOne (s : State) (m : Nat × Nat × Nat × Nat) : State :=
  let (n, ev, count, want) := m
  if deviates count want then
    if s.tmp.handover && !s.tmp.active.getLsbD n then qualify n (raise ev s) else s
  else conditionClear n s

/-- FREQ_MONITOR_WINDOW. -/
def execFreqMonitorWindow (c : ClockCounts) (s : State) : Host.Outcome State Fault Refusal :=
  .next ((monitored c).foldl monitorOne s)

end Sys2Proof.Machine
end

