-- ==== Sys2Proof/Machine/Zhoavan.lean ====
section
/-! DEFINITION. Zhoavan messages (R385 to R392): their transport, who may send them, nonces, rosters and quorums, replies (R491). Reading
PIT_ERR codes into replies is R491's. A message arrives whole; the reply is what the device sends on mailbox 1 (log entry 24). -/

namespace Sys2Proof.Machine

/-! ## Transport (R385, R386) -/

/-- The acknowledge of mailbox 0 for its sender. -/
def zack (who : Who) (code : BitVec 16) (s : State) : State :=
  if s.isSender 0 who then senderEvent 0 (s.updBox 0 fun b => { b with ackValid := true, ack := code, turn := false }) else s

/-- An MCTP message of the I3C owner arrives: its link is up (R395). -/
def heard (who : Who) (s : State) : State :=
  if who = .ini 0x2E then { s with own := { s.own with i3cSilent := false } } else s

def zreply (ty : BitVec 16) (h : ZHdr) (status : BitVec 16) (b : Bytes) (s : State) : State :=
  s.emit (.zreply ty h.target h.seq status b)

/-- What a message came to: the reply body and the state, or the reply status. -/
abbrev ZAns := Except (BitVec 16) (Bytes × State)

/-- A refusal: PIT_ERR where the status has a code (R491). -/
def zrefuse (ty : BitVec 16) (h : ZHdr) (status : BitVec 16) (s : State) : State :=
  let s := if 0x21 ≤ status.toNat ∧ status.toNat ≤ 0x27 then pitErr h.sender (BitVec.ofNat 4 (status.toNat - 0x20)) s
           else if status = 6 then pitErr h.sender 6 s else s
  zreply ty h status [] s

/-- `late` is what a refusal leaves besides its reply. -/
def zfinishL (late : BitVec 16 → State → State) (ty : BitVec 16) (h : ZHdr) (a : ZAns) (s : State) : State :=
  match a with
  | .ok (b, t) => zreply ty h 0 b t
  | .error st => zrefuse ty h st (late st s)

def zfinish (ty : BitVec 16) (h : ZHdr) (a : ZAns) (s : State) : State := zfinishL (fun _ s => s) ty h a s

/-- Roles that carry out every message (R386). -/
def State.carriesOut (s : State) : Bool :=
  s.par.role = .active || s.par.role = .solo || s.par.role = .yielding || s.par.role = .single

/-- Types that minimal service mode serves (R437). -/
def minimalTypes : List Nat := [0x0001, 0x0002, 0x0050, 0x0030, 0x0031]

/-- What every message meets first: its sender, the acknowledge, minimal service mode, the role, a closed sealed store (R148, R386, R437).
`always`: carried out in every role. `writes`: it would write the sealed store. While no CSN may be taken (R309), messages wait in their
mailbox. -/
def zmessage (ty : BitVec 16) (h : ZHdr) (always writes : Bool) (f : State → State) (s : State) : State :=
  let s := heard h.sender s
  if !s.isOwner h.sender || s.csnClosed then s
  else
    let s := zack h.sender 1 { s with own := { s.own with fragment := none } }
    if s.glb.minimal then (if minimalTypes.contains ty.toNat then f s else zrefuse ty h 0x13 s)
    else if !always && !s.carriesOut then zrefuse ty h 0x12 s
    else if writes && !s.kst.opened && (s.lcsState = 2 || s.lcsState = 3) then zrefuse ty h 0x14 s
    else f s

/-- A message that writes the key store waits while its writes are deferred (R304) or the journal is full (R311). -/
def zstore (f : State → State) (s : State) : State := if s.storeWaits then s else f s

/-- ZHOAVAN_FRAGMENT (R385): a fragment that is not the last. A body past 16 KiB is discarded as one out of order is. -/
def zhoavanFragment (who : Who) (index : BitVec 16) (body : Bytes) (s : State) : State :=
  let s := heard who s
  if !s.isOwner who then s
  else
    let (want, sofar) := s.own.fragment.getD (0, [])
    let bad := decide (240 < body.length) || decide (16384 < sofar.length + body.length)
    let restart := index = 0
    if (index ≠ want ∧ ¬ restart) ∨ bad then zack who 2 { s with own := { s.own with fragment := none } }
    else zack who 0 { s with own := { s.own with fragment := some (index + 1, if restart then body else sofar ++ body) } }

def execZhoavanFragment (who : Who) (index : BitVec 16) (body : Bytes) (s : State) : Host.Outcome State Fault Refusal :=
  .next (zhoavanFragment who index body s)

/-- UNKNOWN_MESSAGE_TYPE (R387). -/
def unknownMessage (h : ZHdr) (type : BitVec 16) (s : State) : State :=
  zmessage type h true false (fun s => zrefuse type h 1 s) s

def execUnknownMessageType (h : ZHdr) (type : BitVec 16) (s : State) : Host.Outcome State Fault Refusal :=
  .next (unknownMessage h type s)

/-! ## Rosters and quorums (R388 to R390) -/

def noRepeat {α : Type} [DecidableEq α] (l : List α) : Bool := decide (l.eraseDups.length = l.length)

/-- A roster that R388 allows. -/
def State.rosterOk (s : State) (r : Roster) : Bool :=
  let n := r.officers.length
  decide (1 ≤ n) && decide (n ≤ 16) && decide (1 ≤ r.threshold) && decide (r.threshold ≤ n)
    && (!s.locked || decide (2 ≤ r.threshold)) && noRepeat (r.officers.map (·.key))
    && r.officers.all fun o => o.kind = 1 || o.kind = 2

/-- The digest that officers sign (R389). -/
def zDigest (ty target : BitVec 16) (body nonce : Bytes) : Bytes :=
  sha384 (toLE 2 ty.toNat ++ toLE 2 target.toNat ++ body ++ nonce ++ deviceFingerprint)

/-- One officer's signature (R388). -/
def sigOk (r : Roster) (digest : Bytes) (x : OfficerSig) : Bool :=
  match r.officers[x.index]? with
  | none => false
  | some o => o.kind = x.kind &&
      (if x.kind = 1 then pkVerify 0x02 2 [] o.key digest x.sig
       else pkVerify 0x32 0 (ascii "KN-QUORUM") o.key digest x.sig)

/-- The quorum holds (R389): every signature in the block verifies, no index twice, at least M of them. -/
def quorumOk (r : Roster) (digest : Bytes) (l : List OfficerSig) : Bool :=
  decide (r.threshold ≤ l.length) && noRepeat (l.map (·.index)) && l.all (sigOk r digest)

def officerMap (l : List OfficerSig) : Nat := l.foldl (fun a x => a ||| 2 ^ x.index) 0

/-- A pitch roster is read from the sealed store and compared with its digest (R306). -/
def State.pitchRoster (s : State) (target : BitVec 16) : Option Roster :=
  if 4096 ≤ target.toNat then none
  else match (s.pitch target.toNat).roster with
    | none => none
    | some r => if sha384 (rosterBytes r) = (s.pitch target.toNat).rosterDigest then some r else none

def State.rosterFor (s : State) (house : Bool) (target : BitVec 16) : Option Roster :=
  if house then s.own.houseRoster else s.pitchRoster target

/-- The live nonce of a message, bound to its sender and to the roster that its pitch field names (R390). -/
def State.nonceFor (s : State) (h : ZHdr) : Option Ceremony :=
  s.own.ceremonies.find? fun c => c.nonce = h.nonce && c.owner = h.sender && c.target = h.target

def endNonce (n : Bytes) (s : State) : State :=
  { s with own := { s.own with ceremonies := s.own.ceremonies.filter fun c => c.nonce ≠ n } }

/-- A message whose quorum is not valid (R387, R389). -/
def quorumFail (ty : BitVec 16) (h : ZHdr) (s : State) : State :=
  zrefuse ty h 6 (tallyRec 0x0304 s.own.owner 0x3FF none (toLE 2 ty.toNat ++ toLE 2 h.target.toNat ++ toLE 2 6) s)

/-- A gated message (R389, R390): the nonce ends, the quorum is checked, and the change takes its CSN with a QUORUM_OK record. A refusal
takes none. -/
def zquorumL (late : BitVec 16 → State → State) (ty : BitVec 16) (h : ZHdr) (digest : Bytes) (extra : Bool) (r : Option Roster)
    (f : Nat → State → ZAns) (s : State) : State :=
  match s.nonceFor h with
  | none => zrefuse ty h 7 s
  | some _ =>
    let s := endNonce h.nonce s
    match r with
    | none => quorumFail ty h s
    | some r =>
      if quorumOk r digest h.sigs && extra then
        let c := nextCsn s
        let t := tallyRec 0x0303 s.own.owner 0x3FF (some c)
          (toLE 2 ty.toNat ++ toLE 2 h.target.toNat ++ toLE 2 (officerMap h.sigs)) (tookCsn s)
        zfinishL late ty h (f c t) s
      else quorumFail ty h s

def zquorum (ty : BitVec 16) (h : ZHdr) (digest : Bytes) (extra : Bool) (r : Option Roster) (f : Nat → State → ZAns) (s : State) :
    State := zquorumL (fun _ s => s) ty h digest extra r f s

/-- The digest of a message (R389). -/
def zhDigest (ty : BitVec 16) (h : ZHdr) : Bytes := zDigest ty h.target h.body h.nonce

/-- A message gated by the house or by the pitch of its header. -/
def zgate (ty : BitVec 16) (h : ZHdr) (house : Bool) (f : Nat → State → ZAns) (s : State) : State :=
  zquorum ty h (zhDigest ty h) true (s.rosterFor house h.target) f s

/-- The owner credential's signature over a digest (R392, R399). -/
def State.ownerSigOk (s : State) (digest sig : Bytes) : Bool :=
  s.own.key ≠ [] && pkVerify 0x02 2 [] s.own.key digest sig

/-- Signatures of both identity keys over a message (R147): P-384 over its SHA-384 digest, and ML-DSA-87. -/
def identitySigns (m : Bytes) (s : State) : Bytes × Bytes × State :=
  let (a, s) := draw9 56 s
  let (b, s) := draw9 32 s
  ((pkSign 0x02 2 [] identityP384 (sha384 m) a).getD [], (pkSign 0x33 0 [] identityMldsa m b).getD [], s)

/-! ## Nonces (R390) -/

/-- NONCE_GET: the nonce, the ceremony encapsulation key, and its signature where an identity key exists. -/
def nonceGet (h : ZHdr) (s : State) : State :=
  zmessage 0x0001 h false false (fun s =>
    if (s.drbg 9).state = 2 then zrefuse 0x0001 h 7 s
    else
      let (n, s) := draw9 32 s
      let (seed, s) := draw9 64 s
      let pub := pkPublic 0x42 seed
      let (sig, s) :=
        if s.kst.identity then
          let (r, s) := draw9 32 s
          ((pkSign 0x33 0 [] identityMldsa pub r).getD [], s)
        else ([], s)
      let l := s.own.ceremonies
      let l := if l.length < 4 then l else l.drop 1
      let c : Ceremony := { nonce := n, owner := h.sender, target := h.target, seed := seed }
      zreply 0x0001 h 0 (n ++ pub ++ sig) { s with own := { s.own with ceremonies := l ++ [c] } }) s

def execNonceGet (h : ZHdr) (s : State) : Host.Outcome State Fault Refusal := .next (nonceGet h s)

/-- NONCE_EXPIRY (R390). -/
def execNonceExpiry (nonce : Bytes) (s : State) : Host.Outcome State Fault Refusal := .next (endNonce nonce s)

/-! ## Pitches (R34, R35, R54, R387) -/

/-- The pitch that PITCH_CREATE makes, with the defaults of R34; none where a value is missing or out of range. -/
def createdPitch (s : State) (v : PitchValues) : Option (Pitch × Roster) :=
  match v.personality, v.roster with
  | some p, some r =>
    let q := v.quota.getD 32
    let rsv := v.reserve.getD 0
    let w := v.weight.getD 16
    let prio := v.prioCap.getD 7
    let sc := v.signCheck.getD 1
    let kbc := v.kbcCap.getD 1
    let dkc := v.dkcCap.getD (if p = 0 then 2 else 0)
    if v.malformed ∨ 4 ≤ p.toNat ∨ q = 0 ∨ 131072 < q ∨ 4096 < rsv ∨ w = 0 ∨ 255 < w ∨ 7 < prio ∨ 1 < sc
        ∨ 4096 < kbc ∨ 8192 < dkc ∨ ¬ s.rosterOk r then none
    else
      some ({ state := .active, pers := p.extractLsb' 0 2, quota := q, reserve := rsv, weight := w,
              cfg := Rwi.of (BitVec.ofNat 32 (prio * 256 + sc)), kbcCap := kbc, dkcCap := dkc, roster := some r,
              rosterDigest := sha384 (rosterBytes r) }, r)
  | _, _ => none

/-- The refusals of R35 after the quorum, in table order, else the pitch. -/
def createPitch (target : BitVec 16) (v : PitchValues) (c : Nat) (s : State) : ZAns :=
  let p := target.toNat
  if !(s.lcsState = 2 || s.lcsState = 3) then .error 0x27
  else if p < 4096 ∧ (s.pitch p).state ≠ .free then .error 0x23
  else if 4096 ≤ p then .error 0x21
  else match createdPitch s v with
    | none => .error 0x21
    | some (x, r) =>
      if 65536 < s.reserveSum + x.reserve ∨ 4096 < s.kbcSum + x.kbcCap ∨ 8192 < s.dkcSum + x.dkcCap then .error 0x22
      else
        let (k, s) := draw9 32 s
        let s := s.updPitch p fun o =>
          { x with gen := o.gen, bindA := o.bindA, bindB := o.bindB, fnA := o.fnA, fnB := o.fnB, winSet := o.winSet, ctxKey := some k }
        let n := BitVec.ofNat 12 p
        let s := tallyRec 0x0401 s.own.owner 0x3FF (some c) (toLE 2 p ++ [x.pers.setWidth 8]) s
        let s := sealPitch p c s
        let s := mirror (.roster target c r) (journal (.roster target (some r)) c s)
        .ok (toLE 8 c, mirror (.contextKey n c k 0) (journal (.contextKey n (some k) 0) c s))

/-- PITCH_CREATE (R34, R35). -/
def execPitchCreate (h : ZHdr) (v : PitchValues) (s : State) : Host.Outcome State Fault Refusal :=
  .next (zmessage 0x0010 h false true (zgate 0x0010 h true (createPitch h.target v)) s)

/-- PITCH_DELETE (R33, R54): the pitch is DELETING; its export authorisation ends. -/
def deletePitch (target : BitVec 16) (c : Nat) (s : State) : ZAns :=
  let p := target.toNat
  if 4096 ≤ p ∨ ¬ ((s.pitch p).state = .active ∨ (s.pitch p).state = .suspended) then .error 0x23
  else .ok (toLE 8 c, sealPitch p c (s.updPitch p fun v => { v with state := .deleting, delStep := 0, exportAuth := none }))

def execPitchDelete (h : ZHdr) (s : State) : Host.Outcome State Fault Refusal :=
  .next (zmessage 0x0011 h false true (zgate 0x0011 h true (deletePitch h.target)) s)

/-- Values of PITCH_CONFIG within their ranges (R63, R222). -/
def configOk (v : ConfigValues) : Bool :=
  let within := fun (o : Option Nat) (lo hi : Nat) => match o with | none => true | some n => decide (lo ≤ n) && decide (n ≤ hi)
  within v.quota 1 131072 && within v.reserve 0 4096 && within v.weight 1 255 && within v.prioCap 0 7 && within v.signCheck 0 1
    && within v.kbcCap 0 4096 && within v.dkcCap 0 8192

/-- PITCH_CONFIG (R387): the values given change together or not at all. -/
def configPitch (target : BitVec 16) (v : ConfigValues) (s : State) : ZAns :=
  let p := target.toNat
  let x := s.pitch p
  let caps := v.kbcCap.isSome || v.dkcCap.isSome
  let rsv := v.reserve.getD x.reserve
  let prio := v.prioCap.getD (x.cfg.val.toNat / 256 % 8)
  let sc := v.signCheck.getD (x.cfg.val.toNat % 2)
  if 4096 ≤ p ∨ x.state = .free ∨ (x.state = .deleting ∧ caps) then .error 0x23
  else if !configOk v then .error 0x21
  else if 65536 < s.reserveSum - x.reserve + rsv then .error 0x22
  else match setShares p (v.kbcCap.getD x.kbcCap) (v.dkcCap.getD x.dkcCap) s with
    | .error c => .error (0x20 + c.setWidth 16)
    | .ok s =>
      .ok ([], sealNow p (s.updPitch p fun x =>
        { x with quota := v.quota.getD x.quota, reserve := rsv, weight := v.weight.getD x.weight,
                 cfg := Rwi.of (BitVec.ofNat 32 (prio * 256 + sc)),
                 replayOn := match v.replay with | some (b, _) => b | none => x.replayOn,
                 replayTol := match v.replay with | some (_, t) => t | none => x.replayTol }))

def execPitchConfig (h : ZHdr) (v : ConfigValues) (s : State) : Host.Outcome State Fault Refusal :=
  .next (zmessage 0x0012 h false true (fun s => zfinish 0x0012 h (configPitch h.target v s) s) s)

/-! ## PMKs (R149, R394) -/

/-- The fixed attributes of a PMK (R149). -/
def pmkAttr (p : Nat) : Attr :=
  { use := .k1, alg := .a, mode := .b, expo := 0, world := 7, life := 6, len := 32, owner := p }

/-- The components of form 1 under the ceremony's key; none where one does not open. -/
def openComponents (seed nonce : Bytes) (l : List PmkComponent) : Option (List Bytes) :=
  l.mapM fun c =>
    if c.kem.length ≠ 1088 ∨ c.wrapped.length ≠ 48 then none
    else
      let k := kdf (kemDecaps 2 seed c.kem) nonce 32 "KN-CMP"
      match gcmOpen k (zeros 12) [] (c.wrapped.take 32) (c.wrapped.drop 32) with
      | (m, true) => some m
      | _ => none

/-- The PMK that a body carries, and its components. -/
def pmkOf (p : Nat) (seed nonce : Bytes) (b : PmkBody) (s : State) : Except (BitVec 16) (Bytes × List Bytes) :=
  if b.form = 1 then
    if b.components.length < 2 ∨ 3 < b.components.length then .error 0x21
    else match openComponents seed nonce b.components with
      | none => .error 0x21
      | some l =>
        let k := l.foldl xorB (zeros 32)
        if !noRepeat l || allZero k then .error 8 else .ok (k, l)
  else if b.form = 2 then
    match parseBlock b.block with
    | none => .error 0x21
    | some x =>
      match s.pmkFor p x.kp with
      | none => .error 0x21
      | some w =>
        match verifyBlock w.val x with
        | none => .error 0x21
        | some (k, a, _) =>
          if !x.binary || a.alg ≠ .a || k.length ≠ 32 then .error 0x21
          else if allZero k then .error 8 else .ok (k, [])
  else .error 0x21

/-- A free slot of the pitch, the lowest (log entry 25). -/
def State.freeSlotOf (s : State) (p : Nat) : Option Nat :=
  ((p :: List.range 4096).filter fun n => s.blockOwner n = some p).findSome? fun n =>
    ((List.range 64).map fun i => 64 * n + i).find? (slotEmpty s)

/-- The PMK table of a pitch changed, journalled and mirrored. -/
def setPmk (p entry : Nat) (v : Option (BitVec 18)) (c : Nat) (s : State) : State :=
  let s := s.updPitch p fun x => { x with pmk := x.pmk.set entry v }
  let n := BitVec.ofNat 12 p
  mirror (.pmk n c (s.pitch p).pmk) (journal (.pmk n (s.pitch p).pmk) c s)

/-- PMK_LOAD (R394). -/
def pmkLoad (target : BitVec 16) (seed nonce : Bytes) (b : PmkBody) (c : Nat) (s : State) : ZAns :=
  let p := target.toNat
  if !((s.pitch p).state = .active || (s.pitch p).state = .suspended) then .error 0x23
  else if 4 ≤ b.entry then .error 0x21
  else if ((s.pitch p).pmk.getD b.entry none).isSome then .error 0x25
  else match pmkOf p seed nonce b s with
    | .error e => .error e
    | .ok (k, l) =>
      match (b.slot.map (·.toNat)).orElse (fun _ => s.freeSlotOf p) with
      | none => .error 0x25
      | some n =>
        if s.blockOwner (n / 64) ≠ some p then .error 0x21
        else if !slotEmpty s n then .error 0x25
        else
          let s := setPmk p b.entry (some (BitVec.ofNat 18 n)) c (putKey n p (pmkAttr p) {} k c s)
          .ok (toLE 8 c ++ kcvKbpk k ++ (l.map kcvKbpk).flatten, s)

/-- The ceremony seed is that of the nonce, which ends with the quorum check. -/
def execPmkLoad (h : ZHdr) (b : PmkBody) (s : State) : Host.Outcome State Fault Refusal :=
  .next (zstore (zmessage 0x0020 h false true (fun s =>
    let seed := match s.nonceFor h with | some c => c.seed | none => []
    zgate 0x0020 h false (pmkLoad h.target seed h.nonce b) s)) s)

/-- A slot emptied: zeros, generation up (R297), journalled and mirrored. -/
def clearSlot (n c : Nat) (s : State) : State :=
  let v : Slot := { gen := (s.slot n).gen + 1 }
  mirror (.slot (BitVec.ofNat 18 n) c [] 0 v.gen {}) (journal (.slot (BitVec.ofNat 18 n) v) c (s.setSlot n v))

/-- PMK_CLEAR (R387). -/
def pmkClear (target : BitVec 16) (entry c : Nat) (s : State) : ZAns :=
  let p := target.toNat
  if !((s.pitch p).state = .active || (s.pitch p).state = .suspended) then .error 0x23
  else match (s.pitch p).pmk.getD entry none with
    | none => .error 0x21
    | some n => .ok (toLE 8 c, setPmk p entry none c (clearSlot n.toNat c s))

def execPmkClear (h : ZHdr) (entry : Nat) (s : State) : Host.Outcome State Fault Refusal :=
  .next (zstore (zmessage 0x0021 h false true (zgate 0x0021 h false (pmkClear h.target entry))) s)

/-! ## Rosters (R392) -/

/-- A house roster takes its place, and its owner-signed record with the next version. -/
def setHouse (r : Roster) (c : Nat) (s : State) : State :=
  let s := { s with own := { s.own with houseRoster := some r, houseRecord := some r, houseVersion := s.own.houseVersion + 1 } }
  mirror (.roster 0xFFFF c r) (journal (.roster 0xFFFF (some r)) c s)

def setRoster (target : BitVec 16) (r : Roster) (c : Nat) (s : State) : ZAns :=
  if !s.rosterOk r then .error 0x21
  else if target = 0xFFFF then .ok (toLE 8 c, setHouse r c s)
  else if !((s.pitch target.toNat).state = .active || (s.pitch target.toNat).state = .suspended) then .error 0x23
  else
    let s := s.updPitch target.toNat fun v => { v with roster := some r, rosterDigest := sha384 (rosterBytes r) }
    .ok (toLE 8 c, mirror (.roster target c r) (journal (.roster target (some r)) c s))

/-- The first house roster (R392): in INTEGRATOR, with the owner credential's signature alone. -/
def firstRoster (h : ZHdr) (r : Roster) (s : State) : State :=
  match s.nonceFor h with
  | none => zrefuse 0x0022 h 7 s
  | some _ =>
    let s := endNonce h.nonce s
    if s.lcsState = 2 && s.ownerSigOk (zhDigest 0x0022 h) h.ownerSig then
      zfinish 0x0022 h (setRoster 0xFFFF r (nextCsn s) (tookCsn s)) s
    else quorumFail 0x0022 h s

/-- ROSTER_SET (R392). -/
def rosterSet (h : ZHdr) (r : Roster) (s : State) : State :=
  let d := zhDigest 0x0022 h
  if h.target ≠ 0xFFFF then zgate 0x0022 h false (setRoster h.target r) s
  else if s.own.houseRoster.isNone then firstRoster h r s
  else zquorum 0x0022 h d (s.ownerSigOk d h.ownerSig) s.own.houseRoster (setRoster 0xFFFF r) s

def execRosterSet (h : ZHdr) (r : Roster) (s : State) : Host.Outcome State Fault Refusal :=
  .next (zmessage 0x0022 h false true (rosterSet h r) s)

/-! ## Export authorisations and attributes (R165, R396) -/

/-- EXPORT_AUTH: a duration, a count, or both; 0 where the body gives none. -/
def exportAuth (target : BitVec 16) (seconds count _c : Nat) (s : State) : ZAns :=
  let p := target.toNat
  if !((s.pitch p).state = .active || (s.pitch p).state = .suspended) then .error 0x23
  else if seconds = 0 ∨ 3600 < seconds ∨ count = 0 ∨ 65535 < count then .error 0x21
  else
    let a : ExportAuth := { seconds := seconds, count := count }
    .ok ([], s.updPitch p fun v => { v with exportAuth := some a })

def execExportAuth (h : ZHdr) (seconds count : Nat) (s : State) : Host.Outcome State Fault Refusal :=
  .next (zmessage 0x0023 h false false (zgate 0x0023 h false (exportAuth h.target seconds count)) s)

/-- EXPORT_AUTH_EXPIRY (R396). -/
def execExportAuthExpiry (p : BitVec 12) (s : State) : Host.Outcome State Fault Refusal :=
  .next (match (s.pitch p.toNat).exportAuth with
    | some _ => s.updPitch p.toNat fun v => { v with exportAuth := none }
    | none => s)

/-- Every permission of the first is one of the second. -/
def within (n : Nat) (a b : Nat) : Bool := (List.range n).all fun i => !a.testBit i || b.testBit i

def Mode.dirs : Mode → Nat
  | .b => 3
  | .c => 12
  | .d => 1
  | .e => 2
  | .g => 4
  | .v => 8
  | .s => 16
  | .x => 32

/-- A widening (R165): usage, algorithm, owner and form stay; no permission is lost. -/
def widens (a b : Attr) : Bool :=
  a.use = b.use && a.alg = b.alg && a.owner = b.owner && a.len = b.len && a.ctrKind = b.ctrKind && rowOk b.use b.alg b.mode
    && b.expo ≤ 2 && a.expo ≤ b.expo && within 3 a.world b.world && within 5 a.life b.life && within 6 a.mode.dirs b.mode.dirs
    && (b.ctrLimit = 0 || (a.ctrLimit ≠ 0 && a.ctrLimit ≤ b.ctrLimit))

/-- ATTR_WIDEN (R165): the generation stays (R297). A PMK's attributes are fixed (R149). -/
def attrWiden (target : BitVec 16) (n : Nat) (attrs : BitVec 128) (c : Nat) (s : State) : ZAns :=
  let p := target.toNat
  if !((s.pitch p).state = .active || (s.pitch p).state = .suspended) then .error 0x23
  else match s.slotKey n with
    | none => .error 0x21
    | some k =>
      let b := Attr.unpack attrs
      if s.blockOwner (n / 64) ≠ some p || (s.pitch p).pmk.contains (some (BitVec.ofNat 18 n)) || !widens k.attr b then .error 0x21
      else
        let v : Slot := { s.slot n with attrs := b.pack }
        .ok (toLE 8 c, mirror (.attrs (BitVec.ofNat 18 n) c b.pack) (journal (.slot (BitVec.ofNat 18 n) v) c (s.setSlot n v)))

def execAttrWiden (h : ZHdr) (slot : BitVec 18) (attrs : BitVec 128) (s : State) : Host.Outcome State Fault Refusal :=
  .next (zstore (zmessage 0x0024 h false true (zgate 0x0024 h false (attrWiden h.target slot.toNat attrs))) s)

/-! ## The tally (R467, R468) -/

/-- The held records of a range. -/
def State.tallyRange (s : State) (first : Word) (count : Nat) : List TallyRec :=
  (List.range count).filterMap fun i => s.tallyFind (first + BitVec.ofNat 32 i)

/-- TALLY_READ (R467). -/
def tallyRead (h : ZHdr) (first : Word) (count : BitVec 16) (s : State) : State :=
  if !s.tallyOffered then s
  else zmessage 0x0050 h true false (fun s =>
    if count = 0 ∨ 255 < count.toNat then zrefuse 0x0050 h 0x21 s
    else
      let l := s.tallyRange first count.toNat
      let n := match l with | r :: _ => r.number | [] => first
      zreply 0x0050 h 0 (toLE 4 n.toNat ++ toLE 2 l.length ++ [0, 0] ++ (l.map TallyRec.bytes).flatten) s) s

def execTallyRead (h : ZHdr) (first : Word) (count : BitVec 16) (s : State) : Host.Outcome State Fault Refusal :=
  .next (tallyRead h first count s)

/-- TALLY_CLEAR (R468): flush, erase the tail, then the record. -/
def tallyClear (c : Nat) (s : State) : ZAns :=
  let s := flushNow s
  let l := s.tly.tail
  let lo := match l with | r :: _ => r.number | [] => s.tly.next
  let hi := match l.getLast? with | some r => r.number | none => s.tly.next
  let s := { s with tly := tailOldest { s.tly with tail := [], erasing := false } }
  .ok ([], raise 477 (tallyRec 0x0F02 s.own.owner 477 (some c) (toLE 4 l.length ++ toLE 4 lo.toNat ++ toLE 4 hi.toNat) s))

def execTallyClear (h : ZHdr) (s : State) : Host.Outcome State Fault Refusal :=
  .next (zmessage 0x0051 h false false (zgate 0x0051 h true tallyClear) s)

/-! ## Tamper classes (R358) -/

/-- TAMPER_CLASS: the security controller commits TMP_CLASS at the owner's request, in INTEGRATOR only. -/
def tamperClass (bank : BitVec 2) (v : Word) (s : State) : ZAns :=
  if s.lcsState ≠ 2 then .error 0x27
  else if bank = 3 then .error 0x21
  else match s.commitRefusal (.tmpClass bank.toNat) v with
    | some _ => .error 0x21
    | none => .ok ([], rwiCommit (.tmpClass bank.toNat) v s)

/-- A commit that is discarded leaves its NOTE (R7, R372). -/
def execTamperClass (h : ZHdr) (bank : BitVec 2) (v : Word) (s : State) : Host.Outcome State Fault Refusal :=
  .next (zmessage 0x0043 h false true (fun s =>
    let a := tamperClass bank v s
    let t := match a with
      | .error 0x21 => if bank = 3 then s else rwiDiscard 0x120008 3 s
      | _ => s
    zfinish 0x0043 h a t) s)

end Sys2Proof.Machine
end

