-- ==== Sys2Proof/Machine/Lifecycle.lean ====
section
/-! DEFINITION. Lifecycle transitions and fuse burns (R373 to R384), firmware images (R434, R435), re-integration (R398, R399), ZEROISE,
TAMPER_FUSE, FUSE_REPAIR and OWNER_ROTATE. -/

namespace Sys2Proof.Machine

/-! ## Preconditions and tokens (R380, R381) -/

/-- The conditions of R381 that fail, bit n the n-th; `holdup` false where declared_ms is not required. -/
def State.burnCheck (s : State) (c : BurnConditions) (holdup : Bool) : BitVec 8 :=
  BitVec.ofNat 8 (bit (!c.vbat || !s.bat.vbat) 0 + bit (!c.rails) 1 + bit (!c.pwrfail || s.pwr.pwrfail) 2
    + bit (!c.warning || s.pwr.warned ≠ 0) 3 + bit s.tmp.hold 4 + bit (!c.temperature) 5
    + bit (holdup && decide (s.lcs.holdup.toNat < 50)) 6)

/-- A refused burn shows what failed (R401, R402). -/
def burnRefused (m : BitVec 8) (s : State) : State := { s with lcs := { s.lcs with precheck := m, burnState := 3 } }

/-- What a refusal with status 0x0011 leaves. -/
def lateBurn (c : BurnConditions) (st : BitVec 16) (s : State) : State :=
  if st = 0x11 then burnRefused (s.burnCheck c true) s else s

/-- A vendor token for this device (R380). -/
def tokenOk (t : VendorToken) (target : Bytes) : Bool :=
  let m := t.fingerprint ++ t.target ++ t.nonce
  t.fingerprint = deviceFingerprint && t.target = target
    && pkVerify 0x33 0 [] Config.vendorMldsa m t.sigMldsa && pkVerify 0x02 2 [] Config.vendorP384 (sha384 m) t.sigP384

/-- The token that a message carries, over the nonce of the message. -/
def headerToken (h : ZHdr) (target : Bytes) : Bool :=
  match h.token with
  | some t => t.nonce = h.nonce && tokenOk t target
  | none => false

/-- One fuse group burned (R402): the count of burns, and the pulses of the last fuse, a free value from 1 to 8. -/
def burned (group : BitVec 3) (n : Nat) (s : State) : State :=
  let p := (Config.freeByte s.rng).toNat % 8 + 1
  { s.drew 1 with lcs := { s.lcs with burns := BitVec.ofNat 16 (min (s.lcs.burns.toNat + n) 0xFFFF), burnGroup := group,
                                      burnState := if s.lcs.plan = [] then 2 else s.lcs.burnState,
                                      precheck := 0, pulses := BitVec.ofNat 8 p } }

/-! ## Transitions (R377 to R379) -/

/-- The record of intent, with its CSN, flushed. -/
def intent (target : Nat) (actor : BitVec 6) (c : Nat) (s : State) : State :=
  flushNow (tallyRec 0x0301 actor 0x3FF (some c) [BitVec.ofNat 8 s.lcsState, BitVec.ofNat 8 target] s)

/-- The burn starts: its steps wait for FUSE_BURN_DONE. -/
def burnPlan (target : BitVec 4) (phase : BitVec 3) (state : BitVec 2) (group : BitVec 3) (l : List BurnStep) (s : State) : State :=
  { s with lcs := { s.lcs with plan := l, target := target, phase := phase, burnState := state, burnGroup := group, precheck := 0,
                               burnAt := s.clk } }

/-- Lifecycle bits from a state to another, ascending. -/
def burnBits (src dst : Nat) : List BurnStep := (List.range (dst - src)).map fun i => .bit (src + i)

/-- R378. -/
def toFielded (actor : BitVec 6) (c : Nat) (s : State) : State :=
  burnPlan 3 2 1 2 [.classFuses, .bit 2, .finish] (intent 3 actor c s)

/-- R379: intent, erase line with source 3, Vault Seed, sealed-store areas; then the bits. -/
def eraseThenBurn (dst : Nat) (actor : BitVec 6) (c : Nat) (s : State) : State :=
  let l := burnBits s.lcsState dst ++ [.finish]
  let s := intent dst actor c s
  let s := rwiCommit .eraseCmd 0x5A { s with lcs := { s.lcs with phase := 1 } }
  burnPlan (BitVec.ofNat 4 dst) 1 0 1 l
    { s with bat := { s.bat with seed := none }, kst := { s.kst with flash0 := {}, flash1 := {}, opened := false } }

/-- The owner credential is enrolled (R393). -/
def OwnerSlot.live (x : OwnerSlot) : Bool := x.burned && !x.revoked

def State.enrolled (s : State) : Bool := s.lcs.fuses.owner0.live || s.lcs.fuses.owner1.live

/-- The conditions of R377 on the state, the target and the token. -/
def State.transitionOk (s : State) (h : ZHdr) (target : Nat) : Bool :=
  let src := s.lcsState
  match target with
  | 3 => src = 2 && (match s.own.houseRoster with | some r => decide (2 ≤ r.threshold) | none => false) && s.enrolled
  | 4 => (src = 2 || src = 3) && headerToken h [4]
  | 5 => src = 2 || src = 3
  | _ => false

def lcsTransition (h : ZHdr) (target : Nat) (b : BurnConditions) (c : Nat) (s : State) : ZAns :=
  if s.lcs.plan ≠ [] ∨ ¬ s.transitionOk h target then .error 0x10
  else if s.burnCheck b true ≠ 0 then .error 0x11
  else
    let k := nextCsn s
    let s := tookCsn s
    .ok (toLE 8 c, if target = 3 then toFielded s.own.owner k s else eraseThenBurn target s.own.owner k s)

/-- LCS_TRANSITION (R377). -/
def execLcsTransition (h : ZHdr) (target : BitVec 4) (c : BurnConditions) (s : State) : Host.Outcome State Fault Refusal :=
  .next (zmessage 0x0040 h false false (fun s =>
    zquorumL (lateBurn c) 0x0040 h (zhDigest 0x0040 h) true s.own.houseRoster (lcsTransition h target.toNat c) s) s)

/-- WAFER_TEST_TRANSITION (R377): BLANK to MAKER. -/
def waferTest (c : BurnConditions) (s : State) : State :=
  if s.lcsState ≠ 0 ∨ s.lcs.plan ≠ [] then s
  else if s.burnCheck c false ≠ 0 then burnRefused (s.burnCheck c false) s
  else burnPlan 1 3 1 1 [.bit 0, .finish] s

def execWaferTestTransition (c : BurnConditions) (s : State) : Host.Outcome State Fault Refusal := .next (waferTest c s)

/-- MANUFACTURING_TRANSITION (R377): MAKER to INTEGRATOR with the DRS blown and the certificate area written. -/
def manufacturing (certWritten : Bool) (s : State) : State :=
  if s.lcsState ≠ 1 ∨ s.lcs.plan ≠ [] then s
  else
    let f := { s.lcs.fuses with certWritten := s.lcs.fuses.certWritten || certWritten }
    let s := { s with lcs := { s.lcs with fuses := f } }
    if f.drs && f.certWritten then burnPlan 2 3 1 1 [.bit 1, .finish] s else s

def execManufacturingTransition (certWritten : Bool) (s : State) : Host.Outcome State Fault Refusal :=
  .next (manufacturing certWritten s)

/-- A vendor token's nonce in RETURNED is bound to the owner alone (R380). -/
def State.tokenNonce (s : State) (n : Bytes) (who : Who) : Bool := s.own.ceremonies.any fun c => c.nonce = n && c.owner = who

/-- JTAG_SCRAP (R377): MAKER or RETURNED to SCRAPPED. A MAKER unit has no owner and no nonce to compare. -/
def jtagScrap (t : VendorToken) (b : BurnConditions) (s : State) : State :=
  let nonceOk := s.lcsState = 1 || s.tokenNonce t.nonce (.ini s.own.owner)
  if s.csnClosed || !(s.lcsState = 1 || s.lcsState = 4) || s.lcs.plan ≠ [] || !nonceOk || !tokenOk t [5] then s
  else
    let s := endNonce t.nonce s
    if s.burnCheck b true ≠ 0 then burnRefused (s.burnCheck b true) s
    else eraseThenBurn 5 0 (nextCsn s) (tookCsn s)

def execJtagScrap (t : VendorToken) (c : BurnConditions) (s : State) : Host.Outcome State Fault Refusal := .next (jtagScrap t c s)

/-! ## Windows (R382, R383) -/

/-- Fuses of the committed classes as a thermometer code (R358); fixed sources have none. -/
def classThermo (n : Nat) : Nat := if n = 0 then 0 else if n = 1 then 1 else 3

def State.classFuses (s : State) : BitVec 96 :=
  BitVec.ofNat 96 (packClasses (fun n => if fixedSource n then 0 else classThermo (s.classOf n)) 48)

/-- The class fuses are burned; an interruption leaves some of them unblown, a free value (R358, R378). -/
def burnClasses (verified : Bool) (s : State) : State :=
  let add := if verified then s.classFuses else s.classFuses &&& BitVec.ofNat 96 (leNat (s.freeBytes 12))
  burned 2 70 { s.drew 12 with lcs := { s.lcs with fuses := { s.lcs.fuses with cls := s.lcs.fuses.cls ||| add } } }

/-- One lifecycle bit: T, then C with its inverted read sense. An interrupted window leaves the two in disagreement (R382). -/
def burnBit (n : Nat) (verified : Bool) (s : State) : State :=
  let m := (1 : BitVec 5) <<< n
  let f := s.lcs.fuses
  let f := { f with lcsT := f.lcsT ||| m, lcsC := if verified then f.lcsC &&& ~~~m else f.lcsC }
  burned 1 (if verified then 2 else 1) { s with lcs := { s.lcs with fuses := f } }

/-- The scrap burn ends: every fuse of R383 reads 1. -/
def burnScrap (s : State) : State :=
  let slot : OwnerSlot := { burned := true, revoked := true, hash := List.replicate 48 0xFF }
  let s := { s with lcs := { s.lcs with fuses := { s.lcs.fuses with drs := true, repairs := 512, owner0 := slot, owner1 := slot,
                                                                     scrapped := true } } }
  let s := burned 7 s.lcs.scrapLeft.toNat s
  { s with lcs := { s.lcs with phase := 5, plan := [], scrapLeft := 0, burnState := 2 } }

/-- The end of a transition: the completion record of R378 and R379, flushed, and a cold start (R375). -/
def burnFinish (s : State) : State :=
  let ms := (s.clk - s.lcs.burnAt) / msCycles
  let s := if s.lcs.target.toNat < 3 then s
           else flushNow (tally 0x0302 (BitVec.ofNat 8 s.lcsState :: toLE 4 ms) s)
  coldClear s

/-- After a window: the completion, or the next burn; with PWRFAIL_N or in the Quiet state no further bit starts. -/
def burnNext (l : List BurnStep) (s : State) : State :=
  match l with
  | [] => { s with lcs := { s.lcs with plan := [] } }
  | .finish :: _ => burnFinish s
  | _ => { s with lcs := { s.lcs with plan := l, phase := 3, burnState := if s.pwr.quiet || s.pwr.pwrfail then 2 else 1 } }

/-- FUSE_BURN_DONE (R382): the burn in progress ends; not verified, it was interrupted. -/
def fuseBurnDone (verified : Bool) (s : State) : State :=
  if s.lcs.burnState ≠ 1 then s
  else match s.lcs.plan with
    | [] => s
    | .classFuses :: l => let s := burnClasses verified s
                          if verified then burnNext l s else { s with lcs := { s.lcs with plan := [], phase := 0, burnState := 0 } }
    | .bit n :: l => let s := burnBit n verified s
                     if verified then burnNext l s else { s with lcs := { s.lcs with plan := [], phase := 0, burnState := 0 } }
    | .scrapFuses :: _ => if verified then burnScrap s else s
    | .finish :: _ => burnFinish s

def execFuseBurnDone (verified : Bool) (s : State) : Host.Outcome State Fault Refusal := .next (fuseBurnDone verified s)

/-! ## Re-integration and ZEROISE (R307, R398, R399) -/

/-- The two situations of R398; a FIELDED unit without seed and header is one whose seed is lost (R148). -/
def State.reintegrable (s : State) : Bool :=
  (s.lcsState = 2 || s.lcsState = 3)
    && (s.bat.latch || (s.bat.seed.isNone && (s.storeHeader || s.lcsState = 3)))

/-- The body as it is signed: bytes 0x08 to 0x67 are zero. -/
def reintegrateDigest (h : ZHdr) : Bytes :=
  zDigest 0x0041 h.target (h.body.take 8 ++ zeros 96 ++ h.body.drop 0x68) h.nonce

/-- The new store: house roster, declared_ms, the minimum versions of the running images, an empty pitch set. -/
def newStore (declared : Byte) (c : Nat) (s : State) : Flash :=
  { header := some deviceFingerprint
    records := match s.own.houseRecord with | some r => [{ csn := c, what := .roster 0xFFFF (some r) }] | none => []
    minVersion := s.cmc.oldImage, minRecipe := s.activeBank.version, holdup := declared, classes := s.classBits }

def reintegrate (declared : Byte) (c : Nat) (s : State) : ZAns :=
  let (_, s) := newVaultSeed s
  let f := newStore declared c s
  let s := { s with kst := { s.kst with flash0 := f, flash1 := f, lastCsn := max s.kst.lastCsn c },
                    bat := { s.bat with latch := false, latchSource := 0 } }
  .ok (toLE 8 c, coldClear (flushNow s))

/-- REINTEGRATE (R399): the quorum is that of the roster record. -/
def execReintegrate (h : ZHdr) (declaredMs : Byte) (version : Word) (s : State) : Host.Outcome State Fault Refusal :=
  .next (zmessage 0x0041 h false false (fun s =>
    if !s.reintegrable then zrefuse 0x0041 h 0x15 s
    else
      let d := reintegrateDigest h
      zquorum 0x0041 h d (version = s.own.houseVersion && s.ownerSigOk d h.ownerSig) s.own.houseRecord (reintegrate declaredMs) s) s)

/-- ZEROISE (R307). -/
def zeroise (c : Nat) (s : State) : ZAns := .ok (toLE 8 c, rwiCommit .eraseCmd 0x5A s)

def execZeroise (h : ZHdr) (s : State) : Host.Outcome State Fault Refusal :=
  .next (zmessage 0x0042 h false false (zgate 0x0042 h true zeroise) s)

/-! ## Other burns (R358, R359, R384, R393, R452) -/

/-- A class raised: its fuses, and TMP_CLASS with its inverse. -/
def raiseClass (n cls : Nat) (s : State) : State :=
  let bank := n / 16
  let old := (s.rwiGet (.tmpClass bank)).val.toNat
  let w : Word := BitVec.ofNat 32 (old - s.classOf n * 4 ^ (n % 16) + cls * 4 ^ (n % 16))
  let f := BitVec.ofNat 96 (classThermo cls * 4 ^ n)
  let s := rwiCommit (.tmpClass bank) w { s with lcs := { s.lcs with fuses := { s.lcs.fuses with cls := s.lcs.fuses.cls ||| f } } }
  burned 2 (cls - s.classOf n) s

/-- TAMPER_FUSE (R358, R359): a disable fuse acts from the next start. -/
def tamperFuse (n : Nat) (disable : Bool) (cls : Nat) (b : BurnConditions) (c : Nat) (s : State) : ZAns :=
  if 48 ≤ n ∨ (¬ disable ∧ (cls = 3 ∨ cls ≤ s.classOf n)) then .error 0x21
  else if !(s.lcsState = 3 || (disable && s.lcsState = 2)) then .error 0x27
  else if s.burnCheck b true ≠ 0 then .error 0x11
  else if disable then
    .ok (toLE 8 c, burned 3 2 { s with lcs := { s.lcs with fuses :=
      { s.lcs.fuses with disable := setBit48 s.lcs.fuses.disable n } } })
  else .ok (toLE 8 c, raiseClass n cls s)

/-- A class that would fall leaves the NOTE of R358. -/
def lateClass (n : Nat) (disable : Bool) (c : BurnConditions) (st : BitVec 16) (s : State) : State :=
  if st = 0x21 ∧ ¬ disable ∧ n < 48 then rwiDiscard 0x120008 3 s else lateBurn c st s

def execTamperFuse (h : ZHdr) (source : BitVec 6) (disable : Bool) (cls : BitVec 2) (c : BurnConditions) (s : State) :
    Host.Outcome State Fault Refusal :=
  .next (zmessage 0x0044 h false true (fun s =>
    zquorumL (lateClass source.toNat disable c) 0x0044 h (zhDigest 0x0044 h) true s.own.houseRoster
      (tamperFuse source.toNat disable cls.toNat c) s) s)

/-- Regions whose place a spare has taken: the first lane group and the first two big-number engines that were retired. -/
def State.spareMap (s : State) : List Nat :=
  (s.bst.retired.filter fun r => decide (r < 25)).take 1 ++ (s.bst.retired.filter fun r => decide (25 ≤ r) && decide (r ≤ 50)).take 2

/-- FUSE_REPAIR (R452): pending soft repairs and the spare mapping. -/
def fuseRepair (b : BurnConditions) (s : State) : ZAns :=
  if s.burnCheck b true ≠ 0 then .error 0x11
  else
    let l := s.spareMap.filter fun r => !s.lcs.fuses.mapped.contains r
    let n := s.bst.pending.toNat
    let s := { s with lcs := { s.lcs with fuses := { s.lcs.fuses with repairs := min 512 (s.lcs.fuses.repairs + n),
                                                                       mapped := s.lcs.fuses.mapped ++ l } },
                      bst := { s.bst with pending := 0 } }
    .ok ([], tallyRec 0x0803 s.own.owner 0x3FF none (toLE 2 (n - l.length) ++ toLE 2 l.length) (burned 5 (2 * n) s))

/-- The house in FIELDED, the owner alone in INTEGRATOR (R387). -/
def execFuseRepair (h : ZHdr) (c : BurnConditions) (s : State) : Host.Outcome State Fault Refusal :=
  .next (zmessage 0x0045 h false false (fun s =>
    if s.lcsState = 3 then
      zquorumL (lateBurn c) 0x0045 h (zhDigest 0x0045 h) true s.own.houseRoster (fun _ s => fuseRepair c s) s
    else if s.lcsState = 2 then zfinishL (lateBurn c) 0x0045 h (fuseRepair c s) s
    else zrefuse 0x0045 h 0x27 s) s)

/-- OWNER_ROTATE (R393): slot 1 burned, slot 0 revoked; once. -/
def ownerRotate (k : Bytes) (b : BurnConditions) (c : Nat) (s : State) : ZAns :=
  if !(s.lcsState = 2 || s.lcsState = 3) then .error 0x27
  else if k.length ≠ 48 ∨ ¬ s.lcs.fuses.owner0.burned ∨ s.lcs.fuses.owner1.burned then .error 0x21
  else if s.burnCheck b true ≠ 0 then .error 0x11
  else
    let slot : OwnerSlot := { burned := true, hash := k }
    .ok (toLE 8 c, burned 6 2 { s with lcs := { s.lcs with fuses :=
      { s.lcs.fuses with owner0 := { s.lcs.fuses.owner0 with revoked := true }, owner1 := slot } } })

def execOwnerRotate (h : ZHdr) (keyHash : Bytes) (c : BurnConditions) (s : State) : Host.Outcome State Fault Refusal :=
  .next (zmessage 0x0046 h false false (fun s =>
    zquorumL (lateBurn c) 0x0046 h (zhDigest 0x0046 h) true s.own.houseRoster (ownerRotate keyHash c) s) s)

/-! ## Firmware images (R434 to R437) -/

/-- The slot that is not running; where none runs, the one that is not preferred. -/
def State.spareSlot (s : State) : Bool := if s.glb.minimal then !s.glb.preferB else !s.glb.image

/-- An image written into a slot of both flashes. -/
def putImage (b : Bool) (i : Image) (s : State) : State :=
  { s with glb := if b then { s.glb with slotB0 := some i, slotB1 := some i } else { s.glb with slotA0 := some i, slotA1 := some i } }

/-- FW_STAGE (R435): the reply's body is 1 where the image passes R434. The standby gets the image too. -/
def fwStage (i : Image) (s : State) : ZAns :=
  if !(s.lcsState = 2 || s.lcsState = 3 || s.lcsState = 4) then .error 0x27
  else
    let ok := imageOk i
    let s := putImage s.spareSlot i s
    let s := { s with glb := { s.glb with staged := if ok then some i else none } }
    .ok ([if ok then 1 else 0], if s.mirrors then s.emit (.pairImage i) else s)

def execFwStage (h : ZHdr) (img : Image) (s : State) : Host.Outcome State Fault Refusal :=
  .next (zmessage 0x0030 h false false (fun s => zfinish 0x0030 h (fwStage img s) s) s)

/-- The recipe set that an image delivers is not older than the minimum that is sealed (R137). -/
def State.setAccepted (s : State) (i : Image) : Bool :=
  match i.recipes with
  | none => true
  | some x => decide (s.glb.minRecipe.toNat ≤ x.version.toNat)

/-- Acceptance raises the minimum to the version of the set (R137). -/
def State.raisedRecipe (s : State) (i : Image) : BitVec 16 :=
  match i.recipes with
  | none => s.glb.minRecipe
  | some x => x.version

/-- The staged image is preferred and its version the minimum; the cores follow, or in minimal service mode the device starts cold. -/
def fwAccept (c : Nat) (s : State) : ZAns :=
  match s.glb.staged with
  | none => .error 0x21
  | some i =>
    if i.version.toNat < s.glb.minVersion.toNat ∨ ¬ s.setAccepted i then .error 0x21
    else
      let b := s.spareSlot
      let s := tallyRec 0x0306 s.own.owner 0x3FF (some c) ((if b then 1 else 0) :: toLE 2 i.version.toNat) s
      let s := { s with glb := { s.glb with preferB := b, minVersion := i.version, minRecipe := s.raisedRecipe i, recipes := i.recipes,
                                            staged := none } }
      let s := mirrorDevice (sealFlashes (fun f => { f with minVersion := i.version, minRecipe := s.glb.minRecipe }) s)
      if s.glb.minimal then
        .ok (toLE 8 c, coldClear (flushNow { s with bat := { s.bat with ladder := 0 } }))
      else if s.cmc.updRunning then .ok (toLE 8 c, s)
      else .ok (toLE 8 c, liveUpdateStart secIni 0x100 { s with cmc := { s.cmc with updImage := i.version } })

/-- FW_ACCEPT (R435): house quorum; a vendor token in RETURNED; in minimal service mode the roster record (R437). -/
def execFwAccept (h : ZHdr) (s : State) : Host.Outcome State Fault Refusal :=
  .next (zmessage 0x0031 h false true (fun s =>
    if s.lcsState = 4 then
      if !s.tokenNonce h.nonce h.sender then zrefuse 0x0031 h 7 s
      else
        let t := endNonce h.nonce s
        let d := match s.glb.staged with | some i => i.digest | none => []
        if headerToken h d then zfinish 0x0031 h (fwAccept (nextCsn t) (tookCsn t)) t else quorumFail 0x0031 h t
    else
      zquorum 0x0031 h (zhDigest 0x0031 h) true (if s.glb.minimal then s.own.houseRecord else s.own.houseRoster) fwAccept s) s)

end Sys2Proof.Machine
end

