-- ==== Sys2Proof/Machine/Ownership.lean ====
section
/-! DEFINITION. Management ownership (R393, R395, R397, R400): claims, handovers, release, link loss. -/

namespace Sys2Proof.Machine

def isCandidate (n : BitVec 6) : Bool := n = 0x2E || n = 0x2F || n = 0x30

/-! ## Claims (R397) -/

def claimLength : Nat := 272

/-- The claim in an initiator's buffer. -/
def State.claimBuffer (s : State) (n : BitVec 6) : Bytes :=
  (List.range claimLength).map fun i => (s.candidate n).claim.get 0 i

/-- OWN_CLAIM (R397, R400): the claim as it stands waits for its verification. -/
def ownClaim (who : Who) (v : Word) (s : State) : State :=
  match who with
  | .vf _ _ => s
  | .ini n =>
    if !isCandidate n || !v.getLsbD 0 then s
    else
      let s := s.updCandidate n fun c => { c with status := 1, code := 0 }
      { s with own := { s.own with claims := s.own.claims ++ [(n, s.claimBuffer n)] } }

def execOwnClaim (who : Who) (v : Word) (s : State) : Host.Outcome State Fault Refusal := .next (fromHost who (ownClaim who v) s)

def claimKey (b : Bytes) : Bytes := slice b 0x40 97

/-- Form of a claim: kind, reserved bytes, the writer's own number, the device's fingerprint, an uncompressed key (code 1). -/
def claimFormOk (n : BitVec 6) (b : Bytes) : Bool :=
  b.length = claimLength && (byteAt b 0 = 1 || byteAt b 0 = 2) && decide ((byteAt b 1).toNat < 2) && byteAt b 2 = n.setWidth 8
    && allZero (slice b 3 5) && slice b 0x28 16 = deviceFingerprint && allZero (slice b 0x38 8) && byteAt b 0x40 = 4
    && allZero (slice b 0xA1 15)

/-- A key of an unrevoked, burned slot (R393). -/
def State.credential (s : State) (key : Bytes) : Bool :=
  let h := sha384 key
  (s.lcs.fuses.owner0.live && s.lcs.fuses.owner0.hash = h) || (s.lcs.fuses.owner1.live && s.lcs.fuses.owner1.hash = h)

/-- The first claim, which burns slot 0 (R393): in INTEGRATOR with both slots blank. -/
def State.firstClaim (s : State) (b : Bytes) : Bool :=
  s.lcsState = 2 && byteAt b 0 = 1 && !s.lcs.fuses.owner0.burned && !s.lcs.fuses.owner1.burned

/-- Why a claim is refused, 0 where it is not (R400): the codes in the order of the claim's fields, then the ownership state. -/
def State.claimCode (s : State) (n : BitVec 6) (b : Bytes) (c : BurnConditions) : BitVec 4 :=
  if !isCandidate ((byteAt b 2).setWidth 6) then 7
  else if !claimFormOk n b then 1
  else if slice b 8 32 ≠ (s.candidate n).nonce then 2
  else if !(s.credential (claimKey b) || s.firstClaim b) then 4
  else if !pkVerify 0x02 2 [] (claimKey b) (sha384 (b.take 0xB0)) (b.drop 0xB0) then 3
  else if byteAt b 0 = 1 ∧ ¬ (s.own.state = 0 ∨ (s.own.state = 1 ∧ s.own.owner = n)) then 5
  else if byteAt b 0 = 2 ∧ ¬ (s.own.state = 2 ∧ s.own.target = n) then 6
  else if s.firstClaim b ∧ s.burnCheck c true ≠ 0 then 4
  else 0

/-! ## Changes of ownership (R395) -/

/-- Ownership passes to `new` (0: nobody). Causes: 1 claim, 2 confirm, 3 release, 4 link loss. -/
def ownChange (new : BitVec 6) (key : Bytes) (cause : Nat) (s : State) : State :=
  let old := s.own.owner
  let s := releaseLocksOf old s
  let s := { s with own := { s.own with state := if new = 0 then 0 else 1, owner := new, target := 0, epoch := s.own.epoch + 1,
                                        ceremonies := [], key := key, fragment := none } }
  let s := drawNonces s
  tallyRec 0x0305 new 0x3FF none [old.setWidth 8, new.setWidth 8, BitVec.ofNat 8 cause] s

/-- compat of mailboxes 0 and 1: at once, or from their next lock acquisition. -/
def setCompat (now on : Bool) (s : State) : State :=
  let f : Mailbox → Mailbox := fun b => if now then { b with compat := on, compatNext := none } else { b with compatNext := some on }
  (s.updBox 0 f).updBox 1 f

/-- OWNER_HASH slot 0 is burned with the claimant's key. -/
def burnOwner (b : Bytes) (s : State) : State :=
  let slot : OwnerSlot := { burned := true, hash := sha384 (claimKey b) }
  burned 6 1 { s with lcs := { s.lcs with fuses := { s.lcs.fuses with owner0 := slot } } }

def redrawNonce (n : BitVec 6) (s : State) : State :=
  let (x, s) := draw9 32 s
  s.updCandidate n fun c => { c with nonce := x }

/-- A claim that is valid. -/
def claimAccepted (n : BitVec 6) (b : Bytes) (s : State) : State :=
  let s := if s.firstClaim b then burnOwner b s else s
  let s := s.updCandidate n fun c => { c with status := 2, code := 0 }
  let compat := (byteAt b 1).getLsbD 0
  if byteAt b 0 = 1 ∧ s.own.state = 1 then setCompat false compat (redrawNonce n s)
  else setCompat true compat (ownChange n (claimKey b) (byteAt b 0).toNat s)

/-- CLAIM_VERIFIED (R395): the oldest claim that waits. -/
def claimVerified (c : BurnConditions) (s : State) : State :=
  match s.own.claims with
  | [] => s
  | (n, b) :: l =>
    let code := s.claimCode n b c
    let s := { s with own := { s.own with claims := l } }
    if code = 0 then claimAccepted n b s
    else
      let s := if code = 4 ∧ s.firstClaim b then burnRefused (s.burnCheck c true) s else s
      redrawNonce n (s.updCandidate n fun x => { x with status := 3, code := code })

def execClaimVerified (c : BurnConditions) (s : State) : Host.Outcome State Fault Refusal := .next (claimVerified c s)

/-! ## Handover and release -/

/-- A write of OWN_HANDOVER: only the owner's counts. -/
def ownHandover (who : Who) (v : Word) (s : State) : State :=
  let t := v.extractLsb' 0 6
  if !s.isOwner who then s
  else
  let s := if t = 0 ∨ isCandidate t then { s with own := { s.own with written := t } } else s
  if v.getLsbD 8 then handoverEnd s
  else if s.own.state ≠ 1 then s
  else if t = 0 then ownChange 0 [] 3 s
  else if !isCandidate t || t = s.own.owner || s.linkIsDown t then s
  else { s with own := { s.own with state := 2, target := t } }

/-- HANDOVER_START. -/
def execHandoverStart (who : Who) (v : Word) (s : State) : Host.Outcome State Fault Refusal := .next (fromHost who (ownHandover who v) s)

/-- OWNER_RELEASE. -/
def execOwnerRelease (who : Who) (v : Word) (s : State) : Host.Outcome State Fault Refusal := .next (fromHost who (ownHandover who v) s)

/-- HANDOVER_CANCEL. -/
def execHandoverCancel (who : Who) (v : Word) (s : State) : Host.Outcome State Fault Refusal := .next (fromHost who (ownHandover who v) s)

/-- HANDOVER_TIMEOUT: 1 s without a confirmation. -/
def execHandoverTimeout (s : State) : Host.Outcome State Fault Refusal := .next (handoverEnd s)

/-! ## Links -/

/-- I3C_LINK_SILENCE. -/
def execI3cLinkSilence (s : State) : Host.Outcome State Fault Refusal :=
  .next (handoverCheck { s with own := { s.own with i3cSilent := true } })

/-- OWNER_LINK_LOSS: the owner's link has been down for 2 s. -/
def ownerLinkLoss (s : State) : State :=
  if s.own.state ≠ 0 ∧ s.linkIsDown s.own.owner then ownChange 0 [] 4 s else s

def execOwnerLinkLoss (s : State) : Host.Outcome State Fault Refusal := .next (ownerLinkLoss s)

end Sys2Proof.Machine
end

