-- ==== Sys2Proof/Machine/Pair.lean ====
section
/-! DEFINITION. Pair operation (R403 to R428): bonding, sessions, roles and the interlock, health frames, skims and acknowledgements,
resync, takeover with its leap, the commanded hand-over. In SINGLE no pair event has an effect (R407, R410). -/

namespace Sys2Proof.Machine

/-! ## Roles (R407 to R409) -/

def Role.code : Role → Nat
  | .single => 0
  | .waiting => 1
  | .syncing => 2
  | .standby => 3
  | .active => 4
  | .solo => 5
  | .yielding => 6
  | .released => 7

/-- A role change is written to the tally and raises its event. -/
def roleTo (r : Role) (s : State) : State :=
  if s.par.role = r then s
  else
    let old := s.par.role
    raise 425 (tallyRec 0x0601 0 425 none [BitVec.ofNat 8 old.code, BitVec.ofNat 8 r.code] { s with par := { s.par with role := r } })

/-- Roles that assert ACT_CLAIM_N (R408). -/
def State.claims (s : State) : Bool := s.par.role = .active || s.par.role = .solo || s.par.role = .yielding

/-- A device may be granted (R409); a peer claim stuck at takeover ends it (R420). -/
def State.eligible (s : State) : Bool :=
  (s.par.role = .standby || s.par.role = .waiting) && s.ready && !s.bat.latch && !s.tmp.hold && (!s.degraded || s.par.degradedOk)
    && !s.par.stuck

/-- Byte 0x05 of a health frame (R412). -/
def State.healthFlags (s : State) : Byte :=
  BitVec.ofNat 8 (bit s.eligible 0 + bit s.ready 1 + bit s.degraded 2 + bit s.bat.latch 3 + bit s.tmp.hold 4
    + bit s.par.standbyLost 5 + bit s.par.yielded 6 + bit s.par.linkUp 7)

/-- A health frame (R412). -/
def State.healthBytes (s : State) : Bytes :=
  let b := [(0xA5 : Byte), 1] ++ toLE 2 s.par.hbSeq.toNat ++ [BitVec.ofNat 8 s.par.role.code, s.healthFlags, 0, 0] ++ toLE 8 s.csn
    ++ toLE 8 s.par.lastEpoch ++ padTo 4 (deviceFingerprint.take 4)
  b ++ toLE 4 (crc32 b).toNat

/-- HEALTH_FRAME (R412): from step 10 of a start on (R477). -/
def healthFrame (s : State) : State :=
  if s.glb.step.toNat < 10 ∧ ¬ s.glb.minimal then s
  else { s.emit (.health s.healthBytes) with par := { s.par with hbSeq := s.par.hbSeq + 1 } }

def execHealthFrame (s : State) : Host.Outcome State Fault Refusal := .next (healthFrame s)

/-! ## Link, bond and session (R403 to R406) -/

/-- Fingerprint of an identity (R380). -/
def fingerprintOf (p384Key : Bytes) : Bytes := (sha384 p384Key).take 16

/-- The fingerprint that the house roster names. -/
def State.peerPrint (s : State) : Option Bytes := s.own.houseRoster.bind (·.pair)

/-- The bond key for the peer that the roster names. -/
def State.bondKey (s : State) : Option Bytes :=
  match s.kst.bond, s.peerPrint with
  | some b, some f => if b.take 16 = f then some (b.drop 16) else none
  | _, _ => none

/-- This device is the initiator: its fingerprint is the lower one. -/
def isInitiator (peer : Bytes) : Bool := decide (beNat deviceFingerprint < beNat peer)

/-- Bytes of an offer that its signatures cover. -/
def offerCore (o : BondOffer) : Bytes := o.kemKey ++ o.point ++ o.nonce ++ o.p384Key ++ o.mldsaKey ++ rosterBytes o.roster

def offerBytes (o : BondOffer) : Bytes := offerCore o ++ o.sigP384 ++ o.sigMldsa

/-- This device's own offer, with fresh keys. -/
def makeOffer (s : State) : State :=
  let (seed, s) := draw9 64 s
  let (k, s) := draw9 56 s
  let (n, s) := draw9 32 s
  let scalar := toBE 48 ((curve 2).scalar k)
  let o : BondOffer :=
    { kemKey := pkPublic 0x42 seed, point := pkPublic 2 scalar, nonce := n, p384Key := pkPublic 2 identityP384,
      mldsaKey := pkPublic 0x33 identityMldsa, chain := Config.certChain, roster := s.own.houseRoster.getD ⟨[], 0, none⟩,
      sigP384 := [], sigMldsa := [] }
  let (a, b, s) := identitySigns (offerCore o) s
  let o := { o with sigP384 := a, sigMldsa := b }
  { s.emit (.bondOffer o) with par := { s.par with ownOffer := some o, ownSeeds := seed ++ scalar, offer := none } }

/-- A frame goes out. -/
def sent (s : State) : State := { s with par := { s.par with frames := s.par.frames + 1 } }

/-- Last record of a counter within an epoch (R414, type 3). -/
def lastCounters : List SkimRecord → List SkimRecord
  | [] => []
  | r :: l =>
    match r with
    | .counter n _ _ => if l.any (fun x => match x with | .counter m _ _ => m = n | _ => false) then lastCounters l else r :: lastCounters l
    | _ => r :: lastCounters l

/-- Head of the key whose counter slot is `n`. -/
def State.counterHead (s : State) (n : Nat) : Option Attr :=
  (List.range (min 63 n)).findSome? fun i =>
    let v := s.slot (n - i - 1)
    let a := Attr.unpack v.attrs
    if attrKind v.attrs = 1 ∧ a.ctrKind ≠ 0 ∧ runSlots a.len = i + 1 then some a else none

/-- A slot as a resync carries it: a counter with the leap that it still has to take (R417, R418). -/
def State.resyncSlot (s : State) (n : Nat) (v : Slot) : SkimRecord :=
  let k := BitVec.ofNat 18 n
  if attrKind v.attrs = 3 then
    let fin := match s.counterHead n with | some a => counterEnd a | none => 2 ^ 64 - 1
    .slot k s.csn (toLE 8 (s.counterValue n fin) ++ zeros 24) v.attrs v.gen v.tag
  else .slot k s.csn v.key v.attrs v.gen v.tag

/-- What a resync carries for a pitch. -/
def resyncPitch (csn : Nat) (e : Nat × Pitch) : List SkimRecord :=
  let n := BitVec.ofNat 12 e.1
  let v := e.2
  [pitchSkim e.1 csn v, .pmk n csn v.pmk]
    ++ (match v.ctxKey with | some k => [.contextKey n csn k v.ctxGen] | none => [])
    ++ (match v.roster with | some r => [.roster (n.setWidth 16) csn r] | none => [])
    ++ v.replay.map fun r => .replay n r.csn r.hostTag r.opcode r.status

/-- The owner of a block as a record carries it. -/
def BlockOwner.pitchOf (n : Nat) : BlockOwner → Option (BitVec 12)
  | .home => some (BitVec.ofNat 12 n)
  | .other p => some p
  | .unassigned => none

/-- The whole state of the active device (R417). -/
def State.resyncRecords (s : State) : List SkimRecord :=
  (s.kst.slots.filter fun e => e.2.key ≠ []).map (fun e => s.resyncSlot e.1 e.2)
    ++ (s.pit.pitches.filter fun e => e.2.state ≠ .free).flatMap (resyncPitch s.csn)
    ++ s.pit.blocks.map (fun e => .block (BitVec.ofNat 12 e.1) s.csn (e.2.pitchOf e.1))
    ++ (match s.own.houseRoster with | some r => [.roster 0xFFFF s.csn r] | none => []) ++ [s.deviceRecord]

/-- An ACTIVE or SOLO device offers a resync (R407, R417); during an erase there is nothing that it could read (R308). -/
def offerResync (s : State) : State :=
  if (s.par.role = .active ∨ s.par.role = .solo) ∧ ¬ s.erasing then
    sent { s.emit (.resync s.resyncRecords) with par := { s.par with resyncing := true } }
  else s

/-- The session keys of R405. -/
def sessionUp (s : State) : State :=
  match s.bondKey, s.peerPrint with
  | some k, some f =>
    let x := if isInitiator f then s.par.nonceOwn ++ s.par.noncePeer else s.par.noncePeer ++ s.par.nonceOwn
    offerResync { s with par := { s.par with session := some (kdf k x 64 "KN-PAIR-LINK"), frames := 0, peerFrames := 0 } }
  | _, _ => s

/-- PAIR_LINK_UP (R404 to R406): also where a session is established anew. -/
def pairLinkUp (width : BitVec 2) (nonce : Bytes) (s : State) : State :=
  if s.par.role = .single ∨ ¬ s.glb.startDone ∨ width = 0 ∨ s.pwr.down.getLsbD 8 then s
  else
    let was := s.par.linkUp
    let s := if was then s else raise 428 s
    let (n, s) := draw9 32 s
    let s := { s.emit (.linkNonce n) with par := { s.par with linkUp := true, width := width, nonceOwn := n, noncePeer := nonce } }
    if s.peerPrint.isNone then s
    else if s.bondKey.isSome then sessionUp s
    else makeOffer s

def execPairLinkUp (width : BitVec 2) (peerNonce : Bytes) (s : State) : Host.Outcome State Fault Refusal :=
  .next (pairLinkUp width peerNonce s)

/-- A handshake refused or ended (R403, R404): result 1 signature or certificate, 2 roster. -/
def bondFail (result : Nat) (peer : Bytes) (s : State) : State :=
  let s := if result = 2 then parErr 4 s else s
  raise 432 (tallyRec 0x0604 0 432 none (BitVec.ofNat 8 result :: peer)
    { s with par := { s.par with ownOffer := none, offer := none, ownSeeds := [], ownShared := [], ownResponse := [] } })

/-- An offer from the peer that the roster names, by keys that the vendor root certifies. -/
def offerSigned (o : BondOffer) : Bool :=
  let m := offerCore o
  Config.chainOk o.p384Key o.mldsaKey o.chain && pkVerify 0x02 2 [] o.p384Key (sha384 m) o.sigP384
    && pkVerify 0x33 0 [] o.mldsaKey m o.sigMldsa

/-- The two rosters name each other and agree in officers, keys and threshold (R403). -/
def State.rostersAgree (s : State) (o : BondOffer) : Bool :=
  match s.own.houseRoster with
  | none => false
  | some r => r.officers = o.roster.officers && r.threshold = o.roster.threshold && r.pair = some (fingerprintOf o.p384Key)
      && o.roster.pair = some deviceFingerprint

/-- PAIR_OFFER (R404 steps 2 and 3). -/
def pairOffer (o : BondOffer) (s : State) : State :=
  let f := fingerprintOf o.p384Key
  if !s.par.linkUp || s.bondKey.isSome || s.par.ownOffer.isNone then s
  else if !offerSigned o then bondFail 1 f s
  else if !s.rostersAgree o then bondFail 2 f s
  else
    let (m, s) := draw9 32 s
    let (c, z) := kemEncaps 2 o.kemKey m
    let (x, y, s) := identitySigns c s
    let b := c ++ x ++ y
    { s.emit (.bondResponse b) with par := { s.par with offer := some o, ownShared := z, ownResponse := b } }

def execPairOffer (o : BondOffer) (s : State) : Host.Outcome State Fault Refusal := .next (pairOffer o s)

/-- The bond key (R404). -/
def bondKeyOf (s : State) (own peer : BondOffer) (ciphertext response : Bytes) : Bytes :=
  let zPeer := kemDecaps 2 (s.par.ownSeeds.take 64) ciphertext
  let zec := (curve 2).dh (beNat (s.par.ownSeeds.drop 64)) peer.point
  let first := isInitiator (fingerprintOf peer.p384Key)
  let t := if first then offerBytes own ++ offerBytes peer ++ s.par.ownResponse ++ response
           else offerBytes peer ++ offerBytes own ++ response ++ s.par.ownResponse
  let z := if first then s.par.ownShared ++ zPeer else zPeer ++ s.par.ownShared
  kdf (z ++ zec) (sha384 t) 32 "KN-PAIR-BOND"

/-- PAIR_RESPONSE (R404 step 4): the bond key goes to the private store and the sealed store, and the session follows. -/
def pairResponse (c sigP384 sigMldsa : Bytes) (s : State) : State :=
  match s.par.ownOffer, s.par.offer with
  | some own, some o =>
    let f := fingerprintOf o.p384Key
    if !(pkVerify 0x02 2 [] o.p384Key (sha384 c) sigP384 && pkVerify 0x33 0 [] o.mldsaKey c sigMldsa) then bondFail 1 f s
    else
      let k := f ++ bondKeyOf s own o c (c ++ sigP384 ++ sigMldsa)
      let s := tally 0x0604 (0 :: f) { s with kst := { s.kst with bond := some k } }
      let s := journal (.bond (some k)) s.csn s
      sessionUp { s with par := { s.par with ownOffer := none, offer := none, ownSeeds := [], ownShared := [], ownResponse := [] } }
  | _, _ => s

def execPairResponse (ciphertext sigP384 sigMldsa : Bytes) (s : State) : Host.Outcome State Fault Refusal :=
  .next (pairResponse ciphertext sigP384 sigMldsa s)

/-- The link carries sealed frames. -/
def State.linked (s : State) : Bool := s.par.linkUp && s.par.session.isSome

/-- KEEP_ALIVE_SEND (R406). -/
def keepAlive (s : State) : State := if s.claims && s.linked then sent (s.emit .keepAlive) else s

def execKeepAliveSend (s : State) : Host.Outcome State Fault Refusal := .next (keepAlive s)

/-- PAIR_LINK_DOWN (R406). -/
def pairLinkDown (s : State) : State :=
  if !s.par.linkUp then s
  else raise 427 { s with par := { s.par with linkUp := false, width := 0, session := none, resyncing := false, skimQueue := [],
                                              ownOffer := none, offer := none } }

def execPairLinkDown (s : State) : Host.Outcome State Fault Refusal := .next (pairLinkDown s)

/-- STANDBY_LINK_TIMEOUT (R407): down for more than PAR_ACK_TIMEOUT. -/
def standbyLinkTimeout (s : State) : State :=
  if s.par.role = .standby ∧ ¬ s.par.linkUp then roleTo .syncing s else s

def execStandbyLinkTimeout (s : State) : Host.Outcome State Fault Refusal := .next (standbyLinkTimeout s)

/-! ## RELEASED (R408) -/

/-- Every tracker entry is discarded; rings, queues, cores and engines lose their work. -/
def discardEntries (s : State) : State :=
  { s with
    sch := { s.sch with entries := [], queues := s.sch.queues.mapv {} fun _ _ => {} },
    rqe := { s.rqe with
      sqs := s.rqe.sqs.mapv {} fun _ q =>
        if q.state = .draining then {} else { q with outstanding := 0, refusedHeld := 0, fenced := false, fetching := 0, refusing := none },
      cqs := s.rqe.cqs.mapv {} fun _ q => { q with held := [], latched := [], reserved := 0, pending := 0, timer := false } },
    pit := { s.pit with pitches := s.pit.pitches.mapv {} fun _ v => { v with inFlight := 0 } },
    cmc := { s.cmc with ctxs := [], cores := s.cmc.cores.mapv {} fun _ k =>
      { k with entry := none, blocked := false, state := if k.state = .busy then .idle else k.state, hrdStatus := 0, handed := false } },
    units := { s.units with pke := s.units.pke.mapv {} fun _ u => unitStop u, ltc := s.units.ltc.mapv {} fun _ u => unitStop u, reqs := [] },
    caches := { s.caches with walker0 := none, walker1 := none, walkQueue := [] } }

/-- RELEASED: ACT_CLAIM_N is released, and the tracker is discarded with one record. -/
def toReleased (s : State) : State :=
  let n := (s.sch.entries.filter fun e => e.2.isSome).length
  let s := roleTo .released { s with par := { s.par with claim := false, yieldStep := 0, unacked := [], records := [], soloWait := false,
                                                         standbyLost := false, resyncing := false, takeStep := 0 } }
  tally 0x0603 (toLE 4 n) (discardEntries s)

/-- WIT_GRANT_LOSS (R408, R420). -/
def grantLoss (s : State) : State :=
  if s.par.role = .single then s
  else
    let s := { s with par := { s.par with grant := false, takeStep := 0 } }
    if s.claims then toReleased s else s

def execWitGrantLoss (s : State) : Host.Outcome State Fault Refusal := .next (grantLoss s)

/-- PEER_CLAIM_ASSERT (R408). -/
def peerClaimAssert (s : State) : State :=
  if s.par.role = .single then s
  else
    let s := { s with par := { s.par with peerClaim := true } }
    if s.claims then toReleased s else s

def execPeerClaimAssert (s : State) : Host.Outcome State Fault Refusal := .next (peerClaimAssert s)

/-! ## Takeover (R411, R418, R420) -/

/-- The leap: the next CSN is the highest applied plus L, and every counter takes L at its first access. -/
def applyLeap (l : Nat) (s : State) : State :=
  { s with csn := s.csn + l - 1, kst := { s.kst with leap := l, leaped := [] } }

/-- The derivation cache, and every H in it, begins anew (R221, R225). -/
def freshDkc (s : State) : State := { s with caches := { s.caches with dkc := [], dkcHand := [] } }

/-- Steps 2 to 6 of R420. -/
def takeOver (s : State) : State :=
  let l := 2 ^ s.par.leapLog2.toNat
  let s := applyLeap l (freshDkc s)
  let s := tallyRec 0x0602 0 424 (some s.csn) (toLE 8 l ++ toLE 8 (s.csn + 1)) s
  let fence := s.par.fence && !s.par.lastYield
  let s := { s with par := { s.par with
    claim := true, takeStep := 0, stuck := false, takeovers := satInc s.par.takeovers, takeoverFlag := true, yielded := false,
    standbyLost := false, soloWait := false, relaxedInForce := s.par.relaxed, epoch := s.par.lastEpoch + 1, records := [.leap s.csn l],
    unacked := [], ackedCsn := s.csn, rstLow := fence, resyncing := false, skimQueue := [] } }
  let s := roleTo .active s
  let s := { s with rqe := { s.rqe with sqs := s.rqe.sqs.mapv {} fun _ q => if q.state = .active then { q with resync := true } else q } }
  raise 424 (resumeService s)

/-- The device waits for its peer's claim to end, or takes over. -/
def tryTakeOver (s : State) : State :=
  if !s.par.grant || !(s.par.role = .waiting || s.par.role = .standby) then s
  else if s.par.peerClaim then { s with par := { s.par with takeStep := 1 } }
  else takeOver s

/-- WIT_GRANT_QUALIFY (R420): the ball acts from READY on (R477). -/
def grantQualify (s : State) : State :=
  if s.par.role = .single ∨ ¬ s.glb.startDone then s else tryTakeOver { s with par := { s.par with grant := true } }

def execWitGrantQualify (s : State) : Host.Outcome State Fault Refusal := .next (grantQualify s)

/-- TAKEOVER_CLAIM_TIMEOUT (R420 step 1): 250 µs after the grant. -/
def takeoverClaimTimeout (s : State) : State :=
  if s.par.takeStep = 1 ∧ s.par.peerClaim then raise 434 (parErr 3 { s with par := { s.par with stuck := true } }) else s

def execTakeoverClaimTimeout (s : State) : Host.Outcome State Fault Refusal := .next (takeoverClaimTimeout s)

/-- PEER_CLAIM_CLEAR (R420 step 1): deasserted for 2 µs. -/
def peerClaimClear (s : State) : State :=
  if s.par.role = .single then s
  else
    let s := { s with par := { s.par with peerClaim := false, stuck := false } }
    if s.par.takeStep = 1 then tryTakeOver s else s

def execPeerClaimClear (s : State) : Host.Outcome State Fault Refusal := .next (peerClaimClear s)

/-- PAIR_RST_RELEASE (R420 step 6). -/
def execPairRstRelease (s : State) : Host.Outcome State Fault Refusal := .next { s with par := { s.par with rstLow := false } }

/-! ## Skims out (R414 to R416) -/

def recordCsn : SkimRecord → Nat
  | .slot _ c _ _ _ _ => c
  | .attrs _ c _ => c
  | .counter _ c _ => c
  | .pmk _ c _ => c
  | .contextKey _ c _ _ => c
  | .pitch _ c _ _ _ _ _ _ _ _ _ _ => c
  | .block _ c _ => c
  | .roster _ c _ => c
  | .replay _ c _ _ _ => c
  | .device c _ _ _ _ _ _ _ => c
  | .leap c _ => c
  | .yielded c => c

def lowestCsn (l : List SkimRecord) : Nat :=
  match l with
  | [] => 0
  | r :: l => l.foldl (fun a x => min a (recordCsn x)) (recordCsn r)

/-- The open epoch's skim goes out, and the next epoch opens; a mirror mode that was written comes into force (R27). -/
def closeEpoch (s : State) : State :=
  let l := lastCounters s.par.records
  let k : Skim := { epoch := s.par.epoch, low := lowestCsn l, csn := s.csn, records := l, role := BitVec.ofNat 3 s.par.role.code,
                    flags := s.healthFlags }
  let s := if s.linked then sent (s.emit (.skim k)) else s
  { s with par := { s.par with
    unacked := if s.par.role = .solo then [] else s.par.unacked ++ [(s.par.epoch, s.csn)],
    lastEpoch := s.par.epoch, epoch := s.par.epoch + 1, records := [], relaxedInForce := s.par.relaxed } }

/-- MIRROR_EPOCH_CLOSE (R414). -/
def mirrorEpochClose (s : State) : State := if s.mirrors && s.par.yieldStep ≠ 2 then closeEpoch s else s

def execMirrorEpochClose (s : State) : Host.Outcome State Fault Refusal := .next (mirrorEpochClose s)

/-- What the last frame of the peer said (R427). -/
def peerSays (role : BitVec 3) (flags : Byte) (s : State) : State :=
  { s with par := { s.par with peerRole := role, peerFlags := flags, peerFrames := s.par.peerFrames + 1 } }

/-- The end of a commanded hand-over (R422 step 6). -/
def yieldDone (s : State) : State :=
  let s := toReleased (releaseAll s)
  raise 435 { s with par := { s.par with yielded := true } }

/-- SKIM_ACK (R415, R416, R422): releases what it completes. In SOLO an acknowledgement of a STANDBY peer brings ACTIVE back (R407). -/
def skimAck (epoch csn : Nat) (role : BitVec 3) (flags : Byte) (s : State) : State :=
  if s.par.role = .single ∨ ¬ s.linked then s
  else
    let s := peerSays role flags s
    if s.par.role = .solo then
      if role = 3 then
        roleTo .active { s with par := { s.par with standbyLost := false, resyncing := false, ackedCsn := csn, unacked := [] } }
      else s
    else if s.par.role = .active ∨ s.par.role = .yielding then
      let s := { s with par := { s.par with
        unacked := s.par.unacked.filter (fun u => decide (epoch < u.1)), ackedCsn := max s.par.ackedCsn csn, standbyLost := false,
        soloWait := false, resyncing := s.par.resyncing && role ≠ 3 } }
      if s.par.yieldStep = 2 ∧ s.par.unacked = [] then yieldDone s else releaseAll s
    else s

def execSkimAck (epoch csn : Nat) (role : BitVec 3) (flags : Byte) (s : State) : Host.Outcome State Fault Refusal :=
  .next (skimAck epoch csn role flags s)

/-- ACK_TIMEOUT (R416); a hand-over that waits for its final skim is abandoned (R422). -/
def ackTimeout (s : State) : State :=
  if s.par.unacked = [] ∨ ¬ (s.par.role = .active ∨ s.par.role = .yielding) then s
  else
    let back := s.par.yieldStep = 2
    let s := raise 429 (raise 426 { s with par := { s.par with standbyLost := true, soloWait := true } })
    if back then resumeService (roleTo .active { s with par := { s.par with yieldStep := 0 } }) else s

def execAckTimeout (s : State) : Host.Outcome State Fault Refusal := .next (ackTimeout s)

/-- SOLO_WAIT_EXPIRY (R416): held completions go out, skims stop. -/
def soloWaitExpiry (s : State) : State :=
  if !s.par.soloWait || !(s.par.role = .active) then s
  else releaseAll (raise 430 (roleTo .solo { s with par := { s.par with soloWait := false, unacked := [], records := [], resyncing := false } }))

def execSoloWaitExpiry (s : State) : Host.Outcome State Fault Refusal := .next (soloWaitExpiry s)

/-! ## Skims and resync in (R407, R414, R417, R422) -/

/-- State of a pitch by its number in a record. -/
def pitchStateOf (n : BitVec 2) : PitchState :=
  if n = 0 then .free else if n = 1 then .active else if n = 2 then .suspended else .deleting

/-- A slot applied: a write of key material sets the leap bit (R418). -/
def applySlot (n : Nat) (csn : Nat) (v : Slot) (s : State) : State :=
  let s := journal (.slot (BitVec.ofNat 18 n) v) csn (s.setSlot n v)
  if v.key = [] then s else { s with kst := { s.kst with leaped := insertNat n s.kst.leaped } }

/-- An image that the standby verified is run once its version is the minimum (R435). -/
def standbyAccept (v : BitVec 16) (s : State) : State :=
  match s.glb.staged with
  | none => s
  | some i =>
    if i.version = v ∧ ¬ s.cmc.updRunning then
      liveUpdateStart secIni 0x100
        { s with glb := { s.glb with preferB := s.spareSlot, staged := none }, cmc := { s.cmc with updImage := v } }
    else s

/-- Device configuration (R414, type 9). -/
def applyDevice (mode epoch leap cfg churn : Word) (cap : BitVec 5) (v : BitVec 16) (s : State) : State :=
  let raised := s.glb.minVersion.toNat < v.toNat
  let par := setParCfg cfg s.par
  let s := { s with
    par := { par with relaxed := mode.getLsbD 0, epochUs := epoch.extractLsb' 0 7, leapLog2 := leap.extractLsb' 0 6 },
    kst := { s.kst with churnPeriod := Rwi.of churn }, units := { s.units with lanCap := cap }, glb := { s.glb with minVersion := v } }
  let s := sealFlashes (fun f => { f with parMode := mode.getLsbD 0, parEpoch := epoch.extractLsb' 0 7, parLeap := leap.extractLsb' 0 6,
                                          parCfg := cfg, churn := churn.extractLsb' 0 2, minVersion := v }) s
  if raised then standbyAccept v s else s

/-- A change of a pitch's cache caps advances its generation (R171). -/
def recap (p kbc dkc : Nat) (s : State) : State :=
  if kbc = (s.pitch p).kbcCap ∧ dkc = (s.pitch p).dkcCap then s else bumpGen p s

/-- One record takes effect, and goes to the device's own journal. -/
def applyRecord (s : State) (r : SkimRecord) : State :=
  match r with
  | .slot n c k a g t => applySlot n.toNat c { key := k, attrs := a, gen := g, tag := t } s
  | .attrs n c a => let v : Slot := { s.slot n.toNat with attrs := a }
                    journal (.slot n v) c (s.setSlot n.toNat v)
  | .counter n c v => let s := setCounter n.toNat v.toNat s
                      journal (.counter n (s.slot n.toNat)) c s
  | .pmk p c t => journal (.pmk p t) c (s.updPitch p.toNat fun v => { v with pmk := t })
  | .contextKey p c k g => journal (.contextKey p (some k) g) c (s.updPitch p.toNat fun v => { v with ctxKey := some k, ctxGen := g })
  | .pitch p c st pers q rsv w cfg kb dk on tol =>
    let s := (recap p.toNat kb dk s).updPitch p.toNat fun v =>
      { v with state := pitchStateOf st, pers := pers, quota := q, reserve := rsv, weight := w, cfg := Rwi.of cfg, kbcCap := kb,
               dkcCap := dk, replayOn := on, replayTol := tol }
    journal (.pitch p (s.pitch p.toNat)) c s
  | .block b c o =>
    let w : BlockOwner := match o with | some p => if p = b then .home else .other p | none => .unassigned
    journal (.block b w) c { s with pit := { s.pit with blocks := s.pit.blocks.set .home b.toNat w } }
  | .roster t c r =>
    let s := if t = 0xFFFF then { s with own := { s.own with houseRoster := some r } }
             else s.updPitch t.toNat fun v => { v with roster := some r, rosterDigest := sha384 (rosterBytes r) }
    journal (.roster t (some r)) c s
  | .replay p c h o st => s.updPitch p.toNat fun v =>
      { v with replay := (v.replay.filter fun x => x.csn ≠ c) ++ [⟨h, o, st, c⟩] }
  | .device _ m e l g ch cap v => applyDevice m e l g ch cap v s
  | .leap _ l => { s with kst := { s.kst with leap := l, leaped := [] } }
  | .yielded _ => s

/-- A skim applied and acknowledged. -/
def applySkim (k : Skim) (s : State) : State :=
  let s := k.records.foldl applyRecord s
  let s := { s with csn := max s.csn k.csn,
                    par := { s.par with lastEpoch := k.epoch, ackedCsn := max s.csn k.csn,
                                        lastYield := k.records.any fun r => match r with | .yielded _ => true | _ => false } }
  sent (s.emit (.ack k.epoch s.csn s.healthFlags))

/-- A frame that fails its tag is discarded and counted (R405); more than 16 in a second are an error (R427). -/
def tagFailed (s : State) : State :=
  let s := raise 433 { s with par := { s.par with tagFailures := s.par.tagFailures + 1 } }
  if 16 < s.par.tagFailures then parErr 5 s else s

/-- SYNCING ends with the first skim applied after the resync (R407). -/
def toStandby (s : State) : State := raise 431 (roleTo .standby s)

/-- A released device that yielded applies its peer's leap and is STANDBY without a resync (R422). -/
def skimLeaps (k : Skim) : Bool := k.records.any fun r => match r with | .leap _ _ => true | _ => false

/-- SKIM_RECEIVE (R407, R414). -/
def skimReceive (k : Skim) (s : State) : State :=
  if s.par.role = .single ∨ ¬ s.linked then s
  else if !k.tagOk then tagFailed s
  else
    let s := peerSays k.role k.flags s
    match s.par.role with
    | .standby => if k.epoch = s.par.lastEpoch + 1 then applySkim k s else roleTo .syncing s
    | .syncing =>
      if s.par.resyncing then { s with par := { s.par with skimQueue := s.par.skimQueue ++ [k] } }
      else if s.par.loadedSync then toStandby (applySkim k { s with par := { s.par with loadedSync := false } })
      else s
    | .released =>
      if s.par.yielded ∧ skimLeaps k then roleTo .standby (applySkim k { s with par := { s.par with yielded := false } }) else s
    | _ => s

def execSkimReceive (k : Skim) (s : State) : Host.Outcome State Fault Refusal := .next (skimReceive k s)

/-- State that a resync replaces (R417): slots, pitch configuration, PMKs, context keys, rosters, replay filters, block owners. Windows,
bindings, rings and counters stay. -/
def clearMirrored (s : State) : State :=
  { s with
    kst := { s.kst with slots := [], leap := 0, leaped := [], journal := [], writing := [],
                        flash0 := { s.kst.flash0 with
                          records := s.kst.flash0.records.filter fun r => match r.what with | .bond _ => true | _ => false },
                        flash1 := { s.kst.flash1 with
                          records := s.kst.flash1.records.filter fun r => match r.what with | .bond _ => true | _ => false } },
    pit := { s.pit with blocks := [], pitches := s.pit.pitches.mapv {} fun _ v =>
      { v with state := .free, pers := 0, cfg := {}, quota := 0, reserve := 0, weight := 0, kbcCap := 0, dkcCap := 0, roster := none,
               rosterDigest := [], pmk := [none, none, none, none], ctxKey := none, ctxGen := 0, replay := [], replayOn := false,
               replayTol := 0 } },
    caches := { s.caches with kbc := [], dkc := [] } }

/-- RESYNC_RECEIVE (R407, R417): the resync first, then the skims that came beside it. With the erase latch set none is taken. -/
def resyncReceive (l : List SkimRecord) (last : Bool) (s : State) : State :=
  if s.bat.latch || !s.linked || !(s.par.role = .waiting || s.par.role = .released || s.par.role = .syncing) then s
  else
    let s := if s.par.role = .syncing then s else roleTo .syncing { s with par := { s.par with takeStep := 0, yielded := false } }
    let s := if s.par.resyncing then s
             else clearMirrored { s with par := { s.par with resyncing := true, skimQueue := [], loadedSync := false } }
    let s := peerSays 4 s.par.peerFlags (l.foldl applyRecord s)
    if !last then s
    else
      let q := s.par.skimQueue
      let s := { s with par := { s.par with resyncing := false, skimQueue := [], loadedSync := true } }
      let s := { s with csn := l.foldl (fun a r => max a (recordCsn r)) s.csn }
      q.foldl (fun s k => skimReceive k s) s

def execResyncReceive (records : List SkimRecord) (last : Bool) (s : State) : Host.Outcome State Fault Refusal :=
  .next (resyncReceive records last s)

/-! ## The commanded hand-over (R422, R428) -/

/-- An admitted command that has not been dispatched. -/
def Entry.undispatched (x : Entry) : Bool :=
  x.phase = .queued || (x.phase = .admitted && x.ctx.isNone && x.walker.isNone && x.captured.isNone && x.csn.isNone)

def abortUndispatched (s : State) : State :=
  s.sch.entries.foldl (fun s e => match e.2 with
    | some x => if x.undispatched then abortEntry stAbortSwitchover e.1 s else s
    | none => s) s

/-- YIELD: steps 1 to 3. -/
def yieldStart (who : Who) (v : Word) (s : State) : State :=
  if !s.isOwner who || !v.getLsbD 0 then s
  else if s.par.role ≠ .active ∨ s.par.peerRole ≠ 3 ∨ s.par.unacked ≠ [] then { s with par := { s.par with yieldRefused := true } }
  else
    let s := roleTo .yielding { s with par := { s.par with yieldStep := 1 } }
    let s := { s with units := { s.units with pke := s.units.pke.mapv {} fun _ u => unitStop u,
                                              ltc := s.units.ltc.mapv {} fun _ u => unitStop u, reqs := [] } }
    abortUndispatched s

def execYield (who : Who) (v : Word) (s : State) : Host.Outcome State Fault Refusal := .next (fromHost who (yieldStart who v) s)

/-- YIELD_DRAIN_EXPIRY: steps 4 and 5. -/
def yieldDrainExpiry (s : State) : State :=
  if s.par.yieldStep ≠ 1 ∨ s.par.role ≠ .yielding then s
  else
    let s := abortAll stAbortSwitchover s
    let s := closeEpoch { s with par := { s.par with records := s.par.records ++ [.yielded s.csn] } }
    { s with par := { s.par with yieldStep := 2 } }

def execYieldDrainExpiry (s : State) : Host.Outcome State Fault Refusal := .next (yieldDrainExpiry s)

/-! ## Images (R435) -/

/-- PAIR_IMAGE_RECEIVE: a standby stores the image in its slot that is not running and verifies it itself. -/
def pairImageReceive (i : Image) (s : State) : State :=
  if !s.linked || !(s.par.role = .standby || s.par.role = .syncing) then s
  else
    let s := putImage s.spareSlot i s
    { s with glb := { s.glb with staged := if imageOk i then some i else none } }

def execPairImageReceive (img : Image) (s : State) : Host.Outcome State Fault Refusal := .next (pairImageReceive img s)

/-! ## Registers of the pair (R419, R427) -/

/-- The window that the leap must exceed, in µs. -/
def State.leapWindow (s : State) : Nat := 50 * s.par.ackTimeout.toNat + 1000 * s.par.soloMs.toNat + 2 * s.par.epochUs.toNat

/-- L = 2^log2 exceeds 2,000,000 times the window of R419. -/
def State.leapLarge (s : State) (log2 : Nat) : Bool := decide (2 * s.leapWindow < 2 ^ log2)

/-- A change of the four pair registers goes to the sealed store and the skim. -/
def sealPar (s : State) : State :=
  mirrorDevice (sealFlashes (fun f => { f with parMode := s.par.relaxed, parEpoch := s.par.epochUs, parLeap := s.par.leapLog2,
                                               parCfg := s.parCfgWord }) s)

def fieldIn (v : Word) (lo n a b : Nat) (old : Nat) : Nat :=
  let x := v.toNat / 2 ^ lo % 2 ^ n
  if a ≤ x ∧ x ≤ b then x else old

/-- A write of PAR_MODE, PAR_EPOCH, PAR_LEAP or PAR_CFG by the security controller: a field outside its range keeps its value. -/
def parWrite (off : Nat) (v : Word) (s : State) : State :=
  if s.par.role = .standby then parErr 1 s
  else match off with
    | 0x004 => sealPar { s with par := { s.par with relaxed := v.getLsbD 0 } }
    | 0x008 => sealPar { s with par := { s.par with epochUs := BitVec.ofNat 7 (fieldIn v 0 7 5 100 s.par.epochUs.toNat) } }
    | 0x00C =>
      let l := v.toNat % 64
      if l < 16 ∨ 32 < l then s
      else if s.leapLarge l then sealPar { s with par := { s.par with leapLog2 := BitVec.ofNat 6 l } } else parErr 2 s
    | 0x010 => sealPar { s with par := { s.par with
        ackTimeout := BitVec.ofNat 5 (fieldIn v 0 5 1 20 s.par.ackTimeout.toNat), soloMs := BitVec.ofNat 4 (fieldIn v 5 4 1 10 s.par.soloMs.toNat),
        degradedOk := v.getLsbD 9, fence := v.getLsbD 10, drainUs := BitVec.ofNat 10 (fieldIn v 12 10 10 1000 s.par.drainUs.toNat) } }
    | _ => s

end Sys2Proof.Machine
end

