-- ==== Sys2Proof/Machine/Spdm.lean ====
section
/-! DEFINITION. Attestation (R72, R375, R376, R397): SPDM over DOE on the PF of each port, and ATTEST. Request order, response codes and
error codes are those of DSP0274, presumed (log entry 26). -/

namespace Sys2Proof.Machine

/-! ## Evidence (R397) -/

/-- The header entry of a recipe, with the digest of its body (R135), as the digest of a set covers it. -/
def recipeBytes (r : Recipe) : Bytes :=
  toLE 2 r.opcode.toNat ++ [r.personality.setWidth 8] ++ toLE 2 r.steps ++ toLE 2 r.budget
    ++ padTo 48 r.digest

def ownerSlotBytes (x : OwnerSlot) : Bytes := BitVec.ofNat 8 (bit x.burned 0 + bit x.revoked 1) :: padTo 48 x.hash

def imageItem (i : Option Image) : Bytes :=
  match i with
  | some i => padTo 48 i.digest ++ toLE 2 i.version.toNat
  | none => zeros 50

/-- The items of R397 in its order; in RETURNED the lifecycle state only (R375). -/
def State.evidence (s : State) : Bytes :=
  if s.lcsState = 4 then [4]
  else
    let f := s.lcs.fuses
    let b := s.activeBank
    [BitVec.ofNat 8 s.lcsState, f.lcsT.setWidth 8, f.lcsC.setWidth 8] ++ ownerSlotBytes f.owner0 ++ ownerSlotBytes f.owner1
      ++ imageItem s.glb.slotA0 ++ imageItem s.glb.slotB0 ++ sha384 (b.recipes.flatMap recipeBytes) ++ toLE 2 b.version.toNat
      ++ toLE 6 s.tmp.disabled.toNat ++ toLE 2 s.tmp.encCfg.val.toNat ++ [s.tmp.emeshCfg.val.setWidth 8] ++ toLE 12 s.classBits.toNat
      ++ toLE 4 s.glbStatus.toNat ++ toLE 4 s.eraseStatus.toNat

/-- Evidence and the identity signatures over it and what the requester sent; none without identity keys. -/
def attest (h : ZHdr) (s : State) : State :=
  let e := s.evidence
  if s.kst.identity then
    let (a, b, s) := identitySigns (e ++ h.body) s
    zreply 0x0002 h 0 (e ++ a ++ b) s
  else zreply 0x0002 h 0 e s

/-- ATTEST (R386, R387, R397). -/
def execAttest (h : ZHdr) (s : State) : Host.Outcome State Fault Refusal := .next (zmessage 0x0002 h true false (attest h) s)

/-! ## SPDM (R72, R376) -/

def spdmError (port : Port) (code : Byte) (s : State) : State := s.emit (.spdm port 0x7F [code])

/-- A response; the transcript of the connection goes on with it (log entry 26). -/
def spdmReply (port : Port) (code : Nat) (b : Bytes) (s : State) : State :=
  (s.updPort port fun x => { x with keys := { x.keys with transcript := x.keys.transcript ++ BitVec.ofNat 8 code :: b } }).emit
    (.spdm port code b)

/-! Key schedule of DSP0274: HMAC and HKDF-Expand over SHA-384. -/

def hmac384 (key m : Bytes) : Bytes := keyedHash 0x12 key m 48 []

/-- One output of 48 bytes under a label. -/
def spdmExpand (secret : Bytes) (label : String) (context : Bytes) : Bytes :=
  hmac384 secret (toLE 2 48 ++ ascii "spdm1.2 " ++ ascii label ++ context ++ [1])

/-- Verify data of a direction over the transcript. -/
def verifyData (secret transcript : Bytes) : Bytes := hmac384 (spdmExpand secret "finished" []) (sha384 transcript)

/-- Handshake secrets of both directions from the DHE secret. -/
def handshakeKeys (z transcript : Bytes) : SpdmKeys :=
  let h := hmac384 (zeros 48) z
  { transcript := transcript, handshake := h, req := spdmExpand h "req hs data" (sha384 transcript),
    rsp := spdmExpand h "rsp hs data" (sha384 transcript) }

/-- Application secrets once the requester's verify data holds. -/
def SpdmKeys.secured (k : SpdmKeys) (verify : Bytes) : SpdmKeys :=
  let master := hmac384 (spdmExpand k.handshake "derived" []) (zeros 48)
  let t := k.transcript ++ verify
  { transcript := t, handshake := [], req := spdmExpand master "req app data" (sha384 t), rsp := spdmExpand master "rsp app data" (sha384 t) }

/-- A key update of the requester's direction, or of both. -/
def SpdmKeys.updated (k : SpdmKeys) (all : Bool) : SpdmKeys :=
  { k with req := spdmExpand k.req "traffic upd" [], rsp := if all then spdmExpand k.rsp "traffic upd" [] else k.rsp }

/-- A DOE request: the port answers configuration requests, and the link is up. -/
def spdmRequest (port : Port) (f : State → State) (s : State) : State :=
  if (s.portState port).dlDown then s
  else if (s.portState port).retry then s.emit (.cfgRetry port)
  else f s

/-- A request that needs the negotiation to have come to `n`. -/
def spdmAfter (port : Port) (n : Nat) (f : State → State) (s : State) : State :=
  spdmRequest port (fun s => if n ≤ (s.portState port).spdm then f s else spdmError port 4 s) s

/-- Identity requests are unsupported in RETURNED and SCRAPPED (R376). -/
def spdmIdentity (port : Port) (f : State → State) (s : State) : State :=
  spdmRequest port (fun s => if s.lcsState = 4 ∨ s.lcsState = 5 then spdmError port 7 s
    else if 3 ≤ (s.portState port).spdm then f s else spdmError port 4 s) s

/-- A session request. -/
def spdmSession (port : Port) (n : Nat) (f : State → State) (s : State) : State :=
  spdmRequest port (fun s => if (s.portState port).session = n then f s else spdmError port 4 s) s

/-- GET_VERSION: 1.2 and 1.3; the connection starts anew. -/
def execGetVersion (port : Port) (s : State) : Host.Outcome State Fault Refusal :=
  .next (spdmRequest port (fun s =>
    spdmReply port 0x04 [0, 0x12, 0, 0x13]
      (s.updPort port fun x => { x with spdm := 1, session := 0, sessionKeyUpdates := 0, keys := {} })) s)

/-- GET_CAPABILITIES: certificates, challenge, signed measurements, key exchange, encryption, heartbeat, key update; no mutual
authentication and no pre-shared keys. -/
def execGetCapabilities (port : Port) (s : State) : Host.Outcome State Fault Refusal :=
  .next (spdmAfter port 1 (fun s =>
    spdmReply port 0x61 (toLE 4 0x62D6) (s.updPort port fun x => { x with spdm := max x.spdm 2 })) s)

/-- NEGOTIATE_ALGORITHMS: one set is offered, and a requester that does not offer it is refused. -/
def execNegotiateAlgorithms (port : Port) (offered : Bool) (s : State) : Host.Outcome State Fault Refusal :=
  .next (spdmAfter port 2 (fun s =>
    if offered then spdmReply port 0x63 (ascii "P384-SHA384-AES256GCM") (s.updPort port fun x => { x with spdm := 3 })
    else spdmError port 1 s) s)

/-- GET_DIGESTS. -/
def execGetDigests (port : Port) (s : State) : Host.Outcome State Fault Refusal :=
  .next (spdmAfter port 3 (spdmReply port 0x01 (sha384 Config.certChain)) s)

/-- GET_CERTIFICATE: slot 0 holds the vendor chain. -/
def execGetCertificate (port : Port) (slot : BitVec 4) (s : State) : Host.Outcome State Fault Refusal :=
  .next (spdmIdentity port (fun s => if slot = 0 then spdmReply port 0x02 Config.certChain s else spdmError port 1 s) s)

/-- A signature of the P-384 identity key over the transcript and what follows it. -/
def transcriptSign (port : Port) (m : Bytes) (s : State) : Bytes × State :=
  let (r, s) := draw9 56 s
  ((pkSign 0x02 2 [] identityP384 (sha384 ((s.portState port).keys.transcript ++ m)) r).getD [], s)

/-- CHALLENGE. -/
def challenge (port : Port) (nonce : Bytes) (s : State) : State :=
  let (n, s) := draw9 32 s
  let m := sha384 Config.certChain ++ n ++ sha384 s.evidence
  let (sig, s) := transcriptSign port (nonce ++ m) s
  spdmReply port 0x03 (m ++ sig) s

def execChallenge (port : Port) (nonce : Bytes) (s : State) : Host.Outcome State Fault Refusal :=
  .next (spdmIdentity port (challenge port nonce) s)

/-- GET_MEASUREMENTS: the blocks of R397; signed where the requester asks for it, which takes an identity key (R376). -/
def measurements (port : Port) (signed : Bool) (nonce : Bytes) (s : State) : State :=
  if !signed then spdmReply port 0x60 s.evidence s
  else if !s.kst.identity then spdmError port 7 s
  else
    let (n, s) := draw9 32 s
    let m := s.evidence ++ n
    let (sig, s) := transcriptSign port (nonce ++ m) s
    spdmReply port 0x60 (m ++ sig) s

def execGetMeasurements (port : Port) (s : State) (signed : Bool := false) (nonce : Bytes := []) :
    Host.Outcome State Fault Refusal :=
  .next (spdmAfter port 3 (measurements port signed nonce) s)

/-- KEY_EXCHANGE: a handshake begins with the DHE secret of the requester's point (x then y) and a fresh one. -/
def keyExchange (port : Port) (exchange : Bytes) (s : State) : State :=
  match (curve 2).decode (4 :: exchange) with
  | none => spdmError port 1 s
  | some _ =>
    let (k, s) := draw9 56 s
    let d := (curve 2).scalar k
    let point := ((curve 2).encode ((curve 2).mul d (curve 2).base)).drop 1
    let (sig, s) := transcriptSign port (exchange ++ point) s
    let h := handshakeKeys ((curve 2).dh d (4 :: exchange)) ((s.portState port).keys.transcript ++ exchange ++ point ++ sig)
    spdmReply port 0x64 (point ++ sig ++ verifyData h.rsp h.transcript)
      (s.updPort port fun x => { x with session := 1, sessionKeyUpdates := 0, keys := h })

def execKeyExchange (port : Port) (exchange : Bytes) (s : State) : Host.Outcome State Fault Refusal :=
  .next (spdmIdentity port (keyExchange port exchange) s)

/-- The SPDM event of a port (R470). -/
def spdmEvent (port : Port) (s : State) : State := raise (pcieBase port + 12) s

/-- FINISH: the session is secured; verify data that does not hold ends the handshake. -/
def spdmFinish (port : Port) (verify : Bytes) (s : State) : State :=
  let k := (s.portState port).keys
  if verify = verifyData k.req k.transcript then
    spdmEvent port (spdmReply port 0x65 [] (s.updPort port fun x => { x with session := 2, keys := k.secured verify }))
  else spdmError port 6 (s.updPort port fun x => { x with session := 0, keys := {} })

def execFinish (port : Port) (verify : Bytes) (s : State) : Host.Outcome State Fault Refusal :=
  .next (spdmSession port 1 (spdmFinish port verify) s)

/-- HEARTBEAT. -/
def execHeartbeat (port : Port) (s : State) : Host.Outcome State Fault Refusal :=
  .next (spdmSession port 2 (fun s => s.emit (.spdm port 0x68 [])) s)

/-- KEY_UPDATE. -/
def execKeyUpdate (port : Port) (s : State) (all : Bool := false) : Host.Outcome State Fault Refusal :=
  .next (spdmSession port 2 (fun s =>
    (s.updPort port fun x => { x with sessionKeyUpdates := x.sessionKeyUpdates + 1, keys := x.keys.updated all }).emit (.spdm port 0x69 [])) s)

/-- END_SESSION. -/
def execEndSession (port : Port) (s : State) : Host.Outcome State Fault Refusal :=
  .next (spdmSession port 2 (fun s =>
    spdmEvent port ((s.updPort port fun x => { x with session := 0, sessionKeyUpdates := 0, keys := {} }).emit (.spdm port 0x6C []))) s)

end Sys2Proof.Machine
end

