-- ==== Sys2Proof/Machine/RegRead.lean ====
section
/-! DEFINITION. What a read of each register gives (R6, R31): block by block, in the order of the register map. A register that is
reserved or write only reads 0. -/

namespace Sys2Proof.Machine

/-- Bits `n` wide of a number from bit `lo`. -/
def part (v lo n : Nat) : Nat := v / 2 ^ lo % 2 ^ n

/-- The committed value of an RWI register, or the stored inverse at its companion (R8). -/
def State.readRwi (s : State) (who : Who) (off : Nat) : Option Word :=
  match s.rwiReg who off with
  | some r => some (s.rwiGet r).val
  | none => if off < 4 then none else (s.rwiReg who (off - 4)).map fun r => (s.rwiGet r).inv

/-! ## GLB, OWN, RQE, PIT -/

/-- GLB (R428, R455, R480). A ball driven as an output samples the level that drives it. -/
def State.readGlb (s : State) (o : Nat) : Nat :=
  match o with
  | 0x000 => s.glbStatus.toNat
  | 0x004 => s.bat.ladder.toNat * 2 ^ 29 + bit s.glb.image 28 + s.bat.failedStep.toNat * 2 ^ 24 + s.bat.failures.toNat
  | 0x040 => bit s.par.takeoverFlag 31 + bit s.par.yieldRefused 30 + bit s.par.relaxedInForce 29 + bit s.par.standbyLost 28 + s.par.role.code
  | 0x080 => s.glb.gpioDir.toNat
  | 0x084 => s.glb.gpioOut.toNat
  | 0x088 => ((s.glb.gpioIn &&& ~~~s.glb.gpioDir) ||| (s.glb.gpioOut &&& s.glb.gpioDir)).toNat
  | _ => 0

def whoIni : Who → BitVec 6
  | .ini n => n
  | .vf _ _ => 0

/-- OWN (R400), without the mailbox apertures. -/
def State.readOwn (s : State) (who : Who) (o : Nat) : Nat :=
  let c := s.candidate (whoIni who)
  if 0x010 ≤ o ∧ o < 0x030 then fieldLE c.nonce (o - 0x010) 4
  else if 0x100 ≤ o ∧ o < 0x300 then leNat ((List.range 4).map fun i => c.claim.get 0 (o - 0x100 + i))
  else match o with
    | 0x000 => s.own.state.toNat * 2 ^ 30 + bit (s.box 0).compat 29 + s.own.target.toNat * 2 ^ 16 + s.own.owner.toNat * 2 ^ 8 + s.own.epoch.toNat
    | 0x008 => c.status.toNat * 2 ^ 30 + c.code.toNat
    | 0x00C => s.own.written.toNat
    | _ => 0

def SqState.code : SqState → Nat
  | .free => 0
  | .active => 1
  | .error => 2
  | .draining => 3

def CqState.code : CqState → Nat
  | .free => 0
  | .active => 1
  | .orphan => 4

/-- A VF sees the rings of the pitches that are bound to it (R75, R108). -/
def State.seesRing (s : State) (who : Who) (p : Nat) : Bool :=
  match who with
  | .vf port fn => s.bound p port fn
  | .ini _ => true

/-- RQE_RING_STATUS of the selected ring (R108). -/
def State.ringStatus (s : State) (who : Who) : Nat :=
  match whoFn who with
  | none => 0
  | some _ =>
    let x := s.rqeSel who
    let p := x.pitch.toNat
    if !s.seesRing who p then 0
    else if x.cq then
      let q := s.cq p
      q.state.code * 2 ^ 29 + q.lastEvent.toNat * 2 ^ 24 + Port.num q.port * 2 ^ 16 + q.index
    else
      let i := x.sqIndex.toNat
      let q := s.sq p i
      q.state.code * 2 ^ 29 + bit (s.headSource p = some i) 28 + q.lastEvent.toNat * 2 ^ 24 + Port.num q.port * 2 ^ 16 + q.head.toNat

/-- RQE_BIND: the functions as written, each with its valid bit (R108). -/
def Pitch.bindWord (v : Pitch) : Nat :=
  bit v.bindB.isSome 31 + v.fnB.toNat * 2 ^ 16 + bit v.bindA.isSome 15 + v.fnA.toNat

/-- Registers of the owner in the RQE block read 0 in a VF window (R108). -/
def rqeHidden (who : Who) (o : Nat) : Bool :=
  match who with
  | .vf _ _ => o = 0x004 || (decide (0x00C ≤ o) && decide (o ≤ 0x01C))
  | .ini _ => false

/-- RQE (R108). -/
def State.readRqe (s : State) (who : Who) (o : Nat) : Nat :=
  let x := s.rqeSel who
  let f := fun k : Port → BitVec 7 → Nat => match whoFn who with | some (port, fn) => k port fn | none => 0
  if rqeHidden who o then 0
  else if 0x080 ≤ o ∧ o < 0x0A0 then f fun port fn => ((s.fn port fn).drops.getD ((o - 0x080) / 4) 0).toNat
  else match o with
    | 0x004 => s.rqe.periodB.toNat * 2 ^ 16 + s.rqe.periodA.toNat
    | 0x008 => f fun port _ => (s.portState port).stretched.toNat * 2 ^ 16 + (s.portState port).lastLines.toNat
    | 0x00C => s.rqe.orphanMs.toNat
    | 0x010 => x.bindSel.toNat
    | 0x014 => (s.pitch x.bindSel.toNat).bindWord
    | 0x018 => x.fnSel.toNat
    | 0x01C => (s.fn (Port.ofBit (x.fnSel.getLsbD 7)) (x.fnSel.extractLsb' 0 7)).maxSq
    | 0x040 => x.sqIndex.toNat * 2 ^ 17 + bit x.cq 16 + x.pitch.toNat
    | 0x044 => part x.base.toNat 0 32
    | 0x048 => part x.base.toNat 32 32
    | 0x04C => part x.db.toNat 0 32
    | 0x050 => part x.db.toNat 32 32
    | 0x054 => bit x.pin 6 + bit x.busyRefuse 5 + x.log2.toNat
    | 0x058 => x.coalTime.toNat * 2 ^ 24 + x.coalCount.toNat * 2 ^ 16 + x.vector.toNat
    | 0x060 => s.ringStatus who
    | 0x064 => bit x.errValid 31 + x.errCode.toNat
    | _ => 0

/-- Commands of a pitch admitted under earlier window sets (R51). -/
def State.priorInFlight (s : State) (p : Nat) : Nat :=
  (s.sch.entries.filter fun e => match e.2 with
    | some x => x.pitch.toNat = p && x.winSet ≠ (s.pitch p).winSet
    | none => false).length

/-- PIT (R63), the RWI registers apart. -/
def State.readPit (s : State) (who : Who) (o : Nat) : Nat :=
  let x := s.pitSel who
  let v := s.pitch x.pitch.toNat
  let w := (padWindows v.staged).getD x.win.toNat {}
  match o with
  | 0x000 => x.pitch.toNat
  | 0x004 => v.state.code * 2 ^ 30 + v.pers.toNat * 2 ^ 28 + v.inFlight
  | 0x010 => v.quota
  | 0x014 => v.reserve
  | 0x018 => v.weight
  | 0x01C => v.dkcCap * 2 ^ 16 + v.kbcCap
  | 0x024 => bit x.errValid 31 + x.errCode.toNat
  | 0x040 => x.win.toNat
  | 0x044 => part w.base.toNat 0 32
  | 0x048 => part w.base.toNat 32 32
  | 0x04C => w.pages.toNat
  | 0x050 => bit w.portB 3 + bit w.portA 2 + bit w.write 1 + bit w.read 0
  | 0x058 => s.priorInFlight x.pitch.toNat
  | 0x080 => x.blk.toNat
  | 0x084 => match s.blockOwner x.blk.toNat with | some p => p | none => 2 ^ 12
  | 0x088 => s.blockUsed x.blk.toNat
  | _ => 0

/-! ## SCH, CMC, DMA, MBX, MPU -/

/-- SCH (R326); SCH_CORE_BUSY apart. -/
def State.readSch (s : State) (who : Who) (o : Nat) : Nat :=
  let x := s.selOf who
  let q := x.schQ.toNat
  let p := x.schPitch.toNat
  if 0x020 ≤ o ∧ o < 0x040 then (s.sch.hist.get 0 (8 * q + (o - 0x020) / 4)).toNat
  else match o with
    | 0x000 => s.sch.timeoutUs.toNat
    | 0x004 => s.sch.ageMs.toNat
    | 0x008 => s.sch.entries.length
    | 0x00C => s.sharedInUse
    | 0x010 => q
    | 0x014 => min ((s.queue q).cmds.map s.pitchOf).eraseDups.length 4095 * 2 ^ 18 + (s.queue q).cmds.length
    | 0x044 => x.schCore.toNat
    | 0x04C => p
    | 0x050 => ((List.range 32).map fun k => (s.inQueue k p).length).sum
    | 0x054 => (s.pitch p).schDisp.toNat
    | _ => 0

def CoreState.code : CoreState → Nat
  | .off => 0
  | .loading => 1
  | .idle => 2
  | .busy => 3
  | .draining => 4
  | .failed => 5

/-- Registers local to a core (R319, R330). -/
def State.readCoreLocal (s : State) (c o : Nat) : Nat :=
  let k := s.core c
  if 0x1000 ≤ o ∧ o < 0x1080 then
    match k.entry.bind s.entry with | some x => fieldLE x.sqe (o - 0x1000) 4 | none => 0
  else if 0x1080 ≤ o ∧ o < 0x1400 then (k.scratch.get 0 ((o - 0x1000) / 4)).toNat
  else match o with
    | 0x404 => k.hrdOff.toNat
    | 0x408 => k.hrdLen.toNat
    | 0x40C => part k.hrdDst.toNat 0 32
    | 0x410 => part k.hrdDst.toNat 32 8
    | 0x414 => k.hrdStatus.toNat * 2
    | 0x418 => part k.resSrc.toNat 0 32
    | 0x41C => part k.resSrc.toNat 32 8
    | 0x420 => k.resLen.toNat
    | 0x424 => part k.inline.toNat 0 32
    | 0x428 => part k.inline.toNat 32 32
    | _ => 0

/-- CMC (R145, R319, R330). -/
def State.readCmc (s : State) (who : Who) (o : Nat) : Nat :=
  let c := (s.selOf who).cmcCore.toNat
  let k := s.core c
  if (0x400 ≤ o ∧ o < 0x430) ∨ (0x1000 ≤ o ∧ o < 0x1400) then
    match whoCore who with | some c => s.readCoreLocal c o | none => 0
  else match o with
    | 0x000 => c
    | 0x004 => k.mask.toNat
    | 0x00C => k.state.code * 2 ^ 29 + bit k.blocked 28 + k.fw.toNat * 2 ^ 12
        + (if k.state = .busy then (match k.entry.bind s.entry with | some x => x.pitch.toNat | none => 0) else 0)
    | 0x010 => bit s.cmc.updDone 31 + bit s.cmc.updFailed 30 + bit s.cmc.updRunning 29 + s.cmc.updCore.toNat
    | 0x014 => bit s.cmc.errValid 31 + s.cmc.errCode.toNat
    | 0x800 => bit s.switching 31 + bit s.cmc.activeBank 24 + s.activeBank.version.toNat
    | 0x804 => s.activeBank.recipes.length * 2 ^ 16 + (s.activeBank.recipes.map (·.steps)).sum
    | 0x808 => min s.ctxWaiting 65535 * 2 ^ 16 + s.ctxHeld
    | 0x80C => bit s.cmc.twinValid 31 + s.cmc.twinB.toNat * 2 ^ 23 + s.cmc.twinA.toNat * 2 ^ 16 + s.cmc.twinCount.toNat
    | _ => 0

/-- DMA (R340). -/
def State.readDma (s : State) (who : Who) (o : Nat) : Nat :=
  if 0x100 ≤ o ∧ o < 0x900 then
    let c := s.chan ((o - 0x100) / 0x20)
    match (o - 0x100) % 0x20 with
    | 0x00 => part c.desc.toNat 0 32
    | 0x04 => part c.desc.toNat 32 8
    | 0x08 => c.retries.toNat * 2 ^ 8 + bit c.abortMode 4 + c.priority.toNat
    | 0x10 => c.state.toNat * 2 ^ 29 + c.code.toNat * 2 ^ 24 + c.completed.toNat
    | 0x14 => c.residue.toNat
    | 0x18 => part c.cur.toNat 0 32
    | 0x1C => part c.cur.toNat 32 8
    | _ => 0
  else match o with
    | 0x000 => ((s.dma.map fun e => e.2.buffer.length).sum + 1023) / 1024 * 2 ^ 8 + (s.dma.filter fun e => chanRunning e.2).length
    | 0x004 => bit (s.selOf who).dmaErrValid 31 + (s.selOf who).dmaErrCode.toNat
    | _ => 0

/-- A mailbox (R346); MBX_LOCK apart. Message words are shown to the two sides (R343). -/
def State.readMbx (s : State) (who : Who) (m o : Nat) : Nat :=
  let b := s.box m
  let e := s.mbxErr.get {} (mbxErrKey who m)
  if 0x100 ≤ o ∧ o < 0x200 then (if s.isSide m who then (b.msg.get 0 ((o - 0x100) / 4)).toNat else 0)
  else match o with
    | 0x004 => b.db.toNat
    | 0x008 => b.db.toNat
    | 0x00C => b.mask.toNat
    | 0x010 => bit b.ackValid 31 + b.ack.toNat
    | 0x014 => bit b.compat 16 + b.sideB.toNat * 2 ^ 8 + b.sideA.toNat
    | 0x018 => bit b.turn 1 + bit (b.owner ≠ 0) 0
    | 0x020 => bit e.valid 31 + e.code.toNat
    | _ => 0

/-- MPU (R68), the RWI register apart. -/
def State.readMpu (s : State) (o : Nat) : Nat :=
  let m := s.mpu
  let r := s.region s.mpuKey
  match o with
  | 0x000 => m.selIni.toNat * 2 ^ 8 + m.selRgn.toNat
  | 0x004 => part r.base.toNat 0 32
  | 0x008 => part r.base.toNat 32 8
  | 0x00C => part r.limit.toNat 0 32
  | 0x010 => part r.limit.toNat 32 8
  | 0x01C => s.barrierWord.toNat
  | 0x020 => bit m.faultValid 31 + m.faultMore.toNat * 2 ^ 20 + m.faultCause.toNat * 2 ^ 16 + m.faultIni.toNat * 2 ^ 8
      + m.faultPriv.toNat * 2 ^ 3 + m.faultType.toNat
  | 0x024 => part m.faultAddr.toNat 0 32
  | 0x028 => part m.faultAddr.toNat 32 8
  | 0x02C => bit m.errValid 31 + m.errCode.toNat
  | _ => 0

/-! ## KST, KBC, DKC, LAN, HSH, PKE, LTC, ENT -/

/-- KST (R314), the RWI registers apart. -/
def State.readKst (s : State) (who : Who) (o : Nat) : Nat :=
  let n := (s.selOf who).kstSlot.toNat
  let v := s.shownSlot n
  let head := attrKind v.attrs = 1
  match o with
  | 0x000 => s.kst.epoch.toNat
  | 0x00C => bit s.kst.lagging 31 + bit s.churnPaused 30 + s.kst.boundary
  | 0x010 => s.eraseStatus.toNat
  | 0x01C => n
  | 0x020 => attrKind v.attrs * 2 ^ 30
      + (if head then part v.attrs.toNat 72 6 * 2 ^ 24 + part v.attrs.toNat 48 5 * 2 ^ 19 + part v.attrs.toNat 53 3 * 2 ^ 16 else 0)
      + attrOwner v.attrs
  | 0x024 => v.gen.toNat
  | 0x028 => s.kst.corrected.toNat * 2 ^ 16 + s.kst.restored.toNat * 2 ^ 8 + s.kst.tagFail.toNat
  | 0x02C => min 16 s.journalPending
  | 0x030 => part s.kst.lastCsn 0 32
  | 0x034 => part s.kst.lastCsn 32 32
  | _ => 0

/-- Valid entries of all pitches, counted as those of one pitch are (R172, R233; log entry 102). -/
def State.kbcAll (s : State) : Nat := (s.caches.kbc.filter fun e => e.2.valid && e.2.gen = (s.pitch (e.1 / 2 ^ 22)).gen).length
def State.dkcAll (s : State) : Nat := (s.caches.dkc.filter fun e => e.2.valid && e.2.gen = (s.pitch (e.1 / 2 ^ 23)).gen).length

/-- KBC (R172). -/
def State.readKbc (s : State) (who : Who) (o : Nat) : Nat :=
  let p := (s.selOf who).kbcPitch.toNat
  match o with
  | 0x000 => p
  | 0x004 => s.kbcUse p
  | 0x008 => (s.pitch p).kbcHit.toNat
  | 0x00C => (s.pitch p).kbcMiss.toNat
  | 0x010 => (s.pitch p).kbcFail.toNat
  | 0x014 => bit s.caches.kbcSweeping 31 + s.kbcAll
  | _ => 0

/-- DKC (R233). -/
def State.readDkc (s : State) (who : Who) (o : Nat) : Nat :=
  let p := (s.selOf who).dkcPitch.toNat
  let v := s.pitch p
  match o with
  | 0x000 => p
  | 0x004 => s.dkcUse p
  | 0x008 => v.dkcHit.toNat
  | 0x00C => v.dkcAnchor.toNat
  | 0x010 => v.dkcMiss.toNat
  | 0x014 => v.dkcReplay.toNat
  | 0x018 => bit s.caches.dkcSweeping 31 + (s.caches.walker0.toList.length + s.caches.walker1.toList.length) * 2 ^ 29 + s.dkcAll
  | 0x01C => bit v.replayOn 31 + v.replayTol.toNat
  | _ => 0

/-- State of a lane group or an idle engine, by the base of its kind and its number (R259, R294). -/
def State.unitState (s : State) (base k : Nat) : Nat := if s.withdrawn (base + k) then 3 else (s.restState base k).toNat

/-- The start has tested the units and brought them into service (R430, step 7). DESIGN CHOICE (log entry 123): until then the counts
of units in service read 0, their reset value. -/
def State.unitsUp (s : State) : Bool := s.glb.startDone || decide (8 ≤ s.glb.step.toNat)

/-- Units 0 to n − 1 of a kind that are in service, as its status register counts them. -/
def State.inService (s : State) (n : Nat) (serves : Nat → Bool) : Nat := if s.unitsUp then ((List.range n).filter serves).length else 0

/-- LAN (R259). Lane groups are held within one command only (log entry 22): none is held by recipe steps or by a bulk command between
two commands of the block. -/
def State.readLan (s : State) (who : Who) (o : Nat) : Nat :=
  let g := (s.selOf who).lanGroup.toNat
  match o with
  | 0x000 => s.inService 25 s.laneServes * 2 ^ 16 + bit (s.retiredIn 0 25 = 0) 8 + s.retiredIn 0 25
  | 0x004 => s.units.lanCap.toNat
  | 0x008 => g
  | 0x00C => if g < 25 then s.unitState 0 g * 2 ^ 29 else 0
  | 0x010 => s.units.heldFail.toNat
  | _ => 0

/-- HSH_STATUS (R259). A unit is held within one command only (log entry 22), so none is held or busy between two commands. -/
def State.readHsh (_s : State) (_o : Nat) : Nat := 0

/-- A failed sign-check as its register shows it (R294). -/
def checkWord (valid : Bool) (chk sign w count : Nat) : Nat := bit valid 31 + chk * 2 ^ (16 + w) + sign * 2 ^ 16 + count

def FuncUnit.longWord (u : FuncUnit) : Nat := bit u.longValid 31 + u.longPitch.toNat * 2 ^ 16 + u.longOpcode.toNat
def FuncUnit.works (u : FuncUnit) : Bool := u.state = 1 || u.state = 2

def State.engServing (s : State) (lattice : Bool) (n : Nat) : Nat := s.inService n (s.engServes lattice)
def State.engWorking (s : State) (lattice : Bool) (n : Nat) : Nat := ((List.range n).filter fun k => (s.engine lattice k).works).length

/-- PKE (R294). -/
def State.readPke (s : State) (who : Who) (o : Nat) : Nat :=
  let k := (s.selOf who).pkeEng.toNat
  let u := s.engine false k
  match o with
  | 0x000 => s.engServing false 26 * 2 ^ 24 + s.engWorking false 26 * 2 ^ 16 + (2 - s.retiredIn 25 26) * 2 ^ 8 + s.retiredIn 25 26
  | 0x004 => k
  | 0x008 => if 26 ≤ k then 0
             else if u.works then u.state.toNat * 2 ^ 29 + u.pitch.toNat else s.unitState 25 k * 2 ^ 29
  | 0x00C => u.longWord
  | 0x010 => u.longTag.toNat
  | 0x014 => checkWord s.units.pkeFailValid s.units.pkeFailCheck.toNat s.units.pkeFailSign.toNat 5 s.units.pkeFailCount.toNat
  | _ => 0

/-- LTC (R294). -/
def State.readLtc (s : State) (who : Who) (o : Nat) : Nat :=
  let k := (s.selOf who).ltcEng.toNat
  let u := s.engine true k
  match o with
  | 0x000 => s.engServing true 8 * 2 ^ 16 + s.engWorking true 8 * 2 ^ 8 + s.retiredIn 51 8
  | 0x004 => checkWord s.units.ltcFailValid s.units.ltcFailCheck.toNat s.units.ltcFailSign.toNat 3 s.units.ltcFailCount.toNat
  | 0x008 => k
  | 0x00C => u.longWord
  | 0x010 => u.longTag.toNat
  | _ => 0

/-- ENT (R294). -/
def State.readEnt (s : State) (who : Who) (o : Nat) : Nat :=
  let e := s.source (s.selOf who).entSrc.toNat
  let i := (s.selOf who).entDrbg.toNat
  let d := s.drbg i
  match o with
  | 0x000 => bit s.drbgError 31 + ((List.range 4).map fun n => bit ((s.source n).state = 2) n).sum
  | 0x004 => (s.selOf who).entSrc.toNat
  | 0x008 => e.state.toNat * 2 ^ 29 + e.startupFails.toNat * 2 ^ 16 + e.aptFails.toNat * 2 ^ 8 + e.rctFails.toNat
  | 0x00C => s.units.aptCutoff.toNat * 2 ^ 16 + s.units.rctCutoff.toNat
  | 0x010 => i
  | 0x014 => d.state.toNat * 2 ^ 30 + bit d.kat 29 + min d.since 1048576
  | 0x018 => d.reseeds.toNat
  | _ => 0

/-! ## TMP, ENV, LCS, PAR, PWR, BST, TLY, EVC, FUS -/

/-- TMP (R372), the RWI registers apart. -/
def State.readTmp (s : State) (who : Who) (o : Nat) : Nat :=
  let t := s.tmp
  match o with
  | 0x000 => bit t.hold 31 + bit t.window.isSome 30 + bit t.handover 29 + bit t.lastValid 28 + t.lastClass.toNat * 2 ^ 26 + t.windows.toNat
  | 0x004 => (s.selOf who).tmpBank.toNat
  | 0x010 => part t.latch.toNat 0 32
  | 0x014 => part t.latch.toNat 32 16
  | 0x018 => part t.disabled.toNat 0 32
  | 0x01C => part t.disabled.toNat 32 16
  | 0x028 => bit s.bat.low 31 + bit s.bat.seed.isSome 30 + t.copied.toNat * 2 ^ 16 + t.copiedOverflow.toNat
  | _ => 0

/-- ENV (R372), the RWI registers apart. -/
def State.readEnv (s : State) (o : Nat) : Nat :=
  match o with
  | 0x000 => s.tmp.tempb.toNat * 2 ^ 16 + s.tmp.temp1.toNat * 2 ^ 8 + s.tmp.temp0.toNat
  | 0x014 => s.tmp.encLevel.toNat
  | 0x020 => s.tmp.emeshMiss1.toNat * 2 ^ 16 + s.tmp.emeshMiss0.toNat
  | _ => 0

/-- LCS (R401). -/
def State.readLcs (s : State) (o : Nat) : Nat :=
  match o with
  | 0x000 => s.lcsState
  | 0x004 => s.lcs.fuses.lcsC.toNat * 2 ^ 8 + s.lcs.fuses.lcsT.toNat
  | 0x008 => s.lcs.phase.toNat * 2 ^ 29 + s.lcs.precheck.toNat * 2 ^ 16 + s.lcs.scrapLeft.toNat
  | 0x00C => s.lcs.holdup.toNat
  | _ => 0

/-- PAR (R427). -/
def State.readPar (s : State) (o : Nat) : Nat :=
  let p := s.par
  match o with
  | 0x000 => bit p.claim 31 + bit p.grant 30 + bit p.peerClaim 29 + bit p.linkUp 28 + p.width.toNat * 2 ^ 26 + p.takeovers.toNat * 2 ^ 4 + p.role.code
  | 0x004 => bit p.relaxed 0
  | 0x008 => p.epochUs.toNat
  | 0x00C => p.leapLog2.toNat
  | 0x010 => s.parCfgWord.toNat
  | 0x014 => bit p.standbyLost 31 + min ((s.rqe.cqs.map fun e => e.2.held.length).sum / 1000) 255 * 2 ^ 8 + min p.unacked.length 255
  | 0x018 => part p.ackedCsn 0 32
  | 0x01C => part p.ackedCsn 32 32
  | 0x020 => p.peerRole.toNat * 2 ^ 8 + p.peerFlags.toNat
  | 0x024 => bit p.errValid 31 + p.errCode.toNat
  | _ => 0

/-- PWR (R456). -/
def State.readPwr (s : State) (o : Nat) : Nat :=
  let p := s.pwr
  match o with
  | 0x000 => bit p.bounded 0
  | 0x004 => p.calibrated.toNat * 2 ^ 8 + p.band.toNat
  | 0x008 => bit p.throttling 31 + p.powerMw.toNat
  | 0x010 => p.calState.toNat * 2 ^ 30 + p.calBand.toNat * 2 ^ 4 + p.calCode.toNat
  | 0x014 => p.dipCount.toNat * 2 ^ 16 + p.dipMin.toNat
  | _ => 0

/-- BST (R457). -/
def State.readBst (s : State) (o : Nat) : Nat :=
  let b := s.bst
  match o with
  | 0x000 => b.rotation.toNat
  | 0x004 => b.out.length * 2 ^ 16 + b.next.toNat
  | 0x008 => bit b.failValid 31 + b.failRegion.toNat * 2 ^ 16 + b.retired.length * 2 ^ 8 + b.failures.toNat
  | 0x00C => b.applied.toNat * 2 ^ 16 + b.pending.toNat
  | _ => 0

/-- TLY (R474). -/
def State.readTly (s : State) (who : Who) (o : Nat) : Nat :=
  let t := s.tly
  let x := s.selOf who
  if !s.tlyAccess who then 0
  else if 0x040 ≤ o ∧ o < 0x080 then (if x.tlyState = 2 then fieldLE x.tlyData (o - 0x040) 4 else 0)
  else match o with
    | 0x000 => bit (t.flushing ≠ 0) 31 + bit (t.faulty0 || t.faulty1) 30 + t.buffer.length * 2 ^ 16 + t.head.length
    | 0x004 => t.next.toNat
    | 0x008 => t.tailFirst.toNat
    | 0x00C => t.dropped.toNat * 2 ^ 16 + t.pageRetries.toNat
    | 0x010 => t.suppressed.toNat
    | 0x014 => x.tlyNum.toNat
    | 0x018 => x.tlyState.toNat * 2 ^ 30
    | _ => 0

/-- The destination of the host port of a PF. -/
def portDest (who : Who) : Option Nat := if who = pfA then some 25 else if who = pfB then some 26 else none

/-- EVC (R475); EVC_CLAIM apart. -/
def State.readEvc (s : State) (who : Who) (o : Nat) : Nat :=
  let x := s.selOf who
  let r := s.evc.routes.get {} x.evcSrc.toNat
  let h := s.evc.routes.get {} x.evcHsrc.toNat
  if 0x100 ≤ o ∧ o < 0x148 then
    match portDest who with
    | none => 0
    | some d => ((List.range 32).map fun b => bit ((s.evc.pend.get [] d).contains (8 * (o - 0x100) + b)) b).sum
  else match o with
    | 0x000 => x.evcSrc.toNat
    | 0x004 => bit r.sec 31 + r.cores.toNat
    | 0x008 => s.evc.ovf.toNat
    | 0x010 => x.evcHsrc.toNat
    | 0x014 => bit h.enB 31 + h.vecB.toNat * 2 ^ 16 + bit h.enA 15 + h.vecA.toNat
    | _ => 0

/-- FUS (R402). -/
def State.readFus (s : State) (o : Nat) : Nat :=
  let l := s.lcs
  let f := l.fuses
  match o with
  | 0x000 => bit l.sensed 31 + bit l.shadowFault 30 + l.group.toNat * 2 ^ 24 + l.burns.toNat
  | 0x004 => f.repairs * 2 ^ 16 + l.repairIgnored.toNat
  | 0x008 => bit f.owner1.revoked 3 + bit f.owner1.burned 2 + bit f.owner0.revoked 1 + bit f.owner0.burned 0
  | 0x00C => l.burnState.toNat * 2 ^ 30 + l.burnGroup.toNat * 2 ^ 24 + l.pulses.toNat
  | _ => 0

/-! ## The map (R31) -/

/-- The offset in the register map that a host function's BAR0 offset names (R31, R71, R437, R475); none where the BAR shows nothing. The
offsets of every other initiator are those of the map. -/
def State.mapOffset (s : State) (who : Who) (off : Nat) : Option Nat :=
  match who with
  | .vf _ _ => if s.glb.minimal ∨ 0x10000 ≤ off then none else some (0x20000 + off)
  | .ini n =>
    if n.toNat < 0x2E ∨ 0x30 < n.toNat then some off
    else
      let b := off / 0x10000
      let o := off % 0x10000
      if b ≤ 1 then some off
      else if s.glb.minimal then none
      else if b ≤ 3 ∨ b = 0x18 then some off
      else if b = 0x19 ∧ ((0x010 ≤ o ∧ o < 0x020) ∨ (0x100 ≤ o ∧ o < 0x148)) then some off
      else none

/-- The mailbox that an aperture of the OWN block shows a PF owner (R386); in minimal service mode only mailbox 0 serves (R437). -/
def State.aperture (s : State) (who : Who) (o : Nat) : Option (Nat × Nat) :=
  if 0x1000 ≤ o ∧ o < 0x1400 ∧ s.isOwner who ∧ ¬ (s.glb.minimal ∧ 0x1200 ≤ o) then
    some ((o - 0x1000) / 0x200, (o - 0x1000) % 0x200) else none

/-- The mailbox and its register at an offset of the map. -/
def State.mailboxAt (s : State) (who : Who) (off : Nat) : Option (Nat × Nat) :=
  if off / 0x10000 = 0x07 ∧ off % 0x10000 < 0x2000 then some (off % 0x10000 / 0x200, off % 0x200)
  else if off / 0x10000 = 0x01 then s.aperture who (off % 0x10000)
  else none

/-- The value of the register at an offset of the map, where a read has no effect. -/
def State.readValue (s : State) (who : Who) (off : Nat) : Nat :=
  let o := off % 0x10000
  if off % 4 ≠ 0 then 0
  else match s.readRwi who off with
  | some v => v.toNat
  | none => match s.mailboxAt who off with
    | some (m, o) => s.readMbx who m o
    | none => match off / 0x10000 with
      | 0x00 => s.readGlb o
      | 0x01 => s.readOwn who o
      | 0x02 => s.readRqe who o
      | 0x03 => s.readPit who o
      | 0x04 => s.readSch who o
      | 0x05 => s.readCmc who o
      | 0x06 => s.readDma who o
      | 0x08 => s.readMpu o
      | 0x09 => s.readKst who o
      | 0x0A => s.readKbc who o
      | 0x0B => s.readDkc who o
      | 0x0D => s.readLan who o
      | 0x0E => s.readHsh o
      | 0x0F => s.readPke who o
      | 0x10 => s.readLtc who o
      | 0x11 => s.readEnt who o
      | 0x12 => s.readTmp who o
      | 0x13 => s.readEnv o
      | 0x14 => s.readLcs o
      | 0x15 => s.readPar o
      | 0x16 => s.readPwr o
      | 0x17 => s.readBst o
      | 0x18 => s.readTly who o
      | 0x19 => s.readEvc who o
      | 0x1A => s.readFus o
      | _ => 0

/-- The value that a read by an initiator gives. -/
def State.regValue (s : State) (who : Who) (off : Nat) : Word :=
  match s.mapOffset who off with
  | some o => BitVec.ofNat 32 (s.readValue who o)
  | none => 0

end Sys2Proof.Machine
end

