-- ==== Sys2Proof/Machine/Regs.lean ====
section
/-! DEFINITION. Register writes by the access type of each field (R6), who may make them, reads that have an effect, and the three
commands REG_WRITE, BUS_ACCESS (R65) and REG_ACCESS (R387). Where a write has a row of its own, it acts here as that row does. -/

namespace Sys2Proof.Machine

/-- A write that only the security controller may make; others are ignored. -/
def secOnly (who : Who) (f : State → State) (s : State) : State := if isSec who then f s else s

def ownerOnly (who : Who) (f : State → State) (s : State) : State := if s.isOwner who then f s else s

/-- The low or the high word of an address replaced. -/
def lowWord {n : Nat} (a : BitVec n) (v : Word) : BitVec n := BitVec.ofNat n (a.toNat / 2 ^ 32 * 2 ^ 32 + v.toNat)
def highWord {n : Nat} (a : BitVec n) (v : Word) : BitVec n := BitVec.ofNat n (v.toNat * 2 ^ 32 + a.toNat % 2 ^ 32)

/-! ## GLB, OWN -/

/-- GLB (R428, R480): the flags of GLB_PAIR_STATUS are cleared by the owner or the security controller. -/
def writeGlb (who : Who) (o : Nat) (v : Word) (s : State) : State :=
  match o with
  | 0x040 => if s.isOwner who || isSec who then
               { s with par := { s.par with takeoverFlag := s.par.takeoverFlag && !v.getLsbD 31,
                                            yieldRefused := s.par.yieldRefused && !v.getLsbD 30 } }
             else s
  | 0x044 => yieldStart who v s
  | 0x080 => ownerOnly who (fun s => { s with glb := { s.glb with gpioDir := v.extractLsb' 0 16 } }) s
  | 0x084 => ownerOnly who (fun s => { s with glb := { s.glb with gpioOut := v.extractLsb' 0 16 } }) s
  | _ => s

/-- Four bytes of the claim buffer (R400). -/
def putClaim (o : Nat) (v : Word) (c : Candidate) : Candidate :=
  { c with claim := (List.range 4).foldl (fun m i => m.set 0 (o + i) (v.extractLsb' (8 * i) 8)) c.claim }

/-- OWN (R400), without the apertures. -/
def writeOwn (who : Who) (o : Nat) (v : Word) (s : State) : State :=
  if 0x100 ≤ o ∧ o < 0x300 then
    match who with
    | .ini n => if isCandidate n then s.updCandidate n (putClaim (o - 0x100) v) else s
    | .vf _ _ => s
  else match o with
    | 0x004 => ownClaim who v s
    | 0x00C => ownHandover who v s
    | _ => s

/-! ## RQE -/

/-- RQE_SWEEP_PERIOD: both periods 1 to 128, else code 1. -/
def sweepPeriodWrite (who : Who) (v : Word) (s : State) : State :=
  rqeOwner who (fun s =>
    let a := part v.toNat 0 8
    let b := part v.toNat 16 8
    if a = 0 ∨ 128 < a ∨ b = 0 ∨ 128 < b then rqeErr who 1 s
    else { s with rqe := { s.rqe with periodA := BitVec.ofNat 8 a, periodB := BitVec.ofNat 8 b } }) s

/-- RQE_FN_LIMIT: 0 to 8,192, else code 1. -/
def fnLimitWrite (who : Who) (v : Word) (s : State) : State :=
  rqeOwner who (fun s =>
    let n := part v.toNat 0 14
    let x := (s.rqeSel who).fnSel
    if 8192 < n then rqeErr who 1 s
    else s.updFn (Port.ofBit (x.getLsbD 7)) (x.extractLsb' 0 7) fun f => { f with maxSq := n }) s

/-- A staged ring register of a function (R108). -/
def stageRing (who : Who) (f : RqeSel → RqeSel) (s : State) : State :=
  match whoFn who with
  | none => s
  | some _ => s.updRqeSel who f

/-- RQE_RING_CFG: log2_size 6 to 16, else code 1. -/
def ringCfgWrite (who : Who) (v : Word) (s : State) : State :=
  match whoFn who with
  | none => s
  | some _ =>
    if log2Ok (v.extractLsb' 0 5) then
      s.updRqeSel who fun x => { x with pin := v.getLsbD 6, busyRefuse := v.getLsbD 5, log2 := v.extractLsb' 0 5 }
    else rqeErr who 1 s

/-- Pending CQEs reach a count that has been lowered to them (R99). -/
def countReached (p : Nat) (s : State) : State :=
  let q := s.cq p
  if 0 < q.pending ∧ q.coalCount.toNat ≤ q.pending then fireVector p s else s

/-- RQE_CQ_COAL: staged, and in effect at once on an ACTIVE CQ of the function (R108); a count without a time is refused (R99). -/
def coalWrite (who : Who) (v : Word) (s : State) : State :=
  match whoFn who with
  | none => s
  | some (port, fn) =>
    let time := v.extractLsb' 24 8
    let count := v.extractLsb' 16 8
    let vec := v.extractLsb' 0 11
    if coalBad count time then rqeErr who 8 s
    else
      let s := s.updRqeSel who fun x => { x with coalTime := time, coalCount := count, vector := vec }
      let x := s.rqeSel who
      let q := s.cq x.pitch.toNat
      if x.cq ∧ q.state = .active ∧ q.port = port ∧ q.fn = fn then
        countReached x.pitch.toNat
          (s.updCq x.pitch.toNat fun q => { q with coalTime := time, coalCount := count, vector := vec })
      else s

/-- RQE_RING_CTRL (R102, R103). A create or reset of an SQ issues the read of its doorbell record, which DOORBELL_RECORD_READ_DONE brings
(log entry 73); the rows RING_CREATE and RING_RESET carry what that read returned. -/
def ringControl (who : Who) (v : Word) (s : State) : State :=
  match v.toNat % 16 with
  | 1 => ringCreate who v none s
  | 2 => ringDelete who v s
  | 4 => ringReset who v none s
  | _ => cqAdopt who v s

/-- RQE (R76, R108). -/
def writeRqe (who : Who) (o : Nat) (v : Word) (s : State) : State :=
  match o with
  | 0x000 => rqeWake who s
  | 0x004 => sweepPeriodWrite who v s
  | 0x00C => orphanTimeoutWrite who v s
  | 0x010 => rqeOwner who (fun s => s.updRqeSel who fun x => { x with bindSel := v.extractLsb' 0 12 }) s
  | 0x014 => bindWrite who v s
  | 0x018 => rqeOwner who (fun s => s.updRqeSel who fun x => { x with fnSel := v.extractLsb' 0 8 }) s
  | 0x01C => fnLimitWrite who v s
  | 0x040 => stageRing who (fun x => { x with sqIndex := v.extractLsb' 17 2, cq := v.getLsbD 16, pitch := v.extractLsb' 0 12 }) s
  | 0x044 => stageRing who (fun x => { x with base := lowWord x.base (v &&& 0xFFFFF000) }) s
  | 0x048 => stageRing who (fun x => { x with base := highWord x.base v }) s
  | 0x04C => stageRing who (fun x => { x with db := lowWord x.db (v &&& 0xFFFFFFF0) }) s
  | 0x050 => stageRing who (fun x => { x with db := highWord x.db v }) s
  | 0x054 => ringCfgWrite who v s
  | 0x058 => coalWrite who v s
  | 0x05C => ringControl who v s
  | 0x064 => s.updRqeSel who fun x => { x with errValid := x.errValid && !v.getLsbD 31 }
  | _ => s

/-! ## PIT -/

/-- PIT (R58, R63, R411), the RWI registers apart: the selectors and PIT_ERR belong to each initiator. -/
def writePit (who : Who) (o : Nat) (v : Word) (s : State) : State :=
  match o with
  | 0x000 => (rwiSelector who 0x030008 s).updPitSel who fun x => { x with pitch := v.extractLsb' 0 12 }
  | 0x010 => quotaWrite who v s
  | 0x014 => reserveWrite who v s
  | 0x018 => weightWrite who v s
  | 0x01C => cacheShareWrite who v s
  | 0x020 => pitCtrlWrite who v s
  | 0x024 => s.updPitSel who fun x => { x with errValid := x.errValid && !v.getLsbD 31 }
  | 0x040 => s.updPitSel who fun x => { x with win := v.extractLsb' 0 3 }
  | 0x044 => stageWindow who (fun w => { w with base := lowWord w.base (v &&& 0xFFFFF000) }) s
  | 0x048 => stageWindow who (fun w => { w with base := highWord w.base v }) s
  | 0x04C => stageWindow who (fun w => { w with pages := v }) s
  | 0x050 => stageWindow who (fun w => { w with read := v.getLsbD 0, write := v.getLsbD 1, portA := v.getLsbD 2, portB := v.getLsbD 3 }) s
  | 0x054 => winCommit who v s
  | 0x080 => s.updPitSel who fun x => { x with blk := v.extractLsb' 0 12 }
  | 0x084 => blkOwnerWrite who v s
  | _ => s

/-! ## SCH, CMC, DMA, MBX, MPU -/

/-- SCH (R326). -/
def writeSch (who : Who) (o : Nat) (v : Word) (s : State) : State :=
  secOnly who (fun s =>
    match o with
    | 0x000 => { s with sch := { s.sch with timeoutUs := v.extractLsb' 0 16 } }
    | 0x004 => { s with sch := { s.sch with ageMs := v.extractLsb' 0 8 } }
    | 0x010 => s.updSel who fun x => { x with schQ := v.extractLsb' 0 5 }
    | 0x040 => if v.getLsbD 0 then { s with sch := { s.sch with hist := [] } } else s
    | 0x044 => s.updSel who fun x => { x with schCore := v.extractLsb' 0 5 }
    | 0x04C => s.updSel who fun x => { x with schPitch := v.extractLsb' 0 12 }
    | _ => s) s

/-- An access to the dispatch window by a core without a bound command (R319). -/
def windowFault (c : Nat) (s : State) : State := raise (504 + (c + 1) % 40) s

/-- Registers local to a core (R319, R320, R321, R330): code 4 without a bound command. -/
def writeCoreLocal (c o : Nat) (v : Word) (s : State) : State :=
  let k := s.core c
  if 0x1000 ≤ o then
    if k.entry = none then windowFault c s
    else if o < 0x1080 then s
    else s.updCore c fun k => { k with scratch := k.scratch.set 0 ((o - 0x1000) / 4) v }
  else if o = 0x42C then commandComplete c v false s
  else if k.entry = none then cmcErr 4 s
  else match o with
    | 0x404 => s.updCore c fun k => { k with hrdOff := v }
    | 0x408 => s.updCore c fun k => { k with hrdLen := v.extractLsb' 0 17 }
    | 0x40C => s.updCore c fun k => { k with hrdDst := lowWord k.hrdDst v }
    | 0x410 => s.updCore c fun k => { k with hrdDst := highWord k.hrdDst v }
    | 0x414 => hrdGo c v s
    | 0x418 => s.updCore c fun k => { k with resSrc := lowWord k.resSrc v }
    | 0x41C => s.updCore c fun k => { k with resSrc := highWord k.resSrc v }
    | 0x420 => s.updCore c fun k => { k with resLen := v.extractLsb' 0 24 }
    | 0x424 => s.updCore c fun k => { k with inline := lowWord k.inline v }
    | 0x428 => s.updCore c fun k => { k with inline := highWord k.inline v }
    | _ => s

/-- The local register window of a core. -/
def coreLocal (o : Nat) : Bool := (decide (0x400 ≤ o) && decide (o < 0x430)) || (decide (0x1000 ≤ o) && decide (o < 0x1400))

/-- CMC (R145, R330). -/
def writeCmc (who : Who) (o : Nat) (v : Word) (s : State) : State :=
  if coreLocal o then match whoCore who with | some c => writeCoreLocal c o v s | none => s
  else secOnly who (fun s =>
    match o with
    | 0x000 => s.updSel who fun x => { x with cmcCore := v.extractLsb' 0 5 }
    | 0x004 => persMaskWrite who v s
    | 0x008 => coreReload who v (cmcGuard who (fun c s => if v.getLsbD 0 then requestDrain c s else s) s)
    | 0x010 => liveUpdateStart who v s
    | 0x014 => { s with cmc := { s.cmc with errValid := s.cmc.errValid && !v.getLsbD 31 } }
    | 0x80C => { s with cmc := { s.cmc with twinValid := s.cmc.twinValid && !v.getLsbD 31 } }
    | _ => s) s

/-- DMA (R331, R338, R340). -/
def writeDma (who : Who) (p : Priv) (o : Nat) (v : Word) (s : State) : State :=
  if 0x100 ≤ o ∧ o < 0x900 then
    let c := (o - 0x100) / 0x20
    match (o - 0x100) % 0x20 with
    | 0x00 => chanConfig who c (fun d => { d with desc := lowWord d.desc (v &&& 0xFFFFFFC0) }) s
    | 0x04 => chanConfig who c (fun d => { d with desc := highWord d.desc v }) s
    | 0x08 => chanConfig who c (fun d => { d with retries := v.extractLsb' 8 3, abortMode := v.getLsbD 4, priority := v.extractLsb' 0 2 }) s
    | 0x0C =>
      let s := if v.getLsbD 0 then dmaStart who c p s else s
      if v.getLsbD 1 then dmaHalt who c s else s
    | _ => s
  else match o with
    | 0x004 => s.updSel who fun x => { x with dmaErrValid := x.dmaErrValid && !v.getLsbD 31 }
    | _ => s

/-- A mailbox (R342 to R346). -/
def writeMbx (who : Who) (m o : Nat) (v : Word) (s : State) : State :=
  if 0x100 ≤ o ∧ o < 0x200 then msgWrite who m ((o - 0x100) / 4) v s
  else match o with
    | 0x000 => lockRelease who m v s
    | 0x004 => dbClear who m v s
    | 0x008 => dbSet who m v s
    | 0x00C => mbxMaskWrite who m v s
    | 0x010 => ackWrite who m v s
    | 0x014 => mbxCfgWrite who m v s
    | 0x01C => mbxForce who m v s
    | 0x020 =>
      let e := s.mbxErr.get {} (mbxErrKey who m)
      { s with mbxErr := s.mbxErr.set {} (mbxErrKey who m) { e with valid := e.valid && !v.getLsbD 31 } }
    | _ => s

/-- Base and limit are written only while the region is disabled (R66). -/
def regionWrite (f : Region → Region) (s : State) : State :=
  let k := s.mpuKey
  if k / 32 = 0 ∨ 0x31 < k / 32 then mpuErr 4 s
  else if regionOn (s.region k) then mpuErr 2 s
  else s.updRegion k f

/-- MPU (R64, R66, R68), the RWI register apart: code 5 for any other writer. -/
def writeMpu (who : Who) (o : Nat) (v : Word) (s : State) : State :=
  if !isSec who then mpuErr 5 s
  else match o with
    | 0x000 =>
      let s := rwiSelector who 0x080014 s
      { s with mpu := { s.mpu with selIni := v.extractLsb' 8 6, selRgn := v.extractLsb' 0 5 } }
    | 0x004 => regionWrite (fun r => { r with base := lowWord r.base (v &&& 0xFFFFFFC0) }) s
    | 0x008 => regionWrite (fun r => { r with base := highWord r.base v }) s
    | 0x00C => regionWrite (fun r => { r with limit := lowWord r.limit (v &&& 0xFFFFFFC0) }) s
    | 0x010 => regionWrite (fun r => { r with limit := highWord r.limit v }) s
    | 0x020 => if v.getLsbD 31 then { s with mpu := { s.mpu with faultValid := false, faultMore := 0 } } else s
    | 0x02C => { s with mpu := { s.mpu with errValid := s.mpu.errValid && !v.getLsbD 31 } }
    | _ => s

/-! ## KST, KBC, DKC, LAN, PKE, LTC, ENT -/

/-- KST (R314), the RWI registers apart. -/
def writeKst (who : Who) (o : Nat) (v : Word) (s : State) : State :=
  secOnly who (fun s =>
    match o with
    | 0x00C => { s with kst := { s.kst with lagging := s.kst.lagging && !v.getLsbD 31 } }
    | 0x01C => s.updSel who fun x => { x with kstSlot := v.extractLsb' 0 18 }
    | _ => s) s

/-- KBC (R172). -/
def writeKbc (who : Who) (o : Nat) (v : Word) (s : State) : State :=
  match o with
  | 0x000 => s.updSel who fun x => { x with kbcPitch := v.extractLsb' 0 12 }
  | 0x018 => cacheFlush who false v s
  | _ => s

/-- DKC (R222, R233). A change of DKC_REPLAY is a change of the pitch's configuration (R36). -/
def writeDkc (who : Who) (o : Nat) (v : Word) (s : State) : State :=
  match o with
  | 0x000 => s.updSel who fun x => { x with dkcPitch := v.extractLsb' 0 12 }
  | 0x01C => secOnly who (fun s =>
      let p := (s.selOf who).dkcPitch.toNat
      let t := s.updPitch p fun x => { x with replayOn := v.getLsbD 31, replayTol := v.extractLsb' 0 16 }
      if (s.pitch p).state = .free then t else sealNow p t) s
  | 0x020 => cacheFlush who true v s
  | _ => s

/-- LAN (R259). LAN_BULK_CAP travels in skims as part of the device record (R414). -/
def writeLan (who : Who) (o : Nat) (v : Word) (s : State) : State :=
  match o with
  | 0x004 => secOnly who (fun s =>
      let n := part v.toNat 0 5
      if n = 0 ∨ 24 < n then s else mirrorDevice { s with units := { s.units with lanCap := BitVec.ofNat 5 n } }) s
  | 0x008 => s.updSel who fun x => { x with lanGroup := v.extractLsb' 0 5 }
  | _ => s

/-- PKE (R294). -/
def writePke (who : Who) (o : Nat) (v : Word) (s : State) : State :=
  match o with
  | 0x004 => s.updSel who fun x => { x with pkeEng := v.extractLsb' 0 5 }
  | 0x014 => secOnly who (fun s => { s with units := { s.units with pkeFailValid := s.units.pkeFailValid && !v.getLsbD 31 } }) s
  | _ => s

/-- LTC (R294). -/
def writeLtc (who : Who) (o : Nat) (v : Word) (s : State) : State :=
  match o with
  | 0x004 => secOnly who (fun s => { s with units := { s.units with ltcFailValid := s.units.ltcFailValid && !v.getLsbD 31 } }) s
  | 0x008 => s.updSel who fun x => { x with ltcEng := v.extractLsb' 0 3 }
  | _ => s

/-- ENT (R294): ENT_HEALTH_CFG until FIELDED; each cutoff in its range, others ignored. -/
def writeEnt (who : Who) (o : Nat) (v : Word) (s : State) : State :=
  match o with
  | 0x004 => s.updSel who fun x => { x with entSrc := v.extractLsb' 0 2 }
  | 0x00C => secOnly who (fun s =>
      if s.locked then s
      else { s with units := { s.units with
        aptCutoff := BitVec.ofNat 10 (fieldIn v 16 10 600 800 s.units.aptCutoff.toNat),
        rctCutoff := BitVec.ofNat 6 (fieldIn v 0 6 21 41 s.units.rctCutoff.toNat) } }) s
  | 0x010 => s.updSel who fun x => { x with entDrbg := v.extractLsb' 0 4 }
  | _ => s

/-! ## TMP, LCS, PAR, PWR, BST, TLY, EVC -/

/-- TMP (R372), the RWI registers apart. DESIGN CHOICE (log entry 98): a write of 3 to TMP_CLASS_SEL, which its table ignores, also
leaves a pending TMP_CLASS write standing; R372 does not say whether an ignored write discards it. -/
def writeTmp (who : Who) (o : Nat) (v : Word) (s : State) : State :=
  secOnly who (fun s =>
    match o with
    | 0x004 => if v.toNat % 4 = 3 then s
               else (rwiSelector who 0x120008 s).updSel who fun x => { x with tmpBank := v.extractLsb' 0 2 }
    | 0x010 => { s with tmp := { s.tmp with latch := s.tmp.latch &&& ~~~(v.setWidth 48) } }
    | 0x014 => { s with tmp := { s.tmp with latch := s.tmp.latch &&& ~~~(v.setWidth 48 <<< 32) } }
    | _ => s) s

/-- LCS_HOLDUP (R401): kept in the sealed store, locked at FIELDED. -/
def writeLcs (who : Who) (o : Nat) (v : Word) (s : State) : State :=
  if o = 0x00C ∧ isSec who ∧ ¬ s.locked then
    sealFlashes (fun f => { f with holdup := v.extractLsb' 0 8 }) { s with lcs := { s.lcs with holdup := v.extractLsb' 0 8 } }
  else s

/-- PAR (R427). -/
def writePar (who : Who) (o : Nat) (v : Word) (s : State) : State :=
  secOnly who (fun s =>
    if o = 0x024 then { s with par := { s.par with errValid := s.par.errValid && !v.getLsbD 31 } } else parWrite o v s) s

/-- PWR (R456). -/
def writePwr (who : Who) (o : Nat) (v : Word) (s : State) : State :=
  secOnly who (fun s =>
    match o with
    | 0x000 => envelopeWrite v s
    | 0x00C => calibrationStart v s
    | _ => s) s

/-- BST (R457). -/
def writeBst (who : Who) (o : Nat) (v : Word) (s : State) : State :=
  secOnly who (fun s =>
    match o with
    | 0x000 => { s with bst := { s.bst with rotation := BitVec.ofNat 12 (fieldIn v 0 12 60 3600 s.bst.rotation.toNat) } }
    | 0x008 => { s with bst := { s.bst with failValid := s.bst.failValid && !v.getLsbD 31 } }
    | _ => s) s

/-- Sources whose host route the owner may write (R472). -/
def hostSource (n : Nat) : Bool :=
  (decide (296 ≤ n) && decide (n ≤ 359)) || (decide (376 ≤ n) && decide (n ≤ 479)) || (decide (544 ≤ n) && decide (n ≤ 567))

/-- The source a selector takes: 0 to 575, larger values ignored. -/
def takeSource (v : Word) (old : BitVec 10) : BitVec 10 := if 575 < part v.toNat 0 10 then old else v.extractLsb' 0 10

/-- EVC (R472, R475). -/
def writeEvc (who : Who) (o : Nat) (v : Word) (s : State) : State :=
  let x := s.selOf who
  if 0x100 ≤ o ∧ o < 0x148 then hostPendingClear who ((o - 0x100) / 4) v s
  else match o with
    | 0x000 => secOnly who (fun s => s.updSel who fun x => { x with evcSrc := takeSource v x.evcSrc }) s
    | 0x004 => secOnly who (fun s => { s with evc := { s.evc with
        routes := s.evc.routes.upd {} x.evcSrc.toNat fun r => { r with sec := v.getLsbD 31, cores := v.extractLsb' 0 24 } } }) s
    | 0x010 => s.updSel who fun x => { x with evcHsrc := takeSource v x.evcHsrc }
    | 0x014 => if s.isOwner who && hostSource x.evcHsrc.toNat then { s with evc := { s.evc with
        routes := s.evc.routes.upd {} x.evcHsrc.toNat fun r =>
          { r with enB := v.getLsbD 31, vecB := v.extractLsb' 16 11, enA := v.getLsbD 15, vecA := v.extractLsb' 0 11 } } } else s
    | _ => s

/-! ## The map -/

/-- The RWI register, or its companion, at an offset: none for any other register. -/
def rwiAccess (who : Who) (off : Nat) (v : Word) (s : State) : Option State :=
  match s.rwiReg who off with
  | some _ => some (rwiFirst who off v s)
  | none => if off < 4 then none else (s.rwiReg who (off - 4)).map fun _ => rwiSecond who (off - 4) v s

/-- A write at an offset of the map. -/
def writeAt (who : Who) (p : Priv) (off : Nat) (v : Word) (s : State) : State :=
  let o := off % 0x10000
  if off % 4 ≠ 0 then s
  else match rwiAccess who off v s with
  | some s => s
  | none => match s.mailboxAt who off with
    | some (m, o) => writeMbx who m o v s
    | none => match off / 0x10000 with
      | 0x00 => writeGlb who o v s
      | 0x01 => writeOwn who o v s
      | 0x02 => writeRqe who o v s
      | 0x03 => writePit who o v s
      | 0x04 => writeSch who o v s
      | 0x05 => writeCmc who o v s
      | 0x06 => writeDma who p o v s
      | 0x08 => writeMpu who o v s
      | 0x09 => writeKst who o v s
      | 0x0A => writeKbc who o v s
      | 0x0B => writeDkc who o v s
      | 0x0D => writeLan who o v s
      | 0x0F => writePke who o v s
      | 0x10 => writeLtc who o v s
      | 0x11 => writeEnt who o v s
      | 0x12 => writeTmp who o v s
      | 0x14 => writeLcs who o v s
      | 0x15 => writePar who o v s
      | 0x16 => writePwr who o v s
      | 0x17 => writeBst who o v s
      | 0x18 => if o = 0x014 then tallyFetch who v s else s
      | 0x19 => writeEvc who o v s
      | _ => s

/-- The access of a register by an initiator; one with a reserved number is refused as a write that no region permits (R25), and a host
function's over an Insecure stream is discarded (R73). -/
def asInitiator (who : Who) (off : Nat) (f : State → State) (s : State) : State :=
  match who with
  | .ini n => if reservedIni n then refuseAccess n .m .write (0xC0000000 + off) 4 s else fromHost who f s
  | .vf _ _ => fromHost who f s

/-- A register write by an initiator or function. -/
def regWrite (who : Who) (p : Priv) (off : Nat) (v : Word) (s : State) : State :=
  match s.mapOffset who off with
  | some o => writeAt who p o v s
  | none => s

/-- REG_WRITE (R6). -/
def execRegWrite (who : Who) (off : BitVec 21) (v : Word) (s : State) : Host.Outcome State Fault Refusal :=
  .next (asInitiator who off.toNat (regWrite who .m off.toNat v) s)

/-! ## Reads that have an effect -/

/-- SCH_CORE_BUSY: the model keeps no time for it, and the ratio, 0 to 1,024, is a free value. -/
def busyRead (who : Who) (s : State) : State :=
  let (b, s) := draw 2 s
  s.emit (.read who (BitVec.ofNat 32 (leNat b % 1025)))

/-- A register read with its effects: MBX_LOCK, EVC_CLAIM, MPU_BARRIER, the dispatch port and its window have some. -/
def readAt (who : Who) (off : Nat) (s : State) : State :=
  let plain := s.emit (.read who (BitVec.ofNat 32 (s.readValue who off)))
  match s.mailboxAt who off with
  | some (m, 0) => lockRead who m s
  | some _ => plain
  | none =>
    match off with
    | 0x19000C => eventClaim who s
    | 0x040048 => busyRead who s
    | 0x08001C => match who with | .ini n => barrierRead n s | .vf _ _ => plain
    | 0x050400 => match whoCore who with | some c => dispatchLoad c s | none => plain
    | _ => match whoCore who with
      | some c => if 0x051000 ≤ off ∧ off < 0x051400 ∧ (s.core c).entry = none then windowFault c s else plain
      | none => plain

def regRead (who : Who) (off : Nat) (s : State) : State :=
  match s.mapOffset who off with
  | some o => readAt who o s
  | none => s.emit (.read who 0)

/-! ## BUS_ACCESS (R64, R65) -/

/-- A failed line MAC on a read of an initiator (R18): an error response; the command bound to a core that read ends with MEMORY_ECC. -/
def busEcc (n : BitVec 6) (line : BitVec 31) (s : State) : State :=
  let s := (memoryFault line s).emit (.busError n)
  match whoCore (.ini n) with
  | none => s
  | some c => match (s.core c).entry with
    | some e => unbind c (eccEnd e s)
    | none => s

/-- The access itself, once permitted: registers by words, everything else internal memory. -/
def busDo (n : BitVec 6) (p : Priv) (k : Access) (a : Nat) (data : Bytes) (len : Nat) (ecc : Bool) (s : State) : State :=
  if isRegister a then
    match k with
    | .write => regWrite (.ini n) p (a - 0xC0000000) (BitVec.ofNat 32 (leNat (data.take 4))) s
    | _ => regRead (.ini n) (a - 0xC0000000) s
  else match k with
    | .write => { s with imem := memWrites s.imem a (data.take len) }
    | _ => match s.readFault ecc a with
      | some l => busEcc n l s
      | none => s.emit (.busData n (memReads s.imem a len))

/-- BUS_ACCESS: the check of R65, then the access. A posted one stays outstanding for MPU_BARRIER (R67). -/
def busAccess (n : BitVec 6) (p : Priv) (k : Access) (a : Nat) (data : Bytes) (len : Nat) (posted ecc : Bool) (s : State) : State :=
  match s.mpuCause n.toNat p k a len with
  | some cause => refuseAccess n p k a cause s
  | none =>
    let s := if posted then { s with mpu := { s.mpu with outstanding := s.mpu.outstanding ++ [(n, s.mpu.commits)] } } else s
    busDo n p k a data len ecc s

def execBusAccess (n : BitVec 6) (priv : Priv) (kind : Access) (addr : BitVec 40) (data : Bytes) (len : Nat) (posted : Bool)
    (s : State) (ecc : Bool := false) : Host.Outcome State Fault Refusal := .next (busAccess n priv kind addr.toNat data len posted ecc s)

/-! ## REG_ACCESS (R386, R387, R397) -/

/-- Registers that the security controller writes for the owner (R427, R446, R456). -/
def ownerBySec (off : Nat) : Bool := [0x150004, 0x150008, 0x15000C, 0x150010, 0x160000, 0x16000C].contains off

/-- Settings that the sealed store keeps and a message can write with no pitch to hold them: PIT_BLK_OWNER, PAR_MODE to PAR_CFG and
PWR_ENVELOPE (R45, R148, R427, R442). -/
def sealedSetting (off : Nat) : Bool := [0x030084, 0x150004, 0x150008, 0x15000C, 0x150010, 0x160000].contains off

/-- The write of a REG_ACCESS message. -/
def ownerWrite (who : Who) (off : Nat) (v : Word) (s : State) : State :=
  if ownerBySec off then writeAt secIni .m off v s else regWrite who .m off v s

/-- The reply to a write: 0, or 0x0020 plus the code where the write set the sender's PIT_ERR (R491). -/
def regAccessWrite (h : ZHdr) (off : Nat) (v : Word) (s : State) : State :=
  let old := s.pitSel h.sender
  let t := ownerWrite h.sender off v (s.updPitSel h.sender fun x => { x with errValid := false })
  if (t.pitSel h.sender).errValid then zreply 0x0003 h (0x20 + (t.pitSel h.sender).errCode.setWidth 16) [] t
  else if off = 0x030024 then zreply 0x0003 h 0 [] t
  else zreply 0x0003 h 0 [] (t.updPitSel h.sender fun x => { x with errValid := old.errValid })

/-- The reply to a read: the value. -/
def regAccessRead (h : ZHdr) (off : Nat) (s : State) : State :=
  let v := s.regValue h.sender off
  zreply 0x0003 h 0 (toLE 4 v.toNat) s

/-- OWN registers that an I3C candidate reaches without ownership (R397, R400). -/
def candidateOffset (write : Bool) (off : Nat) : Bool :=
  off / 0x10000 = 1 && (!write || off = 0x010004 || (decide (0x010100 ≤ off) && decide (off < 0x010300)))

def regAccess (h : ZHdr) (write : Bool) (off : Nat) (v : Word) (s : State) : State :=
  let run := fun s : State => if write then regAccessWrite h off v s else regAccessRead h off s
  if h.sender = .ini 0x2E ∧ ¬ s.isOwner h.sender ∧ candidateOffset write off then run (heard h.sender s)
  else zmessage 0x0003 h true (write && sealedSetting off) run s

/-- REG_ACCESS (R387). -/
def execRegAccess (h : ZHdr) (write : Bool) (off : BitVec 21) (v : Word) (s : State) : Host.Outcome State Fault Refusal :=
  .next (regAccess h write off.toNat v s)

end Sys2Proof.Machine
end

