-- ==== Sys2Proof/Machine/Dispatch.lean ====
section
/-! DEFINITION. One arm per command: the call of its meaning. -/

namespace Sys2Proof.Machine

def exec (i : Instr) (s : State) : Host.Outcome State Fault Refusal :=
  match i with
  | .rwiWrite who off v => Sys2Proof.Machine.execRwiWrite who off v s
  | .rwiCompanionWrite who off v => Sys2Proof.Machine.execRwiCompanionWrite who off v s
  | .rwiWindowExpiry who off => Sys2Proof.Machine.execRwiWindowExpiry who off s
  | .regWrite who off v => Sys2Proof.Machine.execRegWrite who off v s
  | .busAccess n priv kind addr data len posted ecc => Sys2Proof.Machine.execBusAccess n priv kind addr data len posted s ecc
  | .mpuBarrierRead n => Sys2Proof.Machine.execMpuBarrierRead n s
  | .mpuBarrierDrained n => Sys2Proof.Machine.execMpuBarrierDrained n s
  | .mpuBarrierTimeout n => Sys2Proof.Machine.execMpuBarrierTimeout n s
  | .freqMonitorWindow c => Sys2Proof.Machine.execFreqMonitorWindow c s
  | .pwrEnvelopeWrite who v => Sys2Proof.Machine.execPwrEnvelopeWrite who v s
  | .envelopeTransition => Sys2Proof.Machine.execEnvelopeTransition s
  | .pitchCreate h v => Sys2Proof.Machine.execPitchCreate h v s
  | .pitchDelete h => Sys2Proof.Machine.execPitchDelete h s
  | .pitchDeleteDrained p => Sys2Proof.Machine.execPitchDeleteDrained p s
  | .pitchFreed p => Sys2Proof.Machine.execPitchFreed p s
  | .pitchSuspend who v => Sys2Proof.Machine.execPitchSuspend who v s
  | .pitchResume who v => Sys2Proof.Machine.execPitchResume who v s
  | .pitQuotaReserveWrite who reserve v => Sys2Proof.Machine.execPitQuotaReserveWrite who reserve v s
  | .cacheShareChange who v => Sys2Proof.Machine.execCacheShareChange who v s
  | .pitWinCommit who v => Sys2Proof.Machine.execPitWinCommit who v s
  | .pitBlkOwnerWrite who v => Sys2Proof.Machine.execPitBlkOwnerWrite who v s
  | .functionLevelReset port fn => Sys2Proof.Machine.execFunctionLevelReset port fn s
  | .d3hotEntry port fn => Sys2Proof.Machine.execD3hotEntry port fn s
  | .dlDown port => Sys2Proof.Machine.execDlDown port s
  | .busMasterEnableSet port fn => Sys2Proof.Machine.execBusMasterEnableSet port fn s
  | .perstAssert port => Sys2Proof.Machine.execPerstAssert port s
  | .configRequest port fn write reg v => Sys2Proof.Machine.execConfigRequest port fn write reg v s
  | .ideIntegrityFail port stream => Sys2Proof.Machine.execIdeIntegrityFail port stream s
  | .ideKm port stream => Sys2Proof.Machine.execIdeKm port stream s
  | .getVersion port => Sys2Proof.Machine.execGetVersion port s
  | .getCapabilities port => Sys2Proof.Machine.execGetCapabilities port s
  | .negotiateAlgorithms port offered => Sys2Proof.Machine.execNegotiateAlgorithms port offered s
  | .getDigests port => Sys2Proof.Machine.execGetDigests port s
  | .getCertificate port slot => Sys2Proof.Machine.execGetCertificate port slot s
  | .challenge port nonce => Sys2Proof.Machine.execChallenge port nonce s
  | .getMeasurements port signed nonce => Sys2Proof.Machine.execGetMeasurements port s signed nonce
  | .keyExchange port exchange => Sys2Proof.Machine.execKeyExchange port exchange s
  | .finish port verify => Sys2Proof.Machine.execFinish port verify s
  | .heartbeat port => Sys2Proof.Machine.execHeartbeat port s
  | .keyUpdate port all => Sys2Proof.Machine.execKeyUpdate port s all
  | .endSession port => Sys2Proof.Machine.execEndSession port s
  | .bindWrite who v => Sys2Proof.Machine.execBindWrite who v s
  | .rqeWake who v => Sys2Proof.Machine.execRqeWake who v s
  | .sweepStart port => Sys2Proof.Machine.execSweepStart port s
  | .doorbellRecordReadDone p sq r => Sys2Proof.Machine.execDoorbellRecordReadDone p sq r s
  | .sqeDataArrival p sq sqe => Sys2Proof.Machine.execSqeDataArrival p sq sqe s
  | .ringCreate who v r => Sys2Proof.Machine.execRingCreate who v r s
  | .ringDelete who v => Sys2Proof.Machine.execRingDelete who v s
  | .ringReset who v r => Sys2Proof.Machine.execRingReset who v r s
  | .cqAdopt who v => Sys2Proof.Machine.execCqAdopt who v s
  | .orphanTimeout p => Sys2Proof.Machine.execOrphanTimeout p s
  | .orphanTimeoutWrite who v => Sys2Proof.Machine.execOrphanTimeoutWrite who v s
  | .coalesceTimer p => Sys2Proof.Machine.execCoalesceTimer p s
  | .msixUnmask port fn vec => Sys2Proof.Machine.execMsixUnmask port fn vec s
  | .keyImportBlock e env => Sys2Proof.Machine.execKeyImportBlock e env s
  | .keyExportBlock e env => Sys2Proof.Machine.execKeyExportBlock e env s
  | .keyGenerateSym e env => Sys2Proof.Machine.execKeyGenerateSym e env s
  | .keyCheckValue e env => Sys2Proof.Machine.execKeyCheckValue e env s
  | .keyTranslateBlock e env => Sys2Proof.Machine.execKeyTranslateBlock e env s
  | .keyCacheEvict e env => Sys2Proof.Machine.execKeyCacheEvict e env s
  | .pinTranslate e env => Sys2Proof.Machine.execPinTranslate e env s
  | .pinVerifyOffset e env => Sys2Proof.Machine.execPinVerifyOffset e env s
  | .pinVerifyPvv e env => Sys2Proof.Machine.execPinVerifyPvv e env s
  | .pinGenerateOffset e env => Sys2Proof.Machine.execPinGenerateOffset e env s
  | .cvcGenerate e env => Sys2Proof.Machine.execCvcGenerate e env s
  | .cvcVerify e env => Sys2Proof.Machine.execCvcVerify e env s
  | .arqcVerify e env => Sys2Proof.Machine.execArqcVerify e env s
  | .arqcVerifyArpc e env => Sys2Proof.Machine.execArqcVerifyArpc e env s
  | .emvScriptProtect e env => Sys2Proof.Machine.execEmvScriptProtect e env s
  | .macGenerate e env => Sys2Proof.Machine.execMacGenerate e env s
  | .macVerify e env => Sys2Proof.Machine.execMacVerify e env s
  | .macTranslate e env => Sys2Proof.Machine.execMacTranslate e env s
  | .dukptDecryptData e env => Sys2Proof.Machine.execDukptDecryptData e env s
  | .dukptPinTranslate e env => Sys2Proof.Machine.execDukptPinTranslate e env s
  | .dukptMacVerify e env => Sys2Proof.Machine.execDukptMacVerify e env s
  | .dukptInitialKey e env => Sys2Proof.Machine.execDukptInitialKey e env s
  | .dkcWalkerDone w ecc => Sys2Proof.Machine.execDkcWalkerDone w s ecc
  | .tokenEncrypt e env => Sys2Proof.Machine.execTokenEncrypt e env s
  | .tokenDecrypt e env => Sys2Proof.Machine.execTokenDecrypt e env s
  | .cipherEncrypt e env => Sys2Proof.Machine.execCipherEncrypt e env s
  | .cipherDecrypt e env => Sys2Proof.Machine.execCipherDecrypt e env s
  | .aeadEncrypt e env => Sys2Proof.Machine.execAeadEncrypt e env s
  | .aeadDecrypt e env => Sys2Proof.Machine.execAeadDecrypt e env s
  | .hash e env => Sys2Proof.Machine.execHash e env s
  | .keyedHash e env => Sys2Proof.Machine.execKeyedHash e env s
  | .cipherContext e env => Sys2Proof.Machine.execCipherContext e env s
  | .pkSign e env => Sys2Proof.Machine.execPkSign e env s
  | .pkVerify e env => Sys2Proof.Machine.execPkVerify e env s
  | .pkAgree e env => Sys2Proof.Machine.execPkAgree e env s
  | .rsaDecrypt e env => Sys2Proof.Machine.execRsaDecrypt e env s
  | .pkGenerate e env => Sys2Proof.Machine.execPkGenerate e env s
  | .kemEncaps e env => Sys2Proof.Machine.execKemEncaps e env s
  | .kemDecaps e env => Sys2Proof.Machine.execKemDecaps e env s
  | .pqSign e env => Sys2Proof.Machine.execPqSign e env s
  | .pqVerify e env => Sys2Proof.Machine.execPqVerify e env s
  | .remoteKeyReceive e env => Sys2Proof.Machine.execRemoteKeyReceive e env s
  | .remoteKeySend e env => Sys2Proof.Machine.execRemoteKeySend e env s
  | .echo e env => Sys2Proof.Machine.execEcho e env s
  | .random e env => Sys2Proof.Machine.execRandom e env s
  | .pitchStatus e env => Sys2Proof.Machine.execPitchStatus e env s
  | .recipeSetSwitch set => Sys2Proof.Machine.execRecipeSetSwitch set s
  | .engineRequest core lattice handover => Sys2Proof.Machine.execEngineRequest core lattice handover s
  | .engineOpComplete lattice eng => Sys2Proof.Machine.execEngineOpComplete lattice eng s
  | .signCheckDone lattice eng pass => Sys2Proof.Machine.execSignCheckDone lattice eng pass s
  | .engineFault lattice eng => Sys2Proof.Machine.execEngineFault lattice eng s
  | .dispatchLoad core => Sys2Proof.Machine.execDispatchLoad core s
  | .dispatchTimeout core => Sys2Proof.Machine.execDispatchTimeout core s
  | .commandEnqueue e => Sys2Proof.Machine.execCommandEnqueue e s
  | .hrdGo core v => Sys2Proof.Machine.execHrdGo core v s
  | .hrdDone core r => Sys2Proof.Machine.execHrdDone core r s
  | .commandComplete core v ecc => Sys2Proof.Machine.execCommandComplete core v s ecc
  | .coreException core => Sys2Proof.Machine.execCoreException core s
  | .coreWatchdog core => Sys2Proof.Machine.execCoreWatchdog core s
  | .coreDrain who v => Sys2Proof.Machine.execCoreDrain who v s
  | .coreReload who v => Sys2Proof.Machine.execCoreReload who v s
  | .coreLoadTimeout core => Sys2Proof.Machine.execCoreLoadTimeout core s
  | .coreDrainDmaTimeout core => Sys2Proof.Machine.execCoreDrainDmaTimeout core s
  | .persMaskWrite who v => Sys2Proof.Machine.execPersMaskWrite who v s
  | .liveUpdateStart who v => Sys2Proof.Machine.execLiveUpdateStart who v s
  | .histClear who v => Sys2Proof.Machine.execHistClear who v s
  | .dmaStart who ch priv => Sys2Proof.Machine.execDmaStart who ch priv s
  | .dmaHalt who ch => Sys2Proof.Machine.execDmaHalt who ch s
  | .dmaBurstComplete ch r => Sys2Proof.Machine.execDmaBurstComplete ch r s
  | .dmaRetryTimer ch => Sys2Proof.Machine.execDmaRetryTimer ch s
  | .dmaDescriptorEnd ch => Sys2Proof.Machine.execDmaDescriptorEnd ch s
  | .mbxLockRead who m => Sys2Proof.Machine.execMbxLockRead who m s
  | .mbxLockRelease who m v => Sys2Proof.Machine.execMbxLockRelease who m v s
  | .mbxMsgWrite who m word v => Sys2Proof.Machine.execMbxMsgWrite who m word v s
  | .mbxDbSet who m v => Sys2Proof.Machine.execMbxDbSet who m v s
  | .mbxDbClear who m v => Sys2Proof.Machine.execMbxDbClear who m v s
  | .mbxAck who m v => Sys2Proof.Machine.execMbxAck who m v s
  | .mbxForce who m v => Sys2Proof.Machine.execMbxForce who m v s
  | .nonceGet h => Sys2Proof.Machine.execNonceGet h s
  | .attest h => Sys2Proof.Machine.execAttest h s
  | .regAccess h write off v => Sys2Proof.Machine.execRegAccess h write off v s
  | .pitchConfig h v => Sys2Proof.Machine.execPitchConfig h v s
  | .pmkLoad h b => Sys2Proof.Machine.execPmkLoad h b s
  | .pmkClear h entry => Sys2Proof.Machine.execPmkClear h entry s
  | .rosterSet h r => Sys2Proof.Machine.execRosterSet h r s
  | .exportAuth h seconds count => Sys2Proof.Machine.execExportAuth h seconds count s
  | .exportAuthExpiry p => Sys2Proof.Machine.execExportAuthExpiry p s
  | .attrWiden h slot attrs => Sys2Proof.Machine.execAttrWiden h slot attrs s
  | .fwStage h img => Sys2Proof.Machine.execFwStage h img s
  | .fwAccept h => Sys2Proof.Machine.execFwAccept h s
  | .lcsTransition h target c => Sys2Proof.Machine.execLcsTransition h target c s
  | .fuseBurnDone verified => Sys2Proof.Machine.execFuseBurnDone verified s
  | .waferTestTransition c => Sys2Proof.Machine.execWaferTestTransition c s
  | .manufacturingTransition certWritten => Sys2Proof.Machine.execManufacturingTransition certWritten s
  | .jtagScrap t c => Sys2Proof.Machine.execJtagScrap t c s
  | .reintegrate h declaredMs version => Sys2Proof.Machine.execReintegrate h declaredMs version s
  | .zeroise h => Sys2Proof.Machine.execZeroise h s
  | .tamperClass h bank v => Sys2Proof.Machine.execTamperClass h bank v s
  | .tamperFuse h source disable cls c => Sys2Proof.Machine.execTamperFuse h source disable cls c s
  | .fuseRepair h c => Sys2Proof.Machine.execFuseRepair h c s
  | .ownerRotate h keyHash c => Sys2Proof.Machine.execOwnerRotate h keyHash c s
  | .tallyRead h first count => Sys2Proof.Machine.execTallyRead h first count s
  | .tallyClear h => Sys2Proof.Machine.execTallyClear h s
  | .nonceExpiry nonce => Sys2Proof.Machine.execNonceExpiry nonce s
  | .ownClaim who v => Sys2Proof.Machine.execOwnClaim who v s
  | .claimVerified c => Sys2Proof.Machine.execClaimVerified c s
  | .handoverStart who v => Sys2Proof.Machine.execHandoverStart who v s
  | .ownerRelease who v => Sys2Proof.Machine.execOwnerRelease who v s
  | .handoverCancel who v => Sys2Proof.Machine.execHandoverCancel who v s
  | .handoverTimeout => Sys2Proof.Machine.execHandoverTimeout s
  | .i3cLinkSilence => Sys2Proof.Machine.execI3cLinkSilence s
  | .ownerLinkLoss => Sys2Proof.Machine.execOwnerLinkLoss s
  | .churnRemask fault => Sys2Proof.Machine.execChurnRemask s fault
  | .churnLagTimer => Sys2Proof.Machine.execChurnLagTimer s
  | .slotRestoreDone slot ok => Sys2Proof.Machine.execSlotRestoreDone slot ok s
  | .eraseOverwriteDone => Sys2Proof.Machine.execEraseOverwriteDone s
  | .eraseRestartDone katFailed => Sys2Proof.Machine.execEraseRestartDone s katFailed
  | .journalFlushTimer => Sys2Proof.Machine.execJournalFlushTimer s
  | .journalWriteDone => Sys2Proof.Machine.execJournalWriteDone s
  | .cacheFlush who dkc v => Sys2Proof.Machine.execCacheFlush who dkc v s
  | .cacheSweepDone dkc => Sys2Proof.Machine.execCacheSweepDone dkc s
  | .tamperQualify source => Sys2Proof.Machine.execTamperQualify source s
  | .tamperConditionClear source => Sys2Proof.Machine.execTamperConditionClear source s
  | .holdRelease source => Sys2Proof.Machine.execHoldRelease source s
  | .qualWindowClose => Sys2Proof.Machine.execQualWindowClose s
  | .meshCompare mismatch => Sys2Proof.Machine.execMeshCompare mismatch s
  | .encSample level => Sys2Proof.Machine.execEncSample level s
  | .sensorSample sensor celsius => Sys2Proof.Machine.execSensorSample sensor celsius s
  | .batteryAlarm source ticks celsius millivolt joins => Sys2Proof.Machine.execBatteryAlarm source ticks celsius millivolt joins s
  | .vbatApply => Sys2Proof.Machine.execVbatApply s
  | .coldStart env => Sys2Proof.Machine.execColdStart env s
  | .warmStart env => Sys2Proof.Machine.execWarmStart env s
  | .secWatchdog => Sys2Proof.Machine.execSecWatchdog s
  | .startStepFail step noImage => Sys2Proof.Machine.execStartStepFail step noImage s
  | .startReady => Sys2Proof.Machine.execStartReady s
  | .supplyWarning rail millivolt => Sys2Proof.Machine.execSupplyWarning rail millivolt s
  | .quietReadyClear => Sys2Proof.Machine.execQuietReadyClear s
  | .quietExit lowest => Sys2Proof.Machine.execQuietExit lowest s
  | .railReset rail => Sys2Proof.Machine.execRailReset rail s
  | .pwrfailAssert => Sys2Proof.Machine.execPwrfailAssert s
  | .pwrfailDeassertTimer => Sys2Proof.Machine.execPwrfailDeassertTimer s
  | .governorSample milliwatt => Sys2Proof.Machine.execGovernorSample milliwatt s
  | .calibrationStart who v => Sys2Proof.Machine.execCalibrationStart who v s
  | .calibrationDone code => Sys2Proof.Machine.execCalibrationDone code s
  | .bistInterval powerOk => Sys2Proof.Machine.execBistInterval powerOk s
  | .bistRegionTake region => Sys2Proof.Machine.execBistRegionTake region s
  | .bistRegionDone region result => Sys2Proof.Machine.execBistRegionDone region result s
  | .standbyKat failed => Sys2Proof.Machine.execStandbyKat failed s
  | .entropyTestFail src apt count => Sys2Proof.Machine.execEntropyTestFail src apt s count
  | .entropyStartupDone src kat run equal => Sys2Proof.Machine.execEntropyStartupDone src kat s run equal
  | .entropyRetry src => Sys2Proof.Machine.execEntropyRetry src s
  | .seedBlockReady src katOk => Sys2Proof.Machine.execSeedBlockReady src s katOk
  | .drbgReseed inst => Sys2Proof.Machine.execDrbgReseed inst s
  | .drbgSeedTimeout inst => Sys2Proof.Machine.execDrbgSeedTimeout inst s
  | .pairLinkUp width peerNonce => Sys2Proof.Machine.execPairLinkUp width peerNonce s
  | .pairOffer o => Sys2Proof.Machine.execPairOffer o s
  | .pairResponse ciphertext sigP384 sigMldsa => Sys2Proof.Machine.execPairResponse ciphertext sigP384 sigMldsa s
  | .keepAliveSend => Sys2Proof.Machine.execKeepAliveSend s
  | .pairLinkDown => Sys2Proof.Machine.execPairLinkDown s
  | .healthFrame => Sys2Proof.Machine.execHealthFrame s
  | .witGrantQualify => Sys2Proof.Machine.execWitGrantQualify s
  | .takeoverClaimTimeout => Sys2Proof.Machine.execTakeoverClaimTimeout s
  | .peerClaimClear => Sys2Proof.Machine.execPeerClaimClear s
  | .peerClaimAssert => Sys2Proof.Machine.execPeerClaimAssert s
  | .witGrantLoss => Sys2Proof.Machine.execWitGrantLoss s
  | .mirrorEpochClose => Sys2Proof.Machine.execMirrorEpochClose s
  | .skimReceive k => Sys2Proof.Machine.execSkimReceive k s
  | .skimAck epoch csn role flags => Sys2Proof.Machine.execSkimAck epoch csn role flags s
  | .ackTimeout => Sys2Proof.Machine.execAckTimeout s
  | .soloWaitExpiry => Sys2Proof.Machine.execSoloWaitExpiry s
  | .resyncReceive records last => Sys2Proof.Machine.execResyncReceive records last s
  | .yield who v => Sys2Proof.Machine.execYield who v s
  | .yieldDrainExpiry => Sys2Proof.Machine.execYieldDrainExpiry s
  | .tallyFlushTimer => Sys2Proof.Machine.execTallyFlushTimer s
  | .tallyFlushDone => Sys2Proof.Machine.execTallyFlushDone s
  | .tallyPageRetry flash ok => Sys2Proof.Machine.execTallyPageRetry flash ok s
  | .tailEraseDone => Sys2Proof.Machine.execTailEraseDone s
  | .tokenRefill => Sys2Proof.Machine.execTokenRefill s
  | .tallyFetch who v => Sys2Proof.Machine.execTallyFetch who v s
  | .tallyFetchDone who => Sys2Proof.Machine.execTallyFetchDone who s
  | .eventClaim who => Sys2Proof.Machine.execEventClaim who s
  | .hostPendingClear who n v => Sys2Proof.Machine.execHostPendingClear who n v s
  | .sqeReadFailed p sq why => Sys2Proof.Machine.execSqeReadFailed p sq s why
  | .pcieLinkUp port => Sys2Proof.Machine.execPcieLinkUp port s
  | .flrComplete port fn => Sys2Proof.Machine.execFlrComplete port fn s
  | .d3hotExit port fn => Sys2Proof.Machine.execD3hotExit port fn s
  | .busMasterEnableClear port fn => Sys2Proof.Machine.execBusMasterEnableClear port fn s
  | .railResume rail => Sys2Proof.Machine.execRailResume rail s
  | .vbatLoss => Sys2Proof.Machine.execVbatLoss s
  | .standbyLinkTimeout => Sys2Proof.Machine.execStandbyLinkTimeout s
  | .pairRstRelease => Sys2Proof.Machine.execPairRstRelease s
  | .zhoavanFragment who index body => Sys2Proof.Machine.execZhoavanFragment who index body s
  | .unknownMessageType h type => Sys2Proof.Machine.execUnknownMessageType h type s
  | .secondsCounterTick mainPower => Sys2Proof.Machine.execSecondsCounterTick mainPower s
  | .pairImageReceive img => Sys2Proof.Machine.execPairImageReceive img s

end Sys2Proof.Machine
end

