-- ==== Sys2Proof/Machine/Balls.lean ====
section
/-! DEFINITION. The levels of the output balls that follow the state (R408, R479): true is high. -/

namespace Sys2Proof.Machine

/-- A device that may act on its host (R408, R410). -/
def State.acts (s : State) : Bool := s.par.claim || s.par.role = .single

structure Balls where
  role : Bool
  serviceN : Bool
  health : Bool
  alarmN : Bool
  mgmtAlertN : Bool
  actClaimN : Bool
  pairRstN : Bool
  batAlarmN : Bool
  deriving DecidableEq, Repr

/-- The status balls (R479), the claim (R408), the peer's reset (R420) and the battery alarm (R369, R371). -/
def State.balls (s : State) : Balls :=
  { role := s.acts,
    serviceN := !(s.acts && s.ready),
    health := s.ready && !s.bat.latch && !s.degraded,
    alarmN := !(s.tmp.hold || s.bat.latch),
    mgmtAlertN := !((s.own.owner = 0x2E && (s.box 1).db ≠ 0 && (s.box 1).owner ≠ 0x2E) || s.lcsState = 15),
    actClaimN := !s.par.claim,
    pairRstN := !s.par.rstLow,
    batAlarmN := !s.bat.alarm }

end Sys2Proof.Machine
end

