-- ==== Sys2Proof/WellFormed.lean ====
section
/-! DEFINITION. Well-formed commands: the initiator exists (R24), a register offset lies in the map (R31), and a unit is one that the block
has (R11, R288, R347, R448). Everything else that a command may carry is a value that its meaning judges. -/

namespace Sys2Proof

/-- R24: the initiators 0x01 to 0x31, and the 127 virtual functions of each port (R69). -/
def whoOk : Who → Bool
  | .ini n => decide (1 ≤ n.toNat) && decide (n.toNat ≤ 0x31)
  | .vf _ fn => fn ≠ 0

/-- R6: registers are words. -/
def offOk (off : BitVec 21) : Bool := off.toNat % 4 = 0

/-- R11: 24 cores. -/
def coreOk (c : BitVec 5) : Bool := decide (c.toNat < 24)

/-- R11: 26 big-number and 8 lattice engines, spares among them. -/
def engineOk (lattice : Bool) (k : BitVec 5) : Bool := decide (k.toNat < if lattice then 8 else 26)

/-- R448. -/
def regionOk (r : BitVec 7) : Bool := decide (r.toNat < 107)

/-- R347: sources 0 to 47. -/
def sourceOk (n : BitVec 6) : Bool := decide (n.toNat < 48)

/-- R288: instances 0 to 9. -/
def drbgOk (i : BitVec 4) : Bool := decide (i.toNat < 10)

/-- R438: rails 0 to 8. -/
def railOk (r : BitVec 4) : Bool := decide (r.toNat < 9)

/-- R70, R73: the link stream and four selective streams. -/
def streamOk (n : BitVec 3) : Bool := decide (n.toNat < 5)

/-- R348, R349: temperature sensors 0 and 1 and the battery sensor. -/
def sensorOk (n : BitVec 2) : Bool := n ≠ 3

/-- R475: EVC_HPEND0 to 17. -/
def hpendOk (n : BitVec 5) : Bool := decide (n.toNat < 18)

/-- R430: steps 1 to 14. -/
def stepOk (n : BitVec 4) : Bool := decide (1 ≤ n.toNat) && decide (n.toNat ≤ 14)

/-- R426, R448: a region, or 107 + i for DRBG instance i. -/
def katOk (failed : Option (BitVec 7)) : Bool := decide ((failed.getD 0).toNat < 117)

/-- A command that the block can be given. -/
def Instr.wf : Instr → Bool
  | .rwiWrite who off _ => whoOk who && offOk off
  | .rwiCompanionWrite who off _ => whoOk who && offOk off
  | .rwiWindowExpiry who off => whoOk who && offOk off
  | .regWrite who off _ => whoOk who && offOk off
  | .regAccess h _ off _ => whoOk h.sender && offOk off
  | .engineRequest c _ _ => coreOk c
  | .engineOpComplete l k => engineOk l k
  | .signCheckDone l k _ => engineOk l k
  | .engineFault l k => engineOk l k
  | .dispatchLoad c => coreOk c
  | .dispatchTimeout c => coreOk c
  | .hrdGo c _ => coreOk c
  | .hrdDone c _ => coreOk c
  | .commandComplete c _ _ => coreOk c
  | .coreException c => coreOk c
  | .coreWatchdog c => coreOk c
  | .coreLoadTimeout c => coreOk c
  | .coreDrainDmaTimeout c => coreOk c
  | .ideIntegrityFail _ n => streamOk n
  | .ideKm _ n => streamOk n
  | .tamperQualify n => sourceOk n
  | .tamperConditionClear n => sourceOk n
  | .holdRelease n => sourceOk n
  | .tamperFuse _ n _ _ _ => sourceOk n
  | .sensorSample n _ => sensorOk n
  | .startStepFail n _ => stepOk n
  | .supplyWarning r _ => railOk r
  | .railReset r => railOk r
  | .railResume r => railOk r
  | .bistRegionTake r => regionOk r
  | .bistRegionDone r _ => regionOk r
  | .standbyKat f => katOk f
  | .drbgReseed i => drbgOk i
  | .drbgSeedTimeout i => drbgOk i
  | .hostPendingClear who n _ => whoOk who && hpendOk n
  | _ => true

end Sys2Proof
end

