-- ==== Sys2Proof/Safety.lean ====
section
/-! DEFINITION. What a safe step is, the invariants of the state, and the words in which the statements are written. -/

namespace Sys2Proof.Safety

open Sys2Proof.Machine

/-- A command ends in a next state. -/
def Completes (c : Instr) (s : State) : Prop := ∃ t, exec c s = .next t

/-- The internal memory keeps its canonical form: addresses strictly rising, nothing listed that reads as unlisted (log entry 2). -/
abbrev MemInv (s : State) : Prop := Memory.wf s.imem = true

/-- R8, R9: the stored inverse of every inverted-shadow register is the inverse of its committed value. -/
def RwiInv (s : State) : Prop := ∀ r : RwiReg, (s.rwiGet r).inv = ~~~(s.rwiGet r).val

/-- A record of a limited code enters the tally buffer: a token is there, and fewer than 224 entries are occupied (R463, R465). -/
abbrev Room (code : Nat) (s : State) : Prop := s.tly.missing.get 0 code < 32 ∧ s.tly.buffer.length < 224

/-- A record of an exempt code enters the tally buffer (R463). -/
abbrev ExemptRoom (s : State) : Prop := s.tly.buffer.length < 256

/-- The tally buffer has taken a record with the next number (R459, R462). -/
def Recorded (s t : State) (code : BitVec 16) (payload : Bytes) : Prop :=
  ∃ r ∈ t.tly.buffer, r.number = s.tly.next ∧ r.code = code ∧ r.payload = padTo 32 payload

/-- A source is routed to the security controller (R471, R472). -/
abbrev Routed (src : Nat) (s : State) : Prop := (s.evc.routes.get {} src).sec = true

/-- The event of a source is pending at the security controller (R471). -/
abbrev Pends (src : Nat) (t : State) : Prop := src ∈ t.evc.pend.get [] 24

/-- Who may write the PIT block, over a link that is not cut, where the device is no standby (R58, R73, R411). -/
abbrev PitMay (s : State) (who : Who) : Prop :=
  (s.isOwner who = true ∨ isSec who = true) ∧ s.hostCut who = false ∧ s.par.role ≠ .standby ∧ s.par.role ≠ .syncing

/-- Who may write an inverted-shadow register, and the state of its pitch or region that a write needs (R58, R63, R64, R73, R314, R372,
R411). -/
def RwiMay (s : State) (who : Who) : RwiReg → Prop
  | .pitCfg _ => PitMay s who ∧ (s.pitch (s.selPitch who)).state ≠ .free
  | .pers _ => PitMay s who
  | .mpuPerm k => isSec who = true ∧ 1 ≤ k / 32 ∧ k / 32 ≤ 0x31
  | .tmpClass b => isSec who = true ∧ b < 3
  | _ => isSec who = true

/-! ## What an effect may change beside its own part -/

/-- `s` with what an event changes taken from `t`: pending bits, PBA bits, messages sent (R471 to R473). -/
def withEvents (s t : State) : State :=
  { s with evc := { s.evc with pend := t.evc.pend, ovf := t.evc.ovf, heldRaises := t.evc.heldRaises },
           rqe := { s.rqe with fns := t.rqe.fns }, out := t.out }

/-- Also with what a tally record changes (R458 to R466). -/
def withNotes (s t : State) : State := { withEvents s t with tly := t.tly }

/-- Also with what a commit changes: the CSN, the journal and the flashes, the open skim (R110, R311, R414). -/
def withSeals (s t : State) : State :=
  { withNotes s t with
      csn := t.csn, par := { s.par with records := t.par.records },
      kst := { s.kst with journal := t.kst.journal, writing := t.kst.writing, flash0 := t.kst.flash0, flash1 := t.kst.flash1,
                          lastCsn := t.kst.lastCsn } }

/-- Also with what every Zhoavan message changes: mailbox 0's acknowledge, the message in assembly, the nonces, the state of the I3C
link, and the PIT error of its sender (R385, R390, R491). -/
def withMessage (s t : State) : State :=
  { withSeals s t with
      mbx := t.mbx, pit := { s.pit with sel := t.pit.sel },
      own := { s.own with fragment := t.own.fragment, ceremonies := t.own.ceremonies, i3cSilent := t.own.i3cSilent } }

/-! ## Rings -/

/-- Every SQ of these functions of a port is DRAINING, or FREE with nothing in flight, and every ACTIVE CQ of them is ORPHAN (R78). -/
def Stopped (s t : State) (port : Port) (fns : BitVec 7 → Bool) : Prop :=
  (∀ p i, i < 4 → (s.sq p i).state ≠ .free → (s.sq p i).port = port → fns (s.sq p i).fn = true →
      (t.sq p i).state = .draining ∨ (t.sq p i).state = .free)
    ∧ (∀ p, (s.cq p).state = .active → (s.cq p).port = port → fns (s.cq p).fn = true → (t.cq p).state = .orphan)

/-! ## Registers -/

/-- Selector registers of the tables of spec/, with the width of their field (R63, R172, R233, R259, R294, R314,
R326, R330). -/
def selectors : List (BitVec 21 × Nat) :=
  [(0x030000, 12), (0x030040, 3), (0x030080, 12), (0x040010, 5), (0x040044, 5), (0x04004C, 12), (0x050000, 5), (0x09001C, 18),
   (0x0A0000, 12), (0x0B0000, 12), (0x0D0008, 5), (0x0F0004, 5), (0x100008, 3), (0x110004, 2), (0x110010, 4)]

/-! ## Zhoavan messages -/

/-- A message that is taken: from the owner, in full service, and no erase's record has closed the CSN (R309, R386, R437). -/
abbrev Taken (s : State) (h : ZHdr) : Prop := s.isOwner h.sender = true ∧ s.csnClosed = false ∧ s.glb.minimal = false

/-- A message that is carried out: taken in a role that serves, with the store open (R148, R386). -/
abbrev Carried (s : State) (h : ZHdr) : Prop := Taken s h ∧ s.carriesOut = true ∧ s.kst.opened = true

/-- A gated message whose nonce lives and whose quorum holds; the tally has room (R389, R390). -/
def Gated (s : State) (ty : BitVec 16) (h : ZHdr) (house : Bool) : Prop :=
  Carried s h ∧ ExemptRoom s ∧ (s.nonceFor h).isSome = true
    ∧ ∃ r, s.rosterFor house h.target = some r ∧ quorumOk r (zhDigest ty h) h.sigs = true

/-- The last thing sent is the reply of a message. -/
def Replied (t : State) (ty : BitVec 16) (h : ZHdr) (status : BitVec 16) (b : Bytes) : Prop :=
  t.out.getLast? = some (.zreply ty h.target h.seq status b)

/-- Instance 9 serves, and is far from its reseed (R288). -/
abbrev Draws (s : State) : Prop := (s.drbg 9).state = 1 ∧ (s.drbg 9).since < 65000

/-- Gated messages that write slots, and wait while such writes are deferred (R304, R311). -/
def storeMessages : List (BitVec 16) := [0x0020, 0x0021, 0x0024]

/-- The gated messages and their types, and whether the house roster gates them (R387, R389). -/
def gatedMessages (h : ZHdr) (v : PitchValues) (b : PmkBody) (n : Nat) (slot : BitVec 18) (attrs : BitVec 128)
    (c : BurnConditions) (k : Bytes) : List (BitVec 16 × Bool × Instr) :=
  [(0x0010, true, .pitchCreate h v), (0x0011, true, .pitchDelete h), (0x0020, false, .pmkLoad h b), (0x0021, false, .pmkClear h n),
   (0x0023, false, .exportAuth h n n), (0x0024, false, .attrWiden h slot attrs), (0x0040, true, .lcsTransition h 3 c),
   (0x0042, true, .zeroise h), (0x0044, true, .tamperFuse h 6 true 0 c), (0x0046, true, .ownerRotate h k c), (0x0051, true, .tallyClear h)]

/-- A pitch that serves: ACTIVE or SUSPENDED. -/
abbrev Serving (s : State) (p : Nat) : Prop := (s.pitch p).state = .active ∨ (s.pitch p).state = .suspended

/-! ## Commands of the rings -/

/-- A command of the tracker as its opcode sees it. -/
def runOf (e : BitVec 17) (env : CmdEnv) (x : Entry) : Run :=
  { e := e.toNat, x := x, p := x.pitch.toNat, env := env, recipe := decide (x.phase = .admitted) }

/-- Entry `e` holds the command `x` of this opcode, which runs now: in its recipe context or on its core, with no wait, and with neither a
memory error nor a failed comparison nor a broken recipe in its way (R18, R91, R132, R139 to R141, R143, R144, R424). -/
abbrev Runs (s : State) (e : BitVec 17) (env : CmdEnv) (op : Nat) (x : Entry) : Prop :=
  s.entry e.toNat = some x ∧ x.replayWait = false ∧ s.runsNow x op = true ∧ env.ecc = none ∧ env.dupFail = false ∧ env.twinFail = none
    ∧ (decide (x.phase = .admitted) && s.recipeBroken x env.steps) = false

/-- And no hardware erase took the keys (check 4 of R128). -/
abbrev Ready (s : State) (e : BitVec 17) (env : CmdEnv) (op : Nat) (x : Entry) : Prop := Runs s e env op x ∧ s.bat.latch = false

/-- The form of the SQE passes check 1 of R128: its references are `refs`, its flags are among those of the opcode, unused bytes are 0,
and inline blocks lie apart. -/
abbrev Formed (x : Entry) (flags : Nat) (forms : List RefForm) (used : List (Nat × Nat)) (refs : List Ref) : Prop :=
  readRefs x.sqe forms = some refs ∧ x.flagBits &&& flags = x.flagBits ∧ placementOk used refs = true
    ∧ unusedZero x.sqe (used ++ carriedAreas refs) = true

/-- The data buffer of the command reads as `d`, over a port whose stream is not cut (R73, R98). -/
abbrev Input (s : State) (x : Entry) (env : CmdEnv) (d : Bytes) : Prop :=
  d.length = x.dataLen ∧ (d = [] ∨ s.hostRead x.port env.data = .data d)

/-- Checks 5 to 10 of R128 capture a key that is fit for the opcode; `u` is the state with what the lookup counted and kept. -/
def Finds (r : Run) (ref : Ref) (need : Key → Bool) (s : State) (k : Key) (u : State) : Prop :=
  (captureOne r ref need).run s = (.ok k, u)

/-- The same for one key of key_ref_a that is never a block, with what check 9 asks of it beside. -/
def FindsOne (r : Run) (ref : Ref) (need also : Key → Bool) (s : State) (k : Key) (u : State) : Prop :=
  (capture r [⟨ref, .data [], need⟩] (fun l => l.all fun k => match k with | some k => also k | none => true)).run s = (.ok [some k], u)

/-- The same for the keys of key_ref_a and key_ref_b, and what is asked of both together. -/
def FindsBoth (r : Run) (a b : Ref) (needA needB : Key → Bool) (also : Key → Key → Bool) (s : State) (k l : Key) (u : State) : Prop :=
  (captureTwo r a b needA needB also).run s = (.ok (k, l), u)

/-- A key that check 9 passes for any use: its row, its world, its owner, its strength, its counter (R56, R128, R156, R160, R164). -/
abbrev Usable (r : Run) (ctrOk : Bool) (k : Key) : Prop :=
  rowOk k.attr.use k.attr.alg k.attr.mode = true ∧ lenOk k.attr.use k.attr.alg k.attr.mode k.attr.len = true
    ∧ k.attr.world.testBit r.world = true
    ∧ k.attr.owner = r.p ∧ k.weak = false ∧ (k.attr.ctrKind = 0 ∨ k.slot.isSome = true ∨ ctrOk = true)

/-- And check 10, its lifecycle mask. -/
abbrev Allowed (s : State) (r : Run) (ctrOk : Bool) (k : Key) : Prop := Usable r ctrOk k ∧ k.attr.life.testBit (s.lcsState - 1) = true

/-- The DRBG of the lanes serves (R235). -/
abbrev Lanes (s : State) : Prop := (s.drbg 6).state ≠ 2

/-- The command comes to this answer, DONE unless the answer has a status, and what else it did is in `u` (R132, R262, R321). -/
def Ends (c : Instr) (s : State) (e : BitVec 17) (x : Entry) (a : Ans) (u : State) : Prop :=
  exec c s = .next (conclude e.toNat (decide (x.phase = .admitted)) a.status a 0 u)

/-- The command is refused with a status and no result. -/
def Refuses (c : Instr) (s : State) (e : BitVec 17) (x : Entry) (status : BitVec 16) (u : State) : Prop :=
  exec c s = .next (conclude e.toNat (decide (x.phase = .admitted)) status {} 0 u)

/-- The state after capture: the keys stand in the tracker entry (R166). -/
def kept (e : Nat) (l : List (Option (Key × Nat))) (s : State) : State :=
  s.updEntry e fun x => { x with captured := some (l.map fun k => k.map fun y => y.1.keep y.2) }

/-- The fresh bytes of a PIN block of a format, and the state after them (R182). -/
def pinBytes (r : Run) (fmt : Nat) (u : State) : Bytes := if fmt = 0 then [] else u.drbgOut r.drbg (if fmt = 3 then 32 else 8)
def pinDrawn (r : Run) (fmt : Nat) (u : State) : State := if fmt = 0 then u else drbgRequest r.drbg (if fmt = 3 then 32 else 8) u

/-- The instance of its cluster serves where the format needs it. -/
abbrev pinServes (r : Run) (fmt : Nat) (u : State) : Prop := fmt = 0 ∨ (u.drbg r.drbg).state ≠ 2

/-- The data of a cipher command after its context, and the text in it (R240). -/
def bulkRest (b : Bulk) (d : Bytes) : Bytes := if b.ctxIn then d.drop 128 else d
def bulkText (b : Bulk) (d : Bytes) : Bytes :=
  ((bulkRest b d).drop b.aad).take ((bulkRest b d).length - b.aad - (b.parts - (if b.ctxIn then 128 else 0) - b.aad))

/-- Where its chain starts: a fresh message, or the context at the head of its data (R246, R247). -/
def bulkStart (b : Bulk) (k k2 iv : Bytes) (v : Pitch) (d : Bytes) : Option Chain :=
  if b.ctxIn then openCtx b (v.ctxKey.getD []) v.ctxGen.toNat (k ++ k2) (d.take 128) else some (startChain b k k2 iv)

/-- The two keys of XTS: one length, different values (R239). -/
def xtsPair (l : List (Option Key)) : Bool :=
  match l with
  | [some p, some q] => decide (q.attr.alg = p.attr.alg) && decide (q.attr.len = p.attr.len) && decide (q.val ≠ p.val)
  | _ => true

/-- A cipher command past its checks, with its keys and data, its IV, and the value of its counter where the device makes the nonce
(R117, R239 to R245). -/
def BulkReady (op : Nat) (s : State) (e : BitVec 17) (env : CmdEnv) (x : Entry) (b : Bulk) (ka : Key) (k2 iv d : Bytes)
    (inl : BitVec 64) (u w : State) : Prop :=
  Ready s e env op x ∧ b = readBulk x ∧ b.fieldsOk = true ∧ b.parts ≤ x.dataLen ∧ b.lengthsOk (x.dataLen - b.parts) = true
    ∧ (∃ ra rb kb, Formed x (bulkFlags op) [(offA, anyType), (offB, if b.mode = 4 && !b.aead then anyType else [0])] b.used [ra, rb]
        ∧ (capture (runOf e env x) [⟨ra, env.blkA, b.keyOk⟩, ⟨rb, env.blkB, b.keyOk⟩] xtsPair).run s = (.ok [some ka, kb], u)
        ∧ k2 = (kb.map (·.val)).getD [])
    ∧ x.dataLen - b.parts + (if b.aead && b.enc && !b.notFinal then b.tag else 0) + (if b.ctxOut then 128 else 0) ≤ x.resultCap
    ∧ Input w x env d ∧ Lanes w ∧ (b.ctxOut = true → ((lanesUsed true w).drbg x.drbg).state ≠ 2)
    ∧ (b.hw = false ∧ iv = x.bytes 0x50 b.ivLen ∧ inl = 0 ∧ w = u
      ∨ b.hw = true ∧ ∃ v, (spendCounter (runOf e env x) ka).run u = (.ok v, w) ∧ inl = BitVec.ofNat 64 v
        ∧ iv = x.bytes 0x44 4 ++ toBE 8 v ++ (if b.aead then [] else zeros 4))

/-- The context that a cipher command gives back, and the state after its seal (R246); its lanes were granted before (R235). -/
def bulkSaved (r : Run) (b : Bulk) (keys : Bytes) (v : Pitch) (c : Chain) (w : State) : Bytes :=
  if b.ctxOut then sealCtx b (v.ctxKey.getD []) v.ctxGen.toNat ((lanesUsed true w).drbgOut r.drbg 12) keys c else []
def bulkEnd (r : Run) (b : Bulk) (w : State) : State :=
  if b.ctxOut then drbgRequest r.drbg 12 (lanesUsed true w) else lanesUsed true w

/-- The cipher commands by their opcodes. -/
def bulkCommands : List (Nat × (BitVec 17 → CmdEnv → Instr)) :=
  [(0x0701, .cipherEncrypt), (0x0702, .cipherDecrypt), (0x0703, .aeadEncrypt), (0x0704, .aeadDecrypt)]

/-- The BDK of a DUKPT command, captured now or before its wait for a walker (R166, R220). -/
def FindsBdk (r : Run) (k : Ksn) (a : Ref) (s : State) (bdk : Key) (u : State) : Prop := Finds r a (bdkOk k.tdes) s bdk u

/-- The signing key's use counter, where it has one (R245, R424). -/
def SignCount (r : Run) (k : Key) (u : State) (inl : BitVec 64) (w : State) : Prop :=
  k.attr.ctrKind ≠ 1 ∧ inl = 0 ∧ w = u
    ∨ k.attr.ctrKind = 1 ∧ u.replayBusy r.e r.p r.x.sqe = false ∧ u.replayFind r.p r.x.sqe = none
      ∧ ∃ v, (spendCounter r k).run u = (.ok v, w) ∧ inl = BitVec.ofNat 64 v

/-- The random bytes of a signature, and the state after their draw (R277, R284). -/
def SignDraw (inst alg : Nat) (extra : Bytes) (w : State) (rand : Bytes) (y : State) : Prop := (drawSign inst alg extra).run w = (.ok rand, y)

/-- Two engines of a kind are in service (R276). -/
abbrev TwoServe (lattice : Bool) (s : State) : Prop :=
  2 ≤ ((List.range (engCount lattice)).filter fun k => s.engServes lattice k).length

end Sys2Proof.Safety
end

