-- ==== Sys2Proof/Certificates/Slice0/Obligations.lean ====
section
/-! DEFINITION. The statements for the provers, from the numbered rules of the spec. `t = { s with f := t.f, … }` says that every part of
the state but those named is unchanged. -/

open Sys2Proof Sys2Proof.Machine Sys2Proof.Safety

/-! ## The queue and reset -/

/-- A step takes the command at the front of the queue and runs it with the queue's rest. -/
def Obligations.StepRunsFrontCommand : Prop :=
  ∀ (c : Instr) (rest : List Instr) (s : State), s.pending = c :: rest → step s = exec c { s with pending := rest }

/-- On an empty queue one CLK_SEC cycle passes and nothing else (log entry 1: the model's choice). -/
def Obligations.EmptyQueueIdles : Prop :=
  ∀ s : State, s.pending = [] → step s = .next { s with clk := s.clk + 1 }

/-- What the register tables give for reset, and the canonical forms, hold in the reset state. -/
def Obligations.ResetValues : Prop :=
  let s := State.reset
  s.pending = [] ∧ MemInv s ∧ RwiInv s
  ∧ (s.rqe.periodA = 2 ∧ s.rqe.periodB = 2 ∧ s.rqe.orphanMs = 2000)
  ∧ (s.sch.timeoutUs = 1000 ∧ s.sch.ageMs = 50)
  ∧ (s.units.lanCap = 24 ∧ s.units.aptCutoff = 0x320 ∧ s.units.rctCutoff = 0x29)
  ∧ (s.kst.churnPeriod.val = 1 ∧ s.kst.epoch = 0 ∧ s.kst.phase = 0)
  ∧ (s.tmp.holdCfg.val = 0xA ∧ s.tmp.tempLimit.val = 0x7DCE ∧ s.tmp.encCfg.val = 0x80000 ∧ s.tmp.emeshCfg.val = 0)
  ∧ (s.par.epochUs = 10 ∧ s.par.leapLog2 = 20 ∧ s.par.drainUs = 100 ∧ s.par.ackTimeout = 4 ∧ s.par.soloMs = 2)
  ∧ s.bst.rotation = 600 ∧ s.mpu.selIni = 1 ∧ s.lcsState = 2 ∧ s.pwr.bounded = false ∧ s.tly.next = 0

/-- Every command that the block can be given ends in a next state. -/
def Obligations.WellFormedCommandsComplete : Prop :=
  ∀ (c : Instr) (s : State), c.wf = true → Completes c s

/-- R11, R31, R288, R448: a unit that the block does not have stops the model under its name. -/
def Obligations.MissingUnitFaults : Prop :=
  ∀ s : State,
    (∀ e : BitVec 5, 26 ≤ e.toNat → exec (.engineFault false e) s = .fault .noSuchUnit)
    ∧ (∀ c : BitVec 5, 24 ≤ c.toNat → exec (.dispatchLoad c) s = .fault .noSuchUnit)
    ∧ (∀ n : BitVec 6, 48 ≤ n.toNat → exec (.tamperQualify n) s = .fault .noSuchUnit)
    ∧ (∀ r : BitVec 4, 9 ≤ r.toNat → exec (.railReset r) s = .fault .noSuchUnit)
    ∧ (∀ i : BitVec 4, 10 ≤ i.toNat → exec (.drbgReseed i) s = .fault .noSuchUnit)
    ∧ (∀ r : BitVec 7, 107 ≤ r.toNat → exec (.bistRegionTake r) s = .fault .noSuchUnit)

/-- Every step keeps the canonical form of the internal memory. -/
def Obligations.StepKeepsMemoryForm : Prop :=
  ∀ s t : State, MemInv s → step s = .next t → MemInv t

/-! ## Inverted-shadow registers -/

/-- R7, R8: a write of an RWI register waits, replaces an earlier one and restarts the window; the companion write with the exact
inverse within 256 CLK_SEC cycles commits the fields of the value and stores the inverse. No committed value changes before that. -/
def Obligations.RwiCommit : Prop :=
  (∀ (s : State) (who : Who) (off : BitVec 21) (v : Word) (r : RwiReg),
    s.rwiReg who off.toNat = some r → RwiMay s who r →
    ∃ t, exec (.rwiWrite who off v) s = .next t
      ∧ t.rwi.filter (samePending who off.toNat) = [{ who := who, off := off.toNat, sel := 0, value := v, start := s.clk }]
      ∧ (∀ q, t.rwiGet q = s.rwiGet q)
      ∧ t = { s with rwi := t.rwi, tly := t.tly, evc := t.evc, rqe := t.rqe, out := t.out })
  ∧ (∀ (s : State) (who : Who) (off : BitVec 21) (r : RwiReg) (x : RwiPending),
    s.rwiReg who off.toNat = some r → RwiMay s who r →
    s.rwi.find? (samePending who off.toNat) = some x → s.clk ≤ x.start + 256 → s.commitRefusal r x.value = none →
    ∃ t, exec (.rwiCompanionWrite who off (~~~x.value)) s = .next t
      ∧ t.rwiGet r = { val := x.value &&& r.mask, inv := ~~~(x.value &&& r.mask) }
      ∧ t.rwi.filter (samePending who off.toNat) = []
      ∧ (∀ k, r = .mpuPerm k → t.mpu.gen = s.mpu.gen + 1))

/-- R7: a discarded write leaves every committed value, and records an RWI_DISCARD NOTE with the register and reason 2 (not the inverse),
5 (no pending value), 1 (the window expired) or the reason for which the value is not permitted. -/
def Obligations.RwiDiscards : Prop :=
  ∀ (s : State) (who : Who) (off : BitVec 21) (r : RwiReg),
    s.rwiReg who off.toNat = some r → RwiMay s who r → (∀ y ∈ s.rwi, s.lapsed y = false) → Room 0x0102 s →
    (∀ (x : RwiPending) (v : Word), s.rwi.find? (samePending who off.toNat) = some x → v ≠ ~~~x.value →
      ∃ t, exec (.rwiCompanionWrite who off v) s = .next t ∧ (∀ q, t.rwiGet q = s.rwiGet q)
        ∧ t.rwi.filter (samePending who off.toNat) = [] ∧ Recorded s t 0x0102 (toLE 4 off.toNat ++ [2]))
    ∧ (∀ (x : RwiPending) (k : Nat), s.rwi.find? (samePending who off.toNat) = some x → s.commitRefusal r x.value = some k →
      ∃ t, exec (.rwiCompanionWrite who off (~~~x.value)) s = .next t ∧ (∀ q, t.rwiGet q = s.rwiGet q)
        ∧ t.rwi.filter (samePending who off.toNat) = [] ∧ Recorded s t 0x0102 (toLE 4 off.toNat ++ [BitVec.ofNat 8 k]))
    ∧ (∀ v : Word, s.rwi.find? (samePending who off.toNat) = none →
      ∃ t, exec (.rwiCompanionWrite who off v) s = .next t ∧ (∀ q, t.rwiGet q = s.rwiGet q)
        ∧ Recorded s t 0x0102 (toLE 4 off.toNat ++ [5]))
    ∧ (∀ x : RwiPending, s.rwi = [x] → x.who = who → x.off = off.toNat → s.clk = x.start + 256 →
      ∃ t, exec (.rwiWindowExpiry who off) s = .next t ∧ (∀ q, t.rwiGet q = s.rwiGet q) ∧ t.rwi = []
        ∧ Recorded s t 0x0102 (toLE 4 off.toNat ++ [1])
        ∧ t = { s with rwi := [], tly := t.tly, evc := t.evc, rqe := t.rqe, out := t.out })

/-! ## Registers, the bus and the MPUs -/

/-- R6: a REG_WRITE by the security controller of SCH_TIMEOUT, SCH_AGE or a selector register stores the bits of its field, which read back,
and changes nothing else but what a selector write discards (R7); of BST_CFG it stores a rotation in its range. The owner's stores the GPIO
direction and level. The same writes by any other initiator change nothing, as does a write at an offset that is no multiple of 4. -/
def Obligations.RegisterWrites : Prop :=
  (∀ (s : State) (v : Word),
    exec (.regWrite secIni 0x040000 v) s = .next { s with sch := { s.sch with timeoutUs := v.extractLsb' 0 16 } }
    ∧ exec (.regWrite secIni 0x040004 v) s = .next { s with sch := { s.sch with ageMs := v.extractLsb' 0 8 } }
    ∧ (60 ≤ v.toNat % 2 ^ 12 → v.toNat % 2 ^ 12 ≤ 3600 →
        exec (.regWrite secIni 0x170000 v) s = .next { s with bst := { s.bst with rotation := v.extractLsb' 0 12 } })
    ∧ (∀ n : BitVec 6, s.own.owner = n → n ≠ 0 → s.glb.minimal = false → s.hostCut (.ini n) = false →
        (n = 0x2E ∨ n = 0x2F ∨ n = 0x30) →
        exec (.regWrite (.ini n) 0x000080 v) s = .next { s with glb := { s.glb with gpioDir := v.extractLsb' 0 16 } }
        ∧ exec (.regWrite (.ini n) 0x000084 v) s = .next { s with glb := { s.glb with gpioOut := v.extractLsb' 0 16 } })
    ∧ (∀ n : BitVec 6, n ≠ 1 → n.toNat < 0x32 → s.own.owner ≠ n →
        ∀ off : BitVec 21, off ∈ [0x000080, 0x000084, 0x040000, 0x040004, 0x170000] → exec (.regWrite (.ini n) off v) s = .next s))
  ∧ (∀ (s : State) (v : Word), ∀ r ∈ selectors, ∃ t, exec (.regWrite secIni r.1 v) s = .next t
      ∧ t.readValue secIni r.1.toNat = v.toNat % 2 ^ r.2
      ∧ t = { withNotes s t with sel := t.sel, pit := { s.pit with sel := t.pit.sel }, rwi := t.rwi })
  ∧ (∀ (s : State) (who : Who) (off : BitVec 21) (v : Word), (∀ n, who = .ini n → n.toNat < 0x32) → off.toNat % 4 ≠ 0 →
      ∃ t, exec (.regWrite who off v) s = .next t ∧ t = s)

/-- R65, R68: an access that lies in one enabled region that grants it writes its bytes or returns them, and leaves every other byte; a
refused one writes nothing, is answered with an error, and the first since the last clear is held in MPU_FAULT_INFO and MPU_FAULT_ADDR.

Also R67: a read of MPU_BARRIER returns the generation once no access checked under an earlier one is outstanding; until then it
stalls, and it returns when they have completed, or with the timeout bit, which is that of this read alone. -/
def Obligations.BusAccessAndBarrier : Prop :=
  (∀ (s : State) (n : BitVec 6) (p : Priv) (k : Access) (a : BitVec 40) (data : Bytes) (len : Nat) (posted ecc : Bool),
      (s.mpuCause n.toNat p k a.toNat len = none → isRegister a.toNat = false → (k = .write ∨ s.readFault ecc a.toNat = none) →
        ∃ t, exec (.busAccess n p k a data len posted ecc) s = .next t
          ∧ (k = .write → t.imem = memWrites s.imem a.toNat (data.take len) ∧ t.out = s.out
              ∧ ∀ x, (x < a.toNat ∨ a.toNat + len ≤ x) → memRead t.imem x = memRead s.imem x)
          ∧ (k ≠ .write → t.imem = s.imem ∧ t.out = s.out ++ [.busData n (memReads s.imem a.toNat len)])
          ∧ t = { s with imem := t.imem, out := t.out, mpu := t.mpu }
          ∧ t.mpu = { s.mpu with outstanding := if posted then s.mpu.outstanding ++ [(n, s.mpu.commits)] else s.mpu.outstanding })
      ∧ (∀ c, s.mpuCause n.toNat p k a.toNat len = some c → s.mpu.faultValid = false →
        ∃ t, exec (.busAccess n p k a data len posted ecc) s = .next t
          ∧ t.imem = s.imem ∧ t.out.getLast? = some (.busError n)
          ∧ t.mpu = { s.mpu with faultValid := true, faultMore := 0, faultCause := c, faultIni := n,
                                 faultPriv := BitVec.ofNat 2 (privCode (judged n.toNat p)),
                                 faultType := BitVec.ofNat 3 (accessCode k), faultAddr := a }
          ∧ t = { s with mpu := t.mpu, evc := t.evc, rqe := t.rqe, out := t.out }))
  ∧ (∀ (s : State) (n : BitVec 6),
      (n.toNat < 0x32 → s.olderOutstanding = false → exec (.mpuBarrierRead n) s =
        .next { s with mpu := { s.mpu with barrierTimeout := false },
                       out := s.out ++ [.read (.ini n) (BitVec.ofNat 32 s.mpu.gen.toNat)] })
      ∧ (n.toNat < 0x32 → s.olderOutstanding = true → exec (.mpuBarrierRead n) s =
        .next { s with mpu := { s.mpu with stalled := s.mpu.stalled ++ [n] } })
      ∧ (n ∈ s.mpu.stalled →
        (∃ t, exec (.mpuBarrierDrained n) s = .next t ∧ t.mpu.stalled = s.mpu.stalled.erase n ∧ t.olderOutstanding = false
          ∧ t.out = s.out ++ [.read (.ini n) (BitVec.ofNat 32 s.mpu.gen.toNat)]
          ∧ t = { s with mpu := t.mpu, out := t.out })
        ∧ exec (.mpuBarrierTimeout n) s =
            .next { s with mpu := { s.mpu with barrierTimeout := true, stalled := s.mpu.stalled.erase n },
                           out := s.out ++ [.read (.ini n) (BitVec.ofNat 32 (2 ^ 31 + s.mpu.gen.toNat))] }))

/-- R25: an access with a reserved initiator number is refused as one that no region permits: a bus access, a register write and a read of
MPU_BARRIER end in an error response, with cause 4 in the fault record where none is held, and change nothing else but the event. -/
def Obligations.ReservedInitiatorRefused : Prop :=
  ∀ (s : State) (n : BitVec 6) (p : Priv) (k : Access) (a : BitVec 40) (data : Bytes) (len : Nat) (posted ecc : Bool) (off : BitVec 21)
    (v : Word), 0x32 ≤ n.toNat → ∀ c ∈ [Instr.busAccess n p k a data len posted ecc, .regWrite (.ini n) off v, .mpuBarrierRead n],
    ∃ t, exec c s = .next t ∧ t.imem = s.imem ∧ t.out.getLast? = some (.busError n)
      ∧ (s.mpu.faultValid = false → t.mpu.faultCause = 4 ∧ t.mpu.faultValid = true)
      ∧ t = { s with mpu := t.mpu, evc := t.evc, rqe := t.rqe, out := t.out }

/-! ## Power and the envelope -/

/-- R28: while a band is uncalibrated the effective envelope is BOUNDED whatever is requested; with every band calibrated it is FULL exactly
when FULL is requested; and ENVELOPE_TRANSITION puts the effective envelope in force. -/
def Obligations.EffectiveEnvelope : Prop :=
  (∀ s : State, s.glbStatus.getLsbD 28 = true → s.bounded = true)
  ∧ (∀ s : State, s.glbStatus.getLsbD 28 = false → (s.bounded = false ↔ s.pwr.bounded = false))
  ∧ (∀ s : State, ∃ t, exec .envelopeTransition s = .next t ∧ t.pwr.inForceBounded = s.bounded ∧ t.kst = s.kst)

/-- R27, R456: the security controller's write of PWR_ENVELOPE is kept, in the sealed store too; the envelope in force does not change
with it; anyone else's write changes nothing. R446: a start of calibration outside the refused states runs for the band named; a
calibration that ends with code 0 sets the band's calibrated bit, any other code keeps the bits.

Also R444, R445: a governor sample becomes GOV_POWER; throttling starts 0.3 W below the cap and ends 0.5 W below it; the band rises with
the sample at once, and falls only after 100 samples in a row at least 0.3 W below its edge. -/
def Obligations.GovernorAndCalibration : Prop :=
  ((∀ (s : State) (v : Word), ∃ t, exec (.pwrEnvelopeWrite secIni v) s = .next t
        ∧ t = { s with pwr := { s.pwr with bounded := v.getLsbD 0 }, kst := t.kst }
        ∧ (s.kst.opened = true → t.kst.flash0.envelope = v.getLsbD 0 ∧ t.kst.flash1.envelope = v.getLsbD 0))
    ∧ (∀ (s : State) (who : Who) (v : Word), who ≠ secIni →
        exec (.pwrEnvelopeWrite who v) s = .next s ∧ exec (.calibrationStart who v) s = .next s)
    ∧ (∀ (s : State) (v : Word), v.getLsbD 0 = true → s.calRefused = false → exec (.calibrationStart secIni v) s =
        .next { s with pwr := { s.pwr with calState := 1, calBand := v.extractLsb' 1 2, calCode := 0 } })
    ∧ (∀ (s : State) (v : Word), v.getLsbD 0 = true → s.calRefused = true → ∃ t, exec (.calibrationStart secIni v) s = .next t
        ∧ t.pwr.calCode = 1 ∧ (s.pwr.calState ≠ 1 → t.pwr.calState = 3) ∧ t = { s with pwr := t.pwr })
    ∧ (∀ (s : State) (code : BitVec 4), s.pwr.calState = 1 → ∃ t, exec (.calibrationDone code) s = .next t
        ∧ t.pwr.calCode = code ∧ (code = 0 → t.pwr.calState = 2 ∧ t.pwr.calibrated = s.pwr.calibrated ||| (1 <<< s.pwr.calBand.toNat))
        ∧ (code ≠ 0 → t.pwr.calState = 3 ∧ t.pwr.calibrated = s.pwr.calibrated) ∧ t.imem = s.imem))
  ∧ (∀ (s : State) (mw : BitVec 16), ∃ t, exec (.governorSample mw) s = .next t
      ∧ t.pwr.powerMw = mw
      ∧ (s.powerCap ≤ mw.toNat + 300 → t.pwr.throttling = true)
      ∧ (mw.toNat + 500 ≤ s.powerCap → t.pwr.throttling = false)
      ∧ (mw.toNat + 300 < s.powerCap → s.powerCap < mw.toNat + 500 → t.pwr.throttling = s.pwr.throttling)
      ∧ (s.pwr.band.toNat < bandOf mw.toNat → t.pwr.band.toNat = bandOf mw.toNat)
      ∧ (bandOf mw.toNat ≤ s.pwr.band.toNat → bandEdge s.pwr.band.toNat < mw.toNat + 300 → t.pwr.band = s.pwr.band)
      ∧ (bandOf mw.toNat ≤ s.pwr.band.toNat → s.pwr.lowSamples + 1 < 100 → t.pwr.band = s.pwr.band)
      ∧ t = { s with pwr := t.pwr, evc := t.evc, rqe := t.rqe, out := t.out })

/-- R439 to R442: a warning of rails 0 to 5 brings the Quiet state, counted in PWR_DIP; of a PHY rail it leaves a record; after 1 ms READY
is cleared; the state ends when the rails have recovered, unless PWRFAIL_N holds it; PWRFAIL_N brings the Quiet state and writes out the
journal where instance 9 gives its records an IV, and the state ends when it is gone. -/
def Obligations.QuietState : Prop :=
  (∀ (s : State) (r : BitVec 4) (mv : BitVec 16), r.toNat < 6 → ∃ t, exec (.supplyWarning r mv) s = .next t
      ∧ t.pwr.quiet = true ∧ t.pwr.warned.getLsbD r.toNat = true
      ∧ (s.pwr.quiet = false → t.pwr.dipCount = satInc s.pwr.dipCount ∧ t.pwr.quietAt = s.clk)
      ∧ (Routed (544 + r.toNat) s → Pends (544 + r.toNat) t))
  ∧ (∀ (s : State) (r : BitVec 4) (mv : BitVec 16), 6 ≤ r.toNat → r.toNat < 9 → ExemptRoom s → ∃ t, exec (.supplyWarning r mv) s = .next t
      ∧ t.pwr = s.pwr ∧ Recorded s t 0x0703 (toLE 2 (2 ^ r.toNat) ++ toLE 4 0 ++ toLE 2 mv.toNat))
  ∧ (∀ s : State, s.pwr.quiet = true → exec .quietReadyClear s = .next { s with pwr := { s.pwr with quietLong := true } })
  ∧ (∀ (s : State) (low : BitVec 16), s.pwr.quiet = true → s.pwr.warned ≠ 0 → s.pwr.pwrfail = false → ∃ t, exec (.quietExit low) s = .next t
      ∧ t.pwr.quiet = false ∧ t.pwr.quietLong = false ∧ t.pwr.warned = 0)
  ∧ (∀ (s : State) (low : BitVec 16), s.pwr.quiet = true → s.pwr.pwrfail = true → ∃ t, exec (.quietExit low) s = .next t
      ∧ t.pwr.quiet = true ∧ t = { s with pwr := t.pwr })
  ∧ (∀ s : State, ∃ t, exec .pwrfailAssert s = .next t ∧ t.pwr.quiet = true ∧ t.pwr.pwrfail = true
      ∧ ((s.kst.opened = true → (s.drbg 9).state ≠ 2) → t.kst.journal = [] ∧ t.kst.writing = []))
  ∧ (∀ s : State, s.pwr.pwrfail = true → ∃ t, exec .pwrfailDeassertTimer s = .next t ∧ t.pwr.quiet = false ∧ t.pwr.pwrfail = false)

/-! ## Starts -/

/-- R429, R432, R439: a rail below its reset level starts cold where it is LOGIC, SRAM or IO, and warm where it is a memory rail; the
security controller's watchdog starts warm; a PHY rail takes its links down until it resumes. -/
def Obligations.ResetsByCause : Prop :=
  (∀ (s : State) (r : BitVec 4), r.toNat < 3 → ∃ t, exec (.railReset r) s = .next t
      ∧ t.glb.startType = 1 ∧ t.glb.startDone = false ∧ t.kst.slots = [] ∧ t.bat = s.bat ∧ t.lcs.fuses = s.lcs.fuses)
  ∧ (∀ (s : State) (r : BitVec 4), 3 ≤ r.toNat → r.toNat < 6 → ∃ t, exec (.railReset r) s = .next t
      ∧ t.glb.startType = 2 ∧ t.glb.startDone = false ∧ (s.bat.latch = false → s.tmp.latch = 0 → t.kst.slots = s.kst.slots)
      ∧ t.tmp.latch = s.tmp.latch ∧ t.bat = s.bat)
  ∧ (∀ s : State, ∃ t, exec .secWatchdog s = .next t ∧ t.glb.startType = 2 ∧ t.glb.startDone = false
      ∧ (s.bat.latch = false → s.tmp.latch = 0 → t.kst.slots = s.kst.slots) ∧ t.csn = s.csn
      ∧ (s.kst.journal = [] → s.kst.writing = [] → t.tly.buffer = s.tly.buffer))
  ∧ (∀ s : State, ∃ t, exec (.railReset 6) s = .next t ∧ t.pwr.down.getLsbD 6 = true ∧ t.rqe.portA.linkUp = false)
  ∧ (∀ s : State, s.pwr.down.getLsbD 6 = true → s.pwr.down.getLsbD 8 = false → s.rqe.portA.perst = false →
      ∃ t, exec (.railResume 6) s = .next t ∧ t.pwr.down.getLsbD 6 = false ∧ t.rqe.portA.linkUp = true)

/-- R430, R432: a cold start never completes the step that fails; failing at step 1 or 3 it shows step 0 or 2, and past step 2 its
role stands. A warm start does the same, and keeps TMP_LATCH.

Also R430, R436, R437: step 14 completes the start: its done bit, step 14, the ladder at FIRST, both ports out of Retry Status. A failed
step moves the ladder one rung; on its last rung, or with no firmware image, it brings minimal service mode. -/
def Obligations.StartAndLadder : Prop :=
  ((∀ (s : State) (env : StartEnv), ∃ t, exec (.coldStart env) s = .next t ∧ t.glb.startType = 1 ∧ t.glb.startDone = false
        ∧ (∀ n, 1 ≤ n → env.failStep = some n → t.glb.step.toNat < n) ∧ (env.failStep = some 1 → t.glb.step = 0) ∧ (env.failStep = some 3 → t.glb.step = 2)
        ∧ (env.failStep = some 3 → t.par.role = if env.pairPresent then .waiting else .single))
    ∧ (∀ (s : State) (env : StartEnv), s.bat.ladder ≠ 6 → ∃ t, exec (.warmStart env) s = .next t ∧ t.glb.startType = 2
        ∧ t.glb.startDone = false ∧ (∀ n, 1 ≤ n → env.failStep = some n → t.glb.step.toNat < n)
        ∧ (env.failStep = some 1 → t.glb.step = 0) ∧ (env.failStep = some 3 → t.glb.step = 2)
        ∧ (env.failStep = some 3 → t.tmp.latch = s.tmp.latch)))
  ∧ ((∀ s : State, s.glb.startDone = false → s.glb.minimal = false → s.glb.step = 13 → ∃ t, exec .startReady s = .next t
        ∧ t.glb.startDone = true ∧ t.glb.step = 14 ∧ t.bat.ladder = 0 ∧ t.rqe.portA.retry = false ∧ t.rqe.portB.retry = false)
    ∧ (∀ (s : State) (n : BitVec 4), s.glb.startDone = false → s.glb.minimal = false → s.glb.startType ≠ 0 → n ≠ 0 → n ≠ 9 →
        s.lcsState ≠ 15 → s.lcsState ≠ 5 → s.lcsState ≠ 0 → s.bat.ladder.toNat < 5 →
        exec (.startStepFail n false) s =
          .next { s with bat := { s.bat with failures := satInc s.bat.failures, failedStep := n, ladder := s.bat.ladder + 1,
                                             sinceReady := s.bat.sinceReady ++ [n.toNat] } })
    ∧ (∀ (s : State) (n : BitVec 4) (b : Bool), s.glb.startDone = false → s.glb.minimal = false → s.glb.startType ≠ 0 → n ≠ 0 →
        s.lcsState ≠ 15 → s.lcsState ≠ 5 → s.lcsState ≠ 0 → 5 ≤ s.bat.ladder.toNat → ∃ t, exec (.startStepFail n b) s = .next t
        ∧ t.glb.minimal = true ∧ t.bat.ladder = 6 ∧ t.bat.failures = satInc s.bat.failures ∧ t.bat.failedStep = n)
    ∧ (∀ (s : State), s.glb.startDone = false → s.glb.minimal = false → s.glb.startType ≠ 0 →
        s.lcsState ≠ 15 → s.lcsState ≠ 5 → s.lcsState ≠ 0 → ∃ t, exec (.startStepFail 9 true) s = .next t
        ∧ t.glb.minimal = true ∧ t.bat.ladder = 6 ∧ t.bat.failures = satInc s.bat.failures ∧ t.rqe.portA.retry = false))

/-! ## Self-test and entropy -/

/-- R449 to R451, R426: the next region in turn is wanted, and goes out once it holds no work, with the operand memory of an engine
overwritten; a failure within redundancy is repaired and one beyond it retires the region, both shown in BST_FAIL; no verdict sends the
region back to be the next. A standby retires a region that fails its known-answer test. -/
def Obligations.RegionTests : Prop :=
  (∀ s : State, s.glb.startDone = true → s.tmp.hold = false → s.pwr.quiet = false → s.erasing = false →
      s.bst.retired.contains s.bst.next.toNat = false → s.regionSkipped true s.bst.next.toNat = false →
      s.withdrawn s.bst.next.toNat = false → ∃ t, exec (.bistInterval true) s = .next t
      ∧ t.bst.wanted = s.bst.wanted ++ [s.bst.next.toNat] ∧ t.bst.next = nextRegion s.bst.next)
  ∧ (∀ (s : State) (r : BitVec 7), r.toNat < 107 → s.withdrawn r.toNat = true → r.toNat ∉ s.bst.out → s.regionFree r.toNat = true →
      s.pwr.quiet = false → ∃ t, exec (.bistRegionTake r) s = .next t
      ∧ t.bst = { s.bst with out := s.bst.out ++ [r.toNat], wanted := s.bst.wanted.erase r.toNat }
      ∧ t = { s with bst := t.bst, units := t.units } ∧ (r.toNat < 25 ∨ 58 < r.toNat → t.units = s.units)
      ∧ (∀ k, r.toNat = 25 + k → k < 26 → (t.engine false k).operand = [])
      ∧ (∀ k, r.toNat = 51 + k → k < 8 → (t.engine true k).operand = []))
  ∧ (∀ (s : State) (r : BitVec 7), r.toNat < 107 → s.bst.out = [r.toNat] → s.pwr.quiet = false → s.bst.triggered = [] →
      (∃ t, exec (.bistRegionDone r 0) s = .next t ∧ t.bst = { s.bst with out := [] })
      ∧ (∃ t, exec (.bistRegionDone r 1) s = .next t ∧ t.bst.out = [] ∧ t.bst.applied = satInc s.bst.applied
          ∧ t.bst.failures = satInc s.bst.failures ∧ t.bst.failValid = true ∧ t.bst.retired = s.bst.retired)
      ∧ (∃ t, exec (.bistRegionDone r 2) s = .next t ∧ t.bst.out = [] ∧ r.toNat ∈ t.bst.retired
          ∧ t.bst.failures = satInc s.bst.failures ∧ t.bst.failValid = true)
      ∧ (∃ t, exec (.bistRegionDone r 3) s = .next t ∧ t.bst = { s.bst with out := [], next := r }))
  ∧ (∀ (s : State) (r : BitVec 7), r.toNat < 107 → s.par.role = .standby → s.bst.retired.contains r.toNat = false →
      ∃ t, exec (.standbyKat (some r)) s = .next t ∧ r.toNat ∈ t.bst.retired ∧ t.bst.failValid = true)

/-- R286 to R289: a continuous test that fails at its cutoff takes a HEALTHY source to FAILED, with the counter of that test and the event;
a retry restarts the source, and disables it from the third failure in 24 h; a start-up test makes it HEALTHY or FAILED. A seed block is
kept where no instance waits, else it reseeds instance 0 where that waits; a reseed takes the oldest kept block; an instance that has had no
reseed for 10 s is in error, with a record. -/
def Obligations.EntropyAndDrbgs : Prop :=
  (∀ (s : State) (k : BitVec 2) (apt : Bool) (n : Nat), (s.source k.toNat).state = 2 → s.testFails apt n = true →
      ∃ t, exec (.entropyTestFail k apt n) s = .next t
      ∧ (t.source k.toNat).state = 3
      ∧ (t.source k.toNat).aptFails = (if apt then satInc (s.source k.toNat).aptFails else (s.source k.toNat).aptFails)
      ∧ (t.source k.toNat).rctFails = (if apt then (s.source k.toNat).rctFails else satInc (s.source k.toNat).rctFails)
      ∧ (Routed (568 + k.toNat) s → Pends (568 + k.toNat) t)
      ∧ t = { s with units := t.units, tly := t.tly, evc := t.evc, rqe := t.rqe, out := t.out })
  ∧ (∀ (s : State) (k : BitVec 2) (kat : Bool) (run equal : Nat), (s.source k.toNat).state = 1 →
      ∃ t, exec (.entropyStartupDone k kat run equal) s = .next t
      ∧ (t.source k.toNat).state = (if kat && !s.testFails false run && !s.testFails true equal then 2 else 3)
      ∧ t = { s with units := t.units, tly := t.tly, evc := t.evc, rqe := t.rqe, out := t.out })
  ∧ (∀ (s : State) (k : BitVec 2), (s.source k.toNat).state = 3 → ∃ t, exec (.entropyRetry k) s = .next t
      ∧ (t.source k.toNat).state = (if s.recentFailures k.toNat < 3 then 1 else 4) ∧ t = { s with units := t.units })
  ∧ (∀ (s : State) (k : BitVec 2) (kat : Bool), (s.source k.toNat).state = 2 → (∀ i, i < 10 → (s.drbg i).wants = false) →
      ∃ t, exec (.seedBlockReady k kat) s = .next t ∧ t.units.seedBlocks = s.units.seedBlocks ++ [s.seedBlock]
        ∧ t = { s with rng := t.rng, units := { s.units with seedBlocks := t.units.seedBlocks } })
  ∧ (∀ (s : State) (k : BitVec 2) (kat : Bool), (s.source k.toNat).state = 2 → (s.drbg 0).state = 1 → (s.drbg 0).waiting = true →
      ∃ t, exec (.seedBlockReady k kat) s = .next t ∧ t.drbg 0 = (s.drbg 0).reseeded s.seedBlock
        ∧ (t.drbg 0).since = 0 ∧ (t.drbg 0).waiting = false ∧ t = { s with rng := t.rng, units := t.units })
  ∧ (∀ (s : State) (i : BitVec 4) (b : Bytes) (l : List Bytes), i.toNat < 10 → (s.drbg i.toNat).state = 1 → s.units.seedBlocks = b :: l →
      ∃ t, exec (.drbgReseed i) s = .next t ∧ t.units.seedBlocks = l ∧ t.drbg i.toNat = (s.drbg i.toNat).reseeded b
        ∧ (t.drbg i.toNat).since = 0 ∧ (t.drbg i.toNat).reseeds = (s.drbg i.toNat).reseeds + 1 ∧ t = { s with units := t.units })
  ∧ (∀ (s : State) (i : BitVec 4), i.toNat < 10 → (s.drbg i.toNat).state = 1 → ExemptRoom s →
      ∃ t, exec (.drbgSeedTimeout i) s = .next t ∧ (t.drbg i.toNat).state = 2 ∧ Recorded s t 0x0902 [BitVec.ofNat 8 i.toNat, 0]
        ∧ t = { s with units := t.units, tly := t.tly, evc := t.evc, rqe := t.rqe, out := t.out })

/-! ## PCIe ports and SPDM -/

/-- R78, R99, R103, R345: a function reset and D3hot take every SQ that the function made to DRAINING, or FREE with nothing in flight, and
its CQ to ORPHAN; a reset leaves Bus Master Enable and the vector table clear and frees the locks of a PF, and keys, ownership and memory
are as they were; the function comes back to D0; Bus Master Enable posts what it held and sends the messages that wait. R69, R71, R73, R431:
while the port answers Retry Status a configuration request is answered so; on an Insecure link it is discarded; else it ends with its
answer: a write of the command register sets or clears Bus Master Enable, a read of the class code gives 10 80 00, and a write of the MSI-X
control is answered last. -/
def Obligations.FunctionEvents : Prop :=
  ∀ (s : State) (port : Port) (fn : BitVec 7),
    (∃ t, exec (.functionLevelReset port fn) s = .next t ∧ (t.fn port fn).state = .flr ∧ (t.fn port fn).bme = false
      ∧ (t.fn port fn).unmasked = [] ∧ t.kst = s.kst ∧ t.own = s.own ∧ t.imem = s.imem ∧ Stopped s t port (covers fn)
      ∧ (fn = 0 → ∀ m, m < 16 → (s.box m).owner = pfIni port → (t.box m).owner = 0)
      ∧ (Routed (ringBase port + 5) s → Pends (ringBase port + 5) t))
    ∧ ((s.fn port fn).state = .flr → exec (.flrComplete port fn) s = .next (s.updFn port fn fun f => { f with state := .d0 }))
    ∧ (∃ t, exec (.d3hotEntry port fn) s = .next t ∧ (t.fn port fn).state = .d3hot ∧ t.kst = s.kst ∧ t.imem = s.imem
      ∧ Stopped s t port (fun x => x = fn) ∧ (Routed (ringBase port + 6) s → Pends (ringBase port + 6) t))
    ∧ ((s.fn port fn).state = .d3hot → exec (.d3hotExit port fn) s = .next (s.updFn port fn fun f => { f with state := .d0 }))
    ∧ (∃ t, exec (.busMasterEnableSet port fn) s = .next t ∧ (t.fn port fn).bme = true
      ∧ (∀ p h, (s.cq p).state = .active → (s.cq p).port = port → (s.cq p).fn = fn → (s.cq p).held = [h] → h.cqe.csnValid = false →
          s.gateOpen = true → (t.cq p).held = [])
      ∧ (∀ v ∈ (s.fn port fn).pba, v ∈ (s.fn port fn).unmasked → (s.fn port fn).msixMask = false → .msix port fn (BitVec.ofNat 11 v) ∈ t.out)
      ∧ t = { s with rqe := t.rqe, out := t.out, sch := t.sch, pit := t.pit })
    ∧ exec (.busMasterEnableClear port fn) s = .next (s.updFn port fn fun f => { f with bme := false })
    ∧ (∀ w r v, (s.portState port).retry = true → exec (.configRequest port fn w r v) s = .next (s.emit (.cfgRetry port)))
    ∧ (∀ w r v, (s.portState port).retry = false → s.ideCut port = true → exec (.configRequest port fn w r v) s = .next s)
    ∧ ((s.portState port).retry = false → s.ideCut port = false →
      (∀ v, v.getLsbD 2 = false →
        exec (.configRequest port fn true 4 v) s = .next ((s.updFn port fn fun f => { f with bme := false }).emit (.cfgDone port 0)))
      ∧ (∀ v, v.getLsbD 2 = true → ∃ t, exec (.configRequest port fn true 4 v) s = .next t ∧ (t.fn port fn).bme = true)
      ∧ (∀ v, ∃ t x, exec (.configRequest port fn false 8 v) s = .next t
        ∧ t.out = s.out ++ [.cfgDone port x] ∧ x.toNat / 256 = 0x108000 ∧ t = { s with rng := t.rng, out := t.out })
      ∧ (∀ v, ∃ t, exec (.configRequest port fn true 0x0B0 v) s = .next t ∧ (t.fn port fn).msixMask = v.getLsbD 30
        ∧ (t.fn port fn).msixEnable = v.getLsbD 31 ∧ t.out.getLast? = some (.cfgDone port 0) ∧ t = { s with rqe := t.rqe, out := t.out }))

/-- R73, R78, R431: DL_Down and PERST_N take a port's link, rings, IDE streams and SPDM session down, and keep the key store; the link comes
up again where its supply is good; an integrity failure makes the one stream Insecure, with its event, and IDE_KM inside a secured session
makes it Secure. -/
def Obligations.LinkEvents : Prop :=
  ∀ (s : State) (port : Port),
    (∃ t, exec (.dlDown port) s = .next t ∧ (t.portState port).linkUp = false ∧ (t.portState port).dlDown = true
      ∧ (t.portState port).ide = [0, 0, 0, 0, 0] ∧ (t.portState port).session = 0 ∧ (t.portState port).spdm = 0 ∧ t.kst = s.kst
      ∧ Stopped s t port (fun _ => true))
    ∧ (∃ t, exec (.perstAssert port) s = .next t ∧ (t.portState port).perst = true ∧ (t.portState port).linkUp = false
      ∧ (t.portState port).ide = [0, 0, 0, 0, 0] ∧ (t.portState port).session = 0 ∧ t.kst = s.kst ∧ Stopped s t port (fun _ => true))
    ∧ (s.phyDown port = false → ∃ t, exec (.pcieLinkUp port) s = .next t ∧ (t.portState port).linkUp = true
      ∧ (t.portState port).dlDown = false ∧ (t.portState port).perst = false
      ∧ t = { s with rqe := t.rqe, evc := t.evc, out := t.out })
    ∧ (∀ n : BitVec 3, n.toNat < 5 → ∃ t, exec (.ideIntegrityFail port n) s = .next t
      ∧ (t.portState port).ide = (s.portState port).ide.set n.toNat 2 ∧ (Routed (ringBase port + 8) s → Pends (ringBase port + 8) t)
      ∧ t = { s with rqe := t.rqe, evc := t.evc, out := t.out })
    ∧ (∀ n : BitVec 3, n.toNat < 5 → (s.portState port).session = 2 →
      exec (.ideKm port n) s = .next (s.updPort port fun x => { x with ide := x.ide.set n.toNat 1 }))

/-- R72, R375, R376 (response codes, order and the key schedule: log entry 26, presumed): on a port that is up and answers requests, each
SPDM request is answered in its order; the identity requests are refused in RETURNED and SCRAPPED; a key exchange needs a point of the
curve; a session is secured only by the requester's verify data. -/
def Obligations.SpdmRequests : Prop :=
  ∀ (s : State) (port : Port), (s.portState port).dlDown = false → (s.portState port).retry = false →
    (∃ t, exec (.getVersion port) s = .next t ∧ (t.portState port).spdm = 1 ∧ (t.portState port).session = 0
      ∧ t.out = s.out ++ [.spdm port 0x04 [0, 0x12, 0, 0x13]] ∧ t = { s with rqe := t.rqe, out := t.out })
    ∧ ((s.portState port).spdm = 1 → ∃ t, exec (.getCapabilities port) s = .next t ∧ (t.portState port).spdm = 2
      ∧ t.out = s.out ++ [.spdm port 0x61 (toLE 4 0x62D6)] ∧ t = { s with rqe := t.rqe, out := t.out })
    ∧ ((s.portState port).spdm = 2 →
      (∃ t, exec (.negotiateAlgorithms port true) s = .next t ∧ (t.portState port).spdm = 3 ∧ t = { s with rqe := t.rqe, out := t.out })
      ∧ exec (.negotiateAlgorithms port false) s = .next (s.emit (.spdm port 0x7F [1])))
    ∧ ((s.portState port).spdm = 3 →
      exec (.getDigests port) s = .next (spdmReply port 0x01 (sha384 Config.certChain) s)
      ∧ (∀ nonce, exec (.getMeasurements port false nonce) s = .next (spdmReply port 0x60 s.evidence s)
          ∧ (s.kst.identity = false → exec (.getMeasurements port true nonce) s = .next (s.emit (.spdm port 0x7F [7])))
          ∧ (s.kst.identity = true → ∃ t b, exec (.getMeasurements port true nonce) s = .next t
              ∧ t.out.getLast? = some (.spdm port 0x60 (s.evidence ++ b))))
      ∧ (s.lcsState ≠ 4 → s.lcsState ≠ 5 →
          exec (.getCertificate port 0) s = .next (spdmReply port 0x02 Config.certChain s)
          ∧ (∀ nonce, ∃ t b, exec (.challenge port nonce) s = .next t
              ∧ t.out.getLast? = some (.spdm port 0x03 (sha384 Config.certChain ++ b)))
          ∧ (∀ x, ((curve 2).decode (4 :: x)).isSome = true → ∃ t b, exec (.keyExchange port x) s = .next t ∧ (t.portState port).session = 1
              ∧ t.out.getLast? = some (.spdm port 0x64 b))
          ∧ (∀ x, (curve 2).decode (4 :: x) = none → exec (.keyExchange port x) s = .next (s.emit (.spdm port 0x7F [1]))))
      ∧ (s.lcsState = 4 ∨ s.lcsState = 5 → ∀ nonce x,
          exec (.getCertificate port 0) s = .next (s.emit (.spdm port 0x7F [7]))
          ∧ exec (.challenge port nonce) s = .next (s.emit (.spdm port 0x7F [7]))
          ∧ exec (.keyExchange port x) s = .next (s.emit (.spdm port 0x7F [7]))))
    ∧ ((s.portState port).session = 1 →
      (∃ t, exec (.finish port (verifyData (s.portState port).keys.req (s.portState port).keys.transcript)) s = .next t
        ∧ (t.portState port).session = 2)
      ∧ (∀ v, v ≠ verifyData (s.portState port).keys.req (s.portState port).keys.transcript →
          ∃ t, exec (.finish port v) s = .next t ∧ (t.portState port).session = 0 ∧ t.out = s.out ++ [.spdm port 0x7F [6]]
            ∧ t = { s with rqe := t.rqe, out := t.out }))
    ∧ ((s.portState port).session = 2 →
      exec (.heartbeat port) s = .next (s.emit (.spdm port 0x68 []))
      ∧ (∀ all, ∃ t, exec (.keyUpdate port all) s = .next t ∧ (t.portState port).sessionKeyUpdates = (s.portState port).sessionKeyUpdates + 1
          ∧ (t.portState port).keys = (s.portState port).keys.updated all ∧ t.out = s.out ++ [.spdm port 0x69 []]
          ∧ t = { s with rqe := t.rqe, out := t.out })
      ∧ (∃ t, exec (.endSession port) s = .next t ∧ (t.portState port).session = 0 ∧ (t.portState port).keys = {}
          ∧ t = { s with rqe := t.rqe, evc := t.evc, out := t.out }))

/-! ## Mailboxes -/

/-- R342 to R345: a read of a free lock by a side takes it, and by the other side shows the owner; the owner releases it; the side that has
the turn writes the message; the sender's doorbell turns the mailbox over; the receiver clears doorbells and acknowledges; the
security controller forces a release, which zeroes the buffer. -/
def Obligations.MailboxProtocol : Prop :=
  ∀ (s : State) (n : BitVec 6) (m : BitVec 4), s.hostCut (.ini n) = false →
    (s.isSide m.toNat (.ini n) = true → (s.box m.toNat).owner = 0 → ∃ t, exec (.mbxLockRead (.ini n) m) s = .next t
      ∧ (t.box m.toNat).owner = n ∧ t.out = s.out ++ [.read (.ini n) 0] ∧ t = { s with mbx := t.mbx, out := t.out })
    ∧ (s.isSide m.toNat (.ini n) = true → (s.box m.toNat).owner ≠ 0 → (s.box m.toNat).owner ≠ n →
      exec (.mbxLockRead (.ini n) m) s = .next (s.emit (.read (.ini n) ((s.box m.toNat).owner.setWidth 32))))
    ∧ (s.isSender m.toNat (.ini n) = true → ∃ t, exec (.mbxLockRelease (.ini n) m 0) s = .next t
      ∧ (t.box m.toNat).owner = 0 ∧ (t.box m.toNat).db = 0 ∧ (t.box m.toNat).ackValid = false ∧ t = { s with mbx := t.mbx })
    ∧ (∀ (i : BitVec 6) (v : Word), s.hasTurn m.toNat (.ini n) = true → ∃ t, exec (.mbxMsgWrite (.ini n) m i v) s = .next t
      ∧ (t.box m.toNat).msg.get 0 i.toNat = v
      ∧ (∀ j, j ≠ i.toNat → (t.box m.toNat).msg.get 0 j = (s.box m.toNat).msg.get 0 j) ∧ t = { s with mbx := t.mbx })
    ∧ (∀ (i : BitVec 6) (v : Word), s.hasTurn m.toNat (.ini n) = false → ∃ t, exec (.mbxMsgWrite (.ini n) m i v) s = .next t
      ∧ t = { s with mbxErr := t.mbxErr })
    ∧ (∀ v : Word, s.isSender m.toNat (.ini n) = true → (s.box m.toNat).turn = false → v ≠ 0 →
      ∃ t, exec (.mbxDbSet (.ini n) m v) s = .next t ∧ (t.box m.toNat).db = (s.box m.toNat).db ||| v
        ∧ (t.box m.toNat).turn = true ∧ (t.box m.toNat).ackValid = false
        ∧ t = { s with mbx := t.mbx, evc := t.evc, rqe := t.rqe, out := t.out })
    ∧ (∀ v : Word, s.isReceiver m.toNat (.ini n) = true → ∃ t, exec (.mbxDbClear (.ini n) m v) s = .next t
      ∧ (t.box m.toNat).db = (s.box m.toNat).db &&& ~~~v
      ∧ ((s.box m.toNat).compat = false → (t.box m.toNat).turn = (s.box m.toNat).turn)
      ∧ t = { s with mbx := t.mbx, evc := t.evc, rqe := t.rqe, out := t.out })
    ∧ (∀ v : Word, s.isReceiver m.toNat (.ini n) = true → (s.box m.toNat).compat = false → (s.box m.toNat).ackValid = false →
      ∃ t, exec (.mbxAck (.ini n) m v) s = .next t ∧ (t.box m.toNat).ackValid = true
        ∧ (t.box m.toNat).ack = v.extractLsb' 0 16 ∧ (t.box m.toNat).turn = false
        ∧ t = { s with mbx := t.mbx, evc := t.evc, rqe := t.rqe, out := t.out })
    ∧ ((s.box m.toNat).owner ≠ 0 → ∃ t, exec (.mbxForce secIni m 1) s = .next t ∧ (t.box m.toNat).owner = 0
      ∧ (t.box m.toNat).msg = [] ∧ t = { s with mbx := t.mbx, mbxErr := t.mbxErr })

/-! ## DMA -/

/-- R331, R333, R337, R338: the owner's start fetches and checks the descriptor; a halt is taken at the descriptor's end, or aborts; a
failed burst is retried up to the count; another initiator's write is ignored with code 1. -/
def Obligations.DmaControl : Prop :=
  ∀ (s : State) (c : BitVec 6) (p : Priv),
    (chanRunning (s.chan c.toNat) = false → s.mpuCause 0x2A .m .read (s.chan c.toNat).desc.toNat 64 = none →
      s.mpuCause (chanOwner c.toNat).toNat p .read (s.chan c.toNat).desc.toNat 64 = none →
      (readDescriptor s.imem (s.chan c.toNat).desc.toNat).ok = true →
      ∃ t, exec (.dmaStart (.ini (chanOwner c.toNat)) c p) s = .next t ∧ (t.chan c.toNat).state = 1
        ∧ (t.chan c.toNat).cur = (s.chan c.toNat).desc
        ∧ (t.chan c.toNat).d = some (readDescriptor s.imem (s.chan c.toNat).desc.toNat) ∧ t = { s with dma := t.dma })
    ∧ (∀ n : BitVec 6, n ≠ chanOwner c.toNat → ∃ t, exec (.dmaStart (.ini n) c p) s = .next t
        ∧ (t.selOf (.ini n)).dmaErrCode = 1 ∧ (t.selOf (.ini n)).dmaErrValid = true ∧ t = { s with sel := t.sel })
    ∧ ((s.chan c.toNat).state = 1 → (s.chan c.toNat).abortMode = false → exec (.dmaHalt (.ini (chanOwner c.toNat)) c) s =
        .next (s.updChan c.toNat fun x => { x with haltWanted := true }))
    ∧ ((s.chan c.toNat).state = 1 → (s.chan c.toNat).abortMode = true → (s.chan c.toNat).ended = none →
        ∃ t, exec (.dmaHalt (.ini (chanOwner c.toNat)) c) s = .next t ∧ (t.chan c.toNat).ended = some 3
          ∧ (t.chan c.toNat).buffer = [] ∧ t = { s with dma := t.dma })
    ∧ (∀ d, (s.chan c.toNat).d = some d → (s.chan c.toNat).state = 1 → (s.chan c.toNat).ended = none →
        (s.chan c.toNat).retrying = false → (s.chan c.toNat).tries < (s.chan c.toNat).retries.toNat →
        exec (.dmaBurstComplete c .failed) s =
          .next (s.updChan c.toNat fun x => { x with tries := (s.chan c.toNat).tries + 1, retrying := true }))
    ∧ exec (.dmaRetryTimer c) s = .next (s.updChan c.toNat fun x => { x with retrying := false })

/-- R332, R334 to R336: a permitted write burst stores the next bytes of the buffer at the destination and leaves every other byte; a read
burst stores nothing; the end of a last descriptor writes completion word and residue at its bytes 0x30 to 0x37 alone, and the
channel is idle with code 1. -/
def Obligations.DmaMovesBytes : Prop :=
  ∀ (s : State) (c : BitVec 6) (d : Descriptor), (s.chan c.toNat).d = some d →
    (∀ (b : Bytes) (a m n : Nat), (s.chan c.toNat).state = 1 → (s.chan c.toNat).ended = none → (s.chan c.toNat).retrying = false →
      (s.chan c.toNat).buffer ≠ [] → streamAt d.dst d.dstLen d.dstStride (s.chan c.toNat).nwritten = (a, m) →
      n = min m (s.chan c.toNat).buffer.length → s.chanRefusal (s.chan c.toNat) .write a n = none → isRegister a = false →
      ∃ t, exec (.dmaBurstComplete c (.ok b)) s = .next t ∧ t.imem = memWrites s.imem a ((s.chan c.toNat).buffer.take n)
        ∧ (∀ x, (x < a ∨ a + n ≤ x) → memRead t.imem x = memRead s.imem x)
        ∧ (t.chan c.toNat).nwritten = (s.chan c.toNat).nwritten + n ∧ t = { s with imem := t.imem, dma := t.dma })
    ∧ (∀ (b : Bytes) (a n : Nat), (s.chan c.toNat).state = 1 → (s.chan c.toNat).ended = none → (s.chan c.toNat).retrying = false →
      (s.chan c.toNat).buffer = [] → streamAt d.src d.srcLen d.srcStride (s.chan c.toNat).nread = (a, n) →
      s.chanRefusal (s.chan c.toNat) .read a n = none → isRegister a = false →
      ∃ t, exec (.dmaBurstComplete c (.ok b)) s = .next t ∧ (t.chan c.toNat).buffer = memReads s.imem a n
        ∧ (t.chan c.toNat).nread = (s.chan c.toNat).nread + n ∧ t = { s with dma := t.dma })
    ∧ ((s.chan c.toNat).ended = some 1 → d.last = true → ∃ t, exec (.dmaDescriptorEnd c) s = .next t
      ∧ t.imem = memWrites s.imem ((s.chan c.toNat).cur.toNat + 0x30)
          (toLE 4 (2 ^ 31 + 1) ++ toLE 4 (s.chan c.toNat).left)
      ∧ (∀ x, (x < (s.chan c.toNat).cur.toNat + 0x30 ∨ (s.chan c.toNat).cur.toNat + 0x38 ≤ x) → memRead t.imem x = memRead s.imem x)
      ∧ (t.chan c.toNat).state = 0 ∧ (t.chan c.toNat).code = 1 ∧ (t.chan c.toNat).completed = (s.chan c.toNat).completed + 1
      ∧ (Routed c.toNat s → Pends c.toNat t)
      ∧ t = { s with imem := t.imem, dma := t.dma, evc := t.evc, rqe := t.rqe, out := t.out })

/-! ## Rings -/

/-- R75, R76, R84, R106: over a link that is not cut, the owner binds a pitch without rings to functions, and sets the orphan timeout within
1 to 10,000 ms; anyone else is refused with RQE_ERR code 2; a wake makes every ring of its function hot. -/
def Obligations.RingOwnership : Prop :=
  (∀ (s : State) (who : Who) (v : Word), s.hostCut who = false → s.isOwner who = true →
      s.hasRing (s.rqeSel who).bindSel.toNat .a = false → s.hasRing (s.rqeSel who).bindSel.toNat .b = false →
      ∃ t, exec (.bindWrite who v) s = .next t
      ∧ (t.pitch (s.rqeSel who).bindSel.toNat).bindA = (if v.getLsbD 15 then some (v.extractLsb' 0 7) else none)
      ∧ (t.pitch (s.rqeSel who).bindSel.toNat).bindB = (if v.getLsbD 31 then some (v.extractLsb' 16 7) else none)
      ∧ t = { s with pit := t.pit })
  ∧ (∀ (s : State) (who : Who) (v : Word), s.hostCut who = false → s.isOwner who = true → 1 ≤ v.toNat % 2 ^ 14 → v.toNat % 2 ^ 14 ≤ 10000 →
      ∃ t, exec (.orphanTimeoutWrite who v) s = .next t ∧ t.rqe.orphanMs = v.extractLsb' 0 14)
  ∧ (∀ (s : State) (who : Who) (v : Word), s.hostCut who = false → s.isOwner who = false →
      exec (.bindWrite who v) s = .next (rqeErr who 2 s) ∧ exec (.orphanTimeoutWrite who v) s = .next (rqeErr who 2 s))
  ∧ (∀ (s : State) (port : Port) (fn : BitVec 7) (v : Word), s.ideCut port = false → ∃ t, exec (.rqeWake (.vf port fn) v) s = .next t
      ∧ (t.portState port).wake = true
      ∧ (∀ e ∈ s.rqe.sqs, e.2.state ≠ .free → e.2.port = port → e.2.fn = fn →
          (e.1, { e.2 with hot := true, quietSweeps := 0 }) ∈ t.rqe.sqs)
      ∧ t = { s with rqe := t.rqe })

/-- R75, R79, R102, R103, R105: over a link that is not cut, the bound function creates a completion and a submission ring inside the
pitch's windows, deletes and resets those of its port, and the function on the other port adopts an orphan completion ring; a function
that is not bound is refused with code 2, as is a delete or reset of a ring of the other port. -/
def Obligations.RingControl : Prop :=
  ∀ (s : State) (who : Who) (port : Port) (fn : BitVec 7) (p : Nat), whoFn who = some (port, fn) → s.ideCut port = false →
    (s.rqeSel who).pitch.toNat = p →
    (s.bound p port fn = false → ∀ r, exec (.ringCreate who 1 r) s = .next (rqeErr who 2 s)
      ∧ exec (.ringDelete who 2) s = .next (rqeErr who 2 s) ∧ exec (.ringReset who 4 r) s = .next (rqeErr who 2 s)
      ∧ exec (.cqAdopt who 8) s = .next (rqeErr who 2 s))
    ∧ (s.bound p port fn = true → ∀ x, s.rqeSel who = x →
      (s.ringPitchOk p = true → x.cq = true → (s.cq p).state = .free → log2Ok x.log2 = true →
        coalBad x.coalCount x.coalTime = false → windowCovers (s.pitch p).live port true x.base (32 * ringSize x.log2) = true →
        ∀ r, ∃ t, exec (.ringCreate who 1 r) s = .next t
          ∧ (t.cq p).state = .active ∧ (t.cq p).port = port ∧ (t.cq p).fn = fn ∧ (t.cq p).base = x.base ∧ (t.cq p).log2 = x.log2
          ∧ ((s.cq p).latched = [] → t.cq p =
              { state := .active, port := port, fn := fn, base := x.base, log2 := x.log2, coalTime := x.coalTime,
                coalCount := x.coalCount, vector := x.vector } ∧ t = { s with rqe := t.rqe }))
      ∧ (∀ b : Bytes, s.ringPitchOk p = true → x.cq = false → (s.sq p x.sqIndex.toNat).state = .free → (s.cq p).state ≠ .free →
        (x.sqIndex = 0 ∨ s.anySq p = true) → log2Ok x.log2 = true → s.fnSqs port fn < (s.fn port fn).maxSq → s.allSqs < 8192 →
        windowCovers (s.pitch p).live port false x.base (128 * ringSize x.log2) = true →
        windowCovers (s.pitch p).live port false x.db 16 = true → recordAgrees (readRecord b) (ringSize x.log2) = true →
        ∃ t, exec (.ringCreate who 1 (.data b)) s = .next t ∧ (t.sq p x.sqIndex.toNat).state = .active
          ∧ (t.sq p x.sqIndex.toNat).consumed = (readRecord b).seq ∧ (t.sq p x.sqIndex.toNat).hot = true
          ∧ t = { s with rqe := t.rqe })
      ∧ (x.cq = true → s.anySq p = false → (s.cq p).state = .active →
        exec (.ringDelete who 2) s = .next (if (s.cq p).port = port then s.updCq p fun _ => {} else rqeErr who 2 s))
      ∧ (x.cq = false → (s.sq p x.sqIndex.toNat).state = .active → x.sqIndex ≠ 0 →
        ((s.sq p x.sqIndex.toNat).port = port → ∃ t, exec (.ringDelete who 2) s = .next t
          ∧ (t.sq p x.sqIndex.toNat).state = (if (s.sq p x.sqIndex.toNat).outstanding = 0 then .free else .draining))
        ∧ ((s.sq p x.sqIndex.toNat).port ≠ port → exec (.ringDelete who 2) s = .next (rqeErr who 2 s)))
      ∧ (∀ b : Bytes, x.cq = false → (s.sq p x.sqIndex.toNat).state = .error →
        recordAgrees (readRecord b) (ringSize (s.sq p x.sqIndex.toNat).log2) = true →
        ((s.sq p x.sqIndex.toNat).port = port → ∃ t, exec (.ringReset who 4 (.data b)) s = .next t
          ∧ (t.sq p x.sqIndex.toNat).state = .active
          ∧ (t.sq p x.sqIndex.toNat).consumed = (readRecord b).seq ∧ t = { s with rqe := t.rqe })
        ∧ ((s.sq p x.sqIndex.toNat).port ≠ port → exec (.ringReset who 4 (.data b)) s = .next (rqeErr who 2 s)))
      ∧ (x.cq = true → (s.cq p).state = .orphan → (s.cq p).port ≠ port → log2Ok x.log2 = true →
        coalBad x.coalCount x.coalTime = false → windowCovers (s.pitch p).live port true x.base (32 * ringSize x.log2) = true →
        ∃ t, exec (.cqAdopt who 8) s = .next t ∧ (t.cq p).state = .active ∧ (t.cq p).port = port ∧ (t.cq p).fn = fn))

/-- R83, R85, R98, R101: a sweep asks for the line of every record that it must read; an ACTIVE ring whose record lies outside a readable
window goes to ERROR. A first failed read of a record or an SQE is counted, and a second of a record is a ring event with code 4; a record
whose tail and seq disagree puts the ring in ERROR with code 1; one that agrees is taken. Over an Insecure link no record is read (R73).

Also R99, R106: a CQ left orphan becomes free with one record; its coalescing timer fires its vector and clears the pending count; an
unmasked vector sends what its PBA bit held. -/
def Obligations.SweepsAndCompletions : Prop :=
  ((∀ (s : State) (port : Port), s.fetchStopped = false → (s.portState port).dlDown = false → (s.portState port).perst = false →
        ∃ t, exec (.sweepStart port) s = .next t ∧ (t.portState port).sweeps = (s.portState port).sweeps + 1
          ∧ (∀ e ∈ s.rqe.sqs, s.sweepReads port (s.portState port).sweeps e.1 e.2 = true →
              .recordRead port (lineOf e.2.db) ∈ t.out)
          ∧ (∀ e ∈ s.rqe.sqs, s.sweepDue port (s.portState port).sweeps e.1 e.2 = true → e.2.state = .active → s.recordOk e.1 e.2 = false →
              (t.sq (e.1 / 4) (e.1 % 4)).state = .error))
    ∧ (∀ (s : State) (port : Port), s.fetchStopped = true → exec (.sweepStart port) s = .next s)
    ∧ (∀ (s : State) (p : BitVec 12) (i : BitVec 2) (q : Sq), s.sq p.toNat i.toNat = q → q.state = .active → q.opening = none →
        (∀ r, (s.ideCut q.port = true ∨ ∃ why, r = .failed why) → ∃ t, exec (.doorbellRecordReadDone p i r) s = .next t
          ∧ (q.failed = 0 → (t.sq p.toNat i.toNat).state = .active ∧ (t.sq p.toNat i.toNat).failed = 1
              ∧ t = { s with rqe := t.rqe, evc := t.evc, out := t.out })
          ∧ (q.failed = 1 → (t.sq p.toNat i.toNat).state = .error ∧ (t.sq p.toNat i.toNat).lastEvent = 4))
        ∧ (∀ b : Bytes, s.ideCut q.port = false → q.resync = false → (s.pitch p.toNat).state = .active → s.fetchStopped = false →
          ∃ t, exec (.doorbellRecordReadDone p i (.data b)) s = .next t
          ∧ (recordAgrees (readRecord b) (ringSize q.log2) = false →
              (t.sq p.toNat i.toNat).state = .error ∧ (t.sq p.toNat i.toNat).lastEvent = 1)
          ∧ (recordAgrees (readRecord b) (ringSize q.log2) = true →
              ((readRecord b).seq - q.consumed).toNat < ringSize q.log2 → s.sqMemoryOk p.toNat i.toNat = true →
              (t.sq p.toNat i.toNat).state = .active ∧ (t.sq p.toNat i.toNat).published = (readRecord b).seq)))
    ∧ (∀ (s : State) (p : BitVec 12) (i : BitVec 2) (why : ReadFail), (s.sq p.toNat i.toNat).fetching ≠ 0 →
        (s.sq p.toNat i.toNat).state = .active → (s.sq p.toNat i.toNat).failedSqe = 0 → ∃ t, exec (.sqeReadFailed p i why) s = .next t
          ∧ (t.sq p.toNat i.toNat).failedSqe = 1 ∧ (t.sq p.toNat i.toNat).fetching = 0))
  ∧ ((∀ (s : State) (p : BitVec 12), (s.cq p.toNat).state = .orphan → (s.cq p.toNat).held = [] → s.executing p.toNat = [] → ExemptRoom s →
        ∃ t, exec (.orphanTimeout p) s = .next t ∧ t.cq p.toNat = { latched := (s.cq p.toNat).latched }
          ∧ Recorded s t 0x0403 (toLE 2 p.toNat ++ toLE 4 0))
    ∧ (∀ (s : State) (p : BitVec 12) (q : Cq) (f : Fn), s.cq p.toNat = q → s.fn q.port q.fn = f → q.timer = true → s.gateOpen = true →
        f.bme = true → f.msixMask = false → q.vector.toNat ∈ f.unmasked →
        ∃ t, exec (.coalesceTimer p) s = .next t ∧ (t.cq p.toNat).pending = 0 ∧ (t.cq p.toNat).timer = false
          ∧ t.out = s.out ++ [.msix q.port q.fn q.vector] ∧ t = { s with rqe := t.rqe, out := t.out })
    ∧ (∀ (s : State) (port : Port) (fn : BitVec 7) (v : BitVec 11), (s.fn port fn).bme = true → (s.fn port fn).msixMask = false →
        (s.fn port fn).pba = [v.toNat] →
        ∃ t, exec (.msixUnmask port fn v) s = .next t ∧ (t.fn port fn).pba = [] ∧ v.toNat ∈ (t.fn port fn).unmasked
          ∧ t.out = s.out ++ [.msix port fn v] ∧ t = { s with rqe := t.rqe, out := t.out }))

/-- R42, R44, R88, R90: over a link that is not cut, an SQE that passes the entry checks is admitted to a tracker entry with its pitch, ring
and priority capped as the pitch allows; one that fails them is refused with a count of the pitch, and leaves no entry: its reservation goes
back (the statement says so where it is not the last of its turn and no other ring has published work, as a ring may then reserve anew). -/
def Obligations.SqeAdmission : Prop :=
  ∀ (s : State) (p : BitVec 12) (i : BitVec 2) (b : Bytes), b.length = 128 → (s.sq p.toNat i.toNat).state = .active →
    s.ideCut (s.sq p.toNat i.toNat).port = false →
    (s.sq p.toNat i.toNat).fetching ≠ 0 → (s.sq p.toNat i.toNat).fenced = false → (s.sq p.toNat i.toNat).refusing = none →
    (entryChecks s p.toNat i.toNat b = none → classKnown b = false → ∃ t x, exec (.sqeDataArrival p i b) s = .next t
      ∧ t.entry s.freeEntryNo = some x ∧ x.sqe = b ∧ x.pitch = p ∧ x.sq = i ∧ x.phase = .admitted ∧ x.csn = none
      ∧ x.prio.toNat = min (fieldLE b 10 2 % 8) ((s.pitch p.toNat).cfg.val.toNat / 256 % 8)
      ∧ (t.sq p.toNat i.toNat).consumed = (s.sq p.toNat i.toNat).consumed + 1
      ∧ (t.sq p.toNat i.toNat).outstanding = (s.sq p.toNat i.toNat).outstanding + 1)
    ∧ (∀ st, entryChecks s p.toNat i.toNat b = some st → ∃ t, exec (.sqeDataArrival p i b) s = .next t
      ∧ (t.sq p.toNat i.toNat).consumed = (s.sq p.toNat i.toNat).consumed + 1
      ∧ (t.pitch p.toNat).refused = (s.pitch p.toNat).refused + 1
      ∧ (1 < (s.sq p.toNat i.toNat).fetching → (∀ k, k ≠ sqKey p.toNat i.toNat → (s.sq (k / 4) (k % 4)).work = 0) →
          (t.pitch p.toNat).inFlight = (s.pitch p.toNat).inFlight - 1)
      ∧ t.sch = s.sch)

/-! ## Pitches -/

/-- R33, R41, R43, R58, R63: the owner or the security controller suspends an ACTIVE pitch, resumes a SUSPENDED one, and sets quota
and reserve within their ranges and the device's sum; a quota or reserve out of range or out of the sum, and a suspension or quota for a
FREE pitch, set PIT_ERR alone, with codes 1, 2 and 3.

Also R58: nobody but the owner and the security controller changes the PIT block by its registers. -/
def Obligations.PitchControl : Prop :=
  (∀ (s : State) (who : Who) (v : Word) (p : Nat), PitMay s who → s.selPitch who = p →
      ((s.pitch p).state = .active → v.getLsbD 0 = true → v.getLsbD 1 = false → ∃ t, exec (.pitchSuspend who v) s = .next t
        ∧ t.pitch p = { s.pitch p with state := .suspended } ∧ (∀ q, q ≠ p → t.pitch q = s.pitch q)
        ∧ t = { withSeals s t with pit := { s.pit with pitches := t.pit.pitches } })
      ∧ ((s.pitch p).state = .suspended → v.getLsbD 0 = false → v.getLsbD 1 = true → ∃ t, exec (.pitchResume who v) s = .next t
        ∧ t.pitch p = { s.pitch p with state := .active } ∧ (∀ q, q ≠ p → t.pitch q = s.pitch q)
        ∧ t = { withSeals s t with pit := { s.pit with pitches := t.pit.pitches } })
      ∧ ((s.pitch p).state ≠ .free → 1 ≤ v.toNat % 2 ^ 18 → v.toNat % 2 ^ 18 ≤ 131072 →
        ∃ t, exec (.pitQuotaReserveWrite who false v) s = .next t
        ∧ t.pitch p = { s.pitch p with quota := v.toNat % 2 ^ 18 } ∧ (∀ q, q ≠ p → t.pitch q = s.pitch q)
        ∧ t = { withSeals s t with pit := { s.pit with pitches := t.pit.pitches } })
      ∧ ((s.pitch p).state ≠ .free → v.toNat % 2 ^ 13 ≤ 4096 → s.reserveSum - (s.pitch p).reserve + v.toNat % 2 ^ 13 ≤ 65536 →
        ∃ t, exec (.pitQuotaReserveWrite who true v) s = .next t
        ∧ t.pitch p = { s.pitch p with reserve := v.toNat % 2 ^ 13 } ∧ (∀ q, q ≠ p → t.pitch q = s.pitch q)
        ∧ t = { withSeals s t with pit := { s.pit with pitches := t.pit.pitches } })
      ∧ ((s.pitch p).state ≠ .free → 4096 < v.toNat % 2 ^ 13 → exec (.pitQuotaReserveWrite who true v) s = .next (pitErr who 1 s))
      ∧ ((s.pitch p).state ≠ .free → v.toNat % 2 ^ 18 = 0 → exec (.pitQuotaReserveWrite who false v) s = .next (pitErr who 1 s))
      ∧ ((s.pitch p).state ≠ .free → v.toNat % 2 ^ 13 ≤ 4096 → 65536 < s.reserveSum - (s.pitch p).reserve + v.toNat % 2 ^ 13 →
        exec (.pitQuotaReserveWrite who true v) s = .next (pitErr who 2 s))
      ∧ ((s.pitch p).state = .free → exec (.pitchSuspend who v) s = .next (pitErr who 3 s)
        ∧ exec (.pitQuotaReserveWrite who false v) s = .next (pitErr who 3 s)))
  ∧ (∀ (s : State) (who : Who) (v : Word), s.isOwner who = false → isSec who = false →
      ∀ c ∈ [Instr.pitchSuspend who v, .pitchResume who v, .pitQuotaReserveWrite who false v, .pitQuotaReserveWrite who true v,
             .cacheShareChange who v, .pitWinCommit who v, .pitBlkOwnerWrite who v],
        exec c s = .next s)

/-- R47, R50, R52, R55, R171: new cache shares within the ranges and sums advance the pitch's generation, so that its entries are stale
(without a wrap of the generation no entry changes); a committed window set replaces all 8 live windows at once; an empty slot block gets
its new owner with the next CSN, an occupied one is refused with code 5, and one of a DELETING pitch with code 3. -/
def Obligations.PitchSharesWindowsBlocks : Prop :=
  ∀ (s : State) (who : Who) (v : Word) (p : Nat), PitMay s who → s.selPitch who = p →
    (((s.pitch p).state = .active ∨ (s.pitch p).state = .suspended) → v.toNat % 2 ^ 13 ≤ 4096 → v.toNat / 2 ^ 16 % 2 ^ 14 ≤ 8192 →
      s.kbcSum - (s.pitch p).kbcCap + v.toNat % 2 ^ 13 ≤ 4096 → s.dkcSum - (s.pitch p).dkcCap + v.toNat / 2 ^ 16 % 2 ^ 14 ≤ 8192 →
      v.toNat % 2 ^ 13 ≠ (s.pitch p).kbcCap → (s.pitch p).gen ≠ 0xFFFF →
      ∃ t, exec (.cacheShareChange who v) s = .next t
      ∧ t.pitch p = { s.pitch p with kbcCap := v.toNat % 2 ^ 13, dkcCap := v.toNat / 2 ^ 16 % 2 ^ 14, gen := (s.pitch p).gen + 1 }
      ∧ (∀ q, q ≠ p → t.pitch q = s.pitch q) ∧ t = { withSeals s t with pit := { s.pit with pitches := t.pit.pitches } })
    ∧ (((s.pitch p).state = .active ∨ (s.pitch p).state = .suspended) → v.getLsbD 0 = true →
      (windowSetOk (padWindows (s.pitch p).staged) = true → ∃ t, exec (.pitWinCommit who v) s = .next t
        ∧ t.pitch p = { s.pitch p with live := padWindows (s.pitch p).staged, winSet := (s.pitch p).winSet + 1 }
        ∧ (∀ q, q ≠ p → t.pitch q = s.pitch q) ∧ t = { s with pit := { s.pit with pitches := t.pit.pitches } })
      ∧ (windowSetOk (padWindows (s.pitch p).staged) = false → exec (.pitWinCommit who v) s = .next (pitErr who 4 s)))
    ∧ (∀ n : Nat, (s.pitSel who).blk.toNat = n → s.csnClosed = false → s.pit.blocks.get .home n = .home → v.getLsbD 12 = false →
      (s.blockUsed n = 0 → (s.pitch n).state ≠ .deleting → (s.pitch (v.toNat % 4096)).state ≠ .deleting → ∃ t, exec (.pitBlkOwnerWrite who v) s = .next t
        ∧ t.blockOwner n = some (v.toNat % 4096) ∧ t.csn = s.csn + 1
        ∧ (∀ k, k ≠ n → t.blockOwner k = s.blockOwner k)
        ∧ t = { withSeals s t with pit := { s.pit with blocks := t.pit.blocks } })
      ∧ ((s.pitch n).state = .deleting → exec (.pitBlkOwnerWrite who v) s = .next (pitErr who 3 s))
      ∧ (s.blockUsed n ≠ 0 → (s.pitch n).state ≠ .deleting → (s.pitch (v.toNat % 4096)).state ≠ .deleting →
        exec (.pitBlkOwnerWrite who v) s = .next (pitErr who 5 s)))

/-- R34, R35, R54: a pitch of the house's making is ACTIVE with the values of the message or their defaults, keeps the number's generation
and bindings, and has a context key; its CSN is in the reply. A deletion begins with the state DELETING; a drained one loses its slots,
windows, completion ring, shares and reserve; once its removals stand in both flashes the number is FREE, with every value but generation,
bindings and window count at its reset, and its record is taken. -/
def Obligations.PitchLifetime : Prop :=
  (∀ (s : State) (h : ZHdr) (v : PitchValues) (x : Pitch) (r : Roster), Gated s 0x0010 h true → h.target.toNat < 4096 →
      (s.lcsState = 2 ∨ s.lcsState = 3) → (s.pitch h.target.toNat).state = .free → createdPitch s v = some (x, r) →
      s.reserveSum + x.reserve ≤ 65536 → s.kbcSum + x.kbcCap ≤ 4096 → s.dkcSum + x.dkcCap ≤ 8192 →
      ∃ t k, exec (.pitchCreate h v) s = .next t ∧ Replied t 0x0010 h 0 (toLE 8 (s.csn + 1)) ∧ t.csn = s.csn + 1
        ∧ t.pitch h.target.toNat = { x with gen := (s.pitch h.target.toNat).gen, bindA := (s.pitch h.target.toNat).bindA,
                                            bindB := (s.pitch h.target.toNat).bindB, fnA := (s.pitch h.target.toNat).fnA,
                                            fnB := (s.pitch h.target.toNat).fnB, winSet := (s.pitch h.target.toNat).winSet,
                                            ctxKey := some k }
        ∧ (∀ q, q ≠ h.target.toNat → t.pitch q = s.pitch q)
        ∧ Recorded s t 0x0303 (toLE 2 0x0010 ++ toLE 2 h.target.toNat ++ toLE 2 (officerMap h.sigs)))
  ∧ (∀ (s : State) (p : BitVec 2) (r : Roster), s.rosterOk r = true →
      ∃ x, createdPitch s { personality := some (p.setWidth 8), roster := some r } = some (x, r) ∧ x.state = .active ∧ x.pers = p
        ∧ x.quota = 32 ∧ x.reserve = 0 ∧ x.weight = 16 ∧ x.kbcCap = 1 ∧ x.dkcCap = (if p = 0 then 2 else 0)
        ∧ x.cfg = ⟨0x701, 0xFFFFF8FE⟩ ∧ x.roster = some r)
  ∧ (∀ (s : State) (h : ZHdr), Gated s 0x0011 h true → h.target.toNat < 4096 → Serving s h.target.toNat →
      ∃ t, exec (.pitchDelete h) s = .next t ∧ Replied t 0x0011 h 0 (toLE 8 (s.csn + 1))
        ∧ t.pitch h.target.toNat = { s.pitch h.target.toNat with state := .deleting, delStep := 0, exportAuth := none }
        ∧ t = { withMessage s t with pit := { s.pit with pitches := t.pit.pitches } })
  ∧ (∀ (s : State) (p : BitVec 12), (s.pitch p.toNat).state = .deleting → (s.pitch p.toNat).inFlight = 0 →
      (s.pitch p.toNat).delStep = 0 → s.storeWaits = false → ∃ t, exec (.pitchDeleteDrained p) s = .next t
        ∧ (t.pitch p.toNat).live = [] ∧ (t.pitch p.toNat).kbcCap = 0 ∧ (t.pitch p.toNat).dkcCap = 0 ∧ (t.pitch p.toNat).reserve = 0
        ∧ (t.pitch p.toNat).gen = (s.pitch p.toNat).gen + 1 ∧ t.slotsUsed p.toNat = 0
        ∧ (t.pitch p.toNat).delStep = s.slotsUsed p.toNat + 1 ∧ t.cq p.toNat = {}
        ∧ (∀ e ∈ s.kst.slots, s.blockOwner (e.1 / 64) ≠ some p.toNat → e.2 ≠ {} → e ∈ t.kst.slots))
  ∧ (∀ (s : State) (p : BitVec 12), (s.pitch p.toNat).state = .deleting → (s.pitch p.toNat).delStep ≠ 0 → s.caches.sweeps = [] →
      s.removalPending p.toNat = false → s.csnClosed = false → ExemptRoom s → ∃ t, exec (.pitchFreed p) s = .next t
        ∧ t.pitch p.toNat = { gen := (s.pitch p.toNat).gen, bindA := (s.pitch p.toNat).bindA, bindB := (s.pitch p.toNat).bindB,
                              fnA := (s.pitch p.toNat).fnA, fnB := (s.pitch p.toNat).fnB, winSet := (s.pitch p.toNat).winSet }
        ∧ (∀ q, q ≠ p.toNat → t.pitch q = s.pitch q) ∧ t.csn = s.csn + 1
        ∧ Recorded s t 0x0402 (toLE 2 p.toNat ++ toLE 4 ((s.pitch p.toNat).delStep - 1))
        ∧ t = { withSeals s t with pit := { s.pit with pitches := t.pit.pitches } })

/-! ## Zhoavan messages -/

/-- R386, R389, R390, R411: a message from anyone but the owner has no effect beyond the I3C link's sign of life; the owner's is answered
0x0012 by a device in a role that does not carry it out, 7 without its live nonce, and 6 with a QUORUM_REFUSED record and its nonce ended
where the quorum does not hold; none of these changes the state that the message asks for. R304, R311: messages that write slots wait while
such writes are deferred. -/
def Obligations.MessageGate : Prop :=
  ∀ (s : State) (h : ZHdr) (v : PitchValues) (b : PmkBody) (n : Nat) (slot : BitVec 18) (attrs : BitVec 128) (cond : BurnConditions)
    (k : Bytes), ∀ x ∈ gatedMessages h v b n slot attrs cond k,
    (x.1 ∈ storeMessages → s.storeWaits = true → exec x.2.2 s = .next s)
    ∧ (s.isOwner h.sender = false → ∃ t, exec x.2.2 s = .next t ∧ t = { s with own := { s.own with i3cSilent := t.own.i3cSilent } })
    ∧ ((x.1 ∈ storeMessages → s.storeWaits = false) →
      (Taken s h → s.carriesOut = false →
        ∃ t, exec x.2.2 s = .next t ∧ Replied t x.1 h 0x12 [] ∧ t = withMessage s t ∧ t.own.ceremonies = s.own.ceremonies)
      ∧ (Carried s h → s.nonceFor h = none →
        ∃ t, exec x.2.2 s = .next t ∧ Replied t x.1 h 7 [] ∧ t = withMessage s t ∧ t.csn = s.csn)
      ∧ (Carried s h → Room 0x0304 s → (s.nonceFor h).isSome = true →
        (∀ r, s.rosterFor x.2.1 h.target = some r → quorumOk r (zhDigest x.1 h) h.sigs = false) →
        ∃ t, exec x.2.2 s = .next t ∧ Replied t x.1 h 6 [] ∧ t = withMessage s t ∧ t.csn = s.csn
          ∧ (t.pitSel h.sender).errCode = 6 ∧ (t.pitSel h.sender).errValid = true ∧ (∀ y ∈ t.own.ceremonies, y.nonce ≠ h.nonce)
          ∧ Recorded s t 0x0304 (toLE 2 x.1.toNat ++ toLE 2 h.target.toNat ++ toLE 2 6)))

/-- R385, R386, R387, R390, R397, R437, R467: messages without a quorum: a nonce of instance 9, kept for its sender and pitch field, and at
most 4 live; evidence, with signatures where an identity key exists; the GPIO register read and written as the owner; a pitch's quota and
weight changed together; the tally's held records; a fragment in order is kept, one out of order discards the message; an unknown type is
answered 1; a nonce that expires is gone. -/
def Obligations.OpenMessages : Prop :=
  (∀ (s : State) (h : ZHdr), Carried s h → (s.drbg 9).state ≠ 2 → ∃ t c rest, exec (.nonceGet h) s = .next t
      ∧ t.own.ceremonies = (if s.own.ceremonies.length < 4 then s.own.ceremonies else s.own.ceremonies.drop 1) ++ [c]
      ∧ c.nonce = s.drbgOut 9 32 ∧ c.owner = h.sender ∧ c.target = h.target ∧ Replied t 0x0001 h 0 (c.nonce ++ rest)
      ∧ t = { withMessage s t with units := { s.units with drbgs := t.units.drbgs, seedBlocks := t.units.seedBlocks } })
  ∧ (∀ (s : State) (h : ZHdr), Taken s h → ∃ t sig, exec (.attest h) s = .next t
      ∧ Replied t 0x0002 h 0 (s.evidence ++ sig) ∧ (s.kst.identity = false → sig = [])
      ∧ t = { withMessage s t with units := { s.units with drbgs := t.units.drbgs, seedBlocks := t.units.seedBlocks } })
  ∧ (∀ (s : State) (h : ZHdr) (v : Word), Taken s h →
      (∃ t, exec (.regAccess h false 0x000084 v) s = .next t ∧ Replied t 0x0003 h 0 (toLE 4 s.glb.gpioOut.toNat) ∧ t = withMessage s t)
      ∧ ∃ t, exec (.regAccess h true 0x000084 v) s = .next t ∧ Replied t 0x0003 h 0 [] ∧ t.glb.gpioOut = v.extractLsb' 0 16)
  ∧ (∀ (s : State) (h : ZHdr) (q w : Nat), Carried s h → h.target.toNat < 4096 → Serving s h.target.toNat →
      s.reserveSum ≤ 65536 → (s.pitch h.target.toNat).kbcCap ≤ 4096 → (s.pitch h.target.toNat).dkcCap ≤ 8192 → s.kbcSum ≤ 4096 →
      s.dkcSum ≤ 8192 → 1 ≤ q → q ≤ 131072 → 1 ≤ w → w ≤ 255 →
      ∃ t, exec (.pitchConfig h { quota := some q, weight := some w }) s = .next t ∧ Replied t 0x0012 h 0 []
        ∧ (t.pitch h.target.toNat).quota = q ∧ (t.pitch h.target.toNat).weight = w
        ∧ (t.pitch h.target.toNat).reserve = (s.pitch h.target.toNat).reserve
        ∧ (t.pitch h.target.toNat).gen = (s.pitch h.target.toNat).gen ∧ t.csn = s.csn)
  ∧ (∀ (s : State) (h : ZHdr) (first : Word) (count : BitVec 16), Taken s h →
      s.lcsState ≠ 5 → s.lcsState ≠ 15 → 1 ≤ count.toNat → count.toNat ≤ 255 →
      ∃ t n, exec (.tallyRead h first count) s = .next t ∧ t = withMessage s t ∧ t.tly = s.tly
        ∧ (∀ r l, s.tallyRange first count.toNat = r :: l → n = r.number)
        ∧ Replied t 0x0050 h 0 (toLE 4 n.toNat ++ toLE 2 (s.tallyRange first count.toNat).length ++ [0, 0]
            ++ ((s.tallyRange first count.toNat).map TallyRec.bytes).flatten))
  ∧ (∀ (s : State) (who : Who) (i : BitVec 16) (sofar body : Bytes), s.isOwner who = true → s.own.fragment = some (i, sofar) → i ≠ 0 →
      body.length ≤ 240 → sofar.length + body.length ≤ 16384 →
      (∃ t, exec (.zhoavanFragment who i body) s = .next t ∧ t.own.fragment = some (i + 1, sofar ++ body) ∧ t = withMessage s t)
      ∧ (∀ j : BitVec 16, j ≠ i → j ≠ 0 → ∃ t, exec (.zhoavanFragment who j body) s = .next t ∧ t.own.fragment = none ∧ t = withMessage s t))
  ∧ (∀ (s : State) (h : ZHdr) (ty : BitVec 16), Taken s h → ∃ t, exec (.unknownMessageType h ty) s = .next t ∧ Replied t ty h 1 []
      ∧ t = withMessage s t)
  ∧ (∀ (s : State) (n : Bytes), ∃ t, exec (.nonceExpiry n) s = .next t ∧ (∀ y ∈ t.own.ceremonies, y.nonce ≠ n)
      ∧ (∀ y ∈ s.own.ceremonies, y.nonce ≠ n → y ∈ t.own.ceremonies) ∧ t = { s with own := { s.own with ceremonies := t.own.ceremonies } })

/-- R149, R392, R394, R396, R165: the pitch's quorum loads a PMK into an empty entry and an empty slot of the pitch with the next CSN,
answered with the CSN and its check values; clears an entry and its slot; sets the pitch's roster and its digest; authorises exports for a
time; widens the attributes of a key of its own, without a new generation; an export authorisation with a duration ends at its expiry. -/
def Obligations.PitchQuorumMessages : Prop :=
  (∀ (s : State) (h : ZHdr) (b : PmkBody) (c : Ceremony) (n : BitVec 18) (k : Bytes) (l : List Bytes), Gated s 0x0020 h false →
      s.storeWaits = false → Serving s h.target.toNat → s.nonceFor h = some c → b.entry < 4 → (s.pitch h.target.toNat).pmk.getD b.entry none = none →
      pmkOf h.target.toNat c.seed h.nonce b s = .ok (k, l) → b.slot = some n →
      s.blockOwner (n.toNat / 64) = some h.target.toNat → slotEmpty s n.toNat = true →
      ∃ t, exec (.pmkLoad h b) s = .next t ∧ t.csn = s.csn + 1
        ∧ Replied t 0x0020 h 0 (toLE 8 (s.csn + 1) ++ kcvKbpk k ++ (l.map kcvKbpk).flatten)
        ∧ (t.pitch h.target.toNat).pmk = (s.pitch h.target.toNat).pmk.set b.entry (some n)
        ∧ (t.slot n.toNat).key = padTo 32 (k.take 32) ∧ (t.slot n.toNat).gen = (s.slot n.toNat).gen + 1
        ∧ (∀ m, m ≠ n.toNat → t.slot m = s.slot m))
  ∧ (∀ (s : State) (h : ZHdr) (i : Nat) (n : BitVec 18), Gated s 0x0021 h false → s.storeWaits = false → Serving s h.target.toNat →
      (s.pitch h.target.toNat).pmk.getD i none = some n →
      ∃ t, exec (.pmkClear h i) s = .next t ∧ Replied t 0x0021 h 0 (toLE 8 (s.csn + 1)) ∧ t.csn = s.csn + 1
        ∧ (t.pitch h.target.toNat).pmk = (s.pitch h.target.toNat).pmk.set i none
        ∧ t.slot n.toNat = { gen := (s.slot n.toNat).gen + 1 } ∧ (∀ m, m ≠ n.toNat → t.slot m = s.slot m)
        ∧ t = { withMessage s t with kst := { (withMessage s t).kst with slots := t.kst.slots },
                                     pit := { s.pit with pitches := t.pit.pitches } })
  ∧ (∀ (s : State) (h : ZHdr) (r : Roster), Gated s 0x0022 h false → Serving s h.target.toNat → h.target.toNat < 4096 →
      s.rosterOk r = true → ∃ t, exec (.rosterSet h r) s = .next t ∧ Replied t 0x0022 h 0 (toLE 8 (s.csn + 1))
        ∧ t.pitch h.target.toNat = { s.pitch h.target.toNat with roster := some r, rosterDigest := sha384 (rosterBytes r) }
        ∧ t = { withMessage s t with pit := { s.pit with pitches := t.pit.pitches } })
  ∧ (∀ (s : State) (h : ZHdr) (secs n : Nat), Gated s 0x0023 h false → Serving s h.target.toNat → 1 ≤ secs → secs ≤ 3600 →
      1 ≤ n → n ≤ 65535 → ∃ t, exec (.exportAuth h secs n) s = .next t ∧ Replied t 0x0023 h 0 []
        ∧ t.pitch h.target.toNat = { s.pitch h.target.toNat with exportAuth := some { seconds := secs, count := n } }
        ∧ t = { withMessage s t with pit := { s.pit with pitches := t.pit.pitches } })
  ∧ (∀ (s : State) (h : ZHdr) (n : BitVec 18) (attrs : BitVec 128) (k : Key), Gated s 0x0024 h false → s.storeWaits = false → Serving s h.target.toNat →
      s.slotKey n.toNat = some k → s.blockOwner (n.toNat / 64) = some h.target.toNat →
      (s.pitch h.target.toNat).pmk.contains (some n) = false → widens k.attr (Attr.unpack attrs) = true →
      ∃ t, exec (.attrWiden h n attrs) s = .next t ∧ Replied t 0x0024 h 0 (toLE 8 (s.csn + 1))
        ∧ t.slot n.toNat = { s.slot n.toNat with attrs := (Attr.unpack attrs).pack } ∧ (∀ m, m ≠ n.toNat → t.slot m = s.slot m)
        ∧ t = { withMessage s t with kst := { (withMessage s t).kst with slots := t.kst.slots } })
  ∧ (∀ (s : State) (p : BitVec 12) (a : ExportAuth), (s.pitch p.toNat).exportAuth = some a →
      ∃ t, exec (.exportAuthExpiry p) s = .next t ∧ t.pitch p.toNat = { s.pitch p.toNat with exportAuth := none }
        ∧ t = { s with pit := { s.pit with pitches := t.pit.pitches } })

/-! ## Lifecycle, fuses, ownership -/

/-- R373, R377, R378, R379, R381, R382: a transition whose conditions hold starts its burn with its CSN in the reply: to FIELDED the class
fuses and the lifecycle bit, to SCRAPPED the erase and then the bits in rising order; where a condition of R381 fails it is refused with
0x0011, where the state or target does not allow it with 0x0010, and neither burns a fuse. A window that ends verified blows its bit in both
codes, one that is interrupted leaves a pattern that is no state; the transitions of the factory need their own conditions alone. -/
def Obligations.LifecycleTransitions : Prop :=
  (∀ (s : State) (h : ZHdr) (c : BurnConditions) (r : Roster), Carried s h → ExemptRoom s → (s.nonceFor h).isSome = true →
      s.own.houseRoster = some r → s.lcs.plan = [] → s.burnCheck c true = 0 → s.transitionOk h 3 = true →
      ∃ t, exec (.lcsTransition h 3 c) s = .next t
        ∧ (quorumOk r (zhDigest 0x0040 h) h.sigs = true → Replied t 0x0040 h 0 (toLE 8 (s.csn + 1))
          ∧ t.lcs.plan = [.classFuses, .bit 2, .finish] ∧ t.lcs.burnState = 1 ∧ t.lcs.phase = 2 ∧ t.lcs.fuses = s.lcs.fuses
          ∧ t.csn = s.csn + 2)
        ∧ (quorumOk r (zhDigest 0x0040 h) h.sigs = false → Replied t 0x0040 h 6 [] ∧ t.lcs = s.lcs ∧ t.csn = s.csn))
  ∧ (∀ (s : State) (h : ZHdr) (c : BurnConditions), Gated s 0x0040 h true → s.lcs.plan = [] → s.burnCheck c true = 0 →
      (s.lcsState = 2 ∨ s.lcsState = 3) → ∃ t, exec (.lcsTransition h 5 c) s = .next t ∧ Replied t 0x0040 h 0 (toLE 8 (s.csn + 1))
        ∧ t.lcs.plan = burnBits s.lcsState 5 ++ [.finish] ∧ t.lcs.burnState = 0 ∧ t.lcs.phase = 1 ∧ t.lcs.fuses = s.lcs.fuses
        ∧ t.kst.line = true ∧ t.bat.seed = none ∧ t.kst.opened = false ∧ t.kst.flash0 = {} ∧ t.kst.flash1 = {})
  ∧ (∀ (s : State) (h : ZHdr) (n : BitVec 4) (c : BurnConditions), Gated s 0x0040 h true →
      (s.transitionOk h n.toNat = false → ∃ t, exec (.lcsTransition h n c) s = .next t ∧ Replied t 0x0040 h 0x10 [] ∧ t.lcs = s.lcs ∧ t.csn = s.csn)
      ∧ (s.transitionOk h n.toNat = true → s.lcs.plan = [] → s.burnCheck c true ≠ 0 → ∃ t, exec (.lcsTransition h n c) s = .next t
        ∧ Replied t 0x0040 h 0x11 [] ∧ t.lcs = { s.lcs with precheck := s.burnCheck c true, burnState := 3 } ∧ t.csn = s.csn))
  ∧ (∀ (s : State) (n : Nat) (l : List BurnStep), s.lcs.burnState = 1 → s.lcs.plan = .bit n :: .bit (n + 1) :: l → n < 4 →
      (∃ t, exec (.fuseBurnDone true) s = .next t ∧ t.lcs.plan = .bit (n + 1) :: l ∧ t.lcs.fuses.lcsT.getLsbD n = true
        ∧ t.lcs.fuses.lcsC.getLsbD n = false ∧ (∀ k, k ≠ n → t.lcs.fuses.lcsT.getLsbD k = s.lcs.fuses.lcsT.getLsbD k
            ∧ t.lcs.fuses.lcsC.getLsbD k = s.lcs.fuses.lcsC.getLsbD k) ∧ t = { s with lcs := t.lcs, rng := t.rng })
      ∧ (s.lcs.fuses.lcsC.getLsbD n = true → ∃ t, exec (.fuseBurnDone false) s = .next t ∧ t.lcsState = 15 ∧ t.lcs.plan = []))
  ∧ (∀ (s : State) (c : BurnConditions), s.lcsState = 0 → s.lcs.plan = [] → s.burnCheck c false = 0 →
      ∃ t, exec (.waferTestTransition c) s = .next t ∧ t.lcs.plan = [.bit 0, .finish] ∧ t.lcs.burnState = 1 ∧ t.lcs.target = 1
        ∧ t = { s with lcs := t.lcs })
  ∧ (∀ (s : State), s.lcsState = 1 → s.lcs.plan = [] → s.lcs.fuses.drs = true →
      ∃ t, exec (.manufacturingTransition true) s = .next t ∧ t.lcs.plan = [.bit 1, .finish] ∧ t.lcs.burnState = 1 ∧ t.lcs.target = 2
        ∧ t = { s with lcs := t.lcs })
  ∧ (∀ (s : State) (k : VendorToken) (c : BurnConditions), s.lcsState = 1 → s.lcs.plan = [] → s.burnCheck c true = 0 → s.csnClosed = false →
      ∃ t, exec (.jtagScrap k c) s = .next t ∧ (tokenOk k [5] = false → t = s)
        ∧ (tokenOk k [5] = true → t.lcs.plan = burnBits 1 5 ++ [.finish] ∧ t.kst.line = true ∧ t.bat.seed = none ∧ t.csn = s.csn + 1))

/-- R307, R358, R359, R384, R393, R398, R399, R452: ZEROISE raises the erase line with source 2 and clears the seeds and keys; TMP_CLASS
is committed at the owner's request in INTEGRATOR; TAMPER_FUSE in FIELDED raises a class and blows its fuses; OWNER_ROTATE burns slot 1 and
revokes slot 0; FUSE_REPAIR fuses the pending repairs; REINTEGRATE with the owner's signature and the version of the roster record makes a
new store with a seed, clears the latch and starts cold, and is refused with 6 without them.

Also R434, R435: an image staged goes to the slot that does not run in both flashes, and is staged where its signatures and digest pass,
which the reply says; its acceptance makes it preferred, its version and that of its recipe set the minima (R137), and is answered with
its CSN; an older one, or one with an older set, is refused with 0x0021. -/
def Obligations.DeviceMessages : Prop :=
  ((∀ (s : State) (h : ZHdr), Gated s 0x0042 h true → s.kst.line = false → s.lcs.phase ≠ 1 →
        ∃ t, exec (.zeroise h) s = .next t ∧ Replied t 0x0042 h 0 (toLE 8 (s.csn + 1)) ∧ t.kst.line = true ∧ t.kst.phase = 1
          ∧ t.kst.readable = false ∧ t.kst.seedNew = 0 ∧ t.kst.seedOld = 0 ∧ t.kst.houseNew = 0 ∧ t.kst.houseOld = 0 ∧ t.kst.checkKey = 0
          ∧ t.kst.memKey = 0 ∧ t.kst.dsk = none ∧ t.kst.identity = false ∧ t.caches.kbc = [] ∧ t.caches.dkc = [] ∧ t.units.reqs = []
          ∧ t.bat.latch = true ∧ t.bat.latchSource = 2)
    ∧ (∀ (s : State) (h : ZHdr) (b : BitVec 2) (v : Word), Carried s h → s.lcsState = 2 → b ≠ 3 → anyField3 v 16 = false →
        ∃ t, exec (.tamperClass h b v) s = .next t ∧ Replied t 0x0043 h 0 [] ∧ t.rwiGet (.tmpClass b.toNat) = ⟨v, ~~~v⟩
          ∧ (∀ r, r ≠ .tmpClass b.toNat → t.rwiGet r = s.rwiGet r))
    ∧ (∀ (s : State) (h : ZHdr) (n : BitVec 6) (cls : BitVec 2) (c : BurnConditions), Gated s 0x0044 h true → s.lcsState = 3 →
        n.toNat < 48 → fixedSource n.toNat = false → s.classOf n.toNat < cls.toNat → cls ≠ 3 → s.burnCheck c true = 0 →
        ∃ t, exec (.tamperFuse h n false cls c) s = .next t ∧ Replied t 0x0044 h 0 (toLE 8 (s.csn + 1)) ∧ t.classOf n.toNat = cls.toNat
          ∧ (∀ k, k < 48 → k ≠ n.toNat → t.classOf k = s.classOf k)
          ∧ t.lcs.fuses.cls = s.lcs.fuses.cls ||| BitVec.ofNat 96 (classThermo cls.toNat * 4 ^ n.toNat))
    ∧ (∀ (s : State) (h : ZHdr) (k : Bytes) (c : BurnConditions), Gated s 0x0046 h true → (s.lcsState = 2 ∨ s.lcsState = 3) → k.length = 48 →
        s.lcs.fuses.owner0.burned = true → s.lcs.fuses.owner1.burned = false → s.burnCheck c true = 0 →
        ∃ t, exec (.ownerRotate h k c) s = .next t ∧ Replied t 0x0046 h 0 (toLE 8 (s.csn + 1))
          ∧ t.lcs.fuses = { s.lcs.fuses with owner0 := { s.lcs.fuses.owner0 with revoked := true }, owner1 := { burned := true, hash := k } })
    ∧ (∀ (s : State) (h : ZHdr) (c : BurnConditions), Carried s h → s.lcsState = 2 → s.burnCheck c true = 0 →
        ∃ t, exec (.fuseRepair h c) s = .next t ∧ Replied t 0x0045 h 0 [] ∧ t.bst = { s.bst with pending := 0 }
          ∧ t.lcs.fuses.repairs = min 512 (s.lcs.fuses.repairs + s.bst.pending.toNat))
    ∧ (∀ (s : State) (h : ZHdr), Gated s 0x0051 h true → ∃ t, exec (.tallyClear h) s = .next t ∧ Replied t 0x0051 h 0 []
          ∧ t.tly.tail = [] ∧ t.tly.erasing = false ∧ (∀ r ∈ s.tly.head, r ∈ t.tly.head))
    ∧ (∀ (s : State) (h : ZHdr) (d : Byte) (r : Roster), Taken s h → s.carriesOut = true → s.reintegrable = true → (s.nonceFor h).isSome = true →
        s.own.houseRecord = some r → quorumOk r (reintegrateDigest h) h.sigs = true →
        ∃ t, exec (.reintegrate h d s.own.houseVersion) s = .next t
          ∧ (s.ownerSigOk (reintegrateDigest h) h.ownerSig = false → Replied t 0x0041 h 6 [] ∧ t.bat = s.bat ∧ t.kst = s.kst)
          ∧ (s.ownerSigOk (reintegrateDigest h) h.ownerSig = true → Replied t 0x0041 h 0 (toLE 8 (s.csn + 1)) ∧ t.bat.latch = false
              ∧ t.bat.seed ≠ none ∧ t.kst.flash0.header = some deviceFingerprint ∧ t.kst.flash0 = t.kst.flash1
              ∧ t.kst.flash0.holdup = d ∧ t.glb.startDone = false)))
  ∧ ((∀ (s : State) (h : ZHdr) (i : Image), Carried s h → (s.lcsState = 2 ∨ s.lcsState = 3 ∨ s.lcsState = 4) →
        ∃ t, exec (.fwStage h i) s = .next t ∧ t.glb.staged = (if imageOk i then some i else none)
          ∧ (if s.spareSlot then t.glb.slotB0 = some i ∧ t.glb.slotB1 = some i ∧ t.glb.slotA0 = s.glb.slotA0
             else t.glb.slotA0 = some i ∧ t.glb.slotA1 = some i ∧ t.glb.slotB0 = s.glb.slotB0)
          ∧ Replied t 0x0030 h 0 [if imageOk i then 1 else 0] ∧ t = { withMessage s t with glb := t.glb })
    ∧ (∀ (s : State) (h : ZHdr) (i : Image), Gated s 0x0031 h true → s.lcsState ≠ 4 → s.glb.staged = some i →
        (s.glb.minVersion.toNat ≤ i.version.toNat → s.setAccepted i = true → ∃ t, exec (.fwAccept h) s = .next t
          ∧ t.glb.preferB = s.spareSlot ∧ t.glb.minVersion = i.version ∧ t.glb.minRecipe = s.raisedRecipe i ∧ t.glb.recipes = i.recipes
          ∧ t.glb.staged = none ∧ Replied t 0x0031 h 0 (toLE 8 (s.csn + 1)))
        ∧ (i.version.toNat < s.glb.minVersion.toNat ∨ s.setAccepted i = false → ∃ t, exec (.fwAccept h) s = .next t ∧ t.glb = s.glb ∧ Replied t 0x0031 h 0x21 [])))

/-- R393, R395, R397, R400: a claim waits as its buffer stands; its verification accepts it or leaves the refusal's code and draws a new
nonce, and a claim of another form, an unknown nonce or a key without a slot is refused with codes 1, 2 and 4. The owner, and only the
owner, hands over to a candidate whose link is up, cancels that, or releases; a handover ends by itself, and an owner whose link is down
loses the ownership: the epoch advances, no nonce is alive, and the change is recorded. -/
def Obligations.OwnershipChanges : Prop :=
  (∀ (s : State) (n : BitVec 6) (v : Word), isCandidate n = true → v.getLsbD 0 = true → s.hostCut (.ini n) = false →
      ∃ t, exec (.ownClaim (.ini n) v) s = .next t
      ∧ t.own.claims = s.own.claims ++ [(n, s.claimBuffer n)] ∧ (t.candidate n).status = 1 ∧ t.own.owner = s.own.owner
      ∧ t = { s with own := { s.own with claims := t.own.claims, candidates := t.own.candidates } })
  ∧ (∀ (s : State) (n : BitVec 6) (b : Bytes) (l : List (BitVec 6 × Bytes)) (c : BurnConditions), s.own.claims = (n, b) :: l →
      (∃ t, exec (.claimVerified c) s = .next t ∧ t.own.claims = l
        ∧ (s.claimCode n b c = 0 → (t.candidate n).status = 2 ∧ t.own.owner = n)
        ∧ (s.claimCode n b c ≠ 0 → (t.candidate n).status = 3 ∧ (t.candidate n).code = s.claimCode n b c
          ∧ (t.candidate n).nonce = s.drbgOut 9 32 ∧ t.own.owner = s.own.owner ∧ t.own.state = s.own.state
          ∧ t.own.epoch = s.own.epoch))
      ∧ (isCandidate ((byteAt b 2).setWidth 6) = true → claimFormOk n b = false → s.claimCode n b c = 1)
      ∧ (isCandidate ((byteAt b 2).setWidth 6) = true → claimFormOk n b = true → slice b 8 32 ≠ (s.candidate n).nonce → s.claimCode n b c = 2)
      ∧ (isCandidate ((byteAt b 2).setWidth 6) = true → claimFormOk n b = true → slice b 8 32 = (s.candidate n).nonce →
          s.credential (claimKey b) = false → s.firstClaim b = false → s.claimCode n b c = 4))
  ∧ (∀ (s : State) (who : Who) (v : Word), s.isOwner who = true → s.hostCut who = false → s.own.state = 1 → v.getLsbD 8 = false →
      (isCandidate (v.extractLsb' 0 6) = true → v.extractLsb' 0 6 ≠ s.own.owner → s.linkIsDown (v.extractLsb' 0 6) = false →
        ∃ t, exec (.handoverStart who v) s = .next t ∧ t.own.state = 2 ∧ t.own.target = v.extractLsb' 0 6 ∧ t.own.owner = s.own.owner
          ∧ t = { s with own := t.own })
      ∧ (v.extractLsb' 0 6 = 0 → ExemptRoom s → Draws s → ∃ t, exec (.ownerRelease who v) s = .next t ∧ t.own.state = 0 ∧ t.own.owner = 0
        ∧ t.own.epoch = s.own.epoch + 1 ∧ t.own.ceremonies = [] ∧ t.own.key = []
        ∧ Recorded s t 0x0305 [s.own.owner.setWidth 8, 0, 3]))
  ∧ (∀ (s : State) (who : Who) (v : Word), s.isOwner who = true → s.hostCut who = false → s.own.state = 2 → v.getLsbD 8 = true →
      ∃ t, exec (.handoverCancel who v) s = .next t ∧ t.own.state = 1 ∧ t.own.target = 0 ∧ t.own.owner = s.own.owner
        ∧ (t.candidate s.own.owner).status = 3 ∧ (t.candidate s.own.owner).code = 8)
  ∧ (∀ (s : State) (who : Who) (v : Word), s.isOwner who = false →
      exec (.handoverStart who v) s = .next s ∧ exec (.ownerRelease who v) s = .next s ∧ exec (.handoverCancel who v) s = .next s)
  ∧ (∀ s : State, s.own.state = 2 → (∃ t, exec .handoverTimeout s = .next t ∧ t.own.state = 1 ∧ t.own.target = 0 ∧ t.own.owner = s.own.owner
        ∧ t = { s with own := t.own })
      ∧ (s.own.target = 0x2E → ∃ t, exec .i3cLinkSilence s = .next t ∧ t.own.i3cSilent = true ∧ t.own.state = 1 ∧ t.own.owner = s.own.owner))
  ∧ (∀ s : State, s.own.state ≠ 0 → s.linkIsDown s.own.owner = true → ExemptRoom s → Draws s → ∃ t, exec .ownerLinkLoss s = .next t
      ∧ t.own.state = 0 ∧ t.own.owner = 0 ∧ t.own.epoch = s.own.epoch + 1 ∧ t.own.ceremonies = []
      ∧ Recorded s t 0x0305 [s.own.owner.setWidth 8, 0, 4])

/-! ## Key store, caches, erasure -/

/-- R297, R301 to R305: each churn interval moves the boundary one slot and at the end clears the old seeds, then a new sweep shifts both
pairs of seeds, counts the epoch and captures the period; no key changes. A single-bit error of the slot at the boundary is corrected and
counted; a worse one holds the boundary until the slot is read again. A pause of 10 s is recorded. A slot read again from the sealed store
is as it was sealed; one that is not held is emptied with a new generation. -/
def Obligations.ChurnAndRestore : Prop :=
  (∀ s : State, s.churnPaused = false → s.kst.cleared = false → s.kst.restoring = none → s.kst.boundary < 262144 →
      exec (.churnRemask .clean) s = .next { s with kst := { s.kst with
        boundary := s.kst.boundary + 1,
        seedOld := if s.kst.boundary + 1 = 262144 then 0 else s.kst.seedOld,
        houseOld := if s.kst.boundary + 1 = 262144 then 0 else s.kst.houseOld } }
      ∧ (∀ n : BitVec 18, n.toNat = s.kst.boundary →
        (∃ t, exec (.churnRemask (.single n)) s = .next t ∧ t.kst.boundary = s.kst.boundary + 1 ∧ t.kst.corrected = satInc s.kst.corrected
          ∧ t = { s with kst := t.kst })
        ∧ exec (.churnRemask (.double n)) s = .next { s with kst := { s.kst with restoring := some (n, false) } }
        ∧ ∃ t, exec (.churnRemask (.tag n)) s = .next t ∧ t.kst.boundary = s.kst.boundary ∧ t.kst.restoring = some (n, true)
          ∧ t.kst.tagFail = satInc s.kst.tagFail))
  ∧ (∀ (s : State) (f : SlotFault), s.churnPaused = false → s.kst.cleared = false → s.kst.restoring = none → s.kst.boundary = 262144 →
      ∃ t, exec (.churnRemask f) s = .next t ∧ t.kst.boundary = 0
      ∧ t.kst.epoch = s.kst.epoch + 1 ∧ t.kst.seedOld = s.kst.seedNew ∧ t.kst.seedNew = BitVec.ofNat 256 (leNat (s.drbgOut 9 32))
      ∧ t.kst.houseOld = s.kst.houseNew ∧ t.kst.sweepPeriod = s.kst.churnPeriod.val.extractLsb' 0 2 ∧ t.kst.slots = s.kst.slots)
  ∧ (∀ (s : State) (f : SlotFault), s.churnPaused = true → exec (.churnRemask f) s = .next s)
  ∧ (∀ s : State, s.churnPaused = true → ExemptRoom s → ∃ t, exec .churnLagTimer s = .next t ∧ t.kst.lagging = true
      ∧ Recorded s t 0x0202 (toLE 4 10 ++ toLE 4 s.kst.epoch.toNat ++ toLE 4 s.kst.boundary) ∧ (Routed 361 s → Pends 361 t)
      ∧ t = { withNotes s t with kst := { s.kst with lagging := true } })
  ∧ (∀ (s : State) (n : BitVec 18) (v : Slot), (s.waitingFor n.toNat ≠ [] ∨ s.churnFor n.toNat ≠ none) → s.sealedSlot n.toNat = some v →
      ∃ t, exec (.slotRestoreDone n true) s = .next t ∧ t.slot n.toNat = v ∧ t.kst.restored = satInc s.kst.restored
        ∧ (∀ m, m ≠ n.toNat → t.slot m = s.slot m) ∧ t.churnFor n.toNat = none
        ∧ (∀ e ∈ s.waitingFor n.toNat, ∀ x, t.entry e.1 = some x → x.restore = none))
  ∧ (∀ (s : State) (n : BitVec 18), (s.waitingFor n.toNat ≠ [] ∨ s.churnFor n.toNat ≠ none) → ∃ t, exec (.slotRestoreDone n false) s = .next t
      ∧ t.slot n.toNat = { gen := (s.slot n.toNat).gen + 1 } ∧ (∀ m, m ≠ n.toNat → t.slot m = s.slot m))
  ∧ (∀ (s : State) (n : BitVec 18) (ok : Bool), s.waitingFor n.toNat = [] → s.churnFor n.toNat = none →
      exec (.slotRestoreDone n ok) s = .next s)

/-- R308, R309, R311, R361: the overwrite leaves no slot, seed state, roster or journal record, takes a CSN for its record, and every
command in flight has its completion; the restart instantiates the DRBGs that failed no known-answer test, and gives empty caches with a new
cache epoch and an empty memory that can be read. Pending journal records are written to both flashes once instance 9 gives their IVs.

Also R171, R172, R233: a flush by the security controller leaves no valid entry of its pitch in that cache and every entry of the others,
and the sweep that it starts ends; a flush by anyone else has no effect. -/
def Obligations.ErasureJournalFlushes : Prop :=
  ((∀ s : State, s.kst.line = true → ∃ t, exec .eraseOverwriteDone s = .next t ∧ t.kst.slots = [] ∧ t.kst.journal = [] ∧ t.kst.writing = []
        ∧ t.kst.phase = 3 ∧ t.kst.overwriteOk = true ∧ t.kst.line = false ∧ t.kst.bond = none ∧ t.own.houseRoster = none
        ∧ t.csn = s.csn + 1 ∧ (∀ e x, t.entry e = some x → x.phase = .held))
    ∧ (∀ s : State, s.kst.line = false → exec .eraseOverwriteDone s = .next s)
    ∧ (∀ (s : State) (l : List Nat), s.kst.phase = 3 → ∃ t, exec (.eraseRestartDone l) s = .next t ∧ t.kst.phase = 4 ∧ t.imem = []
        ∧ t.caches.kbc = [] ∧ t.caches.dkc = [] ∧ t.caches.kbcEpoch ≠ s.caches.kbcEpoch ∧ t.kst.readable = true
        ∧ (∀ i, i < 10 → (s.drbg i).kat = false → (t.drbg i).state = if i ∈ l then 2 else 1))
    ∧ (∀ s : State, s.kst.writing = [] →
        exec .journalFlushTimer s = .next { s with kst := { s.kst with writing := s.kst.journal, journal := [] } })
    ∧ (∀ s : State, s.kst.opened = true → (s.drbg 9).state ≠ 2 → s.kst.journal.length < 8 → ∃ t l, exec .journalWriteDone s = .next t
        ∧ t.kst.writing = [] ∧ t.kst.journal = s.kst.journal
        ∧ l.map (fun r => (r.csn, r.what)) = s.kst.writing.map (fun r => (r.csn, r.what))
        ∧ t.kst.flash0.records = s.kst.flash0.records ++ l ∧ t.kst.flash1.records = s.kst.flash1.records ++ l
        ∧ t = { withNotes s t with kst := t.kst,
                                   units := { s.units with drbgs := t.units.drbgs, seedBlocks := t.units.seedBlocks } })
    ∧ (∀ s : State, s.kst.opened = true → (s.drbg 9).state = 2 → exec .journalWriteDone s = .next s))
  ∧ ((∀ (s : State) (v : Word), v.getLsbD 0 = true →
        (∃ t, exec (.cacheFlush secIni false v) s = .next t ∧ t.caches.kbcSweeping = true ∧ t = { s with caches := t.caches }
          ∧ (∀ i, i < 2 ^ 22 → (t.kbcEntry (s.selOf secIni).kbcPitch.toNat i).valid = false)
          ∧ (∀ e ∈ s.caches.kbc, e.1 / 2 ^ 22 ≠ (s.selOf secIni).kbcPitch.toNat → e.2 ≠ {} → e ∈ t.caches.kbc))
        ∧ ∃ t, exec (.cacheFlush secIni true v) s = .next t ∧ t.caches.dkcSweeping = true ∧ t = { s with caches := t.caches }
          ∧ (∀ e ∈ t.caches.dkc, e.1 / 2 ^ 23 ≠ (s.selOf secIni).dkcPitch.toNat)
          ∧ (∀ e ∈ s.caches.dkc, e.1 / 2 ^ 23 ≠ (s.selOf secIni).dkcPitch.toNat → e.2 ≠ {} → e ∈ t.caches.dkc))
    ∧ (∀ (s : State) (who : Who) (dkc : Bool) (v : Word), isSec who = false → exec (.cacheFlush who dkc v) s = .next s)
    ∧ (∀ (s : State) (dkc : Bool), ∃ t, exec (.cacheSweepDone dkc) s = .next t
        ∧ (if dkc then t.caches.dkcSweeping else t.caches.kbcSweeping) = false ∧ t.caches.kbc = s.caches.kbc ∧ t.caches.dkc = s.caches.dkc
        ∧ t = { s with caches := t.caches }))

/-! ## Tamper -/

/-- R347, R355, R356, R360, R365: a source that qualifies sets its latch and event and joins a window; its class ERASE raises the erase line
with source 1 unless it has not re-armed, HOLD starts a HOLD, NOTE does neither. A disabled source, or one before the end of fuse sense,
never qualifies.

Also R355, R357, R360, R362, R363: a level source that is gone starts its release time; at its end the source leaves force, and the HOLD
ends with the last one; the window that closes is recorded with its sources and its highest class. -/
def Obligations.TamperAlarms : Prop :=
  ((∀ (s : State) (n : BitVec 6), n.toNat < 48 → s.watched n.toNat = true → s.tmp.handover = true → s.tmp.disabled.getLsbD n.toNat = false →
        (n.toNat < 44 → s.tmp.active.getLsbD n.toNat = false) → s.kst.line = false →
        ∃ t, exec (.tamperQualify n) s = .next t ∧ t.tmp.latch = setBit48 s.tmp.latch n.toNat
          ∧ (Routed (376 + n.toNat) s → Pends (376 + n.toNat) t)
          ∧ (∃ w, t.tmp.window = some w ∧ w.sources.getLsbD n.toNat = true ∧ s.classOf n.toNat ≤ w.cls.toNat)
          ∧ (s.tmp.window = none → t.tmp.windows = satInc s.tmp.windows)
          ∧ (s.classOf n.toNat = 2 → s.tmp.disarmed.getLsbD n.toNat = false → t.kst.line = true ∧ t.bat.latch = true
              ∧ t.bat.latchSource = 1 ∧ t.kst.readable = false)
          ∧ (s.classOf n.toNat = 1 → t.tmp.hold = true ∧ t.tmp.inForce = setBit48 s.tmp.inForce n.toNat ∧ t.kst = s.kst)
          ∧ (s.classOf n.toNat = 0 → t.tmp.hold = s.tmp.hold ∧ t.kst = s.kst))
    ∧ (∀ (s : State) (n : BitVec 6), n.toNat < 48 → (s.tmp.disabled.getLsbD n.toNat = true ∨ s.tmp.handover = false) →
        exec (.tamperQualify n) s = .next (if n = 16 then { s with bat := { s.bat with low := true } } else s)))
  ∧ ((∀ (s : State) (n : BitVec 6), n.toNat < 44 → s.tmp.active.getLsbD n.toNat = true → ∃ t, exec (.tamperConditionClear n) s = .next t
        ∧ t.tmp.active = clearBit48 s.tmp.active n.toNat
        ∧ (s.tmp.inForce.getLsbD n.toNat = true → t.tmp.releasing.getLsbD n.toNat = true)
        ∧ t.bat = (if n = 16 then { s.bat with low := false } else s.bat)
        ∧ t = { s with bat := t.bat, tmp := { s.tmp with active := t.tmp.active, releasing := t.tmp.releasing } })
    ∧ (∀ (s : State) (n : BitVec 6), n.toNat < 48 → s.tmp.releasing.getLsbD n.toNat = true → s.passPending n.toNat = false →
        ∃ t, exec (.holdRelease n) s = .next t ∧ t.tmp.inForce = clearBit48 s.tmp.inForce n.toNat
          ∧ (t.tmp.hold = true ↔ clearBit48 s.tmp.inForce n.toNat ≠ 0) ∧ t.tmp.disarmed = clearBit48 s.tmp.disarmed n.toNat)
    ∧ (∀ (s : State) (n : BitVec 6), n.toNat < 48 → s.tmp.releasing.getLsbD n.toNat = false → exec (.holdRelease n) s = .next s)
    ∧ (∀ (s : State) (w : QWindow), s.tmp.window = some w → s.tmp.eraseWindow = false → (w.cls = 0 → Room 0x0101 s) → (w.cls ≠ 0 → ExemptRoom s) →
        ∃ t, exec .qualWindowClose s = .next t ∧ t.tmp.window = none ∧ t.tmp.lastValid = true ∧ t.tmp.lastClass = w.cls
          ∧ Recorded s t 0x0101 (s.windowPayload w.sources w.cls.toNat) ∧ t = { withNotes s t with tmp := t.tmp }))

/-- R23, R347, R349, R352, R353: the monitors count consecutive bad samples and qualify their source at the number that the rules give: a
net or channel of a mesh at the second mismatch, an enclosure input of mode 1 at its filter count, main sensor 0 above the high limit at the
third sample, a clock more than 8 % off at once; a good sample of them starts the count again, or ends the condition.

Also R408, R420, R479: the status balls follow the state: SERVICE_N is low exactly while the device may act and is READY, ALARM_N while a
HOLD or the erase latch is in force, ACT_CLAIM_N, PAIR_RST_N and BAT_ALARM_N as the claim, the fence and the battery alarm say, and ROLE in
a device that acts. -/
def Obligations.MonitorsAndBalls : Prop :=
  ((∀ (s : State) (m : BitVec 6), ∃ t, exec (.meshCompare m) s = .next t ∧ ∀ i, i < 6 → s.watched (meshNet i) = true →
        t.tmp.meshRuns.get 0 i = nextRun (s.tmp.meshRuns.get 0 i) (m.getLsbD i)
        ∧ (m.getLsbD i = true → 1 ≤ s.tmp.meshRuns.get 0 i → s.tmp.handover = true → s.tmp.disabled.getLsbD (meshNet i) = false →
            s.tmp.active.getLsbD (meshNet i) = false → t.tmp.latch.getLsbD (meshNet i) = true))
    ∧ (∀ (s : State) (l : BitVec 8), ∃ t, exec (.encSample l) s = .next t ∧ t.tmp.encLevel = l ∧ ∀ i, i < 8 → classField s.tmp.encCfg.val i = 1 →
        t.tmp.encRuns.get 0 i = nextRun (s.tmp.encRuns.get 0 i) (l.getLsbD i)
        ∧ (l.getLsbD i = true → (s.tmp.encCfg.val.extractLsb' 16 8).toNat ≤ s.tmp.encRuns.get 0 i + 1 → s.tmp.handover = true →
            s.tmp.disabled.getLsbD (34 + i) = false → s.tmp.active.getLsbD (34 + i) = false → t.tmp.latch.getLsbD (34 + i) = true))
    ∧ (∀ (s : State) (v : BitVec 8), s.tempHigh < v.toInt → 2 ≤ s.tmp.tempRuns.get 0 1 → s.tmp.handover = true → s.tmp.disabled.getLsbD 1 = false →
        s.tmp.active.getLsbD 1 = false → s.kst.line = false → ∃ t, exec (.sensorSample 0 v) s = .next t ∧ t.tmp.temp0 = v
          ∧ t.tmp.latch.getLsbD 1 = true ∧ (s.tmp.disarmed.getLsbD 1 = false → t.kst.line = true))
    ∧ (∀ (s : State) (v : BitVec 8), s.tempLow ≤ v.toInt → v.toInt < s.tempHigh - 15 → ∃ t, exec (.sensorSample 0 v) s = .next t
        ∧ t.tmp.temp0 = v ∧ t.tmp.latch = s.tmp.latch ∧ t.tmp.tempRuns.get 0 0 = 0 ∧ t.tmp.tempRuns.get 0 1 = 0 ∧ t.kst = s.kst)
    ∧ (∀ (s : State) (c : ClockCounts), ∃ t, exec (.freqMonitorWindow c) s = .next t ∧ ∀ m ∈ monitored c,
        (deviates m.2.2.1 m.2.2.2 = true → s.tmp.handover = true → s.tmp.disabled.getLsbD m.1 = false → s.tmp.active.getLsbD m.1 = false →
            t.tmp.latch.getLsbD m.1 = true ∧ t.tmp.active.getLsbD m.1 = true ∧ (Routed m.2.1 s → Pends m.2.1 t))
        ∧ (deviates m.2.2.1 m.2.2.2 = false → t.tmp.active.getLsbD m.1 = false)))
  ∧ (∀ s : State,
      (s.balls.serviceN = false ↔ s.acts = true ∧ s.ready = true)
      ∧ (s.balls.alarmN = false ↔ s.tmp.hold = true ∨ s.bat.latch = true)
      ∧ (s.balls.health = true → s.ready = true ∧ s.bat.latch = false)
      ∧ (s.balls.actClaimN = !s.par.claim) ∧ (s.balls.pairRstN = !s.par.rstLow) ∧ (s.balls.role = true ↔ s.acts = true)
      ∧ (s.balls.batAlarmN = !s.bat.alarm))

/-- R364, R368, R369, R370, R460: the battery domain without main power: its first supply loads the copy and starts the counter, its loss
clears all of it; an alarm of class ERASE clears the Vault Seed, sets the erase latch with source 4 and the alarm, and enters the battery
tally, which keeps 16; the counters of seconds advance, the operating one with main power only. -/
def Obligations.BatteryDomain : Prop :=
  (∀ s : State, s.bat.vbat = false → s.bat.copy = none →
      exec .vbatApply s = .next { s with bat := { s.bat with vbat := true, copy := some firstCopy, seconds := 0 } })
  ∧ (∀ s : State, exec .vbatLoss s = .next { s with bat := {} })
  ∧ (∀ (s : State) (n : BitVec 6) (k : Nat) (c : BatCopy) (ticks : BitVec 16) (t0 : BitVec 8) (mv : Word), s.bat.copy = some c →
      batBit n.toNat = some k → c.watches n.toNat = true → c.classOf n.toNat = 2 → ∃ t, exec (.batteryAlarm n ticks t0 mv false) s = .next t
        ∧ t.bat.seed = none ∧ t.bat.latch = true ∧ t.bat.latchSource = 4 ∧ t.bat.alarm = true ∧ t.bat.count = satInc s.bat.count
        ∧ (s.bat.tally.length < 16 → ∃ r, t.bat.tally = s.bat.tally ++ [r] ∧ r.sources = (1 : BitVec 16) <<< k ∧ r.seconds = s.bat.seconds
            ∧ r.number = s.bat.number)
        ∧ (16 ≤ s.bat.tally.length → t.bat.tally = s.bat.tally ∧ t.bat.overflow = satInc s.bat.overflow)
        ∧ t = { s with bat := t.bat })
  ∧ (∀ (s : State) (n : BitVec 6) (ticks : BitVec 16) (t0 : BitVec 8) (mv : Word) (j : Bool), batBit n.toNat = none →
      exec (.batteryAlarm n ticks t0 mv j) s = .next s)
  ∧ (∀ s : State, s.bat.copy.isSome = true → exec (.secondsCounterTick false) s = .next { s with bat := { s.bat with seconds := s.bat.seconds + 1 } })
  ∧ (∀ s : State, s.bat.copy = none → exec (.secondsCounterTick true) s =
      .next { s with tly := { s.tly with seconds := s.tly.seconds + 1 }, par := { s.par with tagFailures := 0 } })

/-! ## The tally and events -/

/-- R461, R462, R464, R465, R467, R474: a flush takes what is buffered; its end leaves it in the tail, and in the head where it belongs
there; a page's third failed retry leaves the device with the other flash; the oldest unit of the tail goes when its erase ends; a code
gains one token a refill, up to 32; a record is read by its number, or reported as not held.

Also R471, R475: a claim returns the first pending source of the claimer and clears it alone, or 0x3FF; a PF clears the pending bits that it
writes as 1, of its own port. -/
def Obligations.TallyAndEvents : Prop :=
  ((∀ s : State, s.tly.held = [] → s.tly.flushing = 0 →
        exec .tallyFlushTimer s = .next { s with tly := { s.tly with flushing := s.tly.buffer.length } })
    ∧ (∀ s : State, s.tly.flushing ≠ 0 → (s.tly.faulty0 = false ∨ s.tly.faulty1 = false) → s.tly.staging = [] → s.tly.droppedUnreported = 0 →
        s.tly.tail.length + s.tly.flushing ≤ 10240 → ∃ t, exec .tallyFlushDone s = .next t
          ∧ t.tly.tail = s.tly.tail ++ s.tly.buffer.take s.tly.flushing ∧ t.tly.buffer = s.tly.buffer.drop s.tly.flushing
          ∧ t.tly.head = s.tly.head ++ (s.tly.buffer.take s.tly.flushing).filter (·.headCopy) ∧ t.tly.flushing = 0
          ∧ (Routed 472 s → Pends 472 t) ∧ t = withNotes s t)
    ∧ (∀ s : State, s.tly.flushing ≠ 0 → s.tly.faulty0 = true → s.tly.faulty1 = true →
        exec .tallyFlushDone s = .next { s with tly := { s.tly with flushing := 0 } })
    ∧ (∀ s : State, s.tly.retries0 = 2 → ∃ t, exec (.tallyPageRetry 0 false) s = .next t ∧ t.tly.faulty0 = true ∧ t.tly.faulty1 = s.tly.faulty1
        ∧ t.tly.pageRetries = satInc s.tly.pageRetries ∧ (Routed 476 s → Pends 476 t) ∧ t = withNotes s t)
    ∧ (∀ s : State, ∃ t, exec (.tallyPageRetry 1 true) s = .next t ∧ t.tly.faulty1 = false ∧ t.tly.retries1 = 0 ∧ t = withNotes s t)
    ∧ (∀ s : State, s.tly.erasing = true → ∃ t, exec .tailEraseDone s = .next t ∧ t.tly.tail = s.tly.tail.drop 1024 ∧ t.tly.erasing = false
        ∧ (∀ r l, t.tly.tail = r :: l → t.tly.tailFirst = r.number) ∧ t = { s with tly := t.tly })
    ∧ (∀ s : State, ∃ t, exec .tokenRefill s = .next t ∧ (∀ e ∈ s.tly.missing, 2 ≤ e.2 → (e.1, e.2 - 1) ∈ t.tly.missing)
        ∧ (∀ e ∈ t.tly.missing, (e.1, e.2 + 1) ∈ s.tly.missing) ∧ t = { s with tly := { s.tly with missing := t.tly.missing } })
    ∧ (∀ (s : State) (who : Who) (v : Word), s.tlyAccess who = true → s.hostCut who = false → ∃ t, exec (.tallyFetch who v) s = .next t
        ∧ (t.selOf who).tlyNum = v ∧ (t.selOf who).tlyState = 1 ∧ t = { s with sel := t.sel })
    ∧ (∀ (s : State) (who : Who), (s.selOf who).tlyState = 1 → ∃ t, exec (.tallyFetchDone who) s = .next t ∧ t = { s with sel := t.sel }
        ∧ (∀ r, s.tallyFind (s.selOf who).tlyNum = some r → (t.selOf who).tlyState = 2 ∧ (t.selOf who).tlyData = r.bytes)
        ∧ (s.tallyFind (s.selOf who).tlyNum = none → (t.selOf who).tlyState = 3)))
  ∧ ((∀ (s : State) (n : Nat) (l : List Nat), n < 1024 → s.evc.pend.get [] 24 = n :: l → ∃ t, exec (.eventClaim secIni) s = .next t
        ∧ t.evc.pend.get [] 24 = l ∧ (∀ d, d ≠ 24 → t.evc.pend.get [] d = s.evc.pend.get [] d)
        ∧ t.out = s.out ++ [.read secIni (BitVec.ofNat 32 (2 ^ 31 + n))] ∧ t = { s with evc := { s.evc with pend := t.evc.pend }, out := t.out })
    ∧ (∀ s : State, s.evc.pend.get [] 24 = [] → exec (.eventClaim secIni) s = .next { s with out := s.out ++ [.read secIni 0x3FF] })
    ∧ (∀ (s : State) (n : BitVec 5) (v : Word), n.toNat < 18 → s.ideCut .a = false → ∃ t, exec (.hostPendingClear pfA n v) s = .next t
        ∧ (∀ k, k ∈ t.evc.pend.get [] 25 ↔ k ∈ s.evc.pend.get [] 25 ∧ ¬ (k / 32 = n.toNat ∧ v.getLsbD (k % 32) = true))
        ∧ (∀ d, d ≠ 25 → t.evc.pend.get [] d = s.evc.pend.get [] d) ∧ t = { s with evc := { s.evc with pend := t.evc.pend } }))

/-! ## Cores and dispatch -/

/-- R57, R317, R319, R323, R324, R325: a core that loads its dispatch port is bound to the command selected and its pitch, and reads its
word; it waits while dispatch is stopped, and reads 0 when the wait times out; a queue's only command is selected; a command for a core
enters the queue of its personality and priority. -/
def Obligations.Dispatch : Prop :=
  (∀ (s u : State) (c : BitVec 5) (e : Nat) (x : Entry), c.toNat < 24 → (s.core c.toNat).state = .idle → (s.core c.toNat).blocked = false →
      (s.core c.toNat).entry = none → (s.core c.toNat).drain = false → s.dispatchStopped = false → s.entry e = some x →
      selectCmd (s.core c.toNat).maskNext
        (s.updCore c.toNat fun k => { k with mask := k.maskNext, completed := false, boundPitch := none }) = some (e, u) →
      ∃ t, exec (.dispatchLoad c) s = .next t ∧ (t.core c.toNat).state = .busy ∧ (t.core c.toNat).entry = some e
        ∧ (t.core c.toNat).boundPitch = some x.pitch
        ∧ (t.core c.toNat).mask = (s.core c.toNat).maskNext ∧ t.entry e = some { s.dispatched x with phase := .bound c }
        ∧ t.out = s.out ++ [.read (coreWho c.toNat) (dispatchWord x.pitch e)]
        ∧ (t.pitch x.pitch.toNat).schDisp = (s.pitch x.pitch.toNat).schDisp + 1)
  ∧ (∀ (s : State) (m : BitVec 4) (q e p : Nat), s.served m = [q] → (s.queue q).cmds = [e] → (s.queue q).turn = [p] → s.pitchOf e = p →
      1 ≤ (s.pitch p).weight → s.costOf e ≤ 4112 → ∃ u, selectCmd m s = some (e, u) ∧ (u.queue q).cmds = [] ∧ u.sch.entries = s.sch.entries)
  ∧ (∀ (s : State) (c : BitVec 5), c.toNat < 24 → (s.core c.toNat).state = .idle → (s.core c.toNat).blocked = false →
      (s.core c.toNat).entry = none → (s.core c.toNat).drain = false → s.dispatchStopped = true →
      (s.sch.timeoutUs ≠ 0 → ∃ t, exec (.dispatchLoad c) s = .next t ∧ (t.core c.toNat).blocked = true ∧ t.out = s.out
        ∧ t = { s with cmc := { s.cmc with cores := t.cmc.cores }, sch := { s.sch with loads := s.sch.loads + 1 } })
      ∧ (s.sch.timeoutUs = 0 → ∃ t, exec (.dispatchLoad c) s = .next t ∧ (t.core c.toNat).blocked = false
        ∧ t.out = s.out ++ [.read (coreWho c.toNat) 0]))
  ∧ (∀ (s : State) (c : BitVec 5), c.toNat < 24 → (s.core c.toNat).blocked = true → ∃ t, exec (.dispatchTimeout c) s = .next t
      ∧ (t.core c.toNat).blocked = false ∧ t.out = s.out ++ [.read (coreWho c.toNat) 0]
      ∧ t = { s with cmc := { s.cmc with cores := t.cmc.cores }, out := t.out })
  ∧ (∀ (s : State) (e : BitVec 17) (x : Entry), s.entry e.toNat = some x → x.phase = .admitted → s.onRecipe x = false → s.fenceWaits x = false →
      x.replayWait = false → x.ctx = none → s.blockedCores = [] → ∃ t, exec (.commandEnqueue e) s = .next t
        ∧ t.entry e.toNat = some { x with phase := .queued, queuedAt := s.clk }
        ∧ (t.queue (8 * (s.pitch x.pitch.toNat).pers.toNat + x.prio.toNat)).cmds
          = (s.queue (8 * (s.pitch x.pitch.toNat).pers.toNat + x.prio.toNat)).cmds ++ [e.toNat]
        ∧ x.pitch.toNat ∈ (t.queue (8 * (s.pitch x.pitch.toNat).pers.toNat + x.prio.toNat)).turn
        ∧ t = { s with sch := t.sch })

/-- R110, R130, R131, R320, R321, R322: a host read of a bound core goes out where its range and destination allow it, and lands in the
core's memory, or fails with nothing written; a completion ends the command with the core's status and frees the core; a status outside
R131, an exception and the 8 s bound end it with HW_FAULT, or as it was prepared where it is of class C and has committed, with an FW_FAULT
record of the cause; the last two reload the core with the same image. -/
def Obligations.CoreCompletion : Prop :=
  ∀ (s : State) (c : BitVec 5) (e : Nat) (x : Entry), c.toNat < 24 → (s.core c.toNat).entry = some e → s.entry e = some x →
    (s.core c.toNat).state = .busy → ∀ fault : BitVec 16, fault = (if x.committedC then (x.prepared.getD {}).status else stHwFault) →
    ((s.core c.toNat).hrdStatus ≠ 1 →
      (1 ≤ (s.core c.toNat).hrdLen.toNat → (s.core c.toNat).hrdLen.toNat ≤ 65536 →
        (s.core c.toNat).hrdOff.toNat + (s.core c.toNat).hrdLen.toNat ≤ fieldLE x.sqe 0x28 4 →
        inCoreMemory c.toNat (s.core c.toNat).hrdDst.toNat (s.core c.toNat).hrdLen.toNat = true →
        ∃ t, exec (.hrdGo c 1) s = .next t ∧ (t.core c.toNat).hrdStatus = 1
          ∧ t.out = s.out ++ [.hostRead x.port (BitVec.ofNat 64 (fieldLE x.sqe 0x20 8 + (s.core c.toNat).hrdOff.toNat)) (s.core c.toNat).hrdLen.toNat])
      ∧ ((s.core c.toNat).hrdLen = 0 → ∃ t, exec (.hrdGo c 1) s = .next t ∧ (t.core c.toNat).hrdStatus = 2 ∧ t.out = s.out))
    ∧ ((s.core c.toNat).hrdStatus = 1 → s.ideCut x.port = false → ∀ b : Bytes, ∃ t, exec (.hrdDone c (.data b)) s = .next t
        ∧ (t.core c.toNat).hrdStatus = 5 ∧ t.imem = memWrites s.imem (s.core c.toNat).hrdDst.toNat (padTo (s.core c.toNat).hrdLen.toNat b)
        ∧ t = { s with imem := t.imem, cmc := { s.cmc with cores := t.cmc.cores } })
    ∧ ((s.core c.toNat).hrdStatus = 1 → ∀ why, ∃ t, exec (.hrdDone c (.failed why)) s = .next t ∧ (t.core c.toNat).hrdStatus = 4
        ∧ t.imem = s.imem)
    ∧ (∀ st : BitVec 16, st.toNat ∈ statusCodes → x.prepared = none → (s.core c.toNat).resLen.toNat ≤ fieldLE x.sqe 0x2C 4 →
        s.kst.readable = true → ∃ t, exec (.commandComplete c (st.setWidth 32) false) s = .next t ∧ (t.core c.toNat).entry = none ∧ (t.core c.toNat).state = .idle
          ∧ (∀ y, t.entry e = some y → y.phase = .held ∧ y.decided = some st)
          ∧ (t.pitch x.pitch.toNat).done = (s.pitch x.pitch.toNat).done + (if st = 0 then 1 else 0)
          ∧ (t.pitch x.pitch.toNat).refused = (s.pitch x.pitch.toNat).refused + (if st = 0 then 0 else 1))
    ∧ (∀ (st : BitVec 16) (ecc : Bool), st.toNat ∉ statusCodes → Room 0x0505 s →
        ∃ t, exec (.commandComplete c (st.setWidth 32) ecc) s = .next t ∧ (t.core c.toNat).entry = none
          ∧ (∀ y, t.entry e = some y → y.phase = .held ∧ y.decided = some fault)
          ∧ Recorded s t 0x0505 ([BitVec.ofNat 8 c.toNat, 5] ++ toLE 2 x.pitch.toNat))
    ∧ (Room 0x0505 s → (∃ t, exec (.coreException c) s = .next t ∧ (t.core c.toNat).state = .loading ∧ (t.core c.toNat).entry = none
          ∧ (t.core c.toNat).fw = (s.core c.toNat).fw ∧ (∀ y, t.entry e = some y → y.phase = .held ∧ y.decided = some fault)
          ∧ Recorded s t 0x0505 ([BitVec.ofNat 8 c.toNat, 3] ++ toLE 2 x.pitch.toNat))
        ∧ ∃ t, exec (.coreWatchdog c) s = .next t ∧ (t.core c.toNat).state = .loading ∧ (t.core c.toNat).entry = none
          ∧ (t.core c.toNat).fw = (s.core c.toNat).fw ∧ (∀ y, t.entry e = some y → y.phase = .held ∧ y.decided = some fault)
          ∧ Recorded s t 0x0505 ([BitVec.ofNat 8 c.toNat, 4] ++ toLE 2 x.pitch.toNat))

/-- R316, R326, R327, R328, R330: the security controller drains a core, which goes OFF when its drain word is returned and its channels
rest or are aborted, reloads an OFF one, and sets masks that leave every personality a core; a load that takes 100 ms fails with its record;
a live update takes the first core; the histograms are cleared. Nobody else does any of it.

Also R135 to R137, R142: the recipe set that the accepted image delivers becomes active where it is verified, passes the checker, is no
older than the minimum and finds no context on the bank that it replaces; any other set changes nothing. -/
def Obligations.CoresAndRecipes : Prop :=
  ((∀ (s : State) (c : Nat), (s.selOf secIni).cmcCore.toNat = c → c < 24 →
        ((s.core c).state = .busy → (s.core c).blocked = false → ∃ t, exec (.coreDrain secIni 1) s = .next t
          ∧ t.core c = { s.core c with state := .draining, drain := true } ∧ (∀ k, k ≠ c → t.core k = s.core k))
        ∧ ((s.core c).state = .idle → (s.core c).blocked = true → chanRunning (s.chan (2 * c)) = true →
          ∃ t, exec (.coreDrain secIni 1) s = .next t
          ∧ (t.core c).state = .draining ∧ (t.core c).drainReturned = true ∧ t.out = s.out ++ [.read (coreWho c) 0x40000000])
        ∧ ((s.core c).state = .off → s.bst.out.contains (83 + c) = false → s.bst.retired.contains (83 + c) = false →
          ∃ t, exec (.coreReload secIni 2) s = .next t ∧ (t.core c).state = .loading ∧ (t.core c).fw = s.reloadFw
            ∧ (∀ k, k ≠ c → t.core k = s.core k))
        ∧ (∀ m : BitVec 4, (s.masksOk c m = true → ∃ t, exec (.persMaskWrite secIni (m.setWidth 32)) s = .next t
            ∧ t.core c = { s.core c with maskNext := m } ∧ t = { s with cmc := { s.cmc with cores := t.cmc.cores } })
          ∧ (s.masksOk c m = false → exec (.persMaskWrite secIni (m.setWidth 32)) s = .next (cmcErr 3 s))))
    ∧ (∀ (s : State) (c : BitVec 5), c.toNat < 24 → (s.core c.toNat).state = .loading → s.cmc.updRunning = false → ExemptRoom s →
        ∃ t, exec (.coreLoadTimeout c) s = .next t ∧ t.core c.toNat = { s.core c.toNat with state := .failed }
          ∧ Recorded s t 0x0706 (BitVec.ofNat 8 c.toNat :: toLE 2 (s.core c.toNat).fw.toNat)
          ∧ (Routed (272 + c.toNat) s → Pends (272 + c.toNat) t) ∧ t = { withNotes s t with cmc := { s.cmc with cores := t.cmc.cores } })
    ∧ (∀ (s : State) (c : BitVec 5), c.toNat < 24 → (s.core c.toNat).state = .draining → (s.core c.toNat).drainReturned = true →
        s.cmc.updRunning = false → (s.chan (2 * c.toNat)).ended ≠ some 7 → (s.chan (2 * c.toNat + 1)).ended ≠ some 7 →
        ∃ t, exec (.coreDrainDmaTimeout c) s = .next t ∧ (t.core c.toNat).state = .off ∧ (t.core c.toNat).entry = none
          ∧ chanRunning (t.chan (2 * c.toNat)) = false ∧ chanRunning (t.chan (2 * c.toNat + 1)) = false)
    ∧ (∀ (s : State) (c : Nat), s.cmc.updRunning = false → c < 24 →
        ({ s with cmc := { s.cmc with updRunning := true, updDone := false, updFailed := false, updRollback := false } } : State).nextUpdate 0 = some c →
        (s.core c).state = .busy → (s.core c).blocked = false → ∃ t, exec (.liveUpdateStart secIni 0x100) s = .next t
          ∧ t.cmc.updRunning = true ∧ t.cmc.updCore.toNat = c ∧ (t.core c).state = .draining ∧ (t.core c).drain = true)
    ∧ (∀ s : State, exec (.histClear secIni 1) s = .next { s with sch := { s.sch with hist := [] } })
    ∧ (∀ (s : State) (who : Who) (v : Word), isSec who = false →
        ∀ i ∈ [Instr.coreDrain who v, .coreReload who v, .persMaskWrite who v, .liveUpdateStart who v, .histClear who v], exec i s = .next s))
  ∧ (∀ (s : State) (x : RecipeSet),
      (s.switching = false → setOk x = true → s.glb.minRecipe.toNat ≤ x.version.toNat → s.glb.recipes = some x →
        ∃ t, exec (.recipeSetSwitch x) s = .next t
        ∧ t.activeBank = { recipes := x.recipes, version := x.version } ∧ t.cmc.activeBank = !s.cmc.activeBank
        ∧ t = { s with cmc := t.cmc, sch := t.sch })
      ∧ ((s.switching = true ∨ setOk x = false ∨ x.version.toNat < s.glb.minRecipe.toNat ∨ s.glb.recipes ≠ some x) →
        exec (.recipeSetSwitch x) s = .next s)
      ∧ ((x.sigMldsaOk = false ∨ x.sigP384Ok = false ∨ x.chainOk = false ∨ (∃ r ∈ x.recipes, r.digest ≠ sha384 r.body) ∨ (∃ r ∈ x.recipes, r.branchesOnSecret = true ∨ 1024 < r.steps)) → setOk x = false))

/-! ## Engines and recipe sets -/

/-- R57, R261, R262, R264, R275, R280: a core's request takes the first free engine, or waits while engines are not granted; without a bound
command it is refused with KEY_PITCH and its event. The end of an operation frees the engine, which keeps its operand memory, and with
sign-check starts the check on another engine instead; a check that passes frees both and lets the result go, one that fails leaves HW_FAULT
without a result, qualifies source 46 and sends both engines to their self-test; a fault ends the operation with ABORT_RESET. -/
def Obligations.EngineOperations : Prop :=
  (∀ (s : State) (c : BitVec 5) (e : Nat) (x : Entry) (l h : Bool), c.toNat < 24 → (s.core c.toNat).entry = some e →
      s.entry e = some x → (h = true → ∃ d, x.prepared = some d ∧ (d.engine = 0 ∨ d.engine = engKind l)) → s.units.reqs = [] →
      s.outstandingOf c < 16 →
      (s.enginesStopped = true → ∃ t, exec (.engineRequest c l h) s = .next t
        ∧ t.units.reqs = [{ lattice := l, check := none, prio := x.prio.toNat, core := some c, entry := e, handover := h }]
        ∧ (t.core c.toNat).handed = ((s.core c.toNat).handed || h))
      ∧ (∀ k, s.enginesStopped = false → (List.range (engCount l)).find? (s.engFree l) = some k →
        ∃ t, exec (.engineRequest c l h) s = .next t ∧ t.units.reqs = [] ∧ (t.engine l k).state = 1 ∧ (t.engine l k).entry = some e
          ∧ (t.engine l k).core = some c ∧ (t.engine l k).handover = h ∧ (t.core c.toNat).handed = ((s.core c.toNat).handed || h)))
  ∧ (∀ (s : State) (c : BitVec 5) (l h : Bool), c.toNat < 24 → (s.core c.toNat).entry = none →
      ∃ t, exec (.engineRequest c l h) s = .next t ∧ (Routed (504 + (c.toNat + 1) % 40) s → Pends (504 + (c.toNat + 1) % 40) t)
        ∧ .coreRefused c stKeyPitch ∈ t.out ∧ t = withEvents s t)
  ∧ (∀ (s : State) (l : Bool) (k : BitVec 5) (e : Nat) (x : Entry) (d : Prepared), k.toNat < engCount l → (s.engine l k.toNat).entry = some e →
      (s.engine l k.toNat).state = 1 → (s.engine l k.toNat).behind = false → s.pwr.quiet = false → s.entry e = some x → x.prepared = some d →
      d.engine = engKind l → d.gen = none → s.units.reqs = [] →
      (d.check = false → ∀ b, x.phase = .bound b → ∃ t, exec (.engineOpComplete l k) s = .next t
        ∧ t.engine l k.toNat = { operand := (s.engine l k.toNat).operand }
        ∧ t.entry e = some { x with prepared := some { d with engine := 0, gen := none, method := none },
                                    decided := if d.status = 0 then x.decided else some d.status })
      ∧ (d.check = false → x.phase = .handed → (s.engine l k.toNat).handover = true → ∃ t, exec (.engineOpComplete l k) s = .next t
        ∧ t.engine l k.toNat = { operand := (s.engine l k.toNat).operand }
        ∧ (∀ y, t.entry e = some y → y.phase = .held ∧ y.decided = some d.status))
      ∧ (d.check = true → s.enginesStopped = true → ∃ t, exec (.engineOpComplete l k) s = .next t ∧ (t.engine l k.toNat).behind = true
        ∧ t.units.reqs = [{ lattice := l, check := some k.toNat, prio := 0, core := none, entry := e, handover := false }]
        ∧ t.entry e = some x)
      ∧ (d.check = true → s.enginesStopped = false → ∀ j, (List.range (engCount l)).find? (s.engFree l) = some j →
        ∃ t, exec (.engineOpComplete l k) s = .next t ∧ (t.engine l k.toNat).behind = true ∧ t.units.reqs = [] ∧ j ≠ k.toNat
          ∧ (t.engine l j).state = 2 ∧ (t.engine l j).checks = some k.toNat ∧ (t.engine l j).entry = some e ∧ t.entry e = some x))
  ∧ (∀ (s : State) (l : Bool) (k : BitVec 5) (j e : Nat) (x : Entry) (d : Prepared) (b : BitVec 5) (p : Bool), k.toNat < engCount l → j ≠ k.toNat →
      (s.engine l k.toNat).entry = some e → (s.engine l k.toNat).checks = some j → s.pwr.quiet = false → s.entry e = some x →
      x.prepared = some d → d.gen = none → x.phase = .bound b → s.units.reqs = [] →
      ∃ t, exec (.signCheckDone l k p) s = .next t ∧ t.engine l k.toNat = { operand := (s.engine l k.toNat).operand }
        ∧ t.engine l j = { operand := (s.engine l j).operand }
        ∧ (checkPasses p d = true → t.entry e = some { x with prepared := some { d with engine := 0, gen := none, method := none },
                                                              decided := if d.status = 0 then x.decided else some d.status })
        ∧ (checkPasses p d = false →
          (∃ y, t.entry e = some y ∧ y.decided = some stHwFault
            ∧ y.prepared = some { d with status := stHwFault, result := [], engine := 0, gen := none, method := none })
          ∧ (engBase l + k.toNat, 46) ∈ t.bst.triggered ∧ (engBase l + j, 46) ∈ t.bst.triggered
          ∧ (s.tmp.handover = true → s.tmp.disabled.getLsbD 46 = false → t.tmp.latch.getLsbD 46 = true)))
  ∧ (∀ (s : State) (l : Bool) (k : BitVec 5) (e : Nat) (x : Entry) (d : Prepared), k.toNat < engCount l → (s.engine l k.toNat).state ≠ 0 →
      (s.engine l k.toNat).entry = some e → s.entry e = some x → x.prepared = some d → s.units.reqs = [] →
      ∃ t, exec (.engineFault l k) s = .next t ∧ t.engine l k.toNat = { operand := (s.engine l k.toNat).operand }
        ∧ (∀ b, x.phase = .bound b → ∃ y, t.entry e = some y ∧ y.decided = some stAbortReset)
        ∧ (x.phase = .handed → ∀ y, t.entry e = some y → y.phase = .held ∧ y.decided = some stAbortReset)
        ∧ (Routed (s.engEvent l k.toNat) s → Pends (s.engEvent l k.toNat) t))

/-! ## Pair operation -/

/-- R403, R404, R405, R406, R412: a trained link takes the peer's nonce and draws its own, and with a bond establishes the session key of
both nonces in the order of the fingerprints; an offer or a response is taken where its signatures and the rosters allow it and is otherwise
refused with its record; a link that goes down ends the session; keep-alives and health frames go out. -/
def Obligations.PairLink : Prop :=
  (∀ (s : State) (w : BitVec 2) (n : Bytes), s.par.role ≠ .single → s.glb.startDone = true → w ≠ 0 → s.pwr.down.getLsbD 8 = false →
      (s.peerPrint = none → ∃ t, exec (.pairLinkUp w n) s = .next t ∧ t.par.linkUp = true ∧ t.par.width = w ∧ t.par.noncePeer = n
        ∧ t.par.nonceOwn = s.drbgOut 9 32 ∧ t.out.getLast? = some (.linkNonce (s.drbgOut 9 32)) ∧ t.par.session = s.par.session)
      ∧ (∀ k f, s.bondKey = some k → s.peerPrint = some f → ∃ t, exec (.pairLinkUp w n) s = .next t
        ∧ t.par.session = some (kdf k (if isInitiator f then s.drbgOut 9 32 ++ n else n ++ s.drbgOut 9 32) 64 "KN-PAIR-LINK")
        ∧ t.par.peerFrames = 0 ∧ (s.par.role = .standby → t.par.frames = 0)))
  ∧ (∀ (s : State) (o : BondOffer), s.par.linkUp = true → s.bondKey = none → s.par.ownOffer.isSome = true → ExemptRoom s →
      ∃ t, exec (.pairOffer o) s = .next t
        ∧ (offerSigned o = false → t.par.offer = none ∧ t.par.ownOffer = none ∧ t.kst = s.kst
            ∧ Recorded s t 0x0604 (1 :: fingerprintOf o.p384Key))
        ∧ (offerSigned o = true → s.rostersAgree o = false → t.par.offer = none ∧ t.par.errCode = 4 ∧ t.par.errValid = true
            ∧ Recorded s t 0x0604 (2 :: fingerprintOf o.p384Key))
        ∧ (offerSigned o = true → s.rostersAgree o = true → t.par.offer = some o ∧ t.par.ownOffer = s.par.ownOffer
            ∧ t.out.getLast? = some (.bondResponse t.par.ownResponse)))
  ∧ (∀ (s : State) (o own : BondOffer) (c a b : Bytes), s.par.offer = some o → s.par.ownOffer = some own → ExemptRoom s →
      ∃ t, exec (.pairResponse c a b) s = .next t ∧ t.par.offer = none ∧ t.par.ownOffer = none
        ∧ (pkVerify 0x02 2 [] o.p384Key (sha384 c) a = true → pkVerify 0x33 0 [] o.mldsaKey c b = true →
            t.kst.bond = some (fingerprintOf o.p384Key ++ bondKeyOf s own o c (c ++ a ++ b)) ∧ Recorded s t 0x0604 (0 :: fingerprintOf o.p384Key))
        ∧ (pkVerify 0x02 2 [] o.p384Key (sha384 c) a = false ∨ pkVerify 0x33 0 [] o.mldsaKey c b = false →
            t.kst = s.kst ∧ Recorded s t 0x0604 (1 :: fingerprintOf o.p384Key)))
  ∧ (∀ s : State, s.par.linkUp = true → ∃ t, exec .pairLinkDown s = .next t ∧ t.par.linkUp = false ∧ t.par.session = none
      ∧ t.par.width = 0 ∧ t.par.resyncing = false ∧ t.par.role = s.par.role ∧ (Routed 427 s → Pends 427 t)
      ∧ t = { withEvents s t with par := t.par })
  ∧ (∀ s : State, s.claims = true → s.linked = true → exec .keepAliveSend s =
      .next { s with out := s.out ++ [.keepAlive], par := { s.par with frames := s.par.frames + 1 } })
  ∧ (∀ s : State, 10 ≤ s.glb.step.toNat → exec .healthFrame s =
      .next { s with out := s.out ++ [.health s.healthBytes], par := { s.par with hbSeq := s.par.hbSeq + 1 } })
  ∧ (∀ s : State, s.par.role = .standby → s.par.linkUp = false → ∃ t, exec .standbyLinkTimeout s = .next t ∧ t.par.role = .syncing
      ∧ t = { withNotes s t with par := { s.par with role := .syncing } })

/-- R221, R407 to R409, R411, R418, R420, R477: a grant to a waiting or standby device takes over at once where the peer's claim is clear
and else waits for it; a takeover asserts the claim, is ACTIVE, leaps the CSNs by 2^log2 and empties the derivation cache; a claim still
asserted is stuck, with its error and event; a device that claims and sees the peer's claim or loses its grant is RELEASED with an empty
tracker. -/
def Obligations.Takeover : Prop :=
  (∀ s : State, (s.par.role = .standby ∨ s.par.role = .waiting) → s.glb.startDone = true →
      (s.par.peerClaim = true → exec .witGrantQualify s = .next { s with par := { s.par with grant := true, takeStep := 1 } })
      ∧ (s.par.peerClaim = false → ExemptRoom s → ∃ t, exec .witGrantQualify s = .next t ∧ t.par.role = .active ∧ t.par.claim = true
        ∧ t.csn = s.csn + 2 ^ s.par.leapLog2.toNat - 1 ∧ t.kst.leap = 2 ^ s.par.leapLog2.toNat ∧ t.kst.leaped = []
        ∧ t.par.records = [.leap t.csn (2 ^ s.par.leapLog2.toNat)] ∧ t.par.epoch = s.par.lastEpoch + 1 ∧ t.par.unacked = []
        ∧ Recorded s t 0x0602 (toLE 8 (2 ^ s.par.leapLog2.toNat) ++ toLE 8 (s.csn + 2 ^ s.par.leapLog2.toNat - 1 + 1))
        ∧ t.kst.slots = s.kst.slots ∧ t.caches.dkc = []))
  ∧ (∀ s : State, s.par.takeStep = 1 → s.par.peerClaim = true → ∃ t, exec .takeoverClaimTimeout s = .next t ∧ t.par.stuck = true
      ∧ t.par.errCode = 3 ∧ t.par.errValid = true ∧ t.par.role = s.par.role ∧ (Routed 434 s → Pends 434 t)
      ∧ t = { withEvents s t with par := { s.par with stuck := true, errValid := true, errCode := 3 } })
  ∧ (∀ s : State, s.par.role ≠ .single →
      (s.par.takeStep ≠ 1 → exec .peerClaimClear s = .next { s with par := { s.par with peerClaim := false, stuck := false } })
      ∧ (s.par.takeStep = 1 → s.par.grant = true → (s.par.role = .standby ∨ s.par.role = .waiting) → ∃ t, exec .peerClaimClear s = .next t
        ∧ t.par.role = .active ∧ t.par.claim = true ∧ t.csn = s.csn + 2 ^ s.par.leapLog2.toNat - 1))
  ∧ (∀ s : State, s.par.role ≠ .single → ∀ c ∈ [Instr.peerClaimAssert, .witGrantLoss],
      (s.claims = true → ∃ t, exec c s = .next t ∧ t.par.role = .released ∧ t.par.claim = false ∧ t.sch.entries = [] ∧ t.units.reqs = []
        ∧ (∀ k, (t.core k).entry = none) ∧ t.csn = s.csn ∧ t.kst = s.kst)
      ∧ (s.claims = false → ∃ t, exec c s = .next t ∧ t = { s with par := { s.par with
        peerClaim := t.par.peerClaim, grant := t.par.grant, takeStep := t.par.takeStep } }))
  ∧ (∀ s : State, exec .pairRstRelease s = .next { s with par := { s.par with rstLow := false } })
  ∧ (∀ s : State, s.par.role = .single → ∀ c ∈ [Instr.witGrantQualify, .witGrantLoss, .peerClaimAssert, .peerClaimClear], exec c s = .next s)

/-- R407, R414, R415, R416: an epoch that closes sends its skim and waits for its acknowledgement; a standby applies the skim of the next
epoch and acknowledges it, falls out of step on any other, and counts a frame whose tag fails; an acknowledgement retires its epochs; a late
one lets the device wait and then serve SOLO.

Also R407, R417, R422, R435: a resync replaces the mirrored state by its records, and the skims that came beside it follow; with the erase
latch set it is not taken; the owner's hand-over needs an ACTIVE device with a STANDBY peer and nothing unacknowledged, ends the commands
not dispatched, and at its drain sends the skim that says so; an image for the standby goes to its slot. -/
def Obligations.MirrorResyncYield : Prop :=
  ((∀ s : State, s.par.role = .active → s.par.yieldStep = 0 → s.linked = true → ∃ t k, exec .mirrorEpochClose s = .next t
        ∧ t.out = s.out ++ [.skim k] ∧ k.epoch = s.par.epoch ∧ k.csn = s.csn ∧ k.records = lastCounters s.par.records
        ∧ t.par.epoch = s.par.epoch + 1 ∧ t.par.records = [] ∧ t.par.unacked = s.par.unacked ++ [(s.par.epoch, s.csn)]
        ∧ t.par.relaxedInForce = s.par.relaxed ∧ t = { s with par := t.par, out := t.out })
    ∧ (∀ (s : State) (k : Skim), s.par.role = .standby → s.linked = true → k.tagOk = true → k.epoch = s.par.lastEpoch + 1 →
        ∃ t f, exec (.skimReceive k) s = .next t ∧ t.par.lastEpoch = k.epoch ∧ t.csn = max s.csn k.csn ∧ t.par.role = .standby
          ∧ t.out.getLast? = some (.ack k.epoch t.csn f)
          ∧ (∀ n c key a g tg, k.records = [.slot n c key a g tg] → t.slot n.toNat = { key := key, attrs := a, gen := g, tag := tg }
              ∧ ∀ m, m ≠ n.toNat → t.slot m = s.slot m)
          ∧ (∀ p c tb, k.records = [.pmk p c tb] → (t.pitch p.toNat).pmk = tb)
          ∧ (∀ b c, k.records = [.block b c none] → t.blockOwner b.toNat = none))
    ∧ (∀ (s : State) (k : Skim), s.par.role = .standby → s.linked = true → k.tagOk = true → k.epoch ≠ s.par.lastEpoch + 1 →
        ∃ t, exec (.skimReceive k) s = .next t ∧ t.par.role = .syncing ∧ t.kst = s.kst ∧ t.csn = s.csn ∧ t.pit = s.pit)
    ∧ (∀ (s : State) (k : Skim), s.par.role ≠ .single → s.linked = true → k.tagOk = false → ∃ t, exec (.skimReceive k) s = .next t
        ∧ t.par.tagFailures = s.par.tagFailures + 1 ∧ t.kst = s.kst ∧ t.pit = s.pit ∧ t.csn = s.csn ∧ (Routed 433 s → Pends 433 t)
        ∧ (16 ≤ s.par.tagFailures → t.par.errCode = 5 ∧ t.par.errValid = true))
    ∧ (∀ (s : State) (e c : Nat) (r : BitVec 3) (f : Byte), s.par.role = .active → s.linked = true → s.par.yieldStep = 0 →
        ∃ t, exec (.skimAck e c r f) s = .next t ∧ t.par.unacked = s.par.unacked.filter (fun u => decide (e < u.1))
          ∧ t.par.ackedCsn = max s.par.ackedCsn c ∧ t.par.role = .active ∧ t.par.soloWait = false ∧ t.par.peerRole = r)
    ∧ (∀ s : State, s.par.unacked ≠ [] → s.par.role = .active → s.par.yieldStep = 0 → ∃ t, exec .ackTimeout s = .next t
        ∧ t.par.standbyLost = true ∧ t.par.soloWait = true ∧ (Routed 426 s → Pends 426 t) ∧ (Routed 429 s → Pends 429 t)
        ∧ t = { withEvents s t with par := { s.par with standbyLost := true, soloWait := true } })
    ∧ (∀ s : State, s.par.soloWait = true → s.par.role = .active → ∃ t, exec .soloWaitExpiry s = .next t ∧ t.par.role = .solo
        ∧ t.par.unacked = [] ∧ t.par.soloWait = false ∧ (Routed 430 s → Pends 430 t)))
  ∧ ((∀ (s : State) (n : BitVec 18) (c : Nat) (key : Bytes) (a : BitVec 128) (g : Word) (tg : KeyTag), s.bat.latch = false → s.linked = true →
        s.par.role = .waiting → s.par.resyncing = false →
        ∃ t, exec (.resyncReceive [.slot n c key a g tg] true) s = .next t ∧ t.par.role = .syncing ∧ t.par.loadedSync = true
          ∧ t.slot n.toNat = { key := key, attrs := a, gen := g, tag := tg } ∧ (∀ m, m ≠ n.toNat → t.slot m = {})
          ∧ t.csn = max s.csn c ∧ t.caches.kbc = [] ∧ t.caches.dkc = [])
    ∧ (∀ (s : State) (l : List SkimRecord) (b : Bool), s.bat.latch = true → exec (.resyncReceive l b) s = .next s)
    ∧ (∀ (s : State) (who : Who), s.isOwner who = true → s.hostCut who = false →
        (s.par.role = .active → s.par.peerRole = 3 → s.par.unacked = [] → ∃ t, exec (.yield who 1) s = .next t ∧ t.par.role = .yielding
          ∧ t.par.yieldStep = 1 ∧ t.units.reqs = [] ∧ (∀ e x, t.entry e = some x → x.phase ≠ .queued))
        ∧ (s.par.peerRole ≠ 3 → exec (.yield who 1) s = .next { s with par := { s.par with yieldRefused := true } }))
    ∧ (∀ (s : State) (who : Who) (v : Word), s.isOwner who = false → exec (.yield who v) s = .next s)
    ∧ (∀ s : State, s.par.yieldStep = 1 → s.par.role = .yielding → s.linked = true → ∃ t k, exec .yieldDrainExpiry s = .next t
        ∧ t.par.yieldStep = 2 ∧ t.out.getLast? = some (.skim k) ∧ SkimRecord.yielded s.csn ∈ k.records ∧ t.csn = s.csn
        ∧ (∀ e x, t.entry e = some x → x.phase = .held))
    ∧ (∀ (s : State) (i : Image), s.linked = true → s.par.role = .standby → ∃ t, exec (.pairImageReceive i) s = .next t
        ∧ t.glb.staged = (if imageOk i then some i else none)
        ∧ (if s.spareSlot then t.glb.slotB0 = some i ∧ t.glb.slotB1 = some i else t.glb.slotA0 = some i ∧ t.glb.slotA1 = some i)
        ∧ t = { s with glb := t.glb })
    ∧ (∀ (s : State) (i : Image), s.linked = false → exec (.pairImageReceive i) s = .next s))

/-! ## Commands of the rings: outcomes, capture of keys -/

/-- R93, R94, R127, R132, R262, R290, R321: a command on a core leaves its status and its answer in its tracker entry, and nothing else
changes; a command on a recipe engine is counted as DONE or refused, and its CQE, laid out in 32 bytes, is posted or held. ECHO answers its
data, RANDOM bytes that the instance of its cluster gives, and PITCH_STATUS the status record. -/
def Obligations.CommandOutcomes : Prop :=
  (∀ (s : State) (e : Nat) (x : Entry) (st : BitVec 16) (a : Ans) (n : Nat), s.entry e = some x →
      ∃ t, conclude e false st a n s = t ∧ t.entry e = some { x with
          decided := if st = 0 then x.decided else some st,
          prepared := some { status := st, result := a.result, inline := a.inline, needed := n,
                             engine := if st = 0 then a.engine else opEngine x, check := st = 0 && a.check, method := a.method,
                             long := a.long, gen := a.gen, high := a.high, operand := a.operand } }
        ∧ (∀ f, f ≠ e → t.entry f = s.entry f) ∧ t = { s with sch := { s.sch with entries := t.sch.entries } })
  ∧ (∀ (s : State) (e : Nat) (x : Entry) (st : BitVec 16) (a : Ans) (n : Nat), s.entry e = some x → x.discard = false → x.csn = none →
      ∃ t d, conclude e true st a n s = t
        ∧ (t.pitch x.pitch.toNat).done = (s.pitch x.pitch.toNat).done + (if st = 0 then 1 else 0)
        ∧ (t.pitch x.pitch.toNat).refused = (s.pitch x.pitch.toNat).refused + (if st = 0 then 0 else 1)
        ∧ ((∃ b g h, .cqe (s.cq x.pitch.toNat).port b (cqeBytes g { doneCqe x (doneOf s e st a n) d with sqHead := h }) ∈ t.out)
          ∨ ∃ h ∈ (t.cq x.pitch.toNat).held, h.cqe = doneCqe x (doneOf s e st a n) d ∧ (st ≠ 0 → h.result = []))
        ∧ t.kst = s.kst ∧ t.caches.kbc = s.caches.kbc ∧ t.csn = s.csn ∧ t.imem = s.imem)
  ∧ (∀ (g : Bool) (c : Cqe), (cqeBytes g c).length = 32 ∧ (cqeBytes g c).take 4 = toLE 4 c.hostTag.toNat
      ∧ slice (cqeBytes g c) 4 2 = toLE 2 c.status.toNat ∧ slice (cqeBytes g c) 24 8 = toLE 8 c.inline.toNat)
  ∧ (∀ (s : State) (e : BitVec 17) (env : CmdEnv) (x : Entry) (d : Bytes), Runs s e env 0x0F01 x →
      Formed x 0 [(offA, [0]), (offB, [0])] [(0x40, 64)] [.none, .none] → Input s x env d → d.length ≤ 4096 → d.length ≤ x.resultCap →
      Ends (.echo e env) s e x { result := d, inline := inlineOf (x.bytes 0x40 8) } s)
  ∧ (∀ (s : State) (e : BitVec 17) (env : CmdEnv) (x : Entry), Runs s e env 0x0F02 x →
      Formed x 0 [(offA, [0]), (offB, [0])] [(0x40, 4)] [.none, .none] → x.dataLen = 0 → 1 ≤ x.num 0x40 4 → x.num 0x40 4 ≤ 65536 →
      x.num 0x40 4 ≤ x.resultCap → (s.drbg x.drbg).state ≠ 2 →
      Ends (.random e env) s e x { result := s.drbgOut x.drbg (x.num 0x40 4) } (drbgRequest x.drbg (x.num 0x40 4) s))
  ∧ (∀ (s : State) (e : BitVec 17) (env : CmdEnv) (x : Entry), Runs s e env 0x0F03 x →
      Formed x 0 [(offA, [0]), (offB, [0])] [] [.none, .none] → x.dataLen = 0 → 64 ≤ x.resultCap →
      Ends (.pitchStatus e env) s e x
        { result := s.statusRecord x.pitch.toNat, inline := inlineOf (s.statusRecord x.pitch.toNat) } s)

/-- R46, R56, R74, R113, R118, R128, R166, R173, R301, R310: KEY_CHECK_VALUE answers the KCV of its key. The checks before it, in their
order: data where the opcode has none, an erased store, a block outside the windows and a failed read, a slot of another pitch, an empty
slot and a handle that is not current, a key of another world or pitch, a lifecycle state outside the key's mask. A slot that reads with an
error of two bits waits for its restoration. -/
def Obligations.KeyChecks : Prop :=
  ∀ (s : State) (e : BitVec 17) (env : CmdEnv) (x : Entry) (a : Ref), Runs s e env 0x0104 x → x.captured = none →
    Formed x 0 [(offA, anyType), (offB, [0])] [(0x40, 1)] [a, .none] → x.byte 0x40 ≤ 1 →
    (x.dataLen ≠ 0 → Refuses (.keyCheckValue e env) s e x stBadLength s)
    ∧ (x.dataLen = 0 → s.bat.latch = true → Refuses (.keyCheckValue e env) s e x stKeyErased s)
    ∧ (x.dataLen = 0 → s.bat.latch = false →
      (∀ n b, a = .host n b → windowCovers x.windows x.port false (BitVec.ofNat 64 b) n = false →
        Refuses (.keyCheckValue e env) s e x stBadPointer s)
      ∧ (∀ n b why, a = .host n b → windowCovers x.windows x.port false (BitVec.ofNat 64 b) n = true →
        s.hostRead x.port env.blkA = .failed why → Refuses (.keyCheckValue e env) s e x stDmaFault (aerReport x.port why s))
      ∧ (∀ n, a = .slot n → s.blockOwner (n / 64) ≠ some x.pitch.toNat → Refuses (.keyCheckValue e env) s e x stKeyPitch s)
      ∧ (∀ n m, a = .slot n → s.blockOwner (n / 64) = some x.pitch.toNat → env.slotFault = .double m → n ≤ m.toNat →
        m.toNat < n + s.runOf n → exec (.keyCheckValue e env) s =
          .next (runSteps x env.steps (s.updEntry e.toNat fun x => { x with restore := some (m, false) })))
      ∧ (∀ n, a = .slot n → s.blockOwner (n / 64) = some x.pitch.toNat → env.slotFault = .clean → s.slotKey n = none →
        Refuses (.keyCheckValue e env) s e x stKeyNotFound s)
      ∧ (∀ n k, a = .slot n → s.blockOwner (n / 64) = some x.pitch.toNat → env.slotFault = .clean → s.slotKey n = some k →
        (k.attr.world.testBit (runOf e env x).world = false ∨ k.attr.owner ≠ x.pitch.toNat →
          Refuses (.keyCheckValue e env) s e x stKeyUsage s)
        ∧ (Usable (runOf e env x) false k → k.attr.life.testBit (s.lcsState - 1) = false →
          Refuses (.keyCheckValue e env) s e x stKeyLifecycle s)
        ∧ (∀ c, Allowed s (runOf e env x) false k → Lanes s → kcv (x.byte 0x40) k.attr k.tag k.val = some c →
          Ends (.keyCheckValue e env) s e x { inline := inlineOf c } (lanesUsed true (kept e.toNat [some (k, 0)] s))))
      ∧ (∀ ep q i, a = .handle ep q i → s.handleLive x.pitch.toNat ep q i = false →
        Refuses (.keyCheckValue e env) s e x stKeyNotFound (kbcMiss x.pitch.toNat s))
      ∧ (∀ ep q i k c, a = .handle ep q i → s.handleLive x.pitch.toNat ep q i = true → k = s.cachedKey x.pitch.toNat i →
        Allowed s (runOf e env x) false k → Lanes s → kcv (x.byte 0x40) k.attr k.tag k.val = some c →
        Ends (.keyCheckValue e env) s e x { inline := inlineOf c } (lanesUsed true (kept e.toNat [some (k, 0)]
          (kbcHit x.pitch.toNat (s.setKbc x.pitch.toNat i { s.kbcEntry x.pitch.toNat i with ref := true }))))))

/-- R110, R113, R118, R153, R158, R159, R161, R164, R166, R169, R171: a block that verifies under its KBPK is imported, answered with its
handle and KCV, and with to_slot written to its empty slot by a commit; a key is exported as a block; a key is generated from the bytes of
its cluster's DRBG, into a slot or as a block, and placed in the cache; a block is translated; the cache gives up one entry, or all of the
pitch's. -/
def Obligations.KeyCommands : Prop :=
  (∀ (s u : State) (e : BitVec 17) (env : CmdEnv) (x : Entry) (a b : Ref) (k : Key) (h : Nat),
      Ready s e env 0x0101 x → Formed x 1 [(offA, heldType), (offB, [2, 4])] (targetField x 0x40) [a, b] →
      targetOk (runOf e env x) 0x40 = true → x.dataLen = 0 → 8 ≤ x.resultCap →
      (importKeys (runOf e env x) (x.flag 8) a b).run s = (.ok [some (k, h)], u) → Lanes u →
      (x.flag 8 = false → Ends (.keyImportBlock e env) s e x
        { result := handleBytes h, inline := inlineOf (kcvDefault k.attr k.tag k.val) } (lanesUsed true u))
      ∧ (x.flag 8 = true → u.blockOwner (x.num 0x40 4 / 64) = some x.pitch.toNat → slotsFree u (x.num 0x40 4) k.attr = true →
        (lanesUsed true u).commitWaits = false → ∃ w, w = commitEntry e.toNat (lanesUsed true u)
        ∧ Ends (.keyImportBlock e env) s e x { result := handleBytes h, inline := inlineOf (kcvDefault k.attr k.tag k.val) }
            (putKey (x.num 0x40 4) x.pitch.toNat k.attr k.tag k.val w.csn w)))
  ∧ (∀ (s u w : State) (r : Run) (toSlot : Bool) (a b : Ref) (kb k : Key) (blk : Block) (v : Bytes) (at' : Attr) (tag : KeyTag) (h : Nat),
      r.x.captured = none → (checkRange r a r.env.blkA).run s = (.ok (), s) → (checkRange r b r.env.blkB).run s = (.ok (), s) →
      (checkOwned r a).run s = (.ok (), s) → r.env.slotFault = .clean → (b.type = 2 ∨ b.type = 4 ∧ blk.binary = true) →
      (checkFound r false a r.env.blkA).run s = (.ok (.key kb), u) → Allowed u r false kb → isKbpk false kb = true →
      parseBlock (blockBytes r b r.env.blkB) = some blk → u.kbcFind r.p kb.binding blk.mac = none →
      verifyBlock kb.val blk = some (v, at', tag) →
      k = { val := v, attr := { at' with owner := r.p }, tag := tag, binding := .none, weak := !kbpkCovers kb.val.length at' } →
      cachePlace r.p kb.binding blk.mac k (kbcMiss r.p u) = (h, w) → Allowed w r toSlot k →
      ∃ i, (importKeys r toSlot a b).run s = (.ok [some ({ k with binding := i }, h)], kept r.e [some ({ k with binding := i }, h)] w))
  ∧ (∀ (s u w : State) (e : BitVec 17) (env : CmdEnv) (x : Entry) (a b : Ref) (k kb : Key) (blk : Bytes) (n : Nat),
      Ready s e env 0x0102 x → Formed x 0 [(offA, heldType), (offB, heldType)] [(0x40, 16)] [a, b] →
      templateForm (x.bytes 0x40 16) = true → x.dataLen = 0 →
      FindsBoth (runOf e env x) a b (fun k => exportable (readHeader (x.bytes 0x40 16)) k.attr) (isKbpk true)
        (fun k kb => kbpkCovers kb.val.length k.attr && blockFits kb.val k.attr k.tag k.val) s k kb u →
      (k.attr.expo ≠ 1 ∨ (u.pitch x.pitch.toNat).exportAuth.isSome = true) →
      writeBlock (u.drbgOut x.drbg 64) kb.val ((expoOf (byteAt (x.bytes 0x40 16) 11)).getD 0) (byteAt (x.bytes 0x40 16) 14) k.attr k.tag
        k.val = some (blk, n) → blk.length ≤ x.resultCap → (u.drbg x.drbg).state ≠ 2 → w = drbgRequest x.drbg n u → Lanes w →
      Ends (.keyExportBlock e env) s e x { result := blk, inline := inlineOf (kcvDefault k.attr k.tag k.val) }
        (countExport x.pitch.toNat k.attr (lanesUsed true w)))
  ∧ (∀ (s u w : State) (e : BitVec 17) (env : CmdEnv) (x : Entry) (h : Header) (n : Nat) (at' : Attr) (tag : KeyTag) (k : Key),
      Ready s e env 0x0103 x → x.captured = none → u = kept e.toNat [none] s →
      Formed x 1 [(offA, [0, 1, 3]), (offB, [0])] ([(0x40, 16), (0x54, 1), (0x55, 1)] ++ targetField x 0x50) [.none, .none] →
      templateForm (x.bytes 0x40 16) = true → x.flag 8 = true → x.num 0x50 4 < 2 ^ 18 →
      symFieldsOk (byteAt (x.bytes 0x40 16) 7) (x.byte 0x54) (x.byte 0x55) = true → x.dataLen = 0 →
      n = symLength (byteAt (x.bytes 0x40 16) 7) (x.byte 0x54) → symTemplate (x.bytes 0x40 16) n = some h →
      at' = newAttr h n x.pitch.toNat →
      tag = { hm := if x.byte 0x55 = 0 then none else some (BitVec.ofNat 8 (x.byte 0x55 - 0x10)) } →
      k = { val := u.drbgOut x.drbg n, attr := at', tag := tag, binding := .none } →
      u.blockOwner (x.num 0x50 4 / 64) = some x.pitch.toNat → slotsFree u (x.num 0x50 4) at' = true → 8 ≤ x.resultCap →
      (u.drbg x.drbg).state ≠ 2 → w = lanesUsed true (drbgRequest x.drbg n u) → Lanes (drbgRequest x.drbg n u) → w.commitWaits = false →
      ∃ hv v, cachePlace x.pitch.toNat .none k.val k
          (putKey (x.num 0x50 4) x.pitch.toNat at' tag k.val (commitEntry e.toNat w).csn (commitEntry e.toNat w)) = (hv, v)
        ∧ Ends (.keyGenerateSym e env) s e x { result := handleBytes hv, inline := inlineOf (kcvDefault at' tag k.val) } v)
  ∧ (∀ (s u w y : State) (e : BitVec 17) (env : CmdEnv) (x : Entry) (a : Ref) (kb k : Key) (h : Header) (n m : Nat) (at' : Attr)
      (tag : KeyTag) (blk : Bytes),
      Ready s e env 0x0103 x →
      Formed x 1 [(offA, [0, 1, 3]), (offB, [0])] ([(0x40, 16), (0x54, 1), (0x55, 1)] ++ targetField x 0x50) [a, .none] →
      templateForm (x.bytes 0x40 16) = true → x.flag 8 = false → a ≠ .none →
      symFieldsOk (byteAt (x.bytes 0x40 16) 7) (x.byte 0x54) (x.byte 0x55) = true → x.dataLen = 0 →
      n = symLength (byteAt (x.bytes 0x40 16) 7) (x.byte 0x54) → symTemplate (x.bytes 0x40 16) n = some h →
      at' = newAttr h n x.pitch.toNat →
      tag = { hm := if x.byte 0x55 = 0 then none else some (BitVec.ofNat 8 (x.byte 0x55 - 0x10)) } →
      FindsOne (runOf e env x) a (isKbpk true) (fun kb => kbpkCovers kb.val.length at') s kb u →
      (u.drbg x.drbg).state ≠ 2 → w = drbgRequest x.drbg n u → (w.drbg x.drbg).state ≠ 2 →
      k = { val := u.drbgOut x.drbg n, attr := at', tag := tag, binding := .none } →
      8 + blockLength kb at' tag n ≤ x.resultCap →
      writeBlock (w.drbgOut x.drbg 64) kb.val h.expo (byteAt (x.bytes 0x40 16) 14) at' tag k.val = some (blk, m) →
      8 + blk.length ≤ x.resultCap → blk ≠ [] → y = drbgRequest x.drbg m w → Lanes y →
      ∃ hv v, cachePlace x.pitch.toNat kb.binding (writtenMac blk) k (lanesUsed true y) = (hv, v)
        ∧ Ends (.keyGenerateSym e env) s e x { result := handleBytes hv ++ blk, inline := inlineOf (kcvDefault at' tag k.val) } v)
  ∧ (∀ (s u w : State) (e : BitVec 17) (env : CmdEnv) (x : Entry) (a b : Ref) (src dst k : Key) (raw v out : Bytes) (blk : Block)
      (at' : Attr) (tag : KeyTag) (h : Header) (ctx : Byte) (n : Nat),
      Ready s e env 0x0105 x → Formed x 0 [(offA, anyType), (offB, anyType)] [(0x40, 16)] [a, b] →
      (allZero (x.bytes 0x40 16) || templateForm (x.bytes 0x40 16)) = true → 16 ≤ raw.length → raw.length ≤ 2048 →
      FindsBoth (runOf e env x) a b (isKbpk false) (isKbpk true) (fun _ _ => true) s src dst u → Input u x env raw →
      parseBlock raw = some blk → verifyBlock src.val blk = some (v, at', tag) →
      translateHeader (x.bytes 0x40 16) blk = (some h, ctx) →
      k = { val := v, attr := { at' with owner := x.pitch.toNat }, tag := tag, binding := .none,
            weak := !kbpkCovers src.val.length at' } →
      Allowed u (runOf e env x) false k → exportable (some h) k.attr = true → kbpkCovers dst.val.length k.attr = true →
      blockFits dst.val k.attr tag v = true → (at'.expo ≠ 1 ∨ (u.pitch x.pitch.toNat).exportAuth.isSome = true) →
      writeBlock (u.drbgOut x.drbg 64) dst.val h.expo ctx at' tag v = some (out, n) → out.length ≤ x.resultCap →
      (u.drbg x.drbg).state ≠ 2 → w = drbgRequest x.drbg n u → Lanes w →
      Ends (.keyTranslateBlock e env) s e x { result := out, inline := inlineOf (kcvDefault at' tag v) }
        (countExport x.pitch.toNat at' (lanesUsed true w)))
  ∧ (∀ (s : State) (e : BitVec 17) (env : CmdEnv) (x : Entry), Ready s e env 0x0106 x → x.captured = none →
      Formed x 0 [(offA, [0, 2, 3, 4]), (offB, [0])] [(0x40, 1)] [.none, .none] → x.byte 0x40 = 1 → x.dataLen = 0 →
      Ends (.keyCacheEvict e env) s e x { inline := BitVec.ofNat 64 (s.kbcUse x.pitch.toNat) }
        (evictPitch x.pitch.toNat (kept e.toNat [none] s)))
  ∧ (∀ (s : State) (e : BitVec 17) (env : CmdEnv) (x : Entry) (ep q i : Nat), Ready s e env 0x0106 x → x.captured = none →
      Formed x 0 [(offA, [0, 2, 3, 4]), (offB, [0])] [(0x40, 1)] [.handle ep q i, .none] → x.byte 0x40 = 0 → x.dataLen = 0 →
      s.handleLive x.pitch.toNat ep q i = true → Allowed s (runOf e env x) false (s.cachedKey x.pitch.toNat i) →
      ∃ u, Ends (.keyCacheEvict e env) s e x { inline := 1 } u ∧ (u.kbcEntry x.pitch.toNat i).valid = false
        ∧ u.handleLive x.pitch.toNat ep q i = false ∧ (∀ p j, kbcKey p j ≠ kbcKey x.pitch.toNat i → u.kbcEntry p j = s.kbcEntry p j))

/-! ## PIN, card, message and token commands -/

/-- R119, R179 to R191: a PIN block is deciphered and its PIN enciphered anew under the other key, format or PAN, and a PIN field that
breaks its format is PIN_FORMAT; a PIN is verified against its offset or its PVV, and its offset is made. -/
def Obligations.PinCommands : Prop :=
  (∀ (s u : State) (e : BitVec 17) (env : CmdEnv) (x : Entry) (a b : Ref) (ka kb : Key) (fin fout : Nat) (pan new : List Nat) (pf : Bytes),
      Ready s e env 0x0201 x → fin = x.byte 0x5C → fout = x.byte 0x5D →
      Formed x 2 [(offA, anyType), (offB, anyType)] ([(0x40, 16), (0x5C, 1), (0x5D, 1)]
        ++ (if fin ≠ 1 || fout ≠ 1 then [(0x50, 12)] else []) ++ (if x.flag 9 then [(0x60, 12)] else [])) [a, b] →
      translatePair fin fout = true → pinBlockOk fin (x.bytes 0x40 16) = true → (fin = 1 ∧ fout = 1 ∨ readPan (x.bytes 0x50 12) = some pan) →
      (x.flag 9 = true → fin ≠ 1 ∧ fout ≠ 1 ∧ readPan (x.bytes 0x60 12) = some new) → (x.flag 9 = false → new = pan) →
      (fin = 1 ∧ fout = 1 → pan = (readPan (x.bytes 0x50 12)).getD []) →
      x.dataLen = 0 → FindsBoth (runOf e env x) a b (pinKey fin false) (pinKey fout true) (fun _ _ => true) s ka kb u →
      pinLen fout ≤ x.resultCap → pinServes (runOf e env x) fout u → Lanes (pinDrawn (runOf e env x) fout u) →
      pf = pinDecipher fin ka.val ((x.bytes 0x40 16).take (pinLen fin)) (panField fin pan) →
      (∀ pin, pinOf fin pf = some pin → Ends (.pinTranslate e env) s e x
        { result := pinBuild fout kb.val pin (pinBytes (runOf e env x) fout u) new } (lanesUsed true (pinDrawn (runOf e env x) fout u)))
      ∧ (pinOf fin pf = none → Refuses (.pinTranslate e env) s e x stPinFormat (lanesUsed true (pinDrawn (runOf e env x) fout u))))
  ∧ (∀ (s u : State) (e : BitVec 17) (env : CmdEnv) (x : Entry) (a b : Ref) (ka kb : Key) (gen : Bool) (table pan nat off : List Nat)
      (len : Nat) (pf : Bytes),
      Ready s e env (if gen then 0x0204 else 0x0202) x → len = x.byte 0x5D →
      Formed x 0 [(offA, anyType), (offB, anyType)] ([(0x40, 16), (0x5C, 1), (0x5D, 1), (0x60, 8), (0x70, 8)]
        ++ pinPanField (x.byte 0x5C) ++ (if gen then [] else [(0x68, 6)])) [a, b] →
      formatOk (x.byte 0x5C) = true → pinBlockOk (x.byte 0x5C) (x.bytes 0x40 16) = true → 4 ≤ len → len ≤ 12 →
      readTable (x.bytes 0x60 8) = some table → (x.byte 0x5C ≠ 1 → readPan (x.bytes 0x50 12) = some pan) →
      (gen = false → readOffset (x.bytes 0x68 6) len = some off) → x.dataLen = 0 →
      FindsBoth (runOf e env x) a b (pinKey (x.byte 0x5C) false) (pvk .v1 gen) (fun _ _ => true) s ka kb u → Lanes u →
      pf = pinDecipher (x.byte 0x5C) ka.val ((x.bytes 0x40 16).take (pinLen (x.byte 0x5C))) (panField (x.byte 0x5C) pan) →
      nat = naturalPin kb (x.bytes 0x70 8) table len →
      (pinOf (x.byte 0x5C) pf = none → Refuses (if gen then .pinGenerateOffset e env else .pinVerifyOffset e env) s e x stPinFormat (lanesUsed true u))
      ∧ (∀ pin, pinOf (x.byte 0x5C) pf = some pin → gen = false →
        (len ≤ pin.length ∧ List.zipWith (fun a b => (a + b) % 10) nat off = pin.take len →
          Ends (.pinVerifyOffset e env) s e x { inline := 1 } (lanesUsed true u))
        ∧ (¬ (len ≤ pin.length ∧ List.zipWith (fun a b => (a + b) % 10) nat off = pin.take len) →
          Refuses (.pinVerifyOffset e env) s e x stVerifyMismatch (lanesUsed true u)))
      ∧ (∀ pin, pinOf (x.byte 0x5C) pf = some pin → gen = true →
        (len ≤ pin.length → Ends (.pinGenerateOffset e env) s e x { inline := inlineOf (ofNibbles
            (List.zipWith (fun a b => (a + 10 - b) % 10) (pin.take len) nat ++ List.replicate (12 - len) 15)) } (lanesUsed true u))
        ∧ (pin.length < len → Refuses (.pinGenerateOffset e env) s e x stPinFormat (lanesUsed true u))))
  ∧ (∀ (s u : State) (e : BitVec 17) (env : CmdEnv) (x : Entry) (a b : Ref) (ka kb : Key) (pan : List Nat) (pf : Bytes),
      Ready s e env 0x0203 x →
      Formed x 0 [(offA, anyType), (offB, anyType)] [(0x40, 16), (0x50, 12), (0x5C, 1), (0x5D, 1), (0x5E, 2)] [a, b] →
      readPan (x.bytes 0x50 12) = some pan → formatOk (x.byte 0x5C) = true → pinBlockOk (x.byte 0x5C) (x.bytes 0x40 16) = true →
      x.byte 0x5D ≤ 6 → ((nibbles (x.bytes 0x5E 2)).all fun n => decide (n ≤ 9)) = true → x.dataLen = 0 →
      FindsBoth (runOf e env x) a b (pinKey (x.byte 0x5C) false) (pvk .v2 false) (fun _ _ => true) s ka kb u → Lanes u →
      pf = pinDecipher (x.byte 0x5C) ka.val ((x.bytes 0x40 16).take (pinLen (x.byte 0x5C))) (panField (x.byte 0x5C) pan) →
      (pinOf (x.byte 0x5C) pf = none → Refuses (.pinVerifyPvv e env) s e x stPinFormat (lanesUsed true u))
      ∧ (∀ pin, pinOf (x.byte 0x5C) pf = some pin →
        (pvv kb.val pan (x.byte 0x5D) pin = nibbles (x.bytes 0x5E 2) → Ends (.pinVerifyPvv e env) s e x { inline := 1 } (lanesUsed true u))
        ∧ (pvv kb.val pan (x.byte 0x5D) pin ≠ nibbles (x.bytes 0x5E 2) →
          Refuses (.pinVerifyPvv e env) s e x stVerifyMismatch (lanesUsed true u))))

/-- R120, R192 to R200: a card verification code is made and verified; an ARQC is verified over its transaction data, and its ARPC made by
method 1 or 2; an issuer script is enciphered where flag 8 asks for it, and carries its MAC. -/
def Obligations.CardCommands : Prop :=
  (∀ (s u : State) (e : BitVec 17) (env : CmdEnv) (x : Entry) (a : Ref) (k : Key) (gen : Bool) (pan d : List Nat),
      Ready s e env (if gen then 0x0301 else 0x0302) x →
      Formed x 0 [(offA, anyType), (offB, [0])] ([(0x40, 12), (0x4C, 2), (0x50, 1)]
        ++ (if x.byte 0x50 = 0 then [(0x4E, 2)] else []) ++ (if gen then [] else [(0x52, 2)])) [a, .none] →
      readPan (x.bytes 0x40 12) = some pan → expiryOk (x.bytes 0x4C 2) = true → x.byte 0x50 ≤ 2 →
      (x.byte 0x50 ≠ 0 ∨ threeDigits (x.bytes 0x4E 2) = true) → (gen = true ∨ threeDigits (x.bytes 0x52 2) = true) → x.dataLen = 0 →
      Finds (runOf e env x) a (cvk gen) s k u → Lanes u → d = pan ++ nibbles (x.bytes 0x4C 2) ++ serviceCode x →
      (gen = true → Ends (.cvcGenerate e env) s e x
        { inline := inlineOf (ofNibbles (cvc k (ofNibbles (d ++ List.replicate (32 - d.length) 0)) ++ [15])) } (lanesUsed true u))
      ∧ (gen = false →
        (cvc k (ofNibbles (d ++ List.replicate (32 - d.length) 0)) = (nibbles (x.bytes 0x52 2)).take 3 →
          Ends (.cvcVerify e env) s e x { inline := 1 } (lanesUsed true u))
        ∧ (cvc k (ofNibbles (d ++ List.replicate (32 - d.length) 0)) ≠ (nibbles (x.bytes 0x52 2)).take 3 →
          Refuses (.cvcVerify e env) s e x stVerifyMismatch (lanesUsed true u))))
  ∧ (∀ (s u : State) (e : BitVec 17) (env : CmdEnv) (x : Entry) (a : Ref) (k : Key) (d : Bytes), Ready s e env 0x0303 x →
      Formed x 0 [(offA, anyType), (offB, [0])] emvFields [a, .none] → emvFieldsOk x = true → Input u x env d → 1 ≤ d.length →
      d.length ≤ 255 → Finds (runOf e env x) a (emvMaster .e0) s k u → Lanes u →
      (emvMac (decide (k.attr.alg = .t)) (arqcKey x k) d = x.bytes 0x50 8 → Ends (.arqcVerify e env) s e x { inline := 1 } (lanesUsed true u))
      ∧ (emvMac (decide (k.attr.alg = .t)) (arqcKey x k) d ≠ x.bytes 0x50 8 → Refuses (.arqcVerify e env) s e x stVerifyMismatch (lanesUsed true u)))
  ∧ (∀ (s u : State) (e : BitVec 17) (env : CmdEnv) (x : Entry) (a : Ref) (k : Key) (m n : Nat) (d prop : Bytes), Ready s e env 0x0304 x →
      m = x.byte 0x5C → n = x.byte 0x64 → prop.length = n →
      Formed x 0 [(offA, anyType), (offB, [0])] (emvFields ++ [(0x5C, 1), (0x60, if m = 1 then 2 else 4), (0x64, 1)]) [a, .none] →
      emvFieldsOk x = true → (m = 1 ∧ n = 0 ∨ m = 2 ∧ n ≤ 8) → Input u x env (d ++ prop) → 1 ≤ d.length → d.length ≤ 255 →
      Finds (runOf e env x) a (emvMaster .e0) s k u → (if m = 1 then 8 else 4) ≤ x.resultCap → Lanes u →
      (emvMac (decide (k.attr.alg = .t)) (arqcKey x k) d = x.bytes 0x50 8 → Ends (.arqcVerifyArpc e env) s e x
        { inline := 1, result := arpc (decide (k.attr.alg = .t)) (arqcKey x k) x prop } (lanesUsed true u))
      ∧ (emvMac (decide (k.attr.alg = .t)) (arqcKey x k) d ≠ x.bytes 0x50 8 →
        Refuses (.arqcVerifyArpc e env) s e x stVerifyMismatch (lanesUsed true u)))
  ∧ (∀ (s u : State) (e : BitVec 17) (env : CmdEnv) (x : Entry) (a b : Ref) (ka : Key) (kb : Option Key) (d : Bytes),
      Ready s e env 0x0305 x → Formed x 1 [(offA, anyType), (offB, if x.flag 8 then anyType else [0])] emvFields [a, b] →
      emvFieldsOk x = true → Input u x env d → 5 ≤ d.length → d.length - 5 ≤ (if x.flag 8 then 239 else 247) →
      (byteAt d 4).toNat = d.length - 5 →
      (capture (runOf e env x) [⟨a, env.blkA, emvMaster .e2⟩, ⟨b, env.blkB, emvMaster .e1⟩] (fun _ => true)).run s = (.ok [some ka, kb], u) →
      (match kb with
        | some k => (d.length - 5) / blockLen (k.attr.alg = .t) * blockLen (k.attr.alg = .t) + blockLen (k.attr.alg = .t)
        | none => 0) + 8 ≤ x.resultCap → Lanes u →
      Ends (.emvScriptProtect e env) s e x
        { result := scriptProtect x d (decide (ka.attr.alg = .t)) (scriptKey x ka)
            (kb.map fun k => (decide (k.attr.alg = .t), scriptKey x k)) } (lanesUsed true u))

/-- R121, R123, R124, R201 to R203, R252, R254 to R257: a MAC is made, verified, and made anew under another key once it verifies; a message
is hashed, with and without a key; a token of FF1 is made from the middle numerals of a string, and back. -/
def Obligations.MessageCommands : Prop :=
  (∀ (s u : State) (e : BitVec 17) (env : CmdEnv) (x : Entry) (a : Ref) (k : Key) (m : MacParams) (d : Bytes), Ready s e env 0x0401 x →
      Formed x 0 [(offA, anyType), (offB, [0])] [(0x40, 3)] [a, .none] → m = macParams x 0x40 → m.ok = true → Input u x env d →
      1 ≤ d.length → d.length ≤ 2 ^ 20 → Finds (runOf e env x) a (macKey m true) s k u → macCap m ≤ x.resultCap → Lanes u →
      Ends (.macGenerate e env) s e x (macAns (macOf m k.val d)) (lanesUsed true u))
  ∧ (∀ (s u : State) (e : BitVec 17) (env : CmdEnv) (x : Entry) (a : Ref) (k : Key) (m : MacParams) (d : Bytes), Ready s e env 0x0402 x →
      m = macParams x 0x40 → Formed x 0 [(offA, anyType), (offB, [0])] [(0x40, 3), (0x50, min m.len 16)] [a, .none] → m.ok = true →
      Input u x env d → 1 ≤ d.length → d.length ≤ 2 ^ 20 → Finds (runOf e env x) a (macKey m false) s k u → Lanes u →
      (macOf m k.val d = x.bytes 0x50 m.len → Ends (.macVerify e env) s e x { inline := 1 } (lanesUsed true u))
      ∧ (macOf m k.val d ≠ x.bytes 0x50 m.len → Refuses (.macVerify e env) s e x stVerifyMismatch (lanesUsed true u)))
  ∧ (∀ (s u : State) (e : BitVec 17) (env : CmdEnv) (x : Entry) (a b : Ref) (ka kb : Key) (mi mo : MacParams) (d : Bytes),
      Ready s e env 0x0403 x → mi = macParams x 0x40 → mo = macParams x 0x43 →
      Formed x 0 [(offA, anyType), (offB, anyType)] [(0x40, 6), (0x50, min mi.len 16)] [a, b] → mi.ok = true → mo.ok = true →
      Input u x env d → 1 ≤ d.length → d.length ≤ 2 ^ 20 →
      FindsBoth (runOf e env x) a b (macKey mi false) (macKey mo true) (fun _ _ => true) s ka kb u → macCap mo ≤ x.resultCap → Lanes u →
      (macOf mi ka.val d = x.bytes 0x50 mi.len → Ends (.macTranslate e env) s e x (macAns (macOf mo kb.val d)) (lanesUsed true u))
      ∧ (macOf mi ka.val d ≠ x.bytes 0x50 mi.len → Refuses (.macTranslate e env) s e x stVerifyMismatch (lanesUsed true u)))
  ∧ (∀ (s : State) (e : BitVec 17) (env : CmdEnv) (x : Entry) (d : Bytes) (code out : Nat), Runs s e env 0x0705 x →
      Formed x 0 [(offA, [0]), (offB, [0])] [(0x40, 1), (0x42, 2)] [.none, .none] → code = x.byte 0x40 → out = x.num 0x42 2 →
      hashOutOk code out = true → Input s x env d → d.length ≤ 2 ^ 24 →
      (if code = 7 ∨ code = 8 then out else hashLen code) ≤ x.resultCap →
      Ends (.hash e env) s e x { result := hashOf code d out } s)
  ∧ (∀ (s u : State) (e : BitVec 17) (env : CmdEnv) (x : Entry) (a : Ref) (k : Key) (d : Bytes) (code out cust : Nat),
      Ready s e env 0x0706 x → code = x.byte 0x40 → out = x.num 0x42 2 → cust = x.byte 0x44 →
      Formed x 0 [(offA, anyType), (offB, [0])] [(0x40, 1), (0x42, 2), (0x44, 1), (0x60, min cust 32)] [a, .none] →
      keyedHashFields code out cust = true → Input u x env d → d.length ≤ 2 ^ 24 → Finds (runOf e env x) a (keyedHashKey code) s k u →
      (if [0x11, 0x12, 0x13].contains code then hashLen (code - 0x10) else out) ≤ x.resultCap →
      Ends (.keyedHash e env) s e x { result := keyedHash code k.val d out (x.bytes 0x60 cust) } u)
  ∧ (∀ (s u : State) (e : BitVec 17) (env : CmdEnv) (x : Entry) (a : Ref) (k : Key) (enc : Bool) (n l m : Nat) (sy : List Nat),
      Ready s e env (if enc then 0x0601 else 0x0602) x → n = x.byte 0x41 → l = x.byte 0x42 → m = n - l - x.byte 0x43 →
      Formed x 0 [(offA, anyType), (offB, [0])] [(0x40, 5), (0x48, min (x.byte 0x44) 24), (0x60, min n 32)] [a, .none] →
      tokenFields x = true → x.dataLen = 0 → n ≤ x.resultCap →
      Finds (runOf e env x) a (fun k => k.attr.use = .u91 && (if enc then k.attr.mode.enc else k.attr.mode.dec)) s k u → Lanes u →
      sy = (x.bytes 0x60 n).map (·.toNat) →
      Ends (if enc then .tokenEncrypt e env else .tokenDecrypt e env) s e x
        { result := (sy.take l ++ ff1 enc k.val (x.bytes 0x48 (x.byte 0x44)) (x.byte 0x40) ((sy.drop l).take m)
            ++ sy.drop (l + m)).map (BitVec.ofNat 8) } (lanesUsed true u))

/-! ## Cipher and DUKPT commands -/

/-- R110, R238 to R251: a cipher command (CIPHER_ENCRYPT, CIPHER_DECRYPT, AEAD_ENCRYPT, AEAD_DECRYPT) gives the output of its mode over its
text, its tag where it seals, and its context where it is to go on; a segment that its counter block cannot take is COUNTER_EXHAUSTED and a context that is not the pitch's, the command's and the key's
is KEY_BLOCK_AUTH; a tag that fails releases no result, and is counted where the output was held. A counter value is spent once, with the
next CSN, and none past its end. The context key is rotated against its generation, and a context is checked under it. -/
def Obligations.CipherCommands : Prop :=
  (∀ c ∈ bulkCommands, ∀ (s u w : State) (e : BitVec 17) (env : CmdEnv) (x : Entry) (b : Bulk) (ka : Key) (k2 iv d : Bytes)
      (inl : BitVec 64), BulkReady c.1 s e env x b ka k2 iv d inl u w →
      (bulkStart b ka.val k2 iv (u.pitch x.pitch.toNat) d = none → exec (c.2 e env) s =
        .next (conclude e.toNat (decide (x.phase = .admitted)) stKeyBlockAuth { inline := inl } 0 w))
      ∧ ∀ h g saved z, bulkStart b ka.val k2 iv (u.pitch x.pitch.toNat) d = some h →
        g = runSegment b ka.val h ((bulkRest b d).take b.aad) (bulkText b d) →
        saved = bulkSaved (runOf e env x) b (ka.val ++ k2) (u.pitch x.pitch.toNat) g.next w → z = bulkEnd (runOf e env x) b w →
        (chainFits b h (bulkText b d).length = false → exec (c.2 e env) s =
          .next (conclude e.toNat (decide (x.phase = .admitted)) stCounterExhausted { inline := inl } 0 w))
        ∧ (chainFits b h (bulkText b d).length = true →
          ((b.aead && !b.enc && !b.notFinal) = false → Ends (c.2 e env) s e x
            { result := g.out ++ (if b.aead && b.enc && !b.notFinal then g.tag.take b.tag else []) ++ saved, inline := inl } z)
          ∧ ((b.aead && !b.enc && !b.notFinal) = true → inl = 0 →
            (g.tag.take b.tag = (bulkRest b d).drop ((bulkRest b d).length - b.tag) →
              Ends (c.2 e env) s e x { result := g.out ++ saved } z)
            ∧ (g.tag.take b.tag ≠ (bulkRest b d).drop ((bulkRest b d).length - b.tag) →
              (b.held = true → Refuses (c.2 e env) s e x stTagMismatch
                { z with units := { z.units with heldFail := z.units.heldFail + 1 } })
              ∧ (b.held = false → Refuses (c.2 e env) s e x stTagMismatch (spill (runOf e env x) g.out z))))))
  ∧ (∀ (u : State) (r : Run) (k : Key) (n v : Nat), k.slot = some n → u.commitWaits = false → r.env.slotFault = .clean →
      v = u.counterValue (n + runSlots k.attr.len) (counterEnd k.attr) → u.entry r.e = some r.x →
      (v < counterEnd k.attr → v + 1 < 2 ^ 64 → ∃ w, (spendCounter r k).run u = (.ok v, w) ∧ w.csn = u.csn + 1
        ∧ leNat ((w.slot (n + runSlots k.attr.len)).key.take 8) = v + 1
        ∧ (w.slot (n + runSlots k.attr.len)).gen = (u.slot (n + runSlots k.attr.len)).gen
        ∧ (∀ m, m ≠ n + runSlots k.attr.len → w.slot m = u.slot m))
      ∧ (counterEnd k.attr ≤ v → (spendCounter r k).run u = (.error (.fail stCounterExhausted 0 0), u)))
  ∧ (∀ (s : State) (e : BitVec 17) (env : CmdEnv) (x : Entry), Ready s e env 0x0707 x →
      Formed x 0 [(offA, [0]), (offB, [0])] [(0x40, 1), (0x48, 8)] [.none, .none] → x.byte 0x40 = 1 → x.dataLen = 0 →
      s.commitWaits = false →
      ((s.pitch x.pitch.toNat).ctxGen.toNat = x.num 0x48 8 → (s.drbg 9).state ≠ 2 →
        ∃ u, Ends (.cipherContext e env) s e x { inline := (s.pitch x.pitch.toNat).ctxGen + 1 } u ∧ u.csn = s.csn + 1
          ∧ (u.pitch x.pitch.toNat).ctxKey = some (s.drbgOut 9 32) ∧ (u.pitch x.pitch.toNat).ctxGen = (s.pitch x.pitch.toNat).ctxGen + 1
          ∧ u.kst.slots = s.kst.slots)
      ∧ ((s.pitch x.pitch.toNat).ctxGen.toNat ≠ x.num 0x48 8 → Refuses (.cipherContext e env) s e x stBadField s))
  ∧ (∀ (s : State) (e : BitVec 17) (env : CmdEnv) (x : Entry) (d : Bytes), Ready s e env 0x0707 x →
      Formed x 0 [(offA, [0]), (offB, [0])] [(0x40, 1)] [.none, .none] → x.byte 0x40 = 2 → Input s x env d → d.length = 128 → Lanes s →
      (if (unsealCtx ((s.pitch x.pitch.toNat).ctxKey.getD []) (s.pitch x.pitch.toNat).ctxGen.toNat d).isSome
        then Ends (.cipherContext e env) s e x { inline := 1 } (lanesUsed true s)
        else Refuses (.cipherContext e env) s e x stKeyBlockAuth (lanesUsed true s)))

/-- R122, R208 to R229: a DUKPT command takes the key for the high part of its counter from the derivation cache, or waits for a walker that
derives it; with it, it deciphers data, translates a PIN block or verifies a MAC, and names the high counter that DONE raises; a counter
below the replay window, or that no terminal reaches, is COUNTER_EXHAUSTED. The initial key of a terminal is derived from the BDK and
exported.

Also R18, R218, R219, R220: a walker that ends hands its key to its command and is free; it rewrites the cache entry that its lookup found,
whose other fields stay, and stores nothing where the pitch's generation has moved on; one that meets a failed line MAC ends its command
with MEMORY_ECC and stores nothing. -/
def Obligations.DukptCommands : Prop :=
  ((∀ (s : State) (r : Run) (k : Ksn) (bdk : Key), r.x.anchor = none → k.reachable = true → s.walkerBusy r.x.pitch k bdk.binding = false →
        (∀ i, s.dkcFind r.p k.tdes k.id bdk.binding = some i → s.replayRefuses r.p k.ctr (s.dkcEntry r.p i).high = true →
          ∃ u, (dkcStep r k bdk).run s = (.error (.fail stCounterExhausted 0 0), u) ∧ u.caches = s.caches)
        ∧ (∀ i, s.dkcFind r.p k.tdes k.id bdk.binding = some i → s.replayRefuses r.p k.ctr (s.dkcEntry r.p i).high = false →
          (s.dkcEntry r.p i).anchor = highOf k.ctr → ∃ u, (dkcStep r k bdk).run s = (.ok (s.dkcEntry r.p i).key, u)
            ∧ u.dkcEntry r.p i = { s.dkcEntry r.p i with ref := true } ∧ (u.pitch r.p).dkcHit = (s.pitch r.p).dkcHit + 1)
        ∧ (s.dkcFind r.p k.tdes k.id bdk.binding = none → s.caches.walker0 = none → s.caches.walkQueue = [] → s.entry r.e = some r.x →
          ∃ u, (dkcStep r k bdk).run s = (.error .parked, u) ∧ (u.entry r.e).bind (·.walker) = some 0
            ∧ (u.caches.walker0.map (·.key)) = some (walkerKey k bdk.val) ∧ (u.pitch r.p).dkcMiss = (s.pitch r.p).dkcMiss + 1))
    ∧ (∀ (s : State) (r : Run) (k : Ksn) (bdk : Key), r.x.anchor = none → k.reachable = false →
        (dkcStep r k bdk).run s = (.error (.fail stCounterExhausted 0 0), s))
    ∧ (∀ (s u w : State) (e : BitVec 17) (env : CmdEnv) (x : Entry) (a : Ref) (k : Ksn) (bdk : Key) (ak d iv wk : Bytes) (m : Nat),
        Ready s e env 0x0501 x → k = readKsn x → m = x.byte 0x4E →
        Formed x 0 [(offA, heldType), (offB, [0])]
          [(0x40, if k.tdes then 10 else 12), (0x4C, 1), (0x4D, 1), (0x4E, 1), (0x50, blockLen k.tdes)] [a, .none] →
        ksnFieldOk x = true → x.byte 0x4D ≤ 1 → (m = 2 ∨ m = 3 ∧ k.tdes = false) → 16 ≤ d.length → d.length ≤ 4096 →
        (m = 3 ∨ d.length % blockLen k.tdes = 0) → FindsBdk (runOf e env x) k a s bdk u → d.length ≤ x.resultCap →
        (dkcStep (runOf e env x) k bdk).run u = (.ok ak, w) → Input w x env d → iv = x.bytes 0x50 (blockLen k.tdes) →
        (m ≠ 3 ∨ ctrFits iv ((d.length + 15) / 16) = true) → Lanes w →
        wk = workingKey k ak (if x.byte 0x4D = 0 then .dataRequest else .dataResponse) →
        Ends (.dukptDecryptData e env) s e x
          { result := if m = 3 then (ctrCrypt false wk (chunks (blockLen k.tdes) d) iv).1
              else (cbcDec k.tdes wk (chunks (blockLen k.tdes) d) iv).1,
            high := some (k.mark bdk) } (lanesUsed true w))
    ∧ (∀ (s u w v : State) (e : BitVec 17) (env : CmdEnv) (x : Entry) (a b : Ref) (k : Ksn) (bdk kb : Key) (ak wk : Bytes)
        (fin fout : Nat) (pan : List Nat) (pf : Option (List Nat)),
        Ready s e env 0x0502 x → k = readKsn x → fin = x.byte 0x4D → fout = x.byte 0x4E →
        Formed x 0 [(offA, heldType), (offB, anyType)]
          ([(0x40, if k.tdes then 10 else 12), (0x4C, 1), (0x4D, 1), (0x4E, 1), (0x50, 16)]
            ++ if fin ≠ 1 || fout ≠ 1 then [(0x60, 12)] else []) [a, b] →
        ksnFieldOk x = true → translatePair fin fout = true → pinBlockOk fin (x.bytes 0x50 16) = true →
        (fin = 1 ∧ fout = 1 ∨ (readPan (x.bytes 0x60 12)).isSome = true) → pan = (readPan (x.bytes 0x60 12)).getD [] → x.dataLen = 0 →
        FindsBoth (runOf e env x) a b (fun q => bdkOk k.tdes q && (fin = 4) = !k.tdes) (pinKey fout true) (fun _ _ => true) s bdk kb u →
        pinLen fout ≤ x.resultCap → (dkcStep (runOf e env x) k bdk).run u = (.ok ak, w) → pinServes (runOf e env x) fout w →
        v = pinDrawn (runOf e env x) fout w → Lanes v → wk = workingKey k ak .pin →
        pf = pinOf fin (pinDecipher fin wk ((x.bytes 0x50 16).take (pinLen fin)) (panField fin pan)) →
        (∀ pin, pf = some pin → Ends (.dukptPinTranslate e env) s e x
          { result := pinBuild fout kb.val pin (pinBytes (runOf e env x) fout w) pan, high := some (k.mark bdk) } (lanesUsed true v))
        ∧ (pf = none → Refuses (.dukptPinTranslate e env) s e x stPinFormat (lanesUsed true v)))
    ∧ (∀ (s u w : State) (e : BitVec 17) (env : CmdEnv) (x : Entry) (a : Ref) (k : Ksn) (bdk : Key) (ak d wk : Bytes) (n : Nat),
        Ready s e env 0x0503 x → k = readKsn x → n = x.byte 0x4D →
        Formed x 0 [(offA, heldType), (offB, [0])]
          [(0x40, if k.tdes then 10 else 12), (0x4C, 1), (0x4D, 1), (0x4E, 1), (0x50, min n 16)] [a, .none] →
        ksnFieldOk x = true → 4 ≤ n → n ≤ (if k.tdes then 8 else 16) → x.byte 0x4E ≤ 1 → 1 ≤ d.length →
        d.length ≤ 65536 → FindsBdk (runOf e env x) k a s bdk u → (dkcStep (runOf e env x) k bdk).run u = (.ok ak, w) →
        Input w x env d → Lanes w → wk = workingKey k ak (if x.byte 0x4E = 0 then .macRequest else .macResponse) →
        ((isoMac (if k.tdes then 3 else 5) 1 wk d).take n = x.bytes 0x50 n →
          Ends (.dukptMacVerify e env) s e x { inline := 1, high := some (k.mark bdk) } (lanesUsed true w))
        ∧ ((isoMac (if k.tdes then 3 else 5) 1 wk d).take n ≠ x.bytes 0x50 n →
          Refuses (.dukptMacVerify e env) s e x stVerifyMismatch (lanesUsed true w)))
    ∧ (∀ (s u w : State) (e : BitVec 17) (env : CmdEnv) (x : Entry) (a b : Ref) (bdk kb : Key) (h : Header) (at' : Attr) (tag : KeyTag)
        (ik blk : Bytes) (n : Nat),
        Ready s e env 0x0504 x → Formed x 0 [(offA, heldType), (offB, anyType)] [(0x40, 8), (0x48, 1), (0x50, 16)] [a, b] →
        x.byte 0x48 = 0 → templateForm (x.bytes 0x50 16) = true → x.dataLen = 0 → readHeader (x.bytes 0x50 16) = some h →
        h.use = .b1 → h.alg = .a → h.mode = .x →
        FindsBoth (runOf e env x) a b (bdkOk false) (isKbpk true) (fun bdk kb => decide (bdk.val.length ≤ kb.val.length)) s bdk kb u →
        ik = dukptInitial false bdk.val (x.bytes 0x40 8) → at' = newAttr h bdk.val.length x.pitch.toNat →
        tag = { ik := x.bytes 0x40 8 } →
        writeBlock (u.drbgOut x.drbg 64) kb.val h.expo (byteAt (x.bytes 0x50 16) 14) at' tag ik = some (blk, n) → blk.length ≤ x.resultCap →
        (u.drbg x.drbg).state ≠ 2 → w = drbgRequest x.drbg n u → Lanes w →
        Ends (.dukptInitialKey e env) s e x { result := blk, inline := inlineOf (kcvDefault at' tag ik) } (lanesUsed true w)))
  ∧ (∀ (s : State) (w : Walker) (x : Entry), s.caches.walker0 = some w → s.entry w.entry = some x → x.walker = some 0 →
      (∃ t, exec (.dkcWalkerDone 0 none) s = .next t ∧ t.caches.walker0 = none ∧ t.caches.walker1 = s.caches.walker1
        ∧ t.entry w.entry = some { x with walker := none, anchor := some w.key } ∧ (∀ e, e ≠ w.entry → t.entry e = s.entry e)
        ∧ (w.gen ≠ (s.pitch w.pitch.toNat).gen → t.caches.dkc = s.caches.dkc)
        ∧ (∀ i, w.gen = (s.pitch w.pitch.toNat).gen → w.mode = 1 →
            s.dkcFind w.pitch.toNat w.tdes w.id w.binding = some i →
            t.dkcEntry w.pitch.toNat i = { s.dkcEntry w.pitch.toNat i with anchor := w.anchor, key := w.key, ref := true }))
      ∧ (∀ l, ∃ t, exec (.dkcWalkerDone 0 (some l)) s = .next t ∧ t.caches.walker0 = none ∧ t.caches.dkc = s.caches.dkc
        ∧ (∀ y, t.entry w.entry = some y → y.phase = .held ∧ y.decided = some stMemoryEcc)))

/-! ## Public-key, lattice and remote key commands -/

/-- R125, R245, R265 to R278: PK_SIGN signs the digest, as given or made, or the EdDSA message, and shows the value that the key's counter
spent; PK_VERIFY answers 1 for a signature that verifies, the status of a value out of range, else SIGNATURE_INVALID; PK_AGREE makes a key
of the shared secret and RSA_DECRYPT one of its ciphertext; PK_GENERATE gives a public key and the private key for its slot, and the failure
of a search for primes is HW_FAULT. -/
def Obligations.PublicKeyCommands : Prop :=
  (∀ (s u w y : State) (e : BitVec 17) (env : CmdEnv) (x : Entry) (a : Ref) (k : Key) (alg n : Nat) (d m rand : Bytes) (inl : BitVec 64),
      Ready s e env 0x0801 x → alg = x.byte 0x40 → Formed x 0 [(offA, heldType), (offB, [0])] sigFields [a, .none] →
      sigFieldsOk x = true → sigDataOk x x.dataLen = true → Finds (runOf e env x) a (sigKey alg false) s k u →
      n = sigLen alg (modulusLen k.attr) → n ≤ x.resultCap → ((runOf e env x).signChecked alg = true → TwoServe false u) →
      SignCount (runOf e env x) k u inl w → Input w x env d → m = sigInput x d → SignDraw 7 alg (sigExtra x d) w rand y →
      match pkSign alg (x.byte 0x41) (sigExtra x d) k.val m rand with
      | none => exec (.pkSign e env) s = .next (conclude e.toNat (decide (x.phase = .admitted)) stHwFault { inline := inl } 0 y)
      | some sig => Ends (.pkSign e env) s e x
          { result := sig, inline := inl, engine := 1, check := (runOf e env x).signChecked alg, long := longSign alg n,
            operand := k.val ++ m ++ sig, method := some ⟨alg, x.byte 0x41, sigExtra x d, k.val, m, sig⟩ } y)
  ∧ (∀ (s u : State) (e : BitVec 17) (env : CmdEnv) (x : Entry) (a : Ref) (k : Key) (alg sl : Nat) (m sig : Bytes) (ok : Bool),
      Ready s e env 0x0802 x → alg = x.byte 0x40 → sl = x.num 0x48 2 →
      Formed x 0 [(offA, anyType), (offB, [0])] (sigFields ++ [(0x48, 2)]) [a, .none] → sigFieldsOk x = true →
      sigDataOk x m.length = true → (isRsaSig alg = true ∨ sl = sigLen alg 0) →
      (isRsaSig alg = true → (checkModulus (runOf e env x) a sl).run s = (.ok (), s)) → Finds (runOf e env x) a (sigKey alg true) s k u →
      sig.length = sl → Input u x env (m ++ sig) →
      ok = pkVerify alg (x.byte 0x41) (sigExtra x m) k.val (sigInput x m) sig →
      match sigRange alg k.val sig with
      | some st => Refuses (.pkVerify e env) s e x st u
      | none => Ends (.pkVerify e env) s e x
          { status := if ok then 0 else stSignatureInvalid, inline := if ok then 1 else 0, engine := 1, long := longVerify alg,
            operand := k.val ++ sigInput x m ++ sig } u)
  ∧ (∀ (s u : State) (e : BitVec 17) (env : CmdEnv) (x : Entry) (a : Ref) (k : Key) (c : Nat) (h : Header) (pt ctx z v : Bytes)
      (at' : Attr),
      Ready s e env 0x0803 x → c = x.byte 0x40 →
      Formed x 1 [(offA, anyType), (offB, [0])] ([(0x40, 1), (0x41, 1), (0x42, 1), (0x50, 16)] ++ targetField x 0x44) [a, .none] →
      isEcdsa c = true → (x.byte 0x41 = 0x21 ∨ x.byte 0x41 = 0x22) → templateForm (x.bytes 0x50 16) = true →
      targetOk (runOf e env x) 0x44 = true → pt.length = 2 * curveLen c + 1 → ctx.length = x.byte 0x42 →
      symTemplate (x.bytes 0x50 16) (agreeLen (byteAt (x.bytes 0x50 16) 7)) = some h →
      Finds (runOf e env x) a (agreeKey c) s k u → Input u x env (pt ++ ctx) →
      at' = newAttr h (agreeLen (byteAt (x.bytes 0x50 16) 7)) x.pitch.toNat →
      (x.flag 8 = true → u.blockOwner (x.num 0x44 4 / 64) = some x.pitch.toNat ∧ slotsFree u (x.num 0x44 4) at' = true) →
      8 ≤ x.resultCap → z = (curve c).dh (beNat k.val) pt → v = agreeKdf (x.byte 0x41) z ctx at'.len →
      match pointCheck c pt with
      | some st => Refuses (.pkAgree e env) s e x st u
      | none => Ends (.pkAgree e env) s e x
          { inline := inlineOf (kcvDefault at' {} v), engine := 1, long := decide (c = 6), operand := k.val ++ pt ++ z,
            gen := some { slot := targetSlot (runOf e env x) 0x44, key := v, attrs := at'.pack, mac := v } } u)
  ∧ (∀ (s u : State) (e : BitVec 17) (env : CmdEnv) (x : Entry) (a : Ref) (k : Key) (n : Nat) (c lab : Bytes),
      Ready s e env 0x0804 x → Formed x 0 [(offA, anyType), (offB, [0])] [(0x40, 1), (0x41, 1), (0x42, 1), (0x44, 1), (0x50, 16)] [a, .none] →
      x.byte 0x40 = 0x22 → 1 ≤ x.byte 0x41 → x.byte 0x41 ≤ 6 → x.byte 0x42 = 1 → templateForm (x.bytes 0x50 16) = true →
      (checkModulus (runOf e env x) a n).run s = (.ok (), s) →
      Finds (runOf e env x) a (fun k => k.attr.use = .k2 && k.attr.mode = .d) s k u → n = modulusLen k.attr → c.length = n →
      lab.length = x.byte 0x44 → Input u x env (c ++ lab) → 8 ≤ x.resultCap → beNat c ≠ 0 → beNat c < privateModulus k.val n →
      match oaepDecrypt (x.byte 0x41) (8 * n) lab k.val c with
      | none => Refuses (.rsaDecrypt e env) s e x stKeyBlockAuth u
      | some v => match symTemplate (x.bytes 0x50 16) v.length with
        | none => Refuses (.rsaDecrypt e env) s e x stKeyUsage u
        | some h => Ends (.rsaDecrypt e env) s e x
            { inline := inlineOf (kcvDefault (newAttr h v.length x.pitch.toNat) {} v), engine := 1, long := decide (384 ≤ n),
              operand := k.val ++ (c ++ lab) ++ v,
              gen := some { key := v, attrs := (newAttr h v.length x.pitch.toNat).pack, mac := v } } u)
  ∧ (∀ (s u : State) (e : BitVec 17) (env : CmdEnv) (x : Entry) (alg bits ex len pl : Nat) (h : Header) (d : Drbg),
      Ready s e env 0x0805 x → x.captured = none → u = kept e.toNat [none] s →
      alg = x.byte 0x40 → bits = x.num 0x42 2 → ex = (if x.num 0x44 4 = 0 then 65537 else x.num 0x44 4) →
      Formed x 1 [(offA, [0]), (offB, 0 :: anyType)]
        ([(0x40, 1), (0x50, 16)] ++ (if isRsa alg then [(0x42, 2), (0x44, 4)] else []) ++ targetField x 0x48) [.none, .none] →
      (isEcdsa alg = true ∨ isEddsa alg = true
        ∨ isRsa alg = true ∧ 2048 ≤ bits ∧ bits ≤ 8192 ∧ bits % 1024 = 0 ∧ ex % 2 = 1 ∧ 65537 ≤ ex) →
      templateForm (x.bytes 0x50 16) = true → targetOk (runOf e env x) 0x48 = true → x.dataLen = 0 →
      genTemplate (x.bytes 0x50 16) alg bits = some h → len = genLen alg bits → pl = genPublicLen alg bits →
      (x.flag 8 = true → u.blockOwner (x.num 0x48 4 / 64) = some x.pitch.toNat
        ∧ slotsFree u (x.num 0x48 4) (newAttr h len x.pitch.toNat) = true) →
      8 + pl ≤ x.resultCap → TwoServe false u → (u.drbg 7).state ≠ 2 → d = (pkGenerate alg bits ex (u.drbg 7)).2 →
      match (pkGenerate alg bits ex (u.drbg 7)).1 with
      | none => Refuses (.pkGenerate e env) s e x stHwFault
          (tally 0x0504 (toLE 2 x.pitch.toNat ++ x.bytes 4 4 ++ toLE 2 bits) (drbgLimit 7 (u.updDrbg 7 fun _ => d)))
      | some k => Ends (.pkGenerate e env) s e x
          { result := pkPublic alg k, engine := 1, check := true, long := longGenerate alg, operand := k,
            gen := some { slot := targetSlot (runOf e env x) 0x48, key := k, attrs := (newAttr h len x.pitch.toNat).pack,
                          binding := .none, mac := k } } (drbgLimit 7 (u.updDrbg 7 fun _ => d)))

/-- R126, R174 to R177, R245, R266, R279, R282 to R285: KEM_ENCAPS and KEM_DECAPS make a shared key, PQ_SIGN a signature, HW_FAULT where its
bounds are passed, and PQ_VERIFY checks one; a key is sent to a recipient under a fresh secret, signed; a received message is checked in
its order (its recipient, its signature, its secret, its block), and its key taken. -/
def Obligations.LatticeAndRemoteCommands : Prop :=
  (∀ (s u : State) (e : BitVec 17) (env : CmdEnv) (x : Entry) (a : Ref) (k : Key) (h : Header) (m c z : Bytes), Ready s e env 0x0901 x →
      Formed x 1 [(offA, anyType), (offB, [0])] (kemFields x) [a, .none] → kemFieldsOk (runOf e env x) = true → x.dataLen = 0 →
      kemTemplate (x.bytes 0x50 16) = some h →
      Finds (runOf e env x) a (fun k => k.attr.use = .u92 && k.attr.mode = .e && k.attr.len = kemKeyLen (x.byte 0x40)) s k u →
      (x.flag 8 = true → u.blockOwner (x.num 0x44 4 / 64) = some x.pitch.toNat
        ∧ slotsFree u (x.num 0x44 4) (newAttr h 32 x.pitch.toNat) = true) →
      kemCtLen (x.byte 0x40) ≤ x.resultCap → (kemModulusOk k.val = false → Refuses (.kemEncaps e env) s e x stInputRange u)
      ∧ (kemModulusOk k.val = true → (u.drbg 8).state ≠ 2 → m = u.drbgOut 8 32 → kemEncaps (x.byte 0x40) k.val m = (c, z) →
        Ends (.kemEncaps e env) s e x
        { result := c, engine := 2, operand := k.val ++ m ++ z ++ c, gen := some (kemNew (runOf e env x) h z) } (drbgRequest 8 32 u)))
  ∧ (∀ (s u : State) (e : BitVec 17) (env : CmdEnv) (x : Entry) (a : Ref) (k : Key) (h : Header) (d z : Bytes), Ready s e env 0x0902 x →
      Formed x 1 [(offA, heldType), (offB, [0])] (kemFields x) [a, .none] → kemFieldsOk (runOf e env x) = true →
      d.length = kemCtLen (x.byte 0x40) → kemTemplate (x.bytes 0x50 16) = some h →
      Finds (runOf e env x) a (fun k => k.attr.use = .u92 && k.attr.mode = .d) s k u → Input u x env d →
      (x.flag 8 = true → u.blockOwner (x.num 0x44 4 / 64) = some x.pitch.toNat
        ∧ slotsFree u (x.num 0x44 4) (newAttr h 32 x.pitch.toNat) = true) → z = kemDecaps (x.byte 0x40) k.val d →
      Ends (.kemDecaps e env) s e x { engine := 2, operand := k.val ++ d ++ z, gen := some (kemNew (runOf e env x) h z) } u)
  ∧ (∀ (s u w y : State) (e : BitVec 17) (env : CmdEnv) (x : Entry) (a : Ref) (k : Key) (d ctx m rnd sig : Bytes) (inl : BitVec 64)
      (made : Option Bytes) (i : Nat),
      Ready s e env 0x0903 x → Formed x 0 [(offA, anyType), (offB, [0])] dsaFields [a, .none] → dsaFieldsOk x = true →
      dsaDataOk x d.length = true → Finds (runOf e env x) a (fun k => k.attr.use = .u93 && k.attr.mode = .s) s k u →
      dsaSigLen (x.byte 0x40) ≤ x.resultCap → TwoServe true u → SignCount (runOf e env x) k u inl w → Input w x env d →
      (x.byte 0x42 = 0 ∧ (w.drbg 8).state ≠ 2 ∧ rnd = w.drbgOut 8 32 ∧ y = drbgRequest 8 32 w ∨ x.byte 0x42 = 1 ∧ rnd = zeros 32 ∧ y = w) →
      ctx = d.take (x.byte 0x44) → m = d.drop (x.byte 0x44) →
      dsaRun (x.byte 0x40) (x.byte 0x41) ctx k.val m rnd = (made, i) → sig = made.getD [] →
      Ends (.pqSign e env) s e x
        { status := if made.isSome then 0 else stHwFault, result := sig, inline := inl, engine := 2, check := true,
          long := decide (1600000 < dsaCycles (x.byte 0x40) i), operand := k.val ++ m ++ sig,
          method := some ⟨0x30 + x.byte 0x40, x.byte 0x41, ctx, k.val, m, sig⟩ } y)
  ∧ (∀ (s u : State) (e : BitVec 17) (env : CmdEnv) (x : Entry) (a : Ref) (k : Key) (m sig : Bytes) (ok : Bool), Ready s e env 0x0904 x →
      Formed x 0 [(offA, anyType), (offB, [0])] (dsaFields ++ [(0x48, 2)]) [a, .none] → dsaFieldsOk x = true → x.byte 0x40 ≠ 3 →
      x.num 0x48 2 = dsaSigLen (x.byte 0x40) → sig.length = x.num 0x48 2 → dsaDataOk x m.length = true →
      Finds (runOf e env x) a (fun k => k.attr.use = .u93 && k.attr.mode = .v && k.attr.len = dsaKeyLen (x.byte 0x40)) s k u →
      Input u x env (m ++ sig) →
      ok = pkVerify (0x30 + x.byte 0x40) (x.byte 0x41) (m.take (x.byte 0x44)) k.val (m.drop (x.byte 0x44)) sig →
      Ends (.pqVerify e env) s e x
        { status := if ok then 0 else stSignatureInvalid, inline := if ok then 1 else 0, engine := 2, operand := k.val ++ m ++ sig } u)
  ∧ (∀ (s u v w y z' : State) (e : BitVec 17) (env : CmdEnv) (x : Entry) (profile : Nat) (refs : List Ref) (k rcpt signer : Key)
      (ec : Option Key) (code alg sl kl el n : Nat) (pt enc z head blk rand sig : Bytes) (inp : Nat × Bytes × Bytes), Ready s e env 0x0A02 x →
      profile = x.byte 0x40 →
      Formed x 0 ([(offA, anyType), (offB, anyType), (offC, anyType)] ++ if profile = 3 then [(offD, anyType)] else [])
        ([(0x40, 1), (0x48, 8)] ++ if profile = 3 then [(0x50, 8)] else []) refs → profileOk profile = true → x.dataLen = 0 →
      (capture (runOf e env x) (sendWants (runOf e env x) profile refs) (fun _ => true)).run s
        = (.ok ([some k, some rcpt, some signer] ++ (ec.map some).toList), u) →
      ec.isSome = decide (profile = 3) → pt = (if profile = 1 then [] else if profile = 2 then rcpt.val else (ec.map (·.val)).getD []) →
      transportSig signer.attr = some (code, alg, sl) → el = encLen profile rcpt.attr →
      kl = blockLength { k with val := zeros 32 } k.attr k.tag k.attr.len →
      (k.attr.expo ≠ 1 ∨ (u.pitch x.pitch.toNat).exportAuth.isSome = true) → 64 + el + kl + sl ≤ x.resultCap →
      ((decide (code = 2) || x.signCheck) = true → TwoServe (decide (code = 2)) u) →
      (profile = 3 → kemModulusOk rcpt.val = true) → (u.drbg x.drbg).state ≠ 2 →
      v = drbgRequest x.drbg 16 u → (encapsulate profile rcpt pt).run v = (.ok (enc, z), w) →
      head = transportHead profile code el kl sl (u.drbgOut x.drbg 16) (keyPrint (if profile = 3 then rcpt.val ++ pt else rcpt.val))
        (keyPrint (pkPublic alg signer.val)) ++ enc →
      writeBlock (w.drbgOut x.drbg 64) (transportKbpk z head) 0 (KeyTag.context k.tag) k.attr k.tag k.val = some (blk, n) →
      64 + el + sl + blk.length ≤ x.resultCap → (w.drbg x.drbg).state ≠ 2 → y = drbgRequest x.drbg n w →
      inp = transportInput code (head ++ blk) → SignDraw (if code = 2 then 8 else 7) alg inp.2.1 y rand z' →
      pkSign alg inp.1 inp.2.1 signer.val inp.2.2 rand = some sig →
      Ends (.remoteKeySend e env) s e x
        { result := head ++ blk ++ sig, operand := signer.val ++ inp.2.2 ++ sig,
          method := some ⟨alg, inp.1, inp.2.1, signer.val, inp.2.2, sig⟩, inline := inlineOf (kcvDefault k.attr k.tag k.val),
          engine := if code = 2 then 2 else 1, check := decide (code = 2) || x.signCheck, long := decide (code = 3) && longSign 0x21 sl }
        (countExport x.pitch.toNat k.attr z'))
  ∧ (∀ (s u : State) (e : BitVec 17) (env : CmdEnv) (x : Entry) (profile : Nat) (refs : List Ref) (k sender : Key) (ec : Option Key)
      (m : Bytes) (el kl : Nat), Ready s e env 0x0A01 x → profile = x.byte 0x40 →
      Formed x 1 ([(offA, anyType), (offB, anyType)] ++ if profile = 3 then [(offC, anyType)] else [])
        ([(0x40, 1)] ++ (if profile = 3 then [(0x48, 8)] else []) ++ targetField x 0x44) refs →
      profileOk profile = true → targetOk (runOf e env x) 0x44 = true → 64 ≤ m.length → m.length ≤ 8192 →
      (capture (runOf e env x) (receiveWants (runOf e env x) profile refs) (fun _ => true)).run s
        = (.ok ([some k, some sender] ++ (ec.map some).toList), u) → ec.isSome = decide (profile = 3) → Input u x env m →
      (x.flag 8 = true → u.blockOwner (x.num 0x44 4 / 64) = some x.pitch.toNat ∧ slotEmpty u (x.num 0x44 4) = true) →
      8 ≤ x.resultCap → el = fieldLE m 4 2 → kl = fieldLE m 6 2 → m.length = 64 + el + kl + fieldLE m 8 2 →
      el = encLen profile k.attr → byteAt m 0 = 1 → (byteAt m 1).toNat = profile → byteAt m 3 = 0 →
      allZero (slice m 0x0A 6) = true →
      if slice m 0x20 16 = keyPrint (recipientEncoding profile k ec) then
        if transportVerified m sender el kl then
          match receiverZ profile k ec (slice m 64 el) with
          | .inl st => Refuses (.remoteKeyReceive e env) s e x st u
          | .inr z => match (parseBlock (slice m (64 + el) kl)).bind (verifyBlock (transportKbpk z (m.take (64 + el)))) with
            | none => Refuses (.remoteKeyReceive e env) s e x stKeyBlockAuth u
            | some (v, a, tag) =>
              if rowOk a.use a.alg a.mode && lenOk a.use a.alg a.mode a.len && a.world.testBit (runOf e env x).world
                  && (a.ctrKind = 0 || x.flag 8) then
                if x.flag 8 && !slotsFree u (x.num 0x44 4) { a with owner := x.pitch.toNat } then
                  Refuses (.remoteKeyReceive e env) s e x stBadField u
                else Ends (.remoteKeyReceive e env) s e x
                  { inline := inlineOf (kcvDefault { a with owner := x.pitch.toNat } tag v), engine := if profile = 3 then 2 else 1,
                    long := decide (profile = 1) && decide (384 ≤ el), operand := k.val ++ slice m 64 el ++ z,
                    gen := some { slot := targetSlot (runOf e env x) 0x44, key := v,
                                  attrs := ({ a with owner := x.pitch.toNat } : Attr).pack, tag := tag,
                                  mac := writtenMac (slice m (64 + el) kl) } } u
              else Refuses (.remoteKeyReceive e env) s e x stKeyUsage u
        else Refuses (.remoteKeyReceive e env) s e x stSignatureInvalid u
      else Refuses (.remoteKeyReceive e env) s e x stBadField u)
end

