-- ==== Sys2Proof/Laws/State.lean ====
section
/-! SUPPORT. What each update of the state leaves as it was: one lemma per field and update, so that no proof unfolds an update. -/

namespace Sys2Proof.Machine

variable (s : State)

@[simp] theorem updPitch_pending (p : Nat) (f : Pitch → Pitch) : (s.updPitch p f).pending = s.pending := rfl
@[simp] theorem updPitch_clk (p : Nat) (f : Pitch → Pitch) : (s.updPitch p f).clk = s.clk := rfl
@[simp] theorem updPitch_rng (p : Nat) (f : Pitch → Pitch) : (s.updPitch p f).rng = s.rng := rfl
@[simp] theorem updPitch_csn (p : Nat) (f : Pitch → Pitch) : (s.updPitch p f).csn = s.csn := rfl
@[simp] theorem updPitch_out (p : Nat) (f : Pitch → Pitch) : (s.updPitch p f).out = s.out := rfl
@[simp] theorem updPitch_imem (p : Nat) (f : Pitch → Pitch) : (s.updPitch p f).imem = s.imem := rfl
@[simp] theorem updPitch_rwi (p : Nat) (f : Pitch → Pitch) : (s.updPitch p f).rwi = s.rwi := rfl
@[simp] theorem updPitch_rqe (p : Nat) (f : Pitch → Pitch) : (s.updPitch p f).rqe = s.rqe := rfl
@[simp] theorem updPitch_sch (p : Nat) (f : Pitch → Pitch) : (s.updPitch p f).sch = s.sch := rfl
@[simp] theorem updPitch_cmc (p : Nat) (f : Pitch → Pitch) : (s.updPitch p f).cmc = s.cmc := rfl
@[simp] theorem updPitch_sel (p : Nat) (f : Pitch → Pitch) : (s.updPitch p f).sel = s.sel := rfl
@[simp] theorem updPitch_dma (p : Nat) (f : Pitch → Pitch) : (s.updPitch p f).dma = s.dma := rfl
@[simp] theorem updPitch_mbx (p : Nat) (f : Pitch → Pitch) : (s.updPitch p f).mbx = s.mbx := rfl
@[simp] theorem updPitch_mbxErr (p : Nat) (f : Pitch → Pitch) : (s.updPitch p f).mbxErr = s.mbxErr := rfl
@[simp] theorem updPitch_mpu (p : Nat) (f : Pitch → Pitch) : (s.updPitch p f).mpu = s.mpu := rfl
@[simp] theorem updPitch_caches (p : Nat) (f : Pitch → Pitch) : (s.updPitch p f).caches = s.caches := rfl
@[simp] theorem updPitch_units (p : Nat) (f : Pitch → Pitch) : (s.updPitch p f).units = s.units := rfl
@[simp] theorem updPitch_kst (p : Nat) (f : Pitch → Pitch) : (s.updPitch p f).kst = s.kst := rfl
@[simp] theorem updPitch_tmp (p : Nat) (f : Pitch → Pitch) : (s.updPitch p f).tmp = s.tmp := rfl
@[simp] theorem updPitch_bat (p : Nat) (f : Pitch → Pitch) : (s.updPitch p f).bat = s.bat := rfl
@[simp] theorem updPitch_lcs (p : Nat) (f : Pitch → Pitch) : (s.updPitch p f).lcs = s.lcs := rfl
@[simp] theorem updPitch_own (p : Nat) (f : Pitch → Pitch) : (s.updPitch p f).own = s.own := rfl
@[simp] theorem updPitch_par (p : Nat) (f : Pitch → Pitch) : (s.updPitch p f).par = s.par := rfl
@[simp] theorem updPitch_glb (p : Nat) (f : Pitch → Pitch) : (s.updPitch p f).glb = s.glb := rfl
@[simp] theorem updPitch_pwr (p : Nat) (f : Pitch → Pitch) : (s.updPitch p f).pwr = s.pwr := rfl
@[simp] theorem updPitch_bst (p : Nat) (f : Pitch → Pitch) : (s.updPitch p f).bst = s.bst := rfl
@[simp] theorem updPitch_tly (p : Nat) (f : Pitch → Pitch) : (s.updPitch p f).tly = s.tly := rfl
@[simp] theorem updPitch_evc (p : Nat) (f : Pitch → Pitch) : (s.updPitch p f).evc = s.evc := rfl

@[simp] theorem updPitSel_pending (w : Who) (f : PitSel → PitSel) : (s.updPitSel w f).pending = s.pending := rfl
@[simp] theorem updPitSel_clk (w : Who) (f : PitSel → PitSel) : (s.updPitSel w f).clk = s.clk := rfl
@[simp] theorem updPitSel_rng (w : Who) (f : PitSel → PitSel) : (s.updPitSel w f).rng = s.rng := rfl
@[simp] theorem updPitSel_csn (w : Who) (f : PitSel → PitSel) : (s.updPitSel w f).csn = s.csn := rfl
@[simp] theorem updPitSel_out (w : Who) (f : PitSel → PitSel) : (s.updPitSel w f).out = s.out := rfl
@[simp] theorem updPitSel_imem (w : Who) (f : PitSel → PitSel) : (s.updPitSel w f).imem = s.imem := rfl
@[simp] theorem updPitSel_rwi (w : Who) (f : PitSel → PitSel) : (s.updPitSel w f).rwi = s.rwi := rfl
@[simp] theorem updPitSel_rqe (w : Who) (f : PitSel → PitSel) : (s.updPitSel w f).rqe = s.rqe := rfl
@[simp] theorem updPitSel_sch (w : Who) (f : PitSel → PitSel) : (s.updPitSel w f).sch = s.sch := rfl
@[simp] theorem updPitSel_cmc (w : Who) (f : PitSel → PitSel) : (s.updPitSel w f).cmc = s.cmc := rfl
@[simp] theorem updPitSel_sel (w : Who) (f : PitSel → PitSel) : (s.updPitSel w f).sel = s.sel := rfl
@[simp] theorem updPitSel_dma (w : Who) (f : PitSel → PitSel) : (s.updPitSel w f).dma = s.dma := rfl
@[simp] theorem updPitSel_mbx (w : Who) (f : PitSel → PitSel) : (s.updPitSel w f).mbx = s.mbx := rfl
@[simp] theorem updPitSel_mbxErr (w : Who) (f : PitSel → PitSel) : (s.updPitSel w f).mbxErr = s.mbxErr := rfl
@[simp] theorem updPitSel_mpu (w : Who) (f : PitSel → PitSel) : (s.updPitSel w f).mpu = s.mpu := rfl
@[simp] theorem updPitSel_caches (w : Who) (f : PitSel → PitSel) : (s.updPitSel w f).caches = s.caches := rfl
@[simp] theorem updPitSel_units (w : Who) (f : PitSel → PitSel) : (s.updPitSel w f).units = s.units := rfl
@[simp] theorem updPitSel_kst (w : Who) (f : PitSel → PitSel) : (s.updPitSel w f).kst = s.kst := rfl
@[simp] theorem updPitSel_tmp (w : Who) (f : PitSel → PitSel) : (s.updPitSel w f).tmp = s.tmp := rfl
@[simp] theorem updPitSel_bat (w : Who) (f : PitSel → PitSel) : (s.updPitSel w f).bat = s.bat := rfl
@[simp] theorem updPitSel_lcs (w : Who) (f : PitSel → PitSel) : (s.updPitSel w f).lcs = s.lcs := rfl
@[simp] theorem updPitSel_own (w : Who) (f : PitSel → PitSel) : (s.updPitSel w f).own = s.own := rfl
@[simp] theorem updPitSel_par (w : Who) (f : PitSel → PitSel) : (s.updPitSel w f).par = s.par := rfl
@[simp] theorem updPitSel_glb (w : Who) (f : PitSel → PitSel) : (s.updPitSel w f).glb = s.glb := rfl
@[simp] theorem updPitSel_pwr (w : Who) (f : PitSel → PitSel) : (s.updPitSel w f).pwr = s.pwr := rfl
@[simp] theorem updPitSel_bst (w : Who) (f : PitSel → PitSel) : (s.updPitSel w f).bst = s.bst := rfl
@[simp] theorem updPitSel_tly (w : Who) (f : PitSel → PitSel) : (s.updPitSel w f).tly = s.tly := rfl
@[simp] theorem updPitSel_evc (w : Who) (f : PitSel → PitSel) : (s.updPitSel w f).evc = s.evc := rfl

@[simp] theorem updSq_pending (p i : Nat) (f : Sq → Sq) : (s.updSq p i f).pending = s.pending := rfl
@[simp] theorem updSq_clk (p i : Nat) (f : Sq → Sq) : (s.updSq p i f).clk = s.clk := rfl
@[simp] theorem updSq_rng (p i : Nat) (f : Sq → Sq) : (s.updSq p i f).rng = s.rng := rfl
@[simp] theorem updSq_csn (p i : Nat) (f : Sq → Sq) : (s.updSq p i f).csn = s.csn := rfl
@[simp] theorem updSq_out (p i : Nat) (f : Sq → Sq) : (s.updSq p i f).out = s.out := rfl
@[simp] theorem updSq_imem (p i : Nat) (f : Sq → Sq) : (s.updSq p i f).imem = s.imem := rfl
@[simp] theorem updSq_rwi (p i : Nat) (f : Sq → Sq) : (s.updSq p i f).rwi = s.rwi := rfl
@[simp] theorem updSq_pit (p i : Nat) (f : Sq → Sq) : (s.updSq p i f).pit = s.pit := rfl
@[simp] theorem updSq_sch (p i : Nat) (f : Sq → Sq) : (s.updSq p i f).sch = s.sch := rfl
@[simp] theorem updSq_cmc (p i : Nat) (f : Sq → Sq) : (s.updSq p i f).cmc = s.cmc := rfl
@[simp] theorem updSq_sel (p i : Nat) (f : Sq → Sq) : (s.updSq p i f).sel = s.sel := rfl
@[simp] theorem updSq_dma (p i : Nat) (f : Sq → Sq) : (s.updSq p i f).dma = s.dma := rfl
@[simp] theorem updSq_mbx (p i : Nat) (f : Sq → Sq) : (s.updSq p i f).mbx = s.mbx := rfl
@[simp] theorem updSq_mbxErr (p i : Nat) (f : Sq → Sq) : (s.updSq p i f).mbxErr = s.mbxErr := rfl
@[simp] theorem updSq_mpu (p i : Nat) (f : Sq → Sq) : (s.updSq p i f).mpu = s.mpu := rfl
@[simp] theorem updSq_caches (p i : Nat) (f : Sq → Sq) : (s.updSq p i f).caches = s.caches := rfl
@[simp] theorem updSq_units (p i : Nat) (f : Sq → Sq) : (s.updSq p i f).units = s.units := rfl
@[simp] theorem updSq_kst (p i : Nat) (f : Sq → Sq) : (s.updSq p i f).kst = s.kst := rfl
@[simp] theorem updSq_tmp (p i : Nat) (f : Sq → Sq) : (s.updSq p i f).tmp = s.tmp := rfl
@[simp] theorem updSq_bat (p i : Nat) (f : Sq → Sq) : (s.updSq p i f).bat = s.bat := rfl
@[simp] theorem updSq_lcs (p i : Nat) (f : Sq → Sq) : (s.updSq p i f).lcs = s.lcs := rfl
@[simp] theorem updSq_own (p i : Nat) (f : Sq → Sq) : (s.updSq p i f).own = s.own := rfl
@[simp] theorem updSq_par (p i : Nat) (f : Sq → Sq) : (s.updSq p i f).par = s.par := rfl
@[simp] theorem updSq_glb (p i : Nat) (f : Sq → Sq) : (s.updSq p i f).glb = s.glb := rfl
@[simp] theorem updSq_pwr (p i : Nat) (f : Sq → Sq) : (s.updSq p i f).pwr = s.pwr := rfl
@[simp] theorem updSq_bst (p i : Nat) (f : Sq → Sq) : (s.updSq p i f).bst = s.bst := rfl
@[simp] theorem updSq_tly (p i : Nat) (f : Sq → Sq) : (s.updSq p i f).tly = s.tly := rfl
@[simp] theorem updSq_evc (p i : Nat) (f : Sq → Sq) : (s.updSq p i f).evc = s.evc := rfl

@[simp] theorem updCq_pending (p : Nat) (f : Cq → Cq) : (s.updCq p f).pending = s.pending := rfl
@[simp] theorem updCq_clk (p : Nat) (f : Cq → Cq) : (s.updCq p f).clk = s.clk := rfl
@[simp] theorem updCq_rng (p : Nat) (f : Cq → Cq) : (s.updCq p f).rng = s.rng := rfl
@[simp] theorem updCq_csn (p : Nat) (f : Cq → Cq) : (s.updCq p f).csn = s.csn := rfl
@[simp] theorem updCq_out (p : Nat) (f : Cq → Cq) : (s.updCq p f).out = s.out := rfl
@[simp] theorem updCq_imem (p : Nat) (f : Cq → Cq) : (s.updCq p f).imem = s.imem := rfl
@[simp] theorem updCq_rwi (p : Nat) (f : Cq → Cq) : (s.updCq p f).rwi = s.rwi := rfl
@[simp] theorem updCq_pit (p : Nat) (f : Cq → Cq) : (s.updCq p f).pit = s.pit := rfl
@[simp] theorem updCq_sch (p : Nat) (f : Cq → Cq) : (s.updCq p f).sch = s.sch := rfl
@[simp] theorem updCq_cmc (p : Nat) (f : Cq → Cq) : (s.updCq p f).cmc = s.cmc := rfl
@[simp] theorem updCq_sel (p : Nat) (f : Cq → Cq) : (s.updCq p f).sel = s.sel := rfl
@[simp] theorem updCq_dma (p : Nat) (f : Cq → Cq) : (s.updCq p f).dma = s.dma := rfl
@[simp] theorem updCq_mbx (p : Nat) (f : Cq → Cq) : (s.updCq p f).mbx = s.mbx := rfl
@[simp] theorem updCq_mbxErr (p : Nat) (f : Cq → Cq) : (s.updCq p f).mbxErr = s.mbxErr := rfl
@[simp] theorem updCq_mpu (p : Nat) (f : Cq → Cq) : (s.updCq p f).mpu = s.mpu := rfl
@[simp] theorem updCq_caches (p : Nat) (f : Cq → Cq) : (s.updCq p f).caches = s.caches := rfl
@[simp] theorem updCq_units (p : Nat) (f : Cq → Cq) : (s.updCq p f).units = s.units := rfl
@[simp] theorem updCq_kst (p : Nat) (f : Cq → Cq) : (s.updCq p f).kst = s.kst := rfl
@[simp] theorem updCq_tmp (p : Nat) (f : Cq → Cq) : (s.updCq p f).tmp = s.tmp := rfl
@[simp] theorem updCq_bat (p : Nat) (f : Cq → Cq) : (s.updCq p f).bat = s.bat := rfl
@[simp] theorem updCq_lcs (p : Nat) (f : Cq → Cq) : (s.updCq p f).lcs = s.lcs := rfl
@[simp] theorem updCq_own (p : Nat) (f : Cq → Cq) : (s.updCq p f).own = s.own := rfl
@[simp] theorem updCq_par (p : Nat) (f : Cq → Cq) : (s.updCq p f).par = s.par := rfl
@[simp] theorem updCq_glb (p : Nat) (f : Cq → Cq) : (s.updCq p f).glb = s.glb := rfl
@[simp] theorem updCq_pwr (p : Nat) (f : Cq → Cq) : (s.updCq p f).pwr = s.pwr := rfl
@[simp] theorem updCq_bst (p : Nat) (f : Cq → Cq) : (s.updCq p f).bst = s.bst := rfl
@[simp] theorem updCq_tly (p : Nat) (f : Cq → Cq) : (s.updCq p f).tly = s.tly := rfl
@[simp] theorem updCq_evc (p : Nat) (f : Cq → Cq) : (s.updCq p f).evc = s.evc := rfl

@[simp] theorem updFn_pending (port : Port) (fn : BitVec 7) (f : Fn → Fn) : (s.updFn port fn f).pending = s.pending := rfl
@[simp] theorem updFn_clk (port : Port) (fn : BitVec 7) (f : Fn → Fn) : (s.updFn port fn f).clk = s.clk := rfl
@[simp] theorem updFn_rng (port : Port) (fn : BitVec 7) (f : Fn → Fn) : (s.updFn port fn f).rng = s.rng := rfl
@[simp] theorem updFn_csn (port : Port) (fn : BitVec 7) (f : Fn → Fn) : (s.updFn port fn f).csn = s.csn := rfl
@[simp] theorem updFn_out (port : Port) (fn : BitVec 7) (f : Fn → Fn) : (s.updFn port fn f).out = s.out := rfl
@[simp] theorem updFn_imem (port : Port) (fn : BitVec 7) (f : Fn → Fn) : (s.updFn port fn f).imem = s.imem := rfl
@[simp] theorem updFn_rwi (port : Port) (fn : BitVec 7) (f : Fn → Fn) : (s.updFn port fn f).rwi = s.rwi := rfl
@[simp] theorem updFn_pit (port : Port) (fn : BitVec 7) (f : Fn → Fn) : (s.updFn port fn f).pit = s.pit := rfl
@[simp] theorem updFn_sch (port : Port) (fn : BitVec 7) (f : Fn → Fn) : (s.updFn port fn f).sch = s.sch := rfl
@[simp] theorem updFn_cmc (port : Port) (fn : BitVec 7) (f : Fn → Fn) : (s.updFn port fn f).cmc = s.cmc := rfl
@[simp] theorem updFn_sel (port : Port) (fn : BitVec 7) (f : Fn → Fn) : (s.updFn port fn f).sel = s.sel := rfl
@[simp] theorem updFn_dma (port : Port) (fn : BitVec 7) (f : Fn → Fn) : (s.updFn port fn f).dma = s.dma := rfl
@[simp] theorem updFn_mbx (port : Port) (fn : BitVec 7) (f : Fn → Fn) : (s.updFn port fn f).mbx = s.mbx := rfl
@[simp] theorem updFn_mbxErr (port : Port) (fn : BitVec 7) (f : Fn → Fn) : (s.updFn port fn f).mbxErr = s.mbxErr := rfl
@[simp] theorem updFn_mpu (port : Port) (fn : BitVec 7) (f : Fn → Fn) : (s.updFn port fn f).mpu = s.mpu := rfl
@[simp] theorem updFn_caches (port : Port) (fn : BitVec 7) (f : Fn → Fn) : (s.updFn port fn f).caches = s.caches := rfl
@[simp] theorem updFn_units (port : Port) (fn : BitVec 7) (f : Fn → Fn) : (s.updFn port fn f).units = s.units := rfl
@[simp] theorem updFn_kst (port : Port) (fn : BitVec 7) (f : Fn → Fn) : (s.updFn port fn f).kst = s.kst := rfl
@[simp] theorem updFn_tmp (port : Port) (fn : BitVec 7) (f : Fn → Fn) : (s.updFn port fn f).tmp = s.tmp := rfl
@[simp] theorem updFn_bat (port : Port) (fn : BitVec 7) (f : Fn → Fn) : (s.updFn port fn f).bat = s.bat := rfl
@[simp] theorem updFn_lcs (port : Port) (fn : BitVec 7) (f : Fn → Fn) : (s.updFn port fn f).lcs = s.lcs := rfl
@[simp] theorem updFn_own (port : Port) (fn : BitVec 7) (f : Fn → Fn) : (s.updFn port fn f).own = s.own := rfl
@[simp] theorem updFn_par (port : Port) (fn : BitVec 7) (f : Fn → Fn) : (s.updFn port fn f).par = s.par := rfl
@[simp] theorem updFn_glb (port : Port) (fn : BitVec 7) (f : Fn → Fn) : (s.updFn port fn f).glb = s.glb := rfl
@[simp] theorem updFn_pwr (port : Port) (fn : BitVec 7) (f : Fn → Fn) : (s.updFn port fn f).pwr = s.pwr := rfl
@[simp] theorem updFn_bst (port : Port) (fn : BitVec 7) (f : Fn → Fn) : (s.updFn port fn f).bst = s.bst := rfl
@[simp] theorem updFn_tly (port : Port) (fn : BitVec 7) (f : Fn → Fn) : (s.updFn port fn f).tly = s.tly := rfl
@[simp] theorem updFn_evc (port : Port) (fn : BitVec 7) (f : Fn → Fn) : (s.updFn port fn f).evc = s.evc := rfl

@[simp] theorem updPort_pending (port : Port) (f : PortState → PortState) : (s.updPort port f).pending = s.pending := by cases port <;> rfl
@[simp] theorem updPort_clk (port : Port) (f : PortState → PortState) : (s.updPort port f).clk = s.clk := by cases port <;> rfl
@[simp] theorem updPort_rng (port : Port) (f : PortState → PortState) : (s.updPort port f).rng = s.rng := by cases port <;> rfl
@[simp] theorem updPort_csn (port : Port) (f : PortState → PortState) : (s.updPort port f).csn = s.csn := by cases port <;> rfl
@[simp] theorem updPort_out (port : Port) (f : PortState → PortState) : (s.updPort port f).out = s.out := by cases port <;> rfl
@[simp] theorem updPort_imem (port : Port) (f : PortState → PortState) : (s.updPort port f).imem = s.imem := by cases port <;> rfl
@[simp] theorem updPort_rwi (port : Port) (f : PortState → PortState) : (s.updPort port f).rwi = s.rwi := by cases port <;> rfl
@[simp] theorem updPort_pit (port : Port) (f : PortState → PortState) : (s.updPort port f).pit = s.pit := by cases port <;> rfl
@[simp] theorem updPort_sch (port : Port) (f : PortState → PortState) : (s.updPort port f).sch = s.sch := by cases port <;> rfl
@[simp] theorem updPort_cmc (port : Port) (f : PortState → PortState) : (s.updPort port f).cmc = s.cmc := by cases port <;> rfl
@[simp] theorem updPort_sel (port : Port) (f : PortState → PortState) : (s.updPort port f).sel = s.sel := by cases port <;> rfl
@[simp] theorem updPort_dma (port : Port) (f : PortState → PortState) : (s.updPort port f).dma = s.dma := by cases port <;> rfl
@[simp] theorem updPort_mbx (port : Port) (f : PortState → PortState) : (s.updPort port f).mbx = s.mbx := by cases port <;> rfl
@[simp] theorem updPort_mbxErr (port : Port) (f : PortState → PortState) : (s.updPort port f).mbxErr = s.mbxErr := by cases port <;> rfl
@[simp] theorem updPort_mpu (port : Port) (f : PortState → PortState) : (s.updPort port f).mpu = s.mpu := by cases port <;> rfl
@[simp] theorem updPort_caches (port : Port) (f : PortState → PortState) : (s.updPort port f).caches = s.caches := by cases port <;> rfl
@[simp] theorem updPort_units (port : Port) (f : PortState → PortState) : (s.updPort port f).units = s.units := by cases port <;> rfl
@[simp] theorem updPort_kst (port : Port) (f : PortState → PortState) : (s.updPort port f).kst = s.kst := by cases port <;> rfl
@[simp] theorem updPort_tmp (port : Port) (f : PortState → PortState) : (s.updPort port f).tmp = s.tmp := by cases port <;> rfl
@[simp] theorem updPort_bat (port : Port) (f : PortState → PortState) : (s.updPort port f).bat = s.bat := by cases port <;> rfl
@[simp] theorem updPort_lcs (port : Port) (f : PortState → PortState) : (s.updPort port f).lcs = s.lcs := by cases port <;> rfl
@[simp] theorem updPort_own (port : Port) (f : PortState → PortState) : (s.updPort port f).own = s.own := by cases port <;> rfl
@[simp] theorem updPort_par (port : Port) (f : PortState → PortState) : (s.updPort port f).par = s.par := by cases port <;> rfl
@[simp] theorem updPort_glb (port : Port) (f : PortState → PortState) : (s.updPort port f).glb = s.glb := by cases port <;> rfl
@[simp] theorem updPort_pwr (port : Port) (f : PortState → PortState) : (s.updPort port f).pwr = s.pwr := by cases port <;> rfl
@[simp] theorem updPort_bst (port : Port) (f : PortState → PortState) : (s.updPort port f).bst = s.bst := by cases port <;> rfl
@[simp] theorem updPort_tly (port : Port) (f : PortState → PortState) : (s.updPort port f).tly = s.tly := by cases port <;> rfl
@[simp] theorem updPort_evc (port : Port) (f : PortState → PortState) : (s.updPort port f).evc = s.evc := by cases port <;> rfl

@[simp] theorem updRqeSel_pending (w : Who) (f : RqeSel → RqeSel) : (s.updRqeSel w f).pending = s.pending := rfl
@[simp] theorem updRqeSel_clk (w : Who) (f : RqeSel → RqeSel) : (s.updRqeSel w f).clk = s.clk := rfl
@[simp] theorem updRqeSel_rng (w : Who) (f : RqeSel → RqeSel) : (s.updRqeSel w f).rng = s.rng := rfl
@[simp] theorem updRqeSel_csn (w : Who) (f : RqeSel → RqeSel) : (s.updRqeSel w f).csn = s.csn := rfl
@[simp] theorem updRqeSel_out (w : Who) (f : RqeSel → RqeSel) : (s.updRqeSel w f).out = s.out := rfl
@[simp] theorem updRqeSel_imem (w : Who) (f : RqeSel → RqeSel) : (s.updRqeSel w f).imem = s.imem := rfl
@[simp] theorem updRqeSel_rwi (w : Who) (f : RqeSel → RqeSel) : (s.updRqeSel w f).rwi = s.rwi := rfl
@[simp] theorem updRqeSel_pit (w : Who) (f : RqeSel → RqeSel) : (s.updRqeSel w f).pit = s.pit := rfl
@[simp] theorem updRqeSel_sch (w : Who) (f : RqeSel → RqeSel) : (s.updRqeSel w f).sch = s.sch := rfl
@[simp] theorem updRqeSel_cmc (w : Who) (f : RqeSel → RqeSel) : (s.updRqeSel w f).cmc = s.cmc := rfl
@[simp] theorem updRqeSel_sel (w : Who) (f : RqeSel → RqeSel) : (s.updRqeSel w f).sel = s.sel := rfl
@[simp] theorem updRqeSel_dma (w : Who) (f : RqeSel → RqeSel) : (s.updRqeSel w f).dma = s.dma := rfl
@[simp] theorem updRqeSel_mbx (w : Who) (f : RqeSel → RqeSel) : (s.updRqeSel w f).mbx = s.mbx := rfl
@[simp] theorem updRqeSel_mbxErr (w : Who) (f : RqeSel → RqeSel) : (s.updRqeSel w f).mbxErr = s.mbxErr := rfl
@[simp] theorem updRqeSel_mpu (w : Who) (f : RqeSel → RqeSel) : (s.updRqeSel w f).mpu = s.mpu := rfl
@[simp] theorem updRqeSel_caches (w : Who) (f : RqeSel → RqeSel) : (s.updRqeSel w f).caches = s.caches := rfl
@[simp] theorem updRqeSel_units (w : Who) (f : RqeSel → RqeSel) : (s.updRqeSel w f).units = s.units := rfl
@[simp] theorem updRqeSel_kst (w : Who) (f : RqeSel → RqeSel) : (s.updRqeSel w f).kst = s.kst := rfl
@[simp] theorem updRqeSel_tmp (w : Who) (f : RqeSel → RqeSel) : (s.updRqeSel w f).tmp = s.tmp := rfl
@[simp] theorem updRqeSel_bat (w : Who) (f : RqeSel → RqeSel) : (s.updRqeSel w f).bat = s.bat := rfl
@[simp] theorem updRqeSel_lcs (w : Who) (f : RqeSel → RqeSel) : (s.updRqeSel w f).lcs = s.lcs := rfl
@[simp] theorem updRqeSel_own (w : Who) (f : RqeSel → RqeSel) : (s.updRqeSel w f).own = s.own := rfl
@[simp] theorem updRqeSel_par (w : Who) (f : RqeSel → RqeSel) : (s.updRqeSel w f).par = s.par := rfl
@[simp] theorem updRqeSel_glb (w : Who) (f : RqeSel → RqeSel) : (s.updRqeSel w f).glb = s.glb := rfl
@[simp] theorem updRqeSel_pwr (w : Who) (f : RqeSel → RqeSel) : (s.updRqeSel w f).pwr = s.pwr := rfl
@[simp] theorem updRqeSel_bst (w : Who) (f : RqeSel → RqeSel) : (s.updRqeSel w f).bst = s.bst := rfl
@[simp] theorem updRqeSel_tly (w : Who) (f : RqeSel → RqeSel) : (s.updRqeSel w f).tly = s.tly := rfl
@[simp] theorem updRqeSel_evc (w : Who) (f : RqeSel → RqeSel) : (s.updRqeSel w f).evc = s.evc := rfl

@[simp] theorem setEntry_pending (e : Nat) (v : Option Entry) : (s.setEntry e v).pending = s.pending := rfl
@[simp] theorem setEntry_clk (e : Nat) (v : Option Entry) : (s.setEntry e v).clk = s.clk := rfl
@[simp] theorem setEntry_rng (e : Nat) (v : Option Entry) : (s.setEntry e v).rng = s.rng := rfl
@[simp] theorem setEntry_csn (e : Nat) (v : Option Entry) : (s.setEntry e v).csn = s.csn := rfl
@[simp] theorem setEntry_out (e : Nat) (v : Option Entry) : (s.setEntry e v).out = s.out := rfl
@[simp] theorem setEntry_imem (e : Nat) (v : Option Entry) : (s.setEntry e v).imem = s.imem := rfl
@[simp] theorem setEntry_rwi (e : Nat) (v : Option Entry) : (s.setEntry e v).rwi = s.rwi := rfl
@[simp] theorem setEntry_pit (e : Nat) (v : Option Entry) : (s.setEntry e v).pit = s.pit := rfl
@[simp] theorem setEntry_rqe (e : Nat) (v : Option Entry) : (s.setEntry e v).rqe = s.rqe := rfl
@[simp] theorem setEntry_cmc (e : Nat) (v : Option Entry) : (s.setEntry e v).cmc = s.cmc := rfl
@[simp] theorem setEntry_sel (e : Nat) (v : Option Entry) : (s.setEntry e v).sel = s.sel := rfl
@[simp] theorem setEntry_dma (e : Nat) (v : Option Entry) : (s.setEntry e v).dma = s.dma := rfl
@[simp] theorem setEntry_mbx (e : Nat) (v : Option Entry) : (s.setEntry e v).mbx = s.mbx := rfl
@[simp] theorem setEntry_mbxErr (e : Nat) (v : Option Entry) : (s.setEntry e v).mbxErr = s.mbxErr := rfl
@[simp] theorem setEntry_mpu (e : Nat) (v : Option Entry) : (s.setEntry e v).mpu = s.mpu := rfl
@[simp] theorem setEntry_caches (e : Nat) (v : Option Entry) : (s.setEntry e v).caches = s.caches := rfl
@[simp] theorem setEntry_units (e : Nat) (v : Option Entry) : (s.setEntry e v).units = s.units := rfl
@[simp] theorem setEntry_kst (e : Nat) (v : Option Entry) : (s.setEntry e v).kst = s.kst := rfl
@[simp] theorem setEntry_tmp (e : Nat) (v : Option Entry) : (s.setEntry e v).tmp = s.tmp := rfl
@[simp] theorem setEntry_bat (e : Nat) (v : Option Entry) : (s.setEntry e v).bat = s.bat := rfl
@[simp] theorem setEntry_lcs (e : Nat) (v : Option Entry) : (s.setEntry e v).lcs = s.lcs := rfl
@[simp] theorem setEntry_own (e : Nat) (v : Option Entry) : (s.setEntry e v).own = s.own := rfl
@[simp] theorem setEntry_par (e : Nat) (v : Option Entry) : (s.setEntry e v).par = s.par := rfl
@[simp] theorem setEntry_glb (e : Nat) (v : Option Entry) : (s.setEntry e v).glb = s.glb := rfl
@[simp] theorem setEntry_pwr (e : Nat) (v : Option Entry) : (s.setEntry e v).pwr = s.pwr := rfl
@[simp] theorem setEntry_bst (e : Nat) (v : Option Entry) : (s.setEntry e v).bst = s.bst := rfl
@[simp] theorem setEntry_tly (e : Nat) (v : Option Entry) : (s.setEntry e v).tly = s.tly := rfl
@[simp] theorem setEntry_evc (e : Nat) (v : Option Entry) : (s.setEntry e v).evc = s.evc := rfl

@[simp] theorem updEntry_pending (e : Nat) (f : Entry → Entry) : (s.updEntry e f).pending = s.pending := rfl
@[simp] theorem updEntry_clk (e : Nat) (f : Entry → Entry) : (s.updEntry e f).clk = s.clk := rfl
@[simp] theorem updEntry_rng (e : Nat) (f : Entry → Entry) : (s.updEntry e f).rng = s.rng := rfl
@[simp] theorem updEntry_csn (e : Nat) (f : Entry → Entry) : (s.updEntry e f).csn = s.csn := rfl
@[simp] theorem updEntry_out (e : Nat) (f : Entry → Entry) : (s.updEntry e f).out = s.out := rfl
@[simp] theorem updEntry_imem (e : Nat) (f : Entry → Entry) : (s.updEntry e f).imem = s.imem := rfl
@[simp] theorem updEntry_rwi (e : Nat) (f : Entry → Entry) : (s.updEntry e f).rwi = s.rwi := rfl
@[simp] theorem updEntry_pit (e : Nat) (f : Entry → Entry) : (s.updEntry e f).pit = s.pit := rfl
@[simp] theorem updEntry_rqe (e : Nat) (f : Entry → Entry) : (s.updEntry e f).rqe = s.rqe := rfl
@[simp] theorem updEntry_cmc (e : Nat) (f : Entry → Entry) : (s.updEntry e f).cmc = s.cmc := rfl
@[simp] theorem updEntry_sel (e : Nat) (f : Entry → Entry) : (s.updEntry e f).sel = s.sel := rfl
@[simp] theorem updEntry_dma (e : Nat) (f : Entry → Entry) : (s.updEntry e f).dma = s.dma := rfl
@[simp] theorem updEntry_mbx (e : Nat) (f : Entry → Entry) : (s.updEntry e f).mbx = s.mbx := rfl
@[simp] theorem updEntry_mbxErr (e : Nat) (f : Entry → Entry) : (s.updEntry e f).mbxErr = s.mbxErr := rfl
@[simp] theorem updEntry_mpu (e : Nat) (f : Entry → Entry) : (s.updEntry e f).mpu = s.mpu := rfl
@[simp] theorem updEntry_caches (e : Nat) (f : Entry → Entry) : (s.updEntry e f).caches = s.caches := rfl
@[simp] theorem updEntry_units (e : Nat) (f : Entry → Entry) : (s.updEntry e f).units = s.units := rfl
@[simp] theorem updEntry_kst (e : Nat) (f : Entry → Entry) : (s.updEntry e f).kst = s.kst := rfl
@[simp] theorem updEntry_tmp (e : Nat) (f : Entry → Entry) : (s.updEntry e f).tmp = s.tmp := rfl
@[simp] theorem updEntry_bat (e : Nat) (f : Entry → Entry) : (s.updEntry e f).bat = s.bat := rfl
@[simp] theorem updEntry_lcs (e : Nat) (f : Entry → Entry) : (s.updEntry e f).lcs = s.lcs := rfl
@[simp] theorem updEntry_own (e : Nat) (f : Entry → Entry) : (s.updEntry e f).own = s.own := rfl
@[simp] theorem updEntry_par (e : Nat) (f : Entry → Entry) : (s.updEntry e f).par = s.par := rfl
@[simp] theorem updEntry_glb (e : Nat) (f : Entry → Entry) : (s.updEntry e f).glb = s.glb := rfl
@[simp] theorem updEntry_pwr (e : Nat) (f : Entry → Entry) : (s.updEntry e f).pwr = s.pwr := rfl
@[simp] theorem updEntry_bst (e : Nat) (f : Entry → Entry) : (s.updEntry e f).bst = s.bst := rfl
@[simp] theorem updEntry_tly (e : Nat) (f : Entry → Entry) : (s.updEntry e f).tly = s.tly := rfl
@[simp] theorem updEntry_evc (e : Nat) (f : Entry → Entry) : (s.updEntry e f).evc = s.evc := rfl

@[simp] theorem updCore_pending (c : Nat) (f : Core → Core) : (s.updCore c f).pending = s.pending := rfl
@[simp] theorem updCore_clk (c : Nat) (f : Core → Core) : (s.updCore c f).clk = s.clk := rfl
@[simp] theorem updCore_rng (c : Nat) (f : Core → Core) : (s.updCore c f).rng = s.rng := rfl
@[simp] theorem updCore_csn (c : Nat) (f : Core → Core) : (s.updCore c f).csn = s.csn := rfl
@[simp] theorem updCore_out (c : Nat) (f : Core → Core) : (s.updCore c f).out = s.out := rfl
@[simp] theorem updCore_imem (c : Nat) (f : Core → Core) : (s.updCore c f).imem = s.imem := rfl
@[simp] theorem updCore_rwi (c : Nat) (f : Core → Core) : (s.updCore c f).rwi = s.rwi := rfl
@[simp] theorem updCore_pit (c : Nat) (f : Core → Core) : (s.updCore c f).pit = s.pit := rfl
@[simp] theorem updCore_rqe (c : Nat) (f : Core → Core) : (s.updCore c f).rqe = s.rqe := rfl
@[simp] theorem updCore_sch (c : Nat) (f : Core → Core) : (s.updCore c f).sch = s.sch := rfl
@[simp] theorem updCore_sel (c : Nat) (f : Core → Core) : (s.updCore c f).sel = s.sel := rfl
@[simp] theorem updCore_dma (c : Nat) (f : Core → Core) : (s.updCore c f).dma = s.dma := rfl
@[simp] theorem updCore_mbx (c : Nat) (f : Core → Core) : (s.updCore c f).mbx = s.mbx := rfl
@[simp] theorem updCore_mbxErr (c : Nat) (f : Core → Core) : (s.updCore c f).mbxErr = s.mbxErr := rfl
@[simp] theorem updCore_mpu (c : Nat) (f : Core → Core) : (s.updCore c f).mpu = s.mpu := rfl
@[simp] theorem updCore_caches (c : Nat) (f : Core → Core) : (s.updCore c f).caches = s.caches := rfl
@[simp] theorem updCore_units (c : Nat) (f : Core → Core) : (s.updCore c f).units = s.units := rfl
@[simp] theorem updCore_kst (c : Nat) (f : Core → Core) : (s.updCore c f).kst = s.kst := rfl
@[simp] theorem updCore_tmp (c : Nat) (f : Core → Core) : (s.updCore c f).tmp = s.tmp := rfl
@[simp] theorem updCore_bat (c : Nat) (f : Core → Core) : (s.updCore c f).bat = s.bat := rfl
@[simp] theorem updCore_lcs (c : Nat) (f : Core → Core) : (s.updCore c f).lcs = s.lcs := rfl
@[simp] theorem updCore_own (c : Nat) (f : Core → Core) : (s.updCore c f).own = s.own := rfl
@[simp] theorem updCore_par (c : Nat) (f : Core → Core) : (s.updCore c f).par = s.par := rfl
@[simp] theorem updCore_glb (c : Nat) (f : Core → Core) : (s.updCore c f).glb = s.glb := rfl
@[simp] theorem updCore_pwr (c : Nat) (f : Core → Core) : (s.updCore c f).pwr = s.pwr := rfl
@[simp] theorem updCore_bst (c : Nat) (f : Core → Core) : (s.updCore c f).bst = s.bst := rfl
@[simp] theorem updCore_tly (c : Nat) (f : Core → Core) : (s.updCore c f).tly = s.tly := rfl
@[simp] theorem updCore_evc (c : Nat) (f : Core → Core) : (s.updCore c f).evc = s.evc := rfl

@[simp] theorem updSel_pending (w : Who) (f : Sel → Sel) : (s.updSel w f).pending = s.pending := rfl
@[simp] theorem updSel_clk (w : Who) (f : Sel → Sel) : (s.updSel w f).clk = s.clk := rfl
@[simp] theorem updSel_rng (w : Who) (f : Sel → Sel) : (s.updSel w f).rng = s.rng := rfl
@[simp] theorem updSel_csn (w : Who) (f : Sel → Sel) : (s.updSel w f).csn = s.csn := rfl
@[simp] theorem updSel_out (w : Who) (f : Sel → Sel) : (s.updSel w f).out = s.out := rfl
@[simp] theorem updSel_imem (w : Who) (f : Sel → Sel) : (s.updSel w f).imem = s.imem := rfl
@[simp] theorem updSel_rwi (w : Who) (f : Sel → Sel) : (s.updSel w f).rwi = s.rwi := rfl
@[simp] theorem updSel_pit (w : Who) (f : Sel → Sel) : (s.updSel w f).pit = s.pit := rfl
@[simp] theorem updSel_rqe (w : Who) (f : Sel → Sel) : (s.updSel w f).rqe = s.rqe := rfl
@[simp] theorem updSel_sch (w : Who) (f : Sel → Sel) : (s.updSel w f).sch = s.sch := rfl
@[simp] theorem updSel_cmc (w : Who) (f : Sel → Sel) : (s.updSel w f).cmc = s.cmc := rfl
@[simp] theorem updSel_dma (w : Who) (f : Sel → Sel) : (s.updSel w f).dma = s.dma := rfl
@[simp] theorem updSel_mbx (w : Who) (f : Sel → Sel) : (s.updSel w f).mbx = s.mbx := rfl
@[simp] theorem updSel_mbxErr (w : Who) (f : Sel → Sel) : (s.updSel w f).mbxErr = s.mbxErr := rfl
@[simp] theorem updSel_mpu (w : Who) (f : Sel → Sel) : (s.updSel w f).mpu = s.mpu := rfl
@[simp] theorem updSel_caches (w : Who) (f : Sel → Sel) : (s.updSel w f).caches = s.caches := rfl
@[simp] theorem updSel_units (w : Who) (f : Sel → Sel) : (s.updSel w f).units = s.units := rfl
@[simp] theorem updSel_kst (w : Who) (f : Sel → Sel) : (s.updSel w f).kst = s.kst := rfl
@[simp] theorem updSel_tmp (w : Who) (f : Sel → Sel) : (s.updSel w f).tmp = s.tmp := rfl
@[simp] theorem updSel_bat (w : Who) (f : Sel → Sel) : (s.updSel w f).bat = s.bat := rfl
@[simp] theorem updSel_lcs (w : Who) (f : Sel → Sel) : (s.updSel w f).lcs = s.lcs := rfl
@[simp] theorem updSel_own (w : Who) (f : Sel → Sel) : (s.updSel w f).own = s.own := rfl
@[simp] theorem updSel_par (w : Who) (f : Sel → Sel) : (s.updSel w f).par = s.par := rfl
@[simp] theorem updSel_glb (w : Who) (f : Sel → Sel) : (s.updSel w f).glb = s.glb := rfl
@[simp] theorem updSel_pwr (w : Who) (f : Sel → Sel) : (s.updSel w f).pwr = s.pwr := rfl
@[simp] theorem updSel_bst (w : Who) (f : Sel → Sel) : (s.updSel w f).bst = s.bst := rfl
@[simp] theorem updSel_tly (w : Who) (f : Sel → Sel) : (s.updSel w f).tly = s.tly := rfl
@[simp] theorem updSel_evc (w : Who) (f : Sel → Sel) : (s.updSel w f).evc = s.evc := rfl

@[simp] theorem updChan_pending (c : Nat) (f : Channel → Channel) : (s.updChan c f).pending = s.pending := rfl
@[simp] theorem updChan_clk (c : Nat) (f : Channel → Channel) : (s.updChan c f).clk = s.clk := rfl
@[simp] theorem updChan_rng (c : Nat) (f : Channel → Channel) : (s.updChan c f).rng = s.rng := rfl
@[simp] theorem updChan_csn (c : Nat) (f : Channel → Channel) : (s.updChan c f).csn = s.csn := rfl
@[simp] theorem updChan_out (c : Nat) (f : Channel → Channel) : (s.updChan c f).out = s.out := rfl
@[simp] theorem updChan_imem (c : Nat) (f : Channel → Channel) : (s.updChan c f).imem = s.imem := rfl
@[simp] theorem updChan_rwi (c : Nat) (f : Channel → Channel) : (s.updChan c f).rwi = s.rwi := rfl
@[simp] theorem updChan_pit (c : Nat) (f : Channel → Channel) : (s.updChan c f).pit = s.pit := rfl
@[simp] theorem updChan_rqe (c : Nat) (f : Channel → Channel) : (s.updChan c f).rqe = s.rqe := rfl
@[simp] theorem updChan_sch (c : Nat) (f : Channel → Channel) : (s.updChan c f).sch = s.sch := rfl
@[simp] theorem updChan_cmc (c : Nat) (f : Channel → Channel) : (s.updChan c f).cmc = s.cmc := rfl
@[simp] theorem updChan_sel (c : Nat) (f : Channel → Channel) : (s.updChan c f).sel = s.sel := rfl
@[simp] theorem updChan_mbx (c : Nat) (f : Channel → Channel) : (s.updChan c f).mbx = s.mbx := rfl
@[simp] theorem updChan_mbxErr (c : Nat) (f : Channel → Channel) : (s.updChan c f).mbxErr = s.mbxErr := rfl
@[simp] theorem updChan_mpu (c : Nat) (f : Channel → Channel) : (s.updChan c f).mpu = s.mpu := rfl
@[simp] theorem updChan_caches (c : Nat) (f : Channel → Channel) : (s.updChan c f).caches = s.caches := rfl
@[simp] theorem updChan_units (c : Nat) (f : Channel → Channel) : (s.updChan c f).units = s.units := rfl
@[simp] theorem updChan_kst (c : Nat) (f : Channel → Channel) : (s.updChan c f).kst = s.kst := rfl
@[simp] theorem updChan_tmp (c : Nat) (f : Channel → Channel) : (s.updChan c f).tmp = s.tmp := rfl
@[simp] theorem updChan_bat (c : Nat) (f : Channel → Channel) : (s.updChan c f).bat = s.bat := rfl
@[simp] theorem updChan_lcs (c : Nat) (f : Channel → Channel) : (s.updChan c f).lcs = s.lcs := rfl
@[simp] theorem updChan_own (c : Nat) (f : Channel → Channel) : (s.updChan c f).own = s.own := rfl
@[simp] theorem updChan_par (c : Nat) (f : Channel → Channel) : (s.updChan c f).par = s.par := rfl
@[simp] theorem updChan_glb (c : Nat) (f : Channel → Channel) : (s.updChan c f).glb = s.glb := rfl
@[simp] theorem updChan_pwr (c : Nat) (f : Channel → Channel) : (s.updChan c f).pwr = s.pwr := rfl
@[simp] theorem updChan_bst (c : Nat) (f : Channel → Channel) : (s.updChan c f).bst = s.bst := rfl
@[simp] theorem updChan_tly (c : Nat) (f : Channel → Channel) : (s.updChan c f).tly = s.tly := rfl
@[simp] theorem updChan_evc (c : Nat) (f : Channel → Channel) : (s.updChan c f).evc = s.evc := rfl

@[simp] theorem updBox_pending (m : Nat) (f : Mailbox → Mailbox) : (s.updBox m f).pending = s.pending := rfl
@[simp] theorem updBox_clk (m : Nat) (f : Mailbox → Mailbox) : (s.updBox m f).clk = s.clk := rfl
@[simp] theorem updBox_rng (m : Nat) (f : Mailbox → Mailbox) : (s.updBox m f).rng = s.rng := rfl
@[simp] theorem updBox_csn (m : Nat) (f : Mailbox → Mailbox) : (s.updBox m f).csn = s.csn := rfl
@[simp] theorem updBox_out (m : Nat) (f : Mailbox → Mailbox) : (s.updBox m f).out = s.out := rfl
@[simp] theorem updBox_imem (m : Nat) (f : Mailbox → Mailbox) : (s.updBox m f).imem = s.imem := rfl
@[simp] theorem updBox_rwi (m : Nat) (f : Mailbox → Mailbox) : (s.updBox m f).rwi = s.rwi := rfl
@[simp] theorem updBox_pit (m : Nat) (f : Mailbox → Mailbox) : (s.updBox m f).pit = s.pit := rfl
@[simp] theorem updBox_rqe (m : Nat) (f : Mailbox → Mailbox) : (s.updBox m f).rqe = s.rqe := rfl
@[simp] theorem updBox_sch (m : Nat) (f : Mailbox → Mailbox) : (s.updBox m f).sch = s.sch := rfl
@[simp] theorem updBox_cmc (m : Nat) (f : Mailbox → Mailbox) : (s.updBox m f).cmc = s.cmc := rfl
@[simp] theorem updBox_sel (m : Nat) (f : Mailbox → Mailbox) : (s.updBox m f).sel = s.sel := rfl
@[simp] theorem updBox_dma (m : Nat) (f : Mailbox → Mailbox) : (s.updBox m f).dma = s.dma := rfl
@[simp] theorem updBox_mbxErr (m : Nat) (f : Mailbox → Mailbox) : (s.updBox m f).mbxErr = s.mbxErr := rfl
@[simp] theorem updBox_mpu (m : Nat) (f : Mailbox → Mailbox) : (s.updBox m f).mpu = s.mpu := rfl
@[simp] theorem updBox_caches (m : Nat) (f : Mailbox → Mailbox) : (s.updBox m f).caches = s.caches := rfl
@[simp] theorem updBox_units (m : Nat) (f : Mailbox → Mailbox) : (s.updBox m f).units = s.units := rfl
@[simp] theorem updBox_kst (m : Nat) (f : Mailbox → Mailbox) : (s.updBox m f).kst = s.kst := rfl
@[simp] theorem updBox_tmp (m : Nat) (f : Mailbox → Mailbox) : (s.updBox m f).tmp = s.tmp := rfl
@[simp] theorem updBox_bat (m : Nat) (f : Mailbox → Mailbox) : (s.updBox m f).bat = s.bat := rfl
@[simp] theorem updBox_lcs (m : Nat) (f : Mailbox → Mailbox) : (s.updBox m f).lcs = s.lcs := rfl
@[simp] theorem updBox_own (m : Nat) (f : Mailbox → Mailbox) : (s.updBox m f).own = s.own := rfl
@[simp] theorem updBox_par (m : Nat) (f : Mailbox → Mailbox) : (s.updBox m f).par = s.par := rfl
@[simp] theorem updBox_glb (m : Nat) (f : Mailbox → Mailbox) : (s.updBox m f).glb = s.glb := rfl
@[simp] theorem updBox_pwr (m : Nat) (f : Mailbox → Mailbox) : (s.updBox m f).pwr = s.pwr := rfl
@[simp] theorem updBox_bst (m : Nat) (f : Mailbox → Mailbox) : (s.updBox m f).bst = s.bst := rfl
@[simp] theorem updBox_tly (m : Nat) (f : Mailbox → Mailbox) : (s.updBox m f).tly = s.tly := rfl
@[simp] theorem updBox_evc (m : Nat) (f : Mailbox → Mailbox) : (s.updBox m f).evc = s.evc := rfl

@[simp] theorem setSlot_pending (n : Nat) (v : Slot) : (s.setSlot n v).pending = s.pending := rfl
@[simp] theorem setSlot_clk (n : Nat) (v : Slot) : (s.setSlot n v).clk = s.clk := rfl
@[simp] theorem setSlot_rng (n : Nat) (v : Slot) : (s.setSlot n v).rng = s.rng := rfl
@[simp] theorem setSlot_csn (n : Nat) (v : Slot) : (s.setSlot n v).csn = s.csn := rfl
@[simp] theorem setSlot_out (n : Nat) (v : Slot) : (s.setSlot n v).out = s.out := rfl
@[simp] theorem setSlot_imem (n : Nat) (v : Slot) : (s.setSlot n v).imem = s.imem := rfl
@[simp] theorem setSlot_rwi (n : Nat) (v : Slot) : (s.setSlot n v).rwi = s.rwi := rfl
@[simp] theorem setSlot_pit (n : Nat) (v : Slot) : (s.setSlot n v).pit = s.pit := rfl
@[simp] theorem setSlot_rqe (n : Nat) (v : Slot) : (s.setSlot n v).rqe = s.rqe := rfl
@[simp] theorem setSlot_sch (n : Nat) (v : Slot) : (s.setSlot n v).sch = s.sch := rfl
@[simp] theorem setSlot_cmc (n : Nat) (v : Slot) : (s.setSlot n v).cmc = s.cmc := rfl
@[simp] theorem setSlot_sel (n : Nat) (v : Slot) : (s.setSlot n v).sel = s.sel := rfl
@[simp] theorem setSlot_dma (n : Nat) (v : Slot) : (s.setSlot n v).dma = s.dma := rfl
@[simp] theorem setSlot_mbx (n : Nat) (v : Slot) : (s.setSlot n v).mbx = s.mbx := rfl
@[simp] theorem setSlot_mbxErr (n : Nat) (v : Slot) : (s.setSlot n v).mbxErr = s.mbxErr := rfl
@[simp] theorem setSlot_mpu (n : Nat) (v : Slot) : (s.setSlot n v).mpu = s.mpu := rfl
@[simp] theorem setSlot_caches (n : Nat) (v : Slot) : (s.setSlot n v).caches = s.caches := rfl
@[simp] theorem setSlot_units (n : Nat) (v : Slot) : (s.setSlot n v).units = s.units := rfl
@[simp] theorem setSlot_tmp (n : Nat) (v : Slot) : (s.setSlot n v).tmp = s.tmp := rfl
@[simp] theorem setSlot_bat (n : Nat) (v : Slot) : (s.setSlot n v).bat = s.bat := rfl
@[simp] theorem setSlot_lcs (n : Nat) (v : Slot) : (s.setSlot n v).lcs = s.lcs := rfl
@[simp] theorem setSlot_own (n : Nat) (v : Slot) : (s.setSlot n v).own = s.own := rfl
@[simp] theorem setSlot_par (n : Nat) (v : Slot) : (s.setSlot n v).par = s.par := rfl
@[simp] theorem setSlot_glb (n : Nat) (v : Slot) : (s.setSlot n v).glb = s.glb := rfl
@[simp] theorem setSlot_pwr (n : Nat) (v : Slot) : (s.setSlot n v).pwr = s.pwr := rfl
@[simp] theorem setSlot_bst (n : Nat) (v : Slot) : (s.setSlot n v).bst = s.bst := rfl
@[simp] theorem setSlot_tly (n : Nat) (v : Slot) : (s.setSlot n v).tly = s.tly := rfl
@[simp] theorem setSlot_evc (n : Nat) (v : Slot) : (s.setSlot n v).evc = s.evc := rfl

@[simp] theorem updRegion_pending (k : Nat) (f : Region → Region) : (s.updRegion k f).pending = s.pending := rfl
@[simp] theorem updRegion_clk (k : Nat) (f : Region → Region) : (s.updRegion k f).clk = s.clk := rfl
@[simp] theorem updRegion_rng (k : Nat) (f : Region → Region) : (s.updRegion k f).rng = s.rng := rfl
@[simp] theorem updRegion_csn (k : Nat) (f : Region → Region) : (s.updRegion k f).csn = s.csn := rfl
@[simp] theorem updRegion_out (k : Nat) (f : Region → Region) : (s.updRegion k f).out = s.out := rfl
@[simp] theorem updRegion_imem (k : Nat) (f : Region → Region) : (s.updRegion k f).imem = s.imem := rfl
@[simp] theorem updRegion_rwi (k : Nat) (f : Region → Region) : (s.updRegion k f).rwi = s.rwi := rfl
@[simp] theorem updRegion_pit (k : Nat) (f : Region → Region) : (s.updRegion k f).pit = s.pit := rfl
@[simp] theorem updRegion_rqe (k : Nat) (f : Region → Region) : (s.updRegion k f).rqe = s.rqe := rfl
@[simp] theorem updRegion_sch (k : Nat) (f : Region → Region) : (s.updRegion k f).sch = s.sch := rfl
@[simp] theorem updRegion_cmc (k : Nat) (f : Region → Region) : (s.updRegion k f).cmc = s.cmc := rfl
@[simp] theorem updRegion_sel (k : Nat) (f : Region → Region) : (s.updRegion k f).sel = s.sel := rfl
@[simp] theorem updRegion_dma (k : Nat) (f : Region → Region) : (s.updRegion k f).dma = s.dma := rfl
@[simp] theorem updRegion_mbx (k : Nat) (f : Region → Region) : (s.updRegion k f).mbx = s.mbx := rfl
@[simp] theorem updRegion_mbxErr (k : Nat) (f : Region → Region) : (s.updRegion k f).mbxErr = s.mbxErr := rfl
@[simp] theorem updRegion_caches (k : Nat) (f : Region → Region) : (s.updRegion k f).caches = s.caches := rfl
@[simp] theorem updRegion_units (k : Nat) (f : Region → Region) : (s.updRegion k f).units = s.units := rfl
@[simp] theorem updRegion_kst (k : Nat) (f : Region → Region) : (s.updRegion k f).kst = s.kst := rfl
@[simp] theorem updRegion_tmp (k : Nat) (f : Region → Region) : (s.updRegion k f).tmp = s.tmp := rfl
@[simp] theorem updRegion_bat (k : Nat) (f : Region → Region) : (s.updRegion k f).bat = s.bat := rfl
@[simp] theorem updRegion_lcs (k : Nat) (f : Region → Region) : (s.updRegion k f).lcs = s.lcs := rfl
@[simp] theorem updRegion_own (k : Nat) (f : Region → Region) : (s.updRegion k f).own = s.own := rfl
@[simp] theorem updRegion_par (k : Nat) (f : Region → Region) : (s.updRegion k f).par = s.par := rfl
@[simp] theorem updRegion_glb (k : Nat) (f : Region → Region) : (s.updRegion k f).glb = s.glb := rfl
@[simp] theorem updRegion_pwr (k : Nat) (f : Region → Region) : (s.updRegion k f).pwr = s.pwr := rfl
@[simp] theorem updRegion_bst (k : Nat) (f : Region → Region) : (s.updRegion k f).bst = s.bst := rfl
@[simp] theorem updRegion_tly (k : Nat) (f : Region → Region) : (s.updRegion k f).tly = s.tly := rfl
@[simp] theorem updRegion_evc (k : Nat) (f : Region → Region) : (s.updRegion k f).evc = s.evc := rfl

@[simp] theorem updDrbg_pending (i : Nat) (f : Drbg → Drbg) : (s.updDrbg i f).pending = s.pending := rfl
@[simp] theorem updDrbg_clk (i : Nat) (f : Drbg → Drbg) : (s.updDrbg i f).clk = s.clk := rfl
@[simp] theorem updDrbg_rng (i : Nat) (f : Drbg → Drbg) : (s.updDrbg i f).rng = s.rng := rfl
@[simp] theorem updDrbg_csn (i : Nat) (f : Drbg → Drbg) : (s.updDrbg i f).csn = s.csn := rfl
@[simp] theorem updDrbg_out (i : Nat) (f : Drbg → Drbg) : (s.updDrbg i f).out = s.out := rfl
@[simp] theorem updDrbg_imem (i : Nat) (f : Drbg → Drbg) : (s.updDrbg i f).imem = s.imem := rfl
@[simp] theorem updDrbg_rwi (i : Nat) (f : Drbg → Drbg) : (s.updDrbg i f).rwi = s.rwi := rfl
@[simp] theorem updDrbg_pit (i : Nat) (f : Drbg → Drbg) : (s.updDrbg i f).pit = s.pit := rfl
@[simp] theorem updDrbg_rqe (i : Nat) (f : Drbg → Drbg) : (s.updDrbg i f).rqe = s.rqe := rfl
@[simp] theorem updDrbg_sch (i : Nat) (f : Drbg → Drbg) : (s.updDrbg i f).sch = s.sch := rfl
@[simp] theorem updDrbg_cmc (i : Nat) (f : Drbg → Drbg) : (s.updDrbg i f).cmc = s.cmc := rfl
@[simp] theorem updDrbg_sel (i : Nat) (f : Drbg → Drbg) : (s.updDrbg i f).sel = s.sel := rfl
@[simp] theorem updDrbg_dma (i : Nat) (f : Drbg → Drbg) : (s.updDrbg i f).dma = s.dma := rfl
@[simp] theorem updDrbg_mbx (i : Nat) (f : Drbg → Drbg) : (s.updDrbg i f).mbx = s.mbx := rfl
@[simp] theorem updDrbg_mbxErr (i : Nat) (f : Drbg → Drbg) : (s.updDrbg i f).mbxErr = s.mbxErr := rfl
@[simp] theorem updDrbg_mpu (i : Nat) (f : Drbg → Drbg) : (s.updDrbg i f).mpu = s.mpu := rfl
@[simp] theorem updDrbg_caches (i : Nat) (f : Drbg → Drbg) : (s.updDrbg i f).caches = s.caches := rfl
@[simp] theorem updDrbg_kst (i : Nat) (f : Drbg → Drbg) : (s.updDrbg i f).kst = s.kst := rfl
@[simp] theorem updDrbg_tmp (i : Nat) (f : Drbg → Drbg) : (s.updDrbg i f).tmp = s.tmp := rfl
@[simp] theorem updDrbg_bat (i : Nat) (f : Drbg → Drbg) : (s.updDrbg i f).bat = s.bat := rfl
@[simp] theorem updDrbg_lcs (i : Nat) (f : Drbg → Drbg) : (s.updDrbg i f).lcs = s.lcs := rfl
@[simp] theorem updDrbg_own (i : Nat) (f : Drbg → Drbg) : (s.updDrbg i f).own = s.own := rfl
@[simp] theorem updDrbg_par (i : Nat) (f : Drbg → Drbg) : (s.updDrbg i f).par = s.par := rfl
@[simp] theorem updDrbg_glb (i : Nat) (f : Drbg → Drbg) : (s.updDrbg i f).glb = s.glb := rfl
@[simp] theorem updDrbg_pwr (i : Nat) (f : Drbg → Drbg) : (s.updDrbg i f).pwr = s.pwr := rfl
@[simp] theorem updDrbg_bst (i : Nat) (f : Drbg → Drbg) : (s.updDrbg i f).bst = s.bst := rfl
@[simp] theorem updDrbg_tly (i : Nat) (f : Drbg → Drbg) : (s.updDrbg i f).tly = s.tly := rfl
@[simp] theorem updDrbg_evc (i : Nat) (f : Drbg → Drbg) : (s.updDrbg i f).evc = s.evc := rfl

@[simp] theorem updCandidate_pending (n : BitVec 6) (f : Candidate → Candidate) : (s.updCandidate n f).pending = s.pending := rfl
@[simp] theorem updCandidate_clk (n : BitVec 6) (f : Candidate → Candidate) : (s.updCandidate n f).clk = s.clk := rfl
@[simp] theorem updCandidate_rng (n : BitVec 6) (f : Candidate → Candidate) : (s.updCandidate n f).rng = s.rng := rfl
@[simp] theorem updCandidate_csn (n : BitVec 6) (f : Candidate → Candidate) : (s.updCandidate n f).csn = s.csn := rfl
@[simp] theorem updCandidate_out (n : BitVec 6) (f : Candidate → Candidate) : (s.updCandidate n f).out = s.out := rfl
@[simp] theorem updCandidate_imem (n : BitVec 6) (f : Candidate → Candidate) : (s.updCandidate n f).imem = s.imem := rfl
@[simp] theorem updCandidate_rwi (n : BitVec 6) (f : Candidate → Candidate) : (s.updCandidate n f).rwi = s.rwi := rfl
@[simp] theorem updCandidate_pit (n : BitVec 6) (f : Candidate → Candidate) : (s.updCandidate n f).pit = s.pit := rfl
@[simp] theorem updCandidate_rqe (n : BitVec 6) (f : Candidate → Candidate) : (s.updCandidate n f).rqe = s.rqe := rfl
@[simp] theorem updCandidate_sch (n : BitVec 6) (f : Candidate → Candidate) : (s.updCandidate n f).sch = s.sch := rfl
@[simp] theorem updCandidate_cmc (n : BitVec 6) (f : Candidate → Candidate) : (s.updCandidate n f).cmc = s.cmc := rfl
@[simp] theorem updCandidate_sel (n : BitVec 6) (f : Candidate → Candidate) : (s.updCandidate n f).sel = s.sel := rfl
@[simp] theorem updCandidate_dma (n : BitVec 6) (f : Candidate → Candidate) : (s.updCandidate n f).dma = s.dma := rfl
@[simp] theorem updCandidate_mbx (n : BitVec 6) (f : Candidate → Candidate) : (s.updCandidate n f).mbx = s.mbx := rfl
@[simp] theorem updCandidate_mbxErr (n : BitVec 6) (f : Candidate → Candidate) : (s.updCandidate n f).mbxErr = s.mbxErr := rfl
@[simp] theorem updCandidate_mpu (n : BitVec 6) (f : Candidate → Candidate) : (s.updCandidate n f).mpu = s.mpu := rfl
@[simp] theorem updCandidate_caches (n : BitVec 6) (f : Candidate → Candidate) : (s.updCandidate n f).caches = s.caches := rfl
@[simp] theorem updCandidate_units (n : BitVec 6) (f : Candidate → Candidate) : (s.updCandidate n f).units = s.units := rfl
@[simp] theorem updCandidate_kst (n : BitVec 6) (f : Candidate → Candidate) : (s.updCandidate n f).kst = s.kst := rfl
@[simp] theorem updCandidate_tmp (n : BitVec 6) (f : Candidate → Candidate) : (s.updCandidate n f).tmp = s.tmp := rfl
@[simp] theorem updCandidate_bat (n : BitVec 6) (f : Candidate → Candidate) : (s.updCandidate n f).bat = s.bat := rfl
@[simp] theorem updCandidate_lcs (n : BitVec 6) (f : Candidate → Candidate) : (s.updCandidate n f).lcs = s.lcs := rfl
@[simp] theorem updCandidate_par (n : BitVec 6) (f : Candidate → Candidate) : (s.updCandidate n f).par = s.par := rfl
@[simp] theorem updCandidate_glb (n : BitVec 6) (f : Candidate → Candidate) : (s.updCandidate n f).glb = s.glb := rfl
@[simp] theorem updCandidate_pwr (n : BitVec 6) (f : Candidate → Candidate) : (s.updCandidate n f).pwr = s.pwr := rfl
@[simp] theorem updCandidate_bst (n : BitVec 6) (f : Candidate → Candidate) : (s.updCandidate n f).bst = s.bst := rfl
@[simp] theorem updCandidate_tly (n : BitVec 6) (f : Candidate → Candidate) : (s.updCandidate n f).tly = s.tly := rfl
@[simp] theorem updCandidate_evc (n : BitVec 6) (f : Candidate → Candidate) : (s.updCandidate n f).evc = s.evc := rfl

@[simp] theorem emit_pending (o : Out) : (s.emit o).pending = s.pending := rfl
@[simp] theorem emit_clk (o : Out) : (s.emit o).clk = s.clk := rfl
@[simp] theorem emit_rng (o : Out) : (s.emit o).rng = s.rng := rfl
@[simp] theorem emit_csn (o : Out) : (s.emit o).csn = s.csn := rfl
@[simp] theorem emit_imem (o : Out) : (s.emit o).imem = s.imem := rfl
@[simp] theorem emit_rwi (o : Out) : (s.emit o).rwi = s.rwi := rfl
@[simp] theorem emit_pit (o : Out) : (s.emit o).pit = s.pit := rfl
@[simp] theorem emit_rqe (o : Out) : (s.emit o).rqe = s.rqe := rfl
@[simp] theorem emit_sch (o : Out) : (s.emit o).sch = s.sch := rfl
@[simp] theorem emit_cmc (o : Out) : (s.emit o).cmc = s.cmc := rfl
@[simp] theorem emit_sel (o : Out) : (s.emit o).sel = s.sel := rfl
@[simp] theorem emit_dma (o : Out) : (s.emit o).dma = s.dma := rfl
@[simp] theorem emit_mbx (o : Out) : (s.emit o).mbx = s.mbx := rfl
@[simp] theorem emit_mbxErr (o : Out) : (s.emit o).mbxErr = s.mbxErr := rfl
@[simp] theorem emit_mpu (o : Out) : (s.emit o).mpu = s.mpu := rfl
@[simp] theorem emit_caches (o : Out) : (s.emit o).caches = s.caches := rfl
@[simp] theorem emit_units (o : Out) : (s.emit o).units = s.units := rfl
@[simp] theorem emit_kst (o : Out) : (s.emit o).kst = s.kst := rfl
@[simp] theorem emit_tmp (o : Out) : (s.emit o).tmp = s.tmp := rfl
@[simp] theorem emit_bat (o : Out) : (s.emit o).bat = s.bat := rfl
@[simp] theorem emit_lcs (o : Out) : (s.emit o).lcs = s.lcs := rfl
@[simp] theorem emit_own (o : Out) : (s.emit o).own = s.own := rfl
@[simp] theorem emit_par (o : Out) : (s.emit o).par = s.par := rfl
@[simp] theorem emit_glb (o : Out) : (s.emit o).glb = s.glb := rfl
@[simp] theorem emit_pwr (o : Out) : (s.emit o).pwr = s.pwr := rfl
@[simp] theorem emit_bst (o : Out) : (s.emit o).bst = s.bst := rfl
@[simp] theorem emit_tly (o : Out) : (s.emit o).tly = s.tly := rfl
@[simp] theorem emit_evc (o : Out) : (s.emit o).evc = s.evc := rfl

@[simp] theorem drew_pending (n : Nat) : (s.drew n).pending = s.pending := rfl
@[simp] theorem drew_clk (n : Nat) : (s.drew n).clk = s.clk := rfl
@[simp] theorem drew_csn (n : Nat) : (s.drew n).csn = s.csn := rfl
@[simp] theorem drew_out (n : Nat) : (s.drew n).out = s.out := rfl
@[simp] theorem drew_imem (n : Nat) : (s.drew n).imem = s.imem := rfl
@[simp] theorem drew_rwi (n : Nat) : (s.drew n).rwi = s.rwi := rfl
@[simp] theorem drew_pit (n : Nat) : (s.drew n).pit = s.pit := rfl
@[simp] theorem drew_rqe (n : Nat) : (s.drew n).rqe = s.rqe := rfl
@[simp] theorem drew_sch (n : Nat) : (s.drew n).sch = s.sch := rfl
@[simp] theorem drew_cmc (n : Nat) : (s.drew n).cmc = s.cmc := rfl
@[simp] theorem drew_sel (n : Nat) : (s.drew n).sel = s.sel := rfl
@[simp] theorem drew_dma (n : Nat) : (s.drew n).dma = s.dma := rfl
@[simp] theorem drew_mbx (n : Nat) : (s.drew n).mbx = s.mbx := rfl
@[simp] theorem drew_mbxErr (n : Nat) : (s.drew n).mbxErr = s.mbxErr := rfl
@[simp] theorem drew_mpu (n : Nat) : (s.drew n).mpu = s.mpu := rfl
@[simp] theorem drew_caches (n : Nat) : (s.drew n).caches = s.caches := rfl
@[simp] theorem drew_units (n : Nat) : (s.drew n).units = s.units := rfl
@[simp] theorem drew_kst (n : Nat) : (s.drew n).kst = s.kst := rfl
@[simp] theorem drew_tmp (n : Nat) : (s.drew n).tmp = s.tmp := rfl
@[simp] theorem drew_bat (n : Nat) : (s.drew n).bat = s.bat := rfl
@[simp] theorem drew_lcs (n : Nat) : (s.drew n).lcs = s.lcs := rfl
@[simp] theorem drew_own (n : Nat) : (s.drew n).own = s.own := rfl
@[simp] theorem drew_par (n : Nat) : (s.drew n).par = s.par := rfl
@[simp] theorem drew_glb (n : Nat) : (s.drew n).glb = s.glb := rfl
@[simp] theorem drew_pwr (n : Nat) : (s.drew n).pwr = s.pwr := rfl
@[simp] theorem drew_bst (n : Nat) : (s.drew n).bst = s.bst := rfl
@[simp] theorem drew_tly (n : Nat) : (s.drew n).tly = s.tly := rfl
@[simp] theorem drew_evc (n : Nat) : (s.drew n).evc = s.evc := rfl

@[simp] theorem tookCsn_pending : (tookCsn s).pending = s.pending := rfl
@[simp] theorem tookCsn_clk : (tookCsn s).clk = s.clk := rfl
@[simp] theorem tookCsn_rng : (tookCsn s).rng = s.rng := rfl
@[simp] theorem tookCsn_out : (tookCsn s).out = s.out := rfl
@[simp] theorem tookCsn_imem : (tookCsn s).imem = s.imem := rfl
@[simp] theorem tookCsn_rwi : (tookCsn s).rwi = s.rwi := rfl
@[simp] theorem tookCsn_pit : (tookCsn s).pit = s.pit := rfl
@[simp] theorem tookCsn_rqe : (tookCsn s).rqe = s.rqe := rfl
@[simp] theorem tookCsn_sch : (tookCsn s).sch = s.sch := rfl
@[simp] theorem tookCsn_cmc : (tookCsn s).cmc = s.cmc := rfl
@[simp] theorem tookCsn_sel : (tookCsn s).sel = s.sel := rfl
@[simp] theorem tookCsn_dma : (tookCsn s).dma = s.dma := rfl
@[simp] theorem tookCsn_mbx : (tookCsn s).mbx = s.mbx := rfl
@[simp] theorem tookCsn_mbxErr : (tookCsn s).mbxErr = s.mbxErr := rfl
@[simp] theorem tookCsn_mpu : (tookCsn s).mpu = s.mpu := rfl
@[simp] theorem tookCsn_caches : (tookCsn s).caches = s.caches := rfl
@[simp] theorem tookCsn_units : (tookCsn s).units = s.units := rfl
@[simp] theorem tookCsn_kst : (tookCsn s).kst = s.kst := rfl
@[simp] theorem tookCsn_tmp : (tookCsn s).tmp = s.tmp := rfl
@[simp] theorem tookCsn_bat : (tookCsn s).bat = s.bat := rfl
@[simp] theorem tookCsn_lcs : (tookCsn s).lcs = s.lcs := rfl
@[simp] theorem tookCsn_own : (tookCsn s).own = s.own := rfl
@[simp] theorem tookCsn_par : (tookCsn s).par = s.par := rfl
@[simp] theorem tookCsn_glb : (tookCsn s).glb = s.glb := rfl
@[simp] theorem tookCsn_pwr : (tookCsn s).pwr = s.pwr := rfl
@[simp] theorem tookCsn_bst : (tookCsn s).bst = s.bst := rfl
@[simp] theorem tookCsn_tly : (tookCsn s).tly = s.tly := rfl
@[simp] theorem tookCsn_evc : (tookCsn s).evc = s.evc := rfl

@[simp] theorem evcOvf_pending : (evcOvf s).pending = s.pending := rfl
@[simp] theorem evcOvf_clk : (evcOvf s).clk = s.clk := rfl
@[simp] theorem evcOvf_rng : (evcOvf s).rng = s.rng := rfl
@[simp] theorem evcOvf_csn : (evcOvf s).csn = s.csn := rfl
@[simp] theorem evcOvf_out : (evcOvf s).out = s.out := rfl
@[simp] theorem evcOvf_imem : (evcOvf s).imem = s.imem := rfl
@[simp] theorem evcOvf_rwi : (evcOvf s).rwi = s.rwi := rfl
@[simp] theorem evcOvf_pit : (evcOvf s).pit = s.pit := rfl
@[simp] theorem evcOvf_rqe : (evcOvf s).rqe = s.rqe := rfl
@[simp] theorem evcOvf_sch : (evcOvf s).sch = s.sch := rfl
@[simp] theorem evcOvf_cmc : (evcOvf s).cmc = s.cmc := rfl
@[simp] theorem evcOvf_sel : (evcOvf s).sel = s.sel := rfl
@[simp] theorem evcOvf_dma : (evcOvf s).dma = s.dma := rfl
@[simp] theorem evcOvf_mbx : (evcOvf s).mbx = s.mbx := rfl
@[simp] theorem evcOvf_mbxErr : (evcOvf s).mbxErr = s.mbxErr := rfl
@[simp] theorem evcOvf_mpu : (evcOvf s).mpu = s.mpu := rfl
@[simp] theorem evcOvf_caches : (evcOvf s).caches = s.caches := rfl
@[simp] theorem evcOvf_units : (evcOvf s).units = s.units := rfl
@[simp] theorem evcOvf_kst : (evcOvf s).kst = s.kst := rfl
@[simp] theorem evcOvf_tmp : (evcOvf s).tmp = s.tmp := rfl
@[simp] theorem evcOvf_bat : (evcOvf s).bat = s.bat := rfl
@[simp] theorem evcOvf_lcs : (evcOvf s).lcs = s.lcs := rfl
@[simp] theorem evcOvf_own : (evcOvf s).own = s.own := rfl
@[simp] theorem evcOvf_par : (evcOvf s).par = s.par := rfl
@[simp] theorem evcOvf_glb : (evcOvf s).glb = s.glb := rfl
@[simp] theorem evcOvf_pwr : (evcOvf s).pwr = s.pwr := rfl
@[simp] theorem evcOvf_bst : (evcOvf s).bst = s.bst := rfl
@[simp] theorem evcOvf_tly : (evcOvf s).tly = s.tly := rfl

@[simp] theorem pitErr_pending (w : Who) (c : BitVec 4) : (pitErr w c s).pending = s.pending := rfl
@[simp] theorem pitErr_clk (w : Who) (c : BitVec 4) : (pitErr w c s).clk = s.clk := rfl
@[simp] theorem pitErr_rng (w : Who) (c : BitVec 4) : (pitErr w c s).rng = s.rng := rfl
@[simp] theorem pitErr_csn (w : Who) (c : BitVec 4) : (pitErr w c s).csn = s.csn := rfl
@[simp] theorem pitErr_out (w : Who) (c : BitVec 4) : (pitErr w c s).out = s.out := rfl
@[simp] theorem pitErr_imem (w : Who) (c : BitVec 4) : (pitErr w c s).imem = s.imem := rfl
@[simp] theorem pitErr_rwi (w : Who) (c : BitVec 4) : (pitErr w c s).rwi = s.rwi := rfl
@[simp] theorem pitErr_rqe (w : Who) (c : BitVec 4) : (pitErr w c s).rqe = s.rqe := rfl
@[simp] theorem pitErr_sch (w : Who) (c : BitVec 4) : (pitErr w c s).sch = s.sch := rfl
@[simp] theorem pitErr_cmc (w : Who) (c : BitVec 4) : (pitErr w c s).cmc = s.cmc := rfl
@[simp] theorem pitErr_sel (w : Who) (c : BitVec 4) : (pitErr w c s).sel = s.sel := rfl
@[simp] theorem pitErr_dma (w : Who) (c : BitVec 4) : (pitErr w c s).dma = s.dma := rfl
@[simp] theorem pitErr_mbx (w : Who) (c : BitVec 4) : (pitErr w c s).mbx = s.mbx := rfl
@[simp] theorem pitErr_mbxErr (w : Who) (c : BitVec 4) : (pitErr w c s).mbxErr = s.mbxErr := rfl
@[simp] theorem pitErr_mpu (w : Who) (c : BitVec 4) : (pitErr w c s).mpu = s.mpu := rfl
@[simp] theorem pitErr_caches (w : Who) (c : BitVec 4) : (pitErr w c s).caches = s.caches := rfl
@[simp] theorem pitErr_units (w : Who) (c : BitVec 4) : (pitErr w c s).units = s.units := rfl
@[simp] theorem pitErr_kst (w : Who) (c : BitVec 4) : (pitErr w c s).kst = s.kst := rfl
@[simp] theorem pitErr_tmp (w : Who) (c : BitVec 4) : (pitErr w c s).tmp = s.tmp := rfl
@[simp] theorem pitErr_bat (w : Who) (c : BitVec 4) : (pitErr w c s).bat = s.bat := rfl
@[simp] theorem pitErr_lcs (w : Who) (c : BitVec 4) : (pitErr w c s).lcs = s.lcs := rfl
@[simp] theorem pitErr_own (w : Who) (c : BitVec 4) : (pitErr w c s).own = s.own := rfl
@[simp] theorem pitErr_par (w : Who) (c : BitVec 4) : (pitErr w c s).par = s.par := rfl
@[simp] theorem pitErr_glb (w : Who) (c : BitVec 4) : (pitErr w c s).glb = s.glb := rfl
@[simp] theorem pitErr_pwr (w : Who) (c : BitVec 4) : (pitErr w c s).pwr = s.pwr := rfl
@[simp] theorem pitErr_bst (w : Who) (c : BitVec 4) : (pitErr w c s).bst = s.bst := rfl
@[simp] theorem pitErr_tly (w : Who) (c : BitVec 4) : (pitErr w c s).tly = s.tly := rfl
@[simp] theorem pitErr_evc (w : Who) (c : BitVec 4) : (pitErr w c s).evc = s.evc := rfl

@[simp] theorem rqeErr_pending (w : Who) (c : BitVec 4) : (rqeErr w c s).pending = s.pending := rfl
@[simp] theorem rqeErr_clk (w : Who) (c : BitVec 4) : (rqeErr w c s).clk = s.clk := rfl
@[simp] theorem rqeErr_rng (w : Who) (c : BitVec 4) : (rqeErr w c s).rng = s.rng := rfl
@[simp] theorem rqeErr_csn (w : Who) (c : BitVec 4) : (rqeErr w c s).csn = s.csn := rfl
@[simp] theorem rqeErr_out (w : Who) (c : BitVec 4) : (rqeErr w c s).out = s.out := rfl
@[simp] theorem rqeErr_imem (w : Who) (c : BitVec 4) : (rqeErr w c s).imem = s.imem := rfl
@[simp] theorem rqeErr_rwi (w : Who) (c : BitVec 4) : (rqeErr w c s).rwi = s.rwi := rfl
@[simp] theorem rqeErr_pit (w : Who) (c : BitVec 4) : (rqeErr w c s).pit = s.pit := rfl
@[simp] theorem rqeErr_sch (w : Who) (c : BitVec 4) : (rqeErr w c s).sch = s.sch := rfl
@[simp] theorem rqeErr_cmc (w : Who) (c : BitVec 4) : (rqeErr w c s).cmc = s.cmc := rfl
@[simp] theorem rqeErr_sel (w : Who) (c : BitVec 4) : (rqeErr w c s).sel = s.sel := rfl
@[simp] theorem rqeErr_dma (w : Who) (c : BitVec 4) : (rqeErr w c s).dma = s.dma := rfl
@[simp] theorem rqeErr_mbx (w : Who) (c : BitVec 4) : (rqeErr w c s).mbx = s.mbx := rfl
@[simp] theorem rqeErr_mbxErr (w : Who) (c : BitVec 4) : (rqeErr w c s).mbxErr = s.mbxErr := rfl
@[simp] theorem rqeErr_mpu (w : Who) (c : BitVec 4) : (rqeErr w c s).mpu = s.mpu := rfl
@[simp] theorem rqeErr_caches (w : Who) (c : BitVec 4) : (rqeErr w c s).caches = s.caches := rfl
@[simp] theorem rqeErr_units (w : Who) (c : BitVec 4) : (rqeErr w c s).units = s.units := rfl
@[simp] theorem rqeErr_kst (w : Who) (c : BitVec 4) : (rqeErr w c s).kst = s.kst := rfl
@[simp] theorem rqeErr_tmp (w : Who) (c : BitVec 4) : (rqeErr w c s).tmp = s.tmp := rfl
@[simp] theorem rqeErr_bat (w : Who) (c : BitVec 4) : (rqeErr w c s).bat = s.bat := rfl
@[simp] theorem rqeErr_lcs (w : Who) (c : BitVec 4) : (rqeErr w c s).lcs = s.lcs := rfl
@[simp] theorem rqeErr_own (w : Who) (c : BitVec 4) : (rqeErr w c s).own = s.own := rfl
@[simp] theorem rqeErr_par (w : Who) (c : BitVec 4) : (rqeErr w c s).par = s.par := rfl
@[simp] theorem rqeErr_glb (w : Who) (c : BitVec 4) : (rqeErr w c s).glb = s.glb := rfl
@[simp] theorem rqeErr_pwr (w : Who) (c : BitVec 4) : (rqeErr w c s).pwr = s.pwr := rfl
@[simp] theorem rqeErr_bst (w : Who) (c : BitVec 4) : (rqeErr w c s).bst = s.bst := rfl
@[simp] theorem rqeErr_tly (w : Who) (c : BitVec 4) : (rqeErr w c s).tly = s.tly := rfl
@[simp] theorem rqeErr_evc (w : Who) (c : BitVec 4) : (rqeErr w c s).evc = s.evc := rfl

@[simp] theorem mpuErr_pending (c : BitVec 4) : (mpuErr c s).pending = s.pending := rfl
@[simp] theorem mpuErr_clk (c : BitVec 4) : (mpuErr c s).clk = s.clk := rfl
@[simp] theorem mpuErr_rng (c : BitVec 4) : (mpuErr c s).rng = s.rng := rfl
@[simp] theorem mpuErr_csn (c : BitVec 4) : (mpuErr c s).csn = s.csn := rfl
@[simp] theorem mpuErr_out (c : BitVec 4) : (mpuErr c s).out = s.out := rfl
@[simp] theorem mpuErr_imem (c : BitVec 4) : (mpuErr c s).imem = s.imem := rfl
@[simp] theorem mpuErr_rwi (c : BitVec 4) : (mpuErr c s).rwi = s.rwi := rfl
@[simp] theorem mpuErr_pit (c : BitVec 4) : (mpuErr c s).pit = s.pit := rfl
@[simp] theorem mpuErr_rqe (c : BitVec 4) : (mpuErr c s).rqe = s.rqe := rfl
@[simp] theorem mpuErr_sch (c : BitVec 4) : (mpuErr c s).sch = s.sch := rfl
@[simp] theorem mpuErr_cmc (c : BitVec 4) : (mpuErr c s).cmc = s.cmc := rfl
@[simp] theorem mpuErr_sel (c : BitVec 4) : (mpuErr c s).sel = s.sel := rfl
@[simp] theorem mpuErr_dma (c : BitVec 4) : (mpuErr c s).dma = s.dma := rfl
@[simp] theorem mpuErr_mbx (c : BitVec 4) : (mpuErr c s).mbx = s.mbx := rfl
@[simp] theorem mpuErr_mbxErr (c : BitVec 4) : (mpuErr c s).mbxErr = s.mbxErr := rfl
@[simp] theorem mpuErr_caches (c : BitVec 4) : (mpuErr c s).caches = s.caches := rfl
@[simp] theorem mpuErr_units (c : BitVec 4) : (mpuErr c s).units = s.units := rfl
@[simp] theorem mpuErr_kst (c : BitVec 4) : (mpuErr c s).kst = s.kst := rfl
@[simp] theorem mpuErr_tmp (c : BitVec 4) : (mpuErr c s).tmp = s.tmp := rfl
@[simp] theorem mpuErr_bat (c : BitVec 4) : (mpuErr c s).bat = s.bat := rfl
@[simp] theorem mpuErr_lcs (c : BitVec 4) : (mpuErr c s).lcs = s.lcs := rfl
@[simp] theorem mpuErr_own (c : BitVec 4) : (mpuErr c s).own = s.own := rfl
@[simp] theorem mpuErr_par (c : BitVec 4) : (mpuErr c s).par = s.par := rfl
@[simp] theorem mpuErr_glb (c : BitVec 4) : (mpuErr c s).glb = s.glb := rfl
@[simp] theorem mpuErr_pwr (c : BitVec 4) : (mpuErr c s).pwr = s.pwr := rfl
@[simp] theorem mpuErr_bst (c : BitVec 4) : (mpuErr c s).bst = s.bst := rfl
@[simp] theorem mpuErr_tly (c : BitVec 4) : (mpuErr c s).tly = s.tly := rfl
@[simp] theorem mpuErr_evc (c : BitVec 4) : (mpuErr c s).evc = s.evc := rfl

@[simp] theorem parErr_pending (c : BitVec 4) : (parErr c s).pending = s.pending := rfl
@[simp] theorem parErr_clk (c : BitVec 4) : (parErr c s).clk = s.clk := rfl
@[simp] theorem parErr_rng (c : BitVec 4) : (parErr c s).rng = s.rng := rfl
@[simp] theorem parErr_csn (c : BitVec 4) : (parErr c s).csn = s.csn := rfl
@[simp] theorem parErr_out (c : BitVec 4) : (parErr c s).out = s.out := rfl
@[simp] theorem parErr_imem (c : BitVec 4) : (parErr c s).imem = s.imem := rfl
@[simp] theorem parErr_rwi (c : BitVec 4) : (parErr c s).rwi = s.rwi := rfl
@[simp] theorem parErr_pit (c : BitVec 4) : (parErr c s).pit = s.pit := rfl
@[simp] theorem parErr_rqe (c : BitVec 4) : (parErr c s).rqe = s.rqe := rfl
@[simp] theorem parErr_sch (c : BitVec 4) : (parErr c s).sch = s.sch := rfl
@[simp] theorem parErr_cmc (c : BitVec 4) : (parErr c s).cmc = s.cmc := rfl
@[simp] theorem parErr_sel (c : BitVec 4) : (parErr c s).sel = s.sel := rfl
@[simp] theorem parErr_dma (c : BitVec 4) : (parErr c s).dma = s.dma := rfl
@[simp] theorem parErr_mbx (c : BitVec 4) : (parErr c s).mbx = s.mbx := rfl
@[simp] theorem parErr_mbxErr (c : BitVec 4) : (parErr c s).mbxErr = s.mbxErr := rfl
@[simp] theorem parErr_mpu (c : BitVec 4) : (parErr c s).mpu = s.mpu := rfl
@[simp] theorem parErr_caches (c : BitVec 4) : (parErr c s).caches = s.caches := rfl
@[simp] theorem parErr_units (c : BitVec 4) : (parErr c s).units = s.units := rfl
@[simp] theorem parErr_kst (c : BitVec 4) : (parErr c s).kst = s.kst := rfl
@[simp] theorem parErr_tmp (c : BitVec 4) : (parErr c s).tmp = s.tmp := rfl
@[simp] theorem parErr_bat (c : BitVec 4) : (parErr c s).bat = s.bat := rfl
@[simp] theorem parErr_lcs (c : BitVec 4) : (parErr c s).lcs = s.lcs := rfl
@[simp] theorem parErr_own (c : BitVec 4) : (parErr c s).own = s.own := rfl
@[simp] theorem parErr_glb (c : BitVec 4) : (parErr c s).glb = s.glb := rfl
@[simp] theorem parErr_pwr (c : BitVec 4) : (parErr c s).pwr = s.pwr := rfl
@[simp] theorem parErr_bst (c : BitVec 4) : (parErr c s).bst = s.bst := rfl
@[simp] theorem parErr_tly (c : BitVec 4) : (parErr c s).tly = s.tly := rfl
@[simp] theorem parErr_evc (c : BitVec 4) : (parErr c s).evc = s.evc := rfl

@[simp] theorem cmcErr_pending (c : BitVec 4) : (cmcErr c s).pending = s.pending := rfl
@[simp] theorem cmcErr_clk (c : BitVec 4) : (cmcErr c s).clk = s.clk := rfl
@[simp] theorem cmcErr_rng (c : BitVec 4) : (cmcErr c s).rng = s.rng := rfl
@[simp] theorem cmcErr_csn (c : BitVec 4) : (cmcErr c s).csn = s.csn := rfl
@[simp] theorem cmcErr_out (c : BitVec 4) : (cmcErr c s).out = s.out := rfl
@[simp] theorem cmcErr_imem (c : BitVec 4) : (cmcErr c s).imem = s.imem := rfl
@[simp] theorem cmcErr_rwi (c : BitVec 4) : (cmcErr c s).rwi = s.rwi := rfl
@[simp] theorem cmcErr_pit (c : BitVec 4) : (cmcErr c s).pit = s.pit := rfl
@[simp] theorem cmcErr_rqe (c : BitVec 4) : (cmcErr c s).rqe = s.rqe := rfl
@[simp] theorem cmcErr_sch (c : BitVec 4) : (cmcErr c s).sch = s.sch := rfl
@[simp] theorem cmcErr_sel (c : BitVec 4) : (cmcErr c s).sel = s.sel := rfl
@[simp] theorem cmcErr_dma (c : BitVec 4) : (cmcErr c s).dma = s.dma := rfl
@[simp] theorem cmcErr_mbx (c : BitVec 4) : (cmcErr c s).mbx = s.mbx := rfl
@[simp] theorem cmcErr_mbxErr (c : BitVec 4) : (cmcErr c s).mbxErr = s.mbxErr := rfl
@[simp] theorem cmcErr_mpu (c : BitVec 4) : (cmcErr c s).mpu = s.mpu := rfl
@[simp] theorem cmcErr_caches (c : BitVec 4) : (cmcErr c s).caches = s.caches := rfl
@[simp] theorem cmcErr_units (c : BitVec 4) : (cmcErr c s).units = s.units := rfl
@[simp] theorem cmcErr_kst (c : BitVec 4) : (cmcErr c s).kst = s.kst := rfl
@[simp] theorem cmcErr_tmp (c : BitVec 4) : (cmcErr c s).tmp = s.tmp := rfl
@[simp] theorem cmcErr_bat (c : BitVec 4) : (cmcErr c s).bat = s.bat := rfl
@[simp] theorem cmcErr_lcs (c : BitVec 4) : (cmcErr c s).lcs = s.lcs := rfl
@[simp] theorem cmcErr_own (c : BitVec 4) : (cmcErr c s).own = s.own := rfl
@[simp] theorem cmcErr_par (c : BitVec 4) : (cmcErr c s).par = s.par := rfl
@[simp] theorem cmcErr_glb (c : BitVec 4) : (cmcErr c s).glb = s.glb := rfl
@[simp] theorem cmcErr_pwr (c : BitVec 4) : (cmcErr c s).pwr = s.pwr := rfl
@[simp] theorem cmcErr_bst (c : BitVec 4) : (cmcErr c s).bst = s.bst := rfl
@[simp] theorem cmcErr_tly (c : BitVec 4) : (cmcErr c s).tly = s.tly := rfl
@[simp] theorem cmcErr_evc (c : BitVec 4) : (cmcErr c s).evc = s.evc := rfl

@[simp] theorem mbxError_pending (w : Who) (m : Nat) (c : BitVec 4) : (mbxError w m c s).pending = s.pending := rfl
@[simp] theorem mbxError_clk (w : Who) (m : Nat) (c : BitVec 4) : (mbxError w m c s).clk = s.clk := rfl
@[simp] theorem mbxError_rng (w : Who) (m : Nat) (c : BitVec 4) : (mbxError w m c s).rng = s.rng := rfl
@[simp] theorem mbxError_csn (w : Who) (m : Nat) (c : BitVec 4) : (mbxError w m c s).csn = s.csn := rfl
@[simp] theorem mbxError_out (w : Who) (m : Nat) (c : BitVec 4) : (mbxError w m c s).out = s.out := rfl
@[simp] theorem mbxError_imem (w : Who) (m : Nat) (c : BitVec 4) : (mbxError w m c s).imem = s.imem := rfl
@[simp] theorem mbxError_rwi (w : Who) (m : Nat) (c : BitVec 4) : (mbxError w m c s).rwi = s.rwi := rfl
@[simp] theorem mbxError_pit (w : Who) (m : Nat) (c : BitVec 4) : (mbxError w m c s).pit = s.pit := rfl
@[simp] theorem mbxError_rqe (w : Who) (m : Nat) (c : BitVec 4) : (mbxError w m c s).rqe = s.rqe := rfl
@[simp] theorem mbxError_sch (w : Who) (m : Nat) (c : BitVec 4) : (mbxError w m c s).sch = s.sch := rfl
@[simp] theorem mbxError_cmc (w : Who) (m : Nat) (c : BitVec 4) : (mbxError w m c s).cmc = s.cmc := rfl
@[simp] theorem mbxError_sel (w : Who) (m : Nat) (c : BitVec 4) : (mbxError w m c s).sel = s.sel := rfl
@[simp] theorem mbxError_dma (w : Who) (m : Nat) (c : BitVec 4) : (mbxError w m c s).dma = s.dma := rfl
@[simp] theorem mbxError_mbx (w : Who) (m : Nat) (c : BitVec 4) : (mbxError w m c s).mbx = s.mbx := rfl
@[simp] theorem mbxError_mpu (w : Who) (m : Nat) (c : BitVec 4) : (mbxError w m c s).mpu = s.mpu := rfl
@[simp] theorem mbxError_caches (w : Who) (m : Nat) (c : BitVec 4) : (mbxError w m c s).caches = s.caches := rfl
@[simp] theorem mbxError_units (w : Who) (m : Nat) (c : BitVec 4) : (mbxError w m c s).units = s.units := rfl
@[simp] theorem mbxError_kst (w : Who) (m : Nat) (c : BitVec 4) : (mbxError w m c s).kst = s.kst := rfl
@[simp] theorem mbxError_tmp (w : Who) (m : Nat) (c : BitVec 4) : (mbxError w m c s).tmp = s.tmp := rfl
@[simp] theorem mbxError_bat (w : Who) (m : Nat) (c : BitVec 4) : (mbxError w m c s).bat = s.bat := rfl
@[simp] theorem mbxError_lcs (w : Who) (m : Nat) (c : BitVec 4) : (mbxError w m c s).lcs = s.lcs := rfl
@[simp] theorem mbxError_own (w : Who) (m : Nat) (c : BitVec 4) : (mbxError w m c s).own = s.own := rfl
@[simp] theorem mbxError_par (w : Who) (m : Nat) (c : BitVec 4) : (mbxError w m c s).par = s.par := rfl
@[simp] theorem mbxError_glb (w : Who) (m : Nat) (c : BitVec 4) : (mbxError w m c s).glb = s.glb := rfl
@[simp] theorem mbxError_pwr (w : Who) (m : Nat) (c : BitVec 4) : (mbxError w m c s).pwr = s.pwr := rfl
@[simp] theorem mbxError_bst (w : Who) (m : Nat) (c : BitVec 4) : (mbxError w m c s).bst = s.bst := rfl
@[simp] theorem mbxError_tly (w : Who) (m : Nat) (c : BitVec 4) : (mbxError w m c s).tly = s.tly := rfl
@[simp] theorem mbxError_evc (w : Who) (m : Nat) (c : BitVec 4) : (mbxError w m c s).evc = s.evc := rfl

@[simp] theorem updCtx_pending (k : Nat) (f : Ctx → Ctx) : (s.updCtx k f).pending = s.pending := rfl
@[simp] theorem updCtx_clk (k : Nat) (f : Ctx → Ctx) : (s.updCtx k f).clk = s.clk := rfl
@[simp] theorem updCtx_rng (k : Nat) (f : Ctx → Ctx) : (s.updCtx k f).rng = s.rng := rfl
@[simp] theorem updCtx_csn (k : Nat) (f : Ctx → Ctx) : (s.updCtx k f).csn = s.csn := rfl
@[simp] theorem updCtx_out (k : Nat) (f : Ctx → Ctx) : (s.updCtx k f).out = s.out := rfl
@[simp] theorem updCtx_imem (k : Nat) (f : Ctx → Ctx) : (s.updCtx k f).imem = s.imem := rfl
@[simp] theorem updCtx_rwi (k : Nat) (f : Ctx → Ctx) : (s.updCtx k f).rwi = s.rwi := rfl
@[simp] theorem updCtx_pit (k : Nat) (f : Ctx → Ctx) : (s.updCtx k f).pit = s.pit := rfl
@[simp] theorem updCtx_rqe (k : Nat) (f : Ctx → Ctx) : (s.updCtx k f).rqe = s.rqe := rfl
@[simp] theorem updCtx_sch (k : Nat) (f : Ctx → Ctx) : (s.updCtx k f).sch = s.sch := rfl
@[simp] theorem updCtx_sel (k : Nat) (f : Ctx → Ctx) : (s.updCtx k f).sel = s.sel := rfl
@[simp] theorem updCtx_dma (k : Nat) (f : Ctx → Ctx) : (s.updCtx k f).dma = s.dma := rfl
@[simp] theorem updCtx_mbx (k : Nat) (f : Ctx → Ctx) : (s.updCtx k f).mbx = s.mbx := rfl
@[simp] theorem updCtx_mbxErr (k : Nat) (f : Ctx → Ctx) : (s.updCtx k f).mbxErr = s.mbxErr := rfl
@[simp] theorem updCtx_mpu (k : Nat) (f : Ctx → Ctx) : (s.updCtx k f).mpu = s.mpu := rfl
@[simp] theorem updCtx_caches (k : Nat) (f : Ctx → Ctx) : (s.updCtx k f).caches = s.caches := rfl
@[simp] theorem updCtx_units (k : Nat) (f : Ctx → Ctx) : (s.updCtx k f).units = s.units := rfl
@[simp] theorem updCtx_kst (k : Nat) (f : Ctx → Ctx) : (s.updCtx k f).kst = s.kst := rfl
@[simp] theorem updCtx_tmp (k : Nat) (f : Ctx → Ctx) : (s.updCtx k f).tmp = s.tmp := rfl
@[simp] theorem updCtx_bat (k : Nat) (f : Ctx → Ctx) : (s.updCtx k f).bat = s.bat := rfl
@[simp] theorem updCtx_lcs (k : Nat) (f : Ctx → Ctx) : (s.updCtx k f).lcs = s.lcs := rfl
@[simp] theorem updCtx_own (k : Nat) (f : Ctx → Ctx) : (s.updCtx k f).own = s.own := rfl
@[simp] theorem updCtx_par (k : Nat) (f : Ctx → Ctx) : (s.updCtx k f).par = s.par := rfl
@[simp] theorem updCtx_glb (k : Nat) (f : Ctx → Ctx) : (s.updCtx k f).glb = s.glb := rfl
@[simp] theorem updCtx_pwr (k : Nat) (f : Ctx → Ctx) : (s.updCtx k f).pwr = s.pwr := rfl
@[simp] theorem updCtx_bst (k : Nat) (f : Ctx → Ctx) : (s.updCtx k f).bst = s.bst := rfl
@[simp] theorem updCtx_tly (k : Nat) (f : Ctx → Ctx) : (s.updCtx k f).tly = s.tly := rfl
@[simp] theorem updCtx_evc (k : Nat) (f : Ctx → Ctx) : (s.updCtx k f).evc = s.evc := rfl

@[simp] theorem updQueue_pending (q : Nat) (f : Queue → Queue) : (s.updQueue q f).pending = s.pending := rfl
@[simp] theorem updQueue_clk (q : Nat) (f : Queue → Queue) : (s.updQueue q f).clk = s.clk := rfl
@[simp] theorem updQueue_rng (q : Nat) (f : Queue → Queue) : (s.updQueue q f).rng = s.rng := rfl
@[simp] theorem updQueue_csn (q : Nat) (f : Queue → Queue) : (s.updQueue q f).csn = s.csn := rfl
@[simp] theorem updQueue_out (q : Nat) (f : Queue → Queue) : (s.updQueue q f).out = s.out := rfl
@[simp] theorem updQueue_imem (q : Nat) (f : Queue → Queue) : (s.updQueue q f).imem = s.imem := rfl
@[simp] theorem updQueue_rwi (q : Nat) (f : Queue → Queue) : (s.updQueue q f).rwi = s.rwi := rfl
@[simp] theorem updQueue_pit (q : Nat) (f : Queue → Queue) : (s.updQueue q f).pit = s.pit := rfl
@[simp] theorem updQueue_rqe (q : Nat) (f : Queue → Queue) : (s.updQueue q f).rqe = s.rqe := rfl
@[simp] theorem updQueue_cmc (q : Nat) (f : Queue → Queue) : (s.updQueue q f).cmc = s.cmc := rfl
@[simp] theorem updQueue_sel (q : Nat) (f : Queue → Queue) : (s.updQueue q f).sel = s.sel := rfl
@[simp] theorem updQueue_dma (q : Nat) (f : Queue → Queue) : (s.updQueue q f).dma = s.dma := rfl
@[simp] theorem updQueue_mbx (q : Nat) (f : Queue → Queue) : (s.updQueue q f).mbx = s.mbx := rfl
@[simp] theorem updQueue_mbxErr (q : Nat) (f : Queue → Queue) : (s.updQueue q f).mbxErr = s.mbxErr := rfl
@[simp] theorem updQueue_mpu (q : Nat) (f : Queue → Queue) : (s.updQueue q f).mpu = s.mpu := rfl
@[simp] theorem updQueue_caches (q : Nat) (f : Queue → Queue) : (s.updQueue q f).caches = s.caches := rfl
@[simp] theorem updQueue_units (q : Nat) (f : Queue → Queue) : (s.updQueue q f).units = s.units := rfl
@[simp] theorem updQueue_kst (q : Nat) (f : Queue → Queue) : (s.updQueue q f).kst = s.kst := rfl
@[simp] theorem updQueue_tmp (q : Nat) (f : Queue → Queue) : (s.updQueue q f).tmp = s.tmp := rfl
@[simp] theorem updQueue_bat (q : Nat) (f : Queue → Queue) : (s.updQueue q f).bat = s.bat := rfl
@[simp] theorem updQueue_lcs (q : Nat) (f : Queue → Queue) : (s.updQueue q f).lcs = s.lcs := rfl
@[simp] theorem updQueue_own (q : Nat) (f : Queue → Queue) : (s.updQueue q f).own = s.own := rfl
@[simp] theorem updQueue_par (q : Nat) (f : Queue → Queue) : (s.updQueue q f).par = s.par := rfl
@[simp] theorem updQueue_glb (q : Nat) (f : Queue → Queue) : (s.updQueue q f).glb = s.glb := rfl
@[simp] theorem updQueue_pwr (q : Nat) (f : Queue → Queue) : (s.updQueue q f).pwr = s.pwr := rfl
@[simp] theorem updQueue_bst (q : Nat) (f : Queue → Queue) : (s.updQueue q f).bst = s.bst := rfl
@[simp] theorem updQueue_tly (q : Nat) (f : Queue → Queue) : (s.updQueue q f).tly = s.tly := rfl
@[simp] theorem updQueue_evc (q : Nat) (f : Queue → Queue) : (s.updQueue q f).evc = s.evc := rfl

@[simp] theorem updSource_pending (k : Nat) (f : EntSource → EntSource) : (s.updSource k f).pending = s.pending := rfl
@[simp] theorem updSource_clk (k : Nat) (f : EntSource → EntSource) : (s.updSource k f).clk = s.clk := rfl
@[simp] theorem updSource_rng (k : Nat) (f : EntSource → EntSource) : (s.updSource k f).rng = s.rng := rfl
@[simp] theorem updSource_csn (k : Nat) (f : EntSource → EntSource) : (s.updSource k f).csn = s.csn := rfl
@[simp] theorem updSource_out (k : Nat) (f : EntSource → EntSource) : (s.updSource k f).out = s.out := rfl
@[simp] theorem updSource_imem (k : Nat) (f : EntSource → EntSource) : (s.updSource k f).imem = s.imem := rfl
@[simp] theorem updSource_rwi (k : Nat) (f : EntSource → EntSource) : (s.updSource k f).rwi = s.rwi := rfl
@[simp] theorem updSource_pit (k : Nat) (f : EntSource → EntSource) : (s.updSource k f).pit = s.pit := rfl
@[simp] theorem updSource_rqe (k : Nat) (f : EntSource → EntSource) : (s.updSource k f).rqe = s.rqe := rfl
@[simp] theorem updSource_sch (k : Nat) (f : EntSource → EntSource) : (s.updSource k f).sch = s.sch := rfl
@[simp] theorem updSource_cmc (k : Nat) (f : EntSource → EntSource) : (s.updSource k f).cmc = s.cmc := rfl
@[simp] theorem updSource_sel (k : Nat) (f : EntSource → EntSource) : (s.updSource k f).sel = s.sel := rfl
@[simp] theorem updSource_dma (k : Nat) (f : EntSource → EntSource) : (s.updSource k f).dma = s.dma := rfl
@[simp] theorem updSource_mbx (k : Nat) (f : EntSource → EntSource) : (s.updSource k f).mbx = s.mbx := rfl
@[simp] theorem updSource_mbxErr (k : Nat) (f : EntSource → EntSource) : (s.updSource k f).mbxErr = s.mbxErr := rfl
@[simp] theorem updSource_mpu (k : Nat) (f : EntSource → EntSource) : (s.updSource k f).mpu = s.mpu := rfl
@[simp] theorem updSource_caches (k : Nat) (f : EntSource → EntSource) : (s.updSource k f).caches = s.caches := rfl
@[simp] theorem updSource_kst (k : Nat) (f : EntSource → EntSource) : (s.updSource k f).kst = s.kst := rfl
@[simp] theorem updSource_tmp (k : Nat) (f : EntSource → EntSource) : (s.updSource k f).tmp = s.tmp := rfl
@[simp] theorem updSource_bat (k : Nat) (f : EntSource → EntSource) : (s.updSource k f).bat = s.bat := rfl
@[simp] theorem updSource_lcs (k : Nat) (f : EntSource → EntSource) : (s.updSource k f).lcs = s.lcs := rfl
@[simp] theorem updSource_own (k : Nat) (f : EntSource → EntSource) : (s.updSource k f).own = s.own := rfl
@[simp] theorem updSource_par (k : Nat) (f : EntSource → EntSource) : (s.updSource k f).par = s.par := rfl
@[simp] theorem updSource_glb (k : Nat) (f : EntSource → EntSource) : (s.updSource k f).glb = s.glb := rfl
@[simp] theorem updSource_pwr (k : Nat) (f : EntSource → EntSource) : (s.updSource k f).pwr = s.pwr := rfl
@[simp] theorem updSource_bst (k : Nat) (f : EntSource → EntSource) : (s.updSource k f).bst = s.bst := rfl
@[simp] theorem updSource_tly (k : Nat) (f : EntSource → EntSource) : (s.updSource k f).tly = s.tly := rfl
@[simp] theorem updSource_evc (k : Nat) (f : EntSource → EntSource) : (s.updSource k f).evc = s.evc := rfl

@[simp] theorem updEngine_pending (lattice : Bool) (k : Nat) (f : FuncUnit → FuncUnit) : (s.updEngine lattice k f).pending = s.pending := by cases lattice <;> rfl
@[simp] theorem updEngine_clk (lattice : Bool) (k : Nat) (f : FuncUnit → FuncUnit) : (s.updEngine lattice k f).clk = s.clk := by cases lattice <;> rfl
@[simp] theorem updEngine_rng (lattice : Bool) (k : Nat) (f : FuncUnit → FuncUnit) : (s.updEngine lattice k f).rng = s.rng := by cases lattice <;> rfl
@[simp] theorem updEngine_csn (lattice : Bool) (k : Nat) (f : FuncUnit → FuncUnit) : (s.updEngine lattice k f).csn = s.csn := by cases lattice <;> rfl
@[simp] theorem updEngine_out (lattice : Bool) (k : Nat) (f : FuncUnit → FuncUnit) : (s.updEngine lattice k f).out = s.out := by cases lattice <;> rfl
@[simp] theorem updEngine_imem (lattice : Bool) (k : Nat) (f : FuncUnit → FuncUnit) : (s.updEngine lattice k f).imem = s.imem := by cases lattice <;> rfl
@[simp] theorem updEngine_rwi (lattice : Bool) (k : Nat) (f : FuncUnit → FuncUnit) : (s.updEngine lattice k f).rwi = s.rwi := by cases lattice <;> rfl
@[simp] theorem updEngine_pit (lattice : Bool) (k : Nat) (f : FuncUnit → FuncUnit) : (s.updEngine lattice k f).pit = s.pit := by cases lattice <;> rfl
@[simp] theorem updEngine_rqe (lattice : Bool) (k : Nat) (f : FuncUnit → FuncUnit) : (s.updEngine lattice k f).rqe = s.rqe := by cases lattice <;> rfl
@[simp] theorem updEngine_sch (lattice : Bool) (k : Nat) (f : FuncUnit → FuncUnit) : (s.updEngine lattice k f).sch = s.sch := by cases lattice <;> rfl
@[simp] theorem updEngine_cmc (lattice : Bool) (k : Nat) (f : FuncUnit → FuncUnit) : (s.updEngine lattice k f).cmc = s.cmc := by cases lattice <;> rfl
@[simp] theorem updEngine_sel (lattice : Bool) (k : Nat) (f : FuncUnit → FuncUnit) : (s.updEngine lattice k f).sel = s.sel := by cases lattice <;> rfl
@[simp] theorem updEngine_dma (lattice : Bool) (k : Nat) (f : FuncUnit → FuncUnit) : (s.updEngine lattice k f).dma = s.dma := by cases lattice <;> rfl
@[simp] theorem updEngine_mbx (lattice : Bool) (k : Nat) (f : FuncUnit → FuncUnit) : (s.updEngine lattice k f).mbx = s.mbx := by cases lattice <;> rfl
@[simp] theorem updEngine_mbxErr (lattice : Bool) (k : Nat) (f : FuncUnit → FuncUnit) : (s.updEngine lattice k f).mbxErr = s.mbxErr := by cases lattice <;> rfl
@[simp] theorem updEngine_mpu (lattice : Bool) (k : Nat) (f : FuncUnit → FuncUnit) : (s.updEngine lattice k f).mpu = s.mpu := by cases lattice <;> rfl
@[simp] theorem updEngine_caches (lattice : Bool) (k : Nat) (f : FuncUnit → FuncUnit) : (s.updEngine lattice k f).caches = s.caches := by cases lattice <;> rfl
@[simp] theorem updEngine_kst (lattice : Bool) (k : Nat) (f : FuncUnit → FuncUnit) : (s.updEngine lattice k f).kst = s.kst := by cases lattice <;> rfl
@[simp] theorem updEngine_tmp (lattice : Bool) (k : Nat) (f : FuncUnit → FuncUnit) : (s.updEngine lattice k f).tmp = s.tmp := by cases lattice <;> rfl
@[simp] theorem updEngine_bat (lattice : Bool) (k : Nat) (f : FuncUnit → FuncUnit) : (s.updEngine lattice k f).bat = s.bat := by cases lattice <;> rfl
@[simp] theorem updEngine_lcs (lattice : Bool) (k : Nat) (f : FuncUnit → FuncUnit) : (s.updEngine lattice k f).lcs = s.lcs := by cases lattice <;> rfl
@[simp] theorem updEngine_own (lattice : Bool) (k : Nat) (f : FuncUnit → FuncUnit) : (s.updEngine lattice k f).own = s.own := by cases lattice <;> rfl
@[simp] theorem updEngine_par (lattice : Bool) (k : Nat) (f : FuncUnit → FuncUnit) : (s.updEngine lattice k f).par = s.par := by cases lattice <;> rfl
@[simp] theorem updEngine_glb (lattice : Bool) (k : Nat) (f : FuncUnit → FuncUnit) : (s.updEngine lattice k f).glb = s.glb := by cases lattice <;> rfl
@[simp] theorem updEngine_pwr (lattice : Bool) (k : Nat) (f : FuncUnit → FuncUnit) : (s.updEngine lattice k f).pwr = s.pwr := by cases lattice <;> rfl
@[simp] theorem updEngine_bst (lattice : Bool) (k : Nat) (f : FuncUnit → FuncUnit) : (s.updEngine lattice k f).bst = s.bst := by cases lattice <;> rfl
@[simp] theorem updEngine_tly (lattice : Bool) (k : Nat) (f : FuncUnit → FuncUnit) : (s.updEngine lattice k f).tly = s.tly := by cases lattice <;> rfl
@[simp] theorem updEngine_evc (lattice : Bool) (k : Nat) (f : FuncUnit → FuncUnit) : (s.updEngine lattice k f).evc = s.evc := by cases lattice <;> rfl

@[simp] theorem setKbc_pending (p i : Nat) (v : KbcEntry) : (s.setKbc p i v).pending = s.pending := rfl
@[simp] theorem setKbc_clk (p i : Nat) (v : KbcEntry) : (s.setKbc p i v).clk = s.clk := rfl
@[simp] theorem setKbc_rng (p i : Nat) (v : KbcEntry) : (s.setKbc p i v).rng = s.rng := rfl
@[simp] theorem setKbc_csn (p i : Nat) (v : KbcEntry) : (s.setKbc p i v).csn = s.csn := rfl
@[simp] theorem setKbc_out (p i : Nat) (v : KbcEntry) : (s.setKbc p i v).out = s.out := rfl
@[simp] theorem setKbc_imem (p i : Nat) (v : KbcEntry) : (s.setKbc p i v).imem = s.imem := rfl
@[simp] theorem setKbc_rwi (p i : Nat) (v : KbcEntry) : (s.setKbc p i v).rwi = s.rwi := rfl
@[simp] theorem setKbc_pit (p i : Nat) (v : KbcEntry) : (s.setKbc p i v).pit = s.pit := rfl
@[simp] theorem setKbc_rqe (p i : Nat) (v : KbcEntry) : (s.setKbc p i v).rqe = s.rqe := rfl
@[simp] theorem setKbc_sch (p i : Nat) (v : KbcEntry) : (s.setKbc p i v).sch = s.sch := rfl
@[simp] theorem setKbc_cmc (p i : Nat) (v : KbcEntry) : (s.setKbc p i v).cmc = s.cmc := rfl
@[simp] theorem setKbc_sel (p i : Nat) (v : KbcEntry) : (s.setKbc p i v).sel = s.sel := rfl
@[simp] theorem setKbc_dma (p i : Nat) (v : KbcEntry) : (s.setKbc p i v).dma = s.dma := rfl
@[simp] theorem setKbc_mbx (p i : Nat) (v : KbcEntry) : (s.setKbc p i v).mbx = s.mbx := rfl
@[simp] theorem setKbc_mbxErr (p i : Nat) (v : KbcEntry) : (s.setKbc p i v).mbxErr = s.mbxErr := rfl
@[simp] theorem setKbc_mpu (p i : Nat) (v : KbcEntry) : (s.setKbc p i v).mpu = s.mpu := rfl
@[simp] theorem setKbc_units (p i : Nat) (v : KbcEntry) : (s.setKbc p i v).units = s.units := rfl
@[simp] theorem setKbc_kst (p i : Nat) (v : KbcEntry) : (s.setKbc p i v).kst = s.kst := rfl
@[simp] theorem setKbc_tmp (p i : Nat) (v : KbcEntry) : (s.setKbc p i v).tmp = s.tmp := rfl
@[simp] theorem setKbc_bat (p i : Nat) (v : KbcEntry) : (s.setKbc p i v).bat = s.bat := rfl
@[simp] theorem setKbc_lcs (p i : Nat) (v : KbcEntry) : (s.setKbc p i v).lcs = s.lcs := rfl
@[simp] theorem setKbc_own (p i : Nat) (v : KbcEntry) : (s.setKbc p i v).own = s.own := rfl
@[simp] theorem setKbc_par (p i : Nat) (v : KbcEntry) : (s.setKbc p i v).par = s.par := rfl
@[simp] theorem setKbc_glb (p i : Nat) (v : KbcEntry) : (s.setKbc p i v).glb = s.glb := rfl
@[simp] theorem setKbc_pwr (p i : Nat) (v : KbcEntry) : (s.setKbc p i v).pwr = s.pwr := rfl
@[simp] theorem setKbc_bst (p i : Nat) (v : KbcEntry) : (s.setKbc p i v).bst = s.bst := rfl
@[simp] theorem setKbc_tly (p i : Nat) (v : KbcEntry) : (s.setKbc p i v).tly = s.tly := rfl
@[simp] theorem setKbc_evc (p i : Nat) (v : KbcEntry) : (s.setKbc p i v).evc = s.evc := rfl

@[simp] theorem setDkc_pending (p i : Nat) (v : DkcEntry) : (s.setDkc p i v).pending = s.pending := rfl
@[simp] theorem setDkc_clk (p i : Nat) (v : DkcEntry) : (s.setDkc p i v).clk = s.clk := rfl
@[simp] theorem setDkc_rng (p i : Nat) (v : DkcEntry) : (s.setDkc p i v).rng = s.rng := rfl
@[simp] theorem setDkc_csn (p i : Nat) (v : DkcEntry) : (s.setDkc p i v).csn = s.csn := rfl
@[simp] theorem setDkc_out (p i : Nat) (v : DkcEntry) : (s.setDkc p i v).out = s.out := rfl
@[simp] theorem setDkc_imem (p i : Nat) (v : DkcEntry) : (s.setDkc p i v).imem = s.imem := rfl
@[simp] theorem setDkc_rwi (p i : Nat) (v : DkcEntry) : (s.setDkc p i v).rwi = s.rwi := rfl
@[simp] theorem setDkc_pit (p i : Nat) (v : DkcEntry) : (s.setDkc p i v).pit = s.pit := rfl
@[simp] theorem setDkc_rqe (p i : Nat) (v : DkcEntry) : (s.setDkc p i v).rqe = s.rqe := rfl
@[simp] theorem setDkc_sch (p i : Nat) (v : DkcEntry) : (s.setDkc p i v).sch = s.sch := rfl
@[simp] theorem setDkc_cmc (p i : Nat) (v : DkcEntry) : (s.setDkc p i v).cmc = s.cmc := rfl
@[simp] theorem setDkc_sel (p i : Nat) (v : DkcEntry) : (s.setDkc p i v).sel = s.sel := rfl
@[simp] theorem setDkc_dma (p i : Nat) (v : DkcEntry) : (s.setDkc p i v).dma = s.dma := rfl
@[simp] theorem setDkc_mbx (p i : Nat) (v : DkcEntry) : (s.setDkc p i v).mbx = s.mbx := rfl
@[simp] theorem setDkc_mbxErr (p i : Nat) (v : DkcEntry) : (s.setDkc p i v).mbxErr = s.mbxErr := rfl
@[simp] theorem setDkc_mpu (p i : Nat) (v : DkcEntry) : (s.setDkc p i v).mpu = s.mpu := rfl
@[simp] theorem setDkc_units (p i : Nat) (v : DkcEntry) : (s.setDkc p i v).units = s.units := rfl
@[simp] theorem setDkc_kst (p i : Nat) (v : DkcEntry) : (s.setDkc p i v).kst = s.kst := rfl
@[simp] theorem setDkc_tmp (p i : Nat) (v : DkcEntry) : (s.setDkc p i v).tmp = s.tmp := rfl
@[simp] theorem setDkc_bat (p i : Nat) (v : DkcEntry) : (s.setDkc p i v).bat = s.bat := rfl
@[simp] theorem setDkc_lcs (p i : Nat) (v : DkcEntry) : (s.setDkc p i v).lcs = s.lcs := rfl
@[simp] theorem setDkc_own (p i : Nat) (v : DkcEntry) : (s.setDkc p i v).own = s.own := rfl
@[simp] theorem setDkc_par (p i : Nat) (v : DkcEntry) : (s.setDkc p i v).par = s.par := rfl
@[simp] theorem setDkc_glb (p i : Nat) (v : DkcEntry) : (s.setDkc p i v).glb = s.glb := rfl
@[simp] theorem setDkc_pwr (p i : Nat) (v : DkcEntry) : (s.setDkc p i v).pwr = s.pwr := rfl
@[simp] theorem setDkc_bst (p i : Nat) (v : DkcEntry) : (s.setDkc p i v).bst = s.bst := rfl
@[simp] theorem setDkc_tly (p i : Nat) (v : DkcEntry) : (s.setDkc p i v).tly = s.tly := rfl
@[simp] theorem setDkc_evc (p i : Nat) (v : DkcEntry) : (s.setDkc p i v).evc = s.evc := rfl

end Sys2Proof.Machine
end

