-- ==== Sys2Proof/Laws/Frames.lean ====
section
/-! SUPPORT. What each shared operation can change: for every other part of the state one lemma, so that no proof unfolds the operation. -/

namespace Sys2Proof.Machine

@[simp] theorem msixSend_pending (port : Port) (fn : BitVec 7) (vec : BitVec 11) (s : State) : (msixSend port fn vec s).pending = s.pending := by
  simp only [msixSend]
  repeat' split
  all_goals simp
@[simp] theorem msixSend_clk (port : Port) (fn : BitVec 7) (vec : BitVec 11) (s : State) : (msixSend port fn vec s).clk = s.clk := by
  simp only [msixSend]
  repeat' split
  all_goals simp
@[simp] theorem msixSend_rng (port : Port) (fn : BitVec 7) (vec : BitVec 11) (s : State) : (msixSend port fn vec s).rng = s.rng := by
  simp only [msixSend]
  repeat' split
  all_goals simp
@[simp] theorem msixSend_csn (port : Port) (fn : BitVec 7) (vec : BitVec 11) (s : State) : (msixSend port fn vec s).csn = s.csn := by
  simp only [msixSend]
  repeat' split
  all_goals simp
@[simp] theorem msixSend_imem (port : Port) (fn : BitVec 7) (vec : BitVec 11) (s : State) : (msixSend port fn vec s).imem = s.imem := by
  simp only [msixSend]
  repeat' split
  all_goals simp
@[simp] theorem msixSend_rwi (port : Port) (fn : BitVec 7) (vec : BitVec 11) (s : State) : (msixSend port fn vec s).rwi = s.rwi := by
  simp only [msixSend]
  repeat' split
  all_goals simp
@[simp] theorem msixSend_pit (port : Port) (fn : BitVec 7) (vec : BitVec 11) (s : State) : (msixSend port fn vec s).pit = s.pit := by
  simp only [msixSend]
  repeat' split
  all_goals simp
@[simp] theorem msixSend_sch (port : Port) (fn : BitVec 7) (vec : BitVec 11) (s : State) : (msixSend port fn vec s).sch = s.sch := by
  simp only [msixSend]
  repeat' split
  all_goals simp
@[simp] theorem msixSend_cmc (port : Port) (fn : BitVec 7) (vec : BitVec 11) (s : State) : (msixSend port fn vec s).cmc = s.cmc := by
  simp only [msixSend]
  repeat' split
  all_goals simp
@[simp] theorem msixSend_sel (port : Port) (fn : BitVec 7) (vec : BitVec 11) (s : State) : (msixSend port fn vec s).sel = s.sel := by
  simp only [msixSend]
  repeat' split
  all_goals simp
@[simp] theorem msixSend_dma (port : Port) (fn : BitVec 7) (vec : BitVec 11) (s : State) : (msixSend port fn vec s).dma = s.dma := by
  simp only [msixSend]
  repeat' split
  all_goals simp
@[simp] theorem msixSend_mbx (port : Port) (fn : BitVec 7) (vec : BitVec 11) (s : State) : (msixSend port fn vec s).mbx = s.mbx := by
  simp only [msixSend]
  repeat' split
  all_goals simp
@[simp] theorem msixSend_mbxErr (port : Port) (fn : BitVec 7) (vec : BitVec 11) (s : State) : (msixSend port fn vec s).mbxErr = s.mbxErr := by
  simp only [msixSend]
  repeat' split
  all_goals simp
@[simp] theorem msixSend_mpu (port : Port) (fn : BitVec 7) (vec : BitVec 11) (s : State) : (msixSend port fn vec s).mpu = s.mpu := by
  simp only [msixSend]
  repeat' split
  all_goals simp
@[simp] theorem msixSend_caches (port : Port) (fn : BitVec 7) (vec : BitVec 11) (s : State) : (msixSend port fn vec s).caches = s.caches := by
  simp only [msixSend]
  repeat' split
  all_goals simp
@[simp] theorem msixSend_units (port : Port) (fn : BitVec 7) (vec : BitVec 11) (s : State) : (msixSend port fn vec s).units = s.units := by
  simp only [msixSend]
  repeat' split
  all_goals simp
@[simp] theorem msixSend_kst (port : Port) (fn : BitVec 7) (vec : BitVec 11) (s : State) : (msixSend port fn vec s).kst = s.kst := by
  simp only [msixSend]
  repeat' split
  all_goals simp
@[simp] theorem msixSend_tmp (port : Port) (fn : BitVec 7) (vec : BitVec 11) (s : State) : (msixSend port fn vec s).tmp = s.tmp := by
  simp only [msixSend]
  repeat' split
  all_goals simp
@[simp] theorem msixSend_bat (port : Port) (fn : BitVec 7) (vec : BitVec 11) (s : State) : (msixSend port fn vec s).bat = s.bat := by
  simp only [msixSend]
  repeat' split
  all_goals simp
@[simp] theorem msixSend_lcs (port : Port) (fn : BitVec 7) (vec : BitVec 11) (s : State) : (msixSend port fn vec s).lcs = s.lcs := by
  simp only [msixSend]
  repeat' split
  all_goals simp
@[simp] theorem msixSend_own (port : Port) (fn : BitVec 7) (vec : BitVec 11) (s : State) : (msixSend port fn vec s).own = s.own := by
  simp only [msixSend]
  repeat' split
  all_goals simp
@[simp] theorem msixSend_par (port : Port) (fn : BitVec 7) (vec : BitVec 11) (s : State) : (msixSend port fn vec s).par = s.par := by
  simp only [msixSend]
  repeat' split
  all_goals simp
@[simp] theorem msixSend_glb (port : Port) (fn : BitVec 7) (vec : BitVec 11) (s : State) : (msixSend port fn vec s).glb = s.glb := by
  simp only [msixSend]
  repeat' split
  all_goals simp
@[simp] theorem msixSend_pwr (port : Port) (fn : BitVec 7) (vec : BitVec 11) (s : State) : (msixSend port fn vec s).pwr = s.pwr := by
  simp only [msixSend]
  repeat' split
  all_goals simp
@[simp] theorem msixSend_bst (port : Port) (fn : BitVec 7) (vec : BitVec 11) (s : State) : (msixSend port fn vec s).bst = s.bst := by
  simp only [msixSend]
  repeat' split
  all_goals simp
@[simp] theorem msixSend_tly (port : Port) (fn : BitVec 7) (vec : BitVec 11) (s : State) : (msixSend port fn vec s).tly = s.tly := by
  simp only [msixSend]
  repeat' split
  all_goals simp
@[simp] theorem msixSend_evc (port : Port) (fn : BitVec 7) (vec : BitVec 11) (s : State) : (msixSend port fn vec s).evc = s.evc := by
  simp only [msixSend]
  repeat' split
  all_goals simp
@[simp] theorem raiseAt_pending (d n : Nat) (s : State) : (raiseAt d n s).pending = s.pending := by
  simp only [raiseAt]
  repeat' split
  all_goals simp
@[simp] theorem raiseAt_clk (d n : Nat) (s : State) : (raiseAt d n s).clk = s.clk := by
  simp only [raiseAt]
  repeat' split
  all_goals simp
@[simp] theorem raiseAt_rng (d n : Nat) (s : State) : (raiseAt d n s).rng = s.rng := by
  simp only [raiseAt]
  repeat' split
  all_goals simp
@[simp] theorem raiseAt_csn (d n : Nat) (s : State) : (raiseAt d n s).csn = s.csn := by
  simp only [raiseAt]
  repeat' split
  all_goals simp
@[simp] theorem raiseAt_out (d n : Nat) (s : State) : (raiseAt d n s).out = s.out := by
  simp only [raiseAt]
  repeat' split
  all_goals simp
@[simp] theorem raiseAt_imem (d n : Nat) (s : State) : (raiseAt d n s).imem = s.imem := by
  simp only [raiseAt]
  repeat' split
  all_goals simp
@[simp] theorem raiseAt_rwi (d n : Nat) (s : State) : (raiseAt d n s).rwi = s.rwi := by
  simp only [raiseAt]
  repeat' split
  all_goals simp
@[simp] theorem raiseAt_pit (d n : Nat) (s : State) : (raiseAt d n s).pit = s.pit := by
  simp only [raiseAt]
  repeat' split
  all_goals simp
@[simp] theorem raiseAt_rqe (d n : Nat) (s : State) : (raiseAt d n s).rqe = s.rqe := by
  simp only [raiseAt]
  repeat' split
  all_goals simp
@[simp] theorem raiseAt_sch (d n : Nat) (s : State) : (raiseAt d n s).sch = s.sch := by
  simp only [raiseAt]
  repeat' split
  all_goals simp
@[simp] theorem raiseAt_cmc (d n : Nat) (s : State) : (raiseAt d n s).cmc = s.cmc := by
  simp only [raiseAt]
  repeat' split
  all_goals simp
@[simp] theorem raiseAt_sel (d n : Nat) (s : State) : (raiseAt d n s).sel = s.sel := by
  simp only [raiseAt]
  repeat' split
  all_goals simp
@[simp] theorem raiseAt_dma (d n : Nat) (s : State) : (raiseAt d n s).dma = s.dma := by
  simp only [raiseAt]
  repeat' split
  all_goals simp
@[simp] theorem raiseAt_mbx (d n : Nat) (s : State) : (raiseAt d n s).mbx = s.mbx := by
  simp only [raiseAt]
  repeat' split
  all_goals simp
@[simp] theorem raiseAt_mbxErr (d n : Nat) (s : State) : (raiseAt d n s).mbxErr = s.mbxErr := by
  simp only [raiseAt]
  repeat' split
  all_goals simp
@[simp] theorem raiseAt_mpu (d n : Nat) (s : State) : (raiseAt d n s).mpu = s.mpu := by
  simp only [raiseAt]
  repeat' split
  all_goals simp
@[simp] theorem raiseAt_caches (d n : Nat) (s : State) : (raiseAt d n s).caches = s.caches := by
  simp only [raiseAt]
  repeat' split
  all_goals simp
@[simp] theorem raiseAt_units (d n : Nat) (s : State) : (raiseAt d n s).units = s.units := by
  simp only [raiseAt]
  repeat' split
  all_goals simp
@[simp] theorem raiseAt_kst (d n : Nat) (s : State) : (raiseAt d n s).kst = s.kst := by
  simp only [raiseAt]
  repeat' split
  all_goals simp
@[simp] theorem raiseAt_tmp (d n : Nat) (s : State) : (raiseAt d n s).tmp = s.tmp := by
  simp only [raiseAt]
  repeat' split
  all_goals simp
@[simp] theorem raiseAt_bat (d n : Nat) (s : State) : (raiseAt d n s).bat = s.bat := by
  simp only [raiseAt]
  repeat' split
  all_goals simp
@[simp] theorem raiseAt_lcs (d n : Nat) (s : State) : (raiseAt d n s).lcs = s.lcs := by
  simp only [raiseAt]
  repeat' split
  all_goals simp
@[simp] theorem raiseAt_own (d n : Nat) (s : State) : (raiseAt d n s).own = s.own := by
  simp only [raiseAt]
  repeat' split
  all_goals simp
@[simp] theorem raiseAt_par (d n : Nat) (s : State) : (raiseAt d n s).par = s.par := by
  simp only [raiseAt]
  repeat' split
  all_goals simp
@[simp] theorem raiseAt_glb (d n : Nat) (s : State) : (raiseAt d n s).glb = s.glb := by
  simp only [raiseAt]
  repeat' split
  all_goals simp
@[simp] theorem raiseAt_pwr (d n : Nat) (s : State) : (raiseAt d n s).pwr = s.pwr := by
  simp only [raiseAt]
  repeat' split
  all_goals simp
@[simp] theorem raiseAt_bst (d n : Nat) (s : State) : (raiseAt d n s).bst = s.bst := by
  simp only [raiseAt]
  repeat' split
  all_goals simp
@[simp] theorem raiseAt_tly (d n : Nat) (s : State) : (raiseAt d n s).tly = s.tly := by
  simp only [raiseAt]
  repeat' split
  all_goals simp
@[simp] theorem raiseCore_pending (c n : Nat) (s : State) : (raiseCore c n s).pending = s.pending := by
  simp only [raiseCore]
  repeat' split
  all_goals simp
@[simp] theorem raiseCore_clk (c n : Nat) (s : State) : (raiseCore c n s).clk = s.clk := by
  simp only [raiseCore]
  repeat' split
  all_goals simp
@[simp] theorem raiseCore_rng (c n : Nat) (s : State) : (raiseCore c n s).rng = s.rng := by
  simp only [raiseCore]
  repeat' split
  all_goals simp
@[simp] theorem raiseCore_csn (c n : Nat) (s : State) : (raiseCore c n s).csn = s.csn := by
  simp only [raiseCore]
  repeat' split
  all_goals simp
@[simp] theorem raiseCore_out (c n : Nat) (s : State) : (raiseCore c n s).out = s.out := by
  simp only [raiseCore]
  repeat' split
  all_goals simp
@[simp] theorem raiseCore_imem (c n : Nat) (s : State) : (raiseCore c n s).imem = s.imem := by
  simp only [raiseCore]
  repeat' split
  all_goals simp
@[simp] theorem raiseCore_rwi (c n : Nat) (s : State) : (raiseCore c n s).rwi = s.rwi := by
  simp only [raiseCore]
  repeat' split
  all_goals simp
@[simp] theorem raiseCore_pit (c n : Nat) (s : State) : (raiseCore c n s).pit = s.pit := by
  simp only [raiseCore]
  repeat' split
  all_goals simp
@[simp] theorem raiseCore_rqe (c n : Nat) (s : State) : (raiseCore c n s).rqe = s.rqe := by
  simp only [raiseCore]
  repeat' split
  all_goals simp
@[simp] theorem raiseCore_sch (c n : Nat) (s : State) : (raiseCore c n s).sch = s.sch := by
  simp only [raiseCore]
  repeat' split
  all_goals simp
@[simp] theorem raiseCore_cmc (c n : Nat) (s : State) : (raiseCore c n s).cmc = s.cmc := by
  simp only [raiseCore]
  repeat' split
  all_goals simp
@[simp] theorem raiseCore_sel (c n : Nat) (s : State) : (raiseCore c n s).sel = s.sel := by
  simp only [raiseCore]
  repeat' split
  all_goals simp
@[simp] theorem raiseCore_dma (c n : Nat) (s : State) : (raiseCore c n s).dma = s.dma := by
  simp only [raiseCore]
  repeat' split
  all_goals simp
@[simp] theorem raiseCore_mbx (c n : Nat) (s : State) : (raiseCore c n s).mbx = s.mbx := by
  simp only [raiseCore]
  repeat' split
  all_goals simp
@[simp] theorem raiseCore_mbxErr (c n : Nat) (s : State) : (raiseCore c n s).mbxErr = s.mbxErr := by
  simp only [raiseCore]
  repeat' split
  all_goals simp
@[simp] theorem raiseCore_mpu (c n : Nat) (s : State) : (raiseCore c n s).mpu = s.mpu := by
  simp only [raiseCore]
  repeat' split
  all_goals simp
@[simp] theorem raiseCore_caches (c n : Nat) (s : State) : (raiseCore c n s).caches = s.caches := by
  simp only [raiseCore]
  repeat' split
  all_goals simp
@[simp] theorem raiseCore_units (c n : Nat) (s : State) : (raiseCore c n s).units = s.units := by
  simp only [raiseCore]
  repeat' split
  all_goals simp
@[simp] theorem raiseCore_kst (c n : Nat) (s : State) : (raiseCore c n s).kst = s.kst := by
  simp only [raiseCore]
  repeat' split
  all_goals simp
@[simp] theorem raiseCore_tmp (c n : Nat) (s : State) : (raiseCore c n s).tmp = s.tmp := by
  simp only [raiseCore]
  repeat' split
  all_goals simp
@[simp] theorem raiseCore_bat (c n : Nat) (s : State) : (raiseCore c n s).bat = s.bat := by
  simp only [raiseCore]
  repeat' split
  all_goals simp
@[simp] theorem raiseCore_lcs (c n : Nat) (s : State) : (raiseCore c n s).lcs = s.lcs := by
  simp only [raiseCore]
  repeat' split
  all_goals simp
@[simp] theorem raiseCore_own (c n : Nat) (s : State) : (raiseCore c n s).own = s.own := by
  simp only [raiseCore]
  repeat' split
  all_goals simp
@[simp] theorem raiseCore_par (c n : Nat) (s : State) : (raiseCore c n s).par = s.par := by
  simp only [raiseCore]
  repeat' split
  all_goals simp
@[simp] theorem raiseCore_glb (c n : Nat) (s : State) : (raiseCore c n s).glb = s.glb := by
  simp only [raiseCore]
  repeat' split
  all_goals simp
@[simp] theorem raiseCore_pwr (c n : Nat) (s : State) : (raiseCore c n s).pwr = s.pwr := by
  simp only [raiseCore]
  repeat' split
  all_goals simp
@[simp] theorem raiseCore_bst (c n : Nat) (s : State) : (raiseCore c n s).bst = s.bst := by
  simp only [raiseCore]
  repeat' split
  all_goals simp
@[simp] theorem raiseCore_tly (c n : Nat) (s : State) : (raiseCore c n s).tly = s.tly := by
  simp only [raiseCore]
  repeat' split
  all_goals simp
@[simp] theorem raisePort_pending (port : Port) (vec : BitVec 11) (n : Nat) (s : State) : (raisePort port vec n s).pending = s.pending := by
  simp only [raisePort]
  repeat' split
  all_goals simp
@[simp] theorem raisePort_clk (port : Port) (vec : BitVec 11) (n : Nat) (s : State) : (raisePort port vec n s).clk = s.clk := by
  simp only [raisePort]
  repeat' split
  all_goals simp
@[simp] theorem raisePort_rng (port : Port) (vec : BitVec 11) (n : Nat) (s : State) : (raisePort port vec n s).rng = s.rng := by
  simp only [raisePort]
  repeat' split
  all_goals simp
@[simp] theorem raisePort_csn (port : Port) (vec : BitVec 11) (n : Nat) (s : State) : (raisePort port vec n s).csn = s.csn := by
  simp only [raisePort]
  repeat' split
  all_goals simp
@[simp] theorem raisePort_imem (port : Port) (vec : BitVec 11) (n : Nat) (s : State) : (raisePort port vec n s).imem = s.imem := by
  simp only [raisePort]
  repeat' split
  all_goals simp
@[simp] theorem raisePort_rwi (port : Port) (vec : BitVec 11) (n : Nat) (s : State) : (raisePort port vec n s).rwi = s.rwi := by
  simp only [raisePort]
  repeat' split
  all_goals simp
@[simp] theorem raisePort_pit (port : Port) (vec : BitVec 11) (n : Nat) (s : State) : (raisePort port vec n s).pit = s.pit := by
  simp only [raisePort]
  repeat' split
  all_goals simp
@[simp] theorem raisePort_sch (port : Port) (vec : BitVec 11) (n : Nat) (s : State) : (raisePort port vec n s).sch = s.sch := by
  simp only [raisePort]
  repeat' split
  all_goals simp
@[simp] theorem raisePort_cmc (port : Port) (vec : BitVec 11) (n : Nat) (s : State) : (raisePort port vec n s).cmc = s.cmc := by
  simp only [raisePort]
  repeat' split
  all_goals simp
@[simp] theorem raisePort_sel (port : Port) (vec : BitVec 11) (n : Nat) (s : State) : (raisePort port vec n s).sel = s.sel := by
  simp only [raisePort]
  repeat' split
  all_goals simp
@[simp] theorem raisePort_dma (port : Port) (vec : BitVec 11) (n : Nat) (s : State) : (raisePort port vec n s).dma = s.dma := by
  simp only [raisePort]
  repeat' split
  all_goals simp
@[simp] theorem raisePort_mbx (port : Port) (vec : BitVec 11) (n : Nat) (s : State) : (raisePort port vec n s).mbx = s.mbx := by
  simp only [raisePort]
  repeat' split
  all_goals simp
@[simp] theorem raisePort_mbxErr (port : Port) (vec : BitVec 11) (n : Nat) (s : State) : (raisePort port vec n s).mbxErr = s.mbxErr := by
  simp only [raisePort]
  repeat' split
  all_goals simp
@[simp] theorem raisePort_mpu (port : Port) (vec : BitVec 11) (n : Nat) (s : State) : (raisePort port vec n s).mpu = s.mpu := by
  simp only [raisePort]
  repeat' split
  all_goals simp
@[simp] theorem raisePort_caches (port : Port) (vec : BitVec 11) (n : Nat) (s : State) : (raisePort port vec n s).caches = s.caches := by
  simp only [raisePort]
  repeat' split
  all_goals simp
@[simp] theorem raisePort_units (port : Port) (vec : BitVec 11) (n : Nat) (s : State) : (raisePort port vec n s).units = s.units := by
  simp only [raisePort]
  repeat' split
  all_goals simp
@[simp] theorem raisePort_kst (port : Port) (vec : BitVec 11) (n : Nat) (s : State) : (raisePort port vec n s).kst = s.kst := by
  simp only [raisePort]
  repeat' split
  all_goals simp
@[simp] theorem raisePort_tmp (port : Port) (vec : BitVec 11) (n : Nat) (s : State) : (raisePort port vec n s).tmp = s.tmp := by
  simp only [raisePort]
  repeat' split
  all_goals simp
@[simp] theorem raisePort_bat (port : Port) (vec : BitVec 11) (n : Nat) (s : State) : (raisePort port vec n s).bat = s.bat := by
  simp only [raisePort]
  repeat' split
  all_goals simp
@[simp] theorem raisePort_lcs (port : Port) (vec : BitVec 11) (n : Nat) (s : State) : (raisePort port vec n s).lcs = s.lcs := by
  simp only [raisePort]
  repeat' split
  all_goals simp
@[simp] theorem raisePort_own (port : Port) (vec : BitVec 11) (n : Nat) (s : State) : (raisePort port vec n s).own = s.own := by
  simp only [raisePort]
  repeat' split
  all_goals simp
@[simp] theorem raisePort_par (port : Port) (vec : BitVec 11) (n : Nat) (s : State) : (raisePort port vec n s).par = s.par := by
  simp only [raisePort]
  repeat' split
  all_goals simp
@[simp] theorem raisePort_glb (port : Port) (vec : BitVec 11) (n : Nat) (s : State) : (raisePort port vec n s).glb = s.glb := by
  simp only [raisePort]
  repeat' split
  all_goals simp
@[simp] theorem raisePort_pwr (port : Port) (vec : BitVec 11) (n : Nat) (s : State) : (raisePort port vec n s).pwr = s.pwr := by
  simp only [raisePort]
  repeat' split
  all_goals simp
@[simp] theorem raisePort_bst (port : Port) (vec : BitVec 11) (n : Nat) (s : State) : (raisePort port vec n s).bst = s.bst := by
  simp only [raisePort]
  repeat' split
  all_goals simp
@[simp] theorem raisePort_tly (port : Port) (vec : BitVec 11) (n : Nat) (s : State) : (raisePort port vec n s).tly = s.tly := by
  simp only [raisePort]
  repeat' split
  all_goals simp
@[simp] theorem raiseCores_pending (cs : BitVec 24) (n k : Nat) (s : State) : (raiseCores cs n k s).pending = s.pending := by
  induction k generalizing s with
  | zero => rfl
  | succ k ih =>
    simp only [raiseCores]
    split <;> simp [ih]
@[simp] theorem raiseCores_clk (cs : BitVec 24) (n k : Nat) (s : State) : (raiseCores cs n k s).clk = s.clk := by
  induction k generalizing s with
  | zero => rfl
  | succ k ih =>
    simp only [raiseCores]
    split <;> simp [ih]
@[simp] theorem raiseCores_rng (cs : BitVec 24) (n k : Nat) (s : State) : (raiseCores cs n k s).rng = s.rng := by
  induction k generalizing s with
  | zero => rfl
  | succ k ih =>
    simp only [raiseCores]
    split <;> simp [ih]
@[simp] theorem raiseCores_csn (cs : BitVec 24) (n k : Nat) (s : State) : (raiseCores cs n k s).csn = s.csn := by
  induction k generalizing s with
  | zero => rfl
  | succ k ih =>
    simp only [raiseCores]
    split <;> simp [ih]
@[simp] theorem raiseCores_out (cs : BitVec 24) (n k : Nat) (s : State) : (raiseCores cs n k s).out = s.out := by
  induction k generalizing s with
  | zero => rfl
  | succ k ih =>
    simp only [raiseCores]
    split <;> simp [ih]
@[simp] theorem raiseCores_imem (cs : BitVec 24) (n k : Nat) (s : State) : (raiseCores cs n k s).imem = s.imem := by
  induction k generalizing s with
  | zero => rfl
  | succ k ih =>
    simp only [raiseCores]
    split <;> simp [ih]
@[simp] theorem raiseCores_rwi (cs : BitVec 24) (n k : Nat) (s : State) : (raiseCores cs n k s).rwi = s.rwi := by
  induction k generalizing s with
  | zero => rfl
  | succ k ih =>
    simp only [raiseCores]
    split <;> simp [ih]
@[simp] theorem raiseCores_pit (cs : BitVec 24) (n k : Nat) (s : State) : (raiseCores cs n k s).pit = s.pit := by
  induction k generalizing s with
  | zero => rfl
  | succ k ih =>
    simp only [raiseCores]
    split <;> simp [ih]
@[simp] theorem raiseCores_rqe (cs : BitVec 24) (n k : Nat) (s : State) : (raiseCores cs n k s).rqe = s.rqe := by
  induction k generalizing s with
  | zero => rfl
  | succ k ih =>
    simp only [raiseCores]
    split <;> simp [ih]
@[simp] theorem raiseCores_sch (cs : BitVec 24) (n k : Nat) (s : State) : (raiseCores cs n k s).sch = s.sch := by
  induction k generalizing s with
  | zero => rfl
  | succ k ih =>
    simp only [raiseCores]
    split <;> simp [ih]
@[simp] theorem raiseCores_cmc (cs : BitVec 24) (n k : Nat) (s : State) : (raiseCores cs n k s).cmc = s.cmc := by
  induction k generalizing s with
  | zero => rfl
  | succ k ih =>
    simp only [raiseCores]
    split <;> simp [ih]
@[simp] theorem raiseCores_sel (cs : BitVec 24) (n k : Nat) (s : State) : (raiseCores cs n k s).sel = s.sel := by
  induction k generalizing s with
  | zero => rfl
  | succ k ih =>
    simp only [raiseCores]
    split <;> simp [ih]
@[simp] theorem raiseCores_dma (cs : BitVec 24) (n k : Nat) (s : State) : (raiseCores cs n k s).dma = s.dma := by
  induction k generalizing s with
  | zero => rfl
  | succ k ih =>
    simp only [raiseCores]
    split <;> simp [ih]
@[simp] theorem raiseCores_mbx (cs : BitVec 24) (n k : Nat) (s : State) : (raiseCores cs n k s).mbx = s.mbx := by
  induction k generalizing s with
  | zero => rfl
  | succ k ih =>
    simp only [raiseCores]
    split <;> simp [ih]
@[simp] theorem raiseCores_mbxErr (cs : BitVec 24) (n k : Nat) (s : State) : (raiseCores cs n k s).mbxErr = s.mbxErr := by
  induction k generalizing s with
  | zero => rfl
  | succ k ih =>
    simp only [raiseCores]
    split <;> simp [ih]
@[simp] theorem raiseCores_mpu (cs : BitVec 24) (n k : Nat) (s : State) : (raiseCores cs n k s).mpu = s.mpu := by
  induction k generalizing s with
  | zero => rfl
  | succ k ih =>
    simp only [raiseCores]
    split <;> simp [ih]
@[simp] theorem raiseCores_caches (cs : BitVec 24) (n k : Nat) (s : State) : (raiseCores cs n k s).caches = s.caches := by
  induction k generalizing s with
  | zero => rfl
  | succ k ih =>
    simp only [raiseCores]
    split <;> simp [ih]
@[simp] theorem raiseCores_units (cs : BitVec 24) (n k : Nat) (s : State) : (raiseCores cs n k s).units = s.units := by
  induction k generalizing s with
  | zero => rfl
  | succ k ih =>
    simp only [raiseCores]
    split <;> simp [ih]
@[simp] theorem raiseCores_kst (cs : BitVec 24) (n k : Nat) (s : State) : (raiseCores cs n k s).kst = s.kst := by
  induction k generalizing s with
  | zero => rfl
  | succ k ih =>
    simp only [raiseCores]
    split <;> simp [ih]
@[simp] theorem raiseCores_tmp (cs : BitVec 24) (n k : Nat) (s : State) : (raiseCores cs n k s).tmp = s.tmp := by
  induction k generalizing s with
  | zero => rfl
  | succ k ih =>
    simp only [raiseCores]
    split <;> simp [ih]
@[simp] theorem raiseCores_bat (cs : BitVec 24) (n k : Nat) (s : State) : (raiseCores cs n k s).bat = s.bat := by
  induction k generalizing s with
  | zero => rfl
  | succ k ih =>
    simp only [raiseCores]
    split <;> simp [ih]
@[simp] theorem raiseCores_lcs (cs : BitVec 24) (n k : Nat) (s : State) : (raiseCores cs n k s).lcs = s.lcs := by
  induction k generalizing s with
  | zero => rfl
  | succ k ih =>
    simp only [raiseCores]
    split <;> simp [ih]
@[simp] theorem raiseCores_own (cs : BitVec 24) (n k : Nat) (s : State) : (raiseCores cs n k s).own = s.own := by
  induction k generalizing s with
  | zero => rfl
  | succ k ih =>
    simp only [raiseCores]
    split <;> simp [ih]
@[simp] theorem raiseCores_par (cs : BitVec 24) (n k : Nat) (s : State) : (raiseCores cs n k s).par = s.par := by
  induction k generalizing s with
  | zero => rfl
  | succ k ih =>
    simp only [raiseCores]
    split <;> simp [ih]
@[simp] theorem raiseCores_glb (cs : BitVec 24) (n k : Nat) (s : State) : (raiseCores cs n k s).glb = s.glb := by
  induction k generalizing s with
  | zero => rfl
  | succ k ih =>
    simp only [raiseCores]
    split <;> simp [ih]
@[simp] theorem raiseCores_pwr (cs : BitVec 24) (n k : Nat) (s : State) : (raiseCores cs n k s).pwr = s.pwr := by
  induction k generalizing s with
  | zero => rfl
  | succ k ih =>
    simp only [raiseCores]
    split <;> simp [ih]
@[simp] theorem raiseCores_bst (cs : BitVec 24) (n k : Nat) (s : State) : (raiseCores cs n k s).bst = s.bst := by
  induction k generalizing s with
  | zero => rfl
  | succ k ih =>
    simp only [raiseCores]
    split <;> simp [ih]
@[simp] theorem raiseCores_tly (cs : BitVec 24) (n k : Nat) (s : State) : (raiseCores cs n k s).tly = s.tly := by
  induction k generalizing s with
  | zero => rfl
  | succ k ih =>
    simp only [raiseCores]
    split <;> simp [ih]
@[simp] theorem raise_pending (n : Nat) (s : State) : (raise n s).pending = s.pending := by
  simp only [raise]
  repeat' split
  all_goals simp
@[simp] theorem raise_clk (n : Nat) (s : State) : (raise n s).clk = s.clk := by
  simp only [raise]
  repeat' split
  all_goals simp
@[simp] theorem raise_rng (n : Nat) (s : State) : (raise n s).rng = s.rng := by
  simp only [raise]
  repeat' split
  all_goals simp
@[simp] theorem raise_csn (n : Nat) (s : State) : (raise n s).csn = s.csn := by
  simp only [raise]
  repeat' split
  all_goals simp
@[simp] theorem raise_imem (n : Nat) (s : State) : (raise n s).imem = s.imem := by
  simp only [raise]
  repeat' split
  all_goals simp
@[simp] theorem raise_rwi (n : Nat) (s : State) : (raise n s).rwi = s.rwi := by
  simp only [raise]
  repeat' split
  all_goals simp
@[simp] theorem raise_pit (n : Nat) (s : State) : (raise n s).pit = s.pit := by
  simp only [raise]
  repeat' split
  all_goals simp
@[simp] theorem raise_sch (n : Nat) (s : State) : (raise n s).sch = s.sch := by
  simp only [raise]
  repeat' split
  all_goals simp
@[simp] theorem raise_cmc (n : Nat) (s : State) : (raise n s).cmc = s.cmc := by
  simp only [raise]
  repeat' split
  all_goals simp
@[simp] theorem raise_sel (n : Nat) (s : State) : (raise n s).sel = s.sel := by
  simp only [raise]
  repeat' split
  all_goals simp
@[simp] theorem raise_dma (n : Nat) (s : State) : (raise n s).dma = s.dma := by
  simp only [raise]
  repeat' split
  all_goals simp
@[simp] theorem raise_mbx (n : Nat) (s : State) : (raise n s).mbx = s.mbx := by
  simp only [raise]
  repeat' split
  all_goals simp
@[simp] theorem raise_mbxErr (n : Nat) (s : State) : (raise n s).mbxErr = s.mbxErr := by
  simp only [raise]
  repeat' split
  all_goals simp
@[simp] theorem raise_mpu (n : Nat) (s : State) : (raise n s).mpu = s.mpu := by
  simp only [raise]
  repeat' split
  all_goals simp
@[simp] theorem raise_caches (n : Nat) (s : State) : (raise n s).caches = s.caches := by
  simp only [raise]
  repeat' split
  all_goals simp
@[simp] theorem raise_units (n : Nat) (s : State) : (raise n s).units = s.units := by
  simp only [raise]
  repeat' split
  all_goals simp
@[simp] theorem raise_kst (n : Nat) (s : State) : (raise n s).kst = s.kst := by
  simp only [raise]
  repeat' split
  all_goals simp
@[simp] theorem raise_tmp (n : Nat) (s : State) : (raise n s).tmp = s.tmp := by
  simp only [raise]
  repeat' split
  all_goals simp
@[simp] theorem raise_bat (n : Nat) (s : State) : (raise n s).bat = s.bat := by
  simp only [raise]
  repeat' split
  all_goals simp
@[simp] theorem raise_lcs (n : Nat) (s : State) : (raise n s).lcs = s.lcs := by
  simp only [raise]
  repeat' split
  all_goals simp
@[simp] theorem raise_own (n : Nat) (s : State) : (raise n s).own = s.own := by
  simp only [raise]
  repeat' split
  all_goals simp
@[simp] theorem raise_par (n : Nat) (s : State) : (raise n s).par = s.par := by
  simp only [raise]
  repeat' split
  all_goals simp
@[simp] theorem raise_glb (n : Nat) (s : State) : (raise n s).glb = s.glb := by
  simp only [raise]
  repeat' split
  all_goals simp
@[simp] theorem raise_pwr (n : Nat) (s : State) : (raise n s).pwr = s.pwr := by
  simp only [raise]
  repeat' split
  all_goals simp
@[simp] theorem raise_bst (n : Nat) (s : State) : (raise n s).bst = s.bst := by
  simp only [raise]
  repeat' split
  all_goals simp
@[simp] theorem raise_tly (n : Nat) (s : State) : (raise n s).tly = s.tly := by
  simp only [raise]
  repeat' split
  all_goals simp
@[simp] theorem startFlush_pending (s : State) : (startFlush s).pending = s.pending := by
  simp only [startFlush]
  repeat' split
  all_goals simp
@[simp] theorem startFlush_clk (s : State) : (startFlush s).clk = s.clk := by
  simp only [startFlush]
  repeat' split
  all_goals simp
@[simp] theorem startFlush_rng (s : State) : (startFlush s).rng = s.rng := by
  simp only [startFlush]
  repeat' split
  all_goals simp
@[simp] theorem startFlush_csn (s : State) : (startFlush s).csn = s.csn := by
  simp only [startFlush]
  repeat' split
  all_goals simp
@[simp] theorem startFlush_out (s : State) : (startFlush s).out = s.out := by
  simp only [startFlush]
  repeat' split
  all_goals simp
@[simp] theorem startFlush_imem (s : State) : (startFlush s).imem = s.imem := by
  simp only [startFlush]
  repeat' split
  all_goals simp
@[simp] theorem startFlush_rwi (s : State) : (startFlush s).rwi = s.rwi := by
  simp only [startFlush]
  repeat' split
  all_goals simp
@[simp] theorem startFlush_pit (s : State) : (startFlush s).pit = s.pit := by
  simp only [startFlush]
  repeat' split
  all_goals simp
@[simp] theorem startFlush_rqe (s : State) : (startFlush s).rqe = s.rqe := by
  simp only [startFlush]
  repeat' split
  all_goals simp
@[simp] theorem startFlush_sch (s : State) : (startFlush s).sch = s.sch := by
  simp only [startFlush]
  repeat' split
  all_goals simp
@[simp] theorem startFlush_cmc (s : State) : (startFlush s).cmc = s.cmc := by
  simp only [startFlush]
  repeat' split
  all_goals simp
@[simp] theorem startFlush_sel (s : State) : (startFlush s).sel = s.sel := by
  simp only [startFlush]
  repeat' split
  all_goals simp
@[simp] theorem startFlush_dma (s : State) : (startFlush s).dma = s.dma := by
  simp only [startFlush]
  repeat' split
  all_goals simp
@[simp] theorem startFlush_mbx (s : State) : (startFlush s).mbx = s.mbx := by
  simp only [startFlush]
  repeat' split
  all_goals simp
@[simp] theorem startFlush_mbxErr (s : State) : (startFlush s).mbxErr = s.mbxErr := by
  simp only [startFlush]
  repeat' split
  all_goals simp
@[simp] theorem startFlush_mpu (s : State) : (startFlush s).mpu = s.mpu := by
  simp only [startFlush]
  repeat' split
  all_goals simp
@[simp] theorem startFlush_caches (s : State) : (startFlush s).caches = s.caches := by
  simp only [startFlush]
  repeat' split
  all_goals simp
@[simp] theorem startFlush_units (s : State) : (startFlush s).units = s.units := by
  simp only [startFlush]
  repeat' split
  all_goals simp
@[simp] theorem startFlush_kst (s : State) : (startFlush s).kst = s.kst := by
  simp only [startFlush]
  repeat' split
  all_goals simp
@[simp] theorem startFlush_tmp (s : State) : (startFlush s).tmp = s.tmp := by
  simp only [startFlush]
  repeat' split
  all_goals simp
@[simp] theorem startFlush_bat (s : State) : (startFlush s).bat = s.bat := by
  simp only [startFlush]
  repeat' split
  all_goals simp
@[simp] theorem startFlush_lcs (s : State) : (startFlush s).lcs = s.lcs := by
  simp only [startFlush]
  repeat' split
  all_goals simp
@[simp] theorem startFlush_own (s : State) : (startFlush s).own = s.own := by
  simp only [startFlush]
  repeat' split
  all_goals simp
@[simp] theorem startFlush_par (s : State) : (startFlush s).par = s.par := by
  simp only [startFlush]
  repeat' split
  all_goals simp
@[simp] theorem startFlush_glb (s : State) : (startFlush s).glb = s.glb := by
  simp only [startFlush]
  repeat' split
  all_goals simp
@[simp] theorem startFlush_pwr (s : State) : (startFlush s).pwr = s.pwr := by
  simp only [startFlush]
  repeat' split
  all_goals simp
@[simp] theorem startFlush_bst (s : State) : (startFlush s).bst = s.bst := by
  simp only [startFlush]
  repeat' split
  all_goals simp
@[simp] theorem startFlush_evc (s : State) : (startFlush s).evc = s.evc := by
  simp only [startFlush]
  repeat' split
  all_goals simp
@[simp] theorem enterBuffer_pending (r : TallyRec) (s : State) : (enterBuffer r s).pending = s.pending := by
  simp only [enterBuffer]
  repeat' split
  all_goals simp
@[simp] theorem enterBuffer_clk (r : TallyRec) (s : State) : (enterBuffer r s).clk = s.clk := by
  simp only [enterBuffer]
  repeat' split
  all_goals simp
@[simp] theorem enterBuffer_rng (r : TallyRec) (s : State) : (enterBuffer r s).rng = s.rng := by
  simp only [enterBuffer]
  repeat' split
  all_goals simp
@[simp] theorem enterBuffer_csn (r : TallyRec) (s : State) : (enterBuffer r s).csn = s.csn := by
  simp only [enterBuffer]
  repeat' split
  all_goals simp
@[simp] theorem enterBuffer_imem (r : TallyRec) (s : State) : (enterBuffer r s).imem = s.imem := by
  simp only [enterBuffer]
  repeat' split
  all_goals simp
@[simp] theorem enterBuffer_rwi (r : TallyRec) (s : State) : (enterBuffer r s).rwi = s.rwi := by
  simp only [enterBuffer]
  repeat' split
  all_goals simp
@[simp] theorem enterBuffer_pit (r : TallyRec) (s : State) : (enterBuffer r s).pit = s.pit := by
  simp only [enterBuffer]
  repeat' split
  all_goals simp
@[simp] theorem enterBuffer_sch (r : TallyRec) (s : State) : (enterBuffer r s).sch = s.sch := by
  simp only [enterBuffer]
  repeat' split
  all_goals simp
@[simp] theorem enterBuffer_cmc (r : TallyRec) (s : State) : (enterBuffer r s).cmc = s.cmc := by
  simp only [enterBuffer]
  repeat' split
  all_goals simp
@[simp] theorem enterBuffer_sel (r : TallyRec) (s : State) : (enterBuffer r s).sel = s.sel := by
  simp only [enterBuffer]
  repeat' split
  all_goals simp
@[simp] theorem enterBuffer_dma (r : TallyRec) (s : State) : (enterBuffer r s).dma = s.dma := by
  simp only [enterBuffer]
  repeat' split
  all_goals simp
@[simp] theorem enterBuffer_mbx (r : TallyRec) (s : State) : (enterBuffer r s).mbx = s.mbx := by
  simp only [enterBuffer]
  repeat' split
  all_goals simp
@[simp] theorem enterBuffer_mbxErr (r : TallyRec) (s : State) : (enterBuffer r s).mbxErr = s.mbxErr := by
  simp only [enterBuffer]
  repeat' split
  all_goals simp
@[simp] theorem enterBuffer_mpu (r : TallyRec) (s : State) : (enterBuffer r s).mpu = s.mpu := by
  simp only [enterBuffer]
  repeat' split
  all_goals simp
@[simp] theorem enterBuffer_caches (r : TallyRec) (s : State) : (enterBuffer r s).caches = s.caches := by
  simp only [enterBuffer]
  repeat' split
  all_goals simp
@[simp] theorem enterBuffer_units (r : TallyRec) (s : State) : (enterBuffer r s).units = s.units := by
  simp only [enterBuffer]
  repeat' split
  all_goals simp
@[simp] theorem enterBuffer_kst (r : TallyRec) (s : State) : (enterBuffer r s).kst = s.kst := by
  simp only [enterBuffer]
  repeat' split
  all_goals simp
@[simp] theorem enterBuffer_tmp (r : TallyRec) (s : State) : (enterBuffer r s).tmp = s.tmp := by
  simp only [enterBuffer]
  repeat' split
  all_goals simp
@[simp] theorem enterBuffer_bat (r : TallyRec) (s : State) : (enterBuffer r s).bat = s.bat := by
  simp only [enterBuffer]
  repeat' split
  all_goals simp
@[simp] theorem enterBuffer_lcs (r : TallyRec) (s : State) : (enterBuffer r s).lcs = s.lcs := by
  simp only [enterBuffer]
  repeat' split
  all_goals simp
@[simp] theorem enterBuffer_own (r : TallyRec) (s : State) : (enterBuffer r s).own = s.own := by
  simp only [enterBuffer]
  repeat' split
  all_goals simp
@[simp] theorem enterBuffer_par (r : TallyRec) (s : State) : (enterBuffer r s).par = s.par := by
  simp only [enterBuffer]
  repeat' split
  all_goals simp
@[simp] theorem enterBuffer_glb (r : TallyRec) (s : State) : (enterBuffer r s).glb = s.glb := by
  simp only [enterBuffer]
  repeat' split
  all_goals simp
@[simp] theorem enterBuffer_pwr (r : TallyRec) (s : State) : (enterBuffer r s).pwr = s.pwr := by
  simp only [enterBuffer]
  repeat' split
  all_goals simp
@[simp] theorem enterBuffer_bst (r : TallyRec) (s : State) : (enterBuffer r s).bst = s.bst := by
  simp only [enterBuffer]
  repeat' split
  all_goals simp
@[simp] theorem tallyDrop_pending (s : State) : (tallyDrop s).pending = s.pending := by
  simp only [tallyDrop]
  repeat' split
  all_goals simp
@[simp] theorem tallyDrop_clk (s : State) : (tallyDrop s).clk = s.clk := by
  simp only [tallyDrop]
  repeat' split
  all_goals simp
@[simp] theorem tallyDrop_rng (s : State) : (tallyDrop s).rng = s.rng := by
  simp only [tallyDrop]
  repeat' split
  all_goals simp
@[simp] theorem tallyDrop_csn (s : State) : (tallyDrop s).csn = s.csn := by
  simp only [tallyDrop]
  repeat' split
  all_goals simp
@[simp] theorem tallyDrop_imem (s : State) : (tallyDrop s).imem = s.imem := by
  simp only [tallyDrop]
  repeat' split
  all_goals simp
@[simp] theorem tallyDrop_rwi (s : State) : (tallyDrop s).rwi = s.rwi := by
  simp only [tallyDrop]
  repeat' split
  all_goals simp
@[simp] theorem tallyDrop_pit (s : State) : (tallyDrop s).pit = s.pit := by
  simp only [tallyDrop]
  repeat' split
  all_goals simp
@[simp] theorem tallyDrop_sch (s : State) : (tallyDrop s).sch = s.sch := by
  simp only [tallyDrop]
  repeat' split
  all_goals simp
@[simp] theorem tallyDrop_cmc (s : State) : (tallyDrop s).cmc = s.cmc := by
  simp only [tallyDrop]
  repeat' split
  all_goals simp
@[simp] theorem tallyDrop_sel (s : State) : (tallyDrop s).sel = s.sel := by
  simp only [tallyDrop]
  repeat' split
  all_goals simp
@[simp] theorem tallyDrop_dma (s : State) : (tallyDrop s).dma = s.dma := by
  simp only [tallyDrop]
  repeat' split
  all_goals simp
@[simp] theorem tallyDrop_mbx (s : State) : (tallyDrop s).mbx = s.mbx := by
  simp only [tallyDrop]
  repeat' split
  all_goals simp
@[simp] theorem tallyDrop_mbxErr (s : State) : (tallyDrop s).mbxErr = s.mbxErr := by
  simp only [tallyDrop]
  repeat' split
  all_goals simp
@[simp] theorem tallyDrop_mpu (s : State) : (tallyDrop s).mpu = s.mpu := by
  simp only [tallyDrop]
  repeat' split
  all_goals simp
@[simp] theorem tallyDrop_caches (s : State) : (tallyDrop s).caches = s.caches := by
  simp only [tallyDrop]
  repeat' split
  all_goals simp
@[simp] theorem tallyDrop_units (s : State) : (tallyDrop s).units = s.units := by
  simp only [tallyDrop]
  repeat' split
  all_goals simp
@[simp] theorem tallyDrop_kst (s : State) : (tallyDrop s).kst = s.kst := by
  simp only [tallyDrop]
  repeat' split
  all_goals simp
@[simp] theorem tallyDrop_tmp (s : State) : (tallyDrop s).tmp = s.tmp := by
  simp only [tallyDrop]
  repeat' split
  all_goals simp
@[simp] theorem tallyDrop_bat (s : State) : (tallyDrop s).bat = s.bat := by
  simp only [tallyDrop]
  repeat' split
  all_goals simp
@[simp] theorem tallyDrop_lcs (s : State) : (tallyDrop s).lcs = s.lcs := by
  simp only [tallyDrop]
  repeat' split
  all_goals simp
@[simp] theorem tallyDrop_own (s : State) : (tallyDrop s).own = s.own := by
  simp only [tallyDrop]
  repeat' split
  all_goals simp
@[simp] theorem tallyDrop_par (s : State) : (tallyDrop s).par = s.par := by
  simp only [tallyDrop]
  repeat' split
  all_goals simp
@[simp] theorem tallyDrop_glb (s : State) : (tallyDrop s).glb = s.glb := by
  simp only [tallyDrop]
  repeat' split
  all_goals simp
@[simp] theorem tallyDrop_pwr (s : State) : (tallyDrop s).pwr = s.pwr := by
  simp only [tallyDrop]
  repeat' split
  all_goals simp
@[simp] theorem tallyDrop_bst (s : State) : (tallyDrop s).bst = s.bst := by
  simp only [tallyDrop]
  repeat' split
  all_goals simp
@[simp] theorem tallyExempt_pending (r : TallyRec) (s : State) : (tallyExempt r s).pending = s.pending := by
  simp only [tallyExempt]
  repeat' split
  all_goals simp
@[simp] theorem tallyExempt_clk (r : TallyRec) (s : State) : (tallyExempt r s).clk = s.clk := by
  simp only [tallyExempt]
  repeat' split
  all_goals simp
@[simp] theorem tallyExempt_rng (r : TallyRec) (s : State) : (tallyExempt r s).rng = s.rng := by
  simp only [tallyExempt]
  repeat' split
  all_goals simp
@[simp] theorem tallyExempt_csn (r : TallyRec) (s : State) : (tallyExempt r s).csn = s.csn := by
  simp only [tallyExempt]
  repeat' split
  all_goals simp
@[simp] theorem tallyExempt_imem (r : TallyRec) (s : State) : (tallyExempt r s).imem = s.imem := by
  simp only [tallyExempt]
  repeat' split
  all_goals simp
@[simp] theorem tallyExempt_rwi (r : TallyRec) (s : State) : (tallyExempt r s).rwi = s.rwi := by
  simp only [tallyExempt]
  repeat' split
  all_goals simp
@[simp] theorem tallyExempt_pit (r : TallyRec) (s : State) : (tallyExempt r s).pit = s.pit := by
  simp only [tallyExempt]
  repeat' split
  all_goals simp
@[simp] theorem tallyExempt_sch (r : TallyRec) (s : State) : (tallyExempt r s).sch = s.sch := by
  simp only [tallyExempt]
  repeat' split
  all_goals simp
@[simp] theorem tallyExempt_cmc (r : TallyRec) (s : State) : (tallyExempt r s).cmc = s.cmc := by
  simp only [tallyExempt]
  repeat' split
  all_goals simp
@[simp] theorem tallyExempt_sel (r : TallyRec) (s : State) : (tallyExempt r s).sel = s.sel := by
  simp only [tallyExempt]
  repeat' split
  all_goals simp
@[simp] theorem tallyExempt_dma (r : TallyRec) (s : State) : (tallyExempt r s).dma = s.dma := by
  simp only [tallyExempt]
  repeat' split
  all_goals simp
@[simp] theorem tallyExempt_mbx (r : TallyRec) (s : State) : (tallyExempt r s).mbx = s.mbx := by
  simp only [tallyExempt]
  repeat' split
  all_goals simp
@[simp] theorem tallyExempt_mbxErr (r : TallyRec) (s : State) : (tallyExempt r s).mbxErr = s.mbxErr := by
  simp only [tallyExempt]
  repeat' split
  all_goals simp
@[simp] theorem tallyExempt_mpu (r : TallyRec) (s : State) : (tallyExempt r s).mpu = s.mpu := by
  simp only [tallyExempt]
  repeat' split
  all_goals simp
@[simp] theorem tallyExempt_caches (r : TallyRec) (s : State) : (tallyExempt r s).caches = s.caches := by
  simp only [tallyExempt]
  repeat' split
  all_goals simp
@[simp] theorem tallyExempt_units (r : TallyRec) (s : State) : (tallyExempt r s).units = s.units := by
  simp only [tallyExempt]
  repeat' split
  all_goals simp
@[simp] theorem tallyExempt_kst (r : TallyRec) (s : State) : (tallyExempt r s).kst = s.kst := by
  simp only [tallyExempt]
  repeat' split
  all_goals simp
@[simp] theorem tallyExempt_tmp (r : TallyRec) (s : State) : (tallyExempt r s).tmp = s.tmp := by
  simp only [tallyExempt]
  repeat' split
  all_goals simp
@[simp] theorem tallyExempt_bat (r : TallyRec) (s : State) : (tallyExempt r s).bat = s.bat := by
  simp only [tallyExempt]
  repeat' split
  all_goals simp
@[simp] theorem tallyExempt_lcs (r : TallyRec) (s : State) : (tallyExempt r s).lcs = s.lcs := by
  simp only [tallyExempt]
  repeat' split
  all_goals simp
@[simp] theorem tallyExempt_own (r : TallyRec) (s : State) : (tallyExempt r s).own = s.own := by
  simp only [tallyExempt]
  repeat' split
  all_goals simp
@[simp] theorem tallyExempt_par (r : TallyRec) (s : State) : (tallyExempt r s).par = s.par := by
  simp only [tallyExempt]
  repeat' split
  all_goals simp
@[simp] theorem tallyExempt_glb (r : TallyRec) (s : State) : (tallyExempt r s).glb = s.glb := by
  simp only [tallyExempt]
  repeat' split
  all_goals simp
@[simp] theorem tallyExempt_pwr (r : TallyRec) (s : State) : (tallyExempt r s).pwr = s.pwr := by
  simp only [tallyExempt]
  repeat' split
  all_goals simp
@[simp] theorem tallyExempt_bst (r : TallyRec) (s : State) : (tallyExempt r s).bst = s.bst := by
  simp only [tallyExempt]
  repeat' split
  all_goals simp
@[simp] theorem tallyLimited_pending (r : TallyRec) (s : State) : (tallyLimited r s).pending = s.pending := by
  simp only [tallyLimited]
  repeat' split
  all_goals simp
@[simp] theorem tallyLimited_clk (r : TallyRec) (s : State) : (tallyLimited r s).clk = s.clk := by
  simp only [tallyLimited]
  repeat' split
  all_goals simp
@[simp] theorem tallyLimited_rng (r : TallyRec) (s : State) : (tallyLimited r s).rng = s.rng := by
  simp only [tallyLimited]
  repeat' split
  all_goals simp
@[simp] theorem tallyLimited_csn (r : TallyRec) (s : State) : (tallyLimited r s).csn = s.csn := by
  simp only [tallyLimited]
  repeat' split
  all_goals simp
@[simp] theorem tallyLimited_imem (r : TallyRec) (s : State) : (tallyLimited r s).imem = s.imem := by
  simp only [tallyLimited]
  repeat' split
  all_goals simp
@[simp] theorem tallyLimited_rwi (r : TallyRec) (s : State) : (tallyLimited r s).rwi = s.rwi := by
  simp only [tallyLimited]
  repeat' split
  all_goals simp
@[simp] theorem tallyLimited_pit (r : TallyRec) (s : State) : (tallyLimited r s).pit = s.pit := by
  simp only [tallyLimited]
  repeat' split
  all_goals simp
@[simp] theorem tallyLimited_sch (r : TallyRec) (s : State) : (tallyLimited r s).sch = s.sch := by
  simp only [tallyLimited]
  repeat' split
  all_goals simp
@[simp] theorem tallyLimited_cmc (r : TallyRec) (s : State) : (tallyLimited r s).cmc = s.cmc := by
  simp only [tallyLimited]
  repeat' split
  all_goals simp
@[simp] theorem tallyLimited_sel (r : TallyRec) (s : State) : (tallyLimited r s).sel = s.sel := by
  simp only [tallyLimited]
  repeat' split
  all_goals simp
@[simp] theorem tallyLimited_dma (r : TallyRec) (s : State) : (tallyLimited r s).dma = s.dma := by
  simp only [tallyLimited]
  repeat' split
  all_goals simp
@[simp] theorem tallyLimited_mbx (r : TallyRec) (s : State) : (tallyLimited r s).mbx = s.mbx := by
  simp only [tallyLimited]
  repeat' split
  all_goals simp
@[simp] theorem tallyLimited_mbxErr (r : TallyRec) (s : State) : (tallyLimited r s).mbxErr = s.mbxErr := by
  simp only [tallyLimited]
  repeat' split
  all_goals simp
@[simp] theorem tallyLimited_mpu (r : TallyRec) (s : State) : (tallyLimited r s).mpu = s.mpu := by
  simp only [tallyLimited]
  repeat' split
  all_goals simp
@[simp] theorem tallyLimited_caches (r : TallyRec) (s : State) : (tallyLimited r s).caches = s.caches := by
  simp only [tallyLimited]
  repeat' split
  all_goals simp
@[simp] theorem tallyLimited_units (r : TallyRec) (s : State) : (tallyLimited r s).units = s.units := by
  simp only [tallyLimited]
  repeat' split
  all_goals simp
@[simp] theorem tallyLimited_kst (r : TallyRec) (s : State) : (tallyLimited r s).kst = s.kst := by
  simp only [tallyLimited]
  repeat' split
  all_goals simp
@[simp] theorem tallyLimited_tmp (r : TallyRec) (s : State) : (tallyLimited r s).tmp = s.tmp := by
  simp only [tallyLimited]
  repeat' split
  all_goals simp
@[simp] theorem tallyLimited_bat (r : TallyRec) (s : State) : (tallyLimited r s).bat = s.bat := by
  simp only [tallyLimited]
  repeat' split
  all_goals simp
@[simp] theorem tallyLimited_lcs (r : TallyRec) (s : State) : (tallyLimited r s).lcs = s.lcs := by
  simp only [tallyLimited]
  repeat' split
  all_goals simp
@[simp] theorem tallyLimited_own (r : TallyRec) (s : State) : (tallyLimited r s).own = s.own := by
  simp only [tallyLimited]
  repeat' split
  all_goals simp
@[simp] theorem tallyLimited_par (r : TallyRec) (s : State) : (tallyLimited r s).par = s.par := by
  simp only [tallyLimited]
  repeat' split
  all_goals simp
@[simp] theorem tallyLimited_glb (r : TallyRec) (s : State) : (tallyLimited r s).glb = s.glb := by
  simp only [tallyLimited]
  repeat' split
  all_goals simp
@[simp] theorem tallyLimited_pwr (r : TallyRec) (s : State) : (tallyLimited r s).pwr = s.pwr := by
  simp only [tallyLimited]
  repeat' split
  all_goals simp
@[simp] theorem tallyLimited_bst (r : TallyRec) (s : State) : (tallyLimited r s).bst = s.bst := by
  simp only [tallyLimited]
  repeat' split
  all_goals simp
@[simp] theorem tallyRec_pending (c : BitVec 16) (a : BitVec 6) (ev : BitVec 10) (o : Option Nat) (b : Bytes) (s : State) : (tallyRec c a ev o b s).pending = s.pending := by
  simp only [tallyRec]
  repeat' split
  all_goals simp
@[simp] theorem tallyRec_clk (c : BitVec 16) (a : BitVec 6) (ev : BitVec 10) (o : Option Nat) (b : Bytes) (s : State) : (tallyRec c a ev o b s).clk = s.clk := by
  simp only [tallyRec]
  repeat' split
  all_goals simp
@[simp] theorem tallyRec_rng (c : BitVec 16) (a : BitVec 6) (ev : BitVec 10) (o : Option Nat) (b : Bytes) (s : State) : (tallyRec c a ev o b s).rng = s.rng := by
  simp only [tallyRec]
  repeat' split
  all_goals simp
@[simp] theorem tallyRec_csn (c : BitVec 16) (a : BitVec 6) (ev : BitVec 10) (o : Option Nat) (b : Bytes) (s : State) : (tallyRec c a ev o b s).csn = s.csn := by
  simp only [tallyRec]
  repeat' split
  all_goals simp
@[simp] theorem tallyRec_imem (c : BitVec 16) (a : BitVec 6) (ev : BitVec 10) (o : Option Nat) (b : Bytes) (s : State) : (tallyRec c a ev o b s).imem = s.imem := by
  simp only [tallyRec]
  repeat' split
  all_goals simp
@[simp] theorem tallyRec_rwi (c : BitVec 16) (a : BitVec 6) (ev : BitVec 10) (o : Option Nat) (b : Bytes) (s : State) : (tallyRec c a ev o b s).rwi = s.rwi := by
  simp only [tallyRec]
  repeat' split
  all_goals simp
@[simp] theorem tallyRec_pit (c : BitVec 16) (a : BitVec 6) (ev : BitVec 10) (o : Option Nat) (b : Bytes) (s : State) : (tallyRec c a ev o b s).pit = s.pit := by
  simp only [tallyRec]
  repeat' split
  all_goals simp
@[simp] theorem tallyRec_sch (c : BitVec 16) (a : BitVec 6) (ev : BitVec 10) (o : Option Nat) (b : Bytes) (s : State) : (tallyRec c a ev o b s).sch = s.sch := by
  simp only [tallyRec]
  repeat' split
  all_goals simp
@[simp] theorem tallyRec_cmc (c : BitVec 16) (a : BitVec 6) (ev : BitVec 10) (o : Option Nat) (b : Bytes) (s : State) : (tallyRec c a ev o b s).cmc = s.cmc := by
  simp only [tallyRec]
  repeat' split
  all_goals simp
@[simp] theorem tallyRec_sel (c : BitVec 16) (a : BitVec 6) (ev : BitVec 10) (o : Option Nat) (b : Bytes) (s : State) : (tallyRec c a ev o b s).sel = s.sel := by
  simp only [tallyRec]
  repeat' split
  all_goals simp
@[simp] theorem tallyRec_dma (c : BitVec 16) (a : BitVec 6) (ev : BitVec 10) (o : Option Nat) (b : Bytes) (s : State) : (tallyRec c a ev o b s).dma = s.dma := by
  simp only [tallyRec]
  repeat' split
  all_goals simp
@[simp] theorem tallyRec_mbx (c : BitVec 16) (a : BitVec 6) (ev : BitVec 10) (o : Option Nat) (b : Bytes) (s : State) : (tallyRec c a ev o b s).mbx = s.mbx := by
  simp only [tallyRec]
  repeat' split
  all_goals simp
@[simp] theorem tallyRec_mbxErr (c : BitVec 16) (a : BitVec 6) (ev : BitVec 10) (o : Option Nat) (b : Bytes) (s : State) : (tallyRec c a ev o b s).mbxErr = s.mbxErr := by
  simp only [tallyRec]
  repeat' split
  all_goals simp
@[simp] theorem tallyRec_mpu (c : BitVec 16) (a : BitVec 6) (ev : BitVec 10) (o : Option Nat) (b : Bytes) (s : State) : (tallyRec c a ev o b s).mpu = s.mpu := by
  simp only [tallyRec]
  repeat' split
  all_goals simp
@[simp] theorem tallyRec_caches (c : BitVec 16) (a : BitVec 6) (ev : BitVec 10) (o : Option Nat) (b : Bytes) (s : State) : (tallyRec c a ev o b s).caches = s.caches := by
  simp only [tallyRec]
  repeat' split
  all_goals simp
@[simp] theorem tallyRec_units (c : BitVec 16) (a : BitVec 6) (ev : BitVec 10) (o : Option Nat) (b : Bytes) (s : State) : (tallyRec c a ev o b s).units = s.units := by
  simp only [tallyRec]
  repeat' split
  all_goals simp
@[simp] theorem tallyRec_kst (c : BitVec 16) (a : BitVec 6) (ev : BitVec 10) (o : Option Nat) (b : Bytes) (s : State) : (tallyRec c a ev o b s).kst = s.kst := by
  simp only [tallyRec]
  repeat' split
  all_goals simp
@[simp] theorem tallyRec_tmp (c : BitVec 16) (a : BitVec 6) (ev : BitVec 10) (o : Option Nat) (b : Bytes) (s : State) : (tallyRec c a ev o b s).tmp = s.tmp := by
  simp only [tallyRec]
  repeat' split
  all_goals simp
@[simp] theorem tallyRec_bat (c : BitVec 16) (a : BitVec 6) (ev : BitVec 10) (o : Option Nat) (b : Bytes) (s : State) : (tallyRec c a ev o b s).bat = s.bat := by
  simp only [tallyRec]
  repeat' split
  all_goals simp
@[simp] theorem tallyRec_lcs (c : BitVec 16) (a : BitVec 6) (ev : BitVec 10) (o : Option Nat) (b : Bytes) (s : State) : (tallyRec c a ev o b s).lcs = s.lcs := by
  simp only [tallyRec]
  repeat' split
  all_goals simp
@[simp] theorem tallyRec_own (c : BitVec 16) (a : BitVec 6) (ev : BitVec 10) (o : Option Nat) (b : Bytes) (s : State) : (tallyRec c a ev o b s).own = s.own := by
  simp only [tallyRec]
  repeat' split
  all_goals simp
@[simp] theorem tallyRec_par (c : BitVec 16) (a : BitVec 6) (ev : BitVec 10) (o : Option Nat) (b : Bytes) (s : State) : (tallyRec c a ev o b s).par = s.par := by
  simp only [tallyRec]
  repeat' split
  all_goals simp
@[simp] theorem tallyRec_glb (c : BitVec 16) (a : BitVec 6) (ev : BitVec 10) (o : Option Nat) (b : Bytes) (s : State) : (tallyRec c a ev o b s).glb = s.glb := by
  simp only [tallyRec]
  repeat' split
  all_goals simp
@[simp] theorem tallyRec_pwr (c : BitVec 16) (a : BitVec 6) (ev : BitVec 10) (o : Option Nat) (b : Bytes) (s : State) : (tallyRec c a ev o b s).pwr = s.pwr := by
  simp only [tallyRec]
  repeat' split
  all_goals simp
@[simp] theorem tallyRec_bst (c : BitVec 16) (a : BitVec 6) (ev : BitVec 10) (o : Option Nat) (b : Bytes) (s : State) : (tallyRec c a ev o b s).bst = s.bst := by
  simp only [tallyRec]
  repeat' split
  all_goals simp
@[simp] theorem tally_pending (c : BitVec 16) (b : Bytes) (s : State) : (tally c b s).pending = s.pending := by
  simp only [tally]
  repeat' split
  all_goals simp
@[simp] theorem tally_clk (c : BitVec 16) (b : Bytes) (s : State) : (tally c b s).clk = s.clk := by
  simp only [tally]
  repeat' split
  all_goals simp
@[simp] theorem tally_rng (c : BitVec 16) (b : Bytes) (s : State) : (tally c b s).rng = s.rng := by
  simp only [tally]
  repeat' split
  all_goals simp
@[simp] theorem tally_csn (c : BitVec 16) (b : Bytes) (s : State) : (tally c b s).csn = s.csn := by
  simp only [tally]
  repeat' split
  all_goals simp
@[simp] theorem tally_imem (c : BitVec 16) (b : Bytes) (s : State) : (tally c b s).imem = s.imem := by
  simp only [tally]
  repeat' split
  all_goals simp
@[simp] theorem tally_rwi (c : BitVec 16) (b : Bytes) (s : State) : (tally c b s).rwi = s.rwi := by
  simp only [tally]
  repeat' split
  all_goals simp
@[simp] theorem tally_pit (c : BitVec 16) (b : Bytes) (s : State) : (tally c b s).pit = s.pit := by
  simp only [tally]
  repeat' split
  all_goals simp
@[simp] theorem tally_sch (c : BitVec 16) (b : Bytes) (s : State) : (tally c b s).sch = s.sch := by
  simp only [tally]
  repeat' split
  all_goals simp
@[simp] theorem tally_cmc (c : BitVec 16) (b : Bytes) (s : State) : (tally c b s).cmc = s.cmc := by
  simp only [tally]
  repeat' split
  all_goals simp
@[simp] theorem tally_sel (c : BitVec 16) (b : Bytes) (s : State) : (tally c b s).sel = s.sel := by
  simp only [tally]
  repeat' split
  all_goals simp
@[simp] theorem tally_dma (c : BitVec 16) (b : Bytes) (s : State) : (tally c b s).dma = s.dma := by
  simp only [tally]
  repeat' split
  all_goals simp
@[simp] theorem tally_mbx (c : BitVec 16) (b : Bytes) (s : State) : (tally c b s).mbx = s.mbx := by
  simp only [tally]
  repeat' split
  all_goals simp
@[simp] theorem tally_mbxErr (c : BitVec 16) (b : Bytes) (s : State) : (tally c b s).mbxErr = s.mbxErr := by
  simp only [tally]
  repeat' split
  all_goals simp
@[simp] theorem tally_mpu (c : BitVec 16) (b : Bytes) (s : State) : (tally c b s).mpu = s.mpu := by
  simp only [tally]
  repeat' split
  all_goals simp
@[simp] theorem tally_caches (c : BitVec 16) (b : Bytes) (s : State) : (tally c b s).caches = s.caches := by
  simp only [tally]
  repeat' split
  all_goals simp
@[simp] theorem tally_units (c : BitVec 16) (b : Bytes) (s : State) : (tally c b s).units = s.units := by
  simp only [tally]
  repeat' split
  all_goals simp
@[simp] theorem tally_kst (c : BitVec 16) (b : Bytes) (s : State) : (tally c b s).kst = s.kst := by
  simp only [tally]
  repeat' split
  all_goals simp
@[simp] theorem tally_tmp (c : BitVec 16) (b : Bytes) (s : State) : (tally c b s).tmp = s.tmp := by
  simp only [tally]
  repeat' split
  all_goals simp
@[simp] theorem tally_bat (c : BitVec 16) (b : Bytes) (s : State) : (tally c b s).bat = s.bat := by
  simp only [tally]
  repeat' split
  all_goals simp
@[simp] theorem tally_lcs (c : BitVec 16) (b : Bytes) (s : State) : (tally c b s).lcs = s.lcs := by
  simp only [tally]
  repeat' split
  all_goals simp
@[simp] theorem tally_own (c : BitVec 16) (b : Bytes) (s : State) : (tally c b s).own = s.own := by
  simp only [tally]
  repeat' split
  all_goals simp
@[simp] theorem tally_par (c : BitVec 16) (b : Bytes) (s : State) : (tally c b s).par = s.par := by
  simp only [tally]
  repeat' split
  all_goals simp
@[simp] theorem tally_glb (c : BitVec 16) (b : Bytes) (s : State) : (tally c b s).glb = s.glb := by
  simp only [tally]
  repeat' split
  all_goals simp
@[simp] theorem tally_pwr (c : BitVec 16) (b : Bytes) (s : State) : (tally c b s).pwr = s.pwr := by
  simp only [tally]
  repeat' split
  all_goals simp
@[simp] theorem tally_bst (c : BitVec 16) (b : Bytes) (s : State) : (tally c b s).bst = s.bst := by
  simp only [tally]
  repeat' split
  all_goals simp
@[simp] theorem rwiDiscard_pending (off reason : Nat) (s : State) : (rwiDiscard off reason s).pending = s.pending := by
  simp only [rwiDiscard]
  repeat' split
  all_goals simp
@[simp] theorem rwiDiscard_clk (off reason : Nat) (s : State) : (rwiDiscard off reason s).clk = s.clk := by
  simp only [rwiDiscard]
  repeat' split
  all_goals simp
@[simp] theorem rwiDiscard_rng (off reason : Nat) (s : State) : (rwiDiscard off reason s).rng = s.rng := by
  simp only [rwiDiscard]
  repeat' split
  all_goals simp
@[simp] theorem rwiDiscard_csn (off reason : Nat) (s : State) : (rwiDiscard off reason s).csn = s.csn := by
  simp only [rwiDiscard]
  repeat' split
  all_goals simp
@[simp] theorem rwiDiscard_imem (off reason : Nat) (s : State) : (rwiDiscard off reason s).imem = s.imem := by
  simp only [rwiDiscard]
  repeat' split
  all_goals simp
@[simp] theorem rwiDiscard_rwi (off reason : Nat) (s : State) : (rwiDiscard off reason s).rwi = s.rwi := by
  simp only [rwiDiscard]
  repeat' split
  all_goals simp
@[simp] theorem rwiDiscard_pit (off reason : Nat) (s : State) : (rwiDiscard off reason s).pit = s.pit := by
  simp only [rwiDiscard]
  repeat' split
  all_goals simp
@[simp] theorem rwiDiscard_sch (off reason : Nat) (s : State) : (rwiDiscard off reason s).sch = s.sch := by
  simp only [rwiDiscard]
  repeat' split
  all_goals simp
@[simp] theorem rwiDiscard_cmc (off reason : Nat) (s : State) : (rwiDiscard off reason s).cmc = s.cmc := by
  simp only [rwiDiscard]
  repeat' split
  all_goals simp
@[simp] theorem rwiDiscard_sel (off reason : Nat) (s : State) : (rwiDiscard off reason s).sel = s.sel := by
  simp only [rwiDiscard]
  repeat' split
  all_goals simp
@[simp] theorem rwiDiscard_dma (off reason : Nat) (s : State) : (rwiDiscard off reason s).dma = s.dma := by
  simp only [rwiDiscard]
  repeat' split
  all_goals simp
@[simp] theorem rwiDiscard_mbx (off reason : Nat) (s : State) : (rwiDiscard off reason s).mbx = s.mbx := by
  simp only [rwiDiscard]
  repeat' split
  all_goals simp
@[simp] theorem rwiDiscard_mbxErr (off reason : Nat) (s : State) : (rwiDiscard off reason s).mbxErr = s.mbxErr := by
  simp only [rwiDiscard]
  repeat' split
  all_goals simp
@[simp] theorem rwiDiscard_mpu (off reason : Nat) (s : State) : (rwiDiscard off reason s).mpu = s.mpu := by
  simp only [rwiDiscard]
  repeat' split
  all_goals simp
@[simp] theorem rwiDiscard_caches (off reason : Nat) (s : State) : (rwiDiscard off reason s).caches = s.caches := by
  simp only [rwiDiscard]
  repeat' split
  all_goals simp
@[simp] theorem rwiDiscard_units (off reason : Nat) (s : State) : (rwiDiscard off reason s).units = s.units := by
  simp only [rwiDiscard]
  repeat' split
  all_goals simp
@[simp] theorem rwiDiscard_kst (off reason : Nat) (s : State) : (rwiDiscard off reason s).kst = s.kst := by
  simp only [rwiDiscard]
  repeat' split
  all_goals simp
@[simp] theorem rwiDiscard_tmp (off reason : Nat) (s : State) : (rwiDiscard off reason s).tmp = s.tmp := by
  simp only [rwiDiscard]
  repeat' split
  all_goals simp
@[simp] theorem rwiDiscard_bat (off reason : Nat) (s : State) : (rwiDiscard off reason s).bat = s.bat := by
  simp only [rwiDiscard]
  repeat' split
  all_goals simp
@[simp] theorem rwiDiscard_lcs (off reason : Nat) (s : State) : (rwiDiscard off reason s).lcs = s.lcs := by
  simp only [rwiDiscard]
  repeat' split
  all_goals simp
@[simp] theorem rwiDiscard_own (off reason : Nat) (s : State) : (rwiDiscard off reason s).own = s.own := by
  simp only [rwiDiscard]
  repeat' split
  all_goals simp
@[simp] theorem rwiDiscard_par (off reason : Nat) (s : State) : (rwiDiscard off reason s).par = s.par := by
  simp only [rwiDiscard]
  repeat' split
  all_goals simp
@[simp] theorem rwiDiscard_glb (off reason : Nat) (s : State) : (rwiDiscard off reason s).glb = s.glb := by
  simp only [rwiDiscard]
  repeat' split
  all_goals simp
@[simp] theorem rwiDiscard_pwr (off reason : Nat) (s : State) : (rwiDiscard off reason s).pwr = s.pwr := by
  simp only [rwiDiscard]
  repeat' split
  all_goals simp
@[simp] theorem rwiDiscard_bst (off reason : Nat) (s : State) : (rwiDiscard off reason s).bst = s.bst := by
  simp only [rwiDiscard]
  repeat' split
  all_goals simp
@[simp] theorem mirror_pending (r : SkimRecord) (s : State) : (mirror r s).pending = s.pending := by
  simp only [mirror]
  repeat' split
  all_goals simp
@[simp] theorem mirror_clk (r : SkimRecord) (s : State) : (mirror r s).clk = s.clk := by
  simp only [mirror]
  repeat' split
  all_goals simp
@[simp] theorem mirror_rng (r : SkimRecord) (s : State) : (mirror r s).rng = s.rng := by
  simp only [mirror]
  repeat' split
  all_goals simp
@[simp] theorem mirror_csn (r : SkimRecord) (s : State) : (mirror r s).csn = s.csn := by
  simp only [mirror]
  repeat' split
  all_goals simp
@[simp] theorem mirror_out (r : SkimRecord) (s : State) : (mirror r s).out = s.out := by
  simp only [mirror]
  repeat' split
  all_goals simp
@[simp] theorem mirror_imem (r : SkimRecord) (s : State) : (mirror r s).imem = s.imem := by
  simp only [mirror]
  repeat' split
  all_goals simp
@[simp] theorem mirror_rwi (r : SkimRecord) (s : State) : (mirror r s).rwi = s.rwi := by
  simp only [mirror]
  repeat' split
  all_goals simp
@[simp] theorem mirror_pit (r : SkimRecord) (s : State) : (mirror r s).pit = s.pit := by
  simp only [mirror]
  repeat' split
  all_goals simp
@[simp] theorem mirror_rqe (r : SkimRecord) (s : State) : (mirror r s).rqe = s.rqe := by
  simp only [mirror]
  repeat' split
  all_goals simp
@[simp] theorem mirror_sch (r : SkimRecord) (s : State) : (mirror r s).sch = s.sch := by
  simp only [mirror]
  repeat' split
  all_goals simp
@[simp] theorem mirror_cmc (r : SkimRecord) (s : State) : (mirror r s).cmc = s.cmc := by
  simp only [mirror]
  repeat' split
  all_goals simp
@[simp] theorem mirror_sel (r : SkimRecord) (s : State) : (mirror r s).sel = s.sel := by
  simp only [mirror]
  repeat' split
  all_goals simp
@[simp] theorem mirror_dma (r : SkimRecord) (s : State) : (mirror r s).dma = s.dma := by
  simp only [mirror]
  repeat' split
  all_goals simp
@[simp] theorem mirror_mbx (r : SkimRecord) (s : State) : (mirror r s).mbx = s.mbx := by
  simp only [mirror]
  repeat' split
  all_goals simp
@[simp] theorem mirror_mbxErr (r : SkimRecord) (s : State) : (mirror r s).mbxErr = s.mbxErr := by
  simp only [mirror]
  repeat' split
  all_goals simp
@[simp] theorem mirror_mpu (r : SkimRecord) (s : State) : (mirror r s).mpu = s.mpu := by
  simp only [mirror]
  repeat' split
  all_goals simp
@[simp] theorem mirror_caches (r : SkimRecord) (s : State) : (mirror r s).caches = s.caches := by
  simp only [mirror]
  repeat' split
  all_goals simp
@[simp] theorem mirror_units (r : SkimRecord) (s : State) : (mirror r s).units = s.units := by
  simp only [mirror]
  repeat' split
  all_goals simp
@[simp] theorem mirror_kst (r : SkimRecord) (s : State) : (mirror r s).kst = s.kst := by
  simp only [mirror]
  repeat' split
  all_goals simp
@[simp] theorem mirror_tmp (r : SkimRecord) (s : State) : (mirror r s).tmp = s.tmp := by
  simp only [mirror]
  repeat' split
  all_goals simp
@[simp] theorem mirror_bat (r : SkimRecord) (s : State) : (mirror r s).bat = s.bat := by
  simp only [mirror]
  repeat' split
  all_goals simp
@[simp] theorem mirror_lcs (r : SkimRecord) (s : State) : (mirror r s).lcs = s.lcs := by
  simp only [mirror]
  repeat' split
  all_goals simp
@[simp] theorem mirror_own (r : SkimRecord) (s : State) : (mirror r s).own = s.own := by
  simp only [mirror]
  repeat' split
  all_goals simp
@[simp] theorem mirror_glb (r : SkimRecord) (s : State) : (mirror r s).glb = s.glb := by
  simp only [mirror]
  repeat' split
  all_goals simp
@[simp] theorem mirror_pwr (r : SkimRecord) (s : State) : (mirror r s).pwr = s.pwr := by
  simp only [mirror]
  repeat' split
  all_goals simp
@[simp] theorem mirror_bst (r : SkimRecord) (s : State) : (mirror r s).bst = s.bst := by
  simp only [mirror]
  repeat' split
  all_goals simp
@[simp] theorem mirror_tly (r : SkimRecord) (s : State) : (mirror r s).tly = s.tly := by
  simp only [mirror]
  repeat' split
  all_goals simp
@[simp] theorem mirror_evc (r : SkimRecord) (s : State) : (mirror r s).evc = s.evc := by
  simp only [mirror]
  repeat' split
  all_goals simp
@[simp] theorem journalStart_pending (s : State) : (journalStart s).pending = s.pending := by
  simp only [journalStart]
  repeat' split
  all_goals simp
@[simp] theorem journalStart_clk (s : State) : (journalStart s).clk = s.clk := by
  simp only [journalStart]
  repeat' split
  all_goals simp
@[simp] theorem journalStart_rng (s : State) : (journalStart s).rng = s.rng := by
  simp only [journalStart]
  repeat' split
  all_goals simp
@[simp] theorem journalStart_csn (s : State) : (journalStart s).csn = s.csn := by
  simp only [journalStart]
  repeat' split
  all_goals simp
@[simp] theorem journalStart_out (s : State) : (journalStart s).out = s.out := by
  simp only [journalStart]
  repeat' split
  all_goals simp
@[simp] theorem journalStart_imem (s : State) : (journalStart s).imem = s.imem := by
  simp only [journalStart]
  repeat' split
  all_goals simp
@[simp] theorem journalStart_rwi (s : State) : (journalStart s).rwi = s.rwi := by
  simp only [journalStart]
  repeat' split
  all_goals simp
@[simp] theorem journalStart_pit (s : State) : (journalStart s).pit = s.pit := by
  simp only [journalStart]
  repeat' split
  all_goals simp
@[simp] theorem journalStart_rqe (s : State) : (journalStart s).rqe = s.rqe := by
  simp only [journalStart]
  repeat' split
  all_goals simp
@[simp] theorem journalStart_sch (s : State) : (journalStart s).sch = s.sch := by
  simp only [journalStart]
  repeat' split
  all_goals simp
@[simp] theorem journalStart_cmc (s : State) : (journalStart s).cmc = s.cmc := by
  simp only [journalStart]
  repeat' split
  all_goals simp
@[simp] theorem journalStart_sel (s : State) : (journalStart s).sel = s.sel := by
  simp only [journalStart]
  repeat' split
  all_goals simp
@[simp] theorem journalStart_dma (s : State) : (journalStart s).dma = s.dma := by
  simp only [journalStart]
  repeat' split
  all_goals simp
@[simp] theorem journalStart_mbx (s : State) : (journalStart s).mbx = s.mbx := by
  simp only [journalStart]
  repeat' split
  all_goals simp
@[simp] theorem journalStart_mbxErr (s : State) : (journalStart s).mbxErr = s.mbxErr := by
  simp only [journalStart]
  repeat' split
  all_goals simp
@[simp] theorem journalStart_mpu (s : State) : (journalStart s).mpu = s.mpu := by
  simp only [journalStart]
  repeat' split
  all_goals simp
@[simp] theorem journalStart_caches (s : State) : (journalStart s).caches = s.caches := by
  simp only [journalStart]
  repeat' split
  all_goals simp
@[simp] theorem journalStart_units (s : State) : (journalStart s).units = s.units := by
  simp only [journalStart]
  repeat' split
  all_goals simp
@[simp] theorem journalStart_tmp (s : State) : (journalStart s).tmp = s.tmp := by
  simp only [journalStart]
  repeat' split
  all_goals simp
@[simp] theorem journalStart_bat (s : State) : (journalStart s).bat = s.bat := by
  simp only [journalStart]
  repeat' split
  all_goals simp
@[simp] theorem journalStart_lcs (s : State) : (journalStart s).lcs = s.lcs := by
  simp only [journalStart]
  repeat' split
  all_goals simp
@[simp] theorem journalStart_own (s : State) : (journalStart s).own = s.own := by
  simp only [journalStart]
  repeat' split
  all_goals simp
@[simp] theorem journalStart_par (s : State) : (journalStart s).par = s.par := by
  simp only [journalStart]
  repeat' split
  all_goals simp
@[simp] theorem journalStart_glb (s : State) : (journalStart s).glb = s.glb := by
  simp only [journalStart]
  repeat' split
  all_goals simp
@[simp] theorem journalStart_pwr (s : State) : (journalStart s).pwr = s.pwr := by
  simp only [journalStart]
  repeat' split
  all_goals simp
@[simp] theorem journalStart_bst (s : State) : (journalStart s).bst = s.bst := by
  simp only [journalStart]
  repeat' split
  all_goals simp
@[simp] theorem journalStart_tly (s : State) : (journalStart s).tly = s.tly := by
  simp only [journalStart]
  repeat' split
  all_goals simp
@[simp] theorem journalStart_evc (s : State) : (journalStart s).evc = s.evc := by
  simp only [journalStart]
  repeat' split
  all_goals simp
@[simp] theorem journal_pending (w : Sealed) (c : Nat) (s : State) : (journal w c s).pending = s.pending := by
  simp only [journal]
  repeat' split
  all_goals simp
@[simp] theorem journal_clk (w : Sealed) (c : Nat) (s : State) : (journal w c s).clk = s.clk := by
  simp only [journal]
  repeat' split
  all_goals simp
@[simp] theorem journal_rng (w : Sealed) (c : Nat) (s : State) : (journal w c s).rng = s.rng := by
  simp only [journal]
  repeat' split
  all_goals simp
@[simp] theorem journal_csn (w : Sealed) (c : Nat) (s : State) : (journal w c s).csn = s.csn := by
  simp only [journal]
  repeat' split
  all_goals simp
@[simp] theorem journal_imem (w : Sealed) (c : Nat) (s : State) : (journal w c s).imem = s.imem := by
  simp only [journal]
  repeat' split
  all_goals simp
@[simp] theorem journal_rwi (w : Sealed) (c : Nat) (s : State) : (journal w c s).rwi = s.rwi := by
  simp only [journal]
  repeat' split
  all_goals simp
@[simp] theorem journal_pit (w : Sealed) (c : Nat) (s : State) : (journal w c s).pit = s.pit := by
  simp only [journal]
  repeat' split
  all_goals simp
@[simp] theorem journal_sch (w : Sealed) (c : Nat) (s : State) : (journal w c s).sch = s.sch := by
  simp only [journal]
  repeat' split
  all_goals simp
@[simp] theorem journal_cmc (w : Sealed) (c : Nat) (s : State) : (journal w c s).cmc = s.cmc := by
  simp only [journal]
  repeat' split
  all_goals simp
@[simp] theorem journal_sel (w : Sealed) (c : Nat) (s : State) : (journal w c s).sel = s.sel := by
  simp only [journal]
  repeat' split
  all_goals simp
@[simp] theorem journal_dma (w : Sealed) (c : Nat) (s : State) : (journal w c s).dma = s.dma := by
  simp only [journal]
  repeat' split
  all_goals simp
@[simp] theorem journal_mbx (w : Sealed) (c : Nat) (s : State) : (journal w c s).mbx = s.mbx := by
  simp only [journal]
  repeat' split
  all_goals simp
@[simp] theorem journal_mbxErr (w : Sealed) (c : Nat) (s : State) : (journal w c s).mbxErr = s.mbxErr := by
  simp only [journal]
  repeat' split
  all_goals simp
@[simp] theorem journal_mpu (w : Sealed) (c : Nat) (s : State) : (journal w c s).mpu = s.mpu := by
  simp only [journal]
  repeat' split
  all_goals simp
@[simp] theorem journal_caches (w : Sealed) (c : Nat) (s : State) : (journal w c s).caches = s.caches := by
  simp only [journal]
  repeat' split
  all_goals simp
@[simp] theorem journal_units (w : Sealed) (c : Nat) (s : State) : (journal w c s).units = s.units := by
  simp only [journal]
  repeat' split
  all_goals simp
@[simp] theorem journal_tmp (w : Sealed) (c : Nat) (s : State) : (journal w c s).tmp = s.tmp := by
  simp only [journal]
  repeat' split
  all_goals simp
@[simp] theorem journal_bat (w : Sealed) (c : Nat) (s : State) : (journal w c s).bat = s.bat := by
  simp only [journal]
  repeat' split
  all_goals simp
@[simp] theorem journal_lcs (w : Sealed) (c : Nat) (s : State) : (journal w c s).lcs = s.lcs := by
  simp only [journal]
  repeat' split
  all_goals simp
@[simp] theorem journal_own (w : Sealed) (c : Nat) (s : State) : (journal w c s).own = s.own := by
  simp only [journal]
  repeat' split
  all_goals simp
@[simp] theorem journal_par (w : Sealed) (c : Nat) (s : State) : (journal w c s).par = s.par := by
  simp only [journal]
  repeat' split
  all_goals simp
@[simp] theorem journal_glb (w : Sealed) (c : Nat) (s : State) : (journal w c s).glb = s.glb := by
  simp only [journal]
  repeat' split
  all_goals simp
@[simp] theorem journal_pwr (w : Sealed) (c : Nat) (s : State) : (journal w c s).pwr = s.pwr := by
  simp only [journal]
  repeat' split
  all_goals simp
@[simp] theorem journal_bst (w : Sealed) (c : Nat) (s : State) : (journal w c s).bst = s.bst := by
  simp only [journal]
  repeat' split
  all_goals simp
@[simp] theorem journal_tly (w : Sealed) (c : Nat) (s : State) : (journal w c s).tly = s.tly := by
  simp only [journal]
  repeat' split
  all_goals simp
@[simp] theorem sealPitch_pending (p c : Nat) (s : State) : (sealPitch p c s).pending = s.pending := by
  simp only [sealPitch]
  repeat' split
  all_goals simp
@[simp] theorem sealPitch_clk (p c : Nat) (s : State) : (sealPitch p c s).clk = s.clk := by
  simp only [sealPitch]
  repeat' split
  all_goals simp
@[simp] theorem sealPitch_rng (p c : Nat) (s : State) : (sealPitch p c s).rng = s.rng := by
  simp only [sealPitch]
  repeat' split
  all_goals simp
@[simp] theorem sealPitch_csn (p c : Nat) (s : State) : (sealPitch p c s).csn = s.csn := by
  simp only [sealPitch]
  repeat' split
  all_goals simp
@[simp] theorem sealPitch_imem (p c : Nat) (s : State) : (sealPitch p c s).imem = s.imem := by
  simp only [sealPitch]
  repeat' split
  all_goals simp
@[simp] theorem sealPitch_rwi (p c : Nat) (s : State) : (sealPitch p c s).rwi = s.rwi := by
  simp only [sealPitch]
  repeat' split
  all_goals simp
@[simp] theorem sealPitch_pit (p c : Nat) (s : State) : (sealPitch p c s).pit = s.pit := by
  simp only [sealPitch]
  repeat' split
  all_goals simp
@[simp] theorem sealPitch_sch (p c : Nat) (s : State) : (sealPitch p c s).sch = s.sch := by
  simp only [sealPitch]
  repeat' split
  all_goals simp
@[simp] theorem sealPitch_cmc (p c : Nat) (s : State) : (sealPitch p c s).cmc = s.cmc := by
  simp only [sealPitch]
  repeat' split
  all_goals simp
@[simp] theorem sealPitch_sel (p c : Nat) (s : State) : (sealPitch p c s).sel = s.sel := by
  simp only [sealPitch]
  repeat' split
  all_goals simp
@[simp] theorem sealPitch_dma (p c : Nat) (s : State) : (sealPitch p c s).dma = s.dma := by
  simp only [sealPitch]
  repeat' split
  all_goals simp
@[simp] theorem sealPitch_mbx (p c : Nat) (s : State) : (sealPitch p c s).mbx = s.mbx := by
  simp only [sealPitch]
  repeat' split
  all_goals simp
@[simp] theorem sealPitch_mbxErr (p c : Nat) (s : State) : (sealPitch p c s).mbxErr = s.mbxErr := by
  simp only [sealPitch]
  repeat' split
  all_goals simp
@[simp] theorem sealPitch_mpu (p c : Nat) (s : State) : (sealPitch p c s).mpu = s.mpu := by
  simp only [sealPitch]
  repeat' split
  all_goals simp
@[simp] theorem sealPitch_caches (p c : Nat) (s : State) : (sealPitch p c s).caches = s.caches := by
  simp only [sealPitch]
  repeat' split
  all_goals simp
@[simp] theorem sealPitch_units (p c : Nat) (s : State) : (sealPitch p c s).units = s.units := by
  simp only [sealPitch]
  repeat' split
  all_goals simp
@[simp] theorem sealPitch_tmp (p c : Nat) (s : State) : (sealPitch p c s).tmp = s.tmp := by
  simp only [sealPitch]
  repeat' split
  all_goals simp
@[simp] theorem sealPitch_bat (p c : Nat) (s : State) : (sealPitch p c s).bat = s.bat := by
  simp only [sealPitch]
  repeat' split
  all_goals simp
@[simp] theorem sealPitch_lcs (p c : Nat) (s : State) : (sealPitch p c s).lcs = s.lcs := by
  simp only [sealPitch]
  repeat' split
  all_goals simp
@[simp] theorem sealPitch_own (p c : Nat) (s : State) : (sealPitch p c s).own = s.own := by
  simp only [sealPitch]
  repeat' split
  all_goals simp
@[simp] theorem sealPitch_glb (p c : Nat) (s : State) : (sealPitch p c s).glb = s.glb := by
  simp only [sealPitch]
  repeat' split
  all_goals simp
@[simp] theorem sealPitch_pwr (p c : Nat) (s : State) : (sealPitch p c s).pwr = s.pwr := by
  simp only [sealPitch]
  repeat' split
  all_goals simp
@[simp] theorem sealPitch_bst (p c : Nat) (s : State) : (sealPitch p c s).bst = s.bst := by
  simp only [sealPitch]
  repeat' split
  all_goals simp
@[simp] theorem sealPitch_tly (p c : Nat) (s : State) : (sealPitch p c s).tly = s.tly := by
  simp only [sealPitch]
  repeat' split
  all_goals simp
@[simp] theorem sealNow_pending (p : Nat) (s : State) : (sealNow p s).pending = s.pending := by
  simp only [sealNow]
  repeat' split
  all_goals simp
@[simp] theorem sealNow_clk (p : Nat) (s : State) : (sealNow p s).clk = s.clk := by
  simp only [sealNow]
  repeat' split
  all_goals simp
@[simp] theorem sealNow_rng (p : Nat) (s : State) : (sealNow p s).rng = s.rng := by
  simp only [sealNow]
  repeat' split
  all_goals simp
@[simp] theorem sealNow_csn (p : Nat) (s : State) : (sealNow p s).csn = s.csn := by
  simp only [sealNow]
  repeat' split
  all_goals simp
@[simp] theorem sealNow_imem (p : Nat) (s : State) : (sealNow p s).imem = s.imem := by
  simp only [sealNow]
  repeat' split
  all_goals simp
@[simp] theorem sealNow_rwi (p : Nat) (s : State) : (sealNow p s).rwi = s.rwi := by
  simp only [sealNow]
  repeat' split
  all_goals simp
@[simp] theorem sealNow_pit (p : Nat) (s : State) : (sealNow p s).pit = s.pit := by
  simp only [sealNow]
  repeat' split
  all_goals simp
@[simp] theorem sealNow_sch (p : Nat) (s : State) : (sealNow p s).sch = s.sch := by
  simp only [sealNow]
  repeat' split
  all_goals simp
@[simp] theorem sealNow_cmc (p : Nat) (s : State) : (sealNow p s).cmc = s.cmc := by
  simp only [sealNow]
  repeat' split
  all_goals simp
@[simp] theorem sealNow_sel (p : Nat) (s : State) : (sealNow p s).sel = s.sel := by
  simp only [sealNow]
  repeat' split
  all_goals simp
@[simp] theorem sealNow_dma (p : Nat) (s : State) : (sealNow p s).dma = s.dma := by
  simp only [sealNow]
  repeat' split
  all_goals simp
@[simp] theorem sealNow_mbx (p : Nat) (s : State) : (sealNow p s).mbx = s.mbx := by
  simp only [sealNow]
  repeat' split
  all_goals simp
@[simp] theorem sealNow_mbxErr (p : Nat) (s : State) : (sealNow p s).mbxErr = s.mbxErr := by
  simp only [sealNow]
  repeat' split
  all_goals simp
@[simp] theorem sealNow_mpu (p : Nat) (s : State) : (sealNow p s).mpu = s.mpu := by
  simp only [sealNow]
  repeat' split
  all_goals simp
@[simp] theorem sealNow_caches (p : Nat) (s : State) : (sealNow p s).caches = s.caches := by
  simp only [sealNow]
  repeat' split
  all_goals simp
@[simp] theorem sealNow_units (p : Nat) (s : State) : (sealNow p s).units = s.units := by
  simp only [sealNow]
  repeat' split
  all_goals simp
@[simp] theorem sealNow_tmp (p : Nat) (s : State) : (sealNow p s).tmp = s.tmp := by
  simp only [sealNow]
  repeat' split
  all_goals simp
@[simp] theorem sealNow_bat (p : Nat) (s : State) : (sealNow p s).bat = s.bat := by
  simp only [sealNow]
  repeat' split
  all_goals simp
@[simp] theorem sealNow_lcs (p : Nat) (s : State) : (sealNow p s).lcs = s.lcs := by
  simp only [sealNow]
  repeat' split
  all_goals simp
@[simp] theorem sealNow_own (p : Nat) (s : State) : (sealNow p s).own = s.own := by
  simp only [sealNow]
  repeat' split
  all_goals simp
@[simp] theorem sealNow_glb (p : Nat) (s : State) : (sealNow p s).glb = s.glb := by
  simp only [sealNow]
  repeat' split
  all_goals simp
@[simp] theorem sealNow_pwr (p : Nat) (s : State) : (sealNow p s).pwr = s.pwr := by
  simp only [sealNow]
  repeat' split
  all_goals simp
@[simp] theorem sealNow_bst (p : Nat) (s : State) : (sealNow p s).bst = s.bst := by
  simp only [sealNow]
  repeat' split
  all_goals simp
@[simp] theorem sealNow_tly (p : Nat) (s : State) : (sealNow p s).tly = s.tly := by
  simp only [sealNow]
  repeat' split
  all_goals simp
@[simp] theorem writeSlot_pending (n : Nat) (k : Bytes) (a : BitVec 128) (t : KeyTag) (c : Nat) (s : State) : (writeSlot n k a t c s).pending = s.pending := by
  simp only [writeSlot]
  repeat' split
  all_goals simp
@[simp] theorem writeSlot_clk (n : Nat) (k : Bytes) (a : BitVec 128) (t : KeyTag) (c : Nat) (s : State) : (writeSlot n k a t c s).clk = s.clk := by
  simp only [writeSlot]
  repeat' split
  all_goals simp
@[simp] theorem writeSlot_rng (n : Nat) (k : Bytes) (a : BitVec 128) (t : KeyTag) (c : Nat) (s : State) : (writeSlot n k a t c s).rng = s.rng := by
  simp only [writeSlot]
  repeat' split
  all_goals simp
@[simp] theorem writeSlot_csn (n : Nat) (k : Bytes) (a : BitVec 128) (t : KeyTag) (c : Nat) (s : State) : (writeSlot n k a t c s).csn = s.csn := by
  simp only [writeSlot]
  repeat' split
  all_goals simp
@[simp] theorem writeSlot_imem (n : Nat) (k : Bytes) (a : BitVec 128) (t : KeyTag) (c : Nat) (s : State) : (writeSlot n k a t c s).imem = s.imem := by
  simp only [writeSlot]
  repeat' split
  all_goals simp
@[simp] theorem writeSlot_rwi (n : Nat) (k : Bytes) (a : BitVec 128) (t : KeyTag) (c : Nat) (s : State) : (writeSlot n k a t c s).rwi = s.rwi := by
  simp only [writeSlot]
  repeat' split
  all_goals simp
@[simp] theorem writeSlot_pit (n : Nat) (k : Bytes) (a : BitVec 128) (t : KeyTag) (c : Nat) (s : State) : (writeSlot n k a t c s).pit = s.pit := by
  simp only [writeSlot]
  repeat' split
  all_goals simp
@[simp] theorem writeSlot_sch (n : Nat) (k : Bytes) (a : BitVec 128) (t : KeyTag) (c : Nat) (s : State) : (writeSlot n k a t c s).sch = s.sch := by
  simp only [writeSlot]
  repeat' split
  all_goals simp
@[simp] theorem writeSlot_cmc (n : Nat) (k : Bytes) (a : BitVec 128) (t : KeyTag) (c : Nat) (s : State) : (writeSlot n k a t c s).cmc = s.cmc := by
  simp only [writeSlot]
  repeat' split
  all_goals simp
@[simp] theorem writeSlot_sel (n : Nat) (k : Bytes) (a : BitVec 128) (t : KeyTag) (c : Nat) (s : State) : (writeSlot n k a t c s).sel = s.sel := by
  simp only [writeSlot]
  repeat' split
  all_goals simp
@[simp] theorem writeSlot_dma (n : Nat) (k : Bytes) (a : BitVec 128) (t : KeyTag) (c : Nat) (s : State) : (writeSlot n k a t c s).dma = s.dma := by
  simp only [writeSlot]
  repeat' split
  all_goals simp
@[simp] theorem writeSlot_mbx (n : Nat) (k : Bytes) (a : BitVec 128) (t : KeyTag) (c : Nat) (s : State) : (writeSlot n k a t c s).mbx = s.mbx := by
  simp only [writeSlot]
  repeat' split
  all_goals simp
@[simp] theorem writeSlot_mbxErr (n : Nat) (k : Bytes) (a : BitVec 128) (t : KeyTag) (c : Nat) (s : State) : (writeSlot n k a t c s).mbxErr = s.mbxErr := by
  simp only [writeSlot]
  repeat' split
  all_goals simp
@[simp] theorem writeSlot_mpu (n : Nat) (k : Bytes) (a : BitVec 128) (t : KeyTag) (c : Nat) (s : State) : (writeSlot n k a t c s).mpu = s.mpu := by
  simp only [writeSlot]
  repeat' split
  all_goals simp
@[simp] theorem writeSlot_caches (n : Nat) (k : Bytes) (a : BitVec 128) (t : KeyTag) (c : Nat) (s : State) : (writeSlot n k a t c s).caches = s.caches := by
  simp only [writeSlot]
  repeat' split
  all_goals simp
@[simp] theorem writeSlot_units (n : Nat) (k : Bytes) (a : BitVec 128) (t : KeyTag) (c : Nat) (s : State) : (writeSlot n k a t c s).units = s.units := by
  simp only [writeSlot]
  repeat' split
  all_goals simp
@[simp] theorem writeSlot_tmp (n : Nat) (k : Bytes) (a : BitVec 128) (t : KeyTag) (c : Nat) (s : State) : (writeSlot n k a t c s).tmp = s.tmp := by
  simp only [writeSlot]
  repeat' split
  all_goals simp
@[simp] theorem writeSlot_bat (n : Nat) (k : Bytes) (a : BitVec 128) (t : KeyTag) (c : Nat) (s : State) : (writeSlot n k a t c s).bat = s.bat := by
  simp only [writeSlot]
  repeat' split
  all_goals simp
@[simp] theorem writeSlot_lcs (n : Nat) (k : Bytes) (a : BitVec 128) (t : KeyTag) (c : Nat) (s : State) : (writeSlot n k a t c s).lcs = s.lcs := by
  simp only [writeSlot]
  repeat' split
  all_goals simp
@[simp] theorem writeSlot_own (n : Nat) (k : Bytes) (a : BitVec 128) (t : KeyTag) (c : Nat) (s : State) : (writeSlot n k a t c s).own = s.own := by
  simp only [writeSlot]
  repeat' split
  all_goals simp
@[simp] theorem writeSlot_glb (n : Nat) (k : Bytes) (a : BitVec 128) (t : KeyTag) (c : Nat) (s : State) : (writeSlot n k a t c s).glb = s.glb := by
  simp only [writeSlot]
  repeat' split
  all_goals simp
@[simp] theorem writeSlot_pwr (n : Nat) (k : Bytes) (a : BitVec 128) (t : KeyTag) (c : Nat) (s : State) : (writeSlot n k a t c s).pwr = s.pwr := by
  simp only [writeSlot]
  repeat' split
  all_goals simp
@[simp] theorem writeSlot_bst (n : Nat) (k : Bytes) (a : BitVec 128) (t : KeyTag) (c : Nat) (s : State) : (writeSlot n k a t c s).bst = s.bst := by
  simp only [writeSlot]
  repeat' split
  all_goals simp
@[simp] theorem writeSlot_tly (n : Nat) (k : Bytes) (a : BitVec 128) (t : KeyTag) (c : Nat) (s : State) : (writeSlot n k a t c s).tly = s.tly := by
  simp only [writeSlot]
  repeat' split
  all_goals simp
@[simp] theorem aerError_pending (port : Port) (b : Nat) (s : State) : (aerError port b s).pending = s.pending := by
  simp only [aerError]
  repeat' split
  all_goals simp
@[simp] theorem aerError_clk (port : Port) (b : Nat) (s : State) : (aerError port b s).clk = s.clk := by
  simp only [aerError]
  repeat' split
  all_goals simp
@[simp] theorem aerError_rng (port : Port) (b : Nat) (s : State) : (aerError port b s).rng = s.rng := by
  simp only [aerError]
  repeat' split
  all_goals simp
@[simp] theorem aerError_csn (port : Port) (b : Nat) (s : State) : (aerError port b s).csn = s.csn := by
  simp only [aerError]
  repeat' split
  all_goals simp
@[simp] theorem aerError_imem (port : Port) (b : Nat) (s : State) : (aerError port b s).imem = s.imem := by
  simp only [aerError]
  repeat' split
  all_goals simp
@[simp] theorem aerError_rwi (port : Port) (b : Nat) (s : State) : (aerError port b s).rwi = s.rwi := by
  simp only [aerError]
  repeat' split
  all_goals simp
@[simp] theorem aerError_pit (port : Port) (b : Nat) (s : State) : (aerError port b s).pit = s.pit := by
  simp only [aerError]
  repeat' split
  all_goals simp
@[simp] theorem aerError_sch (port : Port) (b : Nat) (s : State) : (aerError port b s).sch = s.sch := by
  simp only [aerError]
  repeat' split
  all_goals simp
@[simp] theorem aerError_cmc (port : Port) (b : Nat) (s : State) : (aerError port b s).cmc = s.cmc := by
  simp only [aerError]
  repeat' split
  all_goals simp
@[simp] theorem aerError_sel (port : Port) (b : Nat) (s : State) : (aerError port b s).sel = s.sel := by
  simp only [aerError]
  repeat' split
  all_goals simp
@[simp] theorem aerError_dma (port : Port) (b : Nat) (s : State) : (aerError port b s).dma = s.dma := by
  simp only [aerError]
  repeat' split
  all_goals simp
@[simp] theorem aerError_mbx (port : Port) (b : Nat) (s : State) : (aerError port b s).mbx = s.mbx := by
  simp only [aerError]
  repeat' split
  all_goals simp
@[simp] theorem aerError_mbxErr (port : Port) (b : Nat) (s : State) : (aerError port b s).mbxErr = s.mbxErr := by
  simp only [aerError]
  repeat' split
  all_goals simp
@[simp] theorem aerError_mpu (port : Port) (b : Nat) (s : State) : (aerError port b s).mpu = s.mpu := by
  simp only [aerError]
  repeat' split
  all_goals simp
@[simp] theorem aerError_caches (port : Port) (b : Nat) (s : State) : (aerError port b s).caches = s.caches := by
  simp only [aerError]
  repeat' split
  all_goals simp
@[simp] theorem aerError_units (port : Port) (b : Nat) (s : State) : (aerError port b s).units = s.units := by
  simp only [aerError]
  repeat' split
  all_goals simp
@[simp] theorem aerError_kst (port : Port) (b : Nat) (s : State) : (aerError port b s).kst = s.kst := by
  simp only [aerError]
  repeat' split
  all_goals simp
@[simp] theorem aerError_tmp (port : Port) (b : Nat) (s : State) : (aerError port b s).tmp = s.tmp := by
  simp only [aerError]
  repeat' split
  all_goals simp
@[simp] theorem aerError_bat (port : Port) (b : Nat) (s : State) : (aerError port b s).bat = s.bat := by
  simp only [aerError]
  repeat' split
  all_goals simp
@[simp] theorem aerError_lcs (port : Port) (b : Nat) (s : State) : (aerError port b s).lcs = s.lcs := by
  simp only [aerError]
  repeat' split
  all_goals simp
@[simp] theorem aerError_own (port : Port) (b : Nat) (s : State) : (aerError port b s).own = s.own := by
  simp only [aerError]
  repeat' split
  all_goals simp
@[simp] theorem aerError_par (port : Port) (b : Nat) (s : State) : (aerError port b s).par = s.par := by
  simp only [aerError]
  repeat' split
  all_goals simp
@[simp] theorem aerError_glb (port : Port) (b : Nat) (s : State) : (aerError port b s).glb = s.glb := by
  simp only [aerError]
  repeat' split
  all_goals simp
@[simp] theorem aerError_pwr (port : Port) (b : Nat) (s : State) : (aerError port b s).pwr = s.pwr := by
  simp only [aerError]
  repeat' split
  all_goals simp
@[simp] theorem aerError_bst (port : Port) (b : Nat) (s : State) : (aerError port b s).bst = s.bst := by
  simp only [aerError]
  repeat' split
  all_goals simp
@[simp] theorem aerError_tly (port : Port) (b : Nat) (s : State) : (aerError port b s).tly = s.tly := by
  simp only [aerError]
  repeat' split
  all_goals simp
@[simp] theorem aerInternal_pending (b : Bool) (s : State) : (aerInternal b s).pending = s.pending := by
  simp only [aerInternal]
  repeat' split
  all_goals simp
@[simp] theorem aerInternal_clk (b : Bool) (s : State) : (aerInternal b s).clk = s.clk := by
  simp only [aerInternal]
  repeat' split
  all_goals simp
@[simp] theorem aerInternal_rng (b : Bool) (s : State) : (aerInternal b s).rng = s.rng := by
  simp only [aerInternal]
  repeat' split
  all_goals simp
@[simp] theorem aerInternal_csn (b : Bool) (s : State) : (aerInternal b s).csn = s.csn := by
  simp only [aerInternal]
  repeat' split
  all_goals simp
@[simp] theorem aerInternal_imem (b : Bool) (s : State) : (aerInternal b s).imem = s.imem := by
  simp only [aerInternal]
  repeat' split
  all_goals simp
@[simp] theorem aerInternal_rwi (b : Bool) (s : State) : (aerInternal b s).rwi = s.rwi := by
  simp only [aerInternal]
  repeat' split
  all_goals simp
@[simp] theorem aerInternal_pit (b : Bool) (s : State) : (aerInternal b s).pit = s.pit := by
  simp only [aerInternal]
  repeat' split
  all_goals simp
@[simp] theorem aerInternal_sch (b : Bool) (s : State) : (aerInternal b s).sch = s.sch := by
  simp only [aerInternal]
  repeat' split
  all_goals simp
@[simp] theorem aerInternal_cmc (b : Bool) (s : State) : (aerInternal b s).cmc = s.cmc := by
  simp only [aerInternal]
  repeat' split
  all_goals simp
@[simp] theorem aerInternal_sel (b : Bool) (s : State) : (aerInternal b s).sel = s.sel := by
  simp only [aerInternal]
  repeat' split
  all_goals simp
@[simp] theorem aerInternal_dma (b : Bool) (s : State) : (aerInternal b s).dma = s.dma := by
  simp only [aerInternal]
  repeat' split
  all_goals simp
@[simp] theorem aerInternal_mbx (b : Bool) (s : State) : (aerInternal b s).mbx = s.mbx := by
  simp only [aerInternal]
  repeat' split
  all_goals simp
@[simp] theorem aerInternal_mbxErr (b : Bool) (s : State) : (aerInternal b s).mbxErr = s.mbxErr := by
  simp only [aerInternal]
  repeat' split
  all_goals simp
@[simp] theorem aerInternal_mpu (b : Bool) (s : State) : (aerInternal b s).mpu = s.mpu := by
  simp only [aerInternal]
  repeat' split
  all_goals simp
@[simp] theorem aerInternal_caches (b : Bool) (s : State) : (aerInternal b s).caches = s.caches := by
  simp only [aerInternal]
  repeat' split
  all_goals simp
@[simp] theorem aerInternal_units (b : Bool) (s : State) : (aerInternal b s).units = s.units := by
  simp only [aerInternal]
  repeat' split
  all_goals simp
@[simp] theorem aerInternal_kst (b : Bool) (s : State) : (aerInternal b s).kst = s.kst := by
  simp only [aerInternal]
  repeat' split
  all_goals simp
@[simp] theorem aerInternal_tmp (b : Bool) (s : State) : (aerInternal b s).tmp = s.tmp := by
  simp only [aerInternal]
  repeat' split
  all_goals simp
@[simp] theorem aerInternal_bat (b : Bool) (s : State) : (aerInternal b s).bat = s.bat := by
  simp only [aerInternal]
  repeat' split
  all_goals simp
@[simp] theorem aerInternal_lcs (b : Bool) (s : State) : (aerInternal b s).lcs = s.lcs := by
  simp only [aerInternal]
  repeat' split
  all_goals simp
@[simp] theorem aerInternal_own (b : Bool) (s : State) : (aerInternal b s).own = s.own := by
  simp only [aerInternal]
  repeat' split
  all_goals simp
@[simp] theorem aerInternal_par (b : Bool) (s : State) : (aerInternal b s).par = s.par := by
  simp only [aerInternal]
  repeat' split
  all_goals simp
@[simp] theorem aerInternal_glb (b : Bool) (s : State) : (aerInternal b s).glb = s.glb := by
  simp only [aerInternal]
  repeat' split
  all_goals simp
@[simp] theorem aerInternal_pwr (b : Bool) (s : State) : (aerInternal b s).pwr = s.pwr := by
  simp only [aerInternal]
  repeat' split
  all_goals simp
@[simp] theorem aerInternal_bst (b : Bool) (s : State) : (aerInternal b s).bst = s.bst := by
  simp only [aerInternal]
  repeat' split
  all_goals simp
@[simp] theorem aerInternal_tly (b : Bool) (s : State) : (aerInternal b s).tly = s.tly := by
  simp only [aerInternal]
  repeat' split
  all_goals simp
@[simp] theorem drbgFailed_pending (i : Nat) (k : Bool) (s : State) : (drbgFailed i k s).pending = s.pending := by
  simp only [drbgFailed]
  repeat' split
  all_goals simp
@[simp] theorem drbgFailed_clk (i : Nat) (k : Bool) (s : State) : (drbgFailed i k s).clk = s.clk := by
  simp only [drbgFailed]
  repeat' split
  all_goals simp
@[simp] theorem drbgFailed_rng (i : Nat) (k : Bool) (s : State) : (drbgFailed i k s).rng = s.rng := by
  simp only [drbgFailed]
  repeat' split
  all_goals simp
@[simp] theorem drbgFailed_csn (i : Nat) (k : Bool) (s : State) : (drbgFailed i k s).csn = s.csn := by
  simp only [drbgFailed]
  repeat' split
  all_goals simp
@[simp] theorem drbgFailed_imem (i : Nat) (k : Bool) (s : State) : (drbgFailed i k s).imem = s.imem := by
  simp only [drbgFailed]
  repeat' split
  all_goals simp
@[simp] theorem drbgFailed_rwi (i : Nat) (k : Bool) (s : State) : (drbgFailed i k s).rwi = s.rwi := by
  simp only [drbgFailed]
  repeat' split
  all_goals simp
@[simp] theorem drbgFailed_pit (i : Nat) (k : Bool) (s : State) : (drbgFailed i k s).pit = s.pit := by
  simp only [drbgFailed]
  repeat' split
  all_goals simp
@[simp] theorem drbgFailed_sch (i : Nat) (k : Bool) (s : State) : (drbgFailed i k s).sch = s.sch := by
  simp only [drbgFailed]
  repeat' split
  all_goals simp
@[simp] theorem drbgFailed_cmc (i : Nat) (k : Bool) (s : State) : (drbgFailed i k s).cmc = s.cmc := by
  simp only [drbgFailed]
  repeat' split
  all_goals simp
@[simp] theorem drbgFailed_sel (i : Nat) (k : Bool) (s : State) : (drbgFailed i k s).sel = s.sel := by
  simp only [drbgFailed]
  repeat' split
  all_goals simp
@[simp] theorem drbgFailed_dma (i : Nat) (k : Bool) (s : State) : (drbgFailed i k s).dma = s.dma := by
  simp only [drbgFailed]
  repeat' split
  all_goals simp
@[simp] theorem drbgFailed_mbx (i : Nat) (k : Bool) (s : State) : (drbgFailed i k s).mbx = s.mbx := by
  simp only [drbgFailed]
  repeat' split
  all_goals simp
@[simp] theorem drbgFailed_mbxErr (i : Nat) (k : Bool) (s : State) : (drbgFailed i k s).mbxErr = s.mbxErr := by
  simp only [drbgFailed]
  repeat' split
  all_goals simp
@[simp] theorem drbgFailed_mpu (i : Nat) (k : Bool) (s : State) : (drbgFailed i k s).mpu = s.mpu := by
  simp only [drbgFailed]
  repeat' split
  all_goals simp
@[simp] theorem drbgFailed_caches (i : Nat) (k : Bool) (s : State) : (drbgFailed i k s).caches = s.caches := by
  simp only [drbgFailed]
  repeat' split
  all_goals simp
@[simp] theorem drbgFailed_units (i : Nat) (k : Bool) (s : State) : (drbgFailed i k s).units = s.units := by
  simp only [drbgFailed]
  repeat' split
  all_goals simp
@[simp] theorem drbgFailed_kst (i : Nat) (k : Bool) (s : State) : (drbgFailed i k s).kst = s.kst := by
  simp only [drbgFailed]
  repeat' split
  all_goals simp
@[simp] theorem drbgFailed_tmp (i : Nat) (k : Bool) (s : State) : (drbgFailed i k s).tmp = s.tmp := by
  simp only [drbgFailed]
  repeat' split
  all_goals simp
@[simp] theorem drbgFailed_bat (i : Nat) (k : Bool) (s : State) : (drbgFailed i k s).bat = s.bat := by
  simp only [drbgFailed]
  repeat' split
  all_goals simp
@[simp] theorem drbgFailed_lcs (i : Nat) (k : Bool) (s : State) : (drbgFailed i k s).lcs = s.lcs := by
  simp only [drbgFailed]
  repeat' split
  all_goals simp
@[simp] theorem drbgFailed_own (i : Nat) (k : Bool) (s : State) : (drbgFailed i k s).own = s.own := by
  simp only [drbgFailed]
  repeat' split
  all_goals simp
@[simp] theorem drbgFailed_par (i : Nat) (k : Bool) (s : State) : (drbgFailed i k s).par = s.par := by
  simp only [drbgFailed]
  repeat' split
  all_goals simp
@[simp] theorem drbgFailed_glb (i : Nat) (k : Bool) (s : State) : (drbgFailed i k s).glb = s.glb := by
  simp only [drbgFailed]
  repeat' split
  all_goals simp
@[simp] theorem drbgFailed_pwr (i : Nat) (k : Bool) (s : State) : (drbgFailed i k s).pwr = s.pwr := by
  simp only [drbgFailed]
  repeat' split
  all_goals simp
@[simp] theorem drbgFailed_bst (i : Nat) (k : Bool) (s : State) : (drbgFailed i k s).bst = s.bst := by
  simp only [drbgFailed]
  repeat' split
  all_goals simp
@[simp] theorem drbgFail_pending (i : Nat) (k : Bool) (s : State) : (drbgFail i k s).pending = s.pending := by
  simp only [drbgFail]
  repeat' split
  all_goals simp
@[simp] theorem drbgFail_clk (i : Nat) (k : Bool) (s : State) : (drbgFail i k s).clk = s.clk := by
  simp only [drbgFail]
  repeat' split
  all_goals simp
@[simp] theorem drbgFail_rng (i : Nat) (k : Bool) (s : State) : (drbgFail i k s).rng = s.rng := by
  simp only [drbgFail]
  repeat' split
  all_goals simp
@[simp] theorem drbgFail_csn (i : Nat) (k : Bool) (s : State) : (drbgFail i k s).csn = s.csn := by
  simp only [drbgFail]
  repeat' split
  all_goals simp
@[simp] theorem drbgFail_imem (i : Nat) (k : Bool) (s : State) : (drbgFail i k s).imem = s.imem := by
  simp only [drbgFail]
  repeat' split
  all_goals simp
@[simp] theorem drbgFail_rwi (i : Nat) (k : Bool) (s : State) : (drbgFail i k s).rwi = s.rwi := by
  simp only [drbgFail]
  repeat' split
  all_goals simp
@[simp] theorem drbgFail_pit (i : Nat) (k : Bool) (s : State) : (drbgFail i k s).pit = s.pit := by
  simp only [drbgFail]
  repeat' split
  all_goals simp
@[simp] theorem drbgFail_sch (i : Nat) (k : Bool) (s : State) : (drbgFail i k s).sch = s.sch := by
  simp only [drbgFail]
  repeat' split
  all_goals simp
@[simp] theorem drbgFail_cmc (i : Nat) (k : Bool) (s : State) : (drbgFail i k s).cmc = s.cmc := by
  simp only [drbgFail]
  repeat' split
  all_goals simp
@[simp] theorem drbgFail_sel (i : Nat) (k : Bool) (s : State) : (drbgFail i k s).sel = s.sel := by
  simp only [drbgFail]
  repeat' split
  all_goals simp
@[simp] theorem drbgFail_dma (i : Nat) (k : Bool) (s : State) : (drbgFail i k s).dma = s.dma := by
  simp only [drbgFail]
  repeat' split
  all_goals simp
@[simp] theorem drbgFail_mbx (i : Nat) (k : Bool) (s : State) : (drbgFail i k s).mbx = s.mbx := by
  simp only [drbgFail]
  repeat' split
  all_goals simp
@[simp] theorem drbgFail_mbxErr (i : Nat) (k : Bool) (s : State) : (drbgFail i k s).mbxErr = s.mbxErr := by
  simp only [drbgFail]
  repeat' split
  all_goals simp
@[simp] theorem drbgFail_mpu (i : Nat) (k : Bool) (s : State) : (drbgFail i k s).mpu = s.mpu := by
  simp only [drbgFail]
  repeat' split
  all_goals simp
@[simp] theorem drbgFail_caches (i : Nat) (k : Bool) (s : State) : (drbgFail i k s).caches = s.caches := by
  simp only [drbgFail]
  repeat' split
  all_goals simp
@[simp] theorem drbgFail_kst (i : Nat) (k : Bool) (s : State) : (drbgFail i k s).kst = s.kst := by
  simp only [drbgFail]
  repeat' split
  all_goals simp
@[simp] theorem drbgFail_tmp (i : Nat) (k : Bool) (s : State) : (drbgFail i k s).tmp = s.tmp := by
  simp only [drbgFail]
  repeat' split
  all_goals simp
@[simp] theorem drbgFail_bat (i : Nat) (k : Bool) (s : State) : (drbgFail i k s).bat = s.bat := by
  simp only [drbgFail]
  repeat' split
  all_goals simp
@[simp] theorem drbgFail_lcs (i : Nat) (k : Bool) (s : State) : (drbgFail i k s).lcs = s.lcs := by
  simp only [drbgFail]
  repeat' split
  all_goals simp
@[simp] theorem drbgFail_own (i : Nat) (k : Bool) (s : State) : (drbgFail i k s).own = s.own := by
  simp only [drbgFail]
  repeat' split
  all_goals simp
@[simp] theorem drbgFail_par (i : Nat) (k : Bool) (s : State) : (drbgFail i k s).par = s.par := by
  simp only [drbgFail]
  repeat' split
  all_goals simp
@[simp] theorem drbgFail_glb (i : Nat) (k : Bool) (s : State) : (drbgFail i k s).glb = s.glb := by
  simp only [drbgFail]
  repeat' split
  all_goals simp
@[simp] theorem drbgFail_pwr (i : Nat) (k : Bool) (s : State) : (drbgFail i k s).pwr = s.pwr := by
  simp only [drbgFail]
  repeat' split
  all_goals simp
@[simp] theorem drbgFail_bst (i : Nat) (k : Bool) (s : State) : (drbgFail i k s).bst = s.bst := by
  simp only [drbgFail]
  repeat' split
  all_goals simp
@[simp] theorem drbgStart_pending (k : Bool) (i : Nat) (a b : Bytes) (s : State) : (drbgStart k i a b s).pending = s.pending := by
  simp only [drbgStart]
  repeat' split
  all_goals simp
@[simp] theorem drbgStart_clk (k : Bool) (i : Nat) (a b : Bytes) (s : State) : (drbgStart k i a b s).clk = s.clk := by
  simp only [drbgStart]
  repeat' split
  all_goals simp
@[simp] theorem drbgStart_rng (k : Bool) (i : Nat) (a b : Bytes) (s : State) : (drbgStart k i a b s).rng = s.rng := by
  simp only [drbgStart]
  repeat' split
  all_goals simp
@[simp] theorem drbgStart_csn (k : Bool) (i : Nat) (a b : Bytes) (s : State) : (drbgStart k i a b s).csn = s.csn := by
  simp only [drbgStart]
  repeat' split
  all_goals simp
@[simp] theorem drbgStart_imem (k : Bool) (i : Nat) (a b : Bytes) (s : State) : (drbgStart k i a b s).imem = s.imem := by
  simp only [drbgStart]
  repeat' split
  all_goals simp
@[simp] theorem drbgStart_rwi (k : Bool) (i : Nat) (a b : Bytes) (s : State) : (drbgStart k i a b s).rwi = s.rwi := by
  simp only [drbgStart]
  repeat' split
  all_goals simp
@[simp] theorem drbgStart_pit (k : Bool) (i : Nat) (a b : Bytes) (s : State) : (drbgStart k i a b s).pit = s.pit := by
  simp only [drbgStart]
  repeat' split
  all_goals simp
@[simp] theorem drbgStart_sch (k : Bool) (i : Nat) (a b : Bytes) (s : State) : (drbgStart k i a b s).sch = s.sch := by
  simp only [drbgStart]
  repeat' split
  all_goals simp
@[simp] theorem drbgStart_cmc (k : Bool) (i : Nat) (a b : Bytes) (s : State) : (drbgStart k i a b s).cmc = s.cmc := by
  simp only [drbgStart]
  repeat' split
  all_goals simp
@[simp] theorem drbgStart_sel (k : Bool) (i : Nat) (a b : Bytes) (s : State) : (drbgStart k i a b s).sel = s.sel := by
  simp only [drbgStart]
  repeat' split
  all_goals simp
@[simp] theorem drbgStart_dma (k : Bool) (i : Nat) (a b : Bytes) (s : State) : (drbgStart k i a b s).dma = s.dma := by
  simp only [drbgStart]
  repeat' split
  all_goals simp
@[simp] theorem drbgStart_mbx (k : Bool) (i : Nat) (a b : Bytes) (s : State) : (drbgStart k i a b s).mbx = s.mbx := by
  simp only [drbgStart]
  repeat' split
  all_goals simp
@[simp] theorem drbgStart_mbxErr (k : Bool) (i : Nat) (a b : Bytes) (s : State) : (drbgStart k i a b s).mbxErr = s.mbxErr := by
  simp only [drbgStart]
  repeat' split
  all_goals simp
@[simp] theorem drbgStart_mpu (k : Bool) (i : Nat) (a b : Bytes) (s : State) : (drbgStart k i a b s).mpu = s.mpu := by
  simp only [drbgStart]
  repeat' split
  all_goals simp
@[simp] theorem drbgStart_caches (k : Bool) (i : Nat) (a b : Bytes) (s : State) : (drbgStart k i a b s).caches = s.caches := by
  simp only [drbgStart]
  repeat' split
  all_goals simp
@[simp] theorem drbgStart_kst (k : Bool) (i : Nat) (a b : Bytes) (s : State) : (drbgStart k i a b s).kst = s.kst := by
  simp only [drbgStart]
  repeat' split
  all_goals simp
@[simp] theorem drbgStart_tmp (k : Bool) (i : Nat) (a b : Bytes) (s : State) : (drbgStart k i a b s).tmp = s.tmp := by
  simp only [drbgStart]
  repeat' split
  all_goals simp
@[simp] theorem drbgStart_bat (k : Bool) (i : Nat) (a b : Bytes) (s : State) : (drbgStart k i a b s).bat = s.bat := by
  simp only [drbgStart]
  repeat' split
  all_goals simp
@[simp] theorem drbgStart_lcs (k : Bool) (i : Nat) (a b : Bytes) (s : State) : (drbgStart k i a b s).lcs = s.lcs := by
  simp only [drbgStart]
  repeat' split
  all_goals simp
@[simp] theorem drbgStart_own (k : Bool) (i : Nat) (a b : Bytes) (s : State) : (drbgStart k i a b s).own = s.own := by
  simp only [drbgStart]
  repeat' split
  all_goals simp
@[simp] theorem drbgStart_par (k : Bool) (i : Nat) (a b : Bytes) (s : State) : (drbgStart k i a b s).par = s.par := by
  simp only [drbgStart]
  repeat' split
  all_goals simp
@[simp] theorem drbgStart_glb (k : Bool) (i : Nat) (a b : Bytes) (s : State) : (drbgStart k i a b s).glb = s.glb := by
  simp only [drbgStart]
  repeat' split
  all_goals simp
@[simp] theorem drbgStart_pwr (k : Bool) (i : Nat) (a b : Bytes) (s : State) : (drbgStart k i a b s).pwr = s.pwr := by
  simp only [drbgStart]
  repeat' split
  all_goals simp
@[simp] theorem drbgStart_bst (k : Bool) (i : Nat) (a b : Bytes) (s : State) : (drbgStart k i a b s).bst = s.bst := by
  simp only [drbgStart]
  repeat' split
  all_goals simp
@[simp] theorem seedInstance_pending (k : Bool) (i : Nat) (b : Bytes) (s : State) : (seedInstance k i b s).pending = s.pending := by
  simp only [seedInstance]
  repeat' split
  all_goals simp
@[simp] theorem seedInstance_clk (k : Bool) (i : Nat) (b : Bytes) (s : State) : (seedInstance k i b s).clk = s.clk := by
  simp only [seedInstance]
  repeat' split
  all_goals simp
@[simp] theorem seedInstance_rng (k : Bool) (i : Nat) (b : Bytes) (s : State) : (seedInstance k i b s).rng = s.rng := by
  simp only [seedInstance]
  repeat' split
  all_goals simp
@[simp] theorem seedInstance_csn (k : Bool) (i : Nat) (b : Bytes) (s : State) : (seedInstance k i b s).csn = s.csn := by
  simp only [seedInstance]
  repeat' split
  all_goals simp
@[simp] theorem seedInstance_imem (k : Bool) (i : Nat) (b : Bytes) (s : State) : (seedInstance k i b s).imem = s.imem := by
  simp only [seedInstance]
  repeat' split
  all_goals simp
@[simp] theorem seedInstance_rwi (k : Bool) (i : Nat) (b : Bytes) (s : State) : (seedInstance k i b s).rwi = s.rwi := by
  simp only [seedInstance]
  repeat' split
  all_goals simp
@[simp] theorem seedInstance_pit (k : Bool) (i : Nat) (b : Bytes) (s : State) : (seedInstance k i b s).pit = s.pit := by
  simp only [seedInstance]
  repeat' split
  all_goals simp
@[simp] theorem seedInstance_sch (k : Bool) (i : Nat) (b : Bytes) (s : State) : (seedInstance k i b s).sch = s.sch := by
  simp only [seedInstance]
  repeat' split
  all_goals simp
@[simp] theorem seedInstance_cmc (k : Bool) (i : Nat) (b : Bytes) (s : State) : (seedInstance k i b s).cmc = s.cmc := by
  simp only [seedInstance]
  repeat' split
  all_goals simp
@[simp] theorem seedInstance_sel (k : Bool) (i : Nat) (b : Bytes) (s : State) : (seedInstance k i b s).sel = s.sel := by
  simp only [seedInstance]
  repeat' split
  all_goals simp
@[simp] theorem seedInstance_dma (k : Bool) (i : Nat) (b : Bytes) (s : State) : (seedInstance k i b s).dma = s.dma := by
  simp only [seedInstance]
  repeat' split
  all_goals simp
@[simp] theorem seedInstance_mbx (k : Bool) (i : Nat) (b : Bytes) (s : State) : (seedInstance k i b s).mbx = s.mbx := by
  simp only [seedInstance]
  repeat' split
  all_goals simp
@[simp] theorem seedInstance_mbxErr (k : Bool) (i : Nat) (b : Bytes) (s : State) : (seedInstance k i b s).mbxErr = s.mbxErr := by
  simp only [seedInstance]
  repeat' split
  all_goals simp
@[simp] theorem seedInstance_mpu (k : Bool) (i : Nat) (b : Bytes) (s : State) : (seedInstance k i b s).mpu = s.mpu := by
  simp only [seedInstance]
  repeat' split
  all_goals simp
@[simp] theorem seedInstance_caches (k : Bool) (i : Nat) (b : Bytes) (s : State) : (seedInstance k i b s).caches = s.caches := by
  simp only [seedInstance]
  repeat' split
  all_goals simp
@[simp] theorem seedInstance_kst (k : Bool) (i : Nat) (b : Bytes) (s : State) : (seedInstance k i b s).kst = s.kst := by
  simp only [seedInstance]
  repeat' split
  all_goals simp
@[simp] theorem seedInstance_tmp (k : Bool) (i : Nat) (b : Bytes) (s : State) : (seedInstance k i b s).tmp = s.tmp := by
  simp only [seedInstance]
  repeat' split
  all_goals simp
@[simp] theorem seedInstance_bat (k : Bool) (i : Nat) (b : Bytes) (s : State) : (seedInstance k i b s).bat = s.bat := by
  simp only [seedInstance]
  repeat' split
  all_goals simp
@[simp] theorem seedInstance_lcs (k : Bool) (i : Nat) (b : Bytes) (s : State) : (seedInstance k i b s).lcs = s.lcs := by
  simp only [seedInstance]
  repeat' split
  all_goals simp
@[simp] theorem seedInstance_own (k : Bool) (i : Nat) (b : Bytes) (s : State) : (seedInstance k i b s).own = s.own := by
  simp only [seedInstance]
  repeat' split
  all_goals simp
@[simp] theorem seedInstance_par (k : Bool) (i : Nat) (b : Bytes) (s : State) : (seedInstance k i b s).par = s.par := by
  simp only [seedInstance]
  repeat' split
  all_goals simp
@[simp] theorem seedInstance_glb (k : Bool) (i : Nat) (b : Bytes) (s : State) : (seedInstance k i b s).glb = s.glb := by
  simp only [seedInstance]
  repeat' split
  all_goals simp
@[simp] theorem seedInstance_pwr (k : Bool) (i : Nat) (b : Bytes) (s : State) : (seedInstance k i b s).pwr = s.pwr := by
  simp only [seedInstance]
  repeat' split
  all_goals simp
@[simp] theorem seedInstance_bst (k : Bool) (i : Nat) (b : Bytes) (s : State) : (seedInstance k i b s).bst = s.bst := by
  simp only [seedInstance]
  repeat' split
  all_goals simp
@[simp] theorem drbgReseed_pending (i : Nat) (s : State) : (drbgReseed i s).pending = s.pending := by
  simp only [drbgReseed]
  repeat' split
  all_goals simp
@[simp] theorem drbgReseed_clk (i : Nat) (s : State) : (drbgReseed i s).clk = s.clk := by
  simp only [drbgReseed]
  repeat' split
  all_goals simp
@[simp] theorem drbgReseed_rng (i : Nat) (s : State) : (drbgReseed i s).rng = s.rng := by
  simp only [drbgReseed]
  repeat' split
  all_goals simp
@[simp] theorem drbgReseed_csn (i : Nat) (s : State) : (drbgReseed i s).csn = s.csn := by
  simp only [drbgReseed]
  repeat' split
  all_goals simp
@[simp] theorem drbgReseed_imem (i : Nat) (s : State) : (drbgReseed i s).imem = s.imem := by
  simp only [drbgReseed]
  repeat' split
  all_goals simp
@[simp] theorem drbgReseed_rwi (i : Nat) (s : State) : (drbgReseed i s).rwi = s.rwi := by
  simp only [drbgReseed]
  repeat' split
  all_goals simp
@[simp] theorem drbgReseed_pit (i : Nat) (s : State) : (drbgReseed i s).pit = s.pit := by
  simp only [drbgReseed]
  repeat' split
  all_goals simp
@[simp] theorem drbgReseed_sch (i : Nat) (s : State) : (drbgReseed i s).sch = s.sch := by
  simp only [drbgReseed]
  repeat' split
  all_goals simp
@[simp] theorem drbgReseed_cmc (i : Nat) (s : State) : (drbgReseed i s).cmc = s.cmc := by
  simp only [drbgReseed]
  repeat' split
  all_goals simp
@[simp] theorem drbgReseed_sel (i : Nat) (s : State) : (drbgReseed i s).sel = s.sel := by
  simp only [drbgReseed]
  repeat' split
  all_goals simp
@[simp] theorem drbgReseed_dma (i : Nat) (s : State) : (drbgReseed i s).dma = s.dma := by
  simp only [drbgReseed]
  repeat' split
  all_goals simp
@[simp] theorem drbgReseed_mbx (i : Nat) (s : State) : (drbgReseed i s).mbx = s.mbx := by
  simp only [drbgReseed]
  repeat' split
  all_goals simp
@[simp] theorem drbgReseed_mbxErr (i : Nat) (s : State) : (drbgReseed i s).mbxErr = s.mbxErr := by
  simp only [drbgReseed]
  repeat' split
  all_goals simp
@[simp] theorem drbgReseed_mpu (i : Nat) (s : State) : (drbgReseed i s).mpu = s.mpu := by
  simp only [drbgReseed]
  repeat' split
  all_goals simp
@[simp] theorem drbgReseed_caches (i : Nat) (s : State) : (drbgReseed i s).caches = s.caches := by
  simp only [drbgReseed]
  repeat' split
  all_goals simp
@[simp] theorem drbgReseed_kst (i : Nat) (s : State) : (drbgReseed i s).kst = s.kst := by
  simp only [drbgReseed]
  repeat' split
  all_goals simp
@[simp] theorem drbgReseed_tmp (i : Nat) (s : State) : (drbgReseed i s).tmp = s.tmp := by
  simp only [drbgReseed]
  repeat' split
  all_goals simp
@[simp] theorem drbgReseed_bat (i : Nat) (s : State) : (drbgReseed i s).bat = s.bat := by
  simp only [drbgReseed]
  repeat' split
  all_goals simp
@[simp] theorem drbgReseed_lcs (i : Nat) (s : State) : (drbgReseed i s).lcs = s.lcs := by
  simp only [drbgReseed]
  repeat' split
  all_goals simp
@[simp] theorem drbgReseed_own (i : Nat) (s : State) : (drbgReseed i s).own = s.own := by
  simp only [drbgReseed]
  repeat' split
  all_goals simp
@[simp] theorem drbgReseed_par (i : Nat) (s : State) : (drbgReseed i s).par = s.par := by
  simp only [drbgReseed]
  repeat' split
  all_goals simp
@[simp] theorem drbgReseed_glb (i : Nat) (s : State) : (drbgReseed i s).glb = s.glb := by
  simp only [drbgReseed]
  repeat' split
  all_goals simp
@[simp] theorem drbgReseed_pwr (i : Nat) (s : State) : (drbgReseed i s).pwr = s.pwr := by
  simp only [drbgReseed]
  repeat' split
  all_goals simp
@[simp] theorem drbgReseed_bst (i : Nat) (s : State) : (drbgReseed i s).bst = s.bst := by
  simp only [drbgReseed]
  repeat' split
  all_goals simp
@[simp] theorem drbgLimit_pending (i : Nat) (s : State) : (drbgLimit i s).pending = s.pending := by
  simp only [drbgLimit]
  repeat' split
  all_goals simp
@[simp] theorem drbgLimit_clk (i : Nat) (s : State) : (drbgLimit i s).clk = s.clk := by
  simp only [drbgLimit]
  repeat' split
  all_goals simp
@[simp] theorem drbgLimit_rng (i : Nat) (s : State) : (drbgLimit i s).rng = s.rng := by
  simp only [drbgLimit]
  repeat' split
  all_goals simp
@[simp] theorem drbgLimit_csn (i : Nat) (s : State) : (drbgLimit i s).csn = s.csn := by
  simp only [drbgLimit]
  repeat' split
  all_goals simp
@[simp] theorem drbgLimit_imem (i : Nat) (s : State) : (drbgLimit i s).imem = s.imem := by
  simp only [drbgLimit]
  repeat' split
  all_goals simp
@[simp] theorem drbgLimit_rwi (i : Nat) (s : State) : (drbgLimit i s).rwi = s.rwi := by
  simp only [drbgLimit]
  repeat' split
  all_goals simp
@[simp] theorem drbgLimit_pit (i : Nat) (s : State) : (drbgLimit i s).pit = s.pit := by
  simp only [drbgLimit]
  repeat' split
  all_goals simp
@[simp] theorem drbgLimit_sch (i : Nat) (s : State) : (drbgLimit i s).sch = s.sch := by
  simp only [drbgLimit]
  repeat' split
  all_goals simp
@[simp] theorem drbgLimit_cmc (i : Nat) (s : State) : (drbgLimit i s).cmc = s.cmc := by
  simp only [drbgLimit]
  repeat' split
  all_goals simp
@[simp] theorem drbgLimit_sel (i : Nat) (s : State) : (drbgLimit i s).sel = s.sel := by
  simp only [drbgLimit]
  repeat' split
  all_goals simp
@[simp] theorem drbgLimit_dma (i : Nat) (s : State) : (drbgLimit i s).dma = s.dma := by
  simp only [drbgLimit]
  repeat' split
  all_goals simp
@[simp] theorem drbgLimit_mbx (i : Nat) (s : State) : (drbgLimit i s).mbx = s.mbx := by
  simp only [drbgLimit]
  repeat' split
  all_goals simp
@[simp] theorem drbgLimit_mbxErr (i : Nat) (s : State) : (drbgLimit i s).mbxErr = s.mbxErr := by
  simp only [drbgLimit]
  repeat' split
  all_goals simp
@[simp] theorem drbgLimit_mpu (i : Nat) (s : State) : (drbgLimit i s).mpu = s.mpu := by
  simp only [drbgLimit]
  repeat' split
  all_goals simp
@[simp] theorem drbgLimit_caches (i : Nat) (s : State) : (drbgLimit i s).caches = s.caches := by
  simp only [drbgLimit]
  repeat' split
  all_goals simp
@[simp] theorem drbgLimit_kst (i : Nat) (s : State) : (drbgLimit i s).kst = s.kst := by
  simp only [drbgLimit]
  repeat' split
  all_goals simp
@[simp] theorem drbgLimit_tmp (i : Nat) (s : State) : (drbgLimit i s).tmp = s.tmp := by
  simp only [drbgLimit]
  repeat' split
  all_goals simp
@[simp] theorem drbgLimit_bat (i : Nat) (s : State) : (drbgLimit i s).bat = s.bat := by
  simp only [drbgLimit]
  repeat' split
  all_goals simp
@[simp] theorem drbgLimit_lcs (i : Nat) (s : State) : (drbgLimit i s).lcs = s.lcs := by
  simp only [drbgLimit]
  repeat' split
  all_goals simp
@[simp] theorem drbgLimit_own (i : Nat) (s : State) : (drbgLimit i s).own = s.own := by
  simp only [drbgLimit]
  repeat' split
  all_goals simp
@[simp] theorem drbgLimit_par (i : Nat) (s : State) : (drbgLimit i s).par = s.par := by
  simp only [drbgLimit]
  repeat' split
  all_goals simp
@[simp] theorem drbgLimit_glb (i : Nat) (s : State) : (drbgLimit i s).glb = s.glb := by
  simp only [drbgLimit]
  repeat' split
  all_goals simp
@[simp] theorem drbgLimit_pwr (i : Nat) (s : State) : (drbgLimit i s).pwr = s.pwr := by
  simp only [drbgLimit]
  repeat' split
  all_goals simp
@[simp] theorem drbgLimit_bst (i : Nat) (s : State) : (drbgLimit i s).bst = s.bst := by
  simp only [drbgLimit]
  repeat' split
  all_goals simp
@[simp] theorem drbgRequest_pending (i n : Nat) (s : State) : (drbgRequest i n s).pending = s.pending := by
  simp only [drbgRequest]
  repeat' split
  all_goals simp
@[simp] theorem drbgRequest_clk (i n : Nat) (s : State) : (drbgRequest i n s).clk = s.clk := by
  simp only [drbgRequest]
  repeat' split
  all_goals simp
@[simp] theorem drbgRequest_rng (i n : Nat) (s : State) : (drbgRequest i n s).rng = s.rng := by
  simp only [drbgRequest]
  repeat' split
  all_goals simp
@[simp] theorem drbgRequest_csn (i n : Nat) (s : State) : (drbgRequest i n s).csn = s.csn := by
  simp only [drbgRequest]
  repeat' split
  all_goals simp
@[simp] theorem drbgRequest_imem (i n : Nat) (s : State) : (drbgRequest i n s).imem = s.imem := by
  simp only [drbgRequest]
  repeat' split
  all_goals simp
@[simp] theorem drbgRequest_rwi (i n : Nat) (s : State) : (drbgRequest i n s).rwi = s.rwi := by
  simp only [drbgRequest]
  repeat' split
  all_goals simp
@[simp] theorem drbgRequest_pit (i n : Nat) (s : State) : (drbgRequest i n s).pit = s.pit := by
  simp only [drbgRequest]
  repeat' split
  all_goals simp
@[simp] theorem drbgRequest_sch (i n : Nat) (s : State) : (drbgRequest i n s).sch = s.sch := by
  simp only [drbgRequest]
  repeat' split
  all_goals simp
@[simp] theorem drbgRequest_cmc (i n : Nat) (s : State) : (drbgRequest i n s).cmc = s.cmc := by
  simp only [drbgRequest]
  repeat' split
  all_goals simp
@[simp] theorem drbgRequest_sel (i n : Nat) (s : State) : (drbgRequest i n s).sel = s.sel := by
  simp only [drbgRequest]
  repeat' split
  all_goals simp
@[simp] theorem drbgRequest_dma (i n : Nat) (s : State) : (drbgRequest i n s).dma = s.dma := by
  simp only [drbgRequest]
  repeat' split
  all_goals simp
@[simp] theorem drbgRequest_mbx (i n : Nat) (s : State) : (drbgRequest i n s).mbx = s.mbx := by
  simp only [drbgRequest]
  repeat' split
  all_goals simp
@[simp] theorem drbgRequest_mbxErr (i n : Nat) (s : State) : (drbgRequest i n s).mbxErr = s.mbxErr := by
  simp only [drbgRequest]
  repeat' split
  all_goals simp
@[simp] theorem drbgRequest_mpu (i n : Nat) (s : State) : (drbgRequest i n s).mpu = s.mpu := by
  simp only [drbgRequest]
  repeat' split
  all_goals simp
@[simp] theorem drbgRequest_caches (i n : Nat) (s : State) : (drbgRequest i n s).caches = s.caches := by
  simp only [drbgRequest]
  repeat' split
  all_goals simp
@[simp] theorem drbgRequest_kst (i n : Nat) (s : State) : (drbgRequest i n s).kst = s.kst := by
  simp only [drbgRequest]
  repeat' split
  all_goals simp
@[simp] theorem drbgRequest_tmp (i n : Nat) (s : State) : (drbgRequest i n s).tmp = s.tmp := by
  simp only [drbgRequest]
  repeat' split
  all_goals simp
@[simp] theorem drbgRequest_bat (i n : Nat) (s : State) : (drbgRequest i n s).bat = s.bat := by
  simp only [drbgRequest]
  repeat' split
  all_goals simp
@[simp] theorem drbgRequest_lcs (i n : Nat) (s : State) : (drbgRequest i n s).lcs = s.lcs := by
  simp only [drbgRequest]
  repeat' split
  all_goals simp
@[simp] theorem drbgRequest_own (i n : Nat) (s : State) : (drbgRequest i n s).own = s.own := by
  simp only [drbgRequest]
  repeat' split
  all_goals simp
@[simp] theorem drbgRequest_par (i n : Nat) (s : State) : (drbgRequest i n s).par = s.par := by
  simp only [drbgRequest]
  repeat' split
  all_goals simp
@[simp] theorem drbgRequest_glb (i n : Nat) (s : State) : (drbgRequest i n s).glb = s.glb := by
  simp only [drbgRequest]
  repeat' split
  all_goals simp
@[simp] theorem drbgRequest_pwr (i n : Nat) (s : State) : (drbgRequest i n s).pwr = s.pwr := by
  simp only [drbgRequest]
  repeat' split
  all_goals simp
@[simp] theorem drbgRequest_bst (i n : Nat) (s : State) : (drbgRequest i n s).bst = s.bst := by
  simp only [drbgRequest]
  repeat' split
  all_goals simp
@[simp] theorem sealRec_pending (r : JRec) (s : State) : ((sealRec r s).2).pending = s.pending := by
  simp [sealRec, draw9]
@[simp] theorem sealRec_clk (r : JRec) (s : State) : ((sealRec r s).2).clk = s.clk := by
  simp [sealRec, draw9]
@[simp] theorem sealRec_rng (r : JRec) (s : State) : ((sealRec r s).2).rng = s.rng := by
  simp [sealRec, draw9]
@[simp] theorem sealRec_csn (r : JRec) (s : State) : ((sealRec r s).2).csn = s.csn := by
  simp [sealRec, draw9]
@[simp] theorem sealRec_imem (r : JRec) (s : State) : ((sealRec r s).2).imem = s.imem := by
  simp [sealRec, draw9]
@[simp] theorem sealRec_rwi (r : JRec) (s : State) : ((sealRec r s).2).rwi = s.rwi := by
  simp [sealRec, draw9]
@[simp] theorem sealRec_pit (r : JRec) (s : State) : ((sealRec r s).2).pit = s.pit := by
  simp [sealRec, draw9]
@[simp] theorem sealRec_sch (r : JRec) (s : State) : ((sealRec r s).2).sch = s.sch := by
  simp [sealRec, draw9]
@[simp] theorem sealRec_cmc (r : JRec) (s : State) : ((sealRec r s).2).cmc = s.cmc := by
  simp [sealRec, draw9]
@[simp] theorem sealRec_sel (r : JRec) (s : State) : ((sealRec r s).2).sel = s.sel := by
  simp [sealRec, draw9]
@[simp] theorem sealRec_dma (r : JRec) (s : State) : ((sealRec r s).2).dma = s.dma := by
  simp [sealRec, draw9]
@[simp] theorem sealRec_mbx (r : JRec) (s : State) : ((sealRec r s).2).mbx = s.mbx := by
  simp [sealRec, draw9]
@[simp] theorem sealRec_mbxErr (r : JRec) (s : State) : ((sealRec r s).2).mbxErr = s.mbxErr := by
  simp [sealRec, draw9]
@[simp] theorem sealRec_mpu (r : JRec) (s : State) : ((sealRec r s).2).mpu = s.mpu := by
  simp [sealRec, draw9]
@[simp] theorem sealRec_caches (r : JRec) (s : State) : ((sealRec r s).2).caches = s.caches := by
  simp [sealRec, draw9]
@[simp] theorem sealRec_kst (r : JRec) (s : State) : ((sealRec r s).2).kst = s.kst := by
  simp [sealRec, draw9]
@[simp] theorem sealRec_tmp (r : JRec) (s : State) : ((sealRec r s).2).tmp = s.tmp := by
  simp [sealRec, draw9]
@[simp] theorem sealRec_bat (r : JRec) (s : State) : ((sealRec r s).2).bat = s.bat := by
  simp [sealRec, draw9]
@[simp] theorem sealRec_lcs (r : JRec) (s : State) : ((sealRec r s).2).lcs = s.lcs := by
  simp [sealRec, draw9]
@[simp] theorem sealRec_own (r : JRec) (s : State) : ((sealRec r s).2).own = s.own := by
  simp [sealRec, draw9]
@[simp] theorem sealRec_par (r : JRec) (s : State) : ((sealRec r s).2).par = s.par := by
  simp [sealRec, draw9]
@[simp] theorem sealRec_glb (r : JRec) (s : State) : ((sealRec r s).2).glb = s.glb := by
  simp [sealRec, draw9]
@[simp] theorem sealRec_pwr (r : JRec) (s : State) : ((sealRec r s).2).pwr = s.pwr := by
  simp [sealRec, draw9]
@[simp] theorem sealRec_bst (r : JRec) (s : State) : ((sealRec r s).2).bst = s.bst := by
  simp [sealRec, draw9]
@[simp] theorem sealAll_pending (l : List JRec) (s : State) : ((sealAll l s).2).pending = s.pending := by
  induction l generalizing s with
  | nil => rfl
  | cons h t ih =>
    simp only [sealAll]
    rw [ih]
    simp
@[simp] theorem sealAll_clk (l : List JRec) (s : State) : ((sealAll l s).2).clk = s.clk := by
  induction l generalizing s with
  | nil => rfl
  | cons h t ih =>
    simp only [sealAll]
    rw [ih]
    simp
@[simp] theorem sealAll_rng (l : List JRec) (s : State) : ((sealAll l s).2).rng = s.rng := by
  induction l generalizing s with
  | nil => rfl
  | cons h t ih =>
    simp only [sealAll]
    rw [ih]
    simp
@[simp] theorem sealAll_csn (l : List JRec) (s : State) : ((sealAll l s).2).csn = s.csn := by
  induction l generalizing s with
  | nil => rfl
  | cons h t ih =>
    simp only [sealAll]
    rw [ih]
    simp
@[simp] theorem sealAll_imem (l : List JRec) (s : State) : ((sealAll l s).2).imem = s.imem := by
  induction l generalizing s with
  | nil => rfl
  | cons h t ih =>
    simp only [sealAll]
    rw [ih]
    simp
@[simp] theorem sealAll_rwi (l : List JRec) (s : State) : ((sealAll l s).2).rwi = s.rwi := by
  induction l generalizing s with
  | nil => rfl
  | cons h t ih =>
    simp only [sealAll]
    rw [ih]
    simp
@[simp] theorem sealAll_pit (l : List JRec) (s : State) : ((sealAll l s).2).pit = s.pit := by
  induction l generalizing s with
  | nil => rfl
  | cons h t ih =>
    simp only [sealAll]
    rw [ih]
    simp
@[simp] theorem sealAll_sch (l : List JRec) (s : State) : ((sealAll l s).2).sch = s.sch := by
  induction l generalizing s with
  | nil => rfl
  | cons h t ih =>
    simp only [sealAll]
    rw [ih]
    simp
@[simp] theorem sealAll_cmc (l : List JRec) (s : State) : ((sealAll l s).2).cmc = s.cmc := by
  induction l generalizing s with
  | nil => rfl
  | cons h t ih =>
    simp only [sealAll]
    rw [ih]
    simp
@[simp] theorem sealAll_sel (l : List JRec) (s : State) : ((sealAll l s).2).sel = s.sel := by
  induction l generalizing s with
  | nil => rfl
  | cons h t ih =>
    simp only [sealAll]
    rw [ih]
    simp
@[simp] theorem sealAll_dma (l : List JRec) (s : State) : ((sealAll l s).2).dma = s.dma := by
  induction l generalizing s with
  | nil => rfl
  | cons h t ih =>
    simp only [sealAll]
    rw [ih]
    simp
@[simp] theorem sealAll_mbx (l : List JRec) (s : State) : ((sealAll l s).2).mbx = s.mbx := by
  induction l generalizing s with
  | nil => rfl
  | cons h t ih =>
    simp only [sealAll]
    rw [ih]
    simp
@[simp] theorem sealAll_mbxErr (l : List JRec) (s : State) : ((sealAll l s).2).mbxErr = s.mbxErr := by
  induction l generalizing s with
  | nil => rfl
  | cons h t ih =>
    simp only [sealAll]
    rw [ih]
    simp
@[simp] theorem sealAll_mpu (l : List JRec) (s : State) : ((sealAll l s).2).mpu = s.mpu := by
  induction l generalizing s with
  | nil => rfl
  | cons h t ih =>
    simp only [sealAll]
    rw [ih]
    simp
@[simp] theorem sealAll_caches (l : List JRec) (s : State) : ((sealAll l s).2).caches = s.caches := by
  induction l generalizing s with
  | nil => rfl
  | cons h t ih =>
    simp only [sealAll]
    rw [ih]
    simp
@[simp] theorem sealAll_kst (l : List JRec) (s : State) : ((sealAll l s).2).kst = s.kst := by
  induction l generalizing s with
  | nil => rfl
  | cons h t ih =>
    simp only [sealAll]
    rw [ih]
    simp
@[simp] theorem sealAll_tmp (l : List JRec) (s : State) : ((sealAll l s).2).tmp = s.tmp := by
  induction l generalizing s with
  | nil => rfl
  | cons h t ih =>
    simp only [sealAll]
    rw [ih]
    simp
@[simp] theorem sealAll_bat (l : List JRec) (s : State) : ((sealAll l s).2).bat = s.bat := by
  induction l generalizing s with
  | nil => rfl
  | cons h t ih =>
    simp only [sealAll]
    rw [ih]
    simp
@[simp] theorem sealAll_lcs (l : List JRec) (s : State) : ((sealAll l s).2).lcs = s.lcs := by
  induction l generalizing s with
  | nil => rfl
  | cons h t ih =>
    simp only [sealAll]
    rw [ih]
    simp
@[simp] theorem sealAll_own (l : List JRec) (s : State) : ((sealAll l s).2).own = s.own := by
  induction l generalizing s with
  | nil => rfl
  | cons h t ih =>
    simp only [sealAll]
    rw [ih]
    simp
@[simp] theorem sealAll_par (l : List JRec) (s : State) : ((sealAll l s).2).par = s.par := by
  induction l generalizing s with
  | nil => rfl
  | cons h t ih =>
    simp only [sealAll]
    rw [ih]
    simp
@[simp] theorem sealAll_glb (l : List JRec) (s : State) : ((sealAll l s).2).glb = s.glb := by
  induction l generalizing s with
  | nil => rfl
  | cons h t ih =>
    simp only [sealAll]
    rw [ih]
    simp
@[simp] theorem sealAll_pwr (l : List JRec) (s : State) : ((sealAll l s).2).pwr = s.pwr := by
  induction l generalizing s with
  | nil => rfl
  | cons h t ih =>
    simp only [sealAll]
    rw [ih]
    simp
@[simp] theorem sealAll_bst (l : List JRec) (s : State) : ((sealAll l s).2).bst = s.bst := by
  induction l generalizing s with
  | nil => rfl
  | cons h t ih =>
    simp only [sealAll]
    rw [ih]
    simp
@[simp] theorem journalLand_pending (l : List JRec) (s : State) : (journalLand l s).pending = s.pending := by
  simp only [journalLand]
  repeat' split
  all_goals simp
@[simp] theorem journalLand_clk (l : List JRec) (s : State) : (journalLand l s).clk = s.clk := by
  simp only [journalLand]
  repeat' split
  all_goals simp
@[simp] theorem journalLand_rng (l : List JRec) (s : State) : (journalLand l s).rng = s.rng := by
  simp only [journalLand]
  repeat' split
  all_goals simp
@[simp] theorem journalLand_csn (l : List JRec) (s : State) : (journalLand l s).csn = s.csn := by
  simp only [journalLand]
  repeat' split
  all_goals simp
@[simp] theorem journalLand_imem (l : List JRec) (s : State) : (journalLand l s).imem = s.imem := by
  simp only [journalLand]
  repeat' split
  all_goals simp
@[simp] theorem journalLand_rwi (l : List JRec) (s : State) : (journalLand l s).rwi = s.rwi := by
  simp only [journalLand]
  repeat' split
  all_goals simp
@[simp] theorem journalLand_pit (l : List JRec) (s : State) : (journalLand l s).pit = s.pit := by
  simp only [journalLand]
  repeat' split
  all_goals simp
@[simp] theorem journalLand_sch (l : List JRec) (s : State) : (journalLand l s).sch = s.sch := by
  simp only [journalLand]
  repeat' split
  all_goals simp
@[simp] theorem journalLand_cmc (l : List JRec) (s : State) : (journalLand l s).cmc = s.cmc := by
  simp only [journalLand]
  repeat' split
  all_goals simp
@[simp] theorem journalLand_sel (l : List JRec) (s : State) : (journalLand l s).sel = s.sel := by
  simp only [journalLand]
  repeat' split
  all_goals simp
@[simp] theorem journalLand_dma (l : List JRec) (s : State) : (journalLand l s).dma = s.dma := by
  simp only [journalLand]
  repeat' split
  all_goals simp
@[simp] theorem journalLand_mbx (l : List JRec) (s : State) : (journalLand l s).mbx = s.mbx := by
  simp only [journalLand]
  repeat' split
  all_goals simp
@[simp] theorem journalLand_mbxErr (l : List JRec) (s : State) : (journalLand l s).mbxErr = s.mbxErr := by
  simp only [journalLand]
  repeat' split
  all_goals simp
@[simp] theorem journalLand_mpu (l : List JRec) (s : State) : (journalLand l s).mpu = s.mpu := by
  simp only [journalLand]
  repeat' split
  all_goals simp
@[simp] theorem journalLand_caches (l : List JRec) (s : State) : (journalLand l s).caches = s.caches := by
  simp only [journalLand]
  repeat' split
  all_goals simp
@[simp] theorem journalLand_tmp (l : List JRec) (s : State) : (journalLand l s).tmp = s.tmp := by
  simp only [journalLand]
  repeat' split
  all_goals simp
@[simp] theorem journalLand_bat (l : List JRec) (s : State) : (journalLand l s).bat = s.bat := by
  simp only [journalLand]
  repeat' split
  all_goals simp
@[simp] theorem journalLand_lcs (l : List JRec) (s : State) : (journalLand l s).lcs = s.lcs := by
  simp only [journalLand]
  repeat' split
  all_goals simp
@[simp] theorem journalLand_own (l : List JRec) (s : State) : (journalLand l s).own = s.own := by
  simp only [journalLand]
  repeat' split
  all_goals simp
@[simp] theorem journalLand_par (l : List JRec) (s : State) : (journalLand l s).par = s.par := by
  simp only [journalLand]
  repeat' split
  all_goals simp
@[simp] theorem journalLand_glb (l : List JRec) (s : State) : (journalLand l s).glb = s.glb := by
  simp only [journalLand]
  repeat' split
  all_goals simp
@[simp] theorem journalLand_pwr (l : List JRec) (s : State) : (journalLand l s).pwr = s.pwr := by
  simp only [journalLand]
  repeat' split
  all_goals simp
@[simp] theorem journalLand_bst (l : List JRec) (s : State) : (journalLand l s).bst = s.bst := by
  simp only [journalLand]
  repeat' split
  all_goals simp
@[simp] theorem journalNow_pending (s : State) : (journalNow s).pending = s.pending := by
  simp only [journalNow]
  repeat' split
  all_goals simp
@[simp] theorem journalNow_clk (s : State) : (journalNow s).clk = s.clk := by
  simp only [journalNow]
  repeat' split
  all_goals simp
@[simp] theorem journalNow_rng (s : State) : (journalNow s).rng = s.rng := by
  simp only [journalNow]
  repeat' split
  all_goals simp
@[simp] theorem journalNow_csn (s : State) : (journalNow s).csn = s.csn := by
  simp only [journalNow]
  repeat' split
  all_goals simp
@[simp] theorem journalNow_imem (s : State) : (journalNow s).imem = s.imem := by
  simp only [journalNow]
  repeat' split
  all_goals simp
@[simp] theorem journalNow_rwi (s : State) : (journalNow s).rwi = s.rwi := by
  simp only [journalNow]
  repeat' split
  all_goals simp
@[simp] theorem journalNow_pit (s : State) : (journalNow s).pit = s.pit := by
  simp only [journalNow]
  repeat' split
  all_goals simp
@[simp] theorem journalNow_sch (s : State) : (journalNow s).sch = s.sch := by
  simp only [journalNow]
  repeat' split
  all_goals simp
@[simp] theorem journalNow_cmc (s : State) : (journalNow s).cmc = s.cmc := by
  simp only [journalNow]
  repeat' split
  all_goals simp
@[simp] theorem journalNow_sel (s : State) : (journalNow s).sel = s.sel := by
  simp only [journalNow]
  repeat' split
  all_goals simp
@[simp] theorem journalNow_dma (s : State) : (journalNow s).dma = s.dma := by
  simp only [journalNow]
  repeat' split
  all_goals simp
@[simp] theorem journalNow_mbx (s : State) : (journalNow s).mbx = s.mbx := by
  simp only [journalNow]
  repeat' split
  all_goals simp
@[simp] theorem journalNow_mbxErr (s : State) : (journalNow s).mbxErr = s.mbxErr := by
  simp only [journalNow]
  repeat' split
  all_goals simp
@[simp] theorem journalNow_mpu (s : State) : (journalNow s).mpu = s.mpu := by
  simp only [journalNow]
  repeat' split
  all_goals simp
@[simp] theorem journalNow_caches (s : State) : (journalNow s).caches = s.caches := by
  simp only [journalNow]
  repeat' split
  all_goals simp
@[simp] theorem journalNow_tmp (s : State) : (journalNow s).tmp = s.tmp := by
  simp only [journalNow]
  repeat' split
  all_goals simp
@[simp] theorem journalNow_bat (s : State) : (journalNow s).bat = s.bat := by
  simp only [journalNow]
  repeat' split
  all_goals simp
@[simp] theorem journalNow_lcs (s : State) : (journalNow s).lcs = s.lcs := by
  simp only [journalNow]
  repeat' split
  all_goals simp
@[simp] theorem journalNow_own (s : State) : (journalNow s).own = s.own := by
  simp only [journalNow]
  repeat' split
  all_goals simp
@[simp] theorem journalNow_par (s : State) : (journalNow s).par = s.par := by
  simp only [journalNow]
  repeat' split
  all_goals simp
@[simp] theorem journalNow_glb (s : State) : (journalNow s).glb = s.glb := by
  simp only [journalNow]
  repeat' split
  all_goals simp
@[simp] theorem journalNow_pwr (s : State) : (journalNow s).pwr = s.pwr := by
  simp only [journalNow]
  repeat' split
  all_goals simp
@[simp] theorem journalNow_bst (s : State) : (journalNow s).bst = s.bst := by
  simp only [journalNow]
  repeat' split
  all_goals simp
@[simp] theorem journalWriteDone_pending (s : State) : (journalWriteDone s).pending = s.pending := by
  simp only [journalWriteDone]
  repeat' split
  all_goals simp
@[simp] theorem journalWriteDone_clk (s : State) : (journalWriteDone s).clk = s.clk := by
  simp only [journalWriteDone]
  repeat' split
  all_goals simp
@[simp] theorem journalWriteDone_rng (s : State) : (journalWriteDone s).rng = s.rng := by
  simp only [journalWriteDone]
  repeat' split
  all_goals simp
@[simp] theorem journalWriteDone_csn (s : State) : (journalWriteDone s).csn = s.csn := by
  simp only [journalWriteDone]
  repeat' split
  all_goals simp
@[simp] theorem journalWriteDone_imem (s : State) : (journalWriteDone s).imem = s.imem := by
  simp only [journalWriteDone]
  repeat' split
  all_goals simp
@[simp] theorem journalWriteDone_rwi (s : State) : (journalWriteDone s).rwi = s.rwi := by
  simp only [journalWriteDone]
  repeat' split
  all_goals simp
@[simp] theorem journalWriteDone_pit (s : State) : (journalWriteDone s).pit = s.pit := by
  simp only [journalWriteDone]
  repeat' split
  all_goals simp
@[simp] theorem journalWriteDone_sch (s : State) : (journalWriteDone s).sch = s.sch := by
  simp only [journalWriteDone]
  repeat' split
  all_goals simp
@[simp] theorem journalWriteDone_cmc (s : State) : (journalWriteDone s).cmc = s.cmc := by
  simp only [journalWriteDone]
  repeat' split
  all_goals simp
@[simp] theorem journalWriteDone_sel (s : State) : (journalWriteDone s).sel = s.sel := by
  simp only [journalWriteDone]
  repeat' split
  all_goals simp
@[simp] theorem journalWriteDone_dma (s : State) : (journalWriteDone s).dma = s.dma := by
  simp only [journalWriteDone]
  repeat' split
  all_goals simp
@[simp] theorem journalWriteDone_mbx (s : State) : (journalWriteDone s).mbx = s.mbx := by
  simp only [journalWriteDone]
  repeat' split
  all_goals simp
@[simp] theorem journalWriteDone_mbxErr (s : State) : (journalWriteDone s).mbxErr = s.mbxErr := by
  simp only [journalWriteDone]
  repeat' split
  all_goals simp
@[simp] theorem journalWriteDone_mpu (s : State) : (journalWriteDone s).mpu = s.mpu := by
  simp only [journalWriteDone]
  repeat' split
  all_goals simp
@[simp] theorem journalWriteDone_caches (s : State) : (journalWriteDone s).caches = s.caches := by
  simp only [journalWriteDone]
  repeat' split
  all_goals simp
@[simp] theorem journalWriteDone_tmp (s : State) : (journalWriteDone s).tmp = s.tmp := by
  simp only [journalWriteDone]
  repeat' split
  all_goals simp
@[simp] theorem journalWriteDone_bat (s : State) : (journalWriteDone s).bat = s.bat := by
  simp only [journalWriteDone]
  repeat' split
  all_goals simp
@[simp] theorem journalWriteDone_lcs (s : State) : (journalWriteDone s).lcs = s.lcs := by
  simp only [journalWriteDone]
  repeat' split
  all_goals simp
@[simp] theorem journalWriteDone_own (s : State) : (journalWriteDone s).own = s.own := by
  simp only [journalWriteDone]
  repeat' split
  all_goals simp
@[simp] theorem journalWriteDone_par (s : State) : (journalWriteDone s).par = s.par := by
  simp only [journalWriteDone]
  repeat' split
  all_goals simp
@[simp] theorem journalWriteDone_glb (s : State) : (journalWriteDone s).glb = s.glb := by
  simp only [journalWriteDone]
  repeat' split
  all_goals simp
@[simp] theorem journalWriteDone_pwr (s : State) : (journalWriteDone s).pwr = s.pwr := by
  simp only [journalWriteDone]
  repeat' split
  all_goals simp
@[simp] theorem journalWriteDone_bst (s : State) : (journalWriteDone s).bst = s.bst := by
  simp only [journalWriteDone]
  repeat' split
  all_goals simp
@[simp] theorem fireVector_pending (p : Nat) (s : State) : (fireVector p s).pending = s.pending := by
  simp only [fireVector]
  repeat' split
  all_goals simp
@[simp] theorem fireVector_clk (p : Nat) (s : State) : (fireVector p s).clk = s.clk := by
  simp only [fireVector]
  repeat' split
  all_goals simp
@[simp] theorem fireVector_rng (p : Nat) (s : State) : (fireVector p s).rng = s.rng := by
  simp only [fireVector]
  repeat' split
  all_goals simp
@[simp] theorem fireVector_csn (p : Nat) (s : State) : (fireVector p s).csn = s.csn := by
  simp only [fireVector]
  repeat' split
  all_goals simp
@[simp] theorem fireVector_imem (p : Nat) (s : State) : (fireVector p s).imem = s.imem := by
  simp only [fireVector]
  repeat' split
  all_goals simp
@[simp] theorem fireVector_rwi (p : Nat) (s : State) : (fireVector p s).rwi = s.rwi := by
  simp only [fireVector]
  repeat' split
  all_goals simp
@[simp] theorem fireVector_pit (p : Nat) (s : State) : (fireVector p s).pit = s.pit := by
  simp only [fireVector]
  repeat' split
  all_goals simp
@[simp] theorem fireVector_sch (p : Nat) (s : State) : (fireVector p s).sch = s.sch := by
  simp only [fireVector]
  repeat' split
  all_goals simp
@[simp] theorem fireVector_cmc (p : Nat) (s : State) : (fireVector p s).cmc = s.cmc := by
  simp only [fireVector]
  repeat' split
  all_goals simp
@[simp] theorem fireVector_sel (p : Nat) (s : State) : (fireVector p s).sel = s.sel := by
  simp only [fireVector]
  repeat' split
  all_goals simp
@[simp] theorem fireVector_dma (p : Nat) (s : State) : (fireVector p s).dma = s.dma := by
  simp only [fireVector]
  repeat' split
  all_goals simp
@[simp] theorem fireVector_mbx (p : Nat) (s : State) : (fireVector p s).mbx = s.mbx := by
  simp only [fireVector]
  repeat' split
  all_goals simp
@[simp] theorem fireVector_mbxErr (p : Nat) (s : State) : (fireVector p s).mbxErr = s.mbxErr := by
  simp only [fireVector]
  repeat' split
  all_goals simp
@[simp] theorem fireVector_mpu (p : Nat) (s : State) : (fireVector p s).mpu = s.mpu := by
  simp only [fireVector]
  repeat' split
  all_goals simp
@[simp] theorem fireVector_caches (p : Nat) (s : State) : (fireVector p s).caches = s.caches := by
  simp only [fireVector]
  repeat' split
  all_goals simp
@[simp] theorem fireVector_units (p : Nat) (s : State) : (fireVector p s).units = s.units := by
  simp only [fireVector]
  repeat' split
  all_goals simp
@[simp] theorem fireVector_kst (p : Nat) (s : State) : (fireVector p s).kst = s.kst := by
  simp only [fireVector]
  repeat' split
  all_goals simp
@[simp] theorem fireVector_tmp (p : Nat) (s : State) : (fireVector p s).tmp = s.tmp := by
  simp only [fireVector]
  repeat' split
  all_goals simp
@[simp] theorem fireVector_bat (p : Nat) (s : State) : (fireVector p s).bat = s.bat := by
  simp only [fireVector]
  repeat' split
  all_goals simp
@[simp] theorem fireVector_lcs (p : Nat) (s : State) : (fireVector p s).lcs = s.lcs := by
  simp only [fireVector]
  repeat' split
  all_goals simp
@[simp] theorem fireVector_own (p : Nat) (s : State) : (fireVector p s).own = s.own := by
  simp only [fireVector]
  repeat' split
  all_goals simp
@[simp] theorem fireVector_par (p : Nat) (s : State) : (fireVector p s).par = s.par := by
  simp only [fireVector]
  repeat' split
  all_goals simp
@[simp] theorem fireVector_glb (p : Nat) (s : State) : (fireVector p s).glb = s.glb := by
  simp only [fireVector]
  repeat' split
  all_goals simp
@[simp] theorem fireVector_pwr (p : Nat) (s : State) : (fireVector p s).pwr = s.pwr := by
  simp only [fireVector]
  repeat' split
  all_goals simp
@[simp] theorem fireVector_bst (p : Nat) (s : State) : (fireVector p s).bst = s.bst := by
  simp only [fireVector]
  repeat' split
  all_goals simp
@[simp] theorem fireVector_tly (p : Nat) (s : State) : (fireVector p s).tly = s.tly := by
  simp only [fireVector]
  repeat' split
  all_goals simp
@[simp] theorem fireVector_evc (p : Nat) (s : State) : (fireVector p s).evc = s.evc := by
  simp only [fireVector]
  repeat' split
  all_goals simp
@[simp] theorem coalesce_pending (p : Nat) (a b : Bool) (s : State) : (coalesce p a b s).pending = s.pending := by
  simp only [coalesce]
  repeat' split
  all_goals simp
@[simp] theorem coalesce_clk (p : Nat) (a b : Bool) (s : State) : (coalesce p a b s).clk = s.clk := by
  simp only [coalesce]
  repeat' split
  all_goals simp
@[simp] theorem coalesce_rng (p : Nat) (a b : Bool) (s : State) : (coalesce p a b s).rng = s.rng := by
  simp only [coalesce]
  repeat' split
  all_goals simp
@[simp] theorem coalesce_csn (p : Nat) (a b : Bool) (s : State) : (coalesce p a b s).csn = s.csn := by
  simp only [coalesce]
  repeat' split
  all_goals simp
@[simp] theorem coalesce_imem (p : Nat) (a b : Bool) (s : State) : (coalesce p a b s).imem = s.imem := by
  simp only [coalesce]
  repeat' split
  all_goals simp
@[simp] theorem coalesce_rwi (p : Nat) (a b : Bool) (s : State) : (coalesce p a b s).rwi = s.rwi := by
  simp only [coalesce]
  repeat' split
  all_goals simp
@[simp] theorem coalesce_pit (p : Nat) (a b : Bool) (s : State) : (coalesce p a b s).pit = s.pit := by
  simp only [coalesce]
  repeat' split
  all_goals simp
@[simp] theorem coalesce_sch (p : Nat) (a b : Bool) (s : State) : (coalesce p a b s).sch = s.sch := by
  simp only [coalesce]
  repeat' split
  all_goals simp
@[simp] theorem coalesce_cmc (p : Nat) (a b : Bool) (s : State) : (coalesce p a b s).cmc = s.cmc := by
  simp only [coalesce]
  repeat' split
  all_goals simp
@[simp] theorem coalesce_sel (p : Nat) (a b : Bool) (s : State) : (coalesce p a b s).sel = s.sel := by
  simp only [coalesce]
  repeat' split
  all_goals simp
@[simp] theorem coalesce_dma (p : Nat) (a b : Bool) (s : State) : (coalesce p a b s).dma = s.dma := by
  simp only [coalesce]
  repeat' split
  all_goals simp
@[simp] theorem coalesce_mbx (p : Nat) (a b : Bool) (s : State) : (coalesce p a b s).mbx = s.mbx := by
  simp only [coalesce]
  repeat' split
  all_goals simp
@[simp] theorem coalesce_mbxErr (p : Nat) (a b : Bool) (s : State) : (coalesce p a b s).mbxErr = s.mbxErr := by
  simp only [coalesce]
  repeat' split
  all_goals simp
@[simp] theorem coalesce_mpu (p : Nat) (a b : Bool) (s : State) : (coalesce p a b s).mpu = s.mpu := by
  simp only [coalesce]
  repeat' split
  all_goals simp
@[simp] theorem coalesce_caches (p : Nat) (a b : Bool) (s : State) : (coalesce p a b s).caches = s.caches := by
  simp only [coalesce]
  repeat' split
  all_goals simp
@[simp] theorem coalesce_units (p : Nat) (a b : Bool) (s : State) : (coalesce p a b s).units = s.units := by
  simp only [coalesce]
  repeat' split
  all_goals simp
@[simp] theorem coalesce_kst (p : Nat) (a b : Bool) (s : State) : (coalesce p a b s).kst = s.kst := by
  simp only [coalesce]
  repeat' split
  all_goals simp
@[simp] theorem coalesce_tmp (p : Nat) (a b : Bool) (s : State) : (coalesce p a b s).tmp = s.tmp := by
  simp only [coalesce]
  repeat' split
  all_goals simp
@[simp] theorem coalesce_bat (p : Nat) (a b : Bool) (s : State) : (coalesce p a b s).bat = s.bat := by
  simp only [coalesce]
  repeat' split
  all_goals simp
@[simp] theorem coalesce_lcs (p : Nat) (a b : Bool) (s : State) : (coalesce p a b s).lcs = s.lcs := by
  simp only [coalesce]
  repeat' split
  all_goals simp
@[simp] theorem coalesce_own (p : Nat) (a b : Bool) (s : State) : (coalesce p a b s).own = s.own := by
  simp only [coalesce]
  repeat' split
  all_goals simp
@[simp] theorem coalesce_par (p : Nat) (a b : Bool) (s : State) : (coalesce p a b s).par = s.par := by
  simp only [coalesce]
  repeat' split
  all_goals simp
@[simp] theorem coalesce_glb (p : Nat) (a b : Bool) (s : State) : (coalesce p a b s).glb = s.glb := by
  simp only [coalesce]
  repeat' split
  all_goals simp
@[simp] theorem coalesce_pwr (p : Nat) (a b : Bool) (s : State) : (coalesce p a b s).pwr = s.pwr := by
  simp only [coalesce]
  repeat' split
  all_goals simp
@[simp] theorem coalesce_bst (p : Nat) (a b : Bool) (s : State) : (coalesce p a b s).bst = s.bst := by
  simp only [coalesce]
  repeat' split
  all_goals simp
@[simp] theorem coalesce_tly (p : Nat) (a b : Bool) (s : State) : (coalesce p a b s).tly = s.tly := by
  simp only [coalesce]
  repeat' split
  all_goals simp
@[simp] theorem coalesce_evc (p : Nat) (a b : Bool) (s : State) : (coalesce p a b s).evc = s.evc := by
  simp only [coalesce]
  repeat' split
  all_goals simp
@[simp] theorem writeCqe_pending (p : Nat) (c : Cqe) (s : State) : (writeCqe p c s).pending = s.pending := by
  simp only [writeCqe]
  repeat' split
  all_goals simp
@[simp] theorem writeCqe_clk (p : Nat) (c : Cqe) (s : State) : (writeCqe p c s).clk = s.clk := by
  simp only [writeCqe]
  repeat' split
  all_goals simp
@[simp] theorem writeCqe_rng (p : Nat) (c : Cqe) (s : State) : (writeCqe p c s).rng = s.rng := by
  simp only [writeCqe]
  repeat' split
  all_goals simp
@[simp] theorem writeCqe_csn (p : Nat) (c : Cqe) (s : State) : (writeCqe p c s).csn = s.csn := by
  simp only [writeCqe]
  repeat' split
  all_goals simp
@[simp] theorem writeCqe_imem (p : Nat) (c : Cqe) (s : State) : (writeCqe p c s).imem = s.imem := by
  simp only [writeCqe]
  repeat' split
  all_goals simp
@[simp] theorem writeCqe_rwi (p : Nat) (c : Cqe) (s : State) : (writeCqe p c s).rwi = s.rwi := by
  simp only [writeCqe]
  repeat' split
  all_goals simp
@[simp] theorem writeCqe_pit (p : Nat) (c : Cqe) (s : State) : (writeCqe p c s).pit = s.pit := by
  simp only [writeCqe]
  repeat' split
  all_goals simp
@[simp] theorem writeCqe_sch (p : Nat) (c : Cqe) (s : State) : (writeCqe p c s).sch = s.sch := by
  simp only [writeCqe]
  repeat' split
  all_goals simp
@[simp] theorem writeCqe_cmc (p : Nat) (c : Cqe) (s : State) : (writeCqe p c s).cmc = s.cmc := by
  simp only [writeCqe]
  repeat' split
  all_goals simp
@[simp] theorem writeCqe_sel (p : Nat) (c : Cqe) (s : State) : (writeCqe p c s).sel = s.sel := by
  simp only [writeCqe]
  repeat' split
  all_goals simp
@[simp] theorem writeCqe_dma (p : Nat) (c : Cqe) (s : State) : (writeCqe p c s).dma = s.dma := by
  simp only [writeCqe]
  repeat' split
  all_goals simp
@[simp] theorem writeCqe_mbx (p : Nat) (c : Cqe) (s : State) : (writeCqe p c s).mbx = s.mbx := by
  simp only [writeCqe]
  repeat' split
  all_goals simp
@[simp] theorem writeCqe_mbxErr (p : Nat) (c : Cqe) (s : State) : (writeCqe p c s).mbxErr = s.mbxErr := by
  simp only [writeCqe]
  repeat' split
  all_goals simp
@[simp] theorem writeCqe_mpu (p : Nat) (c : Cqe) (s : State) : (writeCqe p c s).mpu = s.mpu := by
  simp only [writeCqe]
  repeat' split
  all_goals simp
@[simp] theorem writeCqe_caches (p : Nat) (c : Cqe) (s : State) : (writeCqe p c s).caches = s.caches := by
  simp only [writeCqe]
  repeat' split
  all_goals simp
@[simp] theorem writeCqe_units (p : Nat) (c : Cqe) (s : State) : (writeCqe p c s).units = s.units := by
  simp only [writeCqe]
  repeat' split
  all_goals simp
@[simp] theorem writeCqe_kst (p : Nat) (c : Cqe) (s : State) : (writeCqe p c s).kst = s.kst := by
  simp only [writeCqe]
  repeat' split
  all_goals simp
@[simp] theorem writeCqe_tmp (p : Nat) (c : Cqe) (s : State) : (writeCqe p c s).tmp = s.tmp := by
  simp only [writeCqe]
  repeat' split
  all_goals simp
@[simp] theorem writeCqe_bat (p : Nat) (c : Cqe) (s : State) : (writeCqe p c s).bat = s.bat := by
  simp only [writeCqe]
  repeat' split
  all_goals simp
@[simp] theorem writeCqe_lcs (p : Nat) (c : Cqe) (s : State) : (writeCqe p c s).lcs = s.lcs := by
  simp only [writeCqe]
  repeat' split
  all_goals simp
@[simp] theorem writeCqe_own (p : Nat) (c : Cqe) (s : State) : (writeCqe p c s).own = s.own := by
  simp only [writeCqe]
  repeat' split
  all_goals simp
@[simp] theorem writeCqe_par (p : Nat) (c : Cqe) (s : State) : (writeCqe p c s).par = s.par := by
  simp only [writeCqe]
  repeat' split
  all_goals simp
@[simp] theorem writeCqe_glb (p : Nat) (c : Cqe) (s : State) : (writeCqe p c s).glb = s.glb := by
  simp only [writeCqe]
  repeat' split
  all_goals simp
@[simp] theorem writeCqe_pwr (p : Nat) (c : Cqe) (s : State) : (writeCqe p c s).pwr = s.pwr := by
  simp only [writeCqe]
  repeat' split
  all_goals simp
@[simp] theorem writeCqe_bst (p : Nat) (c : Cqe) (s : State) : (writeCqe p c s).bst = s.bst := by
  simp only [writeCqe]
  repeat' split
  all_goals simp
@[simp] theorem writeCqe_tly (p : Nat) (c : Cqe) (s : State) : (writeCqe p c s).tly = s.tly := by
  simp only [writeCqe]
  repeat' split
  all_goals simp
@[simp] theorem writeCqe_evc (p : Nat) (c : Cqe) (s : State) : (writeCqe p c s).evc = s.evc := by
  simp only [writeCqe]
  repeat' split
  all_goals simp
@[simp] theorem endFence_pending (b : Bool) (p : Nat) (i : BitVec 2) (s : State) : (endFence b p i s).pending = s.pending := by
  simp only [endFence]
  repeat' split
  all_goals simp
@[simp] theorem endFence_clk (b : Bool) (p : Nat) (i : BitVec 2) (s : State) : (endFence b p i s).clk = s.clk := by
  simp only [endFence]
  repeat' split
  all_goals simp
@[simp] theorem endFence_rng (b : Bool) (p : Nat) (i : BitVec 2) (s : State) : (endFence b p i s).rng = s.rng := by
  simp only [endFence]
  repeat' split
  all_goals simp
@[simp] theorem endFence_csn (b : Bool) (p : Nat) (i : BitVec 2) (s : State) : (endFence b p i s).csn = s.csn := by
  simp only [endFence]
  repeat' split
  all_goals simp
@[simp] theorem endFence_out (b : Bool) (p : Nat) (i : BitVec 2) (s : State) : (endFence b p i s).out = s.out := by
  simp only [endFence]
  repeat' split
  all_goals simp
@[simp] theorem endFence_imem (b : Bool) (p : Nat) (i : BitVec 2) (s : State) : (endFence b p i s).imem = s.imem := by
  simp only [endFence]
  repeat' split
  all_goals simp
@[simp] theorem endFence_rwi (b : Bool) (p : Nat) (i : BitVec 2) (s : State) : (endFence b p i s).rwi = s.rwi := by
  simp only [endFence]
  repeat' split
  all_goals simp
@[simp] theorem endFence_pit (b : Bool) (p : Nat) (i : BitVec 2) (s : State) : (endFence b p i s).pit = s.pit := by
  simp only [endFence]
  repeat' split
  all_goals simp
@[simp] theorem endFence_rqe (b : Bool) (p : Nat) (i : BitVec 2) (s : State) : (endFence b p i s).rqe = s.rqe := by
  simp only [endFence]
  repeat' split
  all_goals simp
@[simp] theorem endFence_cmc (b : Bool) (p : Nat) (i : BitVec 2) (s : State) : (endFence b p i s).cmc = s.cmc := by
  simp only [endFence]
  repeat' split
  all_goals simp
@[simp] theorem endFence_sel (b : Bool) (p : Nat) (i : BitVec 2) (s : State) : (endFence b p i s).sel = s.sel := by
  simp only [endFence]
  repeat' split
  all_goals simp
@[simp] theorem endFence_dma (b : Bool) (p : Nat) (i : BitVec 2) (s : State) : (endFence b p i s).dma = s.dma := by
  simp only [endFence]
  repeat' split
  all_goals simp
@[simp] theorem endFence_mbx (b : Bool) (p : Nat) (i : BitVec 2) (s : State) : (endFence b p i s).mbx = s.mbx := by
  simp only [endFence]
  repeat' split
  all_goals simp
@[simp] theorem endFence_mbxErr (b : Bool) (p : Nat) (i : BitVec 2) (s : State) : (endFence b p i s).mbxErr = s.mbxErr := by
  simp only [endFence]
  repeat' split
  all_goals simp
@[simp] theorem endFence_mpu (b : Bool) (p : Nat) (i : BitVec 2) (s : State) : (endFence b p i s).mpu = s.mpu := by
  simp only [endFence]
  repeat' split
  all_goals simp
@[simp] theorem endFence_caches (b : Bool) (p : Nat) (i : BitVec 2) (s : State) : (endFence b p i s).caches = s.caches := by
  simp only [endFence]
  repeat' split
  all_goals simp
@[simp] theorem endFence_units (b : Bool) (p : Nat) (i : BitVec 2) (s : State) : (endFence b p i s).units = s.units := by
  simp only [endFence]
  repeat' split
  all_goals simp
@[simp] theorem endFence_kst (b : Bool) (p : Nat) (i : BitVec 2) (s : State) : (endFence b p i s).kst = s.kst := by
  simp only [endFence]
  repeat' split
  all_goals simp
@[simp] theorem endFence_tmp (b : Bool) (p : Nat) (i : BitVec 2) (s : State) : (endFence b p i s).tmp = s.tmp := by
  simp only [endFence]
  repeat' split
  all_goals simp
@[simp] theorem endFence_bat (b : Bool) (p : Nat) (i : BitVec 2) (s : State) : (endFence b p i s).bat = s.bat := by
  simp only [endFence]
  repeat' split
  all_goals simp
@[simp] theorem endFence_lcs (b : Bool) (p : Nat) (i : BitVec 2) (s : State) : (endFence b p i s).lcs = s.lcs := by
  simp only [endFence]
  repeat' split
  all_goals simp
@[simp] theorem endFence_own (b : Bool) (p : Nat) (i : BitVec 2) (s : State) : (endFence b p i s).own = s.own := by
  simp only [endFence]
  repeat' split
  all_goals simp
@[simp] theorem endFence_par (b : Bool) (p : Nat) (i : BitVec 2) (s : State) : (endFence b p i s).par = s.par := by
  simp only [endFence]
  repeat' split
  all_goals simp
@[simp] theorem endFence_glb (b : Bool) (p : Nat) (i : BitVec 2) (s : State) : (endFence b p i s).glb = s.glb := by
  simp only [endFence]
  repeat' split
  all_goals simp
@[simp] theorem endFence_pwr (b : Bool) (p : Nat) (i : BitVec 2) (s : State) : (endFence b p i s).pwr = s.pwr := by
  simp only [endFence]
  repeat' split
  all_goals simp
@[simp] theorem endFence_bst (b : Bool) (p : Nat) (i : BitVec 2) (s : State) : (endFence b p i s).bst = s.bst := by
  simp only [endFence]
  repeat' split
  all_goals simp
@[simp] theorem endFence_tly (b : Bool) (p : Nat) (i : BitVec 2) (s : State) : (endFence b p i s).tly = s.tly := by
  simp only [endFence]
  repeat' split
  all_goals simp
@[simp] theorem endFence_evc (b : Bool) (p : Nat) (i : BitVec 2) (s : State) : (endFence b p i s).evc = s.evc := by
  simp only [endFence]
  repeat' split
  all_goals simp
@[simp] theorem settleFence_pending (p : Nat) (i : BitVec 2) (s : State) : (settleFence p i s).pending = s.pending := by
  simp only [settleFence]
  repeat' split
  all_goals simp
@[simp] theorem settleFence_clk (p : Nat) (i : BitVec 2) (s : State) : (settleFence p i s).clk = s.clk := by
  simp only [settleFence]
  repeat' split
  all_goals simp
@[simp] theorem settleFence_rng (p : Nat) (i : BitVec 2) (s : State) : (settleFence p i s).rng = s.rng := by
  simp only [settleFence]
  repeat' split
  all_goals simp
@[simp] theorem settleFence_csn (p : Nat) (i : BitVec 2) (s : State) : (settleFence p i s).csn = s.csn := by
  simp only [settleFence]
  repeat' split
  all_goals simp
@[simp] theorem settleFence_out (p : Nat) (i : BitVec 2) (s : State) : (settleFence p i s).out = s.out := by
  simp only [settleFence]
  repeat' split
  all_goals simp
@[simp] theorem settleFence_imem (p : Nat) (i : BitVec 2) (s : State) : (settleFence p i s).imem = s.imem := by
  simp only [settleFence]
  repeat' split
  all_goals simp
@[simp] theorem settleFence_rwi (p : Nat) (i : BitVec 2) (s : State) : (settleFence p i s).rwi = s.rwi := by
  simp only [settleFence]
  repeat' split
  all_goals simp
@[simp] theorem settleFence_pit (p : Nat) (i : BitVec 2) (s : State) : (settleFence p i s).pit = s.pit := by
  simp only [settleFence]
  repeat' split
  all_goals simp
@[simp] theorem settleFence_cmc (p : Nat) (i : BitVec 2) (s : State) : (settleFence p i s).cmc = s.cmc := by
  simp only [settleFence]
  repeat' split
  all_goals simp
@[simp] theorem settleFence_sel (p : Nat) (i : BitVec 2) (s : State) : (settleFence p i s).sel = s.sel := by
  simp only [settleFence]
  repeat' split
  all_goals simp
@[simp] theorem settleFence_dma (p : Nat) (i : BitVec 2) (s : State) : (settleFence p i s).dma = s.dma := by
  simp only [settleFence]
  repeat' split
  all_goals simp
@[simp] theorem settleFence_mbx (p : Nat) (i : BitVec 2) (s : State) : (settleFence p i s).mbx = s.mbx := by
  simp only [settleFence]
  repeat' split
  all_goals simp
@[simp] theorem settleFence_mbxErr (p : Nat) (i : BitVec 2) (s : State) : (settleFence p i s).mbxErr = s.mbxErr := by
  simp only [settleFence]
  repeat' split
  all_goals simp
@[simp] theorem settleFence_mpu (p : Nat) (i : BitVec 2) (s : State) : (settleFence p i s).mpu = s.mpu := by
  simp only [settleFence]
  repeat' split
  all_goals simp
@[simp] theorem settleFence_caches (p : Nat) (i : BitVec 2) (s : State) : (settleFence p i s).caches = s.caches := by
  simp only [settleFence]
  repeat' split
  all_goals simp
@[simp] theorem settleFence_units (p : Nat) (i : BitVec 2) (s : State) : (settleFence p i s).units = s.units := by
  simp only [settleFence]
  repeat' split
  all_goals simp
@[simp] theorem settleFence_kst (p : Nat) (i : BitVec 2) (s : State) : (settleFence p i s).kst = s.kst := by
  simp only [settleFence]
  repeat' split
  all_goals simp
@[simp] theorem settleFence_tmp (p : Nat) (i : BitVec 2) (s : State) : (settleFence p i s).tmp = s.tmp := by
  simp only [settleFence]
  repeat' split
  all_goals simp
@[simp] theorem settleFence_bat (p : Nat) (i : BitVec 2) (s : State) : (settleFence p i s).bat = s.bat := by
  simp only [settleFence]
  repeat' split
  all_goals simp
@[simp] theorem settleFence_lcs (p : Nat) (i : BitVec 2) (s : State) : (settleFence p i s).lcs = s.lcs := by
  simp only [settleFence]
  repeat' split
  all_goals simp
@[simp] theorem settleFence_own (p : Nat) (i : BitVec 2) (s : State) : (settleFence p i s).own = s.own := by
  simp only [settleFence]
  repeat' split
  all_goals simp
@[simp] theorem settleFence_par (p : Nat) (i : BitVec 2) (s : State) : (settleFence p i s).par = s.par := by
  simp only [settleFence]
  repeat' split
  all_goals simp
@[simp] theorem settleFence_glb (p : Nat) (i : BitVec 2) (s : State) : (settleFence p i s).glb = s.glb := by
  simp only [settleFence]
  repeat' split
  all_goals simp
@[simp] theorem settleFence_pwr (p : Nat) (i : BitVec 2) (s : State) : (settleFence p i s).pwr = s.pwr := by
  simp only [settleFence]
  repeat' split
  all_goals simp
@[simp] theorem settleFence_bst (p : Nat) (i : BitVec 2) (s : State) : (settleFence p i s).bst = s.bst := by
  simp only [settleFence]
  repeat' split
  all_goals simp
@[simp] theorem settleFence_tly (p : Nat) (i : BitVec 2) (s : State) : (settleFence p i s).tly = s.tly := by
  simp only [settleFence]
  repeat' split
  all_goals simp
@[simp] theorem settleFence_evc (p : Nat) (i : BitVec 2) (s : State) : (settleFence p i s).evc = s.evc := by
  simp only [settleFence]
  repeat' split
  all_goals simp
@[simp] theorem refusedWritten_pending (p : Nat) (i : BitVec 2) (s : State) : (refusedWritten p i s).pending = s.pending := by
  simp only [refusedWritten]
  repeat' split
  all_goals simp
@[simp] theorem refusedWritten_clk (p : Nat) (i : BitVec 2) (s : State) : (refusedWritten p i s).clk = s.clk := by
  simp only [refusedWritten]
  repeat' split
  all_goals simp
@[simp] theorem refusedWritten_rng (p : Nat) (i : BitVec 2) (s : State) : (refusedWritten p i s).rng = s.rng := by
  simp only [refusedWritten]
  repeat' split
  all_goals simp
@[simp] theorem refusedWritten_csn (p : Nat) (i : BitVec 2) (s : State) : (refusedWritten p i s).csn = s.csn := by
  simp only [refusedWritten]
  repeat' split
  all_goals simp
@[simp] theorem refusedWritten_out (p : Nat) (i : BitVec 2) (s : State) : (refusedWritten p i s).out = s.out := by
  simp only [refusedWritten]
  repeat' split
  all_goals simp
@[simp] theorem refusedWritten_imem (p : Nat) (i : BitVec 2) (s : State) : (refusedWritten p i s).imem = s.imem := by
  simp only [refusedWritten]
  repeat' split
  all_goals simp
@[simp] theorem refusedWritten_rwi (p : Nat) (i : BitVec 2) (s : State) : (refusedWritten p i s).rwi = s.rwi := by
  simp only [refusedWritten]
  repeat' split
  all_goals simp
@[simp] theorem refusedWritten_pit (p : Nat) (i : BitVec 2) (s : State) : (refusedWritten p i s).pit = s.pit := by
  simp only [refusedWritten]
  repeat' split
  all_goals simp
@[simp] theorem refusedWritten_cmc (p : Nat) (i : BitVec 2) (s : State) : (refusedWritten p i s).cmc = s.cmc := by
  simp only [refusedWritten]
  repeat' split
  all_goals simp
@[simp] theorem refusedWritten_sel (p : Nat) (i : BitVec 2) (s : State) : (refusedWritten p i s).sel = s.sel := by
  simp only [refusedWritten]
  repeat' split
  all_goals simp
@[simp] theorem refusedWritten_dma (p : Nat) (i : BitVec 2) (s : State) : (refusedWritten p i s).dma = s.dma := by
  simp only [refusedWritten]
  repeat' split
  all_goals simp
@[simp] theorem refusedWritten_mbx (p : Nat) (i : BitVec 2) (s : State) : (refusedWritten p i s).mbx = s.mbx := by
  simp only [refusedWritten]
  repeat' split
  all_goals simp
@[simp] theorem refusedWritten_mbxErr (p : Nat) (i : BitVec 2) (s : State) : (refusedWritten p i s).mbxErr = s.mbxErr := by
  simp only [refusedWritten]
  repeat' split
  all_goals simp
@[simp] theorem refusedWritten_mpu (p : Nat) (i : BitVec 2) (s : State) : (refusedWritten p i s).mpu = s.mpu := by
  simp only [refusedWritten]
  repeat' split
  all_goals simp
@[simp] theorem refusedWritten_caches (p : Nat) (i : BitVec 2) (s : State) : (refusedWritten p i s).caches = s.caches := by
  simp only [refusedWritten]
  repeat' split
  all_goals simp
@[simp] theorem refusedWritten_units (p : Nat) (i : BitVec 2) (s : State) : (refusedWritten p i s).units = s.units := by
  simp only [refusedWritten]
  repeat' split
  all_goals simp
@[simp] theorem refusedWritten_kst (p : Nat) (i : BitVec 2) (s : State) : (refusedWritten p i s).kst = s.kst := by
  simp only [refusedWritten]
  repeat' split
  all_goals simp
@[simp] theorem refusedWritten_tmp (p : Nat) (i : BitVec 2) (s : State) : (refusedWritten p i s).tmp = s.tmp := by
  simp only [refusedWritten]
  repeat' split
  all_goals simp
@[simp] theorem refusedWritten_bat (p : Nat) (i : BitVec 2) (s : State) : (refusedWritten p i s).bat = s.bat := by
  simp only [refusedWritten]
  repeat' split
  all_goals simp
@[simp] theorem refusedWritten_lcs (p : Nat) (i : BitVec 2) (s : State) : (refusedWritten p i s).lcs = s.lcs := by
  simp only [refusedWritten]
  repeat' split
  all_goals simp
@[simp] theorem refusedWritten_own (p : Nat) (i : BitVec 2) (s : State) : (refusedWritten p i s).own = s.own := by
  simp only [refusedWritten]
  repeat' split
  all_goals simp
@[simp] theorem refusedWritten_par (p : Nat) (i : BitVec 2) (s : State) : (refusedWritten p i s).par = s.par := by
  simp only [refusedWritten]
  repeat' split
  all_goals simp
@[simp] theorem refusedWritten_glb (p : Nat) (i : BitVec 2) (s : State) : (refusedWritten p i s).glb = s.glb := by
  simp only [refusedWritten]
  repeat' split
  all_goals simp
@[simp] theorem refusedWritten_pwr (p : Nat) (i : BitVec 2) (s : State) : (refusedWritten p i s).pwr = s.pwr := by
  simp only [refusedWritten]
  repeat' split
  all_goals simp
@[simp] theorem refusedWritten_bst (p : Nat) (i : BitVec 2) (s : State) : (refusedWritten p i s).bst = s.bst := by
  simp only [refusedWritten]
  repeat' split
  all_goals simp
@[simp] theorem refusedWritten_tly (p : Nat) (i : BitVec 2) (s : State) : (refusedWritten p i s).tly = s.tly := by
  simp only [refusedWritten]
  repeat' split
  all_goals simp
@[simp] theorem refusedWritten_evc (p : Nat) (i : BitVec 2) (s : State) : (refusedWritten p i s).evc = s.evc := by
  simp only [refusedWritten]
  repeat' split
  all_goals simp
@[simp] theorem returnCredit_pending (b : Bool) (p : Nat) (s : State) : (returnCredit b p s).pending = s.pending := by
  simp only [returnCredit]
  repeat' split
  all_goals simp
@[simp] theorem returnCredit_clk (b : Bool) (p : Nat) (s : State) : (returnCredit b p s).clk = s.clk := by
  simp only [returnCredit]
  repeat' split
  all_goals simp
@[simp] theorem returnCredit_rng (b : Bool) (p : Nat) (s : State) : (returnCredit b p s).rng = s.rng := by
  simp only [returnCredit]
  repeat' split
  all_goals simp
@[simp] theorem returnCredit_csn (b : Bool) (p : Nat) (s : State) : (returnCredit b p s).csn = s.csn := by
  simp only [returnCredit]
  repeat' split
  all_goals simp
@[simp] theorem returnCredit_out (b : Bool) (p : Nat) (s : State) : (returnCredit b p s).out = s.out := by
  simp only [returnCredit]
  repeat' split
  all_goals simp
@[simp] theorem returnCredit_imem (b : Bool) (p : Nat) (s : State) : (returnCredit b p s).imem = s.imem := by
  simp only [returnCredit]
  repeat' split
  all_goals simp
@[simp] theorem returnCredit_rwi (b : Bool) (p : Nat) (s : State) : (returnCredit b p s).rwi = s.rwi := by
  simp only [returnCredit]
  repeat' split
  all_goals simp
@[simp] theorem returnCredit_pit (b : Bool) (p : Nat) (s : State) : (returnCredit b p s).pit = s.pit := by
  simp only [returnCredit]
  repeat' split
  all_goals simp
@[simp] theorem returnCredit_sch (b : Bool) (p : Nat) (s : State) : (returnCredit b p s).sch = s.sch := by
  simp only [returnCredit]
  repeat' split
  all_goals simp
@[simp] theorem returnCredit_cmc (b : Bool) (p : Nat) (s : State) : (returnCredit b p s).cmc = s.cmc := by
  simp only [returnCredit]
  repeat' split
  all_goals simp
@[simp] theorem returnCredit_sel (b : Bool) (p : Nat) (s : State) : (returnCredit b p s).sel = s.sel := by
  simp only [returnCredit]
  repeat' split
  all_goals simp
@[simp] theorem returnCredit_dma (b : Bool) (p : Nat) (s : State) : (returnCredit b p s).dma = s.dma := by
  simp only [returnCredit]
  repeat' split
  all_goals simp
@[simp] theorem returnCredit_mbx (b : Bool) (p : Nat) (s : State) : (returnCredit b p s).mbx = s.mbx := by
  simp only [returnCredit]
  repeat' split
  all_goals simp
@[simp] theorem returnCredit_mbxErr (b : Bool) (p : Nat) (s : State) : (returnCredit b p s).mbxErr = s.mbxErr := by
  simp only [returnCredit]
  repeat' split
  all_goals simp
@[simp] theorem returnCredit_mpu (b : Bool) (p : Nat) (s : State) : (returnCredit b p s).mpu = s.mpu := by
  simp only [returnCredit]
  repeat' split
  all_goals simp
@[simp] theorem returnCredit_caches (b : Bool) (p : Nat) (s : State) : (returnCredit b p s).caches = s.caches := by
  simp only [returnCredit]
  repeat' split
  all_goals simp
@[simp] theorem returnCredit_units (b : Bool) (p : Nat) (s : State) : (returnCredit b p s).units = s.units := by
  simp only [returnCredit]
  repeat' split
  all_goals simp
@[simp] theorem returnCredit_kst (b : Bool) (p : Nat) (s : State) : (returnCredit b p s).kst = s.kst := by
  simp only [returnCredit]
  repeat' split
  all_goals simp
@[simp] theorem returnCredit_tmp (b : Bool) (p : Nat) (s : State) : (returnCredit b p s).tmp = s.tmp := by
  simp only [returnCredit]
  repeat' split
  all_goals simp
@[simp] theorem returnCredit_bat (b : Bool) (p : Nat) (s : State) : (returnCredit b p s).bat = s.bat := by
  simp only [returnCredit]
  repeat' split
  all_goals simp
@[simp] theorem returnCredit_lcs (b : Bool) (p : Nat) (s : State) : (returnCredit b p s).lcs = s.lcs := by
  simp only [returnCredit]
  repeat' split
  all_goals simp
@[simp] theorem returnCredit_own (b : Bool) (p : Nat) (s : State) : (returnCredit b p s).own = s.own := by
  simp only [returnCredit]
  repeat' split
  all_goals simp
@[simp] theorem returnCredit_par (b : Bool) (p : Nat) (s : State) : (returnCredit b p s).par = s.par := by
  simp only [returnCredit]
  repeat' split
  all_goals simp
@[simp] theorem returnCredit_glb (b : Bool) (p : Nat) (s : State) : (returnCredit b p s).glb = s.glb := by
  simp only [returnCredit]
  repeat' split
  all_goals simp
@[simp] theorem returnCredit_pwr (b : Bool) (p : Nat) (s : State) : (returnCredit b p s).pwr = s.pwr := by
  simp only [returnCredit]
  repeat' split
  all_goals simp
@[simp] theorem returnCredit_bst (b : Bool) (p : Nat) (s : State) : (returnCredit b p s).bst = s.bst := by
  simp only [returnCredit]
  repeat' split
  all_goals simp
@[simp] theorem returnCredit_tly (b : Bool) (p : Nat) (s : State) : (returnCredit b p s).tly = s.tly := by
  simp only [returnCredit]
  repeat' split
  all_goals simp
@[simp] theorem returnCredit_evc (b : Bool) (p : Nat) (s : State) : (returnCredit b p s).evc = s.evc := by
  simp only [returnCredit]
  repeat' split
  all_goals simp
@[simp] theorem freeEntry_pending (e : Nat) (s : State) : (freeEntry e s).pending = s.pending := by
  simp only [freeEntry]
  repeat' split
  all_goals simp
@[simp] theorem freeEntry_clk (e : Nat) (s : State) : (freeEntry e s).clk = s.clk := by
  simp only [freeEntry]
  repeat' split
  all_goals simp
@[simp] theorem freeEntry_rng (e : Nat) (s : State) : (freeEntry e s).rng = s.rng := by
  simp only [freeEntry]
  repeat' split
  all_goals simp
@[simp] theorem freeEntry_csn (e : Nat) (s : State) : (freeEntry e s).csn = s.csn := by
  simp only [freeEntry]
  repeat' split
  all_goals simp
@[simp] theorem freeEntry_out (e : Nat) (s : State) : (freeEntry e s).out = s.out := by
  simp only [freeEntry]
  repeat' split
  all_goals simp
@[simp] theorem freeEntry_imem (e : Nat) (s : State) : (freeEntry e s).imem = s.imem := by
  simp only [freeEntry]
  repeat' split
  all_goals simp
@[simp] theorem freeEntry_rwi (e : Nat) (s : State) : (freeEntry e s).rwi = s.rwi := by
  simp only [freeEntry]
  repeat' split
  all_goals simp
@[simp] theorem freeEntry_cmc (e : Nat) (s : State) : (freeEntry e s).cmc = s.cmc := by
  simp only [freeEntry]
  repeat' split
  all_goals simp
@[simp] theorem freeEntry_sel (e : Nat) (s : State) : (freeEntry e s).sel = s.sel := by
  simp only [freeEntry]
  repeat' split
  all_goals simp
@[simp] theorem freeEntry_dma (e : Nat) (s : State) : (freeEntry e s).dma = s.dma := by
  simp only [freeEntry]
  repeat' split
  all_goals simp
@[simp] theorem freeEntry_mbx (e : Nat) (s : State) : (freeEntry e s).mbx = s.mbx := by
  simp only [freeEntry]
  repeat' split
  all_goals simp
@[simp] theorem freeEntry_mbxErr (e : Nat) (s : State) : (freeEntry e s).mbxErr = s.mbxErr := by
  simp only [freeEntry]
  repeat' split
  all_goals simp
@[simp] theorem freeEntry_mpu (e : Nat) (s : State) : (freeEntry e s).mpu = s.mpu := by
  simp only [freeEntry]
  repeat' split
  all_goals simp
@[simp] theorem freeEntry_caches (e : Nat) (s : State) : (freeEntry e s).caches = s.caches := by
  simp only [freeEntry]
  repeat' split
  all_goals simp
@[simp] theorem freeEntry_units (e : Nat) (s : State) : (freeEntry e s).units = s.units := by
  simp only [freeEntry]
  repeat' split
  all_goals simp
@[simp] theorem freeEntry_kst (e : Nat) (s : State) : (freeEntry e s).kst = s.kst := by
  simp only [freeEntry]
  repeat' split
  all_goals simp
@[simp] theorem freeEntry_tmp (e : Nat) (s : State) : (freeEntry e s).tmp = s.tmp := by
  simp only [freeEntry]
  repeat' split
  all_goals simp
@[simp] theorem freeEntry_bat (e : Nat) (s : State) : (freeEntry e s).bat = s.bat := by
  simp only [freeEntry]
  repeat' split
  all_goals simp
@[simp] theorem freeEntry_lcs (e : Nat) (s : State) : (freeEntry e s).lcs = s.lcs := by
  simp only [freeEntry]
  repeat' split
  all_goals simp
@[simp] theorem freeEntry_own (e : Nat) (s : State) : (freeEntry e s).own = s.own := by
  simp only [freeEntry]
  repeat' split
  all_goals simp
@[simp] theorem freeEntry_par (e : Nat) (s : State) : (freeEntry e s).par = s.par := by
  simp only [freeEntry]
  repeat' split
  all_goals simp
@[simp] theorem freeEntry_glb (e : Nat) (s : State) : (freeEntry e s).glb = s.glb := by
  simp only [freeEntry]
  repeat' split
  all_goals simp
@[simp] theorem freeEntry_pwr (e : Nat) (s : State) : (freeEntry e s).pwr = s.pwr := by
  simp only [freeEntry]
  repeat' split
  all_goals simp
@[simp] theorem freeEntry_bst (e : Nat) (s : State) : (freeEntry e s).bst = s.bst := by
  simp only [freeEntry]
  repeat' split
  all_goals simp
@[simp] theorem freeEntry_tly (e : Nat) (s : State) : (freeEntry e s).tly = s.tly := by
  simp only [freeEntry]
  repeat' split
  all_goals simp
@[simp] theorem freeEntry_evc (e : Nat) (s : State) : (freeEntry e s).evc = s.evc := by
  simp only [freeEntry]
  repeat' split
  all_goals simp
@[simp] theorem freeOpt_pending (e : Option Nat) (s : State) : (freeOpt e s).pending = s.pending := by
  simp only [freeOpt]
  repeat' split
  all_goals simp
@[simp] theorem freeOpt_clk (e : Option Nat) (s : State) : (freeOpt e s).clk = s.clk := by
  simp only [freeOpt]
  repeat' split
  all_goals simp
@[simp] theorem freeOpt_rng (e : Option Nat) (s : State) : (freeOpt e s).rng = s.rng := by
  simp only [freeOpt]
  repeat' split
  all_goals simp
@[simp] theorem freeOpt_csn (e : Option Nat) (s : State) : (freeOpt e s).csn = s.csn := by
  simp only [freeOpt]
  repeat' split
  all_goals simp
@[simp] theorem freeOpt_out (e : Option Nat) (s : State) : (freeOpt e s).out = s.out := by
  simp only [freeOpt]
  repeat' split
  all_goals simp
@[simp] theorem freeOpt_imem (e : Option Nat) (s : State) : (freeOpt e s).imem = s.imem := by
  simp only [freeOpt]
  repeat' split
  all_goals simp
@[simp] theorem freeOpt_rwi (e : Option Nat) (s : State) : (freeOpt e s).rwi = s.rwi := by
  simp only [freeOpt]
  repeat' split
  all_goals simp
@[simp] theorem freeOpt_cmc (e : Option Nat) (s : State) : (freeOpt e s).cmc = s.cmc := by
  simp only [freeOpt]
  repeat' split
  all_goals simp
@[simp] theorem freeOpt_sel (e : Option Nat) (s : State) : (freeOpt e s).sel = s.sel := by
  simp only [freeOpt]
  repeat' split
  all_goals simp
@[simp] theorem freeOpt_dma (e : Option Nat) (s : State) : (freeOpt e s).dma = s.dma := by
  simp only [freeOpt]
  repeat' split
  all_goals simp
@[simp] theorem freeOpt_mbx (e : Option Nat) (s : State) : (freeOpt e s).mbx = s.mbx := by
  simp only [freeOpt]
  repeat' split
  all_goals simp
@[simp] theorem freeOpt_mbxErr (e : Option Nat) (s : State) : (freeOpt e s).mbxErr = s.mbxErr := by
  simp only [freeOpt]
  repeat' split
  all_goals simp
@[simp] theorem freeOpt_mpu (e : Option Nat) (s : State) : (freeOpt e s).mpu = s.mpu := by
  simp only [freeOpt]
  repeat' split
  all_goals simp
@[simp] theorem freeOpt_caches (e : Option Nat) (s : State) : (freeOpt e s).caches = s.caches := by
  simp only [freeOpt]
  repeat' split
  all_goals simp
@[simp] theorem freeOpt_units (e : Option Nat) (s : State) : (freeOpt e s).units = s.units := by
  simp only [freeOpt]
  repeat' split
  all_goals simp
@[simp] theorem freeOpt_kst (e : Option Nat) (s : State) : (freeOpt e s).kst = s.kst := by
  simp only [freeOpt]
  repeat' split
  all_goals simp
@[simp] theorem freeOpt_tmp (e : Option Nat) (s : State) : (freeOpt e s).tmp = s.tmp := by
  simp only [freeOpt]
  repeat' split
  all_goals simp
@[simp] theorem freeOpt_bat (e : Option Nat) (s : State) : (freeOpt e s).bat = s.bat := by
  simp only [freeOpt]
  repeat' split
  all_goals simp
@[simp] theorem freeOpt_lcs (e : Option Nat) (s : State) : (freeOpt e s).lcs = s.lcs := by
  simp only [freeOpt]
  repeat' split
  all_goals simp
@[simp] theorem freeOpt_own (e : Option Nat) (s : State) : (freeOpt e s).own = s.own := by
  simp only [freeOpt]
  repeat' split
  all_goals simp
@[simp] theorem freeOpt_par (e : Option Nat) (s : State) : (freeOpt e s).par = s.par := by
  simp only [freeOpt]
  repeat' split
  all_goals simp
@[simp] theorem freeOpt_glb (e : Option Nat) (s : State) : (freeOpt e s).glb = s.glb := by
  simp only [freeOpt]
  repeat' split
  all_goals simp
@[simp] theorem freeOpt_pwr (e : Option Nat) (s : State) : (freeOpt e s).pwr = s.pwr := by
  simp only [freeOpt]
  repeat' split
  all_goals simp
@[simp] theorem freeOpt_bst (e : Option Nat) (s : State) : (freeOpt e s).bst = s.bst := by
  simp only [freeOpt]
  repeat' split
  all_goals simp
@[simp] theorem freeOpt_tly (e : Option Nat) (s : State) : (freeOpt e s).tly = s.tly := by
  simp only [freeOpt]
  repeat' split
  all_goals simp
@[simp] theorem freeOpt_evc (e : Option Nat) (s : State) : (freeOpt e s).evc = s.evc := by
  simp only [freeOpt]
  repeat' split
  all_goals simp
@[simp] theorem postNow_pending (p : Nat) (h : HeldCqe) (s : State) : (postNow p h s).pending = s.pending := by
  simp only [postNow]
  repeat' split
  all_goals simp
@[simp] theorem postNow_clk (p : Nat) (h : HeldCqe) (s : State) : (postNow p h s).clk = s.clk := by
  simp only [postNow]
  repeat' split
  all_goals simp
@[simp] theorem postNow_rng (p : Nat) (h : HeldCqe) (s : State) : (postNow p h s).rng = s.rng := by
  simp only [postNow]
  repeat' split
  all_goals simp
@[simp] theorem postNow_csn (p : Nat) (h : HeldCqe) (s : State) : (postNow p h s).csn = s.csn := by
  simp only [postNow]
  repeat' split
  all_goals simp
@[simp] theorem postNow_imem (p : Nat) (h : HeldCqe) (s : State) : (postNow p h s).imem = s.imem := by
  simp only [postNow]
  repeat' split
  all_goals simp
@[simp] theorem postNow_rwi (p : Nat) (h : HeldCqe) (s : State) : (postNow p h s).rwi = s.rwi := by
  simp only [postNow]
  repeat' split
  all_goals simp
@[simp] theorem postNow_cmc (p : Nat) (h : HeldCqe) (s : State) : (postNow p h s).cmc = s.cmc := by
  simp only [postNow]
  repeat' split
  all_goals simp
@[simp] theorem postNow_sel (p : Nat) (h : HeldCqe) (s : State) : (postNow p h s).sel = s.sel := by
  simp only [postNow]
  repeat' split
  all_goals simp
@[simp] theorem postNow_dma (p : Nat) (h : HeldCqe) (s : State) : (postNow p h s).dma = s.dma := by
  simp only [postNow]
  repeat' split
  all_goals simp
@[simp] theorem postNow_mbx (p : Nat) (h : HeldCqe) (s : State) : (postNow p h s).mbx = s.mbx := by
  simp only [postNow]
  repeat' split
  all_goals simp
@[simp] theorem postNow_mbxErr (p : Nat) (h : HeldCqe) (s : State) : (postNow p h s).mbxErr = s.mbxErr := by
  simp only [postNow]
  repeat' split
  all_goals simp
@[simp] theorem postNow_mpu (p : Nat) (h : HeldCqe) (s : State) : (postNow p h s).mpu = s.mpu := by
  simp only [postNow]
  repeat' split
  all_goals simp
@[simp] theorem postNow_caches (p : Nat) (h : HeldCqe) (s : State) : (postNow p h s).caches = s.caches := by
  simp only [postNow]
  repeat' split
  all_goals simp
@[simp] theorem postNow_units (p : Nat) (h : HeldCqe) (s : State) : (postNow p h s).units = s.units := by
  simp only [postNow]
  repeat' split
  all_goals simp
@[simp] theorem postNow_kst (p : Nat) (h : HeldCqe) (s : State) : (postNow p h s).kst = s.kst := by
  simp only [postNow]
  repeat' split
  all_goals simp
@[simp] theorem postNow_tmp (p : Nat) (h : HeldCqe) (s : State) : (postNow p h s).tmp = s.tmp := by
  simp only [postNow]
  repeat' split
  all_goals simp
@[simp] theorem postNow_bat (p : Nat) (h : HeldCqe) (s : State) : (postNow p h s).bat = s.bat := by
  simp only [postNow]
  repeat' split
  all_goals simp
@[simp] theorem postNow_lcs (p : Nat) (h : HeldCqe) (s : State) : (postNow p h s).lcs = s.lcs := by
  simp only [postNow]
  repeat' split
  all_goals simp
@[simp] theorem postNow_own (p : Nat) (h : HeldCqe) (s : State) : (postNow p h s).own = s.own := by
  simp only [postNow]
  repeat' split
  all_goals simp
@[simp] theorem postNow_par (p : Nat) (h : HeldCqe) (s : State) : (postNow p h s).par = s.par := by
  simp only [postNow]
  repeat' split
  all_goals simp
@[simp] theorem postNow_glb (p : Nat) (h : HeldCqe) (s : State) : (postNow p h s).glb = s.glb := by
  simp only [postNow]
  repeat' split
  all_goals simp
@[simp] theorem postNow_pwr (p : Nat) (h : HeldCqe) (s : State) : (postNow p h s).pwr = s.pwr := by
  simp only [postNow]
  repeat' split
  all_goals simp
@[simp] theorem postNow_bst (p : Nat) (h : HeldCqe) (s : State) : (postNow p h s).bst = s.bst := by
  simp only [postNow]
  repeat' split
  all_goals simp
@[simp] theorem postNow_tly (p : Nat) (h : HeldCqe) (s : State) : (postNow p h s).tly = s.tly := by
  simp only [postNow]
  repeat' split
  all_goals simp
@[simp] theorem postNow_evc (p : Nat) (h : HeldCqe) (s : State) : (postNow p h s).evc = s.evc := by
  simp only [postNow]
  repeat' split
  all_goals simp
@[simp] theorem post_pending (p : Nat) (h : HeldCqe) (s : State) : (post p h s).pending = s.pending := by
  simp only [post]
  repeat' split
  all_goals simp
@[simp] theorem post_clk (p : Nat) (h : HeldCqe) (s : State) : (post p h s).clk = s.clk := by
  simp only [post]
  repeat' split
  all_goals simp
@[simp] theorem post_rng (p : Nat) (h : HeldCqe) (s : State) : (post p h s).rng = s.rng := by
  simp only [post]
  repeat' split
  all_goals simp
@[simp] theorem post_csn (p : Nat) (h : HeldCqe) (s : State) : (post p h s).csn = s.csn := by
  simp only [post]
  repeat' split
  all_goals simp
@[simp] theorem post_imem (p : Nat) (h : HeldCqe) (s : State) : (post p h s).imem = s.imem := by
  simp only [post]
  repeat' split
  all_goals simp
@[simp] theorem post_rwi (p : Nat) (h : HeldCqe) (s : State) : (post p h s).rwi = s.rwi := by
  simp only [post]
  repeat' split
  all_goals simp
@[simp] theorem post_cmc (p : Nat) (h : HeldCqe) (s : State) : (post p h s).cmc = s.cmc := by
  simp only [post]
  repeat' split
  all_goals simp
@[simp] theorem post_sel (p : Nat) (h : HeldCqe) (s : State) : (post p h s).sel = s.sel := by
  simp only [post]
  repeat' split
  all_goals simp
@[simp] theorem post_dma (p : Nat) (h : HeldCqe) (s : State) : (post p h s).dma = s.dma := by
  simp only [post]
  repeat' split
  all_goals simp
@[simp] theorem post_mbx (p : Nat) (h : HeldCqe) (s : State) : (post p h s).mbx = s.mbx := by
  simp only [post]
  repeat' split
  all_goals simp
@[simp] theorem post_mbxErr (p : Nat) (h : HeldCqe) (s : State) : (post p h s).mbxErr = s.mbxErr := by
  simp only [post]
  repeat' split
  all_goals simp
@[simp] theorem post_mpu (p : Nat) (h : HeldCqe) (s : State) : (post p h s).mpu = s.mpu := by
  simp only [post]
  repeat' split
  all_goals simp
@[simp] theorem post_caches (p : Nat) (h : HeldCqe) (s : State) : (post p h s).caches = s.caches := by
  simp only [post]
  repeat' split
  all_goals simp
@[simp] theorem post_units (p : Nat) (h : HeldCqe) (s : State) : (post p h s).units = s.units := by
  simp only [post]
  repeat' split
  all_goals simp
@[simp] theorem post_kst (p : Nat) (h : HeldCqe) (s : State) : (post p h s).kst = s.kst := by
  simp only [post]
  repeat' split
  all_goals simp
@[simp] theorem post_tmp (p : Nat) (h : HeldCqe) (s : State) : (post p h s).tmp = s.tmp := by
  simp only [post]
  repeat' split
  all_goals simp
@[simp] theorem post_bat (p : Nat) (h : HeldCqe) (s : State) : (post p h s).bat = s.bat := by
  simp only [post]
  repeat' split
  all_goals simp
@[simp] theorem post_lcs (p : Nat) (h : HeldCqe) (s : State) : (post p h s).lcs = s.lcs := by
  simp only [post]
  repeat' split
  all_goals simp
@[simp] theorem post_own (p : Nat) (h : HeldCqe) (s : State) : (post p h s).own = s.own := by
  simp only [post]
  repeat' split
  all_goals simp
@[simp] theorem post_par (p : Nat) (h : HeldCqe) (s : State) : (post p h s).par = s.par := by
  simp only [post]
  repeat' split
  all_goals simp
@[simp] theorem post_glb (p : Nat) (h : HeldCqe) (s : State) : (post p h s).glb = s.glb := by
  simp only [post]
  repeat' split
  all_goals simp
@[simp] theorem post_pwr (p : Nat) (h : HeldCqe) (s : State) : (post p h s).pwr = s.pwr := by
  simp only [post]
  repeat' split
  all_goals simp
@[simp] theorem post_bst (p : Nat) (h : HeldCqe) (s : State) : (post p h s).bst = s.bst := by
  simp only [post]
  repeat' split
  all_goals simp
@[simp] theorem post_tly (p : Nat) (h : HeldCqe) (s : State) : (post p h s).tly = s.tly := by
  simp only [post]
  repeat' split
  all_goals simp
@[simp] theorem post_evc (p : Nat) (h : HeldCqe) (s : State) : (post p h s).evc = s.evc := by
  simp only [post]
  repeat' split
  all_goals simp
@[simp] theorem releaseList_pending (p : Nat) (l : List HeldCqe) (s : State) : (releaseList p l s).pending = s.pending := by
  induction l generalizing s with
  | nil => rfl
  | cons h t ih =>
    simp only [releaseList]
    rw [ih]
    simp
@[simp] theorem releaseList_clk (p : Nat) (l : List HeldCqe) (s : State) : (releaseList p l s).clk = s.clk := by
  induction l generalizing s with
  | nil => rfl
  | cons h t ih =>
    simp only [releaseList]
    rw [ih]
    simp
@[simp] theorem releaseList_rng (p : Nat) (l : List HeldCqe) (s : State) : (releaseList p l s).rng = s.rng := by
  induction l generalizing s with
  | nil => rfl
  | cons h t ih =>
    simp only [releaseList]
    rw [ih]
    simp
@[simp] theorem releaseList_csn (p : Nat) (l : List HeldCqe) (s : State) : (releaseList p l s).csn = s.csn := by
  induction l generalizing s with
  | nil => rfl
  | cons h t ih =>
    simp only [releaseList]
    rw [ih]
    simp
@[simp] theorem releaseList_imem (p : Nat) (l : List HeldCqe) (s : State) : (releaseList p l s).imem = s.imem := by
  induction l generalizing s with
  | nil => rfl
  | cons h t ih =>
    simp only [releaseList]
    rw [ih]
    simp
@[simp] theorem releaseList_rwi (p : Nat) (l : List HeldCqe) (s : State) : (releaseList p l s).rwi = s.rwi := by
  induction l generalizing s with
  | nil => rfl
  | cons h t ih =>
    simp only [releaseList]
    rw [ih]
    simp
@[simp] theorem releaseList_cmc (p : Nat) (l : List HeldCqe) (s : State) : (releaseList p l s).cmc = s.cmc := by
  induction l generalizing s with
  | nil => rfl
  | cons h t ih =>
    simp only [releaseList]
    rw [ih]
    simp
@[simp] theorem releaseList_sel (p : Nat) (l : List HeldCqe) (s : State) : (releaseList p l s).sel = s.sel := by
  induction l generalizing s with
  | nil => rfl
  | cons h t ih =>
    simp only [releaseList]
    rw [ih]
    simp
@[simp] theorem releaseList_dma (p : Nat) (l : List HeldCqe) (s : State) : (releaseList p l s).dma = s.dma := by
  induction l generalizing s with
  | nil => rfl
  | cons h t ih =>
    simp only [releaseList]
    rw [ih]
    simp
@[simp] theorem releaseList_mbx (p : Nat) (l : List HeldCqe) (s : State) : (releaseList p l s).mbx = s.mbx := by
  induction l generalizing s with
  | nil => rfl
  | cons h t ih =>
    simp only [releaseList]
    rw [ih]
    simp
@[simp] theorem releaseList_mbxErr (p : Nat) (l : List HeldCqe) (s : State) : (releaseList p l s).mbxErr = s.mbxErr := by
  induction l generalizing s with
  | nil => rfl
  | cons h t ih =>
    simp only [releaseList]
    rw [ih]
    simp
@[simp] theorem releaseList_mpu (p : Nat) (l : List HeldCqe) (s : State) : (releaseList p l s).mpu = s.mpu := by
  induction l generalizing s with
  | nil => rfl
  | cons h t ih =>
    simp only [releaseList]
    rw [ih]
    simp
@[simp] theorem releaseList_caches (p : Nat) (l : List HeldCqe) (s : State) : (releaseList p l s).caches = s.caches := by
  induction l generalizing s with
  | nil => rfl
  | cons h t ih =>
    simp only [releaseList]
    rw [ih]
    simp
@[simp] theorem releaseList_units (p : Nat) (l : List HeldCqe) (s : State) : (releaseList p l s).units = s.units := by
  induction l generalizing s with
  | nil => rfl
  | cons h t ih =>
    simp only [releaseList]
    rw [ih]
    simp
@[simp] theorem releaseList_kst (p : Nat) (l : List HeldCqe) (s : State) : (releaseList p l s).kst = s.kst := by
  induction l generalizing s with
  | nil => rfl
  | cons h t ih =>
    simp only [releaseList]
    rw [ih]
    simp
@[simp] theorem releaseList_tmp (p : Nat) (l : List HeldCqe) (s : State) : (releaseList p l s).tmp = s.tmp := by
  induction l generalizing s with
  | nil => rfl
  | cons h t ih =>
    simp only [releaseList]
    rw [ih]
    simp
@[simp] theorem releaseList_bat (p : Nat) (l : List HeldCqe) (s : State) : (releaseList p l s).bat = s.bat := by
  induction l generalizing s with
  | nil => rfl
  | cons h t ih =>
    simp only [releaseList]
    rw [ih]
    simp
@[simp] theorem releaseList_lcs (p : Nat) (l : List HeldCqe) (s : State) : (releaseList p l s).lcs = s.lcs := by
  induction l generalizing s with
  | nil => rfl
  | cons h t ih =>
    simp only [releaseList]
    rw [ih]
    simp
@[simp] theorem releaseList_own (p : Nat) (l : List HeldCqe) (s : State) : (releaseList p l s).own = s.own := by
  induction l generalizing s with
  | nil => rfl
  | cons h t ih =>
    simp only [releaseList]
    rw [ih]
    simp
@[simp] theorem releaseList_par (p : Nat) (l : List HeldCqe) (s : State) : (releaseList p l s).par = s.par := by
  induction l generalizing s with
  | nil => rfl
  | cons h t ih =>
    simp only [releaseList]
    rw [ih]
    simp
@[simp] theorem releaseList_glb (p : Nat) (l : List HeldCqe) (s : State) : (releaseList p l s).glb = s.glb := by
  induction l generalizing s with
  | nil => rfl
  | cons h t ih =>
    simp only [releaseList]
    rw [ih]
    simp
@[simp] theorem releaseList_pwr (p : Nat) (l : List HeldCqe) (s : State) : (releaseList p l s).pwr = s.pwr := by
  induction l generalizing s with
  | nil => rfl
  | cons h t ih =>
    simp only [releaseList]
    rw [ih]
    simp
@[simp] theorem releaseList_bst (p : Nat) (l : List HeldCqe) (s : State) : (releaseList p l s).bst = s.bst := by
  induction l generalizing s with
  | nil => rfl
  | cons h t ih =>
    simp only [releaseList]
    rw [ih]
    simp
@[simp] theorem releaseList_tly (p : Nat) (l : List HeldCqe) (s : State) : (releaseList p l s).tly = s.tly := by
  induction l generalizing s with
  | nil => rfl
  | cons h t ih =>
    simp only [releaseList]
    rw [ih]
    simp
@[simp] theorem releaseList_evc (p : Nat) (l : List HeldCqe) (s : State) : (releaseList p l s).evc = s.evc := by
  induction l generalizing s with
  | nil => rfl
  | cons h t ih =>
    simp only [releaseList]
    rw [ih]
    simp
@[simp] theorem releaseCq_pending (p : Nat) (s : State) : (releaseCq p s).pending = s.pending := by
  simp only [releaseCq]
  repeat' split
  all_goals simp
@[simp] theorem releaseCq_clk (p : Nat) (s : State) : (releaseCq p s).clk = s.clk := by
  simp only [releaseCq]
  repeat' split
  all_goals simp
@[simp] theorem releaseCq_rng (p : Nat) (s : State) : (releaseCq p s).rng = s.rng := by
  simp only [releaseCq]
  repeat' split
  all_goals simp
@[simp] theorem releaseCq_csn (p : Nat) (s : State) : (releaseCq p s).csn = s.csn := by
  simp only [releaseCq]
  repeat' split
  all_goals simp
@[simp] theorem releaseCq_imem (p : Nat) (s : State) : (releaseCq p s).imem = s.imem := by
  simp only [releaseCq]
  repeat' split
  all_goals simp
@[simp] theorem releaseCq_rwi (p : Nat) (s : State) : (releaseCq p s).rwi = s.rwi := by
  simp only [releaseCq]
  repeat' split
  all_goals simp
@[simp] theorem releaseCq_cmc (p : Nat) (s : State) : (releaseCq p s).cmc = s.cmc := by
  simp only [releaseCq]
  repeat' split
  all_goals simp
@[simp] theorem releaseCq_sel (p : Nat) (s : State) : (releaseCq p s).sel = s.sel := by
  simp only [releaseCq]
  repeat' split
  all_goals simp
@[simp] theorem releaseCq_dma (p : Nat) (s : State) : (releaseCq p s).dma = s.dma := by
  simp only [releaseCq]
  repeat' split
  all_goals simp
@[simp] theorem releaseCq_mbx (p : Nat) (s : State) : (releaseCq p s).mbx = s.mbx := by
  simp only [releaseCq]
  repeat' split
  all_goals simp
@[simp] theorem releaseCq_mbxErr (p : Nat) (s : State) : (releaseCq p s).mbxErr = s.mbxErr := by
  simp only [releaseCq]
  repeat' split
  all_goals simp
@[simp] theorem releaseCq_mpu (p : Nat) (s : State) : (releaseCq p s).mpu = s.mpu := by
  simp only [releaseCq]
  repeat' split
  all_goals simp
@[simp] theorem releaseCq_caches (p : Nat) (s : State) : (releaseCq p s).caches = s.caches := by
  simp only [releaseCq]
  repeat' split
  all_goals simp
@[simp] theorem releaseCq_units (p : Nat) (s : State) : (releaseCq p s).units = s.units := by
  simp only [releaseCq]
  repeat' split
  all_goals simp
@[simp] theorem releaseCq_kst (p : Nat) (s : State) : (releaseCq p s).kst = s.kst := by
  simp only [releaseCq]
  repeat' split
  all_goals simp
@[simp] theorem releaseCq_tmp (p : Nat) (s : State) : (releaseCq p s).tmp = s.tmp := by
  simp only [releaseCq]
  repeat' split
  all_goals simp
@[simp] theorem releaseCq_bat (p : Nat) (s : State) : (releaseCq p s).bat = s.bat := by
  simp only [releaseCq]
  repeat' split
  all_goals simp
@[simp] theorem releaseCq_lcs (p : Nat) (s : State) : (releaseCq p s).lcs = s.lcs := by
  simp only [releaseCq]
  repeat' split
  all_goals simp
@[simp] theorem releaseCq_own (p : Nat) (s : State) : (releaseCq p s).own = s.own := by
  simp only [releaseCq]
  repeat' split
  all_goals simp
@[simp] theorem releaseCq_par (p : Nat) (s : State) : (releaseCq p s).par = s.par := by
  simp only [releaseCq]
  repeat' split
  all_goals simp
@[simp] theorem releaseCq_glb (p : Nat) (s : State) : (releaseCq p s).glb = s.glb := by
  simp only [releaseCq]
  repeat' split
  all_goals simp
@[simp] theorem releaseCq_pwr (p : Nat) (s : State) : (releaseCq p s).pwr = s.pwr := by
  simp only [releaseCq]
  repeat' split
  all_goals simp
@[simp] theorem releaseCq_bst (p : Nat) (s : State) : (releaseCq p s).bst = s.bst := by
  simp only [releaseCq]
  repeat' split
  all_goals simp
@[simp] theorem releaseCq_tly (p : Nat) (s : State) : (releaseCq p s).tly = s.tly := by
  simp only [releaseCq]
  repeat' split
  all_goals simp
@[simp] theorem releaseCq_evc (p : Nat) (s : State) : (releaseCq p s).evc = s.evc := by
  simp only [releaseCq]
  repeat' split
  all_goals simp
@[simp] theorem replayStatus_pending (p c : Nat) (st : BitVec 16) (s : State) : (replayStatus p c st s).pending = s.pending := by
  simp only [replayStatus]
  repeat' split
  all_goals simp
@[simp] theorem replayStatus_clk (p c : Nat) (st : BitVec 16) (s : State) : (replayStatus p c st s).clk = s.clk := by
  simp only [replayStatus]
  repeat' split
  all_goals simp
@[simp] theorem replayStatus_rng (p c : Nat) (st : BitVec 16) (s : State) : (replayStatus p c st s).rng = s.rng := by
  simp only [replayStatus]
  repeat' split
  all_goals simp
@[simp] theorem replayStatus_csn (p c : Nat) (st : BitVec 16) (s : State) : (replayStatus p c st s).csn = s.csn := by
  simp only [replayStatus]
  repeat' split
  all_goals simp
@[simp] theorem replayStatus_out (p c : Nat) (st : BitVec 16) (s : State) : (replayStatus p c st s).out = s.out := by
  simp only [replayStatus]
  repeat' split
  all_goals simp
@[simp] theorem replayStatus_imem (p c : Nat) (st : BitVec 16) (s : State) : (replayStatus p c st s).imem = s.imem := by
  simp only [replayStatus]
  repeat' split
  all_goals simp
@[simp] theorem replayStatus_rwi (p c : Nat) (st : BitVec 16) (s : State) : (replayStatus p c st s).rwi = s.rwi := by
  simp only [replayStatus]
  repeat' split
  all_goals simp
@[simp] theorem replayStatus_rqe (p c : Nat) (st : BitVec 16) (s : State) : (replayStatus p c st s).rqe = s.rqe := by
  simp only [replayStatus]
  repeat' split
  all_goals simp
@[simp] theorem replayStatus_sch (p c : Nat) (st : BitVec 16) (s : State) : (replayStatus p c st s).sch = s.sch := by
  simp only [replayStatus]
  repeat' split
  all_goals simp
@[simp] theorem replayStatus_cmc (p c : Nat) (st : BitVec 16) (s : State) : (replayStatus p c st s).cmc = s.cmc := by
  simp only [replayStatus]
  repeat' split
  all_goals simp
@[simp] theorem replayStatus_sel (p c : Nat) (st : BitVec 16) (s : State) : (replayStatus p c st s).sel = s.sel := by
  simp only [replayStatus]
  repeat' split
  all_goals simp
@[simp] theorem replayStatus_dma (p c : Nat) (st : BitVec 16) (s : State) : (replayStatus p c st s).dma = s.dma := by
  simp only [replayStatus]
  repeat' split
  all_goals simp
@[simp] theorem replayStatus_mbx (p c : Nat) (st : BitVec 16) (s : State) : (replayStatus p c st s).mbx = s.mbx := by
  simp only [replayStatus]
  repeat' split
  all_goals simp
@[simp] theorem replayStatus_mbxErr (p c : Nat) (st : BitVec 16) (s : State) : (replayStatus p c st s).mbxErr = s.mbxErr := by
  simp only [replayStatus]
  repeat' split
  all_goals simp
@[simp] theorem replayStatus_mpu (p c : Nat) (st : BitVec 16) (s : State) : (replayStatus p c st s).mpu = s.mpu := by
  simp only [replayStatus]
  repeat' split
  all_goals simp
@[simp] theorem replayStatus_caches (p c : Nat) (st : BitVec 16) (s : State) : (replayStatus p c st s).caches = s.caches := by
  simp only [replayStatus]
  repeat' split
  all_goals simp
@[simp] theorem replayStatus_units (p c : Nat) (st : BitVec 16) (s : State) : (replayStatus p c st s).units = s.units := by
  simp only [replayStatus]
  repeat' split
  all_goals simp
@[simp] theorem replayStatus_kst (p c : Nat) (st : BitVec 16) (s : State) : (replayStatus p c st s).kst = s.kst := by
  simp only [replayStatus]
  repeat' split
  all_goals simp
@[simp] theorem replayStatus_tmp (p c : Nat) (st : BitVec 16) (s : State) : (replayStatus p c st s).tmp = s.tmp := by
  simp only [replayStatus]
  repeat' split
  all_goals simp
@[simp] theorem replayStatus_bat (p c : Nat) (st : BitVec 16) (s : State) : (replayStatus p c st s).bat = s.bat := by
  simp only [replayStatus]
  repeat' split
  all_goals simp
@[simp] theorem replayStatus_lcs (p c : Nat) (st : BitVec 16) (s : State) : (replayStatus p c st s).lcs = s.lcs := by
  simp only [replayStatus]
  repeat' split
  all_goals simp
@[simp] theorem replayStatus_own (p c : Nat) (st : BitVec 16) (s : State) : (replayStatus p c st s).own = s.own := by
  simp only [replayStatus]
  repeat' split
  all_goals simp
@[simp] theorem replayStatus_glb (p c : Nat) (st : BitVec 16) (s : State) : (replayStatus p c st s).glb = s.glb := by
  simp only [replayStatus]
  repeat' split
  all_goals simp
@[simp] theorem replayStatus_pwr (p c : Nat) (st : BitVec 16) (s : State) : (replayStatus p c st s).pwr = s.pwr := by
  simp only [replayStatus]
  repeat' split
  all_goals simp
@[simp] theorem replayStatus_bst (p c : Nat) (st : BitVec 16) (s : State) : (replayStatus p c st s).bst = s.bst := by
  simp only [replayStatus]
  repeat' split
  all_goals simp
@[simp] theorem replayStatus_tly (p c : Nat) (st : BitVec 16) (s : State) : (replayStatus p c st s).tly = s.tly := by
  simp only [replayStatus]
  repeat' split
  all_goals simp
@[simp] theorem replayStatus_evc (p c : Nat) (st : BitVec 16) (s : State) : (replayStatus p c st s).evc = s.evc := by
  simp only [replayStatus]
  repeat' split
  all_goals simp
@[simp] theorem takeFrom_pending (q e : Nat) (s : State) : (takeFrom q e s).pending = s.pending := by
  simp only [takeFrom]
  repeat' split
  all_goals simp
@[simp] theorem takeFrom_clk (q e : Nat) (s : State) : (takeFrom q e s).clk = s.clk := by
  simp only [takeFrom]
  repeat' split
  all_goals simp
@[simp] theorem takeFrom_rng (q e : Nat) (s : State) : (takeFrom q e s).rng = s.rng := by
  simp only [takeFrom]
  repeat' split
  all_goals simp
@[simp] theorem takeFrom_csn (q e : Nat) (s : State) : (takeFrom q e s).csn = s.csn := by
  simp only [takeFrom]
  repeat' split
  all_goals simp
@[simp] theorem takeFrom_out (q e : Nat) (s : State) : (takeFrom q e s).out = s.out := by
  simp only [takeFrom]
  repeat' split
  all_goals simp
@[simp] theorem takeFrom_imem (q e : Nat) (s : State) : (takeFrom q e s).imem = s.imem := by
  simp only [takeFrom]
  repeat' split
  all_goals simp
@[simp] theorem takeFrom_rwi (q e : Nat) (s : State) : (takeFrom q e s).rwi = s.rwi := by
  simp only [takeFrom]
  repeat' split
  all_goals simp
@[simp] theorem takeFrom_pit (q e : Nat) (s : State) : (takeFrom q e s).pit = s.pit := by
  simp only [takeFrom]
  repeat' split
  all_goals simp
@[simp] theorem takeFrom_rqe (q e : Nat) (s : State) : (takeFrom q e s).rqe = s.rqe := by
  simp only [takeFrom]
  repeat' split
  all_goals simp
@[simp] theorem takeFrom_cmc (q e : Nat) (s : State) : (takeFrom q e s).cmc = s.cmc := by
  simp only [takeFrom]
  repeat' split
  all_goals simp
@[simp] theorem takeFrom_sel (q e : Nat) (s : State) : (takeFrom q e s).sel = s.sel := by
  simp only [takeFrom]
  repeat' split
  all_goals simp
@[simp] theorem takeFrom_dma (q e : Nat) (s : State) : (takeFrom q e s).dma = s.dma := by
  simp only [takeFrom]
  repeat' split
  all_goals simp
@[simp] theorem takeFrom_mbx (q e : Nat) (s : State) : (takeFrom q e s).mbx = s.mbx := by
  simp only [takeFrom]
  repeat' split
  all_goals simp
@[simp] theorem takeFrom_mbxErr (q e : Nat) (s : State) : (takeFrom q e s).mbxErr = s.mbxErr := by
  simp only [takeFrom]
  repeat' split
  all_goals simp
@[simp] theorem takeFrom_mpu (q e : Nat) (s : State) : (takeFrom q e s).mpu = s.mpu := by
  simp only [takeFrom]
  repeat' split
  all_goals simp
@[simp] theorem takeFrom_caches (q e : Nat) (s : State) : (takeFrom q e s).caches = s.caches := by
  simp only [takeFrom]
  repeat' split
  all_goals simp
@[simp] theorem takeFrom_units (q e : Nat) (s : State) : (takeFrom q e s).units = s.units := by
  simp only [takeFrom]
  repeat' split
  all_goals simp
@[simp] theorem takeFrom_kst (q e : Nat) (s : State) : (takeFrom q e s).kst = s.kst := by
  simp only [takeFrom]
  repeat' split
  all_goals simp
@[simp] theorem takeFrom_tmp (q e : Nat) (s : State) : (takeFrom q e s).tmp = s.tmp := by
  simp only [takeFrom]
  repeat' split
  all_goals simp
@[simp] theorem takeFrom_bat (q e : Nat) (s : State) : (takeFrom q e s).bat = s.bat := by
  simp only [takeFrom]
  repeat' split
  all_goals simp
@[simp] theorem takeFrom_lcs (q e : Nat) (s : State) : (takeFrom q e s).lcs = s.lcs := by
  simp only [takeFrom]
  repeat' split
  all_goals simp
@[simp] theorem takeFrom_own (q e : Nat) (s : State) : (takeFrom q e s).own = s.own := by
  simp only [takeFrom]
  repeat' split
  all_goals simp
@[simp] theorem takeFrom_par (q e : Nat) (s : State) : (takeFrom q e s).par = s.par := by
  simp only [takeFrom]
  repeat' split
  all_goals simp
@[simp] theorem takeFrom_glb (q e : Nat) (s : State) : (takeFrom q e s).glb = s.glb := by
  simp only [takeFrom]
  repeat' split
  all_goals simp
@[simp] theorem takeFrom_pwr (q e : Nat) (s : State) : (takeFrom q e s).pwr = s.pwr := by
  simp only [takeFrom]
  repeat' split
  all_goals simp
@[simp] theorem takeFrom_bst (q e : Nat) (s : State) : (takeFrom q e s).bst = s.bst := by
  simp only [takeFrom]
  repeat' split
  all_goals simp
@[simp] theorem takeFrom_tly (q e : Nat) (s : State) : (takeFrom q e s).tly = s.tly := by
  simp only [takeFrom]
  repeat' split
  all_goals simp
@[simp] theorem takeFrom_evc (q e : Nat) (s : State) : (takeFrom q e s).evc = s.evc := by
  simp only [takeFrom]
  repeat' split
  all_goals simp
@[simp] theorem grantCtx_pending (k e : Nat) (s : State) : (grantCtx k e s).pending = s.pending := by
  simp only [grantCtx]
  repeat' split
  all_goals simp
@[simp] theorem grantCtx_clk (k e : Nat) (s : State) : (grantCtx k e s).clk = s.clk := by
  simp only [grantCtx]
  repeat' split
  all_goals simp
@[simp] theorem grantCtx_rng (k e : Nat) (s : State) : (grantCtx k e s).rng = s.rng := by
  simp only [grantCtx]
  repeat' split
  all_goals simp
@[simp] theorem grantCtx_csn (k e : Nat) (s : State) : (grantCtx k e s).csn = s.csn := by
  simp only [grantCtx]
  repeat' split
  all_goals simp
@[simp] theorem grantCtx_out (k e : Nat) (s : State) : (grantCtx k e s).out = s.out := by
  simp only [grantCtx]
  repeat' split
  all_goals simp
@[simp] theorem grantCtx_imem (k e : Nat) (s : State) : (grantCtx k e s).imem = s.imem := by
  simp only [grantCtx]
  repeat' split
  all_goals simp
@[simp] theorem grantCtx_rwi (k e : Nat) (s : State) : (grantCtx k e s).rwi = s.rwi := by
  simp only [grantCtx]
  repeat' split
  all_goals simp
@[simp] theorem grantCtx_pit (k e : Nat) (s : State) : (grantCtx k e s).pit = s.pit := by
  simp only [grantCtx]
  repeat' split
  all_goals simp
@[simp] theorem grantCtx_rqe (k e : Nat) (s : State) : (grantCtx k e s).rqe = s.rqe := by
  simp only [grantCtx]
  repeat' split
  all_goals simp
@[simp] theorem grantCtx_sel (k e : Nat) (s : State) : (grantCtx k e s).sel = s.sel := by
  simp only [grantCtx]
  repeat' split
  all_goals simp
@[simp] theorem grantCtx_dma (k e : Nat) (s : State) : (grantCtx k e s).dma = s.dma := by
  simp only [grantCtx]
  repeat' split
  all_goals simp
@[simp] theorem grantCtx_mbx (k e : Nat) (s : State) : (grantCtx k e s).mbx = s.mbx := by
  simp only [grantCtx]
  repeat' split
  all_goals simp
@[simp] theorem grantCtx_mbxErr (k e : Nat) (s : State) : (grantCtx k e s).mbxErr = s.mbxErr := by
  simp only [grantCtx]
  repeat' split
  all_goals simp
@[simp] theorem grantCtx_mpu (k e : Nat) (s : State) : (grantCtx k e s).mpu = s.mpu := by
  simp only [grantCtx]
  repeat' split
  all_goals simp
@[simp] theorem grantCtx_caches (k e : Nat) (s : State) : (grantCtx k e s).caches = s.caches := by
  simp only [grantCtx]
  repeat' split
  all_goals simp
@[simp] theorem grantCtx_units (k e : Nat) (s : State) : (grantCtx k e s).units = s.units := by
  simp only [grantCtx]
  repeat' split
  all_goals simp
@[simp] theorem grantCtx_kst (k e : Nat) (s : State) : (grantCtx k e s).kst = s.kst := by
  simp only [grantCtx]
  repeat' split
  all_goals simp
@[simp] theorem grantCtx_tmp (k e : Nat) (s : State) : (grantCtx k e s).tmp = s.tmp := by
  simp only [grantCtx]
  repeat' split
  all_goals simp
@[simp] theorem grantCtx_bat (k e : Nat) (s : State) : (grantCtx k e s).bat = s.bat := by
  simp only [grantCtx]
  repeat' split
  all_goals simp
@[simp] theorem grantCtx_lcs (k e : Nat) (s : State) : (grantCtx k e s).lcs = s.lcs := by
  simp only [grantCtx]
  repeat' split
  all_goals simp
@[simp] theorem grantCtx_own (k e : Nat) (s : State) : (grantCtx k e s).own = s.own := by
  simp only [grantCtx]
  repeat' split
  all_goals simp
@[simp] theorem grantCtx_par (k e : Nat) (s : State) : (grantCtx k e s).par = s.par := by
  simp only [grantCtx]
  repeat' split
  all_goals simp
@[simp] theorem grantCtx_glb (k e : Nat) (s : State) : (grantCtx k e s).glb = s.glb := by
  simp only [grantCtx]
  repeat' split
  all_goals simp
@[simp] theorem grantCtx_pwr (k e : Nat) (s : State) : (grantCtx k e s).pwr = s.pwr := by
  simp only [grantCtx]
  repeat' split
  all_goals simp
@[simp] theorem grantCtx_bst (k e : Nat) (s : State) : (grantCtx k e s).bst = s.bst := by
  simp only [grantCtx]
  repeat' split
  all_goals simp
@[simp] theorem grantCtx_tly (k e : Nat) (s : State) : (grantCtx k e s).tly = s.tly := by
  simp only [grantCtx]
  repeat' split
  all_goals simp
@[simp] theorem grantCtx_evc (k e : Nat) (s : State) : (grantCtx k e s).evc = s.evc := by
  simp only [grantCtx]
  repeat' split
  all_goals simp
/-- The queue is all that a grant of R325 changes. -/
theorem takeFrom_only (q e : Nat) (s : State) : ∃ x, takeFrom q e s = { s with sch := x } := by
  simp only [takeFrom]
  split <;> exact ⟨_, rfl⟩

theorem nextFrom_only (q n : Nat) (s t : State) (e : Nat) (h : nextFrom q n s = some (e, t)) : ∃ x, t = { s with sch := x } := by
  induction n generalizing s with
  | zero => simp [nextFrom] at h
  | succ n ih =>
    simp only [nextFrom] at h
    cases ht : (s.queue q).turn with
    | nil => simp [ht] at h
    | cons p rest =>
      simp only [ht] at h
      cases hi : s.inQueue q p with
      | nil => simp [hi] at h
      | cons f l =>
        simp only [hi] at h
        by_cases hc : s.costOf f ≤ (s.queue q).deficit.get 0 p + if (s.queue q).inTurn then 0 else (s.pitch p).weight
        · rw [if_pos hc] at h
          simp only [Option.some.injEq, Prod.mk.injEq] at h
          obtain ⟨rfl, rfl⟩ := h
          exact takeFrom_only _ _ _
        · rw [if_neg hc] at h
          obtain ⟨x, hx⟩ := ih _ h
          exact ⟨x, hx⟩

theorem grantCtx_only (k e : Nat) (s : State) : ∃ x y, grantCtx k e s = { s with sch := x, cmc := y } := by
  simp only [grantCtx]
  split
  · exact ⟨s.sch, s.cmc, rfl⟩
  · exact ⟨_, _, rfl⟩

/-- Grants of recipe contexts change the queues, the entries and the contexts, and nothing else (R44, R139). -/
theorem grantContexts_only (n : Nat) (s : State) : ∃ x y, grantContexts n s = { s with sch := x, cmc := y } := by
  induction n generalizing s with
  | zero => exact ⟨s.sch, s.cmc, rfl⟩
  | succ n ih =>
    simp only [grantContexts]
    split
    · exact ⟨s.sch, s.cmc, rfl⟩
    · split
      · rename_i q k _ _
        split
        · rename_i e t h
          obtain ⟨x, hx⟩ := nextFrom_only _ _ _ _ _ h
          subst hx
          obtain ⟨y, z, hg⟩ := grantCtx_only k e { s with sch := x }
          obtain ⟨y', z', hi⟩ := ih (grantCtx k e { s with sch := x })
          exact ⟨y', z', by rw [hi, hg]⟩
        · exact ⟨s.sch, s.cmc, rfl⟩
      · exact ⟨s.sch, s.cmc, rfl⟩

@[simp] theorem grantContexts_pending (n : Nat) (s : State) : (grantContexts n s).pending = s.pending := by
  obtain ⟨x, y, h⟩ := grantContexts_only n s
  rw [h]
@[simp] theorem grantContexts_clk (n : Nat) (s : State) : (grantContexts n s).clk = s.clk := by
  obtain ⟨x, y, h⟩ := grantContexts_only n s
  rw [h]
@[simp] theorem grantContexts_rng (n : Nat) (s : State) : (grantContexts n s).rng = s.rng := by
  obtain ⟨x, y, h⟩ := grantContexts_only n s
  rw [h]
@[simp] theorem grantContexts_csn (n : Nat) (s : State) : (grantContexts n s).csn = s.csn := by
  obtain ⟨x, y, h⟩ := grantContexts_only n s
  rw [h]
@[simp] theorem grantContexts_out (n : Nat) (s : State) : (grantContexts n s).out = s.out := by
  obtain ⟨x, y, h⟩ := grantContexts_only n s
  rw [h]
@[simp] theorem grantContexts_imem (n : Nat) (s : State) : (grantContexts n s).imem = s.imem := by
  obtain ⟨x, y, h⟩ := grantContexts_only n s
  rw [h]
@[simp] theorem grantContexts_rwi (n : Nat) (s : State) : (grantContexts n s).rwi = s.rwi := by
  obtain ⟨x, y, h⟩ := grantContexts_only n s
  rw [h]
@[simp] theorem grantContexts_pit (n : Nat) (s : State) : (grantContexts n s).pit = s.pit := by
  obtain ⟨x, y, h⟩ := grantContexts_only n s
  rw [h]
@[simp] theorem grantContexts_rqe (n : Nat) (s : State) : (grantContexts n s).rqe = s.rqe := by
  obtain ⟨x, y, h⟩ := grantContexts_only n s
  rw [h]
@[simp] theorem grantContexts_sel (n : Nat) (s : State) : (grantContexts n s).sel = s.sel := by
  obtain ⟨x, y, h⟩ := grantContexts_only n s
  rw [h]
@[simp] theorem grantContexts_dma (n : Nat) (s : State) : (grantContexts n s).dma = s.dma := by
  obtain ⟨x, y, h⟩ := grantContexts_only n s
  rw [h]
@[simp] theorem grantContexts_mbx (n : Nat) (s : State) : (grantContexts n s).mbx = s.mbx := by
  obtain ⟨x, y, h⟩ := grantContexts_only n s
  rw [h]
@[simp] theorem grantContexts_mbxErr (n : Nat) (s : State) : (grantContexts n s).mbxErr = s.mbxErr := by
  obtain ⟨x, y, h⟩ := grantContexts_only n s
  rw [h]
@[simp] theorem grantContexts_mpu (n : Nat) (s : State) : (grantContexts n s).mpu = s.mpu := by
  obtain ⟨x, y, h⟩ := grantContexts_only n s
  rw [h]
@[simp] theorem grantContexts_caches (n : Nat) (s : State) : (grantContexts n s).caches = s.caches := by
  obtain ⟨x, y, h⟩ := grantContexts_only n s
  rw [h]
@[simp] theorem grantContexts_units (n : Nat) (s : State) : (grantContexts n s).units = s.units := by
  obtain ⟨x, y, h⟩ := grantContexts_only n s
  rw [h]
@[simp] theorem grantContexts_kst (n : Nat) (s : State) : (grantContexts n s).kst = s.kst := by
  obtain ⟨x, y, h⟩ := grantContexts_only n s
  rw [h]
@[simp] theorem grantContexts_tmp (n : Nat) (s : State) : (grantContexts n s).tmp = s.tmp := by
  obtain ⟨x, y, h⟩ := grantContexts_only n s
  rw [h]
@[simp] theorem grantContexts_bat (n : Nat) (s : State) : (grantContexts n s).bat = s.bat := by
  obtain ⟨x, y, h⟩ := grantContexts_only n s
  rw [h]
@[simp] theorem grantContexts_lcs (n : Nat) (s : State) : (grantContexts n s).lcs = s.lcs := by
  obtain ⟨x, y, h⟩ := grantContexts_only n s
  rw [h]
@[simp] theorem grantContexts_own (n : Nat) (s : State) : (grantContexts n s).own = s.own := by
  obtain ⟨x, y, h⟩ := grantContexts_only n s
  rw [h]
@[simp] theorem grantContexts_par (n : Nat) (s : State) : (grantContexts n s).par = s.par := by
  obtain ⟨x, y, h⟩ := grantContexts_only n s
  rw [h]
@[simp] theorem grantContexts_glb (n : Nat) (s : State) : (grantContexts n s).glb = s.glb := by
  obtain ⟨x, y, h⟩ := grantContexts_only n s
  rw [h]
@[simp] theorem grantContexts_pwr (n : Nat) (s : State) : (grantContexts n s).pwr = s.pwr := by
  obtain ⟨x, y, h⟩ := grantContexts_only n s
  rw [h]
@[simp] theorem grantContexts_bst (n : Nat) (s : State) : (grantContexts n s).bst = s.bst := by
  obtain ⟨x, y, h⟩ := grantContexts_only n s
  rw [h]
@[simp] theorem grantContexts_tly (n : Nat) (s : State) : (grantContexts n s).tly = s.tly := by
  obtain ⟨x, y, h⟩ := grantContexts_only n s
  rw [h]
@[simp] theorem grantContexts_evc (n : Nat) (s : State) : (grantContexts n s).evc = s.evc := by
  obtain ⟨x, y, h⟩ := grantContexts_only n s
  rw [h]
@[simp] theorem serveContexts_pending (s : State) : (serveContexts s).pending = s.pending := by
  simp only [serveContexts]
  repeat' split
  all_goals simp
@[simp] theorem serveContexts_clk (s : State) : (serveContexts s).clk = s.clk := by
  simp only [serveContexts]
  repeat' split
  all_goals simp
@[simp] theorem serveContexts_rng (s : State) : (serveContexts s).rng = s.rng := by
  simp only [serveContexts]
  repeat' split
  all_goals simp
@[simp] theorem serveContexts_csn (s : State) : (serveContexts s).csn = s.csn := by
  simp only [serveContexts]
  repeat' split
  all_goals simp
@[simp] theorem serveContexts_out (s : State) : (serveContexts s).out = s.out := by
  simp only [serveContexts]
  repeat' split
  all_goals simp
@[simp] theorem serveContexts_imem (s : State) : (serveContexts s).imem = s.imem := by
  simp only [serveContexts]
  repeat' split
  all_goals simp
@[simp] theorem serveContexts_rwi (s : State) : (serveContexts s).rwi = s.rwi := by
  simp only [serveContexts]
  repeat' split
  all_goals simp
@[simp] theorem serveContexts_pit (s : State) : (serveContexts s).pit = s.pit := by
  simp only [serveContexts]
  repeat' split
  all_goals simp
@[simp] theorem serveContexts_rqe (s : State) : (serveContexts s).rqe = s.rqe := by
  simp only [serveContexts]
  repeat' split
  all_goals simp
@[simp] theorem serveContexts_sel (s : State) : (serveContexts s).sel = s.sel := by
  simp only [serveContexts]
  repeat' split
  all_goals simp
@[simp] theorem serveContexts_dma (s : State) : (serveContexts s).dma = s.dma := by
  simp only [serveContexts]
  repeat' split
  all_goals simp
@[simp] theorem serveContexts_mbx (s : State) : (serveContexts s).mbx = s.mbx := by
  simp only [serveContexts]
  repeat' split
  all_goals simp
@[simp] theorem serveContexts_mbxErr (s : State) : (serveContexts s).mbxErr = s.mbxErr := by
  simp only [serveContexts]
  repeat' split
  all_goals simp
@[simp] theorem serveContexts_mpu (s : State) : (serveContexts s).mpu = s.mpu := by
  simp only [serveContexts]
  repeat' split
  all_goals simp
@[simp] theorem serveContexts_caches (s : State) : (serveContexts s).caches = s.caches := by
  simp only [serveContexts]
  repeat' split
  all_goals simp
@[simp] theorem serveContexts_units (s : State) : (serveContexts s).units = s.units := by
  simp only [serveContexts]
  repeat' split
  all_goals simp
@[simp] theorem serveContexts_kst (s : State) : (serveContexts s).kst = s.kst := by
  simp only [serveContexts]
  repeat' split
  all_goals simp
@[simp] theorem serveContexts_tmp (s : State) : (serveContexts s).tmp = s.tmp := by
  simp only [serveContexts]
  repeat' split
  all_goals simp
@[simp] theorem serveContexts_bat (s : State) : (serveContexts s).bat = s.bat := by
  simp only [serveContexts]
  repeat' split
  all_goals simp
@[simp] theorem serveContexts_lcs (s : State) : (serveContexts s).lcs = s.lcs := by
  simp only [serveContexts]
  repeat' split
  all_goals simp
@[simp] theorem serveContexts_own (s : State) : (serveContexts s).own = s.own := by
  simp only [serveContexts]
  repeat' split
  all_goals simp
@[simp] theorem serveContexts_par (s : State) : (serveContexts s).par = s.par := by
  simp only [serveContexts]
  repeat' split
  all_goals simp
@[simp] theorem serveContexts_glb (s : State) : (serveContexts s).glb = s.glb := by
  simp only [serveContexts]
  repeat' split
  all_goals simp
@[simp] theorem serveContexts_pwr (s : State) : (serveContexts s).pwr = s.pwr := by
  simp only [serveContexts]
  repeat' split
  all_goals simp
@[simp] theorem serveContexts_bst (s : State) : (serveContexts s).bst = s.bst := by
  simp only [serveContexts]
  repeat' split
  all_goals simp
@[simp] theorem serveContexts_tly (s : State) : (serveContexts s).tly = s.tly := by
  simp only [serveContexts]
  repeat' split
  all_goals simp
@[simp] theorem serveContexts_evc (s : State) : (serveContexts s).evc = s.evc := by
  simp only [serveContexts]
  repeat' split
  all_goals simp
@[simp] theorem joinQueue_pending (q e p : Nat) (s : State) : (joinQueue q e p s).pending = s.pending := by
  simp only [joinQueue]
  repeat' split
  all_goals simp
@[simp] theorem joinQueue_clk (q e p : Nat) (s : State) : (joinQueue q e p s).clk = s.clk := by
  simp only [joinQueue]
  repeat' split
  all_goals simp
@[simp] theorem joinQueue_rng (q e p : Nat) (s : State) : (joinQueue q e p s).rng = s.rng := by
  simp only [joinQueue]
  repeat' split
  all_goals simp
@[simp] theorem joinQueue_csn (q e p : Nat) (s : State) : (joinQueue q e p s).csn = s.csn := by
  simp only [joinQueue]
  repeat' split
  all_goals simp
@[simp] theorem joinQueue_out (q e p : Nat) (s : State) : (joinQueue q e p s).out = s.out := by
  simp only [joinQueue]
  repeat' split
  all_goals simp
@[simp] theorem joinQueue_imem (q e p : Nat) (s : State) : (joinQueue q e p s).imem = s.imem := by
  simp only [joinQueue]
  repeat' split
  all_goals simp
@[simp] theorem joinQueue_rwi (q e p : Nat) (s : State) : (joinQueue q e p s).rwi = s.rwi := by
  simp only [joinQueue]
  repeat' split
  all_goals simp
@[simp] theorem joinQueue_pit (q e p : Nat) (s : State) : (joinQueue q e p s).pit = s.pit := by
  simp only [joinQueue]
  repeat' split
  all_goals simp
@[simp] theorem joinQueue_rqe (q e p : Nat) (s : State) : (joinQueue q e p s).rqe = s.rqe := by
  simp only [joinQueue]
  repeat' split
  all_goals simp
@[simp] theorem joinQueue_cmc (q e p : Nat) (s : State) : (joinQueue q e p s).cmc = s.cmc := by
  simp only [joinQueue]
  repeat' split
  all_goals simp
@[simp] theorem joinQueue_sel (q e p : Nat) (s : State) : (joinQueue q e p s).sel = s.sel := by
  simp only [joinQueue]
  repeat' split
  all_goals simp
@[simp] theorem joinQueue_dma (q e p : Nat) (s : State) : (joinQueue q e p s).dma = s.dma := by
  simp only [joinQueue]
  repeat' split
  all_goals simp
@[simp] theorem joinQueue_mbx (q e p : Nat) (s : State) : (joinQueue q e p s).mbx = s.mbx := by
  simp only [joinQueue]
  repeat' split
  all_goals simp
@[simp] theorem joinQueue_mbxErr (q e p : Nat) (s : State) : (joinQueue q e p s).mbxErr = s.mbxErr := by
  simp only [joinQueue]
  repeat' split
  all_goals simp
@[simp] theorem joinQueue_mpu (q e p : Nat) (s : State) : (joinQueue q e p s).mpu = s.mpu := by
  simp only [joinQueue]
  repeat' split
  all_goals simp
@[simp] theorem joinQueue_caches (q e p : Nat) (s : State) : (joinQueue q e p s).caches = s.caches := by
  simp only [joinQueue]
  repeat' split
  all_goals simp
@[simp] theorem joinQueue_units (q e p : Nat) (s : State) : (joinQueue q e p s).units = s.units := by
  simp only [joinQueue]
  repeat' split
  all_goals simp
@[simp] theorem joinQueue_kst (q e p : Nat) (s : State) : (joinQueue q e p s).kst = s.kst := by
  simp only [joinQueue]
  repeat' split
  all_goals simp
@[simp] theorem joinQueue_tmp (q e p : Nat) (s : State) : (joinQueue q e p s).tmp = s.tmp := by
  simp only [joinQueue]
  repeat' split
  all_goals simp
@[simp] theorem joinQueue_bat (q e p : Nat) (s : State) : (joinQueue q e p s).bat = s.bat := by
  simp only [joinQueue]
  repeat' split
  all_goals simp
@[simp] theorem joinQueue_lcs (q e p : Nat) (s : State) : (joinQueue q e p s).lcs = s.lcs := by
  simp only [joinQueue]
  repeat' split
  all_goals simp
@[simp] theorem joinQueue_own (q e p : Nat) (s : State) : (joinQueue q e p s).own = s.own := by
  simp only [joinQueue]
  repeat' split
  all_goals simp
@[simp] theorem joinQueue_par (q e p : Nat) (s : State) : (joinQueue q e p s).par = s.par := by
  simp only [joinQueue]
  repeat' split
  all_goals simp
@[simp] theorem joinQueue_glb (q e p : Nat) (s : State) : (joinQueue q e p s).glb = s.glb := by
  simp only [joinQueue]
  repeat' split
  all_goals simp
@[simp] theorem joinQueue_pwr (q e p : Nat) (s : State) : (joinQueue q e p s).pwr = s.pwr := by
  simp only [joinQueue]
  repeat' split
  all_goals simp
@[simp] theorem joinQueue_bst (q e p : Nat) (s : State) : (joinQueue q e p s).bst = s.bst := by
  simp only [joinQueue]
  repeat' split
  all_goals simp
@[simp] theorem joinQueue_tly (q e p : Nat) (s : State) : (joinQueue q e p s).tly = s.tly := by
  simp only [joinQueue]
  repeat' split
  all_goals simp
@[simp] theorem joinQueue_evc (q e p : Nat) (s : State) : (joinQueue q e p s).evc = s.evc := by
  simp only [joinQueue]
  repeat' split
  all_goals simp
@[simp] theorem routeRecipe_pending (e : Nat) (s : State) : (routeRecipe e s).pending = s.pending := by
  simp only [routeRecipe]
  repeat' split
  all_goals simp
@[simp] theorem routeRecipe_clk (e : Nat) (s : State) : (routeRecipe e s).clk = s.clk := by
  simp only [routeRecipe]
  repeat' split
  all_goals simp
@[simp] theorem routeRecipe_rng (e : Nat) (s : State) : (routeRecipe e s).rng = s.rng := by
  simp only [routeRecipe]
  repeat' split
  all_goals simp
@[simp] theorem routeRecipe_csn (e : Nat) (s : State) : (routeRecipe e s).csn = s.csn := by
  simp only [routeRecipe]
  repeat' split
  all_goals simp
@[simp] theorem routeRecipe_out (e : Nat) (s : State) : (routeRecipe e s).out = s.out := by
  simp only [routeRecipe]
  repeat' split
  all_goals simp
@[simp] theorem routeRecipe_imem (e : Nat) (s : State) : (routeRecipe e s).imem = s.imem := by
  simp only [routeRecipe]
  repeat' split
  all_goals simp
@[simp] theorem routeRecipe_rwi (e : Nat) (s : State) : (routeRecipe e s).rwi = s.rwi := by
  simp only [routeRecipe]
  repeat' split
  all_goals simp
@[simp] theorem routeRecipe_pit (e : Nat) (s : State) : (routeRecipe e s).pit = s.pit := by
  simp only [routeRecipe]
  repeat' split
  all_goals simp
@[simp] theorem routeRecipe_rqe (e : Nat) (s : State) : (routeRecipe e s).rqe = s.rqe := by
  simp only [routeRecipe]
  repeat' split
  all_goals simp
@[simp] theorem routeRecipe_sel (e : Nat) (s : State) : (routeRecipe e s).sel = s.sel := by
  simp only [routeRecipe]
  repeat' split
  all_goals simp
@[simp] theorem routeRecipe_dma (e : Nat) (s : State) : (routeRecipe e s).dma = s.dma := by
  simp only [routeRecipe]
  repeat' split
  all_goals simp
@[simp] theorem routeRecipe_mbx (e : Nat) (s : State) : (routeRecipe e s).mbx = s.mbx := by
  simp only [routeRecipe]
  repeat' split
  all_goals simp
@[simp] theorem routeRecipe_mbxErr (e : Nat) (s : State) : (routeRecipe e s).mbxErr = s.mbxErr := by
  simp only [routeRecipe]
  repeat' split
  all_goals simp
@[simp] theorem routeRecipe_mpu (e : Nat) (s : State) : (routeRecipe e s).mpu = s.mpu := by
  simp only [routeRecipe]
  repeat' split
  all_goals simp
@[simp] theorem routeRecipe_caches (e : Nat) (s : State) : (routeRecipe e s).caches = s.caches := by
  simp only [routeRecipe]
  repeat' split
  all_goals simp
@[simp] theorem routeRecipe_units (e : Nat) (s : State) : (routeRecipe e s).units = s.units := by
  simp only [routeRecipe]
  repeat' split
  all_goals simp
@[simp] theorem routeRecipe_kst (e : Nat) (s : State) : (routeRecipe e s).kst = s.kst := by
  simp only [routeRecipe]
  repeat' split
  all_goals simp
@[simp] theorem routeRecipe_tmp (e : Nat) (s : State) : (routeRecipe e s).tmp = s.tmp := by
  simp only [routeRecipe]
  repeat' split
  all_goals simp
@[simp] theorem routeRecipe_bat (e : Nat) (s : State) : (routeRecipe e s).bat = s.bat := by
  simp only [routeRecipe]
  repeat' split
  all_goals simp
@[simp] theorem routeRecipe_lcs (e : Nat) (s : State) : (routeRecipe e s).lcs = s.lcs := by
  simp only [routeRecipe]
  repeat' split
  all_goals simp
@[simp] theorem routeRecipe_own (e : Nat) (s : State) : (routeRecipe e s).own = s.own := by
  simp only [routeRecipe]
  repeat' split
  all_goals simp
@[simp] theorem routeRecipe_par (e : Nat) (s : State) : (routeRecipe e s).par = s.par := by
  simp only [routeRecipe]
  repeat' split
  all_goals simp
@[simp] theorem routeRecipe_glb (e : Nat) (s : State) : (routeRecipe e s).glb = s.glb := by
  simp only [routeRecipe]
  repeat' split
  all_goals simp
@[simp] theorem routeRecipe_pwr (e : Nat) (s : State) : (routeRecipe e s).pwr = s.pwr := by
  simp only [routeRecipe]
  repeat' split
  all_goals simp
@[simp] theorem routeRecipe_bst (e : Nat) (s : State) : (routeRecipe e s).bst = s.bst := by
  simp only [routeRecipe]
  repeat' split
  all_goals simp
@[simp] theorem routeRecipe_tly (e : Nat) (s : State) : (routeRecipe e s).tly = s.tly := by
  simp only [routeRecipe]
  repeat' split
  all_goals simp
@[simp] theorem routeRecipe_evc (e : Nat) (s : State) : (routeRecipe e s).evc = s.evc := by
  simp only [routeRecipe]
  repeat' split
  all_goals simp
@[simp] theorem releaseCtx_pending (k : Option Nat) (s : State) : (releaseCtx k s).pending = s.pending := by
  simp only [releaseCtx]
  repeat' split
  all_goals simp
@[simp] theorem releaseCtx_clk (k : Option Nat) (s : State) : (releaseCtx k s).clk = s.clk := by
  simp only [releaseCtx]
  repeat' split
  all_goals simp
@[simp] theorem releaseCtx_rng (k : Option Nat) (s : State) : (releaseCtx k s).rng = s.rng := by
  simp only [releaseCtx]
  repeat' split
  all_goals simp
@[simp] theorem releaseCtx_csn (k : Option Nat) (s : State) : (releaseCtx k s).csn = s.csn := by
  simp only [releaseCtx]
  repeat' split
  all_goals simp
@[simp] theorem releaseCtx_out (k : Option Nat) (s : State) : (releaseCtx k s).out = s.out := by
  simp only [releaseCtx]
  repeat' split
  all_goals simp
@[simp] theorem releaseCtx_imem (k : Option Nat) (s : State) : (releaseCtx k s).imem = s.imem := by
  simp only [releaseCtx]
  repeat' split
  all_goals simp
@[simp] theorem releaseCtx_rwi (k : Option Nat) (s : State) : (releaseCtx k s).rwi = s.rwi := by
  simp only [releaseCtx]
  repeat' split
  all_goals simp
@[simp] theorem releaseCtx_pit (k : Option Nat) (s : State) : (releaseCtx k s).pit = s.pit := by
  simp only [releaseCtx]
  repeat' split
  all_goals simp
@[simp] theorem releaseCtx_rqe (k : Option Nat) (s : State) : (releaseCtx k s).rqe = s.rqe := by
  simp only [releaseCtx]
  repeat' split
  all_goals simp
@[simp] theorem releaseCtx_sch (k : Option Nat) (s : State) : (releaseCtx k s).sch = s.sch := by
  simp only [releaseCtx]
  repeat' split
  all_goals simp
@[simp] theorem releaseCtx_sel (k : Option Nat) (s : State) : (releaseCtx k s).sel = s.sel := by
  simp only [releaseCtx]
  repeat' split
  all_goals simp
@[simp] theorem releaseCtx_dma (k : Option Nat) (s : State) : (releaseCtx k s).dma = s.dma := by
  simp only [releaseCtx]
  repeat' split
  all_goals simp
@[simp] theorem releaseCtx_mbx (k : Option Nat) (s : State) : (releaseCtx k s).mbx = s.mbx := by
  simp only [releaseCtx]
  repeat' split
  all_goals simp
@[simp] theorem releaseCtx_mbxErr (k : Option Nat) (s : State) : (releaseCtx k s).mbxErr = s.mbxErr := by
  simp only [releaseCtx]
  repeat' split
  all_goals simp
@[simp] theorem releaseCtx_mpu (k : Option Nat) (s : State) : (releaseCtx k s).mpu = s.mpu := by
  simp only [releaseCtx]
  repeat' split
  all_goals simp
@[simp] theorem releaseCtx_caches (k : Option Nat) (s : State) : (releaseCtx k s).caches = s.caches := by
  simp only [releaseCtx]
  repeat' split
  all_goals simp
@[simp] theorem releaseCtx_units (k : Option Nat) (s : State) : (releaseCtx k s).units = s.units := by
  simp only [releaseCtx]
  repeat' split
  all_goals simp
@[simp] theorem releaseCtx_kst (k : Option Nat) (s : State) : (releaseCtx k s).kst = s.kst := by
  simp only [releaseCtx]
  repeat' split
  all_goals simp
@[simp] theorem releaseCtx_tmp (k : Option Nat) (s : State) : (releaseCtx k s).tmp = s.tmp := by
  simp only [releaseCtx]
  repeat' split
  all_goals simp
@[simp] theorem releaseCtx_bat (k : Option Nat) (s : State) : (releaseCtx k s).bat = s.bat := by
  simp only [releaseCtx]
  repeat' split
  all_goals simp
@[simp] theorem releaseCtx_lcs (k : Option Nat) (s : State) : (releaseCtx k s).lcs = s.lcs := by
  simp only [releaseCtx]
  repeat' split
  all_goals simp
@[simp] theorem releaseCtx_own (k : Option Nat) (s : State) : (releaseCtx k s).own = s.own := by
  simp only [releaseCtx]
  repeat' split
  all_goals simp
@[simp] theorem releaseCtx_par (k : Option Nat) (s : State) : (releaseCtx k s).par = s.par := by
  simp only [releaseCtx]
  repeat' split
  all_goals simp
@[simp] theorem releaseCtx_glb (k : Option Nat) (s : State) : (releaseCtx k s).glb = s.glb := by
  simp only [releaseCtx]
  repeat' split
  all_goals simp
@[simp] theorem releaseCtx_pwr (k : Option Nat) (s : State) : (releaseCtx k s).pwr = s.pwr := by
  simp only [releaseCtx]
  repeat' split
  all_goals simp
@[simp] theorem releaseCtx_bst (k : Option Nat) (s : State) : (releaseCtx k s).bst = s.bst := by
  simp only [releaseCtx]
  repeat' split
  all_goals simp
@[simp] theorem releaseCtx_tly (k : Option Nat) (s : State) : (releaseCtx k s).tly = s.tly := by
  simp only [releaseCtx]
  repeat' split
  all_goals simp
@[simp] theorem releaseCtx_evc (k : Option Nat) (s : State) : (releaseCtx k s).evc = s.evc := by
  simp only [releaseCtx]
  repeat' split
  all_goals simp
@[simp] theorem leaveEngine_pending (e : Nat) (x : Entry) (s : State) : (leaveEngine e x s).pending = s.pending := by
  simp only [leaveEngine]
  repeat' split
  all_goals simp
@[simp] theorem leaveEngine_clk (e : Nat) (x : Entry) (s : State) : (leaveEngine e x s).clk = s.clk := by
  simp only [leaveEngine]
  repeat' split
  all_goals simp
@[simp] theorem leaveEngine_rng (e : Nat) (x : Entry) (s : State) : (leaveEngine e x s).rng = s.rng := by
  simp only [leaveEngine]
  repeat' split
  all_goals simp
@[simp] theorem leaveEngine_csn (e : Nat) (x : Entry) (s : State) : (leaveEngine e x s).csn = s.csn := by
  simp only [leaveEngine]
  repeat' split
  all_goals simp
@[simp] theorem leaveEngine_out (e : Nat) (x : Entry) (s : State) : (leaveEngine e x s).out = s.out := by
  simp only [leaveEngine]
  repeat' split
  all_goals simp
@[simp] theorem leaveEngine_imem (e : Nat) (x : Entry) (s : State) : (leaveEngine e x s).imem = s.imem := by
  simp only [leaveEngine]
  repeat' split
  all_goals simp
@[simp] theorem leaveEngine_rwi (e : Nat) (x : Entry) (s : State) : (leaveEngine e x s).rwi = s.rwi := by
  simp only [leaveEngine]
  repeat' split
  all_goals simp
@[simp] theorem leaveEngine_pit (e : Nat) (x : Entry) (s : State) : (leaveEngine e x s).pit = s.pit := by
  simp only [leaveEngine]
  repeat' split
  all_goals simp
@[simp] theorem leaveEngine_rqe (e : Nat) (x : Entry) (s : State) : (leaveEngine e x s).rqe = s.rqe := by
  simp only [leaveEngine]
  repeat' split
  all_goals simp
@[simp] theorem leaveEngine_sel (e : Nat) (x : Entry) (s : State) : (leaveEngine e x s).sel = s.sel := by
  simp only [leaveEngine]
  repeat' split
  all_goals simp
@[simp] theorem leaveEngine_dma (e : Nat) (x : Entry) (s : State) : (leaveEngine e x s).dma = s.dma := by
  simp only [leaveEngine]
  repeat' split
  all_goals simp
@[simp] theorem leaveEngine_mbx (e : Nat) (x : Entry) (s : State) : (leaveEngine e x s).mbx = s.mbx := by
  simp only [leaveEngine]
  repeat' split
  all_goals simp
@[simp] theorem leaveEngine_mbxErr (e : Nat) (x : Entry) (s : State) : (leaveEngine e x s).mbxErr = s.mbxErr := by
  simp only [leaveEngine]
  repeat' split
  all_goals simp
@[simp] theorem leaveEngine_mpu (e : Nat) (x : Entry) (s : State) : (leaveEngine e x s).mpu = s.mpu := by
  simp only [leaveEngine]
  repeat' split
  all_goals simp
@[simp] theorem leaveEngine_kst (e : Nat) (x : Entry) (s : State) : (leaveEngine e x s).kst = s.kst := by
  simp only [leaveEngine]
  repeat' split
  all_goals simp
@[simp] theorem leaveEngine_tmp (e : Nat) (x : Entry) (s : State) : (leaveEngine e x s).tmp = s.tmp := by
  simp only [leaveEngine]
  repeat' split
  all_goals simp
@[simp] theorem leaveEngine_bat (e : Nat) (x : Entry) (s : State) : (leaveEngine e x s).bat = s.bat := by
  simp only [leaveEngine]
  repeat' split
  all_goals simp
@[simp] theorem leaveEngine_lcs (e : Nat) (x : Entry) (s : State) : (leaveEngine e x s).lcs = s.lcs := by
  simp only [leaveEngine]
  repeat' split
  all_goals simp
@[simp] theorem leaveEngine_own (e : Nat) (x : Entry) (s : State) : (leaveEngine e x s).own = s.own := by
  simp only [leaveEngine]
  repeat' split
  all_goals simp
@[simp] theorem leaveEngine_par (e : Nat) (x : Entry) (s : State) : (leaveEngine e x s).par = s.par := by
  simp only [leaveEngine]
  repeat' split
  all_goals simp
@[simp] theorem leaveEngine_glb (e : Nat) (x : Entry) (s : State) : (leaveEngine e x s).glb = s.glb := by
  simp only [leaveEngine]
  repeat' split
  all_goals simp
@[simp] theorem leaveEngine_pwr (e : Nat) (x : Entry) (s : State) : (leaveEngine e x s).pwr = s.pwr := by
  simp only [leaveEngine]
  repeat' split
  all_goals simp
@[simp] theorem leaveEngine_bst (e : Nat) (x : Entry) (s : State) : (leaveEngine e x s).bst = s.bst := by
  simp only [leaveEngine]
  repeat' split
  all_goals simp
@[simp] theorem leaveEngine_tly (e : Nat) (x : Entry) (s : State) : (leaveEngine e x s).tly = s.tly := by
  simp only [leaveEngine]
  repeat' split
  all_goals simp
@[simp] theorem leaveEngine_evc (e : Nat) (x : Entry) (s : State) : (leaveEngine e x s).evc = s.evc := by
  simp only [leaveEngine]
  repeat' split
  all_goals simp
@[simp] theorem raiseHigh_pending (p : Nat) (h : HighMark) (s : State) : (raiseHigh p h s).pending = s.pending := by
  simp only [raiseHigh]
  repeat' split
  all_goals simp
@[simp] theorem raiseHigh_clk (p : Nat) (h : HighMark) (s : State) : (raiseHigh p h s).clk = s.clk := by
  simp only [raiseHigh]
  repeat' split
  all_goals simp
@[simp] theorem raiseHigh_rng (p : Nat) (h : HighMark) (s : State) : (raiseHigh p h s).rng = s.rng := by
  simp only [raiseHigh]
  repeat' split
  all_goals simp
@[simp] theorem raiseHigh_csn (p : Nat) (h : HighMark) (s : State) : (raiseHigh p h s).csn = s.csn := by
  simp only [raiseHigh]
  repeat' split
  all_goals simp
@[simp] theorem raiseHigh_out (p : Nat) (h : HighMark) (s : State) : (raiseHigh p h s).out = s.out := by
  simp only [raiseHigh]
  repeat' split
  all_goals simp
@[simp] theorem raiseHigh_imem (p : Nat) (h : HighMark) (s : State) : (raiseHigh p h s).imem = s.imem := by
  simp only [raiseHigh]
  repeat' split
  all_goals simp
@[simp] theorem raiseHigh_rwi (p : Nat) (h : HighMark) (s : State) : (raiseHigh p h s).rwi = s.rwi := by
  simp only [raiseHigh]
  repeat' split
  all_goals simp
@[simp] theorem raiseHigh_pit (p : Nat) (h : HighMark) (s : State) : (raiseHigh p h s).pit = s.pit := by
  simp only [raiseHigh]
  repeat' split
  all_goals simp
@[simp] theorem raiseHigh_rqe (p : Nat) (h : HighMark) (s : State) : (raiseHigh p h s).rqe = s.rqe := by
  simp only [raiseHigh]
  repeat' split
  all_goals simp
@[simp] theorem raiseHigh_sch (p : Nat) (h : HighMark) (s : State) : (raiseHigh p h s).sch = s.sch := by
  simp only [raiseHigh]
  repeat' split
  all_goals simp
@[simp] theorem raiseHigh_cmc (p : Nat) (h : HighMark) (s : State) : (raiseHigh p h s).cmc = s.cmc := by
  simp only [raiseHigh]
  repeat' split
  all_goals simp
@[simp] theorem raiseHigh_sel (p : Nat) (h : HighMark) (s : State) : (raiseHigh p h s).sel = s.sel := by
  simp only [raiseHigh]
  repeat' split
  all_goals simp
@[simp] theorem raiseHigh_dma (p : Nat) (h : HighMark) (s : State) : (raiseHigh p h s).dma = s.dma := by
  simp only [raiseHigh]
  repeat' split
  all_goals simp
@[simp] theorem raiseHigh_mbx (p : Nat) (h : HighMark) (s : State) : (raiseHigh p h s).mbx = s.mbx := by
  simp only [raiseHigh]
  repeat' split
  all_goals simp
@[simp] theorem raiseHigh_mbxErr (p : Nat) (h : HighMark) (s : State) : (raiseHigh p h s).mbxErr = s.mbxErr := by
  simp only [raiseHigh]
  repeat' split
  all_goals simp
@[simp] theorem raiseHigh_mpu (p : Nat) (h : HighMark) (s : State) : (raiseHigh p h s).mpu = s.mpu := by
  simp only [raiseHigh]
  repeat' split
  all_goals simp
@[simp] theorem raiseHigh_units (p : Nat) (h : HighMark) (s : State) : (raiseHigh p h s).units = s.units := by
  simp only [raiseHigh]
  repeat' split
  all_goals simp
@[simp] theorem raiseHigh_kst (p : Nat) (h : HighMark) (s : State) : (raiseHigh p h s).kst = s.kst := by
  simp only [raiseHigh]
  repeat' split
  all_goals simp
@[simp] theorem raiseHigh_tmp (p : Nat) (h : HighMark) (s : State) : (raiseHigh p h s).tmp = s.tmp := by
  simp only [raiseHigh]
  repeat' split
  all_goals simp
@[simp] theorem raiseHigh_bat (p : Nat) (h : HighMark) (s : State) : (raiseHigh p h s).bat = s.bat := by
  simp only [raiseHigh]
  repeat' split
  all_goals simp
@[simp] theorem raiseHigh_lcs (p : Nat) (h : HighMark) (s : State) : (raiseHigh p h s).lcs = s.lcs := by
  simp only [raiseHigh]
  repeat' split
  all_goals simp
@[simp] theorem raiseHigh_own (p : Nat) (h : HighMark) (s : State) : (raiseHigh p h s).own = s.own := by
  simp only [raiseHigh]
  repeat' split
  all_goals simp
@[simp] theorem raiseHigh_par (p : Nat) (h : HighMark) (s : State) : (raiseHigh p h s).par = s.par := by
  simp only [raiseHigh]
  repeat' split
  all_goals simp
@[simp] theorem raiseHigh_glb (p : Nat) (h : HighMark) (s : State) : (raiseHigh p h s).glb = s.glb := by
  simp only [raiseHigh]
  repeat' split
  all_goals simp
@[simp] theorem raiseHigh_pwr (p : Nat) (h : HighMark) (s : State) : (raiseHigh p h s).pwr = s.pwr := by
  simp only [raiseHigh]
  repeat' split
  all_goals simp
@[simp] theorem raiseHigh_bst (p : Nat) (h : HighMark) (s : State) : (raiseHigh p h s).bst = s.bst := by
  simp only [raiseHigh]
  repeat' split
  all_goals simp
@[simp] theorem raiseHigh_tly (p : Nat) (h : HighMark) (s : State) : (raiseHigh p h s).tly = s.tly := by
  simp only [raiseHigh]
  repeat' split
  all_goals simp
@[simp] theorem raiseHigh_evc (p : Nat) (h : HighMark) (s : State) : (raiseHigh p h s).evc = s.evc := by
  simp only [raiseHigh]
  repeat' split
  all_goals simp
@[simp] theorem raiseMark_pending (p : Nat) (st : BitVec 16) (h : Option HighMark) (s : State) : (raiseMark p st h s).pending = s.pending := by
  simp only [raiseMark]
  repeat' split
  all_goals simp
@[simp] theorem raiseMark_clk (p : Nat) (st : BitVec 16) (h : Option HighMark) (s : State) : (raiseMark p st h s).clk = s.clk := by
  simp only [raiseMark]
  repeat' split
  all_goals simp
@[simp] theorem raiseMark_rng (p : Nat) (st : BitVec 16) (h : Option HighMark) (s : State) : (raiseMark p st h s).rng = s.rng := by
  simp only [raiseMark]
  repeat' split
  all_goals simp
@[simp] theorem raiseMark_csn (p : Nat) (st : BitVec 16) (h : Option HighMark) (s : State) : (raiseMark p st h s).csn = s.csn := by
  simp only [raiseMark]
  repeat' split
  all_goals simp
@[simp] theorem raiseMark_out (p : Nat) (st : BitVec 16) (h : Option HighMark) (s : State) : (raiseMark p st h s).out = s.out := by
  simp only [raiseMark]
  repeat' split
  all_goals simp
@[simp] theorem raiseMark_imem (p : Nat) (st : BitVec 16) (h : Option HighMark) (s : State) : (raiseMark p st h s).imem = s.imem := by
  simp only [raiseMark]
  repeat' split
  all_goals simp
@[simp] theorem raiseMark_rwi (p : Nat) (st : BitVec 16) (h : Option HighMark) (s : State) : (raiseMark p st h s).rwi = s.rwi := by
  simp only [raiseMark]
  repeat' split
  all_goals simp
@[simp] theorem raiseMark_pit (p : Nat) (st : BitVec 16) (h : Option HighMark) (s : State) : (raiseMark p st h s).pit = s.pit := by
  simp only [raiseMark]
  repeat' split
  all_goals simp
@[simp] theorem raiseMark_rqe (p : Nat) (st : BitVec 16) (h : Option HighMark) (s : State) : (raiseMark p st h s).rqe = s.rqe := by
  simp only [raiseMark]
  repeat' split
  all_goals simp
@[simp] theorem raiseMark_sch (p : Nat) (st : BitVec 16) (h : Option HighMark) (s : State) : (raiseMark p st h s).sch = s.sch := by
  simp only [raiseMark]
  repeat' split
  all_goals simp
@[simp] theorem raiseMark_cmc (p : Nat) (st : BitVec 16) (h : Option HighMark) (s : State) : (raiseMark p st h s).cmc = s.cmc := by
  simp only [raiseMark]
  repeat' split
  all_goals simp
@[simp] theorem raiseMark_sel (p : Nat) (st : BitVec 16) (h : Option HighMark) (s : State) : (raiseMark p st h s).sel = s.sel := by
  simp only [raiseMark]
  repeat' split
  all_goals simp
@[simp] theorem raiseMark_dma (p : Nat) (st : BitVec 16) (h : Option HighMark) (s : State) : (raiseMark p st h s).dma = s.dma := by
  simp only [raiseMark]
  repeat' split
  all_goals simp
@[simp] theorem raiseMark_mbx (p : Nat) (st : BitVec 16) (h : Option HighMark) (s : State) : (raiseMark p st h s).mbx = s.mbx := by
  simp only [raiseMark]
  repeat' split
  all_goals simp
@[simp] theorem raiseMark_mbxErr (p : Nat) (st : BitVec 16) (h : Option HighMark) (s : State) : (raiseMark p st h s).mbxErr = s.mbxErr := by
  simp only [raiseMark]
  repeat' split
  all_goals simp
@[simp] theorem raiseMark_mpu (p : Nat) (st : BitVec 16) (h : Option HighMark) (s : State) : (raiseMark p st h s).mpu = s.mpu := by
  simp only [raiseMark]
  repeat' split
  all_goals simp
@[simp] theorem raiseMark_units (p : Nat) (st : BitVec 16) (h : Option HighMark) (s : State) : (raiseMark p st h s).units = s.units := by
  simp only [raiseMark]
  repeat' split
  all_goals simp
@[simp] theorem raiseMark_kst (p : Nat) (st : BitVec 16) (h : Option HighMark) (s : State) : (raiseMark p st h s).kst = s.kst := by
  simp only [raiseMark]
  repeat' split
  all_goals simp
@[simp] theorem raiseMark_tmp (p : Nat) (st : BitVec 16) (h : Option HighMark) (s : State) : (raiseMark p st h s).tmp = s.tmp := by
  simp only [raiseMark]
  repeat' split
  all_goals simp
@[simp] theorem raiseMark_bat (p : Nat) (st : BitVec 16) (h : Option HighMark) (s : State) : (raiseMark p st h s).bat = s.bat := by
  simp only [raiseMark]
  repeat' split
  all_goals simp
@[simp] theorem raiseMark_lcs (p : Nat) (st : BitVec 16) (h : Option HighMark) (s : State) : (raiseMark p st h s).lcs = s.lcs := by
  simp only [raiseMark]
  repeat' split
  all_goals simp
@[simp] theorem raiseMark_own (p : Nat) (st : BitVec 16) (h : Option HighMark) (s : State) : (raiseMark p st h s).own = s.own := by
  simp only [raiseMark]
  repeat' split
  all_goals simp
@[simp] theorem raiseMark_par (p : Nat) (st : BitVec 16) (h : Option HighMark) (s : State) : (raiseMark p st h s).par = s.par := by
  simp only [raiseMark]
  repeat' split
  all_goals simp
@[simp] theorem raiseMark_glb (p : Nat) (st : BitVec 16) (h : Option HighMark) (s : State) : (raiseMark p st h s).glb = s.glb := by
  simp only [raiseMark]
  repeat' split
  all_goals simp
@[simp] theorem raiseMark_pwr (p : Nat) (st : BitVec 16) (h : Option HighMark) (s : State) : (raiseMark p st h s).pwr = s.pwr := by
  simp only [raiseMark]
  repeat' split
  all_goals simp
@[simp] theorem raiseMark_bst (p : Nat) (st : BitVec 16) (h : Option HighMark) (s : State) : (raiseMark p st h s).bst = s.bst := by
  simp only [raiseMark]
  repeat' split
  all_goals simp
@[simp] theorem raiseMark_tly (p : Nat) (st : BitVec 16) (h : Option HighMark) (s : State) : (raiseMark p st h s).tly = s.tly := by
  simp only [raiseMark]
  repeat' split
  all_goals simp
@[simp] theorem raiseMark_evc (p : Nat) (st : BitVec 16) (h : Option HighMark) (s : State) : (raiseMark p st h s).evc = s.evc := by
  simp only [raiseMark]
  repeat' split
  all_goals simp
@[simp] theorem finish_pending (e : Nat) (d : Done) (s : State) : (finish e d s).pending = s.pending := by
  simp only [finish]
  repeat' split
  all_goals simp
@[simp] theorem finish_clk (e : Nat) (d : Done) (s : State) : (finish e d s).clk = s.clk := by
  simp only [finish]
  repeat' split
  all_goals simp
@[simp] theorem finish_rng (e : Nat) (d : Done) (s : State) : (finish e d s).rng = s.rng := by
  simp only [finish]
  repeat' split
  all_goals simp
@[simp] theorem finish_csn (e : Nat) (d : Done) (s : State) : (finish e d s).csn = s.csn := by
  simp only [finish]
  repeat' split
  all_goals simp
@[simp] theorem finish_imem (e : Nat) (d : Done) (s : State) : (finish e d s).imem = s.imem := by
  simp only [finish]
  repeat' split
  all_goals simp
@[simp] theorem finish_rwi (e : Nat) (d : Done) (s : State) : (finish e d s).rwi = s.rwi := by
  simp only [finish]
  repeat' split
  all_goals simp
@[simp] theorem finish_sel (e : Nat) (d : Done) (s : State) : (finish e d s).sel = s.sel := by
  simp only [finish]
  repeat' split
  all_goals simp
@[simp] theorem finish_dma (e : Nat) (d : Done) (s : State) : (finish e d s).dma = s.dma := by
  simp only [finish]
  repeat' split
  all_goals simp
@[simp] theorem finish_mbx (e : Nat) (d : Done) (s : State) : (finish e d s).mbx = s.mbx := by
  simp only [finish]
  repeat' split
  all_goals simp
@[simp] theorem finish_mbxErr (e : Nat) (d : Done) (s : State) : (finish e d s).mbxErr = s.mbxErr := by
  simp only [finish]
  repeat' split
  all_goals simp
@[simp] theorem finish_mpu (e : Nat) (d : Done) (s : State) : (finish e d s).mpu = s.mpu := by
  simp only [finish]
  repeat' split
  all_goals simp
@[simp] theorem finish_kst (e : Nat) (d : Done) (s : State) : (finish e d s).kst = s.kst := by
  simp only [finish]
  repeat' split
  all_goals simp
@[simp] theorem finish_tmp (e : Nat) (d : Done) (s : State) : (finish e d s).tmp = s.tmp := by
  simp only [finish]
  repeat' split
  all_goals simp
@[simp] theorem finish_bat (e : Nat) (d : Done) (s : State) : (finish e d s).bat = s.bat := by
  simp only [finish]
  repeat' split
  all_goals simp
@[simp] theorem finish_lcs (e : Nat) (d : Done) (s : State) : (finish e d s).lcs = s.lcs := by
  simp only [finish]
  repeat' split
  all_goals simp
@[simp] theorem finish_own (e : Nat) (d : Done) (s : State) : (finish e d s).own = s.own := by
  simp only [finish]
  repeat' split
  all_goals simp
@[simp] theorem finish_glb (e : Nat) (d : Done) (s : State) : (finish e d s).glb = s.glb := by
  simp only [finish]
  repeat' split
  all_goals simp
@[simp] theorem finish_pwr (e : Nat) (d : Done) (s : State) : (finish e d s).pwr = s.pwr := by
  simp only [finish]
  repeat' split
  all_goals simp
@[simp] theorem finish_bst (e : Nat) (d : Done) (s : State) : (finish e d s).bst = s.bst := by
  simp only [finish]
  repeat' split
  all_goals simp
@[simp] theorem finish_tly (e : Nat) (d : Done) (s : State) : (finish e d s).tly = s.tly := by
  simp only [finish]
  repeat' split
  all_goals simp
@[simp] theorem finish_evc (e : Nat) (d : Done) (s : State) : (finish e d s).evc = s.evc := by
  simp only [finish]
  repeat' split
  all_goals simp
@[simp] theorem replayInsert_pending (p : Nat) (r : ReplayEntry) (s : State) : (replayInsert p r s).pending = s.pending := by
  simp only [replayInsert]
  repeat' split
  all_goals simp
@[simp] theorem replayInsert_clk (p : Nat) (r : ReplayEntry) (s : State) : (replayInsert p r s).clk = s.clk := by
  simp only [replayInsert]
  repeat' split
  all_goals simp
@[simp] theorem replayInsert_rng (p : Nat) (r : ReplayEntry) (s : State) : (replayInsert p r s).rng = s.rng := by
  simp only [replayInsert]
  repeat' split
  all_goals simp
@[simp] theorem replayInsert_csn (p : Nat) (r : ReplayEntry) (s : State) : (replayInsert p r s).csn = s.csn := by
  simp only [replayInsert]
  repeat' split
  all_goals simp
@[simp] theorem replayInsert_out (p : Nat) (r : ReplayEntry) (s : State) : (replayInsert p r s).out = s.out := by
  simp only [replayInsert]
  repeat' split
  all_goals simp
@[simp] theorem replayInsert_imem (p : Nat) (r : ReplayEntry) (s : State) : (replayInsert p r s).imem = s.imem := by
  simp only [replayInsert]
  repeat' split
  all_goals simp
@[simp] theorem replayInsert_rwi (p : Nat) (r : ReplayEntry) (s : State) : (replayInsert p r s).rwi = s.rwi := by
  simp only [replayInsert]
  repeat' split
  all_goals simp
@[simp] theorem replayInsert_rqe (p : Nat) (r : ReplayEntry) (s : State) : (replayInsert p r s).rqe = s.rqe := by
  simp only [replayInsert]
  repeat' split
  all_goals simp
@[simp] theorem replayInsert_sch (p : Nat) (r : ReplayEntry) (s : State) : (replayInsert p r s).sch = s.sch := by
  simp only [replayInsert]
  repeat' split
  all_goals simp
@[simp] theorem replayInsert_cmc (p : Nat) (r : ReplayEntry) (s : State) : (replayInsert p r s).cmc = s.cmc := by
  simp only [replayInsert]
  repeat' split
  all_goals simp
@[simp] theorem replayInsert_sel (p : Nat) (r : ReplayEntry) (s : State) : (replayInsert p r s).sel = s.sel := by
  simp only [replayInsert]
  repeat' split
  all_goals simp
@[simp] theorem replayInsert_dma (p : Nat) (r : ReplayEntry) (s : State) : (replayInsert p r s).dma = s.dma := by
  simp only [replayInsert]
  repeat' split
  all_goals simp
@[simp] theorem replayInsert_mbx (p : Nat) (r : ReplayEntry) (s : State) : (replayInsert p r s).mbx = s.mbx := by
  simp only [replayInsert]
  repeat' split
  all_goals simp
@[simp] theorem replayInsert_mbxErr (p : Nat) (r : ReplayEntry) (s : State) : (replayInsert p r s).mbxErr = s.mbxErr := by
  simp only [replayInsert]
  repeat' split
  all_goals simp
@[simp] theorem replayInsert_mpu (p : Nat) (r : ReplayEntry) (s : State) : (replayInsert p r s).mpu = s.mpu := by
  simp only [replayInsert]
  repeat' split
  all_goals simp
@[simp] theorem replayInsert_caches (p : Nat) (r : ReplayEntry) (s : State) : (replayInsert p r s).caches = s.caches := by
  simp only [replayInsert]
  repeat' split
  all_goals simp
@[simp] theorem replayInsert_units (p : Nat) (r : ReplayEntry) (s : State) : (replayInsert p r s).units = s.units := by
  simp only [replayInsert]
  repeat' split
  all_goals simp
@[simp] theorem replayInsert_kst (p : Nat) (r : ReplayEntry) (s : State) : (replayInsert p r s).kst = s.kst := by
  simp only [replayInsert]
  repeat' split
  all_goals simp
@[simp] theorem replayInsert_tmp (p : Nat) (r : ReplayEntry) (s : State) : (replayInsert p r s).tmp = s.tmp := by
  simp only [replayInsert]
  repeat' split
  all_goals simp
@[simp] theorem replayInsert_bat (p : Nat) (r : ReplayEntry) (s : State) : (replayInsert p r s).bat = s.bat := by
  simp only [replayInsert]
  repeat' split
  all_goals simp
@[simp] theorem replayInsert_lcs (p : Nat) (r : ReplayEntry) (s : State) : (replayInsert p r s).lcs = s.lcs := by
  simp only [replayInsert]
  repeat' split
  all_goals simp
@[simp] theorem replayInsert_own (p : Nat) (r : ReplayEntry) (s : State) : (replayInsert p r s).own = s.own := by
  simp only [replayInsert]
  repeat' split
  all_goals simp
@[simp] theorem replayInsert_glb (p : Nat) (r : ReplayEntry) (s : State) : (replayInsert p r s).glb = s.glb := by
  simp only [replayInsert]
  repeat' split
  all_goals simp
@[simp] theorem replayInsert_pwr (p : Nat) (r : ReplayEntry) (s : State) : (replayInsert p r s).pwr = s.pwr := by
  simp only [replayInsert]
  repeat' split
  all_goals simp
@[simp] theorem replayInsert_bst (p : Nat) (r : ReplayEntry) (s : State) : (replayInsert p r s).bst = s.bst := by
  simp only [replayInsert]
  repeat' split
  all_goals simp
@[simp] theorem replayInsert_tly (p : Nat) (r : ReplayEntry) (s : State) : (replayInsert p r s).tly = s.tly := by
  simp only [replayInsert]
  repeat' split
  all_goals simp
@[simp] theorem replayInsert_evc (p : Nat) (r : ReplayEntry) (s : State) : (replayInsert p r s).evc = s.evc := by
  simp only [replayInsert]
  repeat' split
  all_goals simp
@[simp] theorem commitEntry_pending (e : Nat) (s : State) : (commitEntry e s).pending = s.pending := by
  simp only [commitEntry]
  repeat' split
  all_goals simp
@[simp] theorem commitEntry_clk (e : Nat) (s : State) : (commitEntry e s).clk = s.clk := by
  simp only [commitEntry]
  repeat' split
  all_goals simp
@[simp] theorem commitEntry_rng (e : Nat) (s : State) : (commitEntry e s).rng = s.rng := by
  simp only [commitEntry]
  repeat' split
  all_goals simp
@[simp] theorem commitEntry_out (e : Nat) (s : State) : (commitEntry e s).out = s.out := by
  simp only [commitEntry]
  repeat' split
  all_goals simp
@[simp] theorem commitEntry_imem (e : Nat) (s : State) : (commitEntry e s).imem = s.imem := by
  simp only [commitEntry]
  repeat' split
  all_goals simp
@[simp] theorem commitEntry_rwi (e : Nat) (s : State) : (commitEntry e s).rwi = s.rwi := by
  simp only [commitEntry]
  repeat' split
  all_goals simp
@[simp] theorem commitEntry_rqe (e : Nat) (s : State) : (commitEntry e s).rqe = s.rqe := by
  simp only [commitEntry]
  repeat' split
  all_goals simp
@[simp] theorem commitEntry_cmc (e : Nat) (s : State) : (commitEntry e s).cmc = s.cmc := by
  simp only [commitEntry]
  repeat' split
  all_goals simp
@[simp] theorem commitEntry_sel (e : Nat) (s : State) : (commitEntry e s).sel = s.sel := by
  simp only [commitEntry]
  repeat' split
  all_goals simp
@[simp] theorem commitEntry_dma (e : Nat) (s : State) : (commitEntry e s).dma = s.dma := by
  simp only [commitEntry]
  repeat' split
  all_goals simp
@[simp] theorem commitEntry_mbx (e : Nat) (s : State) : (commitEntry e s).mbx = s.mbx := by
  simp only [commitEntry]
  repeat' split
  all_goals simp
@[simp] theorem commitEntry_mbxErr (e : Nat) (s : State) : (commitEntry e s).mbxErr = s.mbxErr := by
  simp only [commitEntry]
  repeat' split
  all_goals simp
@[simp] theorem commitEntry_mpu (e : Nat) (s : State) : (commitEntry e s).mpu = s.mpu := by
  simp only [commitEntry]
  repeat' split
  all_goals simp
@[simp] theorem commitEntry_caches (e : Nat) (s : State) : (commitEntry e s).caches = s.caches := by
  simp only [commitEntry]
  repeat' split
  all_goals simp
@[simp] theorem commitEntry_units (e : Nat) (s : State) : (commitEntry e s).units = s.units := by
  simp only [commitEntry]
  repeat' split
  all_goals simp
@[simp] theorem commitEntry_kst (e : Nat) (s : State) : (commitEntry e s).kst = s.kst := by
  simp only [commitEntry]
  repeat' split
  all_goals simp
@[simp] theorem commitEntry_tmp (e : Nat) (s : State) : (commitEntry e s).tmp = s.tmp := by
  simp only [commitEntry]
  repeat' split
  all_goals simp
@[simp] theorem commitEntry_bat (e : Nat) (s : State) : (commitEntry e s).bat = s.bat := by
  simp only [commitEntry]
  repeat' split
  all_goals simp
@[simp] theorem commitEntry_lcs (e : Nat) (s : State) : (commitEntry e s).lcs = s.lcs := by
  simp only [commitEntry]
  repeat' split
  all_goals simp
@[simp] theorem commitEntry_own (e : Nat) (s : State) : (commitEntry e s).own = s.own := by
  simp only [commitEntry]
  repeat' split
  all_goals simp
@[simp] theorem commitEntry_glb (e : Nat) (s : State) : (commitEntry e s).glb = s.glb := by
  simp only [commitEntry]
  repeat' split
  all_goals simp
@[simp] theorem commitEntry_pwr (e : Nat) (s : State) : (commitEntry e s).pwr = s.pwr := by
  simp only [commitEntry]
  repeat' split
  all_goals simp
@[simp] theorem commitEntry_bst (e : Nat) (s : State) : (commitEntry e s).bst = s.bst := by
  simp only [commitEntry]
  repeat' split
  all_goals simp
@[simp] theorem commitEntry_tly (e : Nat) (s : State) : (commitEntry e s).tly = s.tly := by
  simp only [commitEntry]
  repeat' split
  all_goals simp
@[simp] theorem commitEntry_evc (e : Nat) (s : State) : (commitEntry e s).evc = s.evc := by
  simp only [commitEntry]
  repeat' split
  all_goals simp
@[simp] theorem holdStart_pending (n : Nat) (s : State) : (holdStart n s).pending = s.pending := by
  simp only [holdStart]
  repeat' split
  all_goals simp
@[simp] theorem holdStart_clk (n : Nat) (s : State) : (holdStart n s).clk = s.clk := by
  simp only [holdStart]
  repeat' split
  all_goals simp
@[simp] theorem holdStart_rng (n : Nat) (s : State) : (holdStart n s).rng = s.rng := by
  simp only [holdStart]
  repeat' split
  all_goals simp
@[simp] theorem holdStart_csn (n : Nat) (s : State) : (holdStart n s).csn = s.csn := by
  simp only [holdStart]
  repeat' split
  all_goals simp
@[simp] theorem holdStart_out (n : Nat) (s : State) : (holdStart n s).out = s.out := by
  simp only [holdStart]
  repeat' split
  all_goals simp
@[simp] theorem holdStart_imem (n : Nat) (s : State) : (holdStart n s).imem = s.imem := by
  simp only [holdStart]
  repeat' split
  all_goals simp
@[simp] theorem holdStart_rwi (n : Nat) (s : State) : (holdStart n s).rwi = s.rwi := by
  simp only [holdStart]
  repeat' split
  all_goals simp
@[simp] theorem holdStart_pit (n : Nat) (s : State) : (holdStart n s).pit = s.pit := by
  simp only [holdStart]
  repeat' split
  all_goals simp
@[simp] theorem holdStart_rqe (n : Nat) (s : State) : (holdStart n s).rqe = s.rqe := by
  simp only [holdStart]
  repeat' split
  all_goals simp
@[simp] theorem holdStart_sch (n : Nat) (s : State) : (holdStart n s).sch = s.sch := by
  simp only [holdStart]
  repeat' split
  all_goals simp
@[simp] theorem holdStart_cmc (n : Nat) (s : State) : (holdStart n s).cmc = s.cmc := by
  simp only [holdStart]
  repeat' split
  all_goals simp
@[simp] theorem holdStart_sel (n : Nat) (s : State) : (holdStart n s).sel = s.sel := by
  simp only [holdStart]
  repeat' split
  all_goals simp
@[simp] theorem holdStart_dma (n : Nat) (s : State) : (holdStart n s).dma = s.dma := by
  simp only [holdStart]
  repeat' split
  all_goals simp
@[simp] theorem holdStart_mbx (n : Nat) (s : State) : (holdStart n s).mbx = s.mbx := by
  simp only [holdStart]
  repeat' split
  all_goals simp
@[simp] theorem holdStart_mbxErr (n : Nat) (s : State) : (holdStart n s).mbxErr = s.mbxErr := by
  simp only [holdStart]
  repeat' split
  all_goals simp
@[simp] theorem holdStart_mpu (n : Nat) (s : State) : (holdStart n s).mpu = s.mpu := by
  simp only [holdStart]
  repeat' split
  all_goals simp
@[simp] theorem holdStart_caches (n : Nat) (s : State) : (holdStart n s).caches = s.caches := by
  simp only [holdStart]
  repeat' split
  all_goals simp
@[simp] theorem holdStart_units (n : Nat) (s : State) : (holdStart n s).units = s.units := by
  simp only [holdStart]
  repeat' split
  all_goals simp
@[simp] theorem holdStart_kst (n : Nat) (s : State) : (holdStart n s).kst = s.kst := by
  simp only [holdStart]
  repeat' split
  all_goals simp
@[simp] theorem holdStart_bat (n : Nat) (s : State) : (holdStart n s).bat = s.bat := by
  simp only [holdStart]
  repeat' split
  all_goals simp
@[simp] theorem holdStart_lcs (n : Nat) (s : State) : (holdStart n s).lcs = s.lcs := by
  simp only [holdStart]
  repeat' split
  all_goals simp
@[simp] theorem holdStart_own (n : Nat) (s : State) : (holdStart n s).own = s.own := by
  simp only [holdStart]
  repeat' split
  all_goals simp
@[simp] theorem holdStart_par (n : Nat) (s : State) : (holdStart n s).par = s.par := by
  simp only [holdStart]
  repeat' split
  all_goals simp
@[simp] theorem holdStart_glb (n : Nat) (s : State) : (holdStart n s).glb = s.glb := by
  simp only [holdStart]
  repeat' split
  all_goals simp
@[simp] theorem holdStart_pwr (n : Nat) (s : State) : (holdStart n s).pwr = s.pwr := by
  simp only [holdStart]
  repeat' split
  all_goals simp
@[simp] theorem holdStart_bst (n : Nat) (s : State) : (holdStart n s).bst = s.bst := by
  simp only [holdStart]
  repeat' split
  all_goals simp
@[simp] theorem holdStart_tly (n : Nat) (s : State) : (holdStart n s).tly = s.tly := by
  simp only [holdStart]
  repeat' split
  all_goals simp
@[simp] theorem holdStart_evc (n : Nat) (s : State) : (holdStart n s).evc = s.evc := by
  simp only [holdStart]
  repeat' split
  all_goals simp
@[simp] theorem windowJoin_pending (n c : Nat) (s : State) : (windowJoin n c s).pending = s.pending := by
  simp only [windowJoin]
  repeat' split
  all_goals simp
@[simp] theorem windowJoin_clk (n c : Nat) (s : State) : (windowJoin n c s).clk = s.clk := by
  simp only [windowJoin]
  repeat' split
  all_goals simp
@[simp] theorem windowJoin_rng (n c : Nat) (s : State) : (windowJoin n c s).rng = s.rng := by
  simp only [windowJoin]
  repeat' split
  all_goals simp
@[simp] theorem windowJoin_csn (n c : Nat) (s : State) : (windowJoin n c s).csn = s.csn := by
  simp only [windowJoin]
  repeat' split
  all_goals simp
@[simp] theorem windowJoin_out (n c : Nat) (s : State) : (windowJoin n c s).out = s.out := by
  simp only [windowJoin]
  repeat' split
  all_goals simp
@[simp] theorem windowJoin_imem (n c : Nat) (s : State) : (windowJoin n c s).imem = s.imem := by
  simp only [windowJoin]
  repeat' split
  all_goals simp
@[simp] theorem windowJoin_rwi (n c : Nat) (s : State) : (windowJoin n c s).rwi = s.rwi := by
  simp only [windowJoin]
  repeat' split
  all_goals simp
@[simp] theorem windowJoin_pit (n c : Nat) (s : State) : (windowJoin n c s).pit = s.pit := by
  simp only [windowJoin]
  repeat' split
  all_goals simp
@[simp] theorem windowJoin_rqe (n c : Nat) (s : State) : (windowJoin n c s).rqe = s.rqe := by
  simp only [windowJoin]
  repeat' split
  all_goals simp
@[simp] theorem windowJoin_sch (n c : Nat) (s : State) : (windowJoin n c s).sch = s.sch := by
  simp only [windowJoin]
  repeat' split
  all_goals simp
@[simp] theorem windowJoin_cmc (n c : Nat) (s : State) : (windowJoin n c s).cmc = s.cmc := by
  simp only [windowJoin]
  repeat' split
  all_goals simp
@[simp] theorem windowJoin_sel (n c : Nat) (s : State) : (windowJoin n c s).sel = s.sel := by
  simp only [windowJoin]
  repeat' split
  all_goals simp
@[simp] theorem windowJoin_dma (n c : Nat) (s : State) : (windowJoin n c s).dma = s.dma := by
  simp only [windowJoin]
  repeat' split
  all_goals simp
@[simp] theorem windowJoin_mbx (n c : Nat) (s : State) : (windowJoin n c s).mbx = s.mbx := by
  simp only [windowJoin]
  repeat' split
  all_goals simp
@[simp] theorem windowJoin_mbxErr (n c : Nat) (s : State) : (windowJoin n c s).mbxErr = s.mbxErr := by
  simp only [windowJoin]
  repeat' split
  all_goals simp
@[simp] theorem windowJoin_mpu (n c : Nat) (s : State) : (windowJoin n c s).mpu = s.mpu := by
  simp only [windowJoin]
  repeat' split
  all_goals simp
@[simp] theorem windowJoin_caches (n c : Nat) (s : State) : (windowJoin n c s).caches = s.caches := by
  simp only [windowJoin]
  repeat' split
  all_goals simp
@[simp] theorem windowJoin_units (n c : Nat) (s : State) : (windowJoin n c s).units = s.units := by
  simp only [windowJoin]
  repeat' split
  all_goals simp
@[simp] theorem windowJoin_bat (n c : Nat) (s : State) : (windowJoin n c s).bat = s.bat := by
  simp only [windowJoin]
  repeat' split
  all_goals simp
@[simp] theorem windowJoin_lcs (n c : Nat) (s : State) : (windowJoin n c s).lcs = s.lcs := by
  simp only [windowJoin]
  repeat' split
  all_goals simp
@[simp] theorem windowJoin_own (n c : Nat) (s : State) : (windowJoin n c s).own = s.own := by
  simp only [windowJoin]
  repeat' split
  all_goals simp
@[simp] theorem windowJoin_par (n c : Nat) (s : State) : (windowJoin n c s).par = s.par := by
  simp only [windowJoin]
  repeat' split
  all_goals simp
@[simp] theorem windowJoin_glb (n c : Nat) (s : State) : (windowJoin n c s).glb = s.glb := by
  simp only [windowJoin]
  repeat' split
  all_goals simp
@[simp] theorem windowJoin_pwr (n c : Nat) (s : State) : (windowJoin n c s).pwr = s.pwr := by
  simp only [windowJoin]
  repeat' split
  all_goals simp
@[simp] theorem windowJoin_bst (n c : Nat) (s : State) : (windowJoin n c s).bst = s.bst := by
  simp only [windowJoin]
  repeat' split
  all_goals simp
@[simp] theorem windowJoin_tly (n c : Nat) (s : State) : (windowJoin n c s).tly = s.tly := by
  simp only [windowJoin]
  repeat' split
  all_goals simp
@[simp] theorem windowJoin_evc (n c : Nat) (s : State) : (windowJoin n c s).evc = s.evc := by
  simp only [windowJoin]
  repeat' split
  all_goals simp
@[simp] theorem eraseRise_pending (src : BitVec 4) (s : State) : (eraseRise src s).pending = s.pending := by
  simp only [eraseRise]
  repeat' split
  all_goals simp
@[simp] theorem eraseRise_clk (src : BitVec 4) (s : State) : (eraseRise src s).clk = s.clk := by
  simp only [eraseRise]
  repeat' split
  all_goals simp
@[simp] theorem eraseRise_rng (src : BitVec 4) (s : State) : (eraseRise src s).rng = s.rng := by
  simp only [eraseRise]
  repeat' split
  all_goals simp
@[simp] theorem eraseRise_csn (src : BitVec 4) (s : State) : (eraseRise src s).csn = s.csn := by
  simp only [eraseRise]
  repeat' split
  all_goals simp
@[simp] theorem eraseRise_imem (src : BitVec 4) (s : State) : (eraseRise src s).imem = s.imem := by
  simp only [eraseRise]
  repeat' split
  all_goals simp
@[simp] theorem eraseRise_rwi (src : BitVec 4) (s : State) : (eraseRise src s).rwi = s.rwi := by
  simp only [eraseRise]
  repeat' split
  all_goals simp
@[simp] theorem eraseRise_sch (src : BitVec 4) (s : State) : (eraseRise src s).sch = s.sch := by
  simp only [eraseRise]
  repeat' split
  all_goals simp
@[simp] theorem eraseRise_sel (src : BitVec 4) (s : State) : (eraseRise src s).sel = s.sel := by
  simp only [eraseRise]
  repeat' split
  all_goals simp
@[simp] theorem eraseRise_mbx (src : BitVec 4) (s : State) : (eraseRise src s).mbx = s.mbx := by
  simp only [eraseRise]
  repeat' split
  all_goals simp
@[simp] theorem eraseRise_mbxErr (src : BitVec 4) (s : State) : (eraseRise src s).mbxErr = s.mbxErr := by
  simp only [eraseRise]
  repeat' split
  all_goals simp
@[simp] theorem eraseRise_mpu (src : BitVec 4) (s : State) : (eraseRise src s).mpu = s.mpu := by
  simp only [eraseRise]
  repeat' split
  all_goals simp
@[simp] theorem eraseRise_tmp (src : BitVec 4) (s : State) : (eraseRise src s).tmp = s.tmp := by
  simp only [eraseRise]
  repeat' split
  all_goals simp
@[simp] theorem eraseRise_lcs (src : BitVec 4) (s : State) : (eraseRise src s).lcs = s.lcs := by
  simp only [eraseRise]
  repeat' split
  all_goals simp
@[simp] theorem eraseRise_own (src : BitVec 4) (s : State) : (eraseRise src s).own = s.own := by
  simp only [eraseRise]
  repeat' split
  all_goals simp
@[simp] theorem eraseRise_par (src : BitVec 4) (s : State) : (eraseRise src s).par = s.par := by
  simp only [eraseRise]
  repeat' split
  all_goals simp
@[simp] theorem eraseRise_glb (src : BitVec 4) (s : State) : (eraseRise src s).glb = s.glb := by
  simp only [eraseRise]
  repeat' split
  all_goals simp
@[simp] theorem eraseRise_pwr (src : BitVec 4) (s : State) : (eraseRise src s).pwr = s.pwr := by
  simp only [eraseRise]
  repeat' split
  all_goals simp
@[simp] theorem eraseRise_bst (src : BitVec 4) (s : State) : (eraseRise src s).bst = s.bst := by
  simp only [eraseRise]
  repeat' split
  all_goals simp
@[simp] theorem eraseRise_tly (src : BitVec 4) (s : State) : (eraseRise src s).tly = s.tly := by
  simp only [eraseRise]
  repeat' split
  all_goals simp
@[simp] theorem classAct_pending (n c : Nat) (s : State) : (classAct n c s).pending = s.pending := by
  simp only [classAct]
  repeat' split
  all_goals simp
@[simp] theorem classAct_clk (n c : Nat) (s : State) : (classAct n c s).clk = s.clk := by
  simp only [classAct]
  repeat' split
  all_goals simp
@[simp] theorem classAct_rng (n c : Nat) (s : State) : (classAct n c s).rng = s.rng := by
  simp only [classAct]
  repeat' split
  all_goals simp
@[simp] theorem classAct_csn (n c : Nat) (s : State) : (classAct n c s).csn = s.csn := by
  simp only [classAct]
  repeat' split
  all_goals simp
@[simp] theorem classAct_imem (n c : Nat) (s : State) : (classAct n c s).imem = s.imem := by
  simp only [classAct]
  repeat' split
  all_goals simp
@[simp] theorem classAct_rwi (n c : Nat) (s : State) : (classAct n c s).rwi = s.rwi := by
  simp only [classAct]
  repeat' split
  all_goals simp
@[simp] theorem classAct_sch (n c : Nat) (s : State) : (classAct n c s).sch = s.sch := by
  simp only [classAct]
  repeat' split
  all_goals simp
@[simp] theorem classAct_sel (n c : Nat) (s : State) : (classAct n c s).sel = s.sel := by
  simp only [classAct]
  repeat' split
  all_goals simp
@[simp] theorem classAct_mbx (n c : Nat) (s : State) : (classAct n c s).mbx = s.mbx := by
  simp only [classAct]
  repeat' split
  all_goals simp
@[simp] theorem classAct_mbxErr (n c : Nat) (s : State) : (classAct n c s).mbxErr = s.mbxErr := by
  simp only [classAct]
  repeat' split
  all_goals simp
@[simp] theorem classAct_mpu (n c : Nat) (s : State) : (classAct n c s).mpu = s.mpu := by
  simp only [classAct]
  repeat' split
  all_goals simp
@[simp] theorem classAct_lcs (n c : Nat) (s : State) : (classAct n c s).lcs = s.lcs := by
  simp only [classAct]
  repeat' split
  all_goals simp
@[simp] theorem classAct_own (n c : Nat) (s : State) : (classAct n c s).own = s.own := by
  simp only [classAct]
  repeat' split
  all_goals simp
@[simp] theorem classAct_par (n c : Nat) (s : State) : (classAct n c s).par = s.par := by
  simp only [classAct]
  repeat' split
  all_goals simp
@[simp] theorem classAct_glb (n c : Nat) (s : State) : (classAct n c s).glb = s.glb := by
  simp only [classAct]
  repeat' split
  all_goals simp
@[simp] theorem classAct_pwr (n c : Nat) (s : State) : (classAct n c s).pwr = s.pwr := by
  simp only [classAct]
  repeat' split
  all_goals simp
@[simp] theorem classAct_bst (n c : Nat) (s : State) : (classAct n c s).bst = s.bst := by
  simp only [classAct]
  repeat' split
  all_goals simp
@[simp] theorem classAct_tly (n c : Nat) (s : State) : (classAct n c s).tly = s.tly := by
  simp only [classAct]
  repeat' split
  all_goals simp
@[simp] theorem qualify_pending (n : Nat) (s : State) : (qualify n s).pending = s.pending := by
  simp only [qualify]
  repeat' split
  all_goals simp
@[simp] theorem qualify_clk (n : Nat) (s : State) : (qualify n s).clk = s.clk := by
  simp only [qualify]
  repeat' split
  all_goals simp
@[simp] theorem qualify_rng (n : Nat) (s : State) : (qualify n s).rng = s.rng := by
  simp only [qualify]
  repeat' split
  all_goals simp
@[simp] theorem qualify_csn (n : Nat) (s : State) : (qualify n s).csn = s.csn := by
  simp only [qualify]
  repeat' split
  all_goals simp
@[simp] theorem qualify_imem (n : Nat) (s : State) : (qualify n s).imem = s.imem := by
  simp only [qualify]
  repeat' split
  all_goals simp
@[simp] theorem qualify_rwi (n : Nat) (s : State) : (qualify n s).rwi = s.rwi := by
  simp only [qualify]
  repeat' split
  all_goals simp
@[simp] theorem qualify_sch (n : Nat) (s : State) : (qualify n s).sch = s.sch := by
  simp only [qualify]
  repeat' split
  all_goals simp
@[simp] theorem qualify_sel (n : Nat) (s : State) : (qualify n s).sel = s.sel := by
  simp only [qualify]
  repeat' split
  all_goals simp
@[simp] theorem qualify_mbx (n : Nat) (s : State) : (qualify n s).mbx = s.mbx := by
  simp only [qualify]
  repeat' split
  all_goals simp
@[simp] theorem qualify_mbxErr (n : Nat) (s : State) : (qualify n s).mbxErr = s.mbxErr := by
  simp only [qualify]
  repeat' split
  all_goals simp
@[simp] theorem qualify_mpu (n : Nat) (s : State) : (qualify n s).mpu = s.mpu := by
  simp only [qualify]
  repeat' split
  all_goals simp
@[simp] theorem qualify_lcs (n : Nat) (s : State) : (qualify n s).lcs = s.lcs := by
  simp only [qualify]
  repeat' split
  all_goals simp
@[simp] theorem qualify_own (n : Nat) (s : State) : (qualify n s).own = s.own := by
  simp only [qualify]
  repeat' split
  all_goals simp
@[simp] theorem qualify_par (n : Nat) (s : State) : (qualify n s).par = s.par := by
  simp only [qualify]
  repeat' split
  all_goals simp
@[simp] theorem qualify_glb (n : Nat) (s : State) : (qualify n s).glb = s.glb := by
  simp only [qualify]
  repeat' split
  all_goals simp
@[simp] theorem qualify_pwr (n : Nat) (s : State) : (qualify n s).pwr = s.pwr := by
  simp only [qualify]
  repeat' split
  all_goals simp
@[simp] theorem qualify_bst (n : Nat) (s : State) : (qualify n s).bst = s.bst := by
  simp only [qualify]
  repeat' split
  all_goals simp
@[simp] theorem qualify_tly (n : Nat) (s : State) : (qualify n s).tly = s.tly := by
  simp only [qualify]
  repeat' split
  all_goals simp
@[simp] theorem bistTrigger_pending (r n : Nat) (s : State) : (bistTrigger r n s).pending = s.pending := by
  simp only [bistTrigger]
  repeat' split
  all_goals simp
@[simp] theorem bistTrigger_clk (r n : Nat) (s : State) : (bistTrigger r n s).clk = s.clk := by
  simp only [bistTrigger]
  repeat' split
  all_goals simp
@[simp] theorem bistTrigger_rng (r n : Nat) (s : State) : (bistTrigger r n s).rng = s.rng := by
  simp only [bistTrigger]
  repeat' split
  all_goals simp
@[simp] theorem bistTrigger_csn (r n : Nat) (s : State) : (bistTrigger r n s).csn = s.csn := by
  simp only [bistTrigger]
  repeat' split
  all_goals simp
@[simp] theorem bistTrigger_out (r n : Nat) (s : State) : (bistTrigger r n s).out = s.out := by
  simp only [bistTrigger]
  repeat' split
  all_goals simp
@[simp] theorem bistTrigger_imem (r n : Nat) (s : State) : (bistTrigger r n s).imem = s.imem := by
  simp only [bistTrigger]
  repeat' split
  all_goals simp
@[simp] theorem bistTrigger_rwi (r n : Nat) (s : State) : (bistTrigger r n s).rwi = s.rwi := by
  simp only [bistTrigger]
  repeat' split
  all_goals simp
@[simp] theorem bistTrigger_pit (r n : Nat) (s : State) : (bistTrigger r n s).pit = s.pit := by
  simp only [bistTrigger]
  repeat' split
  all_goals simp
@[simp] theorem bistTrigger_rqe (r n : Nat) (s : State) : (bistTrigger r n s).rqe = s.rqe := by
  simp only [bistTrigger]
  repeat' split
  all_goals simp
@[simp] theorem bistTrigger_sch (r n : Nat) (s : State) : (bistTrigger r n s).sch = s.sch := by
  simp only [bistTrigger]
  repeat' split
  all_goals simp
@[simp] theorem bistTrigger_cmc (r n : Nat) (s : State) : (bistTrigger r n s).cmc = s.cmc := by
  simp only [bistTrigger]
  repeat' split
  all_goals simp
@[simp] theorem bistTrigger_sel (r n : Nat) (s : State) : (bistTrigger r n s).sel = s.sel := by
  simp only [bistTrigger]
  repeat' split
  all_goals simp
@[simp] theorem bistTrigger_dma (r n : Nat) (s : State) : (bistTrigger r n s).dma = s.dma := by
  simp only [bistTrigger]
  repeat' split
  all_goals simp
@[simp] theorem bistTrigger_mbx (r n : Nat) (s : State) : (bistTrigger r n s).mbx = s.mbx := by
  simp only [bistTrigger]
  repeat' split
  all_goals simp
@[simp] theorem bistTrigger_mbxErr (r n : Nat) (s : State) : (bistTrigger r n s).mbxErr = s.mbxErr := by
  simp only [bistTrigger]
  repeat' split
  all_goals simp
@[simp] theorem bistTrigger_mpu (r n : Nat) (s : State) : (bistTrigger r n s).mpu = s.mpu := by
  simp only [bistTrigger]
  repeat' split
  all_goals simp
@[simp] theorem bistTrigger_caches (r n : Nat) (s : State) : (bistTrigger r n s).caches = s.caches := by
  simp only [bistTrigger]
  repeat' split
  all_goals simp
@[simp] theorem bistTrigger_units (r n : Nat) (s : State) : (bistTrigger r n s).units = s.units := by
  simp only [bistTrigger]
  repeat' split
  all_goals simp
@[simp] theorem bistTrigger_kst (r n : Nat) (s : State) : (bistTrigger r n s).kst = s.kst := by
  simp only [bistTrigger]
  repeat' split
  all_goals simp
@[simp] theorem bistTrigger_tmp (r n : Nat) (s : State) : (bistTrigger r n s).tmp = s.tmp := by
  simp only [bistTrigger]
  repeat' split
  all_goals simp
@[simp] theorem bistTrigger_bat (r n : Nat) (s : State) : (bistTrigger r n s).bat = s.bat := by
  simp only [bistTrigger]
  repeat' split
  all_goals simp
@[simp] theorem bistTrigger_lcs (r n : Nat) (s : State) : (bistTrigger r n s).lcs = s.lcs := by
  simp only [bistTrigger]
  repeat' split
  all_goals simp
@[simp] theorem bistTrigger_own (r n : Nat) (s : State) : (bistTrigger r n s).own = s.own := by
  simp only [bistTrigger]
  repeat' split
  all_goals simp
@[simp] theorem bistTrigger_par (r n : Nat) (s : State) : (bistTrigger r n s).par = s.par := by
  simp only [bistTrigger]
  repeat' split
  all_goals simp
@[simp] theorem bistTrigger_glb (r n : Nat) (s : State) : (bistTrigger r n s).glb = s.glb := by
  simp only [bistTrigger]
  repeat' split
  all_goals simp
@[simp] theorem bistTrigger_pwr (r n : Nat) (s : State) : (bistTrigger r n s).pwr = s.pwr := by
  simp only [bistTrigger]
  repeat' split
  all_goals simp
@[simp] theorem bistTrigger_tly (r n : Nat) (s : State) : (bistTrigger r n s).tly = s.tly := by
  simp only [bistTrigger]
  repeat' split
  all_goals simp
@[simp] theorem bistTrigger_evc (r n : Nat) (s : State) : (bistTrigger r n s).evc = s.evc := by
  simp only [bistTrigger]
  repeat' split
  all_goals simp
@[simp] theorem sealFlashes_pending (f : Flash → Flash) (s : State) : (sealFlashes f s).pending = s.pending := by
  simp only [sealFlashes]
  repeat' split
  all_goals simp
@[simp] theorem sealFlashes_clk (f : Flash → Flash) (s : State) : (sealFlashes f s).clk = s.clk := by
  simp only [sealFlashes]
  repeat' split
  all_goals simp
@[simp] theorem sealFlashes_rng (f : Flash → Flash) (s : State) : (sealFlashes f s).rng = s.rng := by
  simp only [sealFlashes]
  repeat' split
  all_goals simp
@[simp] theorem sealFlashes_csn (f : Flash → Flash) (s : State) : (sealFlashes f s).csn = s.csn := by
  simp only [sealFlashes]
  repeat' split
  all_goals simp
@[simp] theorem sealFlashes_out (f : Flash → Flash) (s : State) : (sealFlashes f s).out = s.out := by
  simp only [sealFlashes]
  repeat' split
  all_goals simp
@[simp] theorem sealFlashes_imem (f : Flash → Flash) (s : State) : (sealFlashes f s).imem = s.imem := by
  simp only [sealFlashes]
  repeat' split
  all_goals simp
@[simp] theorem sealFlashes_rwi (f : Flash → Flash) (s : State) : (sealFlashes f s).rwi = s.rwi := by
  simp only [sealFlashes]
  repeat' split
  all_goals simp
@[simp] theorem sealFlashes_pit (f : Flash → Flash) (s : State) : (sealFlashes f s).pit = s.pit := by
  simp only [sealFlashes]
  repeat' split
  all_goals simp
@[simp] theorem sealFlashes_rqe (f : Flash → Flash) (s : State) : (sealFlashes f s).rqe = s.rqe := by
  simp only [sealFlashes]
  repeat' split
  all_goals simp
@[simp] theorem sealFlashes_sch (f : Flash → Flash) (s : State) : (sealFlashes f s).sch = s.sch := by
  simp only [sealFlashes]
  repeat' split
  all_goals simp
@[simp] theorem sealFlashes_cmc (f : Flash → Flash) (s : State) : (sealFlashes f s).cmc = s.cmc := by
  simp only [sealFlashes]
  repeat' split
  all_goals simp
@[simp] theorem sealFlashes_sel (f : Flash → Flash) (s : State) : (sealFlashes f s).sel = s.sel := by
  simp only [sealFlashes]
  repeat' split
  all_goals simp
@[simp] theorem sealFlashes_dma (f : Flash → Flash) (s : State) : (sealFlashes f s).dma = s.dma := by
  simp only [sealFlashes]
  repeat' split
  all_goals simp
@[simp] theorem sealFlashes_mbx (f : Flash → Flash) (s : State) : (sealFlashes f s).mbx = s.mbx := by
  simp only [sealFlashes]
  repeat' split
  all_goals simp
@[simp] theorem sealFlashes_mbxErr (f : Flash → Flash) (s : State) : (sealFlashes f s).mbxErr = s.mbxErr := by
  simp only [sealFlashes]
  repeat' split
  all_goals simp
@[simp] theorem sealFlashes_mpu (f : Flash → Flash) (s : State) : (sealFlashes f s).mpu = s.mpu := by
  simp only [sealFlashes]
  repeat' split
  all_goals simp
@[simp] theorem sealFlashes_caches (f : Flash → Flash) (s : State) : (sealFlashes f s).caches = s.caches := by
  simp only [sealFlashes]
  repeat' split
  all_goals simp
@[simp] theorem sealFlashes_units (f : Flash → Flash) (s : State) : (sealFlashes f s).units = s.units := by
  simp only [sealFlashes]
  repeat' split
  all_goals simp
@[simp] theorem sealFlashes_tmp (f : Flash → Flash) (s : State) : (sealFlashes f s).tmp = s.tmp := by
  simp only [sealFlashes]
  repeat' split
  all_goals simp
@[simp] theorem sealFlashes_bat (f : Flash → Flash) (s : State) : (sealFlashes f s).bat = s.bat := by
  simp only [sealFlashes]
  repeat' split
  all_goals simp
@[simp] theorem sealFlashes_lcs (f : Flash → Flash) (s : State) : (sealFlashes f s).lcs = s.lcs := by
  simp only [sealFlashes]
  repeat' split
  all_goals simp
@[simp] theorem sealFlashes_own (f : Flash → Flash) (s : State) : (sealFlashes f s).own = s.own := by
  simp only [sealFlashes]
  repeat' split
  all_goals simp
@[simp] theorem sealFlashes_par (f : Flash → Flash) (s : State) : (sealFlashes f s).par = s.par := by
  simp only [sealFlashes]
  repeat' split
  all_goals simp
@[simp] theorem sealFlashes_glb (f : Flash → Flash) (s : State) : (sealFlashes f s).glb = s.glb := by
  simp only [sealFlashes]
  repeat' split
  all_goals simp
@[simp] theorem sealFlashes_pwr (f : Flash → Flash) (s : State) : (sealFlashes f s).pwr = s.pwr := by
  simp only [sealFlashes]
  repeat' split
  all_goals simp
@[simp] theorem sealFlashes_bst (f : Flash → Flash) (s : State) : (sealFlashes f s).bst = s.bst := by
  simp only [sealFlashes]
  repeat' split
  all_goals simp
@[simp] theorem sealFlashes_tly (f : Flash → Flash) (s : State) : (sealFlashes f s).tly = s.tly := by
  simp only [sealFlashes]
  repeat' split
  all_goals simp
@[simp] theorem sealFlashes_evc (f : Flash → Flash) (s : State) : (sealFlashes f s).evc = s.evc := by
  simp only [sealFlashes]
  repeat' split
  all_goals simp
@[simp] theorem mirrorDevice_pending (s : State) : (mirrorDevice s).pending = s.pending := by
  simp only [mirrorDevice]
  repeat' split
  all_goals simp
@[simp] theorem mirrorDevice_clk (s : State) : (mirrorDevice s).clk = s.clk := by
  simp only [mirrorDevice]
  repeat' split
  all_goals simp
@[simp] theorem mirrorDevice_rng (s : State) : (mirrorDevice s).rng = s.rng := by
  simp only [mirrorDevice]
  repeat' split
  all_goals simp
@[simp] theorem mirrorDevice_csn (s : State) : (mirrorDevice s).csn = s.csn := by
  simp only [mirrorDevice]
  repeat' split
  all_goals simp
@[simp] theorem mirrorDevice_out (s : State) : (mirrorDevice s).out = s.out := by
  simp only [mirrorDevice]
  repeat' split
  all_goals simp
@[simp] theorem mirrorDevice_imem (s : State) : (mirrorDevice s).imem = s.imem := by
  simp only [mirrorDevice]
  repeat' split
  all_goals simp
@[simp] theorem mirrorDevice_rwi (s : State) : (mirrorDevice s).rwi = s.rwi := by
  simp only [mirrorDevice]
  repeat' split
  all_goals simp
@[simp] theorem mirrorDevice_pit (s : State) : (mirrorDevice s).pit = s.pit := by
  simp only [mirrorDevice]
  repeat' split
  all_goals simp
@[simp] theorem mirrorDevice_rqe (s : State) : (mirrorDevice s).rqe = s.rqe := by
  simp only [mirrorDevice]
  repeat' split
  all_goals simp
@[simp] theorem mirrorDevice_sch (s : State) : (mirrorDevice s).sch = s.sch := by
  simp only [mirrorDevice]
  repeat' split
  all_goals simp
@[simp] theorem mirrorDevice_cmc (s : State) : (mirrorDevice s).cmc = s.cmc := by
  simp only [mirrorDevice]
  repeat' split
  all_goals simp
@[simp] theorem mirrorDevice_sel (s : State) : (mirrorDevice s).sel = s.sel := by
  simp only [mirrorDevice]
  repeat' split
  all_goals simp
@[simp] theorem mirrorDevice_dma (s : State) : (mirrorDevice s).dma = s.dma := by
  simp only [mirrorDevice]
  repeat' split
  all_goals simp
@[simp] theorem mirrorDevice_mbx (s : State) : (mirrorDevice s).mbx = s.mbx := by
  simp only [mirrorDevice]
  repeat' split
  all_goals simp
@[simp] theorem mirrorDevice_mbxErr (s : State) : (mirrorDevice s).mbxErr = s.mbxErr := by
  simp only [mirrorDevice]
  repeat' split
  all_goals simp
@[simp] theorem mirrorDevice_mpu (s : State) : (mirrorDevice s).mpu = s.mpu := by
  simp only [mirrorDevice]
  repeat' split
  all_goals simp
@[simp] theorem mirrorDevice_caches (s : State) : (mirrorDevice s).caches = s.caches := by
  simp only [mirrorDevice]
  repeat' split
  all_goals simp
@[simp] theorem mirrorDevice_units (s : State) : (mirrorDevice s).units = s.units := by
  simp only [mirrorDevice]
  repeat' split
  all_goals simp
@[simp] theorem mirrorDevice_kst (s : State) : (mirrorDevice s).kst = s.kst := by
  simp only [mirrorDevice]
  repeat' split
  all_goals simp
@[simp] theorem mirrorDevice_tmp (s : State) : (mirrorDevice s).tmp = s.tmp := by
  simp only [mirrorDevice]
  repeat' split
  all_goals simp
@[simp] theorem mirrorDevice_bat (s : State) : (mirrorDevice s).bat = s.bat := by
  simp only [mirrorDevice]
  repeat' split
  all_goals simp
@[simp] theorem mirrorDevice_lcs (s : State) : (mirrorDevice s).lcs = s.lcs := by
  simp only [mirrorDevice]
  repeat' split
  all_goals simp
@[simp] theorem mirrorDevice_own (s : State) : (mirrorDevice s).own = s.own := by
  simp only [mirrorDevice]
  repeat' split
  all_goals simp
@[simp] theorem mirrorDevice_glb (s : State) : (mirrorDevice s).glb = s.glb := by
  simp only [mirrorDevice]
  repeat' split
  all_goals simp
@[simp] theorem mirrorDevice_pwr (s : State) : (mirrorDevice s).pwr = s.pwr := by
  simp only [mirrorDevice]
  repeat' split
  all_goals simp
@[simp] theorem mirrorDevice_bst (s : State) : (mirrorDevice s).bst = s.bst := by
  simp only [mirrorDevice]
  repeat' split
  all_goals simp
@[simp] theorem mirrorDevice_tly (s : State) : (mirrorDevice s).tly = s.tly := by
  simp only [mirrorDevice]
  repeat' split
  all_goals simp
@[simp] theorem mirrorDevice_evc (s : State) : (mirrorDevice s).evc = s.evc := by
  simp only [mirrorDevice]
  repeat' split
  all_goals simp
@[simp] theorem senderEvent_pending (m : Nat) (s : State) : (senderEvent m s).pending = s.pending := by
  simp only [senderEvent]
  repeat' split
  all_goals simp
@[simp] theorem senderEvent_clk (m : Nat) (s : State) : (senderEvent m s).clk = s.clk := by
  simp only [senderEvent]
  repeat' split
  all_goals simp
@[simp] theorem senderEvent_rng (m : Nat) (s : State) : (senderEvent m s).rng = s.rng := by
  simp only [senderEvent]
  repeat' split
  all_goals simp
@[simp] theorem senderEvent_csn (m : Nat) (s : State) : (senderEvent m s).csn = s.csn := by
  simp only [senderEvent]
  repeat' split
  all_goals simp
@[simp] theorem senderEvent_imem (m : Nat) (s : State) : (senderEvent m s).imem = s.imem := by
  simp only [senderEvent]
  repeat' split
  all_goals simp
@[simp] theorem senderEvent_rwi (m : Nat) (s : State) : (senderEvent m s).rwi = s.rwi := by
  simp only [senderEvent]
  repeat' split
  all_goals simp
@[simp] theorem senderEvent_pit (m : Nat) (s : State) : (senderEvent m s).pit = s.pit := by
  simp only [senderEvent]
  repeat' split
  all_goals simp
@[simp] theorem senderEvent_sch (m : Nat) (s : State) : (senderEvent m s).sch = s.sch := by
  simp only [senderEvent]
  repeat' split
  all_goals simp
@[simp] theorem senderEvent_cmc (m : Nat) (s : State) : (senderEvent m s).cmc = s.cmc := by
  simp only [senderEvent]
  repeat' split
  all_goals simp
@[simp] theorem senderEvent_sel (m : Nat) (s : State) : (senderEvent m s).sel = s.sel := by
  simp only [senderEvent]
  repeat' split
  all_goals simp
@[simp] theorem senderEvent_dma (m : Nat) (s : State) : (senderEvent m s).dma = s.dma := by
  simp only [senderEvent]
  repeat' split
  all_goals simp
@[simp] theorem senderEvent_mbx (m : Nat) (s : State) : (senderEvent m s).mbx = s.mbx := by
  simp only [senderEvent]
  repeat' split
  all_goals simp
@[simp] theorem senderEvent_mbxErr (m : Nat) (s : State) : (senderEvent m s).mbxErr = s.mbxErr := by
  simp only [senderEvent]
  repeat' split
  all_goals simp
@[simp] theorem senderEvent_mpu (m : Nat) (s : State) : (senderEvent m s).mpu = s.mpu := by
  simp only [senderEvent]
  repeat' split
  all_goals simp
@[simp] theorem senderEvent_caches (m : Nat) (s : State) : (senderEvent m s).caches = s.caches := by
  simp only [senderEvent]
  repeat' split
  all_goals simp
@[simp] theorem senderEvent_units (m : Nat) (s : State) : (senderEvent m s).units = s.units := by
  simp only [senderEvent]
  repeat' split
  all_goals simp
@[simp] theorem senderEvent_kst (m : Nat) (s : State) : (senderEvent m s).kst = s.kst := by
  simp only [senderEvent]
  repeat' split
  all_goals simp
@[simp] theorem senderEvent_tmp (m : Nat) (s : State) : (senderEvent m s).tmp = s.tmp := by
  simp only [senderEvent]
  repeat' split
  all_goals simp
@[simp] theorem senderEvent_bat (m : Nat) (s : State) : (senderEvent m s).bat = s.bat := by
  simp only [senderEvent]
  repeat' split
  all_goals simp
@[simp] theorem senderEvent_lcs (m : Nat) (s : State) : (senderEvent m s).lcs = s.lcs := by
  simp only [senderEvent]
  repeat' split
  all_goals simp
@[simp] theorem senderEvent_own (m : Nat) (s : State) : (senderEvent m s).own = s.own := by
  simp only [senderEvent]
  repeat' split
  all_goals simp
@[simp] theorem senderEvent_par (m : Nat) (s : State) : (senderEvent m s).par = s.par := by
  simp only [senderEvent]
  repeat' split
  all_goals simp
@[simp] theorem senderEvent_glb (m : Nat) (s : State) : (senderEvent m s).glb = s.glb := by
  simp only [senderEvent]
  repeat' split
  all_goals simp
@[simp] theorem senderEvent_pwr (m : Nat) (s : State) : (senderEvent m s).pwr = s.pwr := by
  simp only [senderEvent]
  repeat' split
  all_goals simp
@[simp] theorem senderEvent_bst (m : Nat) (s : State) : (senderEvent m s).bst = s.bst := by
  simp only [senderEvent]
  repeat' split
  all_goals simp
@[simp] theorem senderEvent_tly (m : Nat) (s : State) : (senderEvent m s).tly = s.tly := by
  simp only [senderEvent]
  repeat' split
  all_goals simp
@[simp] theorem receiverEvent_pending (m : Nat) (s : State) : (receiverEvent m s).pending = s.pending := by
  simp only [receiverEvent]
  repeat' split
  all_goals simp
@[simp] theorem receiverEvent_clk (m : Nat) (s : State) : (receiverEvent m s).clk = s.clk := by
  simp only [receiverEvent]
  repeat' split
  all_goals simp
@[simp] theorem receiverEvent_rng (m : Nat) (s : State) : (receiverEvent m s).rng = s.rng := by
  simp only [receiverEvent]
  repeat' split
  all_goals simp
@[simp] theorem receiverEvent_csn (m : Nat) (s : State) : (receiverEvent m s).csn = s.csn := by
  simp only [receiverEvent]
  repeat' split
  all_goals simp
@[simp] theorem receiverEvent_imem (m : Nat) (s : State) : (receiverEvent m s).imem = s.imem := by
  simp only [receiverEvent]
  repeat' split
  all_goals simp
@[simp] theorem receiverEvent_rwi (m : Nat) (s : State) : (receiverEvent m s).rwi = s.rwi := by
  simp only [receiverEvent]
  repeat' split
  all_goals simp
@[simp] theorem receiverEvent_pit (m : Nat) (s : State) : (receiverEvent m s).pit = s.pit := by
  simp only [receiverEvent]
  repeat' split
  all_goals simp
@[simp] theorem receiverEvent_sch (m : Nat) (s : State) : (receiverEvent m s).sch = s.sch := by
  simp only [receiverEvent]
  repeat' split
  all_goals simp
@[simp] theorem receiverEvent_cmc (m : Nat) (s : State) : (receiverEvent m s).cmc = s.cmc := by
  simp only [receiverEvent]
  repeat' split
  all_goals simp
@[simp] theorem receiverEvent_sel (m : Nat) (s : State) : (receiverEvent m s).sel = s.sel := by
  simp only [receiverEvent]
  repeat' split
  all_goals simp
@[simp] theorem receiverEvent_dma (m : Nat) (s : State) : (receiverEvent m s).dma = s.dma := by
  simp only [receiverEvent]
  repeat' split
  all_goals simp
@[simp] theorem receiverEvent_mbx (m : Nat) (s : State) : (receiverEvent m s).mbx = s.mbx := by
  simp only [receiverEvent]
  repeat' split
  all_goals simp
@[simp] theorem receiverEvent_mbxErr (m : Nat) (s : State) : (receiverEvent m s).mbxErr = s.mbxErr := by
  simp only [receiverEvent]
  repeat' split
  all_goals simp
@[simp] theorem receiverEvent_mpu (m : Nat) (s : State) : (receiverEvent m s).mpu = s.mpu := by
  simp only [receiverEvent]
  repeat' split
  all_goals simp
@[simp] theorem receiverEvent_caches (m : Nat) (s : State) : (receiverEvent m s).caches = s.caches := by
  simp only [receiverEvent]
  repeat' split
  all_goals simp
@[simp] theorem receiverEvent_units (m : Nat) (s : State) : (receiverEvent m s).units = s.units := by
  simp only [receiverEvent]
  repeat' split
  all_goals simp
@[simp] theorem receiverEvent_kst (m : Nat) (s : State) : (receiverEvent m s).kst = s.kst := by
  simp only [receiverEvent]
  repeat' split
  all_goals simp
@[simp] theorem receiverEvent_tmp (m : Nat) (s : State) : (receiverEvent m s).tmp = s.tmp := by
  simp only [receiverEvent]
  repeat' split
  all_goals simp
@[simp] theorem receiverEvent_bat (m : Nat) (s : State) : (receiverEvent m s).bat = s.bat := by
  simp only [receiverEvent]
  repeat' split
  all_goals simp
@[simp] theorem receiverEvent_lcs (m : Nat) (s : State) : (receiverEvent m s).lcs = s.lcs := by
  simp only [receiverEvent]
  repeat' split
  all_goals simp
@[simp] theorem receiverEvent_own (m : Nat) (s : State) : (receiverEvent m s).own = s.own := by
  simp only [receiverEvent]
  repeat' split
  all_goals simp
@[simp] theorem receiverEvent_par (m : Nat) (s : State) : (receiverEvent m s).par = s.par := by
  simp only [receiverEvent]
  repeat' split
  all_goals simp
@[simp] theorem receiverEvent_glb (m : Nat) (s : State) : (receiverEvent m s).glb = s.glb := by
  simp only [receiverEvent]
  repeat' split
  all_goals simp
@[simp] theorem receiverEvent_pwr (m : Nat) (s : State) : (receiverEvent m s).pwr = s.pwr := by
  simp only [receiverEvent]
  repeat' split
  all_goals simp
@[simp] theorem receiverEvent_bst (m : Nat) (s : State) : (receiverEvent m s).bst = s.bst := by
  simp only [receiverEvent]
  repeat' split
  all_goals simp
@[simp] theorem receiverEvent_tly (m : Nat) (s : State) : (receiverEvent m s).tly = s.tly := by
  simp only [receiverEvent]
  repeat' split
  all_goals simp

end Sys2Proof.Machine
end

