-- ==== Sys2Proof/Laws/Map.lean ====
section
/-! SUPPORT. Sparse maps: reading after writing, and the canonical form (log entry 2). -/

namespace Sys2Proof.Machine

variable {α : Type}

theorem smap_get_put_self (d : α) (m : SMap α) (k : Nat) (v : α) : SMap.get d (SMap.put m k v) k = v := by
  induction m with
  | nil => simp [SMap.put, SMap.get]
  | cons e m ih =>
    simp only [SMap.put]
    split
    · simp only [SMap.get]
      rw [if_neg (by omega), ih]
    · split <;> simp [SMap.get]

theorem smap_get_put_other (d : α) (m : SMap α) (k k' : Nat) (v : α) (hk : k' ≠ k) :
    SMap.get d (SMap.put m k v) k' = SMap.get d m k' := by
  induction m with
  | nil => simp [SMap.put, SMap.get, Ne.symm hk]
  | cons e m ih =>
    simp only [SMap.put]
    split
    · simp only [SMap.get, ih]
    · split
      · rename_i h
        subst h
        simp [SMap.get, Ne.symm hk]
      · simp [SMap.get, Ne.symm hk]

theorem smap_get_drop_self (d : α) (m : SMap α) (k : Nat) : SMap.get d (m.filter fun e => e.1 ≠ k) k = d := by
  induction m with
  | nil => rfl
  | cons e m ih =>
    by_cases h : e.1 = k
    · simpa [List.filter_cons, h] using ih
    · simp only [List.filter_cons, h, ne_eq, not_false_eq_true, decide_true, if_true, SMap.get, if_false]
      simpa using ih

theorem smap_get_drop_other (d : α) (m : SMap α) (k k' : Nat) (hk : k' ≠ k) :
    SMap.get d (m.filter fun e => e.1 ≠ k) k' = SMap.get d m k' := by
  induction m with
  | nil => rfl
  | cons e m ih =>
    by_cases h : e.1 = k
    · simp only [List.filter_cons, h, ne_eq, not_true_eq_false, decide_false, Bool.false_eq_true, if_false, SMap.get, Ne.symm hk]
      simpa using ih
    · simp only [List.filter_cons, h, ne_eq, not_false_eq_true, decide_true, if_true, SMap.get]
      simp only [ne_eq] at ih
      rw [ih]

/-- Keys above a bound stay above it. -/
theorem smap_put_bound (m : SMap α) (k b : Nat) (v : α) (hb : b < k) (h : ∀ e ∈ m, b < e.1) :
    ∀ e ∈ SMap.put m k v, b < e.1 := by
  induction m with
  | nil => simp [SMap.put, hb]
  | cons x m ih =>
    have hx : b < x.1 := h x (by simp)
    have hm : ∀ e ∈ m, b < e.1 := fun e he => h e (by simp [he])
    have ih' := ih hm
    simp only [SMap.put]
    intro e he
    split at he
    · rcases List.mem_cons.mp he with rfl | he
      · exact hx
      · exact ih' e he
    · split at he
      · rcases List.mem_cons.mp he with rfl | he
        · exact hb
        · exact hm e he
      · rcases List.mem_cons.mp he with rfl | he
        · exact hb
        · exact h e he

variable [DecidableEq α]

/-- Reading the key just written gives the value written. -/
@[simp] theorem smap_get_set_self (d : α) (m : SMap α) (k : Nat) (v : α) : SMap.get d (SMap.set d m k v) k = v := by
  simp only [SMap.set]
  split
  · rename_i h
    rw [h]
    exact smap_get_drop_self d m k
  · exact smap_get_put_self d m k v

/-- Reading any other key gives what it gave. -/
theorem smap_get_set_other (d : α) (m : SMap α) (k k' : Nat) (v : α) (hk : k' ≠ k) :
    SMap.get d (SMap.set d m k v) k' = SMap.get d m k' := by
  simp only [SMap.set]
  split
  · exact smap_get_drop_other d m k k' hk
  · exact smap_get_put_other d m k k' v hk

/-- Reading any key after a write. -/
theorem smap_get_set (d : α) (m : SMap α) (k k' : Nat) (v : α) :
    SMap.get d (SMap.set d m k v) k' = if k' = k then v else SMap.get d m k' := by
  split
  · rename_i h
    rw [h, smap_get_set_self]
  · rename_i h
    exact smap_get_set_other d m k k' v h

@[simp] theorem smap_get_upd_self (d : α) (m : SMap α) (k : Nat) (f : α → α) :
    SMap.get d (SMap.upd d m k f) k = f (SMap.get d m k) := smap_get_set_self d m k _

theorem smap_get_upd_other (d : α) (m : SMap α) (k k' : Nat) (f : α → α) (hk : k' ≠ k) :
    SMap.get d (SMap.upd d m k f) k' = SMap.get d m k' := smap_get_set_other d m k k' _ hk

theorem smap_put_wf (d : α) (m : SMap α) (k : Nat) (v : α) (hv : v ≠ d) (h : SMap.wf d m = true) :
    SMap.wf d (SMap.put m k v) = true := by
  induction m with
  | nil => simp [SMap.put, SMap.wf, hv]
  | cons x m ih =>
    obtain ⟨j, w⟩ := x
    have h' := h
    simp only [SMap.wf, Bool.and_eq_true, List.all_eq_true, decide_eq_true_eq, ne_eq] at h'
    simp only [SMap.put]
    split
    · rename_i h1
      simp only [SMap.wf, Bool.and_eq_true, List.all_eq_true, decide_eq_true_eq, ne_eq]
      exact ⟨⟨h'.1.1, smap_put_bound m k j v h1 h'.1.2⟩, ih h'.2⟩
    · split
      · rename_i h1 h2
        subst h2
        simp only [SMap.wf, Bool.and_eq_true, List.all_eq_true, decide_eq_true_eq, ne_eq]
        exact ⟨⟨hv, h'.1.2⟩, h'.2⟩
      · simp only [SMap.wf, Bool.and_eq_true, List.all_eq_true, decide_eq_true_eq, ne_eq]
        refine ⟨⟨hv, ?_⟩, h'⟩
        intro e he
        rcases List.mem_cons.mp he with rfl | he
        · show k < j
          omega
        · have := h'.1.2 e he
          omega

theorem smap_filter_wf (d : α) (m : SMap α) (f : Nat × α → Bool) (h : SMap.wf d m = true) : SMap.wf d (m.filter f) = true := by
  induction m with
  | nil => rfl
  | cons x m ih =>
    obtain ⟨j, w⟩ := x
    simp only [SMap.wf, Bool.and_eq_true, List.all_eq_true, decide_eq_true_eq, ne_eq] at h
    simp only [List.filter_cons]
    split
    · simp only [SMap.wf, Bool.and_eq_true, List.all_eq_true, decide_eq_true_eq, ne_eq]
      exact ⟨⟨h.1.1, fun e he => h.1.2 e (List.mem_filter.mp he).1⟩, ih h.2⟩
    · exact ih h.2

/-- A write keeps the canonical form. -/
theorem smap_set_wf (d : α) (m : SMap α) (k : Nat) (v : α) (h : SMap.wf d m = true) : SMap.wf d (SMap.set d m k v) = true := by
  simp only [SMap.set]
  split
  · exact smap_filter_wf d m _ h
  · rename_i hv
    exact smap_put_wf d m k v hv h

/-! ## The internal memory -/

theorem memWrite_wf (m : List Host.Cell) (a : Nat) (v : Byte) (h : Memory.wf m = true) : Memory.wf (memWrite m a v) = true :=
  smap_set_wf 0 m a v h

theorem memWrites_wf (b : Bytes) : ∀ (m : List Host.Cell) (a : Nat), Memory.wf m = true → Memory.wf (memWrites m a b) = true := by
  induction b with
  | nil => intro m a h; exact h
  | cons x b ih => intro m a h; exact ih _ _ (memWrite_wf m a x h)

@[simp] theorem memRead_write_self (m : List Host.Cell) (a : Nat) (v : Byte) : memRead (memWrite m a v) a = v :=
  smap_get_set_self 0 m a v

theorem memRead_write_other (m : List Host.Cell) (a a' : Nat) (v : Byte) (ha : a' ≠ a) :
    memRead (memWrite m a v) a' = memRead m a' :=
  smap_get_set_other 0 m a a' v ha

/-- A write of a byte string leaves every byte outside it. -/
theorem memRead_writes_outside (b : Bytes) : ∀ (m : List Host.Cell) (a a' : Nat), (a' < a ∨ a + b.length ≤ a') →
    memRead (memWrites m a b) a' = memRead m a' := by
  induction b with
  | nil => intro m a a' _; rfl
  | cons x b ih =>
    intro m a a' h
    simp only [List.length_cons] at h
    simp only [memWrites]
    rw [ih (memWrite m a x) (a + 1) a' (by omega), memRead_write_other m a a' x (by omega)]

end Sys2Proof.Machine
end

