-- ==== Sys2Proof/Tests/Slice0.lean ====
section
/-! SUPPORT. The author's own tests: ill-formed commands are refused by WellFormed, one or two small steps of each family, sanity of the
ciphers against their standards, and for each statement of Obligations.lean a concrete state and operands that meet its hypotheses
(theorems witness_<statement>, one conjunct per clause). -/

namespace Sys2Proof.Tests

set_option Elab.async false

open Sys2Proof Sys2Proof.Machine Sys2Proof.Safety

def s0 : State := State.reset

/-! ## Ill-formed commands -/

theorem test_wf_who : (Instr.regWrite (.ini 0) 0 0).wf = false ∧ (Instr.regWrite (.ini 0x32) 0 0).wf = false := by decide
theorem test_wf_function : (Instr.rwiWrite (.vf .a 0) 0x120020 0).wf = false := by decide
theorem test_wf_offset : (Instr.rwiCompanionWrite secIni 0x120021 0).wf = false ∧ (Instr.rwiWindowExpiry secIni 2).wf = false := by decide
theorem test_wf_core : (Instr.dispatchLoad 24).wf = false ∧ (Instr.coreException 24).wf = false := by decide
theorem test_wf_engine : (Instr.engineFault false 26).wf = false ∧ (Instr.engineOpComplete true 8).wf = false := by decide
theorem test_wf_region : (Instr.bistRegionTake 107).wf = false := by decide
theorem test_wf_source : (Instr.tamperQualify 48).wf = false ∧ (Instr.holdRelease 48).wf = false := by decide
theorem test_wf_drbg : (Instr.drbgReseed 10).wf = false := by decide
theorem test_wf_rail : (Instr.railReset 9).wf = false := by decide
theorem test_wf_stream : (Instr.ideKm .a 5).wf = false := by decide
theorem test_wf_sensor : (Instr.sensorSample 3 0).wf = false := by decide
theorem test_wf_hpend : (Instr.hostPendingClear secIni 18 0).wf = false := by decide
theorem test_wf_step : (Instr.startStepFail 0 false).wf = false ∧ (Instr.startStepFail 15 false).wf = false := by decide
theorem test_wf_kat : (Instr.standbyKat (some 117)).wf = false := by decide
theorem test_wf_accepts : (Instr.railReset 8).wf = true ∧ (Instr.dispatchLoad 23).wf = true ∧ (Instr.tamperQualify 47).wf = true := by decide

/-! ## Ciphers: the worked examples of their standards -/

/-- FIPS 197, appendix C.1. -/
theorem test_aes : Aes.enc (toBE 16 0x000102030405060708090a0b0c0d0e0f) (toBE 16 0x00112233445566778899aabbccddeeff)
    = toBE 16 0x69c4e0d86a7b0430d8cdb78070b4c55a := by decide +kernel

/-- Deciphering undoes it. -/
theorem test_aes_dec : Aes.dec (toBE 16 0x000102030405060708090a0b0c0d0e0f) (toBE 16 0x69c4e0d86a7b0430d8cdb78070b4c55a)
    = toBE 16 0x00112233445566778899aabbccddeeff := by decide +kernel

/-- The well-known DES example: key 133457799BBCDFF1. -/
theorem test_des : Des.desEnc (toBE 8 0x133457799BBCDFF1) (toBE 8 0x0123456789ABCDEF) = toBE 8 0x85E813540F0AB405 := by decide +kernel

/-- SP 800-38B, example 1: AES-128 CMAC of the empty message. -/
theorem test_cmac : cmac false (toBE 16 0x2b7e151628aed2a6abf7158809cf4f3c) [] = toBE 16 0xbb1d6929e95937287fa37d129b756746 := by
  decide +kernel

/-! ## The queue, reset, inverted-shadow registers -/

theorem witness_StepRunsFrontCommand : ({ s0 with pending := [.sweepStart .a] } : State).pending = .sweepStart .a :: [] := rfl
theorem witness_EmptyQueueIdles : s0.pending = [] := rfl
theorem test_step_idles : step s0 = .next { s0 with clk := 1 } := rfl

theorem witness_WellFormedCommandsComplete : (Instr.regWrite secIni 0 0).wf = true := by decide

theorem witness_MissingUnitFaults : 26 ≤ (26 : BitVec 5).toNat ∧ 24 ≤ (24 : BitVec 5).toNat ∧ 48 ≤ (48 : BitVec 6).toNat
    ∧ 9 ≤ (9 : BitVec 4).toNat ∧ 10 ≤ (10 : BitVec 4).toNat ∧ 107 ≤ (107 : BitVec 7).toNat := by decide

theorem witness_StepKeepsMemoryForm : MemInv s0 ∧ ∃ t, step s0 = .next t := ⟨by decide, _, rfl⟩

/-- A pending value for TMP_HOLD_CFG, put there at 0. -/
def sHold : State := { s0 with rwi := [{ who := secIni, off := 0x120020, sel := 0, value := 0x14, start := 0 }] }

theorem witness_RwiCommit :
    (s0.rwiReg secIni 0x120020 = some .holdCfg ∧ RwiMay s0 secIni .holdCfg)
    ∧ (s0.rwiReg secIni 0x080014 = some (.mpuPerm 32) ∧ RwiMay s0 secIni (.mpuPerm 32))
    ∧ (({ sHold with clk := 256 } : State).rwiReg secIni 0x120020 = some .holdCfg
      ∧ sHold.rwi.find? (samePending secIni 0x120020) = some { who := secIni, off := 0x120020, sel := 0, value := 0x14, start := 0 }
      ∧ sHold.commitRefusal .holdCfg 0x14 = none) := by
  refine ⟨⟨rfl, rfl⟩, ⟨rfl, ⟨rfl, by decide, by decide⟩⟩, rfl, by decide, by decide⟩

/-- TMP_HOLD_CFG takes 20 s once its inverse is written (R359). -/
theorem test_rwi_commit : ∃ t, exec (.rwiCompanionWrite secIni 0x120020 (~~~0x14)) sHold = .next t ∧ t.tmp.holdCfg = ⟨0x14, ~~~0x14⟩ :=
  ⟨_, rfl, by decide⟩

theorem witness_RwiDiscards :
    ((∀ y ∈ sHold.rwi, sHold.lapsed y = false) ∧ Room 0x0102 sHold
      ∧ sHold.rwi.find? (samePending secIni 0x120020) = some { who := secIni, off := 0x120020, sel := 0, value := 0x14, start := 0 }
      ∧ (0 : Word) ≠ ~~~0x14)
    ∧ ({ sHold with rwi := [{ who := secIni, off := 0x120020, sel := 0, value := 0, start := 0 }] } : State).commitRefusal .holdCfg 0 = some 3
    ∧ s0.rwi.find? (samePending secIni 0x120020) = none
    ∧ ({ sHold with clk := 256 } : State).clk = 0 + 256 := by decide

/-! ## Registers, the bus and the MPUs -/

/-- A state with owner 0x2F. -/
def sOwned : State := { s0 with own := { s0.own with owner := 0x2F } }

theorem witness_RegisterWrites : (60 ≤ (60 : Word).toNat % 2 ^ 12 ∧ (3600 : Word).toNat % 2 ^ 12 ≤ 3600)
    ∧ (sOwned.own.owner = 0x2F ∧ (0x2F : BitVec 6) ≠ 0 ∧ sOwned.glb.minimal = false ∧ sOwned.hostCut (.ini 0x2F) = false)
    ∧ ((0x2E : BitVec 6) ≠ 1 ∧ (0x2E : BitVec 6).toNat < 0x32 ∧ sOwned.own.owner ≠ 0x2E)
    ∧ ((∀ n, secIni = .ini n → n.toNat < 0x32) ∧ (0x040001 : BitVec 21).toNat % 4 ≠ 0) := by
  refine ⟨by decide, by decide, by decide, ?_, by decide⟩
  intro n h; cases h; decide

/-- The SCH timeout takes its 16 bits. -/
theorem test_reg_write : exec (.regWrite secIni 0x040000 0x12345) s0 = .next { s0 with sch := { s0.sch with timeoutUs := 0x2345 } } := rfl

/-- One enabled region of initiator 2 over 0 to 0xFFF that grants everything. -/
def sMpu : State :=
  { s0 with mpu := { s0.mpu with regions := [(64, { base := 0, limit := 0xFC0, perm := ⟨0xFFFFFFFF, 0⟩ })] } }

theorem witness_BusAccessAndBarrier :
    (sMpu.mpuCause 2 .m .write 0 4 = none ∧ isRegister 0 = false ∧ sMpu.mpuCause 2 .m .read 0xFFC 4 = none ∧ sMpu.readFault false 0xFFC = none)
    ∧ (sMpu.mpuCause 2 .m .read 0x1000 4 = some 1 ∧ sMpu.mpuCause 2 .m .read 0xFFE 4 = some 3
      ∧ sMpu.mpuCause 0x32 .m .read 0 4 = some 4 ∧ sMpu.mpu.faultValid = false)
    ∧ ((2 : BitVec 6).toNat < 0x32 ∧ s0.olderOutstanding = false)
    ∧ ({ s0 with mpu := { s0.mpu with outstanding := [(2, 0)], commits := 1 } } : State).olderOutstanding = true
    ∧ ({ s0 with mpu := { s0.mpu with stalled := [1] } } : State).mpu.stalled = [1] := by decide

theorem witness_ReservedInitiatorRefused : 0x32 ≤ (0x32 : BitVec 6).toNat ∧ Instr.mpuBarrierRead 0x32
      ∈ [Instr.busAccess 0x32 .m .read 0 [] 4 false false, .regWrite (.ini 0x32) 0 0, .mpuBarrierRead 0x32]
    ∧ s0.mpu.faultValid = false := by decide

/-! ## Power -/

/-- A calibrated part. -/
def sCal : State := { s0 with pwr := { s0.pwr with calibrated := 0xF } }

theorem witness_EffectiveEnvelope : s0.glbStatus.getLsbD 28 = true ∧ sCal.glbStatus.getLsbD 28 = false := by decide

theorem witness_GovernorAndCalibration :
    ((.ini 2 : Who) ≠ secIni ∧ ({ s0 with kst := { s0.kst with opened := true } } : State).kst.opened = true) ∧ ((1 : Word).getLsbD 0 = true ∧ s0.calRefused = false)
    ∧ ({ s0 with tmp := { s0.tmp with hold := true } } : State).calRefused = true
    ∧ ({ s0 with pwr := { s0.pwr with calState := 1 } } : State).pwr.calState = 1
    ∧ (sCal.powerCap ≤ 14700 + 300 ∧ 14500 + 500 ≤ sCal.powerCap ∧ 14501 + 300 < sCal.powerCap ∧ sCal.powerCap < 14501 + 500)
    ∧ (sCal.pwr.band.toNat < bandOf 15000 ∧ bandOf 0 ≤ sCal.pwr.band.toNat ∧ sCal.pwr.lowSamples + 1 < 100)
    ∧ bandEdge ({ sCal with pwr := { sCal.pwr with band := 3 } } : State).pwr.band.toNat
        < bandEdge ({ sCal with pwr := { sCal.pwr with band := 3 } } : State).pwr.band.toNat + 300 := by decide

/-- A Quiet state that rail 0 began. -/
def sQuiet : State := { s0 with pwr := { s0.pwr with quiet := true, warned := 1 } }

theorem witness_QuietState :
    ((5 : BitVec 4).toNat < 6 ∧ s0.pwr.quiet = false)
    ∧ Routed 549 ({ s0 with evc := { s0.evc with routes := [(549, { sec := true })] } } : State)
    ∧ (6 ≤ (6 : BitVec 4).toNat ∧ (8 : BitVec 4).toNat < 9 ∧ ExemptRoom s0)
    ∧ (sQuiet.pwr.quiet = true ∧ sQuiet.pwr.warned ≠ 0 ∧ sQuiet.pwr.pwrfail = false)
    ∧ ({ sQuiet with pwr := { sQuiet.pwr with pwrfail := true } } : State).pwr.pwrfail = true ∧ s0.kst.opened = false := by decide

/-! ## Starts -/

theorem witness_ResetsByCause : ((2 : BitVec 4).toNat < 3) ∧ (3 ≤ (3 : BitVec 4).toNat ∧ (5 : BitVec 4).toNat < 6)
    ∧ (s0.bat.latch = false ∧ s0.tmp.latch = 0)
    ∧ (({ s0 with pwr := { s0.pwr with down := 64 } } : State).pwr.down.getLsbD 6 = true
      ∧ ({ s0 with pwr := { s0.pwr with down := 64 } } : State).pwr.down.getLsbD 8 = false ∧ s0.rqe.portA.perst = false)
    ∧ (s0.kst.journal = [] ∧ s0.kst.writing = []) := by decide

/-- A start that has come to step 13. -/
def sStep13 : State := { s0 with glb := { s0.glb with step := 13, startType := 1 } }

theorem witness_StartAndLadder : s0.bat.ladder ≠ 6
    ∧ (sStep13.glb.startDone = false ∧ sStep13.glb.minimal = false ∧ sStep13.glb.step = 13)
    ∧ (sStep13.glb.startType ≠ 0 ∧ (14 : BitVec 4) ≠ 0 ∧ (14 : BitVec 4) ≠ 9 ∧ sStep13.lcsState ≠ 15 ∧ sStep13.lcsState ≠ 5
      ∧ sStep13.lcsState ≠ 0 ∧ sStep13.bat.ladder.toNat < 5)
    ∧ (let t := { sStep13 with bat := { sStep13.bat with ladder := 5 } }
       t.glb.startType ≠ 0 ∧ t.lcsState ≠ 15 ∧ t.lcsState ≠ 5 ∧ t.lcsState ≠ 0 ∧ 5 ≤ t.bat.ladder.toNat)
    ∧ (({ failStep := some 1 } : StartEnv).failStep = some 1 ∧ ({ failStep := some 3 } : StartEnv).failStep = some 3) := by decide

/-- Step 14 sets READY (R436). -/
theorem test_start_ready : ∃ t, exec .startReady sStep13 = .next t ∧ t.glb.startDone = true := ⟨_, rfl, by decide⟩

/-! ## Self-test, entropy, ports -/

/-- A device in full service, single, ports up. -/
def sOn : State :=
  { s0 with glb := { s0.glb with startDone := true, step := 14, startType := 1 }, par := { s0.par with role := .single },
            kst := { s0.kst with opened := true, phase := 4, cleared := false },
            rqe := { s0.rqe with portA := { s0.rqe.portA with linkUp := true, dlDown := false, retry := false },
                                 portB := { s0.rqe.portB with linkUp := true, dlDown := false, retry := false } },
            own := { s0.own with owner := 0x2F },
            units := { s0.units with drbgs := (List.range 10).map fun i => (i, { state := 1, key := 1, v := 2 }) } }

theorem witness_RegionTests :
    (sOn.glb.startDone = true ∧ sOn.tmp.hold = false ∧ sOn.pwr.quiet = false ∧ sOn.erasing = false
      ∧ sOn.bst.retired.contains sOn.bst.next.toNat = false ∧ sOn.regionSkipped true sOn.bst.next.toNat = false
      ∧ sOn.withdrawn sOn.bst.next.toNat = false)
    ∧ (∀ r ∈ [(106 : BitVec 7), 25, 51], let t := { sOn with bst := { sOn.bst with wanted := [r.toNat] } }
       r.toNat < 107 ∧ t.withdrawn r.toNat = true ∧ r.toNat ∉ t.bst.out ∧ t.regionFree r.toNat = true ∧ t.pwr.quiet = false)
    ∧ (let t := { sOn with bst := { sOn.bst with out := [0] } }
       t.bst.out = [(0 : BitVec 7).toNat] ∧ t.pwr.quiet = false ∧ t.bst.triggered = [])
    ∧ (({ sOn with par := { sOn.par with role := .standby } } : State).par.role = .standby ∧ sOn.bst.retired.contains 0 = false) := by
  decide

/-- A HEALTHY source, one in its start-up test, a FAILED one; every instance ready, a block kept. -/
def sEnt : State :=
  { sOn with units := { sOn.units with sources := [(0, { state := 2 }), (1, { state := 1 }), (2, { state := 3 })], seedBlocks := [zeros 32] } }

theorem witness_EntropyAndDrbgs :
    ((sEnt.source 0).state = 2 ∧ sEnt.testFails true 0x320 = true ∧ sEnt.testFails false 0x29 = true)
    ∧ (sEnt.source 1).state = 1 ∧ (sEnt.source 2).state = 3
    ∧ (∀ i, i < 10 → (sEnt.drbg i).wants = false)
    ∧ (let t := { sEnt with units := { sEnt.units with drbgs := [(0, { state := 1, waiting := true })] } }
       (t.source 0).state = 2 ∧ (t.drbg 0).state = 1 ∧ (t.drbg 0).waiting = true)
    ∧ ((9 : BitVec 4).toNat < 10 ∧ (sEnt.drbg 9).state = 1 ∧ sEnt.units.seedBlocks = [zeros 32] ∧ ExemptRoom sEnt)
    ∧ Routed 568 ({ sEnt with evc := { sEnt.evc with routes := [(568, { sec := true })] } } : State) := by decide

/-- Function 1 of port A with changes, and two rings of it: SQ 0 and the CQ of pitch 5. -/
def sFn (f : Fn → Fn) (q : Cq) : State :=
  let s := sOn.updFn .a 1 f
  { s with rqe := { s.rqe with cqs := [(5, q)], sqs := [(20, { state := .active, port := .a, fn := 1 })] } }

theorem witness_FunctionEvents :
    (((sFn id {}).sq 5 0).state ≠ .free ∧ ((sFn id {}).sq 5 0).port = .a ∧ covers 1 ((sFn id {}).sq 5 0).fn = true)
    ∧ ({ sOn with mbx := [(3, { owner := pfIni .a })] } : State).box 3 = { owner := pfIni .a }
    ∧ ((sFn (fun f => { f with state := .flr }) {}).fn .a 1).state = .flr
    ∧ ((sFn (fun f => { f with state := .d3hot }) {}).fn .a 1).state = .d3hot
    ∧ (let t := sFn id { state := .active, port := .a, fn := 1, held := [{ cqe := {} }] }
       (t.cq 5).state = .active ∧ (t.cq 5).port = .a ∧ (t.cq 5).fn = 1 ∧ (t.cq 5).held = [{ cqe := {} }] ∧ t.gateOpen = true)
    ∧ (let t := sFn (fun f => { f with pba := [3], unmasked := [3] }) {}
       3 ∈ (t.fn .a 1).pba ∧ 3 ∈ (t.fn .a 1).unmasked ∧ (t.fn .a 1).msixMask = false)
    ∧ (s0.portState .a).retry = true
    ∧ (let t := sOn.updPort .a fun x => { x with ide := [2, 0, 0, 0, 0] }
       (t.portState .a).retry = false ∧ t.ideCut .a = true)
    ∧ ((sOn.portState .a).retry = false ∧ sOn.ideCut .a = false ∧ (0 : Word).getLsbD 2 = false ∧ (4 : Word).getLsbD 2 = true)
    ∧ Routed (ringBase .a + 5) ({ sOn with evc := { sOn.evc with routes := [(ringBase .a + 5, { sec := true })] } } : State) := by decide

theorem witness_LinkEvents :
    (((sFn id {}).sq 5 0).state ≠ .free ∧ ((sFn id {}).sq 5 0).port = .a
      ∧ ((sFn id { state := .active, port := .a }).cq 5).state = .active ∧ ((sFn id { state := .active, port := .a }).cq 5).port = .a)
    ∧ s0.phyDown .a = false ∧ (4 : BitVec 3).toNat < 5
    ∧ Routed (ringBase .a + 8) ({ sOn with evc := { sOn.evc with routes := [(ringBase .a + 8, { sec := true })] } } : State)
    ∧ (({ sOn with rqe := { sOn.rqe with portA := { sOn.rqe.portA with session := 2 } } } : State).portState .a).session = 2 := by decide

/-- Port A with changes. -/
def sSpdm (f : PortState → PortState) : State := sOn.updPort .a f

/-- The generator of P-384. -/
def p384G : Bytes :=
  toBE 48 0xaa87ca22be8b05378eb1c71ef320ad746e1d3b628ba79b9859f741e082542a385502f25dbf55296c3a545e3872760ab7
    ++ toBE 48 0x3617de4a96262c6f5d9e98bf9292dc29f8f41dbd289a147ce9da3113b5f0b8c00a60b1ce1d7e819d7a431d7c90ea0e5f

theorem witness_SpdmRequests : ((sOn.portState .a).dlDown = false ∧ (sOn.portState .a).retry = false)
    ∧ (∀ n ∈ [1, 2, 3], let t := sSpdm fun x => { x with spdm := n }
       (t.portState .a).spdm = n ∧ (t.portState .a).dlDown = false ∧ (t.portState .a).retry = false)
    ∧ (sOn.kst.identity = false ∧ ({ sOn with kst := { sOn.kst with identity := true } } : State).kst.identity = true)
    ∧ (sOn.lcsState ≠ 4 ∧ sOn.lcsState ≠ 5)
    ∧ ({ sOn with lcs := { sOn.lcs with fuses := { sOn.lcs.fuses with lcsT := 0xF, lcsC := 0x10 } } } : State).lcsState = 4
    ∧ (((curve 2).decode (4 :: p384G)).isSome = true ∧ ((curve 2).decode (4 :: [])).isNone = true)
    ∧ (∀ n ∈ [1, 2], ((sSpdm fun x => { x with session := n }).portState .a).session = n)
    ∧ [] ≠ verifyData ((sSpdm fun x => { x with session := 1 }).portState .a).keys.req
        ((sSpdm fun x => { x with session := 1 }).portState .a).keys.transcript := by
  refine ⟨by decide, by decide, by decide, by decide, by decide, by decide +kernel, by decide, by decide +kernel⟩

/-! ## Mailboxes and DMA -/

/-- Mailbox 1 between core 0 (initiator 2) and core 1 (initiator 3), held by 2, and the same after its doorbell. -/
def sMbx : State := { sOn with mbx := [(1, { owner := 2, sideA := 2, sideB := 3 }), (2, { owner := 2, sideA := 2, sideB := 3, turn := true }),
                                       (3, { sideA := 2, sideB := 3 })] }

theorem witness_MailboxProtocol : sMbx.hostCut (.ini 2) = false ∧ sMbx.hostCut (.ini 3) = false ∧
    (sMbx.isSide 3 (.ini 2) = true ∧ (sMbx.box 3).owner = 0)
    ∧ (sMbx.isSide 1 (.ini 3) = true ∧ (sMbx.box 1).owner ≠ 0 ∧ (sMbx.box 1).owner ≠ 3)
    ∧ (sMbx.isSender 1 (.ini 2) = true ∧ sMbx.hasTurn 1 (.ini 2) = true ∧ sMbx.hasTurn 1 (.ini 3) = false)
    ∧ ((sMbx.box 1).turn = false ∧ (1 : Word) ≠ 0)
    ∧ (sMbx.isReceiver 2 (.ini 3) = true ∧ (sMbx.box 2).compat = false ∧ (sMbx.box 2).ackValid = false)
    ∧ (sMbx.hasTurn 2 (.ini 3) = true ∧ sMbx.hasTurn 2 (.ini 2) = false) := by decide

/-- A doorbell turns the mailbox over (R343). -/
theorem test_doorbell : ∃ t, exec (.mbxDbSet (.ini 2) 1 1) sMbx = .next t ∧ (t.box 1).turn = true := ⟨_, rfl, by decide⟩

/-- A descriptor at 0x1000 that copies 64 bytes from 0x2000 to 0x3000, and regions for core 0 and the channels' own MPU. -/
def sDma : State :=
  { sOn with
      imem := memWrites [] 0x1000 (toLE 8 0x2000 ++ toLE 8 0x3000 ++ toLE 4 64 ++ toLE 4 64 ++ toLE 4 64 ++ toLE 4 64 ++ toLE 2 1 ++ toLE 2 1
        ++ toLE 4 4 ++ toLE 8 0),
      mpu := { sOn.mpu with regions := [(64, { base := 0, limit := 0xFFC0, perm := ⟨0xFFFFFFFF, 0⟩ }),
                                        (0x540, { base := 0, limit := 0xFFC0, perm := ⟨0xFFFFFFFF, 0⟩ })] },
      dma := [(0, { desc := 0x1000 })] }

/-- Its channel while it runs. -/
def sRun (f : Channel → Channel) : State :=
  sDma.updChan 0 fun x => f { x with state := 1, cur := 0x1000, d := some (readDescriptor sDma.imem 0x1000), owner := 2, left := 64 }

theorem witness_DmaControl :
    (chanRunning (sDma.chan 0) = false ∧ sDma.mpuCause 0x2A .m .read (sDma.chan 0).desc.toNat 64 = none
      ∧ sDma.mpuCause (chanOwner 0).toNat .m .read (sDma.chan 0).desc.toNat 64 = none
      ∧ (readDescriptor sDma.imem (sDma.chan 0).desc.toNat).ok = true)
    ∧ (3 : BitVec 6) ≠ chanOwner 0
    ∧ (((sRun id).chan 0).state = 1 ∧ ((sRun id).chan 0).abortMode = false)
    ∧ (((sRun fun x => { x with abortMode := true }).chan 0).abortMode = true ∧ ((sRun id).chan 0).ended = none)
    ∧ (((sRun id).chan 0).retrying = false ∧ ((sRun id).chan 0).tries < ((sRun id).chan 0).retries.toNat) := by decide

theorem witness_DmaMovesBytes :
    let d := readDescriptor sDma.imem 0x1000
    (((sRun fun x => { x with buffer := [1, 2] }).chan 0).d = some d
      ∧ streamAt d.dst d.dstLen d.dstStride 0 = (0x3000, 64) ∧ 2 = min 64 [1, 2].length
      ∧ (sRun fun x => { x with buffer := [1, 2] }).chanRefusal ((sRun fun x => { x with buffer := [1, 2] }).chan 0) .write 0x3000 2 = none
      ∧ isRegister 0x3000 = false)
    ∧ (((sRun id).chan 0).buffer = [] ∧ streamAt d.src d.srcLen d.srcStride 0 = (0x2000, 64)
      ∧ (sRun id).chanRefusal ((sRun id).chan 0) .read 0x2000 64 = none)
    ∧ (((sRun fun x => { x with ended := some 1 }).chan 0).ended = some 1 ∧ d.last = true) := by decide

/-! ## Rings -/

/-- Pitch 5 is ACTIVE, bound to function 1 of port A, with a window of 2^20 bytes for everything. -/
def sPitch : State :=
  { sOn with pit := { sOn.pit with pitches := [(5, { state := .active, bindA := some 1, quota := 32, cfg := ⟨0x701, 0xFFFFF8FE⟩,
                                                         live := [{ base := 0, pages := 256, read := true, write := true, portA := true, portB := true }] })] } }

/-- The staged ring registers of function 1 of port A. -/
def sStage (f : RqeSel → RqeSel) (s : State) : State :=
  s.updRqeSel (.vf .a 1) fun x => f { x with pitch := 5, cq := true, log2 := 6 }

def sCq : State := { sPitch with rqe := { sPitch.rqe with cqs := [(5, { state := .active, port := .a, fn := 1, log2 := 6 })],
                                                          fns := [(fnKey .a 1, { bme := true })] } }
def sSq (q : Sq) : State := { sCq with rqe := { sCq.rqe with sqs := [(sqKey 5 0, q)] } }
def ring0 : Sq := { state := .active, port := .a, fn := 1, log2 := 6 }

theorem witness_RingOwnership :
    (sOn.isOwner (.ini 0x2F) = true ∧ sOn.hostCut (.ini 0x2F) = false ∧ sOn.hasRing (sOn.rqeSel (.ini 0x2F)).bindSel.toNat .a = false
      ∧ sOn.hasRing (sOn.rqeSel (.ini 0x2F)).bindSel.toNat .b = false)
    ∧ (1 ≤ (1 : Word).toNat % 2 ^ 14 ∧ (10000 : Word).toNat % 2 ^ 14 ≤ 10000)
    ∧ (sOn.isOwner (.ini 0x30) = false ∧ sOn.hostCut (.ini 0x30) = false)
    ∧ (sOn.ideCut .a = false ∧ ((sSq ring0).sq 5 0).state ≠ .free ∧ ((sSq ring0).sq 5 0).port = .a ∧ ((sSq ring0).sq 5 0).fn = 1) := by decide

theorem witness_RingControl :
    (whoFn (.vf .a 1) = some (.a, 1) ∧ sCq.ideCut .a = false ∧ ((sStage id sPitch).rqeSel (.vf .a 1)).pitch.toNat = 5)
    ∧ (sStage id sPitch).bound 5 .a 2 = false ∧ (sStage id sPitch).bound 5 .a 1 = true
    ∧ ((sStage id sPitch).ringPitchOk 5 = true ∧ ((sStage id sPitch).cq 5).state = .free ∧ log2Ok 6 = true ∧ log2Ok 16 = true
      ∧ coalBad 0 0 = false ∧ windowCovers ((sStage id sPitch).pitch 5).live .a true 0 (32 * ringSize 6) = true)
    ∧ (((sStage (fun x => { x with cq := false }) sCq).sq 5 0).state = .free
      ∧ ((sStage (fun x => { x with cq := false }) sCq).cq 5).state ≠ .free
      ∧ (sStage (fun x => { x with cq := false }) sCq).fnSqs .a 1 < ((sStage (fun x => { x with cq := false }) sCq).fn .a 1).maxSq
      ∧ (sStage (fun x => { x with cq := false }) sCq).allSqs < 8192
      ∧ windowCovers ((sStage id sCq).pitch 5).live .a false 0 (128 * ringSize 6) = true
      ∧ windowCovers ((sStage id sCq).pitch 5).live .a false 0 16 = true ∧ recordAgrees (readRecord (zeros 16)) (ringSize 6) = true)
    ∧ ((sStage id sCq).anySq 5 = false ∧ ((sStage id sCq).cq 5).state = .active ∧ ((sStage id sPitch).cq 5).latched = [])
    ∧ (((sStage id { sCq with rqe := { sCq.rqe with sqs := [(sqKey 5 1, ring0)] } }).sq 5 1).state = .active ∧ (1 : BitVec 2) ≠ 0
      ∧ ring0.port = .a ∧ ring0.port ≠ .b)
    ∧ (((sStage id (sSq { ring0 with state := .error })).sq 5 0).state = .error ∧ recordAgrees (readRecord (zeros 16)) (ringSize ring0.log2) = true)
    ∧ (((sStage id (sCq.updCq 5 fun q => { q with state := .orphan, port := .b })).cq 5).state = .orphan
      ∧ ((sStage id (sCq.updCq 5 fun q => { q with state := .orphan, port := .b })).cq 5).port ≠ .a) := by decide

theorem witness_SweepsAndCompletions :
    (let t := sSq { ring0 with db := 1 <<< 63, hot := true }
     t.fetchStopped = false ∧ (t.portState .a).dlDown = false ∧ (t.portState .a).perst = false
      ∧ t.sweepDue .a 0 20 { ring0 with db := 1 <<< 63, hot := true } = true
      ∧ t.recordOk 20 { ring0 with db := 1 <<< 63, hot := true } = false)
    ∧ (sSq { ring0 with hot := true }).sweepReads .a 0 20 { ring0 with hot := true } = true
    ∧ s0.fetchStopped = true
    ∧ (((sSq ring0).sq 5 0).state = .active ∧ ((sSq ring0).sq 5 0).opening = none ∧ ((sSq ring0).sq 5 0).failed = 0
      ∧ ((sSq { ring0 with failed := 1 }).sq 5 0).failed = 1)
    ∧ ((sSq ring0).ideCut ((sSq ring0).sq 5 0).port = false ∧ ((sSq ring0).sq 5 0).resync = false ∧ ((sSq ring0).pitch 5).state = .active
      ∧ (sSq ring0).fetchStopped = false ∧ recordAgrees (readRecord [1]) (ringSize ((sSq ring0).sq 5 0).log2) = false)
    ∧ (recordAgrees (readRecord [63, 0, 0, 0, 63]) (ringSize ((sSq ring0).sq 5 0).log2) = true
      ∧ ((readRecord [63, 0, 0, 0, 63]).seq - ((sSq ring0).sq 5 0).consumed).toNat < ringSize ((sSq ring0).sq 5 0).log2
      ∧ (sSq ring0).sqMemoryOk 5 0 = true)
    ∧ (((sSq { ring0 with fetching := 1 }).sq 5 0).fetching ≠ 0 ∧ ((sSq { ring0 with fetching := 1 }).sq 5 0).state = .active
      ∧ ((sSq { ring0 with fetching := 1 }).sq 5 0).failedSqe = 0)
    ∧ (((sCq.updCq 5 fun q => { q with state := .orphan }).cq 5).state = .orphan ∧ (sCq.cq 5).held = [] ∧ sCq.executing 5 = []
      ∧ ExemptRoom sCq)
    ∧ (((sCq.updCq 5 fun q => { q with timer := true, vector := 3 }).cq 5).timer = true ∧ sCq.gateOpen = true ∧ (sCq.fn .a 1).bme = true
      ∧ (sCq.fn .a 1).msixMask = false ∧ (3 : BitVec 11).toNat ∈ ((sCq.updFn .a 1 fun f => { f with unmasked := [3] }).fn .a 1).unmasked)
    ∧ ((sCq.updFn .a 1 fun f => { f with pba := [3] }).fn .a 1).pba = [(3 : BitVec 11).toNat] := by decide

theorem witness_SqeAdmission :
    ((zeros 128).length = 128 ∧ ((sSq { ring0 with fetching := 1 }).sq 5 0).state = .active ∧ (sSq ring0).ideCut ring0.port = false
      ∧ ((sSq { ring0 with fetching := 1 }).sq 5 0).fetching ≠ 0 ∧ ((sSq { ring0 with fetching := 1 }).sq 5 0).fenced = false
      ∧ ((sSq { ring0 with fetching := 1 }).sq 5 0).refusing = none)
    ∧ (entryChecks (sSq { ring0 with fetching := 1 }) 5 0 (toLE 2 0x0F01 ++ zeros 6 ++ toLE 2 5 ++ zeros 118) = none
      ∧ classKnown (toLE 2 0x0F01 ++ zeros 6 ++ toLE 2 5 ++ zeros 118) = false)
    ∧ (entryChecks (sSq { ring0 with fetching := 2 }) 5 0 (zeros 128)).isSome = true
    ∧ 1 < ((sSq { ring0 with fetching := 2 }).sq 5 0).fetching := by decide +kernel

/-- No other ring of it has published work. -/
theorem witness_SqeAdmission_alone (k : Nat) (h : k ≠ sqKey 5 0) : ((sSq { ring0 with fetching := 2 }).sq (k / 4) (k % 4)).work = 0 := by
  have g : ¬ 20 = 4 * (k / 4) + k % 4 := by unfold sqKey at h; omega
  simp [State.sq, sSq, sCq, sqKey, SMap.get, g, Sq.work]

/-! ## Pitches -/

/-- The owner's selector names pitch 5. -/
def sSel : State := sPitch.updPitSel (.ini 0x2F) fun x => { x with pitch := 5 }

theorem witness_PitchControl :
    (PitMay sSel (.ini 0x2F) ∧ sSel.selPitch (.ini 0x2F) = 5)
    ∧ ((sSel.pitch 5).state = .active ∧ (1 : Word).getLsbD 0 = true ∧ (1 : Word).getLsbD 1 = false)
    ∧ ((sSel.updPitch 5 fun v => { v with state := .suspended }).pitch 5).state = .suspended
    ∧ (1 ≤ (131072 : Word).toNat % 2 ^ 18 ∧ (131072 : Word).toNat % 2 ^ 18 ≤ 131072 ∧ (0 : Word).toNat % 2 ^ 18 = 0)
    ∧ ((4096 : Word).toNat % 2 ^ 13 ≤ 4096 ∧ sSel.reserveSum - (sSel.pitch 5).reserve + 4096 ≤ 65536)
    ∧ (let t := { sSel with pit := { sSel.pit with pitches := (List.range 17).map fun i => (i, { state := .active, reserve := 4096 }) } }
       65536 < t.reserveSum - (t.pitch 5).reserve + 4096)
    ∧ (s0.pitch 0).state = .free
    ∧ (sSel.isOwner (.ini 0x30) = false ∧ isSec (.ini 0x30) = false) := by decide

theorem witness_PitchSharesWindowsBlocks :
    (PitMay sSel secIni ∧ sSel.selPitch (.ini 0x2F) = 5)
    ∧ ((sSel.pitch 5).state = .active ∧ (4096 + 8192 * 65536 : Word).toNat % 2 ^ 13 ≤ 4096
      ∧ (4096 + 8192 * 65536 : Word).toNat / 2 ^ 16 % 2 ^ 14 ≤ 8192 ∧ sSel.kbcSum - (sSel.pitch 5).kbcCap + 4096 ≤ 4096
      ∧ sSel.dkcSum - (sSel.pitch 5).dkcCap + 8192 ≤ 8192 ∧ 4096 ≠ (sSel.pitch 5).kbcCap ∧ (sSel.pitch 5).gen ≠ 0xFFFF)
    ∧ (windowSetOk (padWindows (sSel.pitch 5).staged) = true
      ∧ windowSetOk (padWindows [{ base := 0xFFFFFFFFFFFFF000, pages := 2, read := true, portA := true }]) = false)
    ∧ ((sSel.pitSel (.ini 0x2F)).blk.toNat = 0 ∧ (sSel.pitch 0).state ≠ .deleting ∧ sSel.blockUsed 0 = 0
      ∧ sSel.pit.blocks.get .home 0 = .home ∧ (5 : Word).getLsbD 12 = false ∧ (sSel.pitch 5).state ≠ .deleting)
    ∧ ({ sSel with kst := { sSel.kst with slots := [(0, { attrs := 1 })] } } : State).blockUsed 0 ≠ 0 := by decide

/-! ## Zhoavan messages. A real quorum rests on signatures, which the model leaves open (log entry 4); a roster of threshold 0 meets
the hypothesis of a quorum that holds. -/

def ros0 : Roster := { officers := [], threshold := 0 }
def ros1 : Roster := { officers := [{ kind := 1, key := [1] }], threshold := 1 }
def hdr : ZHdr := { sender := .ini 0x2F, nonce := [1] }
def hdr5 : ZHdr := { sender := .ini 0x2F, nonce := [1], target := 5 }
def sGate : State :=
  { sSel with own := { sSel.own with
      houseRoster := some ros0,
      ceremonies := [{ nonce := [1], owner := .ini 0x2F, target := 0xFFFF, seed := [] }, { nonce := [1], owner := .ini 0x2F, target := 5, seed := [] }] } }
def gate5 (d : Bytes) : State := sGate.updPitch 5 fun v => { v with roster := some ros0, rosterDigest := d }
def sGate5 : State := gate5 (sha384 (rosterBytes ros0))

theorem gate5_roster (d : Bytes) : ((gate5 d).pitch 5).roster = some ros0 := rfl
theorem gate5_digest (d : Bytes) : ((gate5 d).pitch 5).rosterDigest = d := rfl

theorem quorum_none (d : Bytes) : quorumOk ros0 d [] = true := rfl

theorem gated_house (ty : BitVec 16) : Gated sGate ty hdr true := by
  refine ⟨by decide, by decide, by decide, ros0, rfl, quorum_none _⟩

theorem gated_pitch (ty : BitVec 16) : Gated sGate5 ty hdr5 false := by
  refine ⟨by decide, by decide, by decide, ros0, ?_, quorum_none _⟩
  unfold State.rosterFor State.pitchRoster sGate5
  simp [show hdr5.target.toNat = 5 from rfl, gate5_roster, gate5_digest]

theorem witness_PitchLifetime :
    Gated { sGate with own := { sGate.own with ceremonies := [{ nonce := [1], owner := .ini 0x2F, target := 6, seed := [] }] } } 0x0010
      { hdr with target := 6 } true
    ∧ ((6 : BitVec 16).toNat < 4096 ∧ sGate.lcsState = 2 ∧ (sGate.pitch 6).state = .free
      ∧ (createdPitch sGate { personality := some 0, roster := some ros1 }).isSome = true ∧ sGate.rosterOk ros1 = true)
    ∧ (Gated sGate 0x0011 { hdr with target := 5 } true ∧ Serving sGate 5)
    ∧ (let t := sGate.updPitch 5 fun v => { v with state := .deleting }
       (t.pitch 5).state = .deleting ∧ (t.pitch 5).inFlight = 0 ∧ (t.pitch 5).delStep = 0 ∧ t.storeWaits = false
        ∧ t.blockOwner (0 / 64) ≠ some 5)
    ∧ (let t := sGate.updPitch 5 fun v => { v with state := .deleting, delStep := 1 }
       (t.pitch 5).delStep ≠ 0 ∧ t.caches.sweeps = [] ∧ t.removalPending 5 = false ∧ t.csnClosed = false ∧ ExemptRoom t) := by
  refine ⟨⟨by decide, by decide, by decide, ros0, rfl, quorum_none _⟩, by decide,
    ⟨⟨by decide, by decide, by decide, ros0, rfl, quorum_none _⟩, by decide⟩, by decide, by decide⟩

theorem witness_MessageGate :
    ((0x0042, true, .zeroise hdr) ∈ gatedMessages hdr {} { entry := 0, form := 1 } 0 0 0 ⟨true, true, true, true, true⟩ [])
    ∧ (sGate.isOwner (.ini 0x30) = false)
    ∧ (Taken ({ sGate with par := { sGate.par with role := .standby } } : State) hdr
      ∧ ({ sGate with par := { sGate.par with role := .standby } } : State).carriesOut = false)
    ∧ ((0x0020 : BitVec 16) ∈ storeMessages ∧ (0x0042 : BitVec 16) ∉ storeMessages ∧ sGate.storeWaits = false
      ∧ ({ sGate with pwr := { sGate.pwr with quiet := true } } : State).storeWaits = true)
    ∧ (Carried sGate hdr ∧ ({ sGate with own := { sGate.own with ceremonies := [] } } : State).nonceFor hdr = none)
    ∧ (Room 0x0304 sGate ∧ (sGate.nonceFor hdr).isSome = true
      ∧ ∀ r, ({ sGate with own := { sGate.own with houseRoster := some ros1 } } : State).rosterFor true hdr.target = some r →
        quorumOk r (zhDigest 0x0042 hdr) hdr.sigs = false) := by
  refine ⟨?_, by decide, by decide, by decide, by decide, by decide, by decide, ?_⟩
  · unfold gatedMessages; simp
  · intro r h; cases h; rfl

theorem witness_OpenMessages :
    (Carried sGate hdr ∧ (sGate.drbg 9).state ≠ 2) ∧ ((5 : BitVec 16).toNat < 4096 ∧ Serving sGate 5 ∧ sGate.reserveSum ≤ 65536
      ∧ (sGate.pitch 5).kbcCap ≤ 4096 ∧ (sGate.pitch 5).dkcCap ≤ 8192 ∧ sGate.kbcSum ≤ 4096 ∧ sGate.dkcSum ≤ 8192 ∧ 1 ≤ 131072 ∧ 1 ≤ 255)
    ∧ (sGate.lcsState ≠ 5 ∧ sGate.lcsState ≠ 15 ∧ 1 ≤ (255 : BitVec 16).toNat ∧ (255 : BitVec 16).toNat ≤ 255)
    ∧ (sGate.isOwner (.ini 0x2F) = true
      ∧ ({ sGate with own := { sGate.own with fragment := some (1, [0]) } } : State).own.fragment = some (1, [0]) ∧ (1 : BitVec 16) ≠ 0
      ∧ (zeros 240).length ≤ 240 ∧ [(0 : Byte)].length + (zeros 240).length ≤ 16384 ∧ (2 : BitVec 16) ≠ 1) := by decide +kernel

/-- A key of pitch 5 in slot 320, the first of block 5. -/
def sKey (a : Attr) (k : Bytes) (s : State) : State :=
  { s with kst := { s.kst with slots := [(320, { key := padTo 32 k, attrs := a.pack })] } }
def aesData : Attr := { use := .d0, alg := .a, mode := .b, expo := 2, len := 16, owner := 5 }

theorem witness_PitchQuorumMessages :
    (Gated sGate5 0x0021 hdr5 false ∧ Serving sGate5 hdr5.target.toNat ∧ sGate5.storeWaits = false)
    ∧ ((sGate5.updPitch 5 fun v => { v with pmk := [some 320, none, none, none] }).pitch 5).pmk.getD 0 none = some 320
    ∧ sGate5.rosterOk ros1 = true
    ∧ ((1 : Nat) ≤ 3600 ∧ (3600 : Nat) ≤ 3600 ∧ (1 : Nat) ≤ 65535 ∧ (65535 : Nat) ≤ 65535)
    ∧ ((sKey { aesData with world := 2 } (zeros 16) sGate5).slotKey 320
        = some { val := zeros 16, attr := { aesData with world := 2 }, tag := {}, binding := .slot 320 0, slot := some 320 }
      ∧ (sKey { aesData with world := 2 } (zeros 16) sGate5).blockOwner (320 / 64) = some 5
      ∧ (sGate5.pitch 5).pmk.contains (some 320) = false
      ∧ widens { aesData with world := 2 } (Attr.unpack ({ aesData with world := 6 } : Attr).pack) = true)
    ∧ (let t := sGate5.updPitch 5 fun v => { v with exportAuth := some { seconds := 1, count := 1 } }
       (t.pitch 5).exportAuth = some { seconds := 1, count := 1 }) := by
  refine ⟨⟨gated_pitch _, by decide, by decide⟩, by decide, by decide, by decide, by decide, by decide⟩

/-! ## Lifecycle, the owner's messages, ownership -/

def allOk : BurnConditions := ⟨true, true, true, true, true⟩

/-- The gate's state with a battery, hold-up, an owner key, and a house roster of threshold 2 (its digest unsigned). -/
def sBurn : State :=
  { sGate with bat := { sGate.bat with vbat := true },
               lcs := { sGate.lcs with holdup := 50, fuses := { sGate.lcs.fuses with owner0 := { burned := true } } } }
def fuse (t c : BitVec 5) (s : State) : State := { s with lcs := { s.lcs with fuses := { s.lcs.fuses with lcsT := t, lcsC := c } } }

theorem gated_burn (ty : BitVec 16) : Gated sBurn ty hdr true := by
  refine ⟨by decide, by decide, by decide, ros0, rfl, quorum_none _⟩
theorem gated_fielded (ty : BitVec 16) : Gated (fuse 7 0x18 sBurn) ty hdr true := by
  refine ⟨by decide, by decide, by decide, ros0, rfl, quorum_none _⟩

theorem witness_LifecycleTransitions :
    (let t := { sBurn with own := { sBurn.own with houseRoster := some { officers := [], threshold := 2 } } }
     Carried t hdr ∧ ExemptRoom t ∧ (t.nonceFor hdr).isSome = true ∧ t.lcs.plan = [] ∧ t.burnCheck allOk true = 0 ∧ t.transitionOk hdr 3 = true)
    ∧ (sBurn.lcs.plan = [] ∧ sBurn.burnCheck allOk true = 0 ∧ sBurn.lcsState = 2)
    ∧ (Gated sBurn 0x0040 hdr true ∧ sBurn.transitionOk hdr 3 = false ∧ sBurn.transitionOk hdr 5 = true
      ∧ sBurn.burnCheck { allOk with rails := false } true ≠ 0)
    ∧ (let t := { sBurn with lcs := { sBurn.lcs with burnState := 1, plan := [.bit 3, .bit 4] } }
       t.lcs.burnState = 1 ∧ t.lcs.plan = .bit 3 :: .bit (3 + 1) :: [] ∧ t.lcs.fuses.lcsC.getLsbD 3 = true)
    ∧ ((fuse 0 0x1F sBurn).lcsState = 0 ∧ (fuse 0 0x1F sBurn).burnCheck allOk false = 0)
    ∧ ((fuse 1 0x1E sBurn).lcsState = 1 ∧ (fuse 1 0x1E sBurn).lcs.plan = [] ∧ (fuse 1 0x1E sBurn).lcs.fuses.drs = true
      ∧ (fuse 1 0x1E sBurn).burnCheck allOk true = 0 ∧ (fuse 1 0x1E sBurn).csnClosed = false) := by
  refine ⟨by decide, by decide, ⟨gated_burn _, by decide, by decide, by decide⟩, by decide, by decide, by decide⟩

def img (v : BitVec 16) : Image := { version := v, digest := [], content := [], sigMldsa := [], sigP384 := [] }

theorem witness_DeviceMessages :
    (Gated sBurn 0x0042 hdr true ∧ sBurn.kst.line = false ∧ sBurn.lcs.phase ≠ 1)
    ∧ (Carried sBurn hdr ∧ (0 : BitVec 2) ≠ 3 ∧ anyField3 0xAAAAAAAA 16 = false)
    ∧ (Gated (fuse 7 0x18 sBurn) 0x0044 hdr true ∧ (fuse 7 0x18 sBurn).lcsState = 3 ∧ fixedSource 6 = false
      ∧ (fuse 7 0x18 sBurn).classOf 6 < (2 : BitVec 2).toNat ∧ (fuse 7 0x18 sBurn).burnCheck allOk true = 0)
    ∧ (Gated sBurn 0x0046 hdr true ∧ (zeros 48).length = 48 ∧ sBurn.lcs.fuses.owner0.burned = true ∧ sBurn.lcs.fuses.owner1.burned = false)
    ∧ (Carried sBurn hdr ∧ sBurn.lcsState = 2 ∧ sBurn.burnCheck allOk true = 0)
    ∧ (let t := { sBurn with own := { sBurn.own with houseRecord := some ros0 }, bat := { sBurn.bat with latch := true } }
       Carried t hdr ∧ t.reintegrable = true ∧ (t.nonceFor hdr).isSome = true ∧ t.own.houseRecord = some ros0
        ∧ quorumOk ros0 (reintegrateDigest hdr) hdr.sigs = true)
    ∧ (let t := { sBurn with glb := { sBurn.glb with staged := some (img 5), minVersion := 5, minRecipe := 2 } }
       Gated t 0x0031 hdr true ∧ t.lcsState ≠ 4 ∧ t.glb.minVersion.toNat ≤ (img 5).version.toNat ∧ t.setAccepted (img 5) = true
        ∧ (img 4).version.toNat < t.glb.minVersion.toNat
        ∧ t.setAccepted { img 5 with recipes := some ⟨1, false, true, true, []⟩ } = false) := by
  refine ⟨⟨gated_burn _, by decide, by decide⟩, by decide, ⟨gated_fielded _, by decide, by decide, by decide, by decide⟩,
    ⟨gated_burn _, by decide, by decide, by decide⟩, by decide,
    ⟨by decide, by decide, by decide, rfl, quorum_none _⟩,
    ⟨⟨by decide, by decide, by decide, ros0, rfl, quorum_none _⟩, by decide, by decide, by decide, by decide, by decide⟩⟩

/-- A claim of candidate 0x2F with this device's fingerprint and the nonce `n`. -/
def claimOf (n : Bytes) : Bytes := [1, 0, 0x2F, 0, 0, 0, 0, 0] ++ n ++ deviceFingerprint ++ zeros 8 ++ [4] ++ zeros (claimLength - 65)

theorem print_length : deviceFingerprint.length = 16 := by
  simp [deviceFingerprint, padTo, zeros]; omega

set_option maxRecDepth 8000 in
theorem claim_form : claimFormOk 0x2F (claimOf (zeros 32)) = true ∧ slice (claimOf (zeros 32)) 8 32 = zeros 32
    ∧ claimKey (claimOf (zeros 32)) = 4 :: zeros 96 ∧ byteAt (claimOf (zeros 32)) 2 = 0x2F ∧ (byteAt (claimOf (zeros 32)) 0 = 1) := by
  have h := print_length
  unfold claimFormOk claimOf
  generalize deviceFingerprint = f at h
  match f, h with
  | [a0, a1, a2, a3, a4, a5, a6, a7, a8, a9, a10, a11, a12, a13, a14, a15], _ =>
    refine ⟨?_, rfl, rfl, rfl, rfl⟩
    have e : slice ([1, 0, 0x2F, 0, 0, 0, 0, 0] ++ zeros 32 ++ [a0, a1, a2, a3, a4, a5, a6, a7, a8, a9, a10, a11, a12, a13, a14, a15]
        ++ zeros 8 ++ [4] ++ zeros (claimLength - 65)) 0x28 16 = [a0, a1, a2, a3, a4, a5, a6, a7, a8, a9, a10, a11, a12, a13, a14, a15] := rfl
    simp only [e, decide_true, Bool.and_true]
    rfl

/-- Ownership in INTEGRATOR: a claim of candidate 0x2F waits, whose nonce is zeros; a candidate of the other port. -/
def sClaim (b : Bytes) : State :=
  { sOn with own := { sOn.own with owner := 0x30, state := 1, claims := [(0x2F, b)], candidates := [(0x2F, { nonce := zeros 32 })] },
             lcs := { sOn.lcs with fuses := { sOn.lcs.fuses with owner0 := { burned := true, revoked := true } } } }

theorem not_credential (b k : Bytes) : (sClaim b).credential k = false := by
  simp [State.credential, sClaim, OwnerSlot.live, sOn, s0, State.reset]

theorem witness_OwnershipChanges :
    (isCandidate 0x2F = true ∧ (1 : Word).getLsbD 0 = true ∧ sOn.hostCut (.ini 0x2F) = false)
    ∧ ((sClaim []).own.claims = (0x2F, []) :: [] ∧ isCandidate ((byteAt ([0, 0, 0x2F] : Bytes) 2).setWidth 6) = true
      ∧ claimFormOk 0x2F [0, 0, 0x2F] = false)
    ∧ (claimFormOk 0x2F (claimOf (zeros 32)) = true ∧ slice (claimOf (zeros 32)) 8 32 ≠ (s0.candidate 0x2F).nonce
      ∧ isCandidate ((byteAt (claimOf (zeros 32)) 2).setWidth 6) = true
      ∧ slice (claimOf (zeros 32)) 8 32 = ((sClaim []).candidate 0x2F).nonce
      ∧ (sClaim []).credential (claimKey (claimOf (zeros 32))) = false ∧ (sClaim []).firstClaim (claimOf (zeros 32)) = false)
    ∧ (let t := { sOn with own := { sOn.own with state := 1 } }
       t.isOwner (.ini 0x2F) = true ∧ t.hostCut (.ini 0x2F) = false ∧ t.own.state = 1 ∧ Draws t ∧ (0x30 : Word).getLsbD 8 = false ∧ isCandidate ((0x30 : Word).extractLsb' 0 6) = true
        ∧ (0x30 : Word).extractLsb' 0 6 ≠ t.own.owner ∧ t.linkIsDown ((0x30 : Word).extractLsb' 0 6) = false
        ∧ (0 : Word).extractLsb' 0 6 = 0 ∧ ExemptRoom t)
    ∧ (let t := { sOn with own := { sOn.own with state := 2, target := 0x2E } }
       t.isOwner (.ini 0x2F) = true ∧ t.hostCut (.ini 0x2F) = false ∧ t.own.state = 2 ∧ (0x100 : Word).getLsbD 8 = true ∧ t.own.target = 0x2E ∧ t.isOwner (.ini 0x30) = false)
    ∧ (let t := { sOn with own := { sOn.own with state := 1 }, rqe := s0.rqe }
       t.own.state ≠ 0 ∧ t.linkIsDown t.own.owner = true ∧ ExemptRoom t ∧ Draws t) := by
  obtain ⟨h1, h2, h3, h4, h5⟩ := claim_form
  refine ⟨by decide, by decide, ⟨h1, ?_, ?_, ?_, not_credential _ _, ?_⟩, by decide, by decide, by decide⟩
  · rw [h2]; decide
  · rw [h4]; decide
  · rw [h2]; decide
  · unfold State.firstClaim; rw [h5]; decide

/-! ## Key store, tamper, battery, tally -/

/-- A command of function 1 whose slot 320 waits for its restoration; slot 320 is in the journal; the churn waits for slot 328. -/
def waiting : Entry := { sqe := zeros 128, pitch := 5, sq := 0, port := .a, prio := 0, winSet := 0, restore := some (320, false) }
def sChurn (f : Kst → Kst) : State := { sOn with kst := f sOn.kst }
def sRestore : State :=
  { sOn with sch := { sOn.sch with entries := [(7, some waiting)] },
             kst := { sOn.kst with journal := [{ csn := 3, what := .slot 320 { attrs := 1 } }], restoring := some (328, false) } }

theorem witness_ChurnAndRestore :
    (sOn.churnPaused = false ∧ sOn.kst.cleared = false ∧ sOn.kst.restoring = none ∧ sOn.kst.boundary < 262144
      ∧ (0 : BitVec 18).toNat = sOn.kst.boundary)
    ∧ (let t := sChurn fun k => { k with boundary := 262144 }
       t.churnPaused = false ∧ t.kst.cleared = false ∧ t.kst.restoring = none ∧ t.kst.boundary = 262144)
    ∧ (let t := { sOn with pwr := { sOn.pwr with quiet := true } }
       t.churnPaused = true ∧ ExemptRoom t)
    ∧ (sRestore.waitingFor (320 : BitVec 18).toNat ≠ [] ∧ sRestore.sealedSlot (320 : BitVec 18).toNat = some { attrs := 1 }
      ∧ sRestore.churnFor (328 : BitVec 18).toNat ≠ none ∧ sRestore.waitingFor (321 : BitVec 18).toNat = []
      ∧ sRestore.churnFor (321 : BitVec 18).toNat = none) := by decide +kernel

theorem witness_ErasureJournalFlushes :
    (sChurn fun k => { k with line := true }).kst.line = true ∧ sOn.kst.line = false
    ∧ ((sChurn fun k => { k with phase := 3 }).kst.phase = 3 ∧ (sOn.drbg 3).kat = false ∧ (3 : Nat) ∈ [3, 4])
    ∧ sOn.kst.writing = []
    ∧ (sOn.kst.opened = true ∧ (sOn.drbg 9).state ≠ 2 ∧ sOn.kst.journal.length < 8)
    ∧ (let t := { sOn with units := { sOn.units with drbgs := [(9, { state := 2 })] } }
       t.kst.opened = true ∧ (t.drbg 9).state = 2)
    ∧ ((1 : Word).getLsbD 0 = true ∧ isSec (.ini 2) = false
      ∧ ({ valid := true } : KbcEntry) ≠ {} ∧ kbcKey 6 0 / 2 ^ 22 ≠ (sOn.selOf secIni).kbcPitch.toNat
      ∧ ({ valid := true } : DkcEntry) ≠ {} ∧ dkcKey 6 0 / 2 ^ 23 ≠ (sOn.selOf secIni).dkcPitch.toNat) := by decide

/-- The sources are watched: the fuses are sensed and handed over. -/
def sTmp : State :=
  { sOn with tmp := { sOn.tmp with handover := true, class0 := ⟨0x80000000, 0x7FFFFFFF⟩, class2 := ⟨0x40000000, 0xBFFFFFFF⟩ } }
def tmp (f : Tmp → Tmp) (s : State) : State := { s with tmp := f s.tmp }

theorem witness_TamperAlarms :
    (∀ n ∈ [15, 14, 47], sTmp.watched n = true ∧ sTmp.tmp.disabled.getLsbD n = false ∧ sTmp.tmp.active.getLsbD n = false)
    ∧ (sTmp.tmp.handover = true ∧ sTmp.kst.line = false ∧ sTmp.classOf 15 = 2 ∧ sTmp.tmp.disarmed.getLsbD 15 = false ∧ sTmp.classOf 47 = 1
      ∧ sTmp.classOf 14 = 0 ∧ sTmp.tmp.window = none ∧ Routed (376 + 15) ({ sTmp with evc := { sTmp.evc with routes := [(391, { sec := true })] } } : State))
    ∧ (sOn.tmp.handover = false ∧ (tmp (fun t => { t with disabled := 1 <<< 10 }) sTmp).tmp.disabled.getLsbD 10 = true)
    ∧ (let t := tmp (fun t => { t with active := 1 <<< 10, inForce := 1 <<< 10 }) sTmp
       t.tmp.active.getLsbD 10 = true ∧ t.tmp.inForce.getLsbD 10 = true)
    ∧ (let t := tmp (fun t => { t with releasing := 1 <<< 10 }) sTmp
       t.tmp.releasing.getLsbD 10 = true ∧ t.passPending 10 = false ∧ t.tmp.releasing.getLsbD 11 = false)
    ∧ (let t := tmp (fun t => { t with window := some ⟨1, 0, 0⟩ }) sTmp
       t.tmp.window = some ⟨1, 0, 0⟩ ∧ t.tmp.eraseWindow = false ∧ Room 0x0101 t ∧ ExemptRoom t) := by decide +kernel

/-- A source of class ERASE raises the erase line at once (R361). -/
theorem test_tamper_erase : ∃ t, exec (.tamperQualify 15) sTmp = .next t ∧ t.kst.line = true ∧ t.bat.latchSource = 1 := ⟨_, rfl, by decide +kernel⟩

theorem witness_MonitorsAndBalls :
    ((∀ i, i < 4 → sTmp.watched (meshNet i) = true)
      ∧ (let t := tmp (fun t => { t with meshRuns := [(0, 1)] }) sTmp
         (1 : BitVec 6).getLsbD 0 = true ∧ 1 ≤ t.tmp.meshRuns.get 0 0 ∧ t.tmp.handover = true ∧ t.tmp.disabled.getLsbD (meshNet 0) = false
          ∧ t.tmp.active.getLsbD (meshNet 0) = false))
    ∧ (let t := tmp (fun t => { t with encCfg := ⟨0x00010001, 0xFFFEFFFE⟩ }) sTmp
       classField t.tmp.encCfg.val 0 = 1 ∧ (1 : BitVec 8).getLsbD 0 = true
        ∧ (t.tmp.encCfg.val.extractLsb' 16 8).toNat ≤ t.tmp.encRuns.get 0 0 + 1 ∧ t.tmp.disabled.getLsbD (34 + 0) = false
        ∧ t.tmp.active.getLsbD (34 + 0) = false)
    ∧ (let t := tmp (fun t => { t with tempRuns := [(1, 2)] }) sTmp
       t.tempHigh < (126 : BitVec 8).toInt ∧ 2 ≤ t.tmp.tempRuns.get 0 1 ∧ t.tmp.disabled.getLsbD 1 = false ∧ t.tmp.active.getLsbD 1 = false
        ∧ t.kst.line = false ∧ t.tmp.disarmed.getLsbD 1 = false)
    ∧ (sTmp.tempLow ≤ (20 : BitVec 8).toInt ∧ (20 : BitVec 8).toInt < sTmp.tempHigh - 15)
    ∧ (let c : ClockCounts := ⟨5120, 5120, 7000, 7680, 8192, 5463, 3300⟩
       (17, 559, c.core, 6400) ∈ monitored c ∧ deviates c.core 6400 = true ∧ deviates c.hifA 5120 = false) := by decide +kernel

theorem witness_BatteryDomain :
    (s0.bat.vbat = false ∧ s0.bat.copy = none)
    ∧ (let t := { s0 with bat := { s0.bat with copy := some firstCopy } }
       t.bat.copy = some firstCopy ∧ batBit 30 = some 2 ∧ firstCopy.watches 30 = true ∧ firstCopy.classOf 30 = 2 ∧ t.bat.tally.length < 16)
    ∧ (let t := { s0 with bat := { s0.bat with tally := List.replicate 16 { number := 0, sources := 0, cls := 0, seconds := 0, ticks := 0, celsius := 0, millivolt := 0 } } }
       16 ≤ t.bat.tally.length)
    ∧ batBit 6 = none ∧ s0.bat.copy = none := by decide +kernel

/-- A record held by number 3, of source 9's claim, a failing page. -/
def rec3 : TallyRec := { number := 3, code := 0x0102, actor := 1, event := 0, csn := 0, own := true, seconds := 0, cycles := 0 }
def sTly : State :=
  { sOn with tly := { sOn.tly with buffer := [rec3], flushing := 1, retries0 := 2, missing := [(0x0102, 2)] },
             evc := { sOn.evc with pend := [(24, [40, 41])], routes := [(472, { sec := true }), (476, { sec := true })] },
             sel := [(1, { tlyNum := 3, tlyState := 1 }), (2, { tlyNum := 4, tlyState := 1 })] }

theorem witness_TallyAndEvents :
    (sOn.tly.held = [] ∧ sOn.tly.flushing = 0)
    ∧ (sTly.tly.flushing ≠ 0 ∧ sTly.tly.faulty0 = false ∧ sTly.tly.staging = [] ∧ sTly.tly.droppedUnreported = 0
      ∧ sTly.tly.tail.length + sTly.tly.flushing ≤ 10240 ∧ Routed 472 sTly)
    ∧ (2 : Nat) ≤ (sTly.tly.missing.get 0 0x0102) ∧ (17 : BitVec 5).toNat < 18 ∧ sTly.ideCut .a = false ∧ sTly.hostCut secIni = false
    ∧ (let t := { sTly with tly := { sTly.tly with faulty0 := true, faulty1 := true } }
       t.tly.flushing ≠ 0 ∧ t.tly.faulty0 = true ∧ t.tly.faulty1 = true)
    ∧ (sTly.tly.retries0 = 2 ∧ Routed 476 sTly)
    ∧ ({ sTly with tly := { sTly.tly with erasing := true } } : State).tly.erasing = true
    ∧ (sTly.tlyAccess secIni = true ∧ (sTly.selOf secIni).tlyState = 1 ∧ sTly.tallyFind (sTly.selOf secIni).tlyNum = some rec3
      ∧ sTly.tallyFind 4 = none)
    ∧ (sTly.evc.pend.get [] 24 = 40 :: [41] ∧ sOn.evc.pend.get [] 24 = []) := by decide +kernel

/-! ## Cores, engines, the pair -/

/-- An SQE of pitch 5: opcode, tag 0, flags, and its bytes from 0x10. -/
def sqeOf (op fl : Nat) (rest : Bytes) : Bytes := padTo 128 (toLE 2 op ++ [0, BitVec.ofNat 8 (fl % 256)] ++ zeros 4 ++ toLE 2 5 ++ zeros 6 ++ rest)
def cmdOf (op : Nat) (ph : Phase) : Entry := { sqe := sqeOf op 0 [], pitch := 5, sq := 0, port := .a, prio := 0, winSet := 0, phase := ph }

/-- A command of route C, 0x0F02, in queue 4 of personality 0, and the cores idle. -/
def sQueued : State :=
  { sCq.updPitch 5 (fun v => { v with weight := 16 }) with
             sch := { sCq.sch with entries := [(7, some (cmdOf 0x0F02 .queued))], queues := [(8, { turn := [5], cmds := [7] })] },
             cmc := { sCq.cmc with cores := (List.range 24).map fun c => (c, { state := .idle }) } }

theorem witness_Dispatch :
    ((sQueued.core 0).state = .idle ∧ (sQueued.core 0).blocked = false ∧ (sQueued.core 0).entry = none ∧ (sQueued.core 0).drain = false
      ∧ sQueued.dispatchStopped = false ∧ sQueued.entry 7 = some (cmdOf 0x0F02 .queued)
      ∧ (selectCmd (sQueued.core 0).maskNext (sQueued.updCore 0 fun k => { k with mask := k.maskNext, completed := false, boundPitch := none })).map (·.1) = some 7)
    ∧ (sQueued.served 0xF = [8] ∧ (sQueued.queue 8).cmds = [7] ∧ (sQueued.queue 8).turn = [5] ∧ sQueued.pitchOf 7 = 5
      ∧ 1 ≤ (sQueued.pitch 5).weight ∧ sQueued.costOf 7 ≤ 4112)
    ∧ (let t := { sQueued with tmp := { sQueued.tmp with hold := true } }
       (t.core 0).state = .idle ∧ t.dispatchStopped = true ∧ t.sch.timeoutUs ≠ 0 ∧ ({ t with sch := { t.sch with timeoutUs := 0 } } : State).sch.timeoutUs = 0)
    ∧ ((sQueued.updCore 0 fun k => { k with blocked := true }).core 0).blocked = true
    ∧ (let t := { sCq with sch := { sCq.sch with entries := [(7, some (cmdOf 0x0F02 .admitted))] } }
       t.entry 7 = some (cmdOf 0x0F02 .admitted) ∧ t.onRecipe (cmdOf 0x0F02 .admitted) = false ∧ t.fenceWaits (cmdOf 0x0F02 .admitted) = false
        ∧ (cmdOf 0x0F02 .admitted).replayWait = false ∧ (cmdOf 0x0F02 .admitted).ctx = none ∧ t.blockedCores = []) := by decide +kernel

/-- Core 0 runs that command. -/
def sBound (x : Entry) (f : Core → Core) : State :=
  { sQueued with sch := { sQueued.sch with entries := [(7, some x)], queues := [] } }.updCore 0 fun k =>
    f { k with state := .busy, entry := some 7 }
def boundCmd (n : Nat) : Entry := { cmdOf 0x0F02 (.bound 0) with sqe := sqeOf 0x0F02 0 (zeros 16 ++ toLE 8 0x1000 ++ toLE 4 n ++ toLE 4 4096) }

theorem in_core (c : Nat) (n : BitVec 17) (h : n.toNat ≤ 65536 := by decide) : inCoreMemory c (Config.sramBase c).toNat n.toNat = true := by
  simp [inCoreMemory]; omega

theorem witness_CoreCompletion :
    (let t := sBound (boundCmd 64) fun k => { k with hrdLen := 64, hrdDst := Config.sramBase 0 }
     (t.core 0).entry = some 7 ∧ t.entry 7 = some (boundCmd 64) ∧ (t.core 0).state = .busy ∧ (t.core 0).hrdStatus ≠ 1
      ∧ (t.core 0).hrdLen.toNat = 64 ∧ (t.core 0).hrdOff.toNat + (t.core 0).hrdLen.toNat ≤ fieldLE (boundCmd 64).sqe 0x28 4
      ∧ inCoreMemory 0 (t.core 0).hrdDst.toNat (t.core 0).hrdLen.toNat = true)
    ∧ ((sBound (boundCmd 0) id).core 0).hrdLen = 0
    ∧ (((sBound (boundCmd 64) fun k => { k with hrdStatus := 1 }).core 0).hrdStatus = 1 ∧ (sBound (boundCmd 64) id).ideCut .a = false
      ∧ (sBound (boundCmd 64) id).kst.readable = true ∧ (boundCmd 64).committedC = false
      ∧ ({ boundCmd 64 with sqe := sqeOf 0x0103 0 [], csn := some 4 } : Entry).committedC = true)
    ∧ ((0x0101 : BitVec 16).toNat ∈ statusCodes ∧ (0x9999 : BitVec 16).toNat ∉ statusCodes ∧ (boundCmd 64).prepared = none
      ∧ ((sBound (boundCmd 64) id).core 0).resLen.toNat ≤ fieldLE (boundCmd 64).sqe 0x2C 4 ∧ Room 0x0505 (sBound (boundCmd 64) id)) := by
  refine ⟨⟨rfl, rfl, rfl, by decide +kernel, rfl, by decide +kernel, in_core _ _⟩, by decide +kernel, by decide +kernel, by decide +kernel⟩

def sSel0 (f : Core → Core) : State := { sQueued with sch := {}, sel := [(1, { cmcCore := 0 })] }.updCore 0 f

/-- A recipe for ECHO, and a set of it. -/
def echoRecipe : Recipe := { opcode := 0x0F01, personality := 0, steps := 1, budget := 1, digest := sha384 [1], body := [1] }
def set1 : RecipeSet := ⟨1, true, true, true, [echoRecipe]⟩

theorem witness_CoresAndRecipes :
    ((sSel0 id).selOf secIni).cmcCore.toNat = 0
    ∧ (((sSel0 fun k => { k with state := .busy }).core 0).state = .busy ∧ ((sSel0 id).core 0).blocked = false)
    ∧ (let t := { sSel0 (fun k => { k with blocked := true }) with dma := [(0, { state := 1 })] }
       (t.core 0).state = .idle ∧ (t.core 0).blocked = true ∧ chanRunning (t.chan (2 * 0)) = true)
    ∧ (((sSel0 fun k => { k with state := .off }).core 0).state = .off ∧ (sSel0 id).bst.out.contains 83 = false
      ∧ (sSel0 id).bst.retired.contains 83 = false)
    ∧ ((sSel0 id).masksOk 0 1 = true ∧ sOn.masksOk 0 1 = false)
    ∧ (((sSel0 fun k => { k with state := .loading }).core 0).state = .loading ∧ sOn.cmc.updRunning = false ∧ ExemptRoom sOn)
    ∧ (let t := sSel0 fun k => { k with state := .draining, drainReturned := true }
       (t.core 0).state = .draining ∧ (t.core 0).drainReturned = true ∧ (t.chan 0).ended ≠ some 7 ∧ (t.chan 1).ended ≠ some 7)
    ∧ (let t := sSel0 fun k => { k with state := .busy }
       ({ t with cmc := { t.cmc with updRunning := true, updDone := false, updFailed := false, updRollback := false } } : State).nextUpdate 0 = some 0
        ∧ (t.core 0).state = .busy ∧ (t.core 0).blocked = false)
    ∧ (let t := { sOn with glb := { sOn.glb with recipes := some set1 } }
       t.switching = false ∧ setOk set1 = true ∧ t.glb.minRecipe.toNat ≤ set1.version.toNat ∧ t.glb.recipes = some set1)
    ∧ (({ sOn with cmc := { sOn.cmc with ctxs := [(0, { held := some (7, 5, !sOn.cmc.activeBank) })] } } : State).switching = true
      ∧ setOk { set1 with sigP384Ok := false } = false ∧ sOn.glb.recipes ≠ some set1)
    ∧ ∀ r ∈ [echoRecipe, { echoRecipe with digest := [] }, { echoRecipe with branchesOnSecret := true }, { echoRecipe with steps := 1025 }],
        (r = echoRecipe ∨ r.digest ≠ sha384 r.body ∨ r.branchesOnSecret = true ∨ 1024 < r.steps)
          ∧ setOk { set1 with recipes := [r] } = decide (r = echoRecipe) := by decide +kernel

/-- The command whose big-number operation, or lattice operation, is prepared. -/
def prepCmd (ph : Phase) (n : Nat) (check : Bool) : Entry := { cmdOf 0x0801 ph with prepared := some { engine := n, check := check, result := [1] } }

/-- An engine works for it; another may check its signature. -/
def sEng (x : Entry) (hand : Bool) (check : Option Nat) : State :=
  let s := sBound x id
  { s with units := { s.units with pke := [(0, { state := 1, entry := some 7, core := some 0, handover := hand, checks := check })] } }
def sStopped (s : State) : State := { s with par := { s.par with yieldStep := 1 } }

theorem witness_EngineOperations :
    (let t := sBound (prepCmd (.bound 0) 1 false) id
     (t.core 0).entry = some 7 ∧ t.entry 7 = some (prepCmd (.bound 0) 1 false) ∧ (prepCmd (.bound 0) 1 false).prepared = some { engine := 1, result := [1] }
      ∧ engKind false = 1 ∧ t.units.reqs = [] ∧ t.outstandingOf 0 < 16 ∧ t.enginesStopped = false ∧ (sStopped t).enginesStopped = true
      ∧ (List.range (engCount false)).find? (t.engFree false) = some 0)
    ∧ ((sQueued.core 0).entry = none ∧ Routed (504 + ((0 : BitVec 5).toNat + 1) % 40)
        ({ sQueued with evc := { sQueued.evc with routes := [(505, { sec := true })] } } : State))
    ∧ (let t := sEng (prepCmd (.bound 0) 1 false) false none
       (t.engine false 0).entry = some 7 ∧ (t.engine false 0).state = 1 ∧ (t.engine false 0).behind = false ∧ t.pwr.quiet = false
        ∧ t.entry 7 = some (prepCmd (.bound 0) 1 false) ∧ t.units.reqs = [])
    ∧ (let t := sEng (prepCmd .handed 1 false) true none
       t.entry 7 = some (prepCmd .handed 1 false) ∧ (prepCmd .handed 1 false).phase = .handed ∧ (t.engine false 0).handover = true)
    ∧ (let t := sEng (prepCmd (.bound 0) 1 true) false none
       t.entry 7 = some (prepCmd (.bound 0) 1 true) ∧ t.enginesStopped = false ∧ (sStopped t).enginesStopped = true
        ∧ (List.range (engCount false)).find? (t.engFree false) = some 1)
    ∧ (let t := sEng (prepCmd (.bound 0) 1 true) false (some 1)
       (t.engine false 0).checks = some 1 ∧ t.pwr.quiet = false ∧ t.entry 7 = some (prepCmd (.bound 0) 1 true) ∧ (1 : Nat) ≠ 0
        ∧ checkPasses true { engine := 1, check := true, result := [1] } = true
        ∧ checkPasses false { engine := 1, check := true, result := [1] } = false
        ∧ ({ t with tmp := { t.tmp with handover := true } } : State).tmp.handover = true ∧ t.tmp.disabled.getLsbD 46 = false) := by decide +kernel

/-- A device of a pair: its role, a trained link, a session, a roster that names the peer. -/
def sPair (r : Role) (f : Par → Par) : State :=
  { sOn with par := f { sOn.par with role := r, linkUp := true, session := some (zeros 64) } }
def peerNamed (s : State) : State :=
  { s with own := { s.own with houseRoster := some { officers := [], threshold := 0, pair := some (zeros 16) } },
           kst := { s.kst with bond := some (zeros 16 ++ zeros 64) } }
def offer0 : BondOffer :=
  { kemKey := [], point := [], nonce := [], p384Key := [], mldsaKey := [], chain := [], roster := ros0, sigP384 := [], sigMldsa := [] }

theorem witness_PairLink :
    (s0.par.role ≠ .single ∧ (sPair .standby id).glb.startDone = true ∧ (1 : BitVec 2) ≠ 0 ∧ sOn.pwr.down.getLsbD 8 = false ∧ sOn.peerPrint = none)
    ∧ (let t := peerNamed (sPair .standby id)
       t.bondKey = some (zeros 64) ∧ t.peerPrint = some (zeros 16) ∧ t.par.role = .standby)
    ∧ (let t := sPair .standby fun p => { p with ownOffer := some offer0, offer := some offer0 }
       t.par.linkUp = true ∧ t.bondKey = none ∧ t.par.ownOffer.isSome = true ∧ ExemptRoom t ∧ t.par.offer = some offer0)
    ∧ ((sPair .active id).claims = true ∧ (sPair .active id).linked = true ∧ 10 ≤ (sPair .active id).glb.step.toNat)
    ∧ ((sPair .standby fun p => { p with linkUp := false }).par.role = .standby ∧ (sPair .standby fun p => { p with linkUp := false }).par.linkUp = false) := by
  decide +kernel

theorem witness_Takeover :
    ((sPair .standby id).par.role = .standby ∧ (sPair .standby id).glb.startDone = true ∧ (sPair .standby id).par.peerClaim = false
      ∧ (sPair .standby fun p => { p with peerClaim := true }).par.peerClaim = true ∧ ExemptRoom (sPair .standby id))
    ∧ (let t := sPair .waiting fun p => { p with takeStep := 1, grant := true, peerClaim := true }
       t.par.takeStep = 1 ∧ t.par.grant = true ∧ t.par.peerClaim = true ∧ t.par.role = .waiting ∧ t.par.role ≠ .single)
    ∧ Instr.peerClaimAssert ∈ [Instr.peerClaimAssert, .witGrantLoss]
    ∧ (s0.par.role ≠ .single ∧ s0.par.takeStep ≠ 1 ∧ s0.claims = false ∧ (sPair .active id).claims = true)
    ∧ sOn.par.role = .single := by decide +kernel

def skim1 (ok : Bool) (l : List SkimRecord) (e : Nat) : Skim := { epoch := e, csn := 9, records := l, tagOk := ok }

theorem witness_MirrorResyncYield :
    ((sPair .active id).par.role = .active ∧ (sPair .active id).par.yieldStep = 0 ∧ (sPair .active id).linked = true)
    ∧ ((sPair .standby id).par.role = .standby ∧ (sPair .standby id).linked = true
      ∧ (skim1 true [.slot 320 9 [1] 1 1 {}] 1).epoch = (sPair .standby id).par.lastEpoch + 1
      ∧ (skim1 true [.pmk 5 9 [none]] 1).tagOk = true ∧ (skim1 true [.block 5 9 none] 2).epoch ≠ (sPair .standby id).par.lastEpoch + 1
      ∧ (skim1 false [] 1).tagOk = false ∧ 16 ≤ (sPair .standby fun p => { p with tagFailures := 16 }).par.tagFailures)
    ∧ (let t := sPair .active fun p => { p with unacked := [(0, 3)], soloWait := true }
       t.par.unacked ≠ [] ∧ t.par.role = .active ∧ t.par.yieldStep = 0 ∧ t.par.soloWait = true)
    ∧ ((sPair .waiting id).bat.latch = false ∧ (sPair .waiting id).linked = true ∧ (sPair .waiting id).par.role = .waiting
      ∧ (sPair .waiting id).par.resyncing = false
      ∧ ({ s0 with bat := { s0.bat with latch := true } } : State).bat.latch = true)
    ∧ ((sPair .active fun p => { p with peerRole := 3 }).isOwner (.ini 0x2F) = true ∧ (sPair .active id).hostCut (.ini 0x2F) = false ∧ (sPair .active fun p => { p with peerRole := 3 }).par.peerRole = 3
      ∧ (sPair .active fun p => { p with peerRole := 3 }).par.unacked = [] ∧ (sPair .active id).par.peerRole ≠ 3
      ∧ (sPair .active id).isOwner (.ini 0x30) = false)
    ∧ (let t := sPair .yielding fun p => { p with yieldStep := 1 }
       t.par.yieldStep = 1 ∧ t.par.role = .yielding ∧ t.linked = true)
    ∧ sOn.linked = false := by decide +kernel

/-! ## Ring commands: keys in slots 320 and 328 of pitch 5, a command of that pitch on core 0 -/

def slotRef (n : Nat) : Nat := 2 ^ 60 + n

/-- An SQE: opcode, flags, references, data length, result capacity, inline bytes. -/
def sqe (op flags a b dlen cap : Nat) (inl : Bytes) : Bytes :=
  padTo 128 (toLE 2 op ++ [0, BitVec.ofNat 8 flags] ++ zeros 4 ++ toLE 2 5 ++ zeros 6 ++ toLE 8 a ++ toLE 8 b ++ toLE 8 0x1000 ++ toLE 4 dlen
    ++ toLE 4 cap ++ zeros 16 ++ inl)
def cmd (op flags a b dlen cap : Nat) (inl : Bytes) : Entry :=
  { sqe := sqe op flags a b dlen cap inl, pitch := 5, sq := 0, port := .a, prio := 0, winSet := 0, phase := .bound 0 }

/-- The slots of a key: its run and its attributes. -/
def keyAt (n : Nat) (a : Attr) (k : Bytes) : SMap Slot :=
  (List.range (runSlots a.len)).map fun i =>
    (n + i, { key := padTo 32 (slice k (32 * i) 32), attrs := if i = 0 then a.pack else tailAttrs a.owner 2 })
def sCmd (x : Entry) (ks : SMap Slot) : State :=
  let s := sBound x id
  { s with kst := { s.kst with slots := ks } }

/-- A key of pitch 5 as its slot gives it. -/
def keyIn (n : Nat) (a : Attr) (k : Bytes) : Key :=
  { val := k, attr := { a with owner := 5 }, tag := {}, binding := .slot (BitVec.ofNat 18 n) 0, slot := some n }
def dataKey : Attr := { use := .d0, alg := .a, mode := .b, expo := 2, len := 16, owner := 5 }
def env0 : CmdEnv := {}
def text (d : Bytes) : CmdEnv := { data := .data d }

/-- The state of command 7 after the capture of these keys. -/
def got (l : List Key) (s : State) : State := kept 7 (l.map fun k => some (k, 0)) s

theorem witness_CommandOutcomes :
    ((sCmd (cmd 0x0F01 0 0 0 0 0 []) []).entry 7 = some (cmd 0x0F01 0 0 0 0 0 []) ∧ (cmd 0x0F01 0 0 0 0 0 []).discard = false
      ∧ (cmd 0x0F01 0 0 0 0 0 []).csn = none)
    ∧ (let x := cmd 0x0F01 0 0 0 3 64 [1, 2]
       Runs (sCmd x []) 7 (text [7, 8, 9]) 0x0F01 x ∧ Formed x 0 [(offA, [0]), (offB, [0])] [(0x40, 64)] [.none, .none]
        ∧ Input (sCmd x []) x (text [7, 8, 9]) [7, 8, 9] ∧ 3 ≤ x.resultCap)
    ∧ (let x := cmd 0x0F02 0 0 0 0 64 (toLE 4 16)
       Runs (sCmd x []) 7 env0 0x0F02 x ∧ Formed x 0 [(offA, [0]), (offB, [0])] [(0x40, 4)] [.none, .none] ∧ x.dataLen = 0
        ∧ x.num 0x40 4 = 16 ∧ x.num 0x40 4 ≤ x.resultCap ∧ ((sCmd x []).drbg x.drbg).state ≠ 2)
    ∧ (let x := cmd 0x0F03 0 0 0 0 64 []
       Runs (sCmd x []) 7 env0 0x0F03 x ∧ Formed x 0 [(offA, [0]), (offB, [0])] [] [.none, .none] ∧ x.dataLen = 0 ∧ 64 ≤ x.resultCap) := by
  decide +kernel

/-- ECHO answers its data (R127). -/
theorem test_echo : let x := cmd 0x0F01 0 0 0 3 64 [1, 2]
    ∃ t, exec (.echo 7 (text [7, 8, 9])) (sCmd x []) = .next t ∧ (t.entry 7).bind (·.prepared) = some { result := [7, 8, 9], inline := 0x201 } :=
  ⟨_, rfl, by decide +kernel⟩

def xKcv : Entry := cmd 0x0104 0 (slotRef 320) 0 0 0 [0]
def sKcv (a : Attr) : State := sCmd xKcv (keyAt 320 a (zeros 16))

/-- The same with a block in host memory, and with a handle. -/
def xHost (w : List Window) : Entry := { cmd 0x0104 0 (2 * 2 ^ 60 + 64 * 2 ^ 48 + 0x2000) 0 0 0 [0] with windows := w }
def xHandle : Entry := cmd 0x0104 0 (handleValue 1 2 3) 0 0 0 [0]
def wholeWindow : Window := { base := 0, pages := 256, read := true, write := true, portA := true, portB := true }
def sCached : State :=
  let s := (sCmd xHandle []).updPitch 5 fun v => { v with kbcCap := 1 }
  { s with caches := { s.caches with kbcEpoch := 1, kbc := [(kbcKey 5 3, { valid := true, gen := 0, seq := 2, attrs := dataKey.pack, key := zeros 16 })] } }

theorem witness_KeyChecks :
    (Runs (sKcv dataKey) 7 env0 0x0104 xKcv ∧ xKcv.captured = none ∧ Formed xKcv 0 [(offA, anyType), (offB, [0])] [(0x40, 1)] [.slot 320, .none] ∧ xKcv.byte 0x40 ≤ 1
      ∧ xKcv.dataLen = 0 ∧ (sKcv dataKey).bat.latch = false)
    ∧ (let x := cmd 0x0104 0 (slotRef 320) 0 4 0 [0]
       Runs (sCmd x []) 7 env0 0x0104 x ∧ Formed x 0 [(offA, anyType), (offB, [0])] [(0x40, 1)] [.slot 320, .none] ∧ x.dataLen ≠ 0)
    ∧ (let s := { sKcv dataKey with bat := { (sKcv dataKey).bat with latch := true } }
       Runs s 7 env0 0x0104 xKcv ∧ s.bat.latch = true)
    ∧ (Formed (xHost []) 0 [(offA, anyType), (offB, [0])] [(0x40, 1)] [.host 64 0x2000, .none]
      ∧ windowCovers (xHost []).windows (xHost []).port false (BitVec.ofNat 64 0x2000) 64 = false
      ∧ windowCovers (xHost [wholeWindow]).windows (xHost [wholeWindow]).port false (BitVec.ofNat 64 0x2000) 64 = true
      ∧ Runs (sCmd (xHost [wholeWindow]) []) 7 { env0 with blkA := .failed .timeout } 0x0104 (xHost [wholeWindow])
      ∧ (sCmd (xHost [wholeWindow]) []).hostRead (xHost [wholeWindow]).port (.failed .timeout) = .failed .timeout)
    ∧ ((sKcv dataKey).blockOwner (0 / 64) ≠ some 5 ∧ (sKcv dataKey).blockOwner (320 / 64) = some 5
      ∧ Runs (sKcv dataKey) 7 { env0 with slotFault := .double 320 } 0x0104 xKcv ∧ (320 : BitVec 18).toNat < 320 + (sKcv dataKey).runOf 320
      ∧ env0.slotFault = .clean
      ∧ (sKcv dataKey).slotKey 321 = none ∧ (sKcv dataKey).slotKey 320 = some (keyIn 320 dataKey (zeros 16)))
    ∧ ((sKcv { dataKey with world := 4 }).slotKey 320 = some (keyIn 320 { dataKey with world := 4 } (zeros 16))
      ∧ (keyIn 320 { dataKey with world := 4 } (zeros 16)).attr.world.testBit (runOf 7 env0 xKcv).world = false
      ∧ (keyIn 320 { dataKey with life := 4 } (zeros 16)).attr.life.testBit ((sKcv dataKey).lcsState - 1) = false)
    ∧ (Allowed (sKcv dataKey) (runOf 7 env0 xKcv) false (keyIn 320 dataKey (zeros 16)) ∧ Lanes (sKcv dataKey)
      ∧ (kcv (xKcv.byte 0x40) dataKey {} (zeros 16)).isSome = true)
    ∧ (Formed xHandle 0 [(offA, anyType), (offB, [0])] [(0x40, 1)] [.handle 1 2 3, .none] ∧ sCached.handleLive 5 1 2 3 = true
      ∧ (sCmd xHandle []).handleLive 5 1 2 3 = false
      ∧ Allowed sCached (runOf 7 env0 xHandle) false (sCached.cachedKey 5 3) ∧ Lanes sCached
      ∧ (kcv 0 (sCached.cachedKey 5 3).attr (sCached.cachedKey 5 3).tag (sCached.cachedKey 5 3).val).isSome = true) := by
  refine ⟨?_, ?_, ?_, ?_, ?_, ?_, ?_, ?_⟩ <;> decide +kernel

/-! ## Key commands. A printable block of an AES-128 data key of zeros under a KBPK of 32 zeros, made as R153 to R159 say -/

def blk0 : Bytes :=
  ascii "D0128D0AB00E0200KP0C01921105PB0476749D0515CC75C2FDE207F329F80677E19F88F8DDA9CF485012E014F4E3D956C31A2F99FED73DD01CF963946C92F068"
def blkAttr : Attr := { use := .d0, alg := .a, mode := .b, expo := 2, len := 16 }
def wrapKey : Attr := { use := .k1, alg := .a, mode := .b, expo := 0, len := 32, owner := 5 }
def ownedAttr : Attr := { blkAttr with owner := 5 }

/-- The block verifies under its KBPK, and gives its key (R159). -/
theorem block_verifies : (parseBlock blk0).bind (verifyBlock (zeros 32)) = some (zeros 16, blkAttr, {}) := by decide +kernel

theorem block_parsed : ∃ b, parseBlock blk0 = some b ∧ verifyBlock (zeros 32) b = some (zeros 16, blkAttr, {}) :=
  Option.bind_eq_some_iff.mp block_verifies

/-- To its host block at 0x2000, under the KBPK of slot 328, to slot 320 or not. -/
def xImport (flags : Nat) : Entry :=
  { cmd 0x0101 flags (slotRef 328) (2 * 2 ^ 60 + 128 * 2 ^ 48 + 0x2000) 0 64 (if flags = 1 then toLE 4 320 else []) with windows := [wholeWindow] }
def sImport (flags : Nat) : State := sCmd (xImport flags) (keyAt 328 wrapKey (zeros 32))
def envB : CmdEnv := { blkB := .data blk0 }

/-- The key of the block, and the cache and state after its placing. -/
def impKey : Key := { val := zeros 16, attr := ownedAttr, tag := {}, binding := .none, weak := !kbpkCovers 32 blkAttr }

theorem import_form (f : Nat) (h : f = 0 ∨ f = 1) : Ready (sImport f) 7 envB 0x0101 (xImport f)
    ∧ Formed (xImport f) 1 [(offA, heldType), (offB, [2, 4])] (targetField (xImport f) 0x40) [.slot 328, .host 128 0x2000]
    ∧ targetOk (runOf 7 envB (xImport f)) 0x40 = true ∧ (xImport f).dataLen = 0 ∧ 8 ≤ (xImport f).resultCap ∧ (xImport f).captured = none
    ∧ envB.slotFault = .clean ∧ (Ref.host 128 0x2000).type = 2
    ∧ Allowed (sImport f) (runOf 7 envB (xImport f)) false (keyIn 328 wrapKey (zeros 32)) ∧ isKbpk false (keyIn 328 wrapKey (zeros 32)) = true
    ∧ Allowed (sImport f) (runOf 7 envB (xImport f)) ((xImport f).flag 8) impKey
    ∧ (f = 0 → (xImport f).flag 8 = false)
    ∧ (f = 1 → (xImport f).flag 8 = true ∧ (sImport f).blockOwner ((xImport f).num 0x40 4 / 64) = some 5
      ∧ slotsFree (sImport f) ((xImport f).num 0x40 4) ownedAttr = true ∧ (lanesUsed true (sImport f)).commitWaits = false) := by
  rcases h with rfl | rfl <;> (refine ⟨?_, ?_, ?_, ?_, ?_, ?_, ?_, ?_, ?_, ?_, ?_, ?_, ?_⟩ <;> decide +kernel)

set_option maxRecDepth 20000 in
theorem witness_KeyCommands_import (f : Nat) (h : f = 0 ∨ f = 1) : ∃ blk,
    (checkRange (runOf 7 envB (xImport f)) (.slot 328) envB.blkA).run (sImport f) = (.ok (), sImport f)
    ∧ (checkRange (runOf 7 envB (xImport f)) (.host 128 0x2000) envB.blkB).run (sImport f) = (.ok (), sImport f)
    ∧ (checkOwned (runOf 7 envB (xImport f)) (.slot 328)).run (sImport f) = (.ok (), sImport f)
    ∧ (checkFound (runOf 7 envB (xImport f)) false (.slot 328) envB.blkA).run (sImport f)
        = (.ok (.key (keyIn 328 wrapKey (zeros 32))), sImport f)
    ∧ parseBlock (blockBytes (runOf 7 envB (xImport f)) (.host 128 0x2000) envB.blkB) = some blk
    ∧ (sImport f).kbcFind 5 (keyIn 328 wrapKey (zeros 32)).binding blk.mac = none
    ∧ verifyBlock (keyIn 328 wrapKey (zeros 32)).val blk = some (zeros 16, blkAttr, {}) := by
  obtain ⟨b, h1, h2⟩ := block_parsed
  rcases h with rfl | rfl <;> exact ⟨b, rfl, rfl, rfl, rfl, h1, rfl, h2⟩

/-- What the capture of the import comes to. -/
def importRun (f : Nat) : Except Stop (List (Option (Key × Nat))) × State :=
  (importKeys (runOf 7 envB (xImport f)) ((xImport f).flag 8) (.slot 328) (.host 128 0x2000)).run (sImport f)

theorem witness_KeyCommands_import_all (f : Nat) (h : f = 0 ∨ f = 1) : ∃ k n u, importRun f = (.ok [some (k, n)], u) ∧ Lanes u
    ∧ (f = 1 → u.blockOwner ((xImport f).num 0x40 4 / 64) = some 5 ∧ slotsFree u ((xImport f).num 0x40 4) k.attr = true
      ∧ (lanesUsed true u).commitWaits = false) := by
  have g : (match importRun f with
      | (.ok [some (k, _)], u) => decide (Lanes u) && (f = 0 || (u.blockOwner ((xImport f).num 0x40 4 / 64) = some 5
          && slotsFree u ((xImport f).num 0x40 4) k.attr && !(lanesUsed true u).commitWaits))
      | _ => false) = true := by
    rcases h with rfl | rfl <;> decide +kernel
  split at g
  · rename_i k n u e
    simp only [Bool.and_eq_true, Bool.or_eq_true, decide_eq_true_eq, Bool.not_eq_true'] at g
    exact ⟨k, n, u, e, g.1, fun hf => g.2.elim (fun g => absurd g (by omega)) fun g => ⟨g.1.1, g.1.2, g.2⟩⟩
  · cases g

def tplData : Bytes := ascii "D0000D0AB00E0000"
def xExport : Entry := cmd 0x0102 0 (slotRef 320) (slotRef 328) 0 4096 tplData
def sExport : State := sCmd xExport (keyAt 320 ownedAttr (zeros 16) ++ keyAt 328 wrapKey (zeros 32))

/-- A block is written, and is not longer than 4,096 bytes. -/
theorem fits (o : Option (Bytes × Nat)) (h : o.map (fun p => decide (p.1.length ≤ 4096)) = some true) :
    ∃ blk n, o = some (blk, n) ∧ blk.length ≤ 4096 := by
  obtain ⟨⟨b, n⟩, h1, h2⟩ := Option.map_eq_some_iff.mp h
  exact ⟨b, n, h1, of_decide_eq_true h2⟩

def uExport : State := got [keyIn 320 ownedAttr (zeros 16), keyIn 328 wrapKey (zeros 32)] sExport

set_option maxRecDepth 20000 in
theorem witness_KeyCommands_export :
    (Ready sExport 7 env0 0x0102 xExport ∧ Formed xExport 0 [(offA, heldType), (offB, heldType)] [(0x40, 16)] [.slot 320, .slot 328]
      ∧ templateForm (xExport.bytes 0x40 16) = true ∧ xExport.dataLen = 0 ∧ ownedAttr.expo ≠ 1 ∧ (uExport.drbg xExport.drbg).state ≠ 2)
    ∧ FindsBoth (runOf 7 env0 xExport) (.slot 320) (.slot 328) (fun k => exportable (readHeader (xExport.bytes 0x40 16)) k.attr) (isKbpk true)
        (fun k kb => kbpkCovers kb.val.length k.attr && blockFits kb.val k.attr k.tag k.val) sExport (keyIn 320 ownedAttr (zeros 16))
        (keyIn 328 wrapKey (zeros 32)) uExport
    ∧ ∃ blk n, writeBlock (uExport.drbgOut xExport.drbg 64) (zeros 32) ((expoOf (byteAt (xExport.bytes 0x40 16) 11)).getD 0)
        (byteAt (xExport.bytes 0x40 16) 14) ownedAttr {} (zeros 16) = some (blk, n) ∧ blk.length ≤ xExport.resultCap
        ∧ Lanes (drbgRequest xExport.drbg n uExport) := by
  refine ⟨by decide +kernel, rfl, ?_⟩
  obtain ⟨blk, n, h1, h2⟩ := fits (writeBlock (uExport.drbgOut xExport.drbg 64) (zeros 32) ((expoOf (byteAt (xExport.bytes 0x40 16) 11)).getD 0)
    (byteAt (xExport.bytes 0x40 16) 14) ownedAttr {} (zeros 16)) (by decide +kernel)
  exact ⟨blk, n, h1, h2, (by decide : (1 : BitVec 2) ≠ 2)⟩

/-- Generated into slot 320 with to_slot, else as a block under slot 328. -/
def xGen (flags : Nat) : Entry :=
  cmd 0x0103 flags (if flags = 1 then 0 else slotRef 328) 0 0 4096 (tplData ++ (if flags = 1 then toLE 4 320 else zeros 4) ++ [16, 0])
def sGen (flags : Nat) : State := sCmd (xGen flags) (keyAt 328 wrapKey (zeros 32))

/-- The state with nothing captured, and after the draw of the key's 16 bytes. -/
def uGen (f : Nat) : State := kept 7 [none] (sGen f)
def wGen (f : Nat) : State := drbgRequest 0 16 (uGen f)

theorem witness_KeyCommands_generate :
    (Ready (sGen 1) 7 env0 0x0103 (xGen 1) ∧ (xGen 1).captured = none ∧ (xGen 1).drbg = 0
      ∧ Formed (xGen 1) 1 [(offA, [0, 1, 3]), (offB, [0])] ([(0x40, 16), (0x54, 1), (0x55, 1)] ++ targetField (xGen 1) 0x50) [.none, .none])
    ∧ (templateForm ((xGen 1).bytes 0x40 16) = true ∧ (xGen 1).flag 8 = true ∧ (xGen 1).num 0x50 4 < 2 ^ 18
      ∧ symFieldsOk (byteAt ((xGen 1).bytes 0x40 16) 7) ((xGen 1).byte 0x54) ((xGen 1).byte 0x55) = true ∧ (xGen 1).dataLen = 0
      ∧ symLength (byteAt ((xGen 1).bytes 0x40 16) 7) ((xGen 1).byte 0x54) = 16 ∧ symTemplate ((xGen 1).bytes 0x40 16) 16 = some ⟨.d0, .a, .b, 2⟩)
    ∧ ((uGen 1).blockOwner ((xGen 1).num 0x50 4 / 64) = some 5 ∧ slotsFree (uGen 1) ((xGen 1).num 0x50 4) (newAttr ⟨.d0, .a, .b, 2⟩ 16 5) = true
      ∧ 8 ≤ (xGen 1).resultCap ∧ ((uGen 1).drbg 0).state ≠ 2 ∧ Lanes (wGen 1) ∧ (lanesUsed true (wGen 1)).commitWaits = false)
    ∧ (Ready (sGen 0) 7 env0 0x0103 (xGen 0) ∧ (xGen 0).drbg = 0
      ∧ Formed (xGen 0) 1 [(offA, [0, 1, 3]), (offB, [0])] ([(0x40, 16), (0x54, 1), (0x55, 1)] ++ targetField (xGen 0) 0x50) [.slot 328, .none])
    ∧ (templateForm ((xGen 0).bytes 0x40 16) = true ∧ (xGen 0).flag 8 = false
      ∧ symFieldsOk (byteAt ((xGen 0).bytes 0x40 16) 7) ((xGen 0).byte 0x54) ((xGen 0).byte 0x55) = true ∧ (xGen 0).dataLen = 0
      ∧ symTemplate ((xGen 0).bytes 0x40 16) 16 = some ⟨.d0, .a, .b, 2⟩ ∧ kbpkCovers 32 (newAttr ⟨.d0, .a, .b, 2⟩ 16 5) = true) := by
  refine ⟨?_, ?_, ?_, ?_, ?_⟩ <;> decide +kernel

def uGenB : State := got [keyIn 328 wrapKey (zeros 32)] (sGen 0)
def wGenB : State := drbgRequest 0 16 uGenB

theorem witness_KeyCommands_generate_block :
    FindsOne (runOf 7 env0 (xGen 0)) (.slot 328) (isKbpk true) (fun kb => kbpkCovers kb.val.length (newAttr ⟨.d0, .a, .b, 2⟩ 16 5)) (sGen 0)
      (keyIn 328 wrapKey (zeros 32)) uGenB
    ∧ (8 + blockLength (keyIn 328 wrapKey (zeros 32)) (newAttr ⟨.d0, .a, .b, 2⟩ 16 5) {} 16 ≤ (xGen 0).resultCap
      ∧ (uGenB.drbg 0).state ≠ 2 ∧ (wGenB.drbg 0).state ≠ 2)
    ∧ ∃ blk n, writeBlock (wGenB.drbgOut 0 64) (zeros 32) 2 (byteAt ((xGen 0).bytes 0x40 16) 14) (newAttr ⟨.d0, .a, .b, 2⟩ 16 5) {}
          (uGenB.drbgOut 0 16) = some (blk, n) ∧ 8 + blk.length ≤ (xGen 0).resultCap ∧ blk ≠ [] ∧ Lanes (drbgRequest 0 n wGenB) := by
  refine ⟨rfl, by decide +kernel, ?_⟩
  have h : (writeBlock (wGenB.drbgOut 0 64) (zeros 32) 2 (byteAt ((xGen 0).bytes 0x40 16) 14) (newAttr ⟨.d0, .a, .b, 2⟩ 16 5) {}
      (uGenB.drbgOut 0 16)).map (fun p => decide (8 + p.1.length ≤ (xGen 0).resultCap) && decide (0 < p.1.length)) = some true := by decide +kernel
  obtain ⟨⟨b, n⟩, h1, h2⟩ := Option.map_eq_some_iff.mp h
  rw [Bool.and_eq_true] at h2
  exact ⟨b, n, h1, of_decide_eq_true h2.1, List.ne_nil_of_length_pos (of_decide_eq_true h2.2), (by decide : (1 : BitVec 2) ≠ 2)⟩

def xTrans : Entry := cmd 0x0105 0 (slotRef 328) (slotRef 330) 128 4096 []
def sTrans : State := sCmd xTrans (keyAt 328 wrapKey (zeros 32) ++ keyAt 330 wrapKey (zeros 32))
def uTrans : State := got [keyIn 328 wrapKey (zeros 32), keyIn 330 wrapKey (zeros 32)] sTrans

theorem witness_KeyCommands_translate :
    (Ready sTrans 7 (text blk0) 0x0105 xTrans ∧ Formed xTrans 0 [(offA, anyType), (offB, anyType)] [(0x40, 16)] [.slot 328, .slot 330]
      ∧ (allZero (xTrans.bytes 0x40 16) || templateForm (xTrans.bytes 0x40 16)) = true ∧ Input uTrans xTrans (text blk0) blk0 ∧ 16 ≤ blk0.length
      ∧ blk0.length ≤ 2048 ∧ Allowed uTrans (runOf 7 (text blk0) xTrans) false
          { val := zeros 16, attr := ownedAttr, tag := {}, binding := .none, weak := !kbpkCovers 32 blkAttr }
      ∧ exportable (some ⟨.d0, .a, .b, 2⟩) ownedAttr = true ∧ kbpkCovers 32 ownedAttr = true ∧ blockFits (zeros 32) ownedAttr {} (zeros 16) = true
      ∧ blkAttr.expo ≠ 1 ∧ xTrans.drbg = 0 ∧ (uTrans.drbg 0).state ≠ 2)
    ∧ FindsBoth (runOf 7 (text blk0) xTrans) (.slot 328) (.slot 330) (isKbpk false) (isKbpk true) (fun _ _ => true) sTrans
        (keyIn 328 wrapKey (zeros 32)) (keyIn 330 wrapKey (zeros 32)) uTrans
    ∧ (∃ b, parseBlock blk0 = some b ∧ verifyBlock (zeros 32) b = some (zeros 16, blkAttr, {})
        ∧ translateHeader (xTrans.bytes 0x40 16) b = (some ⟨.d0, .a, .b, 2⟩, 0x30))
    ∧ ∃ out n, writeBlock (uTrans.drbgOut 0 64) (zeros 32) 2 0x30 blkAttr {} (zeros 16) = some (out, n) ∧ out.length ≤ xTrans.resultCap
        ∧ Lanes (drbgRequest 0 n uTrans) := by
  refine ⟨by decide +kernel, rfl, ?_, ?_⟩
  · have h : (parseBlock blk0).map (translateHeader (xTrans.bytes 0x40 16)) = some (some ⟨.d0, .a, .b, 2⟩, 0x30) := by decide +kernel
    obtain ⟨b, h1, h2⟩ := block_parsed
    rw [h1] at h
    exact ⟨b, h1, h2, Option.some.inj h⟩
  · obtain ⟨out, n, h1, h2⟩ := fits (writeBlock (uTrans.drbgOut 0 64) (zeros 32) 2 0x30 blkAttr {} (zeros 16)) (by decide +kernel)
    exact ⟨out, n, h1, h2, (by decide : (1 : BitVec 2) ≠ 2)⟩

theorem witness_KeyCommands_evict :
    (let x := cmd 0x0106 0 0 0 0 0 [1]
     Ready (sCmd x []) 7 env0 0x0106 x ∧ x.captured = none ∧ Formed x 0 [(offA, [0, 2, 3, 4]), (offB, [0])] [(0x40, 1)] [.none, .none]
      ∧ x.byte 0x40 = 1 ∧ x.dataLen = 0)
    ∧ (let x := cmd 0x0106 0 (handleValue 1 2 3) 0 0 0 []
       let s := { sCached with sch := { sCached.sch with entries := [(7, some x)] } }
       Ready s 7 env0 0x0106 x ∧ x.captured = none ∧ Formed x 0 [(offA, [0, 2, 3, 4]), (offB, [0])] [(0x40, 1)] [.handle 1 2 3, .none]
        ∧ x.byte 0x40 = 0 ∧ x.dataLen = 0
        ∧ s.handleLive 5 1 2 3 = true ∧ Allowed s (runOf 7 env0 x) false (s.cachedKey 5 3)) := by decide +kernel

/-- A binary block of a KBPK of 32 bytes 0x11 under the KBPK of zeros, which is the first PMK of pitch 5, in slot 328. -/
def blkPmk : Bytes :=
  ascii "D0096K1AB00N0200KP0C01921105PB04" ++ toBE 64
    351300022135015178083706040096140698900184379445822777025280445758943537746336005912988068858058501487266142448099626684576935947055492823095136673716078
def pmk5 (d : Bytes) : State :=
  let s := (gate5 d).updPitch 5 fun v => { v with pmk := [some 328, none, none, none] }
  { s with kst := { s.kst with slots := keyAt 328 wrapKey (zeros 32) } }
def sPmk : State := pmk5 (sha384 (rosterBytes ros0))
theorem pmk5_roster (d : Bytes) : ((pmk5 d).pitch 5).roster = some ros0 := rfl
theorem pmk5_digest (d : Bytes) : ((pmk5 d).pitch 5).rosterDigest = d := rfl
def loadBody : PmkBody := { entry := 1, form := 2, block := blkPmk, slot := some 320 }

def isOkKey : Except (BitVec 16) (Bytes × List Bytes) → Option (Bytes × List Bytes)
  | .ok x => some x
  | .error _ => none
theorem ok_of_isOkKey (e : Except (BitVec 16) (Bytes × List Bytes)) (x : Bytes × List Bytes) (h : isOkKey e = some x) : e = .ok x := by
  cases e <;> simp_all [isOkKey]

theorem gated_pmk (ty : BitVec 16) : Gated sPmk ty hdr5 false := by
  refine ⟨by decide, by decide, by decide, ros0, ?_, quorum_none _⟩
  unfold State.rosterFor State.pitchRoster sPmk
  simp [show hdr5.target.toNat = 5 from rfl, pmk5_roster, pmk5_digest]

theorem witness_PitchQuorumMessages_load :
    sPmk.storeWaits = false ∧ Serving sPmk hdr5.target.toNat ∧ sPmk.nonceFor hdr5 = some { nonce := [1], owner := .ini 0x2F, target := 5, seed := [] } ∧ loadBody.entry < 4
    ∧ (sPmk.pitch 5).pmk.getD 1 none = none ∧ pmkOf 5 [] hdr5.nonce loadBody sPmk = .ok (List.replicate 32 0x11, [])
    ∧ loadBody.slot = some 320 ∧ sPmk.blockOwner ((320 : BitVec 18).toNat / 64) = some 5 ∧ slotEmpty sPmk 320 = true := by
  refine ⟨by decide, by decide, by decide, by decide, by decide, ok_of_isOkKey _ _ (by decide +kernel), rfl, by decide, by decide⟩

/-! ## PIN and card commands -/

/-- Inline bytes: pieces at their offsets in the SQE. -/
def place (l : List (Nat × Bytes)) : Bytes :=
  (List.range 64).map fun i => match l.find? fun p => decide (p.1 ≤ 0x40 + i) && decide (0x40 + i < p.1 + p.2.length) with
    | some p => p.2.getD (0x40 + i - p.1) 0
    | none => 0

def panBytes : Bytes := [16] ++ toBE 8 0x1234567890123456 ++ [0xFF, 0xFF, 0]
def tdesKey (u : Use) (m : Mode) : Attr := { use := u, alg := .t, mode := m, expo := 2, len := 16, owner := 5 }
def k1 : Bytes := toBE 16 0x0123456789ABCDEFFEDCBA9876543210

/-- A PIN block of format 0 of the PIN 1234 under `k1`. -/
def pinBlk : Bytes := toBE 8 0xE5639CBC7EC0B4CA
def pan16 : List Nat := [1, 2, 3, 4, 5, 6, 7, 8, 9, 0, 1, 2, 3, 4, 5, 6]

theorem pin_block : pinOf 0 (pinDecipher 0 k1 ((pinBlk ++ zeros 8).take (pinLen 0)) (panField 0 pan16)) = some [1, 2, 3, 4]
    ∧ pinOf 0 (pinDecipher 0 k1 ((zeros 16).take (pinLen 0)) (panField 0 pan16)) = none := by decide +kernel

def xPin (op : Nat) (blk : Bytes) (l : List (Nat × Bytes)) : Entry := cmd op 0 (slotRef 320) (slotRef 321) 0 64 (place ([(0x40, blk), (0x50, panBytes)] ++ l))
def sPin (x : Entry) (u : Use) : State := sCmd x (keyAt 320 (tdesKey .p0 .b) k1 ++ keyAt 321 (tdesKey u (if u = .p0 then .b else .c)) k1)

def xTranslate : Entry := xPin 0x0201 pinBlk []

theorem witness_PinCommands_translate :
    (Ready (sPin xTranslate .p0) 7 env0 0x0201 xTranslate ∧ xTranslate.byte 0x5C = 0 ∧ xTranslate.byte 0x5D = 0
      ∧ Formed xTranslate 2 [(offA, anyType), (offB, anyType)] ([(0x40, 16), (0x5C, 1), (0x5D, 1)] ++ [(0x50, 12)] ++ []) [.slot 320, .slot 321]
      ∧ xTranslate.flag 9 = false ∧ translatePair 0 0 = true ∧ pinBlockOk 0 (xTranslate.bytes 0x40 16) = true
      ∧ readPan (xTranslate.bytes 0x50 12) = some pan16 ∧ xTranslate.dataLen = 0 ∧ pinLen 0 ≤ xTranslate.resultCap
      ∧ xTranslate.bytes 0x40 16 = pinBlk ++ zeros 8)
    ∧ FindsBoth (runOf 7 env0 xTranslate) (.slot 320) (.slot 321) (pinKey 0 false) (pinKey 0 true) (fun _ _ => true) (sPin xTranslate .p0)
        (keyIn 320 (tdesKey .p0 .b) k1) (keyIn 321 (tdesKey .p0 .b) k1)
        (got [keyIn 320 (tdesKey .p0 .b) k1, keyIn 321 (tdesKey .p0 .b) k1] (sPin xTranslate .p0))
    ∧ pinServes (runOf 7 env0 xTranslate) 0 (got [keyIn 320 (tdesKey .p0 .b) k1, keyIn 321 (tdesKey .p0 .b) k1] (sPin xTranslate .p0))
    ∧ Lanes (pinDrawn (runOf 7 env0 xTranslate) 0 (got [keyIn 320 (tdesKey .p0 .b) k1, keyIn 321 (tdesKey .p0 .b) k1] (sPin xTranslate .p0))) :=
  ⟨by decide +kernel, rfl, .inl rfl, by decide +kernel⟩

/-- The decimalisation table, a length of 4, validation data of zeros, an offset. -/
def xOffset (gen : Bool) (off : Bytes) : Entry :=
  xPin (if gen then 0x0204 else 0x0202) pinBlk ([(0x5D, [4]), (0x60, toBE 8 0x0123456789012345)] ++ if gen then [] else [(0x68, off)])
def digits : List Nat := [0, 1, 2, 3, 4, 5, 6, 7, 8, 9, 0, 1, 2, 3, 4, 5]

theorem natural_pin : naturalPin (keyIn 321 (tdesKey .v1 .c) k1) (zeros 8) digits 4 = [0, 8, 3, 7] := by decide +kernel

theorem witness_PinCommands_offset :
    ((readOffset [0x14, 0x07, 0xFF, 0xFF, 0xFF, 0xFF] 4 = some [1, 4, 0, 7] ∧ 4 ≤ [1, 2, 3, 4].length
        ∧ List.zipWith (fun a b => (a + b) % 10) [0, 8, 3, 7] [1, 4, 0, 7] = [1, 2, 3, 4].take 4)
      ∧ (readOffset [0, 0, 0xFF, 0xFF, 0xFF, 0xFF] 4 = some [0, 0, 0, 0]
        ∧ List.zipWith (fun a b => (a + b) % 10) [0, 8, 3, 7] [0, 0, 0, 0] ≠ [1, 2, 3, 4].take 4))
    ∧ ∀ gen : Bool, ∀ o ∈ [toBE 6 0x1407FFFFFFFF, toBE 6 0xFFFFFFFF], let x := xOffset gen o
      (Ready (sPin x .v1) 7 env0 (if gen then 0x0204 else 0x0202) x ∧ x.byte 0x5D = 4 ∧ x.byte 0x5C = 0
        ∧ Formed x 0 [(offA, anyType), (offB, anyType)] ([(0x40, 16), (0x5C, 1), (0x5D, 1), (0x60, 8), (0x70, 8)]
            ++ pinPanField 0 ++ (if gen then [] else [(0x68, 6)])) [.slot 320, .slot 321])
      ∧ (pinBlockOk 0 (x.bytes 0x40 16) = true ∧ readTable (x.bytes 0x60 8) = some digits ∧ readPan (x.bytes 0x50 12) = some pan16
        ∧ (gen = false → x.bytes 0x68 6 = o) ∧ x.dataLen = 0 ∧ Lanes (sPin x .v1) ∧ x.bytes 0x70 8 = zeros 8) := by decide +kernel

theorem witness_PinCommands_offset_keys (gen : Bool) (o : Bytes) (h : o = toBE 6 0x1407FFFFFFFF ∨ o = toBE 6 0xFFFFFFFF) :
    FindsBoth (runOf 7 env0 (xOffset gen o)) (.slot 320) (.slot 321) (pinKey 0 false) (pvk .v1 gen) (fun _ _ => true) (sPin (xOffset gen o) .v1)
      (keyIn 320 (tdesKey .p0 .b) k1) (keyIn 321 (tdesKey .v1 .c) k1)
      (got [keyIn 320 (tdesKey .p0 .b) k1, keyIn 321 (tdesKey .v1 .c) k1] (sPin (xOffset gen o) .v1)) := by
  rcases h with rfl | rfl <;> cases gen <;> exact rfl

def xPvv : Entry := xPin 0x0203 pinBlk [(0x5D, [1]), (0x5E, [0x78, 0x80])]

theorem witness_PinCommands_pvv :
    (Ready (sPin xPvv .v2) 7 env0 0x0203 xPvv
      ∧ Formed xPvv 0 [(offA, anyType), (offB, anyType)] [(0x40, 16), (0x50, 12), (0x5C, 1), (0x5D, 1), (0x5E, 2)] [.slot 320, .slot 321]
      ∧ readPan (xPvv.bytes 0x50 12) = some pan16 ∧ formatOk (xPvv.byte 0x5C) = true ∧ pinBlockOk (xPvv.byte 0x5C) (xPvv.bytes 0x40 16) = true
      ∧ xPvv.byte 0x5D ≤ 6 ∧ ((nibbles (xPvv.bytes 0x5E 2)).all fun n => decide (n ≤ 9)) = true ∧ xPvv.dataLen = 0 ∧ Lanes (sPin xPvv .v2))
    ∧ FindsBoth (runOf 7 env0 xPvv) (.slot 320) (.slot 321) (pinKey 0 false) (pvk .v2 false) (fun _ _ => true) (sPin xPvv .v2)
        (keyIn 320 (tdesKey .p0 .b) k1) (keyIn 321 (tdesKey .v2 .c) k1)
        (got [keyIn 320 (tdesKey .p0 .b) k1, keyIn 321 (tdesKey .v2 .c) k1] (sPin xPvv .v2))
    ∧ pvv k1 pan16 1 [1, 2, 3, 4] = nibbles (xPvv.bytes 0x5E 2) := ⟨by decide +kernel, rfl, by decide +kernel⟩

/-! ## Card commands -/

def xCvc (gen : Bool) : Entry :=
  cmd (if gen then 0x0301 else 0x0302) 0 (slotRef 320) 0 0 0
    (place ([(0x40, panBytes), (0x4C, [0x27, 0x12]), (0x4E, [0x10, 0x1F]), (0x50, [0])] ++ if gen then [] else [(0x52, [0x12, 0x3F])]))
def sKey1 (x : Entry) (a : Attr) (k : Bytes) : State := sCmd x (keyAt 320 a k)

theorem witness_CardCommands_cvc (gen : Bool) :
    (let x := xCvc gen
     Ready (sKey1 x (tdesKey .c0 .c) k1) 7 env0 (if gen then 0x0301 else 0x0302) x
      ∧ Formed x 0 [(offA, anyType), (offB, [0])] ([(0x40, 12), (0x4C, 2), (0x50, 1)] ++ [(0x4E, 2)] ++ (if gen then [] else [(0x52, 2)]))
          [.slot 320, .none]
      ∧ readPan (x.bytes 0x40 12) = some pan16 ∧ expiryOk (x.bytes 0x4C 2) = true ∧ x.byte 0x50 = 0 ∧ threeDigits (x.bytes 0x4E 2) = true
      ∧ (gen = true ∨ threeDigits (x.bytes 0x52 2) = true) ∧ x.dataLen = 0 ∧ Lanes (sKey1 x (tdesKey .c0 .c) k1))
    ∧ Finds (runOf 7 env0 (xCvc gen)) (.slot 320) (cvk gen) (sKey1 (xCvc gen) (tdesKey .c0 .c) k1) (keyIn 320 (tdesKey .c0 .c) k1)
        (got [keyIn 320 (tdesKey .c0 .c) k1] (sKey1 (xCvc gen) (tdesKey .c0 .c) k1)) := by
  cases gen <;> exact ⟨by decide +kernel, rfl⟩

/-- EMV commands: PAN, sequence number 0, derivation option 0, ATC 1, and what each takes. -/
def xEmv (op fl n cap : Nat) (b : Nat) (l : List (Nat × Bytes)) : Entry :=
  cmd op fl (slotRef 320) b n cap (place ([(0x40, panBytes), (0x4E, [0, 1])] ++ l))

theorem witness_CardCommands_arqc :
    (let x := xEmv 0x0303 0 2 0 0 []
     (Ready (sKey1 x (tdesKey .e0 .x) k1) 7 (text [1, 2]) 0x0303 x ∧ Formed x 0 [(offA, anyType), (offB, [0])] emvFields [.slot 320, .none]
        ∧ emvFieldsOk x = true ∧ Input (sKey1 x (tdesKey .e0 .x) k1) x (text [1, 2]) [1, 2] ∧ Lanes (sKey1 x (tdesKey .e0 .x) k1))
      ∧ Finds (runOf 7 (text [1, 2]) x) (.slot 320) (emvMaster .e0) (sKey1 x (tdesKey .e0 .x) k1) (keyIn 320 (tdesKey .e0 .x) k1)
          (got [keyIn 320 (tdesKey .e0 .x) k1] (sKey1 x (tdesKey .e0 .x) k1)))
    ∧ (let x := xEmv 0x0304 0 3 8 0 [(0x5C, [2]), (0x60, [1, 2, 3, 4]), (0x64, [1])]
     (Ready (sKey1 x (tdesKey .e0 .x) k1) 7 (text [1, 2, 9]) 0x0304 x
        ∧ Formed x 0 [(offA, anyType), (offB, [0])] (emvFields ++ [(0x5C, 1), (0x60, 4), (0x64, 1)]) [.slot 320, .none]
        ∧ emvFieldsOk x = true ∧ x.byte 0x5C = 2 ∧ x.byte 0x64 = 1 ∧ Input (sKey1 x (tdesKey .e0 .x) k1) x (text [1, 2, 9]) ([1, 2] ++ [9]) ∧ 4 ≤ x.resultCap)
      ∧ Finds (runOf 7 (text [1, 2, 9]) x) (.slot 320) (emvMaster .e0) (sKey1 x (tdesKey .e0 .x) k1) (keyIn 320 (tdesKey .e0 .x) k1)
          (got [keyIn 320 (tdesKey .e0 .x) k1] (sKey1 x (tdesKey .e0 .x) k1))) := ⟨⟨by decide +kernel, rfl⟩, by decide +kernel, rfl⟩

theorem witness_CardCommands_script :
    let x := xEmv 0x0305 1 7 64 (slotRef 321) []
    let d : Bytes := [0x84, 0x24, 0, 0, 2, 7, 7]
    let s := sCmd x (keyAt 320 (tdesKey .e2 .x) k1 ++ keyAt 321 (tdesKey .e1 .x) k1)
    (Ready s 7 (text d) 0x0305 x ∧ Formed x 1 [(offA, anyType), (offB, anyType)] emvFields [.slot 320, .slot 321] ∧ x.flag 8 = true
      ∧ emvFieldsOk x = true ∧ Input s x (text d) d ∧ (byteAt d 4).toNat = d.length - 5
      ∧ (d.length - 5) / blockLen true * blockLen true + blockLen true + 8 ≤ x.resultCap ∧ Lanes s)
    ∧ (capture (runOf 7 (text d) x) [⟨.slot 320, .data [], emvMaster .e2⟩, ⟨.slot 321, .data [], emvMaster .e1⟩] (fun _ => true)).run s
        = (.ok [some (keyIn 320 (tdesKey .e2 .x) k1), some (keyIn 321 (tdesKey .e1 .x) k1)],
            got [keyIn 320 (tdesKey .e2 .x) k1, keyIn 321 (tdesKey .e1 .x) k1] s) := ⟨by decide +kernel, rfl⟩

/-! ## Message, hash and token commands -/

def aesKey (u : Use) (m : Mode) : Attr := { use := u, alg := .a, mode := m, expo := 2, len := 16, owner := 5 }
def k16 : Bytes := toBE 16 0x2b7e151628aed2a6abf7158809cf4f3c

/-- A MAC of 8 bytes by CMAC over three bytes. -/
def xMac (op b : Nat) (l : List (Nat × Bytes)) : Entry := cmd op 0 (slotRef 320) b 3 64 (place ([(0x40, [5, 0, 8])] ++ l))
def sMac (x : Entry) : State := sCmd x (keyAt 320 (aesKey .m6 .c) k16 ++ keyAt 321 (aesKey .m6 .c) k1)
def m8 : MacParams := ⟨5, 0, 8⟩

theorem witness_MessageCommands_mac :
    (let x := xMac 0x0401 0 []
     (Ready (sMac x) 7 (text [1, 2, 3]) 0x0401 x ∧ Formed x 0 [(offA, anyType), (offB, [0])] [(0x40, 3)] [.slot 320, .none] ∧ macParams x 0x40 = m8
        ∧ m8.ok = true ∧ Input (sMac x) x (text [1, 2, 3]) [1, 2, 3] ∧ macCap m8 ≤ x.resultCap ∧ Lanes (sMac x))
      ∧ Finds (runOf 7 (text [1, 2, 3]) x) (.slot 320) (macKey m8 true) (sMac x) (keyIn 320 (aesKey .m6 .c) k16)
          (got [keyIn 320 (aesKey .m6 .c) k16] (sMac x)))
    ∧ (let x := xMac 0x0402 0 [(0x50, [1, 2, 3, 4, 5, 6, 7, 8])]
     (Ready (sMac x) 7 (text [1, 2, 3]) 0x0402 x
        ∧ Formed x 0 [(offA, anyType), (offB, [0])] [(0x40, 3), (0x50, min m8.len 16)] [.slot 320, .none])
      ∧ Finds (runOf 7 (text [1, 2, 3]) x) (.slot 320) (macKey m8 false) (sMac x) (keyIn 320 (aesKey .m6 .c) k16)
          (got [keyIn 320 (aesKey .m6 .c) k16] (sMac x)))
    ∧ (let x := xMac 0x0403 (slotRef 321) [(0x43, [5, 0, 8]), (0x50, [1, 2, 3, 4, 5, 6, 7, 8])]
     (Ready (sMac x) 7 (text [1, 2, 3]) 0x0403 x ∧ macParams x 0x43 = m8
        ∧ Formed x 0 [(offA, anyType), (offB, anyType)] [(0x40, 6), (0x50, min m8.len 16)] [.slot 320, .slot 321])
      ∧ FindsBoth (runOf 7 (text [1, 2, 3]) x) (.slot 320) (.slot 321) (macKey m8 false) (macKey m8 true) (fun _ _ => true) (sMac x)
          (keyIn 320 (aesKey .m6 .c) k16) (keyIn 321 (aesKey .m6 .c) k1)
          (got [keyIn 320 (aesKey .m6 .c) k16, keyIn 321 (aesKey .m6 .c) k1] (sMac x))) :=
  ⟨⟨by decide +kernel, rfl⟩, ⟨by decide +kernel, rfl⟩, by decide +kernel, rfl⟩

def hmacKey : Attr := { use := .m7, alg := .h, mode := .c, expo := 2, len := 32, owner := 5 }
def tokenKey : Attr := { use := .u91, alg := .a, mode := .b, expo := 2, len := 16, owner := 5 }
def xToken (enc : Bool) : Entry :=
  cmd (if enc then 0x0601 else 0x0602) 0 (slotRef 320) 0 0 16 (place [(0x40, [10, 10, 1, 1, 0]), (0x60, [0, 1, 2, 3, 4, 5, 6, 7, 8, 9])])

theorem witness_MessageCommands_hash :
    (let x := cmd 0x0705 0 0 0 3 64 [1]
     Runs (sCmd x []) 7 (text [97, 98, 99]) 0x0705 x ∧ Formed x 0 [(offA, [0]), (offB, [0])] [(0x40, 1), (0x42, 2)] [.none, .none]
      ∧ hashOutOk (x.byte 0x40) (x.num 0x42 2) = true ∧ Input (sCmd x []) x (text [97, 98, 99]) [97, 98, 99] ∧ hashLen 1 ≤ x.resultCap)
    ∧ (let x := cmd 0x0706 0 (slotRef 320) 0 3 64 (place [(0x40, [0x21]), (0x42, [32, 0])])
     (Ready (sKey1 x hmacKey (zeros 32)) 7 (text [1, 2, 3]) 0x0706 x
        ∧ Formed x 0 [(offA, anyType), (offB, [0])] [(0x40, 1), (0x42, 2), (0x44, 1), (0x60, min 0 32)] [.slot 320, .none]
        ∧ keyedHashFields (x.byte 0x40) (x.num 0x42 2) (x.byte 0x44) = true ∧ Input (sKey1 x hmacKey (zeros 32)) x (text [1, 2, 3]) [1, 2, 3] ∧ 32 ≤ x.resultCap)
      ∧ Finds (runOf 7 (text [1, 2, 3]) x) (.slot 320) (keyedHashKey 0x21) (sKey1 x hmacKey (zeros 32)) (keyIn 320 hmacKey (zeros 32))
          (got [keyIn 320 hmacKey (zeros 32)] (sKey1 x hmacKey (zeros 32)))) := ⟨by decide +kernel, by decide +kernel, rfl⟩

theorem witness_MessageCommands_token (enc : Bool) :
    let x := xToken enc
    (Ready (sKey1 x tokenKey k16) 7 env0 (if enc then 0x0601 else 0x0602) x
      ∧ Formed x 0 [(offA, anyType), (offB, [0])] [(0x40, 5), (0x48, min 0 24), (0x60, min 10 32)] [.slot 320, .none] ∧ x.byte 0x44 = 0
      ∧ x.byte 0x41 = 10 ∧ tokenFields x = true ∧ x.dataLen = 0 ∧ 10 ≤ x.resultCap ∧ Lanes (sKey1 x tokenKey k16))
    ∧ Finds (runOf 7 env0 x) (.slot 320) (fun k => k.attr.use = .u91 && (if enc then k.attr.mode.enc else k.attr.mode.dec)) (sKey1 x tokenKey k16)
        (keyIn 320 tokenKey k16) (got [keyIn 320 tokenKey k16] (sKey1 x tokenKey k16)) := by
  cases enc <;> exact ⟨by decide +kernel, rfl⟩

/-! ## Cipher commands -/

/-- Algorithm AES-128 and a mode; an IV where the layout has one. -/
def xBulk (op fl n mode tag : Nat) (iv : Bytes) : Entry :=
  cmd op fl (slotRef 320) 0 n 256 (place ([(0x40, [1, BitVec.ofNat 8 mode]), (0x50, iv)] ++ if tag = 0 then [] else [(0x42, [BitVec.ofNat 8 tag])]))
def sBulk (x : Entry) : State := sKey1 x dataKey (zeros 16)
def uBulk (x : Entry) : State := kept 7 [some (keyIn 320 dataKey (zeros 16), 0), none] (sBulk x)

/-- What BulkReady asks of a command without a second key and without a counter, as far as it is evaluated. -/
abbrev bulkChecks (x : Entry) (op : Nat) (d : Bytes) : Prop :=
  Ready (sBulk x) 7 (text d) op x ∧ (readBulk x).fieldsOk = true ∧ (readBulk x).parts ≤ x.dataLen
    ∧ (readBulk x).lengthsOk (x.dataLen - (readBulk x).parts) = true
    ∧ Formed x (bulkFlags op) [(offA, anyType), (offB, if (readBulk x).mode = 4 && !(readBulk x).aead then anyType else [0])] (readBulk x).used
        [.slot 320, .none]
    ∧ x.dataLen - (readBulk x).parts + (if (readBulk x).aead && (readBulk x).enc && !(readBulk x).notFinal then (readBulk x).tag else 0)
        + (if (readBulk x).ctxOut then 128 else 0) ≤ x.resultCap
    ∧ Input (uBulk x) x (text d) d ∧ Lanes (uBulk x) ∧ ((lanesUsed true (uBulk x)).drbg x.drbg).state ≠ 2 ∧ (readBulk x).hw = false

theorem bulk_ready (x : Entry) (op : Nat) (d : Bytes) (h : bulkChecks x op d)
    (hc : (capture (runOf 7 (text d) x) [⟨.slot 320, .data [], (readBulk x).keyOk⟩, ⟨.none, .data [], (readBulk x).keyOk⟩] xtsPair).run (sBulk x)
      = (.ok [some (keyIn 320 dataKey (zeros 16)), none], uBulk x)) :
    BulkReady op (sBulk x) 7 (text d) x (readBulk x) (keyIn 320 dataKey (zeros 16)) [] (x.bytes 0x50 (readBulk x).ivLen) d 0 (uBulk x) (uBulk x) := by
  obtain ⟨h1, h2, h3, h4, h5, h6, h7, h8, h9, h10⟩ := h
  exact ⟨h1, rfl, h2, h3, h4, ⟨.slot 320, .none, none, h5, hc, rfl⟩, h6, h7, h8, fun _ => h9, .inl ⟨h10, rfl, rfl, rfl⟩⟩

/-- A CBC encryption of a block, a CTR encryption whose counter block cannot take its two blocks, a continued one with a context that is
none, a GCM decryption of the empty text with its tag (case 1 of the GCM specification), with another tag, and held. -/
def xCbc : Entry := xBulk 0x0701 0 16 2 0 (zeros 16)
def xCtr : Entry := xBulk 0x0701 0 32 3 0 (List.replicate 16 0xFF)
def xNext : Entry := xBulk 0x0702 2 144 2 0 []
def xGcm (held : Bool) : Entry := xBulk 0x0704 (if held then 16 else 0) 16 5 16 (zeros 12)
def gcmTag0 : Bytes := toBE 16 0x58e2fccefa7e3061367f1d57a4e7455a

theorem witness_CipherCommands :
    ((0x0701, Instr.cipherEncrypt) ∈ bulkCommands ∧ (0x0702, Instr.cipherDecrypt) ∈ bulkCommands ∧ (0x0704, Instr.aeadDecrypt) ∈ bulkCommands)
    ∧ BulkReady 0x0701 (sBulk xCbc) 7 (text (zeros 16)) xCbc (readBulk xCbc) (keyIn 320 dataKey (zeros 16)) [] (zeros 16) (zeros 16) 0 (uBulk xCbc) (uBulk xCbc)
    ∧ BulkReady 0x0701 (sBulk xCtr) 7 (text (zeros 32)) xCtr (readBulk xCtr) (keyIn 320 dataKey (zeros 16)) [] (List.replicate 16 0xFF) (zeros 32) 0 (uBulk xCtr) (uBulk xCtr)
    ∧ BulkReady 0x0702 (sBulk xNext) 7 (text (zeros 144)) xNext (readBulk xNext) (keyIn 320 dataKey (zeros 16)) [] (zeros 16) (zeros 144) 0 (uBulk xNext) (uBulk xNext)
    ∧ (∀ t : Bytes, ∀ held, t = gcmTag0 ∨ t = zeros 16 → BulkReady 0x0704 (sBulk (xGcm held)) 7 (text t) (xGcm held) (readBulk (xGcm held)) (keyIn 320 dataKey (zeros 16))
        [] (zeros 12) t 0 (uBulk (xGcm held)) (uBulk (xGcm held)))
    ∧ (chainFits (readBulk xCbc) (startChain (readBulk xCbc) (zeros 16) [] (zeros 16)) 16 = true
      ∧ chainFits (readBulk xCtr) (startChain (readBulk xCtr) (zeros 16) [] (List.replicate 16 0xFF)) 32 = false
      ∧ (bulkStart (readBulk xNext) (zeros 16) [] (zeros 16) ((uBulk xNext).pitch 5) (zeros 144)).isNone = true
      ∧ (readBulk (xGcm false)).held = false ∧ (readBulk (xGcm true)).held = true
      ∧ (runSegment (readBulk (xGcm false)) (zeros 16) (startChain (readBulk (xGcm false)) (zeros 16) [] (zeros 12)) [] []).tag = gcmTag0) := by
  refine ⟨⟨.head _, .tail _ (.head _), .tail _ (.tail _ (.tail _ (.head _)))⟩, ?_, ?_, ?_, ?_, ?_⟩
  · exact bulk_ready xCbc _ _ (by decide +kernel) rfl
  · exact bulk_ready xCtr _ _ (by decide +kernel) rfl
  · exact bulk_ready xNext _ _ (by decide +kernel) rfl
  · intro t held h
    rcases h with rfl | rfl <;> cases held <;> exact bulk_ready _ _ _ (by decide +kernel) rfl
  · decide +kernel

/-- XTS with the second key of slot 321. -/
def xXts : Entry := cmd 0x0701 0 (slotRef 320) (slotRef 321) 16 256 (place [(0x40, [1, 4])])
def sXts : State := sCmd xXts (keyAt 320 dataKey (zeros 16) ++ keyAt 321 dataKey k16)
def uXts : State := got [keyIn 320 dataKey (zeros 16), keyIn 321 dataKey k16] sXts

theorem witness_CipherCommands_xts :
    BulkReady 0x0701 sXts 7 (text (zeros 16)) xXts (readBulk xXts) (keyIn 320 dataKey (zeros 16)) k16 (xXts.bytes 0x50 (readBulk xXts).ivLen) (zeros 16) 0
      uXts uXts := by
  refine ⟨by decide +kernel, rfl, by decide +kernel, by decide +kernel, by decide +kernel,
    ⟨.slot 320, .slot 321, some (keyIn 321 dataKey k16), by decide +kernel, rfl, rfl⟩, by decide +kernel, by decide +kernel, by decide +kernel,
    fun _ => by decide +kernel, .inl ⟨by decide +kernel, rfl, rfl, rfl⟩⟩

/-- A data key with the counter of AEAD nonces, in slots 320 and 321. -/
def ctrKey : Attr := { dataKey with ctrKind := 2, ctrLimit := 2 }

def sCtr (v : Nat) (x : Entry) : State := sCmd x (keyAt 320 ctrKey (zeros 16) ++ [(321, { key := toLE 32 v, attrs := tailAttrs 5 3 })])

theorem witness_CipherCommands_counter :
    (let k := keyIn 320 ctrKey (zeros 16)
     let s := sCtr 0 xCbc
     k.slot = some 320 ∧ s.commitWaits = false ∧ (runOf 7 env0 xCbc).env.slotFault = .clean ∧ s.entry (runOf 7 env0 xCbc).e = some xCbc
      ∧ s.counterValue (320 + runSlots k.attr.len) (counterEnd k.attr) = 0 ∧ 0 < counterEnd k.attr
      ∧ counterEnd k.attr ≤ (sCtr 2 xCbc).counterValue (320 + runSlots k.attr.len) (counterEnd k.attr))
    ∧ (let x := cmd 0x0707 0 0 0 0 0 [1]
       Ready (sCmd x []) 7 env0 0x0707 x ∧ Formed x 0 [(offA, [0]), (offB, [0])] [(0x40, 1), (0x48, 8)] [.none, .none] ∧ x.byte 0x40 = 1
        ∧ x.dataLen = 0 ∧ (sCmd x []).commitWaits = false ∧ ((sCmd x []).pitch 5).ctxGen.toNat = x.num 0x48 8 ∧ ((sCmd x []).drbg 9).state ≠ 2
        ∧ ((sCmd x []).pitch 5).ctxGen.toNat ≠ (cmd 0x0707 0 0 0 0 0 (place [(0x40, [1]), (0x48, [1])])).num 0x48 8)
    ∧ (let x := cmd 0x0707 0 0 0 128 0 [2]
       Ready (sCmd x []) 7 (text (zeros 128)) 0x0707 x ∧ Formed x 0 [(offA, [0]), (offB, [0])] [(0x40, 1)] [.none, .none] ∧ x.byte 0x40 = 2
        ∧ Input (sCmd x []) x (text (zeros 128)) (zeros 128) ∧ Lanes (sCmd x [])) := by decide +kernel

/-- A GCM encryption of the empty text whose nonce the device makes. -/
def xNonce : Entry := cmd 0x0703 1 (slotRef 320) 0 0 256 (place [(0x40, [1, 5]), (0x42, [16])])
def uNonce : State := kept 7 [some (keyIn 320 ctrKey (zeros 16), 0), none] (sCtr 0 xNonce)

/-- What its spending comes to. -/
def spent : Except Stop Nat × State := (spendCounter (runOf 7 (text []) xNonce) (keyIn 320 ctrKey (zeros 16))).run uNonce

theorem witness_CipherCommands_nonce : ∃ w, BulkReady 0x0703 (sCtr 0 xNonce) 7 (text []) xNonce (readBulk xNonce) (keyIn 320 ctrKey (zeros 16)) []
    (xNonce.bytes 0x44 4 ++ toBE 8 0) [] 0 uNonce w := by
  have g : (match spent with
      | (.ok v, w) => decide (v = 0) && decide (Lanes w)
      | _ => false) = true := by decide +kernel
  split at g
  · rename_i v w e
    rw [Bool.and_eq_true, decide_eq_true_eq, decide_eq_true_eq] at g
    obtain ⟨rfl, hl⟩ := g
    exact ⟨w, by decide +kernel, rfl, by decide +kernel, by decide +kernel, by decide +kernel,
      ⟨.slot 320, .none, none, by decide +kernel, rfl, rfl⟩, by decide +kernel, ⟨by decide +kernel, .inl rfl⟩, hl,
      fun h => absurd h (by decide +kernel), .inr ⟨by decide +kernel, 0, e, rfl, by decide +kernel⟩⟩
  · cases g

/-! ## DUKPT commands. A TDES key serial number with counter 1, an AES one with counter 1 -/

def bdkT : Attr := { use := .b0, alg := .t, mode := .x, expo := 2, len := 16, owner := 5 }
def bdkA : Attr := { use := .b0, alg := .a, mode := .x, expo := 2, len := 16, owner := 5 }
def ksnT : List (Nat × Bytes) := [(0x40, [0xFF, 0xFF, 0x98, 0x76, 0x54, 0x32, 0x10, 0xE0, 0, 1]), (0x4C, [1])]
def anchored (x : Entry) : Entry := { x with anchor := some (zeros 16) }
def xData : Entry := anchored (cmd 0x0501 0 (slotRef 320) 0 16 16 (place (ksnT ++ [(0x4E, [2]), (0x50, zeros 8)])))
def xMacV : Entry := anchored (cmd 0x0503 0 (slotRef 320) 0 3 0 (place (ksnT ++ [(0x4D, [4]), (0x50, [1, 2, 3, 4])])))
def xPinT : Entry := anchored (cmd 0x0502 0 (slotRef 320) (slotRef 321) 0 16 (place (ksnT ++ [(0x50, pinBlk), (0x60, panBytes)])))
def ksn1 : Ksn := { tdes := true, id := [0xFF, 0xFF, 0x98, 0x76, 0x54, 0x32, 0x10, 0xE0], ctr := 1 }
def sBdk (x : Entry) : State := sCmd x (keyAt 320 bdkT k1 ++ keyAt 321 (tdesKey .p0 .b) k1)

def uBdk (x : Entry) : State := got [keyIn 320 bdkT k1] (sBdk x)

theorem witness_DukptCommands_data :
    (Ready (sBdk xData) 7 (text (zeros 16)) 0x0501 xData ∧ readKsn xData = ksn1 ∧ xData.byte 0x4E = 2
      ∧ Formed xData 0 [(offA, heldType), (offB, [0])] [(0x40, 10), (0x4C, 1), (0x4D, 1), (0x4E, 1), (0x50, blockLen true)] [.slot 320, .none]
      ∧ ksnFieldOk xData = true ∧ xData.byte 0x4D ≤ 1 ∧ Input (uBdk xData) xData (text (zeros 16)) (zeros 16) ∧ (zeros 16).length % blockLen true = 0
      ∧ (zeros 16).length ≤ xData.resultCap ∧ Lanes (uBdk xData))
    ∧ FindsBdk (runOf 7 (text (zeros 16)) xData) ksn1 (.slot 320) (sBdk xData) (keyIn 320 bdkT k1) (uBdk xData)
    ∧ (dkcStep (runOf 7 (text (zeros 16)) xData) ksn1 (keyIn 320 bdkT k1)).run (uBdk xData) = (.ok (zeros 16), uBdk xData) :=
  ⟨by decide +kernel, rfl, rfl⟩

theorem witness_DukptCommands_mac :
    (Ready (sBdk xMacV) 7 (text [1, 2, 3]) 0x0503 xMacV ∧ readKsn xMacV = ksn1 ∧ xMacV.byte 0x4D = 4
      ∧ Formed xMacV 0 [(offA, heldType), (offB, [0])] [(0x40, 10), (0x4C, 1), (0x4D, 1), (0x4E, 1), (0x50, min 4 16)] [.slot 320, .none]
      ∧ ksnFieldOk xMacV = true ∧ xMacV.byte 0x4E ≤ 1 ∧ Input (uBdk xMacV) xMacV (text [1, 2, 3]) [1, 2, 3] ∧ Lanes (uBdk xMacV))
    ∧ FindsBdk (runOf 7 (text [1, 2, 3]) xMacV) ksn1 (.slot 320) (sBdk xMacV) (keyIn 320 bdkT k1) (uBdk xMacV)
    ∧ (dkcStep (runOf 7 (text [1, 2, 3]) xMacV) ksn1 (keyIn 320 bdkT k1)).run (uBdk xMacV) = (.ok (zeros 16), uBdk xMacV) :=
  ⟨by decide +kernel, rfl, rfl⟩

def uPinT : State := got [keyIn 320 bdkT k1, keyIn 321 (tdesKey .p0 .b) k1] (sBdk xPinT)

theorem witness_DukptCommands_pin :
    (Ready (sBdk xPinT) 7 env0 0x0502 xPinT ∧ readKsn xPinT = ksn1 ∧ xPinT.byte 0x4D = 0 ∧ xPinT.byte 0x4E = 0
      ∧ Formed xPinT 0 [(offA, heldType), (offB, anyType)] ([(0x40, 10), (0x4C, 1), (0x4D, 1), (0x4E, 1), (0x50, 16)] ++ [(0x60, 12)])
          [.slot 320, .slot 321]
      ∧ ksnFieldOk xPinT = true ∧ translatePair 0 0 = true ∧ pinBlockOk 0 (xPinT.bytes 0x50 16) = true
      ∧ readPan (xPinT.bytes 0x60 12) = some pan16 ∧ xPinT.dataLen = 0 ∧ pinLen 0 ≤ xPinT.resultCap
      ∧ pinServes (runOf 7 env0 xPinT) 0 uPinT ∧ Lanes (pinDrawn (runOf 7 env0 xPinT) 0 uPinT))
    ∧ FindsBoth (runOf 7 env0 xPinT) (.slot 320) (.slot 321) (fun q => bdkOk true q && (0 = 4) = !true) (pinKey 0 true) (fun _ _ => true)
        (sBdk xPinT) (keyIn 320 bdkT k1) (keyIn 321 (tdesKey .p0 .b) k1) uPinT
    ∧ (dkcStep (runOf 7 env0 xPinT) ksn1 (keyIn 320 bdkT k1)).run uPinT = (.ok (zeros 16), uPinT) :=
  ⟨by decide +kernel, rfl, rfl⟩

/-- The initial key of a terminal, exported under the KBPK of slot 328. -/
def tplB1 : Bytes := ascii "D0000B1AX00E0000"
def xInit : Entry := cmd 0x0504 0 (slotRef 320) (slotRef 328) 0 4096 (place [(0x40, [1, 2, 3, 4, 5, 6, 7, 8]), (0x50, tplB1)])
def sInit : State := sCmd xInit (keyAt 320 bdkA k1 ++ keyAt 328 wrapKey (zeros 32))

def uInit : State := got [keyIn 320 bdkA k1, keyIn 328 wrapKey (zeros 32)] sInit

theorem witness_DukptCommands_initial :
    (Ready sInit 7 env0 0x0504 xInit ∧ Formed xInit 0 [(offA, heldType), (offB, anyType)] [(0x40, 8), (0x48, 1), (0x50, 16)] [.slot 320, .slot 328]
      ∧ xInit.byte 0x48 = 0 ∧ templateForm (xInit.bytes 0x50 16) = true ∧ xInit.dataLen = 0
      ∧ readHeader (xInit.bytes 0x50 16) = some ⟨.b1, .a, .x, 2⟩ ∧ xInit.drbg = 0 ∧ (uInit.drbg 0).state ≠ 2)
    ∧ FindsBoth (runOf 7 env0 xInit) (.slot 320) (.slot 328) (bdkOk false) (isKbpk true) (fun bdk kb => decide (bdk.val.length ≤ kb.val.length)) sInit
        (keyIn 320 bdkA k1) (keyIn 328 wrapKey (zeros 32)) uInit
    ∧ ∃ blk n, writeBlock (uInit.drbgOut 0 64) (zeros 32) 2 (byteAt (xInit.bytes 0x50 16) 14) (newAttr ⟨.b1, .a, .x, 2⟩ 16 5) { ik := xInit.bytes 0x40 8 }
        (dukptInitial false k1 (xInit.bytes 0x40 8)) = some (blk, n) ∧ blk.length ≤ 4096 ∧ Lanes (drbgRequest 0 n uInit) := by
  refine ⟨by decide +kernel, rfl, ?_⟩
  obtain ⟨blk, n, h1, h2⟩ := fits (writeBlock (uInit.drbgOut 0 64) (zeros 32) 2 (byteAt (xInit.bytes 0x50 16) 14) (newAttr ⟨.b1, .a, .x, 2⟩ 16 5)
    { ik := xInit.bytes 0x40 8 } (dukptInitial false k1 (xInit.bytes 0x40 8))) (by decide +kernel)
  exact ⟨blk, n, h1, h2, (by decide : (1 : BitVec 2) ≠ 2)⟩

/-- A derivation cache of 128 sets, whose every first way holds the terminal's entry; the pitch may have its replay filter on. -/
def xFresh : Entry := { xData with anchor := none }
def sDkc (on : Bool) (high : Nat) : State :=
  let s := (sBdk xFresh).updPitch 5 fun v => { v with dkcCap := 1, replayOn := on }
  { s with caches := { s.caches with
      dkc := (List.range 128).map fun j => (dkcKey 5 (8 * j), { valid := true, tdes := true, binding := .slot 320 0, id := ksn1.id, high := high }) } }

theorem dkc_set (s : State) (k : Ksn) (b : Binding) (h : (s.pitch 5).dkcCap = 1) : s.dkcSet 5 k.tdes k.id b < 128 := by
  unfold State.dkcSet; rw [h]; exact Nat.mod_lt _ (by decide)

theorem dkc_first : ∀ on : Bool, ∀ high ∈ [0, 9], ∀ j < 128, ((List.range 8).map fun w => 8 * j + w).find? (fun i =>
    (sDkc on high).dkcLive 5 i && ((sDkc on high).dkcEntry 5 i).tdes = ksn1.tdes && ((sDkc on high).dkcEntry 5 i).binding = .slot 320 0
      && ((sDkc on high).dkcEntry 5 i).id = ksn1.id) = some (8 * j)
    ∧ ((sDkc on high).dkcEntry 5 (8 * j)).high = high ∧ ((sDkc on high).dkcEntry 5 (8 * j)).anchor = highOf ksn1.ctr := by decide +kernel

theorem witness_DukptCommands_cache : (xFresh.anchor = none ∧ ksn1.reachable = true
      ∧ ∀ on high, (sDkc on high).walkerBusy xFresh.pitch ksn1 (.slot 320 0) = false)
    ∧ (∃ i, (sDkc true 9).dkcFind 5 ksn1.tdes ksn1.id (.slot 320 0) = some i ∧ (sDkc true 9).replayRefuses 5 ksn1.ctr ((sDkc true 9).dkcEntry 5 i).high = true)
    ∧ (∃ i, (sDkc false 0).dkcFind 5 ksn1.tdes ksn1.id (.slot 320 0) = some i ∧ (sDkc false 0).replayRefuses 5 ksn1.ctr ((sDkc false 0).dkcEntry 5 i).high = false
        ∧ ((sDkc false 0).dkcEntry 5 i).anchor = highOf ksn1.ctr)
    ∧ ((sBdk xFresh).dkcFind 5 ksn1.tdes ksn1.id (keyIn 320 bdkT k1).binding = none ∧ (sBdk xFresh).caches.walker0 = none
      ∧ (sBdk xFresh).caches.walkQueue = [] ∧ (sBdk xFresh).walkerBusy xFresh.pitch ksn1 (keyIn 320 bdkT k1).binding = false ∧ (sBdk xFresh).entry 7 = some xFresh)
    ∧ ({ ksn1 with ctr := 0x1FFFFF } : Ksn).reachable = false := by
  have hj := fun on high => dkc_set (sDkc on high) ksn1 (.slot 320 0) rfl
  refine ⟨⟨rfl, by decide, fun _ _ => rfl⟩, ?_, ?_, by decide +kernel, by decide⟩
  · obtain ⟨h1, h2, h3⟩ := dkc_first true 9 (by decide) _ (hj true 9)
    refine ⟨8 * (sDkc true 9).dkcSet 5 ksn1.tdes ksn1.id (.slot 320 0), ?_, ?_⟩
    · unfold State.dkcFind; exact h1
    · rw [h2]; decide
  · obtain ⟨h1, h2, h3⟩ := dkc_first false 0 (by decide) _ (hj false 0)
    refine ⟨8 * (sDkc false 0).dkcSet 5 ksn1.tdes ksn1.id (.slot 320 0), ?_, ?_, h3⟩
    · unfold State.dkcFind; exact h1
    · rw [h2]; decide

/-- A walker at work for the command, towards an entry that is there. -/
def walk0 (gen : BitVec 16) : Walker :=
  { entry := 7, pitch := 5, tdes := true, binding := .slot 320 0, id := ksn1.id, anchor := 0, key := zeros 16, gen := gen, mode := 1 }
def sWalk (gen : BitVec 16) : State :=
  let s := sDkc false 0
  { s with caches := { s.caches with walker0 := some (walk0 gen) }, sch := { s.sch with entries := [(7, some { xFresh with walker := some 0 })] } }

theorem walk_find (k : Bytes) : (sWalk 0).dkcFind 5 true k (.slot 320 0) = (sDkc false 0).dkcFind 5 true k (.slot 320 0) := rfl

theorem witness_DukptCommands_walker :
    (∀ g, (sWalk g).caches.walker0 = some (walk0 g) ∧ (sWalk g).entry 7 = some { xFresh with walker := some 0 })
    ∧ (walk0 1).gen ≠ ((sWalk 1).pitch 5).gen ∧ (walk0 0).gen = ((sWalk 0).pitch 5).gen ∧ (walk0 0).mode = 1
    ∧ ∃ i, (sWalk 0).dkcFind 5 true ksn1.id (.slot 320 0) = some i := by
  refine ⟨fun _ => ⟨rfl, rfl⟩, by decide, by decide, by decide, ?_⟩
  obtain ⟨h1, -, -⟩ := dkc_first false 0 (by decide) _ (dkc_set (sDkc false 0) { tdes := true, id := ksn1.id, ctr := 0 } (.slot 320 0) rfl)
  refine ⟨8 * (sDkc false 0).dkcSet 5 true ksn1.id (.slot 320 0), ?_⟩
  rw [walk_find]
  unfold State.dkcFind
  exact h1

/-! ## Public-key, lattice and remote key commands -/

def eccKey (u : Use) (m : Mode) (n : Nat) : Attr := { use := u, alg := .e, mode := m, expo := 2, len := n, owner := 5 }
def tplAes : Bytes := ascii "D0000D0AB00E0000"
def sOne (x : Entry) (a : Attr) : State := sKey1 x a (zeros a.len)

/-- A result is an answer, whose value is not asked for. -/
def isOk {α : Type} (r : Except Stop α × State) : Bool := match r.1 with
  | .ok _ => true
  | .error _ => false
theorem ok_of_isOk {α : Type} (r : Except Stop α × State) (h : isOk r = true) : ∃ a u, r = (.ok a, u) := by
  obtain ⟨x, u⟩ := r
  cases x with
  | ok a => exact ⟨a, u, rfl⟩
  | error e => cases h

def xSign : Entry := cmd 0x0801 0 (slotRef 320) 0 32 64 (place [(0x40, [1, 1])])
def sSign : State := sOne xSign (eccKey .s0 .s 32)
def uSign : State := got [keyIn 320 (eccKey .s0 .s 32) (zeros 32)] sSign
def xVer : Entry := cmd 0x0802 0 (slotRef 320) 0 96 0 (place [(0x40, [1, 1]), (0x48, [64])])
def sVer : State := sOne xVer (eccKey .s0 .v 65)
def uVer : State := got [keyIn 320 (eccKey .s0 .v 65) (zeros 65)] sVer

theorem witness_PublicKeyCommands_sign :
    ((Ready sSign 7 (text (zeros 32)) 0x0801 xSign ∧ Formed xSign 0 [(offA, heldType), (offB, [0])] sigFields [.slot 320, .none]
        ∧ xSign.byte 0x40 = 1 ∧ sigFieldsOk xSign = true ∧ sigDataOk xSign xSign.dataLen = true
        ∧ sigLen 1 (modulusLen (eccKey .s0 .s 32)) ≤ xSign.resultCap ∧ TwoServe false uSign ∧ Input uSign xSign (text (zeros 32)) (zeros 32))
      ∧ SignCount (runOf 7 (text (zeros 32)) xSign) (keyIn 320 (eccKey .s0 .s 32) (zeros 32)) uSign 0 uSign
      ∧ Finds (runOf 7 (text (zeros 32)) xSign) (.slot 320) (sigKey 1 false) sSign (keyIn 320 (eccKey .s0 .s 32) (zeros 32)) uSign
      ∧ ∃ rand y, SignDraw 7 1 (sigExtra xSign (zeros 32)) uSign rand y)
    ∧ (Ready sVer 7 (text (zeros 96)) 0x0802 xVer
        ∧ Formed xVer 0 [(offA, anyType), (offB, [0])] (sigFields ++ [(0x48, 2)]) [.slot 320, .none] ∧ sigFieldsOk xVer = true
        ∧ sigDataOk xVer (zeros 32).length = true ∧ xVer.num 0x48 2 = sigLen 1 0 ∧ isRsaSig 1 = false
        ∧ (zeros 64).length = xVer.num 0x48 2 ∧ Input uVer xVer (text (zeros 96)) (zeros 32 ++ zeros 64))
      ∧ Finds (runOf 7 (text (zeros 96)) xVer) (.slot 320) (sigKey 1 true) sVer (keyIn 320 (eccKey .s0 .v 65) (zeros 65)) uVer :=
  ⟨⟨by decide +kernel, .inl ⟨by decide, rfl, rfl⟩, rfl, ok_of_isOk _ (by decide +kernel)⟩, by decide +kernel, rfl⟩

/-- A signing key with a counter of uses meets the other case of SignCount. -/
theorem witness_sign_counter :
    let x := cmd 0x0801 0 (slotRef 320) 0 32 64 (place [(0x40, [1, 1])])
    let a := { eccKey .s0 .s 32 with ctrKind := 1, ctrLimit := 2 }
    let s := sCmd x (keyAt 320 a (zeros 32) ++ [(321, { key := zeros 32, attrs := tailAttrs 5 3 })])
    (keyIn 320 a (zeros 32)).attr.ctrKind = 1 ∧ s.replayBusy 7 5 x.sqe = false ∧ s.replayFind 5 x.sqe = none
      ∧ isOk ((spendCounter (runOf 7 (text (zeros 32)) x) (keyIn 320 a (zeros 32))).run s) = true := by decide +kernel

def xAgree : Entry := cmd 0x0803 1 (slotRef 320) 0 65 8 (place [(0x40, [1, 0x21]), (0x44, toLE 4 384), (0x50, tplAes)])

/-- Block 6 is the pitch's as well. -/
def sAgree : State :=
  let s := sOne xAgree (eccKey .k3 .x 32)
  { s with pit := { s.pit with blocks := s.pit.blocks.set .home 6 (.other 5) } }
def uAgree : State := got [keyIn 320 (eccKey .k3 .x 32) (zeros 32)] sAgree

theorem witness_PublicKeyCommands_agree :
    (Ready sAgree 7 (text (zeros 65)) 0x0803 xAgree
      ∧ Formed xAgree 1 [(offA, anyType), (offB, [0])] ([(0x40, 1), (0x41, 1), (0x42, 1), (0x50, 16)] ++ targetField xAgree 0x44) [.slot 320, .none]
      ∧ isEcdsa 1 = true ∧ templateForm (xAgree.bytes 0x50 16) = true ∧ targetOk (runOf 7 (text (zeros 65)) xAgree) 0x44 = true
      ∧ (zeros 65).length = 2 * curveLen 1 + 1 ∧ xAgree.byte 0x42 = 0 ∧ Input uAgree xAgree (text (zeros 65)) (zeros 65 ++ [])
      ∧ symTemplate (xAgree.bytes 0x50 16) (agreeLen (byteAt (xAgree.bytes 0x50 16) 7)) = some ⟨.d0, .a, .b, 2⟩)
    ∧ (xAgree.flag 8 = true ∧ uAgree.blockOwner (xAgree.num 0x44 4 / 64) = some 5
      ∧ slotsFree uAgree (xAgree.num 0x44 4) (newAttr ⟨.d0, .a, .b, 2⟩ 32 5) = true ∧ 8 ≤ xAgree.resultCap)
    ∧ Finds (runOf 7 (text (zeros 65)) xAgree) (.slot 320) (agreeKey 1) sAgree (keyIn 320 (eccKey .k3 .x 32) (zeros 32)) uAgree :=
  ⟨by decide +kernel, by decide +kernel, rfl⟩

/-- An RSA-2048 private key: two primes' places of 0xFF, the rest zeros. -/
def rsaKey : Attr := { use := .k2, alg := .r, mode := .d, expo := 2, len := 644, owner := 5 }
def rsaVal : Bytes := List.replicate 256 0xFF ++ zeros 388
def xRsa : Entry := cmd 0x0804 0 (slotRef 320) 0 256 8 (place [(0x40, [0x22, 1, 1]), (0x50, tplAes)])
def rsaText : Bytes := zeros 255 ++ [1]

def uRsa : State := got [keyIn 320 rsaKey rsaVal] (sKey1 xRsa rsaKey rsaVal)

theorem witness_PublicKeyCommands_rsa :
    (Ready (sKey1 xRsa rsaKey rsaVal) 7 (text rsaText) 0x0804 xRsa
      ∧ Formed xRsa 0 [(offA, anyType), (offB, [0])] [(0x40, 1), (0x41, 1), (0x42, 1), (0x44, 1), (0x50, 16)] [.slot 320, .none]
      ∧ xRsa.byte 0x40 = 0x22 ∧ xRsa.byte 0x41 = 1 ∧ xRsa.byte 0x42 = 1 ∧ templateForm (xRsa.bytes 0x50 16) = true ∧ modulusLen rsaKey = 256
      ∧ xRsa.byte 0x44 = 0 ∧ Input uRsa xRsa (text rsaText) (rsaText ++ []) ∧ rsaText.length = 256 ∧ 8 ≤ xRsa.resultCap ∧ beNat rsaText ≠ 0
      ∧ beNat rsaText < privateModulus rsaVal 256 ∧ (sKey1 xRsa rsaKey rsaVal).slotKey 320 = some (keyIn 320 rsaKey rsaVal)
      ∧ Allowed (sKey1 xRsa rsaKey rsaVal) (runOf 7 (text rsaText) xRsa) false (keyIn 320 rsaKey rsaVal)) := by decide +kernel
set_option maxRecDepth 40000 in
theorem witness_PublicKeyCommands_rsa_key :
    Finds (runOf 7 (text rsaText) xRsa) (.slot 320) (fun k => k.attr.use = .k2 && k.attr.mode = .d) (sKey1 xRsa rsaKey rsaVal) (keyIn 320 rsaKey rsaVal) uRsa
    ∧ (checkModulus (runOf 7 (text rsaText) xRsa) (.slot 320) 256).run (sKey1 xRsa rsaKey rsaVal) = (.ok (), sKey1 xRsa rsaKey rsaVal) := ⟨rfl, rfl⟩

theorem witness_PublicKeyCommands_generate :
    let x := cmd 0x0805 0 0 0 0 256 (place [(0x40, [1]), (0x50, ascii "D0000S0ES00E0000")])
    Ready (sCmd x []) 7 env0 0x0805 x ∧ x.captured = none
      ∧ Formed x 1 [(offA, [0]), (offB, 0 :: anyType)] ([(0x40, 1), (0x50, 16)] ++ [] ++ targetField x 0x48) [.none, .none]
      ∧ isEcdsa (x.byte 0x40) = true ∧ isRsa (x.byte 0x40) = false ∧ templateForm (x.bytes 0x50 16) = true ∧ targetOk (runOf 7 env0 x) 0x48 = true ∧ x.dataLen = 0
      ∧ genTemplate (x.bytes 0x50 16) 1 (x.num 0x42 2) = some ⟨.s0, .e, .s, 2⟩ ∧ x.flag 8 = false ∧ 8 + genPublicLen 1 (x.num 0x42 2) ≤ x.resultCap
      ∧ TwoServe false (kept 7 [none] (sCmd x [])) ∧ ((kept 7 [none] (sCmd x [])).drbg 7).state ≠ 2 := by decide +kernel

def latKey (u : Use) (m : Mode) (n : Nat) : Attr := { use := u, alg := .l, mode := m, expo := 2, len := n, owner := 5 }
def xEnc : Entry := cmd 0x0901 0 (slotRef 320) 0 0 2000 (place [(0x40, [1]), (0x50, tplAes)])
def xDec : Entry := cmd 0x0902 0 (slotRef 320) 0 768 0 (place [(0x40, [1]), (0x50, tplAes)])

def sEnc : State := sOne xEnc (latKey .u92 .e 800)
def uEnc : State := got [keyIn 320 (latKey .u92 .e 800) (zeros 800)] sEnc
def sDec : State := sOne xDec (latKey .u92 .d 64)
def uDec : State := got [keyIn 320 (latKey .u92 .d 64) (zeros 64)] sDec

set_option maxRecDepth 40000 in
theorem witness_LatticeAndRemoteCommands_kem :
    (Ready sEnc 7 env0 0x0901 xEnc ∧ Formed xEnc 1 [(offA, anyType), (offB, [0])] (kemFields xEnc) [.slot 320, .none]
      ∧ kemFieldsOk (runOf 7 env0 xEnc) = true ∧ xEnc.dataLen = 0 ∧ kemTemplate (xEnc.bytes 0x50 16) = some ⟨.d0, .a, .b, 2⟩
      ∧ xEnc.flag 8 = false ∧ kemCtLen 1 ≤ xEnc.resultCap ∧ kemModulusOk (zeros 800) = true
      ∧ kemModulusOk (List.replicate 800 0xFF) = false ∧ (uEnc.drbg 8).state ≠ 2)
    ∧ Finds (runOf 7 env0 xEnc) (.slot 320) (fun k => k.attr.use = .u92 && k.attr.mode = .e && k.attr.len = kemKeyLen (xEnc.byte 0x40))
        sEnc (keyIn 320 (latKey .u92 .e 800) (zeros 800)) uEnc
    ∧ (Ready sDec 7 (text (zeros 768)) 0x0902 xDec
      ∧ Formed xDec 1 [(offA, heldType), (offB, [0])] (kemFields xDec) [.slot 320, .none] ∧ kemFieldsOk (runOf 7 (text (zeros 768)) xDec) = true
      ∧ Input uDec xDec (text (zeros 768)) (zeros 768) ∧ (zeros 768).length = kemCtLen (xDec.byte 0x40)
      ∧ kemTemplate (xDec.bytes 0x50 16) = some ⟨.d0, .a, .b, 2⟩ ∧ xDec.flag 8 = false)
    ∧ Finds (runOf 7 (text (zeros 768)) xDec) (.slot 320) (fun k => k.attr.use = .u92 && k.attr.mode = .d) sDec
        (keyIn 320 (latKey .u92 .d 64) (zeros 64)) uDec := ⟨by decide +kernel, rfl, by decide +kernel, rfl⟩

def xDsa (h : Byte) : Entry := cmd 0x0903 0 (slotRef 320) 0 3 4000 (place [(0x40, [1, 0, h])])
def sDsa (h : Byte) : State := sOne (xDsa h) (latKey .u93 .s 32)
def uDsa (h : Byte) : State := got [keyIn 320 (latKey .u93 .s 32) (zeros 32)] (sDsa h)
def xDsaV : Entry := cmd 0x0904 0 (slotRef 320) 0 2423 0 (place [(0x40, [1]), (0x48, toLE 2 2420)])
def sDsaV : State := sOne xDsaV (latKey .u93 .v 1312)
def uDsaV : State := got [keyIn 320 (latKey .u93 .v 1312) (zeros 1312)] sDsaV

set_option maxRecDepth 40000 in
theorem witness_LatticeAndRemoteCommands_dsa :
    (∀ h ∈ [(0 : Byte), 1], Ready (sDsa h) 7 (text [1, 2, 3]) 0x0903 (xDsa h)
      ∧ Formed (xDsa h) 0 [(offA, anyType), (offB, [0])] dsaFields [.slot 320, .none] ∧ dsaFieldsOk (xDsa h) = true
      ∧ Input (uDsa h) (xDsa h) (text [1, 2, 3]) [1, 2, 3] ∧ dsaDataOk (xDsa h) 3 = true ∧ dsaSigLen ((xDsa h).byte 0x40) ≤ (xDsa h).resultCap
      ∧ TwoServe true (uDsa h) ∧ ((xDsa h).byte 0x42 = 0 ∨ (xDsa h).byte 0x42 = 1) ∧ ((uDsa h).drbg 8).state ≠ 2)
    ∧ (Finds (runOf 7 (text [1, 2, 3]) (xDsa 0)) (.slot 320) (fun k => k.attr.use = .u93 && k.attr.mode = .s) (sDsa 0)
        (keyIn 320 (latKey .u93 .s 32) (zeros 32)) (uDsa 0)
      ∧ SignCount (runOf 7 (text [1, 2, 3]) (xDsa 0)) (keyIn 320 (latKey .u93 .s 32) (zeros 32)) (uDsa 0) 0 (uDsa 0))
    ∧ (Ready sDsaV 7 (text (zeros 2423)) 0x0904 xDsaV
      ∧ Formed xDsaV 0 [(offA, anyType), (offB, [0])] (dsaFields ++ [(0x48, 2)]) [.slot 320, .none] ∧ dsaFieldsOk xDsaV = true ∧ xDsaV.byte 0x40 ≠ 3
      ∧ xDsaV.num 0x48 2 = dsaSigLen (xDsaV.byte 0x40) ∧ (zeros 2420).length = xDsaV.num 0x48 2 ∧ dsaDataOk xDsaV (zeros 3).length = true
      ∧ Input uDsaV xDsaV (text (zeros 2423)) (zeros 3 ++ zeros 2420))
    ∧ Finds (runOf 7 (text (zeros 2423)) xDsaV) (.slot 320)
        (fun k => k.attr.use = .u93 && k.attr.mode = .v && k.attr.len = dsaKeyLen (xDsaV.byte 0x40)) sDsaV
        (keyIn 320 (latKey .u93 .v 1312) (zeros 1312)) uDsaV :=
  ⟨by decide +kernel, ⟨rfl, .inl ⟨by decide, rfl, rfl⟩⟩, by decide +kernel, rfl⟩

/-- A data key sent by profile 1 to an RSA-2048 key, signed by another. -/
def rsaRcpt : Attr := { use := .k2, alg := .r, mode := .e, expo := 2, len := 260, owner := 5 }
def rcptVal : Bytes := List.replicate 256 0xFF ++ [0, 1, 0, 1]
def rsaSigner : Attr := { use := .s0, alg := .r, mode := .s, expo := 2, len := 644, owner := 5 }
def xSend : Entry := cmd 0x0A02 0 (slotRef 320) (slotRef 322) 0 1000 (place [(0x40, [1]), (0x48, toLE 8 (slotRef 340))])
def rcpt0 : Key := keyIn 322 rsaRcpt rcptVal
def signer0 : Key := keyIn 340 rsaSigner rsaVal
def sSend : State := sCmd xSend (keyAt 320 dataKey (zeros 16) ++ keyAt 322 rsaRcpt rcptVal ++ keyAt 340 rsaSigner rsaVal)
def uSend : State := got [keyIn 320 dataKey (zeros 16), rcpt0, signer0] sSend

/-- Its secret, its block. -/
def sendSecret : Except Stop (Bytes × Bytes) × State := (encapsulate 1 rcpt0 []).run (drbgRequest 0 16 uSend)
def sendHead (enc : Bytes) : Bytes :=
  transportHead 1 3 256 128 256 (uSend.drbgOut 0 16) (keyPrint rcptVal) (keyPrint (pkPublic 0x21 rsaVal)) ++ enc

set_option maxRecDepth 40000 in
theorem witness_LatticeAndRemoteCommands_send :
    (Ready sSend 7 env0 0x0A02 xSend
      ∧ Formed xSend 0 ([(offA, anyType), (offB, anyType), (offC, anyType)] ++ []) ([(0x40, 1), (0x48, 8)] ++ []) [.slot 320, .slot 322, .slot 340]
      ∧ xSend.byte 0x40 = 1 ∧ profileOk 1 = true ∧ xSend.dataLen = 0 ∧ transportSig rsaSigner = some (3, 0x21, 256)
      ∧ encLen 1 rsaRcpt = 256 ∧ blockLength { keyIn 320 dataKey (zeros 16) with val := zeros 32 } dataKey {} 16 = 128
      ∧ dataKey.expo ≠ 1 ∧ 64 + 256 + 128 + 256 ≤ xSend.resultCap ∧ xSend.drbg = 0 ∧ TwoServe false uSend ∧ (uSend.drbg 0).state ≠ 2)
    ∧ (capture (runOf 7 env0 xSend) (sendWants (runOf 7 env0 xSend) 1 [.slot 320, .slot 322, .slot 340]) (fun _ => true)).run sSend
        = (.ok ([some (keyIn 320 dataKey (zeros 16)), some rcpt0, some signer0] ++ []), uSend) := ⟨by decide +kernel, rfl⟩

theorem witness_LatticeAndRemoteCommands_send_block : ∃ enc z w, sendSecret = (.ok (enc, z), w) ∧ (w.drbg 0).state ≠ 2
    ∧ ∃ blk n, writeBlock (w.drbgOut 0 64) (transportKbpk z (sendHead enc)) 0 0x30 dataKey {} (zeros 16) = some (blk, n)
      ∧ 64 + 256 + 256 + blk.length ≤ xSend.resultCap
      ∧ ∃ rand y sig, SignDraw 7 0x21 (toLE 2 48) (drbgRequest 0 n w) rand y
        ∧ pkSign 0x21 2 (toLE 2 48) rsaVal (sha384 (sendHead enc ++ blk)) rand = some sig := by
  have g : (match sendSecret with
      | (.ok (enc, z), w) => decide ((w.drbg 0).state ≠ 2)
          && (match writeBlock (w.drbgOut 0 64) (transportKbpk z (sendHead enc)) 0 0x30 dataKey {} (zeros 16) with
            | some (blk, n) => decide (64 + 256 + 256 + blk.length ≤ xSend.resultCap)
                && isOk ((drawSign 7 0x21 (toLE 2 48)).run (drbgRequest 0 n w))
            | none => false)
      | _ => false) = true := by decide +kernel
  split at g
  · rename_i enc z w e
    rw [Bool.and_eq_true, decide_eq_true_eq] at g
    obtain ⟨h1, h2⟩ := g
    split at h2
    · rename_i blk n e2
      rw [Bool.and_eq_true, decide_eq_true_eq] at h2
      obtain ⟨rand, y, h3⟩ := ok_of_isOk _ h2.2
      exact ⟨enc, z, w, e, h1, blk, n, e2, h2.1, rand, y, _, h3, rfl⟩
    · cases h2
  · cases g

/-- A message of profile 2 for it, in its form alone: 97 bytes, a block of 128, a signature of 96. -/
def msg0 : Bytes := [1, 2, 1, 0] ++ toLE 2 97 ++ toLE 2 128 ++ toLE 2 96 ++ zeros 375
def xRecv : Entry := cmd 0x0A01 0 (slotRef 320) (slotRef 322) 385 8 (place [(0x40, [2])])
def sRecv : State := sCmd xRecv (keyAt 320 (eccKey .k3 .x 48) (zeros 48) ++ keyAt 322 (eccKey .s0 .v 97) (zeros 97))
def uRecv : State := got [keyIn 320 (eccKey .k3 .x 48) (zeros 48), keyIn 322 (eccKey .s0 .v 97) (zeros 97)] sRecv

set_option maxRecDepth 40000 in
theorem witness_LatticeAndRemoteCommands_receive :
    (Ready sRecv 7 (text msg0) 0x0A01 xRecv
      ∧ Formed xRecv 1 ([(offA, anyType), (offB, anyType)] ++ []) ([(0x40, 1)] ++ [] ++ targetField xRecv 0x44) [.slot 320, .slot 322]
      ∧ xRecv.byte 0x40 = 2 ∧ targetOk (runOf 7 (text msg0) xRecv) 0x44 = true ∧ Input uRecv xRecv (text msg0) msg0
      ∧ msg0.length = 64 + 97 + 128 + fieldLE msg0 8 2
      ∧ xRecv.flag 8 = false ∧ 8 ≤ xRecv.resultCap ∧ fieldLE msg0 4 2 = encLen 2 (eccKey .k3 .x 48) ∧ fieldLE msg0 6 2 = 128 ∧ byteAt msg0 0 = 1
      ∧ (byteAt msg0 1).toNat = 2 ∧ byteAt msg0 3 = 0 ∧ allZero (slice msg0 0x0A 6) = true)
    ∧ (capture (runOf 7 (text msg0) xRecv) (receiveWants (runOf 7 (text msg0) xRecv) 2 [.slot 320, .slot 322]) (fun _ => true)).run sRecv
        = (.ok ([some (keyIn 320 (eccKey .k3 .x 48) (zeros 48)), some (keyIn 322 (eccKey .s0 .v 97) (zeros 97))] ++ []), uRecv) :=
  ⟨by decide +kernel, rfl⟩

end Sys2Proof.Tests
end

section
/-! What an event, a tally record and a discard can change of the state (R7, R458 to R473), as relations that chain: the proofs about
inverted-shadow registers and register writes use them and do not unfold the tally. -/

namespace Sys2Proof.Machine

open Sys2Proof.Safety

/-- `t` is `s` but for what an event changes. -/
def OnlyEvents (s t : State) : Prop := ∃ u, t = withEvents s u

/-- `t` is `s` but for what a tally record changes. -/
def OnlyNotes (s t : State) : Prop := ∃ u, t = withNotes s u

/-- `t` is `s` but for what a tally record changes, and the pending inverted-shadow writes. -/
def OnlyDiscards (s t : State) : Prop := ∃ u, t = { withNotes s u with rwi := u.rwi }

variable {s t u : State}

theorem OnlyEvents.of_eq (h : t = withEvents s t) : OnlyEvents s t := ⟨t, h⟩

theorem OnlyEvents.refl (s : State) : OnlyEvents s s := .of_eq rfl

theorem OnlyEvents.trans : OnlyEvents s t → OnlyEvents t u → OnlyEvents s u := by
  rintro ⟨x, rfl⟩ ⟨y, rfl⟩
  exact ⟨y, rfl⟩

theorem OnlyNotes.of_eq (h : t = withNotes s t) : OnlyNotes s t := ⟨t, h⟩

theorem OnlyNotes.trans : OnlyNotes s t → OnlyNotes t u → OnlyNotes s u := by
  rintro ⟨x, rfl⟩ ⟨y, rfl⟩
  exact ⟨y, rfl⟩

theorem OnlyEvents.notes : OnlyEvents s t → OnlyNotes s t := by
  rintro ⟨x, rfl⟩
  exact ⟨{ x with tly := s.tly }, rfl⟩

theorem OnlyDiscards.trans : OnlyDiscards s t → OnlyDiscards t u → OnlyDiscards s u := by
  rintro ⟨x, rfl⟩ ⟨y, rfl⟩
  exact ⟨y, rfl⟩

theorem OnlyNotes.discards : OnlyNotes s t → OnlyDiscards s t := by
  rintro ⟨x, rfl⟩
  exact ⟨{ x with rwi := s.rwi }, rfl⟩

/-! ## Events (R471 to R473) -/

theorem msixSend_onlyEvents (port : Port) (fn : BitVec 7) (vec : BitVec 11) (s : State) : OnlyEvents s (msixSend port fn vec s) := by
  simp only [msixSend]
  split
  · exact .of_eq rfl
  · split
    · exact .refl s
    · exact .of_eq rfl

theorem evcOvf_onlyEvents (s : State) : OnlyEvents s (evcOvf s) := .of_eq rfl

theorem raiseAt_onlyEvents (dest src : Nat) (s : State) : OnlyEvents s (raiseAt dest src s) := by
  simp only [raiseAt]
  split
  · exact evcOvf_onlyEvents s
  · exact .of_eq rfl

theorem raiseCore_onlyEvents (c src : Nat) (s : State) : OnlyEvents s (raiseCore c src s) := by
  simp only [raiseCore]
  split
  · exact .of_eq rfl
  · split
    · exact evcOvf_onlyEvents s
    · exact evcOvf_onlyEvents s
    · exact raiseAt_onlyEvents c src s

theorem raisePort_onlyEvents (port : Port) (vec : BitVec 11) (src : Nat) (s : State) : OnlyEvents s (raisePort port vec src s) := by
  simp only [raisePort]
  split
  · exact evcOvf_onlyEvents s
  · exact (raiseAt_onlyEvents _ _ s).trans (msixSend_onlyEvents _ _ _ _)

theorem raiseCores_onlyEvents (cores : BitVec 24) (src : Nat) : ∀ (n : Nat) (s : State), OnlyEvents s (raiseCores cores src n s)
  | 0, s => .refl s
  | n + 1, s => by
    have ih := raiseCores_onlyEvents cores src n s
    simp only [raiseCores]
    split
    · exact ih.trans (raiseCore_onlyEvents _ _ _)
    · exact ih

/-- An effect behind a condition. -/
theorem OnlyEvents.ite {c : Prop} [Decidable c] {f : State → State} (hf : ∀ s, OnlyEvents s (f s)) (s : State) :
    OnlyEvents s (if c then f s else s) := by
  split
  · exact hf s
  · exact .refl s

theorem raise_onlyEvents (src : Nat) (s : State) : OnlyEvents s (raise src s) :=
  (((raiseCores_onlyEvents _ src 24 s).trans (.ite (raiseAt_onlyEvents 24 src) _)).trans
    (.ite (raisePort_onlyEvents .a _ src) _)).trans (.ite (raisePort_onlyEvents .b _ src) _)

/-! ## The tally (R458 to R466) -/

theorem startFlush_onlyNotes (s : State) : OnlyNotes s (startFlush s) := by
  simp only [startFlush]
  split
  · exact .of_eq rfl
  · exact .of_eq rfl

theorem raise_onlyNotes (src : Nat) (s : State) : OnlyNotes s (raise src s) := (raise_onlyEvents src s).notes

/-- The tally block alone changes. -/
theorem onlyNotes_tly (s : State) (x : Tly) : OnlyNotes s { s with tly := x } := .of_eq rfl

/-- The record as it stands in the buffer, with its number and stamps. -/
def stamped (r : TallyRec) (s : State) : TallyRec :=
  { r with number := s.tly.next, seconds := s.tly.seconds, cycles := s.tly.cycles, csn := if r.own then r.csn else s.csn,
           headCopy := decide (s.tly.next.toNat < 1024) }

/-- The state with the record in the buffer. -/
def buffered (r : TallyRec) (s : State) : State :=
  { s with tly := { s.tly with buffer := s.tly.buffer ++ [stamped r s], next := s.tly.next + 1 } }

theorem enterBuffer_eq (r : TallyRec) (s : State) :
    enterBuffer r s = if (buffered r s).tly.buffer.length = 128 then startFlush (raise 473 (buffered r s)) else buffered r s := rfl

theorem enterBuffer_onlyNotes (r : TallyRec) (s : State) : OnlyNotes s (enterBuffer r s) := by
  have hbuf : OnlyNotes s (buffered r s) := onlyNotes_tly s _
  rw [enterBuffer_eq]
  split
  · exact (hbuf.trans (raise_onlyNotes _ _)).trans (startFlush_onlyNotes _)
  · exact hbuf

theorem tallyDrop_onlyNotes (s : State) : OnlyNotes s (tallyDrop s) := (onlyNotes_tly s _).trans (raise_onlyNotes _ _)

theorem tallyExempt_onlyNotes (r : TallyRec) (s : State) : OnlyNotes s (tallyExempt r s) := by
  simp only [tallyExempt]
  split
  · exact (enterBuffer_onlyNotes r s).trans (startFlush_onlyNotes _)
  · split
    · exact onlyNotes_tly s _
    · exact tallyDrop_onlyNotes s

theorem tallyLimited_onlyNotes (r : TallyRec) (s : State) : OnlyNotes s (tallyLimited r s) := by
  simp only [tallyLimited]
  split
  · exact (onlyNotes_tly s _).trans (raise_onlyNotes _ _)
  · split
    · exact ((onlyNotes_tly s _).trans (onlyNotes_tly _ _)).trans (enterBuffer_onlyNotes _ _)
    · exact (onlyNotes_tly s _).trans (tallyDrop_onlyNotes _)

theorem tallyRec_onlyNotes (code : BitVec 16) (actor : BitVec 6) (event : BitVec 10) (own : Option Nat) (payload : Bytes) (s : State) :
    OnlyNotes s (tallyRec code actor event own payload s) := by
  simp only [tallyRec]
  split
  · exact tallyExempt_onlyNotes _ s
  · exact tallyLimited_onlyNotes _ s

theorem tally_onlyNotes (code : BitVec 16) (payload : Bytes) (s : State) : OnlyNotes s (tally code payload s) :=
  tallyRec_onlyNotes code 0 0x3FF none payload s

@[simp] theorem startFlush_buffer (s : State) : (startFlush s).tly.buffer = s.tly.buffer := by
  simp only [startFlush]
  split <;> rfl

theorem enterBuffer_buffer (r : TallyRec) (s : State) : (enterBuffer r s).tly.buffer = s.tly.buffer ++ [stamped r s] := by
  rw [enterBuffer_eq]
  split
  · rw [startFlush_buffer, raise_tly]
    rfl
  · rfl

theorem stamped_mem_enterBuffer (r : TallyRec) (s : State) : stamped r s ∈ (enterBuffer r s).tly.buffer := by
  rw [enterBuffer_buffer]
  exact List.mem_append_right _ List.mem_cons_self

/-- A limited record with a token and room is recorded (R463, R465). -/
theorem tally_recorded (code : BitVec 16) (payload : Bytes) (s : State) (hcode : exemptCode code.toNat = false)
    (hroom : Room code.toNat s) : Recorded s (tally code payload s) code payload := by
  obtain ⟨htoken, hplace⟩ := hroom
  simp only [tally, tallyRec, hcode, Bool.false_eq_true, if_false, tallyLimited, if_neg (Nat.not_le.mpr htoken), if_pos hplace]
  exact ⟨_, stamped_mem_enterBuffer _ _, rfl, rfl, rfl⟩

end Sys2Proof.Machine
end

section
/-! Inverted-shadow registers (R7 to R9): what a discard leaves, what a permitted write and its companion come to, case by case. -/

namespace Sys2Proof.Machine

open Sys2Proof.Safety

variable {s t : State}

/-! ## What a discard leaves -/

theorem OnlyDiscards.rwiGet (h : OnlyDiscards s t) (q : RwiReg) : t.rwiGet q = s.rwiGet q := by
  obtain ⟨u, rfl⟩ := h
  cases q <;> rfl

theorem OnlyDiscards.commitRefusal (h : OnlyDiscards s t) (r : RwiReg) (v : Word) : t.commitRefusal r v = s.commitRefusal r v := by
  obtain ⟨u, rfl⟩ := h
  cases r <;> rfl

theorem OnlyDiscards.clk (h : OnlyDiscards s t) : t.clk = s.clk := by
  obtain ⟨u, rfl⟩ := h
  rfl

theorem OnlyDiscards.mpu (h : OnlyDiscards s t) : t.mpu = s.mpu := by
  obtain ⟨u, rfl⟩ := h
  rfl

/-- The parts that a discard may change, one by one. -/
theorem OnlyDiscards.eq_parts (h : OnlyDiscards s t) :
    t = { s with rwi := t.rwi, tly := t.tly, evc := t.evc, rqe := t.rqe, out := t.out } := by
  obtain ⟨u, rfl⟩ := h
  rfl

theorem onlyDiscards_rwi (s : State) (l : List RwiPending) : OnlyDiscards s { s with rwi := l } := ⟨{ s with rwi := l }, rfl⟩

theorem rwiDiscard_onlyDiscards (off reason : Nat) (s : State) : OnlyDiscards s (rwiDiscard off reason s) :=
  (tally_onlyNotes 0x0102 (toLE 4 off ++ [BitVec.ofNat 8 reason]) s).discards

theorem discardAll_onlyDiscards (reason : Nat) : ∀ (l : List RwiPending) (s : State), OnlyDiscards s (discardAll l reason s)
  | [], s => onlyDiscards_rwi s s.rwi
  | x :: l, s => (rwiDiscard_onlyDiscards x.off reason s).trans (discardAll_onlyDiscards reason l _)

@[simp] theorem discardAll_rwi (reason : Nat) : ∀ (l : List RwiPending) (s : State), (discardAll l reason s).rwi = s.rwi
  | [], _ => rfl
  | x :: l, s => (discardAll_rwi reason l (rwiDiscard x.off reason s)).trans (rwiDiscard_rwi _ _ s)

theorem expireRwi_onlyDiscards (s : State) : OnlyDiscards s (expireRwi s) :=
  (onlyDiscards_rwi s _).trans (discardAll_onlyDiscards 1 _ _)

@[simp] theorem expireRwi_rwi (s : State) : (expireRwi s).rwi = s.rwi.filter fun x => !s.lapsed x := discardAll_rwi 1 _ _

/-- Without a lapsed write nothing expires. -/
theorem expireRwi_of_none_lapsed (h : ∀ y ∈ s.rwi, s.lapsed y = false) : expireRwi s = s := by
  have hout : s.rwi.filter s.lapsed = [] := by simpa using h
  have hkeep : (s.rwi.filter fun x => !s.lapsed x) = s.rwi := by simpa using h
  simp only [expireRwi, hout, hkeep]
  rfl

theorem rwiSelector_onlyDiscards (who : Who) (off : Nat) (s : State) : OnlyDiscards s (rwiSelector who off s) :=
  ((expireRwi_onlyDiscards s).trans (onlyDiscards_rwi _ _)).trans (discardAll_onlyDiscards 6 _ _)

/-- An RWI_DISCARD NOTE with room for it (R7, R469). -/
theorem rwiDiscard_recorded (off reason : Nat) (s : State) (h : Room 0x0102 s) :
    Recorded s (rwiDiscard off reason s) 0x0102 (toLE 4 off ++ [BitVec.ofNat 8 reason]) :=
  tally_recorded 0x0102 _ s (by decide) h

/-! ## The pending writes of one register -/

/-- The pending write of a register is taken out. -/
def dropPending (who : Who) (off : Nat) (s : State) : State := { s with rwi := s.rwi.filter fun y => !samePending who off y }

theorem dropPending_onlyDiscards (who : Who) (off : Nat) (s : State) : OnlyDiscards s (dropPending who off s) := onlyDiscards_rwi s _

/-- The value waits for its companion from now on, in place of an earlier one (R8). -/
def putPending (who : Who) (off : Nat) (v : Word) (s : State) : State :=
  { s with rwi := (dropPending who off s).rwi ++ [{ who := who, off := off, sel := 0, value := v, start := s.clk }] }

theorem putPending_onlyDiscards (who : Who) (off : Nat) (v : Word) (s : State) : OnlyDiscards s (putPending who off v s) :=
  onlyDiscards_rwi s _

/-- Lapsed writes discarded and the pending one taken out: nothing but notes and what waits has changed. -/
theorem dropPending_expireRwi_onlyDiscards (who : Who) (off : Nat) (s : State) : OnlyDiscards s (dropPending who off (expireRwi s)) :=
  (expireRwi_onlyDiscards s).trans (dropPending_onlyDiscards who off _)

theorem dropPending_none (who : Who) (off : Nat) (s : State) : (dropPending who off s).rwi.filter (samePending who off) = [] := by
  simp [dropPending, List.filter_filter]

/-- What waits under a register after its first write is that write alone. -/
theorem putPending_alone (who : Who) (off : Nat) (v : Word) (s : State) :
    (putPending who off v s).rwi.filter (samePending who off) = [{ who := who, off := off, sel := 0, value := v, start := s.clk }] := by
  rw [putPending, List.filter_append, dropPending_none]
  simp [samePending]

/-- A pending write within its window is found after others have expired. -/
theorem expireRwi_find? {p : RwiPending → Bool} {x : RwiPending} (h : s.rwi.find? p = some x) (hx : s.lapsed x = false) :
    (expireRwi s).rwi.find? p = some x := by
  obtain ⟨hp, as, bs, hsplit, has⟩ := List.find?_eq_some_iff_append.mp h
  have hnone : ((as.filter fun y => !s.lapsed y).find? p) = none :=
    List.find?_eq_none.mpr fun y hy => by simpa using has y (List.mem_of_mem_filter hy)
  simp [hsplit, hx, hp, hnone]

/-! ## Who may write -/

theorem hostCut_of_isSec {who : Who} (h : isSec who = true) (s : State) : s.hostCut who = false := by
  obtain rfl : who = secIni := of_decide_eq_true h
  rfl

theorem hostCut_of_may {who : Who} : ∀ {r : RwiReg}, RwiMay s who r → s.hostCut who = false
  | .pitCfg _, h => h.1.2.1
  | .pers _, h => h.2.1
  | .mpuPerm _, h => hostCut_of_isSec h.1 s
  | .tmpClass _, h => hostCut_of_isSec h.1 s
  | .churn, h | .eraseCmd, h | .holdCfg, h | .tempLimit, h | .encCfg, h | .emeshCfg, h => hostCut_of_isSec h s

theorem pitGuard_of_may {who : Who} (h : PitMay s who) (f : State → State) : pitGuard who false f s = f s := by
  obtain ⟨hwho, hcut, hstandby, hsyncing⟩ := h
  have hmay : (s.isOwner who || isSec who) = true := by simpa using hwho
  simp [pitGuard, hmay, fromHost, hcut, hstandby, hsyncing]

/-- The guard passes a permitted write (R58, R64, R314, R372). -/
theorem rwiGuard_of_may {who : Who} {r : RwiReg} (h : RwiMay s who r) (f : State → State) : rwiGuard who r f s = f s := by
  cases r with
  | pitCfg p =>
    obtain ⟨hmay, hfree⟩ := h
    simp only [rwiGuard, pitWrite, pitGuard_of_may hmay, if_neg hfree]
  | pers n => exact pitGuard_of_may h f
  | mpuPerm k =>
    obtain ⟨hsec, hlow, hhigh⟩ := h
    have hini : ¬(k / 32 = 0 ∨ 0x31 < k / 32) := by omega
    simp only [rwiGuard, hsec, Bool.not_true, Bool.false_eq_true, if_false, if_neg hini]
  | tmpClass b => simp [rwiGuard, h.1]
  | churn | eraseCmd | holdCfg | tempLimit | encCfg | emeshCfg =>
    have hsec : isSec who = true := h
    simp [rwiGuard, hsec]

/-! ## The two writes -/

/-- MPU_ERR of a refused enable of a region (R66). -/
def mpuRefusalErr (r : RwiReg) (v : Word) (s : State) : State :=
  match r with
  | .mpuPerm k => (match s.mpuRefusal k v with | some c => mpuErr c s | none => s)
  | _ => s

/-- What a permitted companion write of the register `r` comes to (R7). -/
def companionResult (who : Who) (off : Nat) (r : RwiReg) (v : Word) (s : State) : State :=
  match s.rwi.find? (samePending who off) with
  | none => rwiDiscard off 5 s
  | some x =>
    let w := dropPending who off s
    if v ≠ ~~~x.value then rwiDiscard off 2 w
    else match w.commitRefusal r x.value with
      | some reason => rwiDiscard off reason (mpuRefusalErr r x.value w)
      | none => rwiCommit r x.value w

section
variable {who : Who} {off : Nat} {r : RwiReg} {v : Word} {x : RwiPending}

theorem companionResult_of_none (h : s.rwi.find? (samePending who off) = none) : companionResult who off r v s = rwiDiscard off 5 s := by
  simp only [companionResult, h]

theorem companionResult_of_ne (h : s.rwi.find? (samePending who off) = some x) (hv : v ≠ ~~~x.value) :
    companionResult who off r v s = rwiDiscard off 2 (dropPending who off s) := by
  simp only [companionResult, h, if_pos hv]

theorem companionResult_of_refusal {k : Nat} (h : s.rwi.find? (samePending who off) = some x)
    (hk : (dropPending who off s).commitRefusal r x.value = some k) :
    companionResult who off r (~~~x.value) s = rwiDiscard off k (mpuRefusalErr r x.value (dropPending who off s)) := by
  simp only [companionResult, h, ne_eq, not_true_eq_false, if_false, hk]

theorem companionResult_of_commit (h : s.rwi.find? (samePending who off) = some x)
    (hc : (dropPending who off s).commitRefusal r x.value = none) :
    companionResult who off r (~~~x.value) s = rwiCommit r x.value (dropPending who off s) := by
  simp only [companionResult, h, ne_eq, not_true_eq_false, if_false, hc]

end

section
variable {u : State} {who : Who} {off : BitVec 21} {r : RwiReg} (hreg : s.rwiReg who off.toNat = some r) (hmay : RwiMay s who r)
  (hexp : expireRwi s = u)
include hreg hmay hexp

/-- A permitted first write: what has lapsed goes, an earlier value of the register is replaced, the window starts now (R7, R8). -/
theorem exec_rwiWrite (v : Word) : exec (.rwiWrite who off v) s = .next (putPending who off.toNat v u) := by
  show execRwiWrite who off v s = _
  simp only [execRwiWrite, fromHost, hostCut_of_may hmay, Bool.false_eq_true, if_false, rwiFirst, hreg, rwiGuard_of_may hmay,
    hexp]
  rfl

/-- A permitted companion write is judged by what still waits after the lapsed writes are gone. -/
theorem exec_rwiCompanionWrite (v : Word) :
    exec (.rwiCompanionWrite who off v) s = .next (companionResult who off.toNat r v u) := by
  show execRwiCompanionWrite who off v s = _
  simp only [execRwiCompanionWrite, fromHost, hostCut_of_may hmay, Bool.false_eq_true, if_false, rwiSecond, hreg, rwiGuard_of_may hmay,
    hexp, companionResult]
  rfl

end

/-- A window of a register that alone has a pending write ends: the write is discarded with reason 1 (R7). -/
theorem exec_rwiWindowExpiry_single {who : Who} {off : BitVec 21} {x : RwiPending} (hs : s.rwi = [x]) (hwho : x.who = who)
    (hoff : x.off = off.toNat) (htime : x.start + 256 ≤ s.clk) :
    exec (.rwiWindowExpiry who off) s = .next (rwiDiscard off.toNat 1 { s with rwi := [] }) := by
  have hends : (samePending who off.toNat x && decide (x.start + 256 ≤ s.clk)) = true := by simp [samePending, hwho, hoff, htime]
  show execRwiWindowExpiry who off s = _
  simp only [execRwiWindowExpiry, rwiWindowEnd, hs, List.filter_singleton, hends, Bool.not_true, cond_true, cond_false,
    List.cons_ne_nil, if_false, discardAll, List.foldl_cons, List.foldl_nil, hoff]

/-! ## The commit -/

@[simp] theorem bumpCopy_rwi (s : State) : (bumpCopy s).rwi = s.rwi := rfl

/-- A commit leaves what waits. -/
@[simp] theorem rwiCommit_rwi (r : RwiReg) (v : Word) (s : State) : (rwiCommit r v s).rwi = s.rwi := by
  cases r with
  | eraseCmd =>
    simp only [rwiCommit]
    split <;> simp
  | pers n => rfl
  | _ => simp [rwiCommit]

theorem eraseRise_eraseCmd (src : BitVec 4) (s : State) : (eraseRise src s).kst.eraseCmd = s.kst.eraseCmd := by
  simp only [eraseRise]
  split
  · rfl
  · rw [raise_kst]

theorem sealFlashes_churnPeriod (f : Flash → Flash) (s : State) : (sealFlashes f s).kst.churnPeriod = s.kst.churnPeriod := by
  simp only [sealFlashes]
  split <;> rfl

/-- A commit stores the fields of the value, and the inverse of what it stores (R8). -/
theorem rwiCommit_get {r : RwiReg} (v : Word) (s : State) (hr : ∀ b, r = .tmpClass b → b < 3) :
    (rwiCommit r v s).rwiGet r = Rwi.of (v &&& r.mask) := by
  cases r with
  | pitCfg p => simp [rwiCommit, State.rwiGet, State.pitch, State.updPitch]
  | pers n =>
    match n with
    | 0 | 1 | 2 | _ + 3 => rfl
  | mpuPerm k => simp [rwiCommit, State.rwiGet, State.region, Mpu.region, Mpu.commit]
  | churn => simp [rwiCommit, State.rwiGet, sealFlashes_churnPeriod]
  | eraseCmd =>
    simp only [rwiCommit, State.rwiGet]
    split
    · rw [eraseRise_eraseCmd]
    · rfl
  | tmpClass b =>
    have hb := hr b rfl
    match b with
    | 0 | 1 | 2 => simp [rwiCommit, State.rwiGet, bumpCopy, putClass]
    | _ + 3 => omega
  | holdCfg | tempLimit | encCfg | emeshCfg => rfl

theorem mpuRefusalErr_rwi (r : RwiReg) (v : Word) (s : State) : (mpuRefusalErr r v s).rwi = s.rwi := by
  cases r with
  | mpuPerm k =>
    simp only [mpuRefusalErr]
    split <;> rfl
  | _ => rfl

theorem mpuRefusalErr_tly (r : RwiReg) (v : Word) (s : State) : (mpuRefusalErr r v s).tly = s.tly := by
  cases r with
  | mpuPerm k =>
    simp only [mpuRefusalErr]
    split <;> rfl
  | _ => rfl

theorem mpuRefusalErr_rwiGet (r : RwiReg) (v : Word) (s : State) (q : RwiReg) : (mpuRefusalErr r v s).rwiGet q = s.rwiGet q := by
  cases r with
  | mpuPerm k =>
    simp only [mpuRefusalErr]
    split
    · cases q <;> rfl
    · rfl
  | _ => rfl

end Sys2Proof.Machine
end

section
/-! Register writes (R6): the access of each initiator, its offset, and the selectors. -/

namespace Sys2Proof.Machine

open Sys2Proof.Safety

variable {s : State}

theorem asInitiator_of_permitted {who : Who} (h : ∀ n, who = .ini n → n.toNat < 0x32) (off : Nat) (f : State → State) (s : State) :
    asInitiator who off f s = fromHost who f s := by
  cases who with
  | ini n =>
    have hn : reservedIni n = false := decide_eq_false (Nat.not_le.mpr (h n rfl))
    simp [asInitiator, hn]
  | vf port fn => rfl

/-- A permitted initiator's write over a link that is not cut acts where its offset leads (R6, R31). -/
theorem exec_regWrite_ini {n : BitVec 6} {off : BitVec 21} {o : Nat} (hn : n.toNat < 0x32) (hcut : s.hostCut (.ini n) = false)
    (ho : s.mapOffset (.ini n) off.toNat = some o) (v : Word) :
    exec (.regWrite (.ini n) off v) s = .next (writeAt (.ini n) .m o v s) := by
  show Host.Outcome.next (asInitiator (.ini n) off.toNat _ s) = _
  rw [asInitiator_of_permitted (by rintro m ⟨⟩; exact hn)]
  simp [fromHost, hcut, regWrite, ho]

theorem fromHost_eq_self {who : Who} {f : State → State} (h : f s = s) : fromHost who f s = s := by
  simp [fromHost, h]

/-- A permitted initiator's write that changes nothing wherever its offset leads. -/
theorem exec_regWrite_eq_self {who : Who} {off : BitVec 21} {v : Word} (hwho : ∀ n, who = .ini n → n.toNat < 0x32)
    (h : ∀ o, s.mapOffset who off.toNat = some o → writeAt who .m o v s = s) : exec (.regWrite who off v) s = .next s := by
  have hw : regWrite who .m off.toNat v s = s := by
    simp only [regWrite]
    split
    · exact h _ ‹_›
    · rfl
  show Host.Outcome.next (asInitiator who off.toNat _ s) = _
  rw [asInitiator_of_permitted hwho, fromHost_eq_self hw]

/-- The offsets of initiators are those of the map (R31). -/
theorem mapOffset_ini {n : BitVec 6} {off o : Nat} (h : s.mapOffset (.ini n) off = some o) : o = off := by
  simp only [State.mapOffset] at h
  grind

/-- The global and the ownership block are shown to every initiator (R437). -/
theorem mapOffset_ini_low (n : BitVec 6) {off : Nat} (h : off / 0x10000 ≤ 1) (s : State) : s.mapOffset (.ini n) off = some off := by
  simp [State.mapOffset, h]

/-- A host function's window is word-aligned in the map (R71). -/
theorem mapOffset_mod {who : Who} {off o : Nat} (h : s.mapOffset who off = some o) : o % 4 = off % 4 := by
  cases who with
  | ini n => rw [mapOffset_ini h]
  | vf port fn =>
    simp only [State.mapOffset] at h
    split at h
    · cases h
    · obtain rfl := Option.some.inj h
      omega

theorem writeAt_of_unaligned {off : Nat} (h : off % 4 ≠ 0) (who : Who) (p : Priv) (v : Word) (s : State) :
    writeAt who p off v s = s := by
  simp [writeAt, h]

theorem secOnly_of_not {who : Who} (h : isSec who = false) (f : State → State) (s : State) : secOnly who f s = s := by
  simp [secOnly, h]

theorem writeSch_of_not_sec {who : Who} (h : isSec who = false) (o : Nat) (v : Word) (s : State) : writeSch who o v s = s :=
  secOnly_of_not h _ s

theorem writeBst_of_not_sec {who : Who} (h : isSec who = false) (o : Nat) (v : Word) (s : State) : writeBst who o v s = s :=
  secOnly_of_not h _ s

theorem ownerOnly_of_not {who : Who} (h : s.isOwner who = false) (f : State → State) : ownerOnly who f s = s := by
  simp [ownerOnly, h]

/-- The registers of SCH_TIMEOUT, SCH_AGE, BST_CFG and the GPIO balls ignore all but their writer. -/
theorem writeAt_ini_ignored {n : BitVec 6} (hsec : n ≠ 1) (howner : s.own.owner ≠ n) (v : Word) {off : BitVec 21}
    (hoff : off ∈ [(0x000080 : BitVec 21), 0x000084, 0x040000, 0x040004, 0x170000]) : writeAt (.ini n) .m off.toNat v s = s := by
  have hs : isSec (.ini n) = false := by simpa [isSec, secIni] using hsec
  have ho : s.isOwner (.ini n) = false := by
    simp only [State.isOwner, Who.ini.injEq, Bool.and_eq_false_imp, decide_eq_false_iff_not]
    exact fun _ => Ne.symm howner
  simp only [List.mem_cons, List.not_mem_nil, or_false] at hoff
  obtain rfl | rfl | rfl | rfl | rfl := hoff
  · exact ownerOnly_of_not ho fun s => { s with glb := { s.glb with gpioDir := v.extractLsb' 0 16 } }
  · exact ownerOnly_of_not ho fun s => { s with glb := { s.glb with gpioOut := v.extractLsb' 0 16 } }
  · exact writeSch_of_not_sec hs 0x000 v s
  · exact writeSch_of_not_sec hs 0x004 v s
  · exact writeBst_of_not_sec hs 0x000 v s

@[simp] theorem selOf_updSel_self (s : State) (w : Who) (f : Sel → Sel) : (s.updSel w f).selOf w = f (s.selOf w) :=
  smap_get_upd_self _ _ _ f

@[simp] theorem pitSel_updPitSel_self (s : State) (w : Who) (f : PitSel → PitSel) : (s.updPitSel w f).pitSel w = f (s.pitSel w) :=
  smap_get_upd_self _ _ _ f

/-- A write of a selector register of `n` bits by the security controller: the bits read back, and beside the selectors only what a
discard changes is changed. -/
def SelectorWrite (s : State) (v : Word) (r : BitVec 21 × Nat) : Prop :=
  ∃ t, exec (.regWrite secIni r.1 v) s = .next t ∧ t.readValue secIni r.1.toNat = v.toNat % 2 ^ r.2
    ∧ t = { withNotes s t with sel := t.sel, pit := { s.pit with sel := t.pit.sel }, rwi := t.rwi }

/-- A selector `g` among those of its initiator that the write sets by `f`. -/
theorem selectorWrite_of_sel {v : Word} {off : BitVec 21} {n : Nat} (f : Sel → Sel) (g : Sel → BitVec n)
    (hexec : exec (.regWrite secIni off v) s = .next (s.updSel secIni f))
    (hread : ∀ t : State, t.readValue secIni off.toNat = (g (t.selOf secIni)).toNat)
    (hfield : ∀ x, g (f x) = v.extractLsb' 0 n) : SelectorWrite s v (off, n) :=
  ⟨_, hexec, by simp [hread, hfield], rfl⟩

/-- The same for the selectors of the PIT block, after what the write discards. -/
theorem selectorWrite_of_pitSel {v : Word} {off : BitVec 21} {n : Nat} {u : State} (hu : OnlyDiscards s u) (f : PitSel → PitSel)
    (g : PitSel → BitVec n) (hexec : exec (.regWrite secIni off v) s = .next (u.updPitSel secIni f))
    (hread : ∀ t : State, t.readValue secIni off.toNat = (g (t.pitSel secIni)).toNat)
    (hfield : ∀ x, g (f x) = v.extractLsb' 0 n) : SelectorWrite s v (off, n) := by
  refine ⟨_, hexec, by simp [hread, hfield], ?_⟩
  obtain ⟨w, rfl⟩ := hu
  rfl

theorem selectorWrite_of_mem (s : State) (v : Word) {r : BitVec 21 × Nat} (hr : r ∈ selectors) : SelectorWrite s v r := by
  simp only [selectors, List.mem_cons, List.not_mem_nil, or_false] at hr
  obtain rfl | rfl | rfl | rfl | rfl | rfl | rfl | rfl | rfl | rfl | rfl | rfl | rfl | rfl | rfl := hr
  · exact selectorWrite_of_pitSel (rwiSelector_onlyDiscards secIni 0x030008 s) (fun x => { x with pitch := v.extractLsb' 0 12 })
      PitSel.pitch rfl (fun _ => rfl) (fun _ => rfl)
  · exact selectorWrite_of_pitSel (onlyDiscards_rwi s s.rwi) (fun x => { x with win := v.extractLsb' 0 3 }) PitSel.win rfl (fun _ => rfl)
      (fun _ => rfl)
  · exact selectorWrite_of_pitSel (onlyDiscards_rwi s s.rwi) (fun x => { x with blk := v.extractLsb' 0 12 }) PitSel.blk rfl (fun _ => rfl)
      (fun _ => rfl)
  · exact selectorWrite_of_sel (fun x => { x with schQ := v.extractLsb' 0 5 }) Sel.schQ rfl (fun _ => rfl) (fun _ => rfl)
  · exact selectorWrite_of_sel (fun x => { x with schCore := v.extractLsb' 0 5 }) Sel.schCore rfl (fun _ => rfl) (fun _ => rfl)
  · exact selectorWrite_of_sel (fun x => { x with schPitch := v.extractLsb' 0 12 }) Sel.schPitch rfl (fun _ => rfl) (fun _ => rfl)
  · exact selectorWrite_of_sel (fun x => { x with cmcCore := v.extractLsb' 0 5 }) Sel.cmcCore rfl (fun _ => rfl) (fun _ => rfl)
  · exact selectorWrite_of_sel (fun x => { x with kstSlot := v.extractLsb' 0 18 }) Sel.kstSlot rfl (fun _ => rfl) (fun _ => rfl)
  · exact selectorWrite_of_sel (fun x => { x with kbcPitch := v.extractLsb' 0 12 }) Sel.kbcPitch rfl (fun _ => rfl) (fun _ => rfl)
  · exact selectorWrite_of_sel (fun x => { x with dkcPitch := v.extractLsb' 0 12 }) Sel.dkcPitch rfl (fun _ => rfl) (fun _ => rfl)
  · exact selectorWrite_of_sel (fun x => { x with lanGroup := v.extractLsb' 0 5 }) Sel.lanGroup rfl (fun _ => rfl) (fun _ => rfl)
  · exact selectorWrite_of_sel (fun x => { x with pkeEng := v.extractLsb' 0 5 }) Sel.pkeEng rfl (fun _ => rfl) (fun _ => rfl)
  · exact selectorWrite_of_sel (fun x => { x with ltcEng := v.extractLsb' 0 3 }) Sel.ltcEng rfl (fun _ => rfl) (fun _ => rfl)
  · exact selectorWrite_of_sel (fun x => { x with entSrc := v.extractLsb' 0 2 }) Sel.entSrc rfl (fun _ => rfl) (fun _ => rfl)
  · exact selectorWrite_of_sel (fun x => { x with entDrbg := v.extractLsb' 0 4 }) Sel.entDrbg rfl (fun _ => rfl) (fun _ => rfl)

end Sys2Proof.Machine
end

section
/-! The statements of the scope: reset, inverted-shadow registers, register writes. -/

namespace Sys2Proof.Proofs

open Sys2Proof.Machine Sys2Proof.Safety

/-! ## Reset -/

theorem rwi_default_inv : ({} : Rwi).inv = ~~~({} : Rwi).val := by decide

/-- After reset every inverted-shadow register holds its value and that value's inverse (R9). -/
theorem rwiInv_reset : RwiInv State.reset := by
  intro r
  cases r with
  | pers n =>
    match n with
    | 0 | 1 | 2 | _ + 3 => exact rwi_default_inv
  | tmpClass b =>
    match b with
    | 0 | 1 | 2 => rfl
    | _ + 3 => exact rwi_default_inv
  | pitCfg p | mpuPerm k => exact rwi_default_inv
  | _ => rfl

/-- Settles O3: each value is the one that the reset state is defined with; the inverses are those of `rwiInv_reset`. -/
theorem resetValues : Obligations.ResetValues := by
  unfold Obligations.ResetValues
  exact ⟨rfl, rfl, rwiInv_reset, by decide⟩

/-! ## Inverted-shadow registers -/

theorem tmpClass_bound_of_may {s : State} {who : Who} {r : RwiReg} (h : RwiMay s who r) : ∀ b, r = .tmpClass b → b < 3 := by
  rintro b rfl
  exact h.2

/-- A write whose window has not passed has not lapsed (R7). -/
theorem not_lapsed_of_window {s : State} {x : RwiPending} (h : s.clk ≤ x.start + 256) : s.lapsed x = false :=
  decide_eq_false (Nat.not_lt.mpr h)

/-- Settles O7: the first write is a discard of what has lapsed with the value put in; the companion finds that value and commits it. -/
theorem rwiCommit : Obligations.RwiCommit := by
  unfold Obligations.RwiCommit
  refine ⟨fun s who off v r hreg hmay => ?first, fun s who off r x hreg hmay hfind htime hc => ?second⟩
  case first =>
    have hput := (expireRwi_onlyDiscards s).trans (putPending_onlyDiscards who off.toNat v _)
    refine ⟨_, exec_rwiWrite hreg hmay rfl v, ?_, hput.rwiGet, hput.eq_parts⟩
    rw [putPending_alone, (expireRwi_onlyDiscards s).clk]
  case second =>
    have hfind' := expireRwi_find? hfind (not_lapsed_of_window htime)
    have honly := dropPending_expireRwi_onlyDiscards who off.toNat s
    have hexec := exec_rwiCompanionWrite hreg hmay rfl (~~~x.value)
    rw [companionResult_of_commit hfind' ((honly.commitRefusal r x.value).trans hc)] at hexec
    refine ⟨_, hexec, rwiCommit_get x.value _ (tmpClass_bound_of_may hmay), ?_, ?_⟩
    · rw [rwiCommit_rwi, dropPending_none]
    · rintro k rfl
      exact congrArg (fun m : Mpu => m.gen + 1) honly.mpu

/-- Settles O8: with nothing lapsed and room in the tally, each way to discard is one `rwiDiscard`, which records and leaves every value. -/
theorem rwiDiscards : Obligations.RwiDiscards := by
  unfold Obligations.RwiDiscards
  intro s who off r hreg hmay hlapsed hroom
  have hexec := exec_rwiCompanionWrite hreg hmay (expireRwi_of_none_lapsed hlapsed)
  have hdrop := dropPending_onlyDiscards who off.toNat s
  refine ⟨fun x v hfind hv => ?inverse, fun x k hfind hc => ?refused, fun v hfind => ?nothing, fun x hs hwho hoff hclk => ?expired⟩
  case inverse =>
    specialize hexec v
    rw [companionResult_of_ne hfind hv] at hexec
    refine ⟨_, hexec, (hdrop.trans (rwiDiscard_onlyDiscards _ 2 _)).rwiGet, ?_, rwiDiscard_recorded _ 2 (dropPending _ _ s) hroom⟩
    rw [rwiDiscard_rwi, dropPending_none]
  case refused =>
    specialize hexec (~~~x.value)
    rw [companionResult_of_refusal hfind ((hdrop.commitRefusal r x.value).trans hc)] at hexec
    refine ⟨_, hexec, fun q => ?_, ?_, ?_⟩
    · rw [(rwiDiscard_onlyDiscards _ k _).rwiGet, mpuRefusalErr_rwiGet, hdrop.rwiGet]
    · rw [rwiDiscard_rwi, mpuRefusalErr_rwi, dropPending_none]
    · have htly : (mpuRefusalErr r x.value (dropPending who off.toNat s)).tly = s.tly := mpuRefusalErr_tly r x.value _
      have hrec := rwiDiscard_recorded off.toNat k (mpuRefusalErr r x.value (dropPending who off.toNat s)) (by rw [Room, htly]; exact hroom)
      rw [Recorded, htly] at hrec
      exact hrec
  case nothing =>
    specialize hexec v
    rw [companionResult_of_none hfind] at hexec
    exact ⟨_, hexec, (rwiDiscard_onlyDiscards _ 5 s).rwiGet, rwiDiscard_recorded _ 5 s hroom⟩
  case expired =>
    have hend := exec_rwiWindowExpiry_single hs hwho hoff (Nat.le_of_eq hclk.symm)
    have honly := (onlyDiscards_rwi s []).trans (rwiDiscard_onlyDiscards off.toNat 1 _)
    have hrwi : (rwiDiscard off.toNat 1 { s with rwi := [] }).rwi = [] := rwiDiscard_rwi _ _ _
    refine ⟨_, hend, honly.rwiGet, hrwi, rwiDiscard_recorded _ 1 { s with rwi := [] } hroom, ?_⟩
    have hparts := honly.eq_parts
    rwa [hrwi] at hparts

/-! ## Register writes -/

/-- A rotation in its range is taken (R6, R457). -/
theorem rotation_of_range {v : Word} (hlow : 60 ≤ v.toNat % 2 ^ 12) (hhigh : v.toNat % 2 ^ 12 ≤ 3600) (old : Nat) :
    BitVec.ofNat 12 (fieldIn v 0 12 60 3600 old) = v.extractLsb' 0 12 := by
  have hfield : fieldIn v 0 12 60 3600 old = v.toNat % 2 ^ 12 := by
    simp only [fieldIn, pow_zero, Nat.div_one, if_pos (And.intro hlow hhigh)]
  rw [hfield]
  apply BitVec.eq_of_toNat_eq
  simp

theorem ownerOnly_of_owner {who : Who} {s : State} (h : s.isOwner who = true) (f : State → State) : ownerOnly who f s = f s := if_pos h

/-- Settles O9: the permitted writes evaluate to the block's write, the others reach a guard that ignores them. -/
theorem registerWrites : Obligations.RegisterWrites := by
  unfold Obligations.RegisterWrites
  refine ⟨fun s v => ⟨rfl, rfl, fun hlow hhigh => ?rotation, fun n hn hne _ hcut hhost => ?gpio,
      fun n hsec hn howner off hoff => ?others⟩,
    fun s v r hr => selectorWrite_of_mem s v hr, fun s who off v hwho hoff => ⟨s, ?unaligned, rfl⟩⟩
  case rotation =>
    exact congrArg (fun r => Host.Outcome.next { s with bst := { s.bst with rotation := r } }) (rotation_of_range hlow hhigh _)
  case gpio =>
    have howner : s.isOwner (.ini n) = true := by simpa [State.isOwner, hn] using hne
    have hini : n.toNat < 0x32 := by obtain rfl | rfl | rfl := hhost <;> decide
    constructor
    · rw [exec_regWrite_ini hini hcut (mapOffset_ini_low n (by decide) s)]
      exact congrArg _ (ownerOnly_of_owner howner fun s => { s with glb := { s.glb with gpioDir := v.extractLsb' 0 16 } })
    · rw [exec_regWrite_ini hini hcut (mapOffset_ini_low n (by decide) s)]
      exact congrArg _ (ownerOnly_of_owner howner fun s => { s with glb := { s.glb with gpioOut := v.extractLsb' 0 16 } })
  case others =>
    refine exec_regWrite_eq_self (by rintro m ⟨⟩; exact hn) fun o ho => ?_
    rw [mapOffset_ini ho]
    exact writeAt_ini_ignored hsec howner v hoff
  case unaligned =>
    refine exec_regWrite_eq_self hwho fun o ho => writeAt_of_unaligned ?_ who .m v s
    rw [mapOffset_mod ho]
    exact hoff

end Sys2Proof.Proofs
end

section
/-! What stays pending through an event (R471), and what an access with a reserved initiator number comes to (R25). -/

namespace Sys2Proof.Machine

open Sys2Proof.Safety

variable {s t u : State}

/-! ## Pending events -/

theorem mem_insertNat {a n : Nat} : ∀ {l : List Nat}, a ∈ insertNat n l ↔ a = n ∨ a ∈ l
  | [] => by simp [insertNat]
  | m :: l => by
    simp only [insertNat]
    split
    · exact List.mem_cons
    · split
      · next h => simp [h]
      · rw [List.mem_cons, mem_insertNat, List.mem_cons, or_left_comm]

/-- A raise at a destination leaves what pends, and its source pends there (R471). -/
theorem pends_raiseAt {k dest src : Nat} : Pends k (raiseAt dest src s) ↔ Pends k s ∨ dest = 24 ∧ k = src := by
  by_cases hd : 24 = dest
  · subst hd
    simp only [Pends, raiseAt]
    split
    · next h =>
      have hsrc : src ∈ s.evc.pend.get [] 24 := List.contains_iff_mem.mp h
      simp only [evcOvf, true_and, iff_self_or]
      rintro rfl
      exact hsrc
    · simp only [smap_get_set_self, mem_insertNat, true_and, or_comm]
  · simp only [Pends, raiseAt]
    split
    · simp [evcOvf, Ne.symm hd]
    · simp [smap_get_set_other _ _ _ _ _ hd, Ne.symm hd]

/-- What is pending at the security controller stays pending. -/
def KeepsPending (s t : State) : Prop := ∀ src, Pends src s → Pends src t

theorem KeepsPending.of_eq (h : t.evc = s.evc) : KeepsPending s t := fun src hp => by rwa [Pends, h]

theorem KeepsPending.trans (hst : KeepsPending s t) (htu : KeepsPending t u) : KeepsPending s u := fun src hp => htu src (hst src hp)

theorem KeepsPending.ite {c : Prop} [Decidable c] {f : State → State} (hf : ∀ s, KeepsPending s (f s)) (s : State) :
    KeepsPending s (if c then f s else s) := by
  split
  · exact hf s
  · exact .of_eq rfl

theorem evcOvf_keepsPending (s : State) : KeepsPending s (evcOvf s) := fun _ hk => hk

theorem raiseAt_keepsPending (dest src : Nat) (s : State) : KeepsPending s (raiseAt dest src s) := fun _ hk => pends_raiseAt.mpr (.inl hk)

theorem raiseCore_keepsPending (c src : Nat) (s : State) : KeepsPending s (raiseCore c src s) := by
  simp only [raiseCore]
  split
  · exact fun _ hk => hk
  · split
    · exact evcOvf_keepsPending s
    · exact evcOvf_keepsPending s
    · exact raiseAt_keepsPending c src s

theorem raisePort_keepsPending (port : Port) (vec : BitVec 11) (src : Nat) (s : State) : KeepsPending s (raisePort port vec src s) := by
  simp only [raisePort]
  split
  · exact evcOvf_keepsPending s
  · exact (raiseAt_keepsPending _ src s).trans (.of_eq (msixSend_evc _ _ _ _))

theorem raiseCores_keepsPending (cores : BitVec 24) (src : Nat) : ∀ (n : Nat) (s : State), KeepsPending s (raiseCores cores src n s)
  | 0, _ => .of_eq rfl
  | n + 1, s => (raiseCores_keepsPending cores src n s).trans (.ite (raiseCore_keepsPending n src) _)

theorem raise_keepsPending (src : Nat) (s : State) : KeepsPending s (raise src s) :=
  (((raiseCores_keepsPending _ src 24 s).trans (.ite (raiseAt_keepsPending 24 src) _)).trans
    (.ite (raisePort_keepsPending .a _ src) _)).trans (.ite (raisePort_keepsPending .b _ src) _)

/-- A source that is routed to the security controller pends there once it is raised (R471, R472). -/
theorem raise_pends {src : Nat} (h : Routed src s) : Pends src (raise src s) := by
  have hsec : Pends src (if (s.evc.routes.get {} src).sec then raiseAt 24 src (raiseCores (s.evc.routes.get {} src).cores src 24 s)
      else raiseCores (s.evc.routes.get {} src).cores src 24 s) := by
    rw [if_pos h]
    exact pends_raiseAt.mpr (.inr ⟨rfl, rfl⟩)
  exact KeepsPending.ite (raisePort_keepsPending .b _ src) _ src (KeepsPending.ite (raisePort_keepsPending .a _ src) _ src hsec)

@[simp] theorem raise_routes (src : Nat) (s : State) : (raise src s).evc.routes = s.evc.routes := by
  obtain ⟨u, hu⟩ := raise_onlyEvents src s
  rw [hu]
  rfl

/-! ## Reserved initiator numbers -/

/-- `t` is `s` after the refusal of an access by the reserved number `n` (R25, R65). -/
def ReservedRefusal (n : BitVec 6) (s t : State) : Prop :=
  t.imem = s.imem ∧ t.out.getLast? = some (.busError n)
    ∧ (s.mpu.faultValid = false → t.mpu.faultCause = 4 ∧ t.mpu.faultValid = true)
    ∧ t = { s with mpu := t.mpu, evc := t.evc, rqe := t.rqe, out := t.out }

theorem refuseAccess_reserved (n : BitVec 6) (p : Priv) (k : Access) (a : Nat) (s : State) :
    ReservedRefusal n s (refuseAccess n p k a 4 s) := by
  refine ⟨?memory, List.getLast?_concat, fun hfree => ?fault, ?frame⟩
  case memory => simp [refuseAccess, mpuFault]
  case fault => simp [refuseAccess, mpuFault, hfree]
  case frame =>
    simp only [refuseAccess, mpuFault]
    generalize (if s.mpu.faultValid then _ else _ : Mpu) = m
    obtain ⟨u, hu⟩ := raise_onlyEvents (504 + (n.toNat + 63) % 64 % 40) { s with mpu := m }
    rw [hu]
    rfl

section
variable {n : BitVec 6} (hn : 0x32 ≤ n.toNat)
include hn

theorem busAccess_reserved (p : Priv) (k : Access) (a : Nat) (data : Bytes) (len : Nat) (posted ecc : Bool) (s : State) :
    busAccess n p k a data len posted ecc s = refuseAccess n p k a 4 s := by
  simp [busAccess, State.mpuCause, hn]

theorem asInitiator_reserved (off : Nat) (f : State → State) (s : State) :
    asInitiator (.ini n) off f s = refuseAccess n .m .write (0xC0000000 + off) 4 s := by
  simp [asInitiator, reservedIni, hn]

theorem barrierRead_reserved (s : State) : barrierRead n s = refuseAccess n .m .read barrierAddr 4 s := by
  simp [barrierRead, reservedIni, hn]

end

end Sys2Proof.Machine
end

section
/-! What cores that come and go (R327, R345), and grants of cores, contexts and engines (R261, R317, R325), can change of the state. -/

namespace Sys2Proof.Machine

variable {s t u : State}

/-- `t` is `s` but for what a core leaves behind that drains or loads: its memory, its mailboxes, its event bits, its own state. -/
def OnlyCores (s t : State) : Prop :=
  ∃ u : State, t = { s with imem := u.imem, mbx := u.mbx, mbxErr := u.mbxErr, evc := u.evc, cmc := u.cmc, out := u.out }

/-- `t` is `s` but for queues and entries, cores and contexts, engines, dispatch counts and the words that cores read. -/
def OnlyGrants (s t : State) : Prop :=
  ∃ u : State, t = { s with sch := u.sch, cmc := u.cmc, pit := u.pit, units := u.units, out := u.out }

theorem OnlyCores.of_eq (h : t = { s with imem := t.imem, mbx := t.mbx, mbxErr := t.mbxErr, evc := t.evc, cmc := t.cmc, out := t.out }) :
    OnlyCores s t := ⟨t, h⟩

theorem OnlyCores.refl (s : State) : OnlyCores s s := .of_eq rfl

theorem OnlyCores.trans : OnlyCores s t → OnlyCores t u → OnlyCores s u := by
  rintro ⟨x, rfl⟩ ⟨y, rfl⟩
  exact ⟨y, rfl⟩

theorem OnlyGrants.of_eq (h : t = { s with sch := t.sch, cmc := t.cmc, pit := t.pit, units := t.units, out := t.out }) :
    OnlyGrants s t := ⟨t, h⟩

theorem OnlyGrants.refl (s : State) : OnlyGrants s s := .of_eq rfl

theorem OnlyGrants.trans : OnlyGrants s t → OnlyGrants t u → OnlyGrants s u := by
  rintro ⟨x, rfl⟩ ⟨y, rfl⟩
  exact ⟨y, rfl⟩

theorem OnlyCores.foldl {α : Type} {f : State → α → State} (hf : ∀ s a, OnlyCores s (f s a)) (l : List α) (s : State) :
    OnlyCores s (l.foldl f s) :=
  List.foldlRecOn l f (.refl s) fun _ hx a _ => hx.trans (hf _ a)

theorem OnlyGrants.foldl {α : Type} {f : State → α → State} (hf : ∀ s a, OnlyGrants s (f s a)) (l : List α) (s : State) :
    OnlyGrants s (l.foldl f s) :=
  List.foldlRecOn l f (.refl s) fun _ hx a _ => hx.trans (hf _ a)

theorem OnlyCores.pwr : OnlyCores s t → t.pwr = s.pwr := by
  rintro ⟨u, rfl⟩
  rfl

theorem OnlyCores.kst : OnlyCores s t → t.kst = s.kst := by
  rintro ⟨u, rfl⟩
  rfl

theorem OnlyGrants.pwr : OnlyGrants s t → t.pwr = s.pwr := by
  rintro ⟨u, rfl⟩
  rfl

theorem OnlyGrants.kst : OnlyGrants s t → t.kst = s.kst := by
  rintro ⟨u, rfl⟩
  rfl

theorem OnlyGrants.imem : OnlyGrants s t → t.imem = s.imem := by
  rintro ⟨u, rfl⟩
  rfl

/-! ## Cores that drain or load -/

theorem hwRelease_onlyCores (m : Nat) (s : State) : OnlyCores s (hwRelease m s) := by
  simp only [hwRelease]
  split
  · exact .refl s
  · exact (OnlyCores.foldl (f := fun s n => mbxError (.ini n) m 5 s) (fun _ _ => .of_eq rfl) _ s).trans (.of_eq rfl)

theorem releaseLocksOf_onlyCores (n : BitVec 6) (s : State) : OnlyCores s (releaseLocksOf n s) := by
  refine OnlyCores.foldl (fun s m => ?_) _ s
  split
  · exact hwRelease_onlyCores m s
  · exact .refl s

theorem updCore_onlyCores (c : Nat) (f : Core → Core) (s : State) : OnlyCores s (s.updCore c f) := .of_eq rfl

theorem zeroCoreMemory_onlyCores (c : Nat) (s : State) : OnlyCores s (zeroCoreMemory c s) := .of_eq rfl

theorem onlyCores_evc (s : State) (x : Evc) : OnlyCores s { s with evc := x } := .of_eq rfl

theorem coreLoad_onlyCores (c : Nat) (fw : BitVec 16) (s : State) : OnlyCores s (coreLoad c fw s) := by
  have hlocks := (zeroCoreMemory_onlyCores c s).trans (releaseLocksOf_onlyCores (BitVec.ofNat 6 (2 + c)) _)
  exact (hlocks.trans (onlyCores_evc _ _)).trans (updCore_onlyCores c _ _)

theorem coreTryOff_onlyCores (c : Nat) (s : State) : OnlyCores s (coreTryOff c s) := by
  simp only [coreTryOff]
  split
  · have hoff := fun f => (releaseLocksOf_onlyCores (BitVec.ofNat 6 (2 + c)) s).trans (updCore_onlyCores c f _)
    split
    · exact (hoff _).trans (coreLoad_onlyCores ..)
    · exact hoff _
  · exact .refl s

theorem requestDrain_onlyCores (c : Nat) (s : State) : OnlyCores s (requestDrain c s) := by
  simp only [requestDrain]
  split
  · split
    · exact (OnlyCores.of_eq rfl).trans (coreTryOff_onlyCores c _)
    · exact .of_eq rfl
  · exact .refl s

theorem governCore_onlyCores (s : State) (c : Nat) : OnlyCores s (governCore s c) := by
  simp only [governCore]
  split
  · exact .refl s
  · split
    · split
      · exact coreLoad_onlyCores ..
      · exact .refl s
    · split
      · exact requestDrain_onlyCores c s
      · exact .refl s

/-! ## Grants -/

theorem serveContexts_onlyGrants (s : State) : OnlyGrants s (serveContexts s) := by
  obtain ⟨x, y, h⟩ := grantContexts_only s.ctxQueued s
  exact .of_eq (by rw [serveContexts, h])

theorem selectCmd_onlyGrants {mask : BitVec 4} {e : Nat} (h : selectCmd mask s = some (e, t)) : OnlyGrants s t := by
  simp only [selectCmd] at h
  split at h
  · cases h
  · split at h
    · obtain ⟨rfl, rfl⟩ := Prod.mk.inj (Option.some.inj h)
      obtain ⟨x, hx⟩ := takeFrom_only _ _ s
      exact .of_eq (by rw [hx])
    · split at h
      · cases h
      · obtain ⟨x, rfl⟩ := nextFrom_only _ _ _ _ _ h
        exact .of_eq rfl

theorem bindCore_onlyGrants (c e : Nat) (s : State) : OnlyGrants s (bindCore c e s) := by
  simp only [bindCore]
  split
  · exact .refl s
  · exact .of_eq rfl

theorem tryDispatch_onlyGrants {c : Nat} (h : tryDispatch c s = some t) : OnlyGrants s t := by
  simp only [tryDispatch] at h
  split at h
  · cases h
  · split at h
    · cases h
    · next hsel =>
      obtain rfl := Option.some.inj h
      exact (selectCmd_onlyGrants hsel).trans (bindCore_onlyGrants ..)

theorem serveBlocked_onlyGrants (s : State) : OnlyGrants s (serveBlocked s) := by
  refine OnlyGrants.foldl (fun s c => ?_) _ s
  split
  · next h => exact tryDispatch_onlyGrants h
  · exact .refl s

theorem grant_onlyGrants (k : Nat) (r : EngReq) (s : State) : OnlyGrants s (grant k r s) := by
  simp only [grant]
  split
  · exact .of_eq rfl
  · simp only [State.updEngine]
    split <;> exact .of_eq rfl

theorem grantAll_onlyGrants (lattice : Bool) : ∀ (n : Nat) (s : State), OnlyGrants s (grantAll lattice n s)
  | 0, s => .refl s
  | n + 1, s => by
    simp only [grantAll]
    split
    · exact .refl s
    · split
      · exact (grant_onlyGrants ..).trans (grantAll_onlyGrants lattice n _)
      · exact .refl s

theorem serveEngines_onlyGrants (s : State) : OnlyGrants s (serveEngines s) :=
  (grantAll_onlyGrants false 26 s).trans (grantAll_onlyGrants true 8 _)

theorem resumeService_onlyGrants (s : State) : OnlyGrants s (resumeService s) :=
  ((serveBlocked_onlyGrants s).trans (serveContexts_onlyGrants _)).trans (serveEngines_onlyGrants _)

/-! ## The envelope (R27, R28) -/

theorem lcsState_lt (s : State) : s.lcsState < 16 := by
  simp only [State.lcsState, lcsCode]
  split
  · decide
  · split <;> decide

theorem bit_eq (b : Bool) (n : Nat) : bit b n = 2 ^ n * b.toNat := by cases b <;> simp [bit]

/-- A flag stands at its bit where what stands below it is small enough. -/
theorem testBit_bit {n low : Nat} (high : Nat) (b : Bool) (h : low < 2 ^ n) : (2 ^ (n + 1) * high + bit b n + low).testBit n = b := by
  rw [bit_eq, pow_succ, mul_assoc, ← Nat.mul_add, Nat.testBit_two_pow_mul_add _ h]
  cases b <;> simp

/-- Bit 28 of GLB_STATUS is CALIBRATION_PARTIAL (R455). -/
theorem glbStatus_calibrationPartial (s : State) : s.glbStatus.getLsbD 28 = s.calibrationPartial := by
  have hlow : 2 ^ 27 * s.tmp.hold.toNat + 2 ^ 26 * s.pwr.quiet.toNat + 2 ^ 25 * s.glb.minimal.toNat + 2 ^ 24 * s.bounded.toNat
      + s.lcsState * 2 ^ 16 + s.glb.startType.toNat * 2 ^ 4 + s.glb.step.toNat < 2 ^ 28 := by
    have := Bool.toNat_le s.tmp.hold
    have := Bool.toNat_le s.pwr.quiet
    have := Bool.toNat_le s.glb.minimal
    have := Bool.toNat_le s.bounded
    have := lcsState_lt s
    omega
  rw [← testBit_bit (4 * s.ready.toNat + 2 * s.degraded.toNat + s.bat.latch.toNat) s.calibrationPartial hlow]
  simp only [State.glbStatus, BitVec.getLsbD_ofNat, Nat.reduceLT, decide_true, Bool.true_and, bit_eq]
  congr 1
  ring

/-- A transition puts the effective envelope in force, and keeps the key store. -/
theorem envelopeTransition_keeps (s : State) :
    (envelopeTransition s).pwr.inForceBounded = s.bounded ∧ (envelopeTransition s).kst = s.kst := by
  simp only [envelopeTransition]
  split
  · exact ⟨‹_›, rfl⟩
  · have hcores := OnlyCores.foldl governCore_onlyCores (List.range 24) { s with pwr := { s.pwr with inForceBounded := s.bounded } }
    have hserve (x : State) := (serveContexts_onlyGrants x).trans (serveEngines_onlyGrants _)
    rw [(hserve _).pwr, (hserve _).kst, hcores.pwr, hcores.kst]
    exact ⟨rfl, rfl⟩

end Sys2Proof.Machine
end

section
/-! The envelope's request, calibration and the governor's samples (R27, R444 to R446, R456), case by case. -/

namespace Sys2Proof.Machine

open Sys2Proof.Safety

variable {s t u : State}

/-- `t` is `s` but for the power block and what an event changes. -/
def OnlyPower (s t : State) : Prop := ∃ u : State, t = { s with pwr := u.pwr, evc := u.evc, rqe := u.rqe, out := u.out }

theorem OnlyPower.of_pwr (s : State) (x : Pwr) : OnlyPower s { s with pwr := x } := ⟨{ s with pwr := x }, rfl⟩

theorem OnlyPower.trans : OnlyPower s t → OnlyPower t u → OnlyPower s u := by
  rintro ⟨x, rfl⟩ ⟨y, rfl⟩
  exact ⟨y, rfl⟩

theorem OnlyPower.eq_parts : OnlyPower s t → t = { s with pwr := t.pwr, evc := t.evc, rqe := t.rqe, out := t.out } := by
  rintro ⟨u, rfl⟩
  rfl

theorem OnlyEvents.power : OnlyEvents s t → OnlyPower s t := by
  rintro ⟨u, rfl⟩
  exact ⟨withEvents s u, rfl⟩

/-! ## The request for the envelope (R27, R456) -/

theorem isSec_of_ne {who : Who} (h : who ≠ secIni) : isSec who = false := decide_eq_false h

theorem sealFlashes_eq (f : Flash → Flash) (s : State) : sealFlashes f s = { s with kst := (sealFlashes f s).kst } := by
  simp only [sealFlashes]
  split <;> rfl

/-- Once the sealed store is open it keeps the request in both flashes. -/
theorem envelopeWrite_sealed (v : Word) (h : s.kst.opened = true) :
    (envelopeWrite v s).kst.flash0.envelope = v.getLsbD 0 ∧ (envelopeWrite v s).kst.flash1.envelope = v.getLsbD 0 := by
  simp [envelopeWrite, sealFlashes, h]

/-! ## Calibration (R446) -/

theorem calibrationStart_accepted {v : Word} (hv : v.getLsbD 0 = true) (h : s.calRefused = false) :
    calibrationStart v s = { s with pwr := { s.pwr with calState := 1, calBand := v.extractLsb' 1 2, calCode := 0 } } := by
  simp [calibrationStart, hv, h]

theorem calibrationStart_refused {v : Word} (hv : v.getLsbD 0 = true) (h : s.calRefused = true) :
    calibrationStart v s = { s with pwr := { s.pwr with calCode := 1, calState := if s.pwr.calState = 1 then 1 else 3 } } := by
  simp [calibrationStart, hv, h]

/-- The power block after a calibration has ended with a code. -/
def calResult (code : BitVec 4) (x : Pwr) : Pwr :=
  { x with calState := if code = 0 then 2 else 3, calCode := code,
           calibrated := if code = 0 then x.calibrated ||| ((1 : BitVec 4) <<< x.calBand.toNat) else x.calibrated }

theorem calibrationDone_pwr_imem (code : BitVec 4) (h : s.pwr.calState = 1) :
    (calibrationDone code s).pwr = calResult code s.pwr ∧ (calibrationDone code s).imem = s.imem := by
  simp only [calibrationDone, h, ne_eq, not_true_eq_false, if_false]
  rw [(resumeService_onlyGrants _).pwr, (resumeService_onlyGrants _).imem]
  simp [calResult]

/-! ## The governor (R444, R445) -/

theorem setBand_pwr (b : Nat) (s : State) : (setBand b s).pwr = { s.pwr with band := BitVec.ofNat 2 b, lowSamples := 0 } := raise_pwr ..

theorem setBand_onlyPower (b : Nat) (s : State) : OnlyPower s (setBand b s) := (OnlyPower.of_pwr s _).trans (raise_onlyEvents ..).power

theorem bandOf_lt (mw : Nat) : bandOf mw < 4 := by
  simp only [bandOf]
  split_ifs <;> decide

theorem bandSample_rises {mw : Nat} (h : s.pwr.band.toNat < bandOf mw) : (bandSample mw s).pwr.band.toNat = bandOf mw := by
  simp only [bandSample, if_pos h, setBand_pwr, BitVec.toNat_ofNat]
  exact Nat.mod_eq_of_lt (bandOf_lt mw)

/-- The band stays while a sample is near its edge, or one of fewer than 100 low ones (R445). -/
theorem bandSample_stays {mw : Nat} (h : bandOf mw ≤ s.pwr.band.toNat)
    (hlow : bandEdge s.pwr.band.toNat < mw + 300 ∨ s.pwr.lowSamples + 1 < 100) : (bandSample mw s).pwr.band = s.pwr.band := by
  simp only [bandSample, if_neg (Nat.not_lt.mpr h)]
  split
  · next hedge =>
    have hrun : ¬lowRun ≤ s.pwr.lowSamples + 1 := by
      simp only [lowRun]
      omega
    rw [if_neg hrun]
  · rfl

theorem bandSample_measures (mw : Nat) (s : State) :
    (bandSample mw s).pwr.powerMw = s.pwr.powerMw ∧ (bandSample mw s).pwr.throttling = s.pwr.throttling := by
  simp only [bandSample]
  split_ifs <;> simp [setBand_pwr]

theorem bandSample_onlyPower (mw : Nat) (s : State) : OnlyPower s (bandSample mw s) := by
  simp only [bandSample]
  split_ifs
  · exact setBand_onlyPower ..
  · exact setBand_onlyPower ..
  · exact .of_pwr s _
  · exact .of_pwr s _

/-- Throttling after a sample: from 0.3 W below the cap until 0.5 W below it (R444). -/
def State.throttlesAt (s : State) (mw : Nat) : Bool :=
  if s.powerCap ≤ mw + 300 then true else if mw + 500 ≤ s.powerCap then false else s.pwr.throttling

/-- The state with a sample's power and throttling, before its band. -/
def measured (mw : BitVec 16) (s : State) : State := { s with pwr := { s.pwr with powerMw := mw, throttling := s.throttlesAt mw.toNat } }

/-- The same, with the event of a throttling that begins. -/
def throttled (mw : BitVec 16) (s : State) : State :=
  if s.throttlesAt mw.toNat && !s.pwr.throttling then raise 554 (measured mw s) else measured mw s

theorem governorSample_eq (mw : BitVec 16) (s : State) : governorSample mw s = bandSample mw.toNat (throttled mw s) := rfl

theorem throttled_pwr (mw : BitVec 16) (s : State) :
    (throttled mw s).pwr = { s.pwr with powerMw := mw, throttling := s.throttlesAt mw.toNat } := by
  simp only [throttled]
  split
  · exact raise_pwr ..
  · rfl

theorem throttled_onlyPower (mw : BitVec 16) (s : State) : OnlyPower s (throttled mw s) := by
  have hmeasured : OnlyPower s (measured mw s) := .of_pwr s _
  simp only [throttled]
  split
  · exact hmeasured.trans (raise_onlyEvents ..).power
  · exact hmeasured

theorem governorSample_onlyPower (mw : BitVec 16) (s : State) : OnlyPower s (governorSample mw s) :=
  (throttled_onlyPower mw s).trans (bandSample_onlyPower ..)

theorem governorSample_measures (mw : BitVec 16) (s : State) :
    (governorSample mw s).pwr.powerMw = mw ∧ (governorSample mw s).pwr.throttling = s.throttlesAt mw.toNat := by
  rw [governorSample_eq, (bandSample_measures _ _).1, (bandSample_measures _ _).2, throttled_pwr]
  exact ⟨rfl, rfl⟩

theorem governorSample_rises {mw : BitVec 16} (h : s.pwr.band.toNat < bandOf mw.toNat) :
    (governorSample mw s).pwr.band.toNat = bandOf mw.toNat := by
  rw [governorSample_eq, bandSample_rises]
  rwa [throttled_pwr]

theorem governorSample_stays {mw : BitVec 16} (h : bandOf mw.toNat ≤ s.pwr.band.toNat)
    (hlow : bandEdge s.pwr.band.toNat < mw.toNat + 300 ∨ s.pwr.lowSamples + 1 < 100) : (governorSample mw s).pwr.band = s.pwr.band := by
  rw [governorSample_eq, bandSample_stays] <;> rw [throttled_pwr]
  · exact h
  · exact hlow

end Sys2Proof.Machine
end

section
/-! Tamper monitors (R347 to R365): what the qualification or the clearing of one source leaves to another one, so that each source of a
sample can be judged alone. -/

namespace Sys2Proof.Machine

open Sys2Proof.Safety

variable {s t u : State} {n m : Nat}

theorem getLsbD_setBit48 (v : BitVec 48) (n k : Nat) : (setBit48 v n).getLsbD k = (v.getLsbD k || decide (k < 48 ∧ k = n)) := by
  simp only [setBit48, BitVec.getLsbD_or, BitVec.getLsbD_shiftLeft]
  grind

theorem getLsbD_clearBit48 (v : BitVec 48) (n k : Nat) : (clearBit48 v n).getLsbD k = (v.getLsbD k && decide (k ≠ n)) := by
  have hrange : v.getLsbD k = true → k < 48 := BitVec.lt_of_getLsbD
  simp only [clearBit48, BitVec.getLsbD_and, BitVec.getLsbD_not, BitVec.getLsbD_shiftLeft]
  grind

/-! ## What an alarm leaves of the monitors -/

/-- The tamper block without what an alarm changes: its latches, conditions and windows, the HOLD. -/
def Tmp.monitors (x : Tmp) : Tmp :=
  { x with hold := false, window := none, eraseWindow := false, windows := 0, latch := 0, active := 0, inForce := 0, releasing := 0,
           disarmed := 0 }

/-- The same without samples and counts: the settings of the monitors. -/
def Tmp.settings (x : Tmp) : Tmp :=
  { x.monitors with temp0 := 0, temp1 := 0, tempb := 0, tempRuns := [], encLevel := 0, encRuns := [], emeshMiss0 := 0, emeshMiss1 := 0,
                    meshRuns := [] }

@[simp] theorem windowJoin_monitors (n c : Nat) (s : State) : (windowJoin n c s).tmp.monitors = s.tmp.monitors := by
  simp only [windowJoin]
  split
  · rfl
  · split <;> rfl

/-- A window takes no part of the sources' own bits. -/
theorem windowJoin_bits (n c : Nat) (s : State) :
    (windowJoin n c s).tmp.latch = s.tmp.latch ∧ (windowJoin n c s).tmp.active = s.tmp.active
      ∧ (windowJoin n c s).tmp.disarmed = s.tmp.disarmed := by
  simp only [windowJoin]
  split
  · exact ⟨rfl, rfl, rfl⟩
  · split <;> exact ⟨rfl, rfl, rfl⟩

@[simp] theorem windowJoin_line (n c : Nat) (s : State) : (windowJoin n c s).kst.line = s.kst.line := by
  simp only [windowJoin]
  split
  · rfl
  · split <;> rfl

theorem eraseRise_line (src : BitVec 4) (s : State) : (eraseRise src s).kst.line = true := by
  simp only [eraseRise]
  split
  · assumption
  · rw [raise_kst]

theorem eraseRise_keepsPending (src : BitVec 4) (s : State) : KeepsPending s (eraseRise src s) := by
  simp only [eraseRise]
  split
  · exact .of_eq rfl
  · exact fun k hk => raise_keepsPending 360 _ k hk

theorem eraseRise_routes (src : BitVec 4) (s : State) : (eraseRise src s).evc.routes = s.evc.routes := by
  simp only [eraseRise]
  split
  · rfl
  · rw [raise_routes]

/-- A source of class ERASE acts: the line rises, the sources of the window go into the erase record, the source has not re-armed (R355,
R361, R362). -/
def eraseActed (n : Nat) (map : BitVec 48) (s : State) : State :=
  { eraseRise 1 s with
      kst := { (eraseRise 1 s).kst with eraseMap := map },
      tmp := { (eraseRise 1 s).tmp with
        eraseWindow := true, disarmed := if n < 44 then setBit48 (eraseRise 1 s).tmp.disarmed n else (eraseRise 1 s).tmp.disarmed } }

theorem eraseActed_monitors (n : Nat) (map : BitVec 48) (s : State) : (eraseActed n map s).tmp.monitors = s.tmp.monitors := by
  simp only [eraseActed, eraseRise_tmp, Tmp.monitors]

theorem eraseActed_bits (n : Nat) (map : BitVec 48) (s : State) :
    (eraseActed n map s).tmp.latch = s.tmp.latch ∧ (eraseActed n map s).tmp.active = s.tmp.active := by
  simp only [eraseActed, eraseRise_tmp, and_self]

theorem eraseActed_disarmed_other {k : Nat} (h : k ≠ n) (map : BitVec 48) (s : State) :
    (eraseActed n map s).tmp.disarmed.getLsbD k = s.tmp.disarmed.getLsbD k := by
  simp only [eraseActed, eraseRise_tmp]
  split
  · simp [getLsbD_setBit48, h]
  · rfl

theorem eraseActed_line (n : Nat) (map : BitVec 48) (s : State) : (eraseActed n map s).kst.line = true := by
  simp only [eraseActed, eraseRise_line]

theorem eraseActed_evc (n : Nat) (map : BitVec 48) (s : State) : (eraseActed n map s).evc = (eraseRise 1 s).evc := by
  simp only [eraseActed]

theorem classAct_erase (hline : s.kst.line = false) (harmed : s.tmp.disarmed.getLsbD n = false) :
    ∃ map, classAct n 2 s = eraseActed n map s := by
  have hacts : ¬(s.kst.line ∨ s.tmp.disarmed.getLsbD n) := by simp [hline, harmed]
  rw [classAct, if_pos rfl, if_neg hacts]
  exact ⟨_, rfl⟩

/-- What the class of a source does (R355, R356). -/
theorem classAct_cases (n c : Nat) (s : State) :
    classAct n c s = s ∨ (∃ map, classAct n c s = eraseActed n map s) ∨ classAct n c s = holdStart n s := by
  by_cases hc : c = 2
  · subst hc
    by_cases hacts : s.kst.line ∨ s.tmp.disarmed.getLsbD n
    · exact .inl (by simp only [classAct, if_true, if_pos hacts])
    · simp only [not_or, Bool.not_eq_true] at hacts
      exact .inr (.inl (classAct_erase hacts.1 hacts.2))
  · by_cases hhold : c = 1
    · exact .inr (.inr (by simp [classAct, hhold]))
    · exact .inl (by simp [classAct, hc, hhold])

@[simp] theorem classAct_monitors (n c : Nat) (s : State) : (classAct n c s).tmp.monitors = s.tmp.monitors := by
  obtain h | ⟨map, h⟩ | h := classAct_cases n c s <;> rw [h]
  · exact eraseActed_monitors n map s
  · rfl

/-- A source that acts changes no latch and no condition. -/
theorem classAct_bits (n c : Nat) (s : State) :
    (classAct n c s).tmp.latch = s.tmp.latch ∧ (classAct n c s).tmp.active = s.tmp.active := by
  obtain h | ⟨map, h⟩ | h := classAct_cases n c s <;> rw [h]
  · exact ⟨rfl, rfl⟩
  · exact eraseActed_bits n map s
  · exact ⟨rfl, rfl⟩

/-- A source that acts disarms no other one (R362). -/
theorem classAct_disarmed_other (h : n ≠ m) (c : Nat) (s : State) :
    (classAct m c s).tmp.disarmed.getLsbD n = s.tmp.disarmed.getLsbD n := by
  obtain hc | ⟨map, hc⟩ | hc := classAct_cases m c s <;> rw [hc]
  · exact eraseActed_disarmed_other h map s
  · rfl

/-- The state of a source as it qualifies: its latch, and the condition of a level source (R347). -/
def marked (n : Nat) (s : State) : State :=
  { s with tmp := { s.tmp with latch := setBit48 s.tmp.latch n, active := if n < 44 then setBit48 s.tmp.active n else s.tmp.active } }

/-- A source that qualifies is marked, raises its event, joins the window and acts by its class; else nothing happens. -/
theorem qualify_cases (n : Nat) (s : State) : qualify n s = s ∨
    qualify n s = classAct n (s.classOf n) (windowJoin n (s.classOf n) (raise (376 + n) (marked n s))) := by
  simp only [qualify]
  split
  · exact .inl rfl
  · split
    · exact .inl rfl
    · exact .inr rfl

@[simp] theorem qualify_monitors (n : Nat) (s : State) : (qualify n s).tmp.monitors = s.tmp.monitors := by
  obtain h | h := qualify_cases n s
  · rw [h]
  · rw [h, classAct_monitors, windowJoin_monitors, raise_tmp]
    rfl

@[simp] theorem conditionClear_monitors (n : Nat) (s : State) : (conditionClear n s).tmp.monitors = s.tmp.monitors := by
  simp only [conditionClear]
  split_ifs <;> rfl

@[simp] theorem conditionClear_latch (n : Nat) (s : State) : (conditionClear n s).tmp.latch = s.tmp.latch := by
  simp only [conditionClear]
  split_ifs <;> rfl

@[simp] theorem conditionClear_disarmed (n : Nat) (s : State) : (conditionClear n s).tmp.disarmed = s.tmp.disarmed := by
  simp only [conditionClear]
  split_ifs <;> rfl

@[simp] theorem conditionClear_kst (n : Nat) (s : State) : (conditionClear n s).kst = s.kst := by
  simp only [conditionClear]
  split_ifs <;> rfl

@[simp] theorem conditionClear_evc (n : Nat) (s : State) : (conditionClear n s).evc = s.evc := by
  simp only [conditionClear]
  split_ifs <;> rfl

/-- The tamper block once the condition of a source has ended (R357, R362). -/
def cleared (n : Nat) (x : Tmp) : Tmp :=
  if x.active.getLsbD n then
    { x with active := clearBit48 x.active n,
             releasing := if x.inForce.getLsbD n || x.disarmed.getLsbD n then setBit48 x.releasing n else x.releasing }
  else x

theorem conditionClear_tmp (h : n < 44) (s : State) : (conditionClear n s).tmp = cleared n s.tmp := by
  simp only [conditionClear, if_neg (Nat.not_le.mpr h), cleared]
  split_ifs <;> rfl

/-- The conditions after the clearing of a source: its own has ended, the others hold as they did (R357). -/
theorem conditionClear_active (hm : m < 44) (k : Nat) (s : State) :
    (conditionClear m s).tmp.active.getLsbD k = (s.tmp.active.getLsbD k && decide (k ≠ m)) := by
  rw [conditionClear_tmp hm, cleared]
  split
  · exact getLsbD_clearBit48 ..
  · grind

/-! ## What one source leaves to another -/

/-- For the source `n` the state `t` has what `s` has: the monitors' settings, its condition and whether it has re-armed; its latch, the
erase line and pending events may only have been set. -/
structure Spares (n : Nat) (s t : State) : Prop where
  settings : t.tmp.settings = s.tmp.settings
  active : t.tmp.active.getLsbD n = s.tmp.active.getLsbD n
  disarmed : t.tmp.disarmed.getLsbD n = s.tmp.disarmed.getLsbD n
  latch : s.tmp.latch.getLsbD n = true → t.tmp.latch.getLsbD n = true
  line : s.kst.line = true → t.kst.line = true
  routes : t.evc.routes = s.evc.routes
  pending : KeepsPending s t

/-- A source that qualifies once its monitor finds it bad: past fuse sense, not disabled, its condition not there yet (R347, R359). -/
def Armed (n : Nat) (s : State) : Prop :=
  s.tmp.handover = true ∧ s.tmp.disabled.getLsbD n = false ∧ s.tmp.active.getLsbD n = false

theorem settings_of_monitors {x y : Tmp} (h : y.monitors = x.monitors) : y.settings = x.settings := by
  simp only [Tmp.settings, h]

namespace Spares

theorem refl (n : Nat) (s : State) : Spares n s s := ⟨rfl, rfl, rfl, id, id, rfl, .of_eq rfl⟩

theorem trans (h : Spares n s t) (k : Spares n t u) : Spares n s u :=
  ⟨k.settings.trans h.settings, k.active.trans h.active, k.disarmed.trans h.disarmed, k.latch ∘ h.latch, k.line ∘ h.line,
    k.routes.trans h.routes, h.pending.trans k.pending⟩

/-- Samples and counts are not part of a source. -/
theorem of_tmp {x : Tmp} (hset : x.settings = s.tmp.settings)
    (hbits : x.active = s.tmp.active ∧ x.disarmed = s.tmp.disarmed ∧ x.latch = s.tmp.latch) : Spares n s { s with tmp := x } := by
  obtain ⟨hactive, hdisarmed, hlatch⟩ := hbits
  exact ⟨hset, by rw [hactive], by rw [hdisarmed], fun h => by rwa [hlatch], id, rfl, .of_eq rfl⟩

theorem armed (h : Spares n s t) : Armed n s → Armed n t := by
  rintro ⟨hhandover, hdisabled, hactive⟩
  exact ⟨(congrArg Tmp.handover h.settings).trans hhandover, (congrArg (·.disabled.getLsbD n) h.settings).trans hdisabled,
    h.active.trans hactive⟩

theorem encCfg (h : Spares n s t) : t.tmp.encCfg = s.tmp.encCfg := (congrArg Tmp.encCfg h.settings :)

theorem tempHigh (h : Spares n s t) : t.tempHigh = s.tempHigh := by
  have hlimit : t.tmp.tempLimit = s.tmp.tempLimit := (congrArg Tmp.tempLimit h.settings :)
  simp only [State.tempHigh, hlimit]

theorem watched (h : Spares n s t) (k : Nat) : t.watched k = s.watched k := by
  have hmesh : t.tmp.emeshCfg = s.tmp.emeshCfg := (congrArg Tmp.emeshCfg h.settings :)
  simp only [State.watched, h.encCfg, hmesh]

end Spares

theorem raise_spares (n src : Nat) (s : State) : Spares n s (raise src s) :=
  ⟨by rw [raise_tmp], by rw [raise_tmp], by rw [raise_tmp], by rw [raise_tmp]; exact id, by rw [raise_kst]; exact id, raise_routes ..,
    raise_keepsPending src s⟩

theorem windowJoin_spares (n k c : Nat) (s : State) : Spares n s (windowJoin k c s) := by
  obtain ⟨hlatch, hactive, hdisarmed⟩ := windowJoin_bits k c s
  exact ⟨settings_of_monitors (windowJoin_monitors ..), by rw [hactive], by rw [hdisarmed], by rw [hlatch]; exact id,
    by rw [windowJoin_line]; exact id, by rw [windowJoin_evc], .of_eq (windowJoin_evc ..)⟩

/-- What the class of a source does keeps a raised line, the routes and the events that pend. -/
theorem classAct_line_events (k c : Nat) (s : State) :
    (s.kst.line = true → (classAct k c s).kst.line = true) ∧ (classAct k c s).evc.routes = s.evc.routes
      ∧ KeepsPending s (classAct k c s) := by
  obtain h | ⟨map, h⟩ | h := classAct_cases k c s <;> rw [h]
  · exact ⟨id, rfl, .of_eq rfl⟩
  · exact ⟨fun _ => eraseActed_line k map s, by rw [eraseActed_evc, eraseRise_routes],
      (eraseRise_keepsPending 1 s).trans (.of_eq (eraseActed_evc k map s))⟩
  · exact ⟨id, rfl, .of_eq rfl⟩

theorem classAct_spares (h : n ≠ m) (c : Nat) (s : State) : Spares n s (classAct m c s) := by
  obtain ⟨hlatch, hactive⟩ := classAct_bits m c s
  obtain ⟨hline, hroutes, hpending⟩ := classAct_line_events m c s
  exact ⟨settings_of_monitors (classAct_monitors ..), by rw [hactive], classAct_disarmed_other h c s, by rw [hlatch]; exact id, hline,
    hroutes, hpending⟩

theorem marked_spares (h : n ≠ m) (s : State) : Spares n s (marked m s) := by
  refine ⟨rfl, ?_, rfl, fun hn => ?_, id, rfl, .of_eq rfl⟩
  · simp only [marked]
    split
    · simp [getLsbD_setBit48, h]
    · rfl
  · simp [marked, getLsbD_setBit48, hn]

theorem qualify_spares (h : n ≠ m) (s : State) : Spares n s (qualify m s) := by
  obtain hq | hq := qualify_cases m s <;> rw [hq]
  · exact .refl n s
  · exact (((marked_spares h s).trans (raise_spares ..)).trans (windowJoin_spares ..)).trans (classAct_spares h ..)

theorem conditionClear_spares (h : n ≠ m) (s : State) : Spares n s (conditionClear m s) := by
  refine ⟨settings_of_monitors (conditionClear_monitors ..), ?_, by rw [conditionClear_disarmed], by rw [conditionClear_latch]; exact id,
    by rw [conditionClear_kst]; exact id, by rw [conditionClear_evc], .of_eq (conditionClear_evc ..)⟩
  by_cases hm : m < 44
  · simp [conditionClear_active hm, h]
  · simp [conditionClear, Nat.not_lt.mp hm]

theorem sampled_spares (h : n ≠ m) (need count : Nat) (bad : Bool) (s : State) : Spares n s (sampled m need count bad s) := by
  simp only [sampled]
  split_ifs
  · exact qualify_spares h s
  · exact .refl n s
  · exact conditionClear_spares h s

@[simp] theorem sampled_monitors (n need count : Nat) (bad : Bool) (s : State) :
    (sampled n need count bad s).tmp.monitors = s.tmp.monitors := by
  simp only [sampled]
  split_ifs <;> simp

/-! ## What a source does for itself -/

theorem qualify_of_armed (hn : n < 44) (h : Armed n s) :
    qualify n s = classAct n (s.classOf n) (windowJoin n (s.classOf n) (raise (376 + n) (marked n s))) := by
  obtain ⟨hhandover, hdisabled, hactive⟩ := h
  have hserves : ¬(s.tmp.disabled.getLsbD n ∨ s.tmp.handover = false ∨ 48 ≤ n) := by simp [hhandover, hdisabled]; omega
  have hfresh : ¬(n < 44 ∧ s.tmp.active.getLsbD n) := by simp [hactive]
  rw [qualify, if_neg hserves, if_neg hfresh]
  rfl

/-- An armed level source that qualifies is latched, and its condition holds (R347, R355). -/
theorem qualify_latches (hn : n < 44) (h : Armed n s) :
    (qualify n s).tmp.latch.getLsbD n = true ∧ (qualify n s).tmp.active.getLsbD n = true := by
  have hlt : n < 48 := by omega
  rw [qualify_of_armed hn h, (classAct_bits ..).1, (classAct_bits ..).2, (windowJoin_bits ..).1, (windowJoin_bits ..).2.1, raise_tmp]
  simp [marked, hn, hlt, getLsbD_setBit48]

/-- An armed source of class ERASE that has re-armed raises the line (R355). -/
theorem qualify_raises_line (hn : n < 44) (h : Armed n s) (hclass : s.classOf n = 2) (hdisarmed : s.tmp.disarmed.getLsbD n = false) :
    (qualify n s).kst.line = true := by
  rw [qualify_of_armed hn h, hclass]
  by_cases hline : s.kst.line = true
  · refine (classAct_line_events n 2 _).1 ?_
    simpa [marked] using hline
  · obtain ⟨map, hacts⟩ := classAct_erase (n := n) (s := windowJoin n 2 (raise (376 + n) (marked n s))) (by simpa [marked] using hline)
      (by rw [(windowJoin_bits ..).2.2, raise_tmp]; exact hdisarmed)
    rw [hacts, eraseActed_line]

theorem qualify_keepsPending (n : Nat) (s : State) : KeepsPending s (qualify n s) := by
  obtain h | h := qualify_cases n s <;> rw [h]
  · exact .of_eq rfl
  · obtain ⟨-, -, hpending⟩ := classAct_line_events n (s.classOf n) (windowJoin n (s.classOf n) (raise (376 + n) (marked n s)))
    exact (((KeepsPending.of_eq (t := marked n s) rfl).trans (raise_keepsPending _ _)).trans (.of_eq (windowJoin_evc ..))).trans hpending

end Sys2Proof.Machine
end

section
/-! The samples of the monitors (R23, R347, R349, R352, R353): each takes its sources one after the other, and what comes before and after
the turn of a source spares it. -/

namespace Sys2Proof.Machine

open Sys2Proof.Safety

variable {s t u : State}

/-- In a pass over distinct items, what every item keeps for the item `i` holds up to its turn and from there to the end. -/
theorem exists_turn {α : Type} {f : State → α → State} {R : State → State → Prop} (hrefl : ∀ s, R s s)
    (htrans : ∀ {a b c}, R a b → R b c → R a c) {l : List α} (hl : l.Nodup) {i : α} (hi : i ∈ l)
    (hf : ∀ j ∈ l, j ≠ i → ∀ s, R s (f s j)) (s : State) : ∃ a, R s a ∧ R (f a i) (l.foldl f s) := by
  obtain ⟨before, after, rfl⟩ := List.append_of_mem hi
  have hpass (part : List α) (hpart : ∀ j ∈ part, j ∈ before ++ i :: after ∧ j ≠ i) (s : State) : R s (part.foldl f s) :=
    List.foldlRecOn part f (hrefl s) fun _ hx j hj => htrans hx (hf j (hpart j hj).1 (hpart j hj).2 _)
  refine ⟨before.foldl f s, hpass before (fun j hj => ⟨by simp [hj], ?_⟩) s, ?_⟩
  · rintro rfl
    exact (List.nodup_append.mp hl).2.2 j hj j List.mem_cons_self rfl
  · rw [List.foldl_append, List.foldl_cons]
    refine hpass after (fun j hj => ⟨by simp [hj], ?_⟩) _
    rintro rfl
    exact (List.nodup_cons.mp (List.nodup_append.mp hl).2.1).1 hj

/-- For the source `n` all is spared, and a count of it stays. -/
def SparesRun (n : Nat) (run : State → Nat) (s t : State) : Prop := Spares n s t ∧ run t = run s

theorem SparesRun.refl (n : Nat) (run : State → Nat) (s : State) : SparesRun n run s s := ⟨.refl n s, rfl⟩

theorem SparesRun.trans {n : Nat} {run : State → Nat} (h : SparesRun n run s t) (k : SparesRun n run t u) : SparesRun n run s u :=
  ⟨h.1.trans k.1, k.2.trans h.2⟩

theorem sampled_latches {n need count : Nat} (hn : n < 44) (h : Armed n s) (hcount : need ≤ count + 1) :
    (sampled n need count true s).tmp.latch.getLsbD n = true := by
  rw [sampled, if_pos rfl, if_pos hcount]
  exact (qualify_latches hn h).1

/-! ## Meshes (R352, R354) -/

/-- Mismatches in a row of a net or channel (R352). -/
def meshRun (i : Nat) (s : State) : Nat := s.tmp.meshRuns.get 0 i

theorem meshNet_lt (i : Nat) (h : i < 6) : meshNet i < 44 := by
  simp only [meshNet]
  split <;> omega

theorem meshNet_ne {i j : Nat} (h : i ≠ j) : meshNet i ≠ meshNet j := by
  simp only [meshNet]
  split <;> split <;> omega

/-- The state of a net or channel with its sample counted. -/
def meshCounted (m : BitVec 6) (i : Nat) (s : State) : State :=
  { s with tmp := { s.tmp with
      meshRuns := s.tmp.meshRuns.set 0 i (nextRun (meshRun i s) (m.getLsbD i)),
      emeshMiss0 := if i = 4 ∧ m.getLsbD i then satInc s.tmp.emeshMiss0 else s.tmp.emeshMiss0,
      emeshMiss1 := if i = 5 ∧ m.getLsbD i then satInc s.tmp.emeshMiss1 else s.tmp.emeshMiss1 } }

theorem meshOne_of_watched {m : BitVec 6} {i : Nat} (h : s.watched (meshNet i) = true) :
    meshOne m i s = sampled (meshNet i) 2 (meshRun i s) (m.getLsbD i) (meshCounted m i s) := by
  simp only [meshOne, h]
  rfl

theorem meshCounted_spares (n : Nat) (m : BitVec 6) (i : Nat) (s : State) : Spares n s (meshCounted m i s) :=
  .of_tmp rfl ⟨rfl, rfl, rfl⟩

theorem meshOne_run {m : BitVec 6} {i : Nat} (h : s.watched (meshNet i) = true) (k : Nat) :
    meshRun k (meshOne m i s) = if k = i then nextRun (meshRun i s) (m.getLsbD i) else meshRun k s := by
  have hmon := sampled_monitors (meshNet i) 2 (meshRun i s) (m.getLsbD i) (meshCounted m i s)
  rw [meshOne_of_watched h]
  exact (congrArg (fun x : Tmp => x.meshRuns.get 0 k) hmon).trans (smap_get_set ..)

theorem meshOne_sparesRun (m : BitVec 6) {i j : Nat} (h : j ≠ i) (s : State) : SparesRun (meshNet i) (meshRun i) s (meshOne m j s) := by
  by_cases hw : s.watched (meshNet j) = true
  · refine ⟨?_, (meshOne_run hw i).trans (if_neg h.symm)⟩
    rw [meshOne_of_watched hw]
    exact (meshCounted_spares ..).trans (sampled_spares (meshNet_ne h.symm) ..)
  · have hsame : meshOne m j s = s := by simp [meshOne, hw]
    rw [hsame]
    exact .refl ..

/-- A compare of the meshes, seen from one net or channel. -/
theorem meshCompare_turn (m : BitVec 6) {i : Nat} (hi : i < 6) (s : State) :
    ∃ a, SparesRun (meshNet i) (meshRun i) s a
      ∧ SparesRun (meshNet i) (meshRun i) (meshOne m i a) ((List.range 6).foldl (fun s i => meshOne m i s) s) :=
  exists_turn (SparesRun.refl _ _) SparesRun.trans List.nodup_range (List.mem_range.mpr hi) (fun _ _ hj s => meshOne_sparesRun m hj s) s

/-! ## Enclosure inputs (R353) -/

/-- Bad samples in a row of an input (R353). -/
def encRun (i : Nat) (s : State) : Nat := s.tmp.encRuns.get 0 i

/-- An input reads bad in its mode. -/
def State.encBad (s : State) (l : BitVec 8) (i : Nat) : Bool :=
  (classField s.tmp.encCfg.val i = 1 && l.getLsbD i) || (classField s.tmp.encCfg.val i = 2 && !l.getLsbD i)

/-- The filter count of the inputs (R353). -/
def State.encNeed (s : State) : Nat := (s.tmp.encCfg.val.extractLsb' 16 8).toNat

/-- The state of an input with its sample counted. -/
def encCounted (l : BitVec 8) (i : Nat) (s : State) : State :=
  { s with tmp := { s.tmp with encRuns := s.tmp.encRuns.set 0 i (nextRun (encRun i s) (s.encBad l i)) } }

theorem encOne_eq (l : BitVec 8) (i : Nat) (s : State) :
    encOne l i s = sampled (34 + i) s.encNeed (encRun i s) (s.encBad l i) (encCounted l i s) := rfl

theorem encCounted_spares (n : Nat) (l : BitVec 8) (i : Nat) (s : State) : Spares n s (encCounted l i s) := .of_tmp rfl ⟨rfl, rfl, rfl⟩

theorem encOne_monitors (l : BitVec 8) (i : Nat) (s : State) : (encOne l i s).tmp.monitors = (encCounted l i s).tmp.monitors := by
  rw [encOne_eq, sampled_monitors]

theorem encOne_run (l : BitVec 8) (i k : Nat) (s : State) :
    encRun k (encOne l i s) = if k = i then nextRun (encRun i s) (s.encBad l i) else encRun k s :=
  (congrArg (fun x : Tmp => x.encRuns.get 0 k) (encOne_monitors l i s)).trans (smap_get_set ..)

theorem encOne_encLevel (l : BitVec 8) (i : Nat) (s : State) : (encOne l i s).tmp.encLevel = s.tmp.encLevel :=
  (congrArg Tmp.encLevel (encOne_monitors l i s) :)

theorem encOne_sparesRun (l : BitVec 8) {i j : Nat} (h : j ≠ i) (s : State) : SparesRun (34 + i) (encRun i) s (encOne l j s) := by
  refine ⟨?_, (encOne_run l j i s).trans (if_neg h.symm)⟩
  rw [encOne_eq]
  exact (encCounted_spares ..).trans (sampled_spares (by omega) ..)

/-- The inputs' levels are taken before the inputs. -/
def encTaken (l : BitVec 8) (s : State) : State := { s with tmp := { s.tmp with encLevel := l } }

theorem encTaken_sparesRun (l : BitVec 8) (i : Nat) (s : State) : SparesRun (34 + i) (encRun i) s (encTaken l s) :=
  ⟨.of_tmp rfl ⟨rfl, rfl, rfl⟩, rfl⟩

theorem encSample_encLevel (l : BitVec 8) (s : State) :
    ((List.range 8).foldl (fun s i => encOne l i s) (encTaken l s)).tmp.encLevel = l :=
  List.foldlRecOn (motive := fun t : State => t.tmp.encLevel = l) _ _ rfl fun t ht i _ => (encOne_encLevel l i t).trans ht

/-- A sample of the enclosure inputs, seen from one input. -/
theorem encSample_turn (l : BitVec 8) {i : Nat} (hi : i < 8) (s : State) :
    ∃ a, SparesRun (34 + i) (encRun i) s a
      ∧ SparesRun (34 + i) (encRun i) (encOne l i a) ((List.range 8).foldl (fun s i => encOne l i s) (encTaken l s)) := by
  obtain ⟨a, hbefore, hafter⟩ := exists_turn (SparesRun.refl _ _) SparesRun.trans List.nodup_range (List.mem_range.mpr hi)
    (fun _ _ hj s => encOne_sparesRun l hj s) (encTaken l s)
  exact ⟨a, (encTaken_sparesRun l i s).trans hbefore, hafter⟩

/-! ## Main sensor 0 (R347, R349) -/

/-- The state of a sensor's limit with its sample counted. -/
def tempCounted (key : Nat) (bad : Bool) (s : State) : State :=
  { s with tmp := { s.tmp with tempRuns := s.tmp.tempRuns.set 0 key (nextRun (s.tmp.tempRuns.get 0 key) bad) } }

theorem tempCounted_spares (n key : Nat) (bad : Bool) (s : State) : Spares n s (tempCounted key bad s) := .of_tmp rfl ⟨rfl, rfl, rfl⟩

theorem tempRun_eq (key n need : Nat) (bad : Bool) (s : State) :
    tempRun key n need bad s = sampled n need (s.tmp.tempRuns.get 0 key) bad (tempCounted key bad s) := rfl

theorem tempRun_monitors (key n need : Nat) (bad : Bool) (s : State) :
    (tempRun key n need bad s).tmp.monitors = (tempCounted key bad s).tmp.monitors := by
  rw [tempRun_eq, sampled_monitors]

theorem tempRun_spares {n m : Nat} (h : n ≠ m) (key need : Nat) (bad : Bool) (s : State) : Spares n s (tempRun key m need bad s) := by
  rw [tempRun_eq]
  exact (tempCounted_spares ..).trans (sampled_spares h ..)

/-- A good sample ends the condition (R357). -/
theorem tempRun_good (key n need : Nat) (s : State) : tempRun key n need false s = conditionClear n (tempCounted key false s) := rfl

theorem tempWarn_cases (key : Nat) (v : Int) (s : State) :
    let r := tempCounted key (decide (s.tempHigh - 15 ≤ v)) s
    tempWarn key v s = qualify 6 r ∧ s.tempHigh - 15 ≤ v ∨ tempWarn key v s = conditionClear 6 r ∨ tempWarn key v s = r := by
  simp only [tempWarn]
  split
  · next h => exact .inl ⟨rfl, of_decide_eq_true h.1⟩
  · split
    · exact .inr (.inl rfl)
    · exact .inr (.inr rfl)

theorem tempWarn_monitors (key : Nat) (v : Int) (s : State) :
    (tempWarn key v s).tmp.monitors = (tempCounted key (decide (s.tempHigh - 15 ≤ v)) s).tmp.monitors := by
  obtain ⟨h, -⟩ | h | h := tempWarn_cases key v s <;> rw [h]
  · rw [qualify_monitors]
  · rw [conditionClear_monitors]

theorem tempWarn_spares {n : Nat} (h : n ≠ 6) (key : Nat) (v : Int) (s : State) : Spares n s (tempWarn key v s) := by
  obtain ⟨hw, -⟩ | hw | hw := tempWarn_cases key v s <;> rw [hw]
  · exact (tempCounted_spares ..).trans (qualify_spares h _)
  · exact (tempCounted_spares ..).trans (conditionClear_spares h _)
  · exact tempCounted_spares ..

/-- Below the warning level nothing is latched and the key store stays. -/
theorem tempWarn_good {key : Nat} {v : Int} (h : v < s.tempHigh - 15) :
    (tempWarn key v s).tmp.latch = s.tmp.latch ∧ (tempWarn key v s).kst = s.kst := by
  obtain ⟨-, hwarn⟩ | hw | hw := tempWarn_cases key v s
  · omega
  · rw [hw, conditionClear_latch, conditionClear_kst]
    exact ⟨rfl, rfl⟩
  · rw [hw]
    exact ⟨rfl, rfl⟩

/-- Sensor 0 after the sample is taken and judged against the low limit. -/
def lowJudged (v : BitVec 8) (s : State) : State :=
  tempRun 0 0 3 (decide (v.toInt < s.tempLow)) { s with tmp := { s.tmp with temp0 := v } }

/-- Sensor 0 after the high limit too. -/
def highJudged (v : BitVec 8) (s : State) : State := tempRun 1 1 3 (decide ((lowJudged v s).tempHigh < v.toInt)) (lowJudged v s)

theorem sensorSample_zero (v : BitVec 8) (s : State) : sensorSample 0 v s = tempWarn 6 v.toInt (highJudged v s) := rfl

theorem lowJudged_spares (v : BitVec 8) (s : State) : Spares 1 s (lowJudged v s) :=
  (Spares.of_tmp (x := { s.tmp with temp0 := v }) rfl ⟨rfl, rfl, rfl⟩).trans (tempRun_spares (by decide) ..)

theorem lowJudged_tmp (v : BitVec 8) (s : State) :
    (lowJudged v s).tmp.temp0 = v
      ∧ (lowJudged v s).tmp.tempRuns = s.tmp.tempRuns.set 0 0 (nextRun (s.tmp.tempRuns.get 0 0) (decide (v.toInt < s.tempLow))) := by
  have hmon := tempRun_monitors 0 0 3 (decide (v.toInt < s.tempLow)) { s with tmp := { s.tmp with temp0 := v } }
  exact ⟨(congrArg Tmp.temp0 hmon :), (congrArg Tmp.tempRuns hmon :)⟩

theorem highJudged_tmp (v : BitVec 8) (s : State) :
    (highJudged v s).tmp.temp0 = v
      ∧ (highJudged v s).tmp.tempRuns = (lowJudged v s).tmp.tempRuns.set 0 1
          (nextRun ((lowJudged v s).tmp.tempRuns.get 0 1) (decide ((lowJudged v s).tempHigh < v.toInt))) := by
  have hmon := tempRun_monitors 1 1 3 (decide ((lowJudged v s).tempHigh < v.toInt)) (lowJudged v s)
  exact ⟨(congrArg Tmp.temp0 hmon :).trans (lowJudged_tmp v s).1, (congrArg Tmp.tempRuns hmon :)⟩

theorem sensorSample_temp0 (v : BitVec 8) (s : State) : (sensorSample 0 v s).tmp.temp0 = v :=
  (congrArg Tmp.temp0 (tempWarn_monitors 6 v.toInt (highJudged v s)) :).trans (highJudged_tmp v s).1

/-- The warning level has its own count. -/
theorem sensorSample_tempRuns {key : Nat} (h : key ≠ 6) (v : BitVec 8) (s : State) :
    (sensorSample 0 v s).tmp.tempRuns.get 0 key = (highJudged v s).tmp.tempRuns.get 0 key := by
  have hmon := tempWarn_monitors 6 v.toInt (highJudged v s)
  exact (congrArg (fun x : Tmp => x.tempRuns.get 0 key) hmon).trans (smap_get_set_other _ _ _ _ _ h)

/-- The third sample in a row above the high limit qualifies source 1, whose class is ERASE (R347, R349, R355). -/
theorem sensorSample_hot {v : BitVec 8} (hhot : s.tempHigh < v.toInt) (hrun : 2 ≤ s.tmp.tempRuns.get 0 1) (h : Armed 1 s) :
    (sensorSample 0 v s).tmp.latch.getLsbD 1 = true
      ∧ (s.tmp.disarmed.getLsbD 1 = false → (sensorSample 0 v s).kst.line = true) := by
  have hlow := lowJudged_spares v s
  have hbad : decide ((lowJudged v s).tempHigh < v.toInt) = true := by rw [hlow.tempHigh]; exact decide_eq_true hhot
  have hcount : 3 ≤ (lowJudged v s).tmp.tempRuns.get 0 1 + 1 := by
    rw [(lowJudged_tmp v s).2, smap_get_set_other _ _ _ _ _ (by decide)]
    omega
  have hhigh : highJudged v s = qualify 1 (tempCounted 1 true (lowJudged v s)) := by
    rw [highJudged, hbad, tempRun_eq, sampled, if_pos rfl, if_pos hcount]
  have hspares := hlow.trans (tempCounted_spares 1 1 true _)
  have hwarn := tempWarn_spares (n := 1) (by decide) 6 v.toInt (highJudged v s)
  rw [sensorSample_zero]
  refine ⟨hwarn.latch ?_, fun hdisarmed => hwarn.line ?_⟩ <;> rw [hhigh]
  · exact (qualify_latches (by decide) (hspares.armed h)).1
  · exact qualify_raises_line (by decide) (hspares.armed h) rfl (hspares.disarmed.trans hdisarmed)

/-- A sample between the low limit and the warning level starts both counts again and latches nothing. -/
theorem sensorSample_good {v : BitVec 8} (hlow : s.tempLow ≤ v.toInt) (hhigh : v.toInt < s.tempHigh - 15) :
    (sensorSample 0 v s).tmp.latch = s.tmp.latch ∧ (sensorSample 0 v s).tmp.tempRuns.get 0 0 = 0
      ∧ (sensorSample 0 v s).tmp.tempRuns.get 0 1 = 0 ∧ (sensorSample 0 v s).kst = s.kst := by
  have hcool : (lowJudged v s).tempHigh = s.tempHigh := (lowJudged_spares v s).tempHigh
  have hlowEnds : lowJudged v s = conditionClear 0 (tempCounted 0 false { s with tmp := { s.tmp with temp0 := v } }) := by
    rw [lowJudged, decide_eq_false (by omega), tempRun_good]
  have hhighEnds : highJudged v s = conditionClear 1 (tempCounted 1 false (lowJudged v s)) := by
    rw [highJudged, decide_eq_false (by omega), tempRun_good]
  have hhot : (highJudged v s).tempHigh = s.tempHigh := by
    rw [← hcool, highJudged]
    exact (tempRun_spares (n := 0) (by decide) ..).tempHigh
  obtain ⟨hlatch, hkst⟩ := tempWarn_good (key := 6) (s := highJudged v s) (v := v.toInt) (by rw [hhot]; exact hhigh)
  refine ⟨?latch, ?low, ?high, ?keys⟩
  case latch =>
    rw [sensorSample_zero, hlatch, hhighEnds, conditionClear_latch, tempCounted, hlowEnds, conditionClear_latch]
    rfl
  case low =>
    rw [sensorSample_tempRuns (by decide), (highJudged_tmp v s).2, smap_get_set_other _ _ _ _ _ (by decide), (lowJudged_tmp v s).2,
      smap_get_set_self, decide_eq_false (by omega)]
    rfl
  case high =>
    rw [sensorSample_tempRuns (by decide), (highJudged_tmp v s).2, smap_get_set_self, decide_eq_false (by omega)]
    rfl
  case keys =>
    rw [sensorSample_zero, hkst, hhighEnds, conditionClear_kst, tempCounted, hlowEnds, conditionClear_kst]
    rfl

/-! ## Clocks (R23) -/

theorem monitorOne_spares {n : Nat} {m : Nat × Nat × Nat × Nat} (h : n ≠ m.1) (s : State) : Spares n s (monitorOne s m) := by
  simp only [monitorOne]
  split
  · split
    · exact (raise_spares ..).trans (qualify_spares h _)
    · exact .refl n s
  · exact conditionClear_spares h s

theorem monitored_nodup (c : ClockCounts) : ((monitored c).map Prod.fst).Nodup := by
  show [21, 22, 17, 18, 19, 20, 23].Nodup
  decide

theorem monitored_lt {c : ClockCounts} {m : Nat × Nat × Nat × Nat} (h : m ∈ monitored c) : m.1 < 44 := by
  simp only [monitored, List.mem_cons, List.not_mem_nil, or_false] at h
  obtain rfl | rfl | rfl | rfl | rfl | rfl | rfl := h <;> norm_num

/-- A window of the frequency monitors, seen from one clock. -/
theorem freqMonitorWindow_turn {c : ClockCounts} {m : Nat × Nat × Nat × Nat} (hm : m ∈ monitored c) (s : State) :
    ∃ a, Spares m.1 s a ∧ Spares m.1 (monitorOne a m) ((monitored c).foldl monitorOne s) :=
  exists_turn (Spares.refl m.1) Spares.trans (monitored_nodup c).of_map hm
    (fun _ hj hne s => monitorOne_spares (fun h => hne (List.inj_on_of_nodup_map (monitored_nodup c) hj hm h.symm)) s) s

/-- A clock that deviates qualifies its source at once, with its event (R23, R347). -/
theorem monitorOne_deviates {m : Nat × Nat × Nat × Nat} (hn : m.1 < 44) (hdev : deviates m.2.2.1 m.2.2.2 = true) (h : Armed m.1 s) :
    (monitorOne s m).tmp.latch.getLsbD m.1 = true ∧ (monitorOne s m).tmp.active.getLsbD m.1 = true
      ∧ (Routed m.2.1 s → Pends m.2.1 (monitorOne s m)) := by
  have hone : monitorOne s m = qualify m.1 (raise m.2.1 s) := by
    obtain ⟨hhandover, -, hactive⟩ := h
    simp [monitorOne, hdev, hhandover, hactive]
  have hqualify := qualify_latches hn ((raise_spares m.1 m.2.1 s).armed h)
  rw [hone]
  exact ⟨hqualify.1, hqualify.2, fun hrouted => qualify_keepsPending m.1 _ _ (raise_pends hrouted)⟩

/-- A clock in its range ends the condition. -/
theorem monitorOne_good {m : Nat × Nat × Nat × Nat} (hn : m.1 < 44) (hdev : deviates m.2.2.1 m.2.2.2 = false) (s : State) :
    (monitorOne s m).tmp.active.getLsbD m.1 = false := by
  have hone : monitorOne s m = conditionClear m.1 s := by simp [monitorOne, hdev]
  rw [hone, conditionClear_active hn]
  simp

/-! ## The balls (R408, R420, R479) -/

/-- The levels of the balls, one by one, are the state's own flags (R408, R420, R479). -/
theorem balls_follow (s : State) :
    (s.balls.serviceN = false ↔ s.acts = true ∧ s.ready = true)
      ∧ (s.balls.alarmN = false ↔ s.tmp.hold = true ∨ s.bat.latch = true)
      ∧ (s.balls.health = true → s.ready = true ∧ s.bat.latch = false)
      ∧ (s.balls.actClaimN = !s.par.claim) ∧ (s.balls.pairRstN = !s.par.rstLow) ∧ (s.balls.role = true ↔ s.acts = true)
      ∧ (s.balls.batAlarmN = !s.bat.alarm) := by
  refine ⟨?service, ?alarm, ?health, rfl, rfl, Iff.rfl, rfl⟩
  case service => simp only [State.balls, Bool.not_eq_false', Bool.and_eq_true]
  case alarm => simp only [State.balls, Bool.not_eq_false', Bool.or_eq_true]
  case health =>
    simp only [State.balls, Bool.and_eq_true, Bool.not_eq_true']
    exact fun h => h.1

end Sys2Proof.Machine
end

section
/-! The statements of the architecture: the queue, the units, reserved initiators, the envelope, the governor, the monitors. -/

namespace Sys2Proof.Proofs

open Sys2Proof.Machine Sys2Proof.Safety

/-! ## The queue and the units -/

/-- Settles O2: the step's match on the queue takes its empty branch. -/
theorem emptyQueueIdles : Obligations.EmptyQueueIdles := by
  unfold Obligations.EmptyQueueIdles
  intro s hs
  simp only [step, hs]

/-- Settles O5: each command's guard on its unit's number is met, and it answers `.noSuchUnit`. -/
theorem missingUnitFaults : Obligations.MissingUnitFaults := by
  unfold Obligations.MissingUnitFaults
  exact fun s => ⟨fun e h => if_pos h, fun c h => if_pos h, fun n h => if_pos h, fun r h => if_pos h, fun i h => if_pos h,
    fun r h => if_pos h⟩

/-! ## Reserved initiator numbers -/

/-- Settles O11: each of the three accesses comes to one refusal with cause 4, whose effect `refuseAccess_reserved` says. -/
theorem reservedInitiatorRefused : Obligations.ReservedInitiatorRefused := by
  unfold Obligations.ReservedInitiatorRefused
  intro s n p k a data len posted ecc off v hn c hc
  simp only [List.mem_cons, List.not_mem_nil, or_false] at hc
  obtain rfl | rfl | rfl := hc
  · exact ⟨_, congrArg Host.Outcome.next (busAccess_reserved hn p k a.toNat data len posted ecc s), refuseAccess_reserved ..⟩
  · exact ⟨_, congrArg Host.Outcome.next (asInitiator_reserved hn off.toNat _ s), refuseAccess_reserved ..⟩
  · exact ⟨_, congrArg Host.Outcome.next (barrierRead_reserved hn s), refuseAccess_reserved ..⟩

/-! ## The envelope and the governor -/

/-- Settles O12: bit 28 of GLB_STATUS is the term that the effective envelope adds to the request; a transition ends in grants and in
cores that come and go, which leave the power block and the key store. -/
theorem effectiveEnvelope : Obligations.EffectiveEnvelope := by
  unfold Obligations.EffectiveEnvelope
  refine ⟨fun s hpartial => ?_, fun s hfull => ?_, fun s => ⟨_, rfl, envelopeTransition_keeps s⟩⟩
  · rw [State.bounded, ← glbStatus_calibrationPartial, hpartial, Bool.or_true]
  · rw [State.bounded, ← glbStatus_calibrationPartial, hfull, Bool.or_false]

/-- Settles O13: the register writes and the end of a calibration by their equations, the governor by `governorSample_measures`,
`governorSample_rises` and `governorSample_stays`. -/
theorem governorAndCalibration : Obligations.GovernorAndCalibration := by
  unfold Obligations.GovernorAndCalibration
  refine ⟨⟨fun s v => ⟨envelopeWrite v s, rfl, sealFlashes_eq .., envelopeWrite_sealed v⟩, fun s who v hwho => ?other,
      fun s v hv hcal => congrArg Host.Outcome.next (calibrationStart_accepted hv hcal),
      fun s v hv hcal => ⟨_, congrArg Host.Outcome.next (calibrationStart_refused hv hcal), rfl, fun hstate => if_neg hstate, rfl⟩,
      fun s code hstate => ⟨_, rfl, ?done⟩⟩,
    fun s mw => ⟨_, rfl, ?governor⟩⟩
  case other =>
    have hsec : ¬isSec who = true := by simp [isSec_of_ne hwho]
    exact ⟨congrArg Host.Outcome.next (if_neg hsec), congrArg Host.Outcome.next (if_neg hsec)⟩
  case done =>
    obtain ⟨hpwr, himem⟩ := calibrationDone_pwr_imem code hstate
    rw [hpwr]
    exact ⟨rfl, fun h => ⟨if_pos h, if_pos h⟩, fun h => ⟨if_neg h, if_neg h⟩, himem⟩
  case governor =>
    obtain ⟨hpower, hthrottling⟩ := governorSample_measures mw s
    refine ⟨hpower, fun h => ?_, fun h => ?_, fun hlow hhigh => ?_, governorSample_rises,
      fun h hedge => governorSample_stays h (.inl hedge), fun h hrun => governorSample_stays h (.inr hrun),
      (governorSample_onlyPower mw s).eq_parts⟩
    · rw [hthrottling, State.throttlesAt, if_pos h]
    · rw [hthrottling, State.throttlesAt, if_neg (by omega), if_pos h]
    · rw [hthrottling, State.throttlesAt, if_neg (by omega), if_neg (by omega)]

/-! ## The monitors and the balls -/

/-- Settles O41: each monitor is seen from the turn of one source; what comes before leaves it armed with its count, what comes after
leaves its latch. -/
theorem monitorsAndBalls : Obligations.MonitorsAndBalls := by
  unfold Obligations.MonitorsAndBalls
  refine ⟨⟨fun s m => ⟨_, rfl, fun i hi hwatched => ?mesh⟩,
      fun s l => ⟨_, rfl, encSample_encLevel l s, fun i hi hmode => ?enclosure⟩,
      fun s v hhot hrun hhandover hdisabled hactive _ => ?hot, fun s v hlow hhigh => ?good,
      fun s c => ⟨_, rfl, fun m hm => ?clock⟩⟩, balls_follow⟩
  case mesh =>
    obtain ⟨a, ⟨hbefore, hcount⟩, hafter, hrun⟩ := meshCompare_turn m hi s
    have hwatched' : a.watched (meshNet i) = true := (hbefore.watched _).trans hwatched
    refine ⟨hrun.trans ?_, fun hbad hmany hhandover hdisabled hactive => hafter.latch ?_⟩
    · rw [meshOne_run hwatched', if_pos rfl, hcount]
      rfl
    · rw [meshOne_of_watched hwatched', hbad]
      have harmed : Armed (meshNet i) a := hbefore.armed ⟨hhandover, hdisabled, hactive⟩
      exact sampled_latches (meshNet_lt i hi) ((meshCounted_spares ..).armed harmed) (by rw [hcount, meshRun]; omega)
  case enclosure =>
    obtain ⟨a, ⟨hbefore, hcount⟩, hafter, hrun⟩ := encSample_turn l hi s
    have hbad : a.encBad l i = l.getLsbD i := by simp [State.encBad, hbefore.encCfg, hmode]
    refine ⟨hrun.trans ?_, fun hlevel hmany hhandover hdisabled hactive => hafter.latch ?_⟩
    · rw [encOne_run, if_pos rfl, hcount, hbad]
      rfl
    · rw [encOne_eq, hbad, hlevel]
      have harmed : Armed (34 + i) a := hbefore.armed ⟨hhandover, hdisabled, hactive⟩
      exact sampled_latches (by omega) ((encCounted_spares ..).armed harmed) (by rw [hcount, State.encNeed, hbefore.encCfg]; exact hmany)
  case hot =>
    exact ⟨_, rfl, sensorSample_temp0 v s, sensorSample_hot hhot hrun ⟨hhandover, hdisabled, hactive⟩⟩
  case good =>
    exact ⟨_, rfl, sensorSample_temp0 v s, sensorSample_good hlow hhigh⟩
  case clock =>
    obtain ⟨a, hbefore, hafter⟩ := freqMonitorWindow_turn hm s
    refine ⟨fun hdev hhandover hdisabled hactive => ?_, fun hgood => hafter.active.trans (monitorOne_good (monitored_lt hm) hgood a)⟩
    have harmed : Armed m.1 a := hbefore.armed ⟨hhandover, hdisabled, hactive⟩
    obtain ⟨hlatch, hcondition, hpends⟩ := monitorOne_deviates (monitored_lt hm) hdev harmed
    exact ⟨hafter.latch hlatch, hafter.active.trans hcondition,
      fun hrouted => hafter.pending _ (hpends (by rw [Routed, hbefore.routes]; exact hrouted))⟩

end Sys2Proof.Proofs
end

section
/-! The functions that leave the internal memory (R65) as it stands, in the order of the model: every one but the writers, which are
the bus, the DMA, the host reads and the starts of cores. The proof that every step keeps the memory's canonical form uses them and
does not unfold the state. -/

namespace Sys2Proof.Machine

@[simp] theorem ite_imem (c : Prop) [Decidable c] (s t : State) : (if c then s else t).imem = if c then s.imem else t.imem :=
  apply_ite State.imem c s t

@[simp] theorem foldl_imem {α : Type} {f : State → α → State} (h : ∀ s x, (f s x).imem = s.imem) (l : List α) (s : State) :
    (l.foldl f s).imem = s.imem := by
  induction l generalizing s with
  | nil => rfl
  | cons x l ih => exact (ih _).trans (h s x)

/-! ## Internal memory and free values -/
@[simp] theorem draw_imem (n s) : (draw n s).2.imem = s.imem := rfl

/-! ## Events (R470 to R473) -/
@[simp] theorem fromHost_imem (who f s) (hf : ∀ s, (f s).imem = s.imem) : (fromHost who f s).imem = s.imem := by
  simp [fromHost, hf]

@[simp] theorem aerReport_imem (port why s) : (aerReport port why s).imem = s.imem := by
  simp [aerReport]

/-! ## Posting completions (R93 to R100, R105, R106, R408, R415) -/
@[simp] theorem releaseAll_imem (s) : (releaseAll s).imem = s.imem := by
  simp [releaseAll]

@[simp] theorem memoryFault_imem (line s) : (memoryFault line s).imem = s.imem := by
  simp [memoryFault]

/-! ## Instances -/
@[simp] theorem instantiateDrbg_imem (device katFailed s i) : (instantiateDrbg device katFailed s i).imem = s.imem := by
  simp [instantiateDrbg]

@[simp] theorem draw9_imem (n s) : (draw9 n s).2.imem = s.imem := by
  simp [draw9]

@[simp] theorem twinMismatch_imem (a b p op s) : (twinMismatch a b p op s).imem = s.imem := by
  simp [twinMismatch]

@[simp] theorem pitGuard_imem (who window f s) (hf : ∀ s, (f s).imem = s.imem) : (pitGuard who window f s).imem = s.imem := by
  simp [pitGuard, hf]

@[simp] theorem pitWrite_imem (who window f s) (hf : ∀ p s, (f p s).imem = s.imem) : (pitWrite who window f s).imem = s.imem :=
  pitGuard_imem who window _ s fun s => by simp [hf]

@[simp] theorem suspendPitch_imem (who p s) : (suspendPitch who p s).imem = s.imem := by
  simp [suspendPitch]

@[simp] theorem resumePitch_imem (who p s) : (resumePitch who p s).imem = s.imem := by
  simp [resumePitch]

@[simp] theorem pitCtrlWrite_imem (who v s) : (pitCtrlWrite who v s).imem = s.imem := by
  simp [pitCtrlWrite]

@[simp] theorem quotaWrite_imem (who v s) : (quotaWrite who v s).imem = s.imem := by
  simp [quotaWrite]

@[simp] theorem reserveWrite_imem (who v s) : (reserveWrite who v s).imem = s.imem := by
  simp [reserveWrite]

@[simp] theorem weightWrite_imem (who v s) : (weightWrite who v s).imem = s.imem := by
  simp [weightWrite]

@[simp] theorem dropCaches_imem (p s) : (dropCaches p s).imem = s.imem := rfl

@[simp] theorem bumpGen_imem (p s) : (bumpGen p s).imem = s.imem := by
  simp [bumpGen]

theorem setShares_imem {p kbc dkc s t} (h : setShares p kbc dkc s = .ok t) : t.imem = s.imem := by
  simp only [setShares] at h
  repeat' split at h
  all_goals cases h
  · rfl
  · simp

@[simp] theorem cacheShareWrite_imem (who v s) : (cacheShareWrite who v s).imem = s.imem := by
  refine pitWrite_imem who false _ s fun p s => ?_
  split
  · simp
  · split
    · simp
    · simp [setShares_imem ‹_›]

/-! ## Windows (R48 to R51) -/
@[simp] theorem stageWindow_imem (who f s) : (stageWindow who f s).imem = s.imem :=
  pitWrite_imem who true _ s fun p s => updPitch_imem s p _

@[simp] theorem winCommit_imem (who v s) : (winCommit who v s).imem = s.imem := by
  simp [winCommit]

/-! ## Slot blocks (R45 to R47) -/
@[simp] theorem blkOwnerWrite_imem (who v s) : (blkOwnerWrite who v s).imem = s.imem := by
  simp [blkOwnerWrite]

/-! ## Deletion (R54) -/
@[simp] theorem emptySlots_imem (p s) : (emptySlots p s).imem = s.imem := by
  simp [emptySlots]

@[simp] theorem releaseRings_imem (p s) : (releaseRings p s).imem = s.imem :=
  foldl_imem (fun s i => updSq_imem s p i _) _ s

@[simp] theorem removePitch_imem (p s) : (removePitch p s).imem = s.imem := by
  simp [removePitch]

@[simp] theorem pitchDeleteDrained_imem (p s) : (pitchDeleteDrained p s).imem = s.imem := by
  simp [pitchDeleteDrained]

@[simp] theorem pitchFreed_imem (p s) : (pitchFreed p s).imem = s.imem := by
  simp [pitchFreed]

@[simp] theorem bumpCopy_imem (s) : (bumpCopy s).imem = s.imem := rfl

/-! ## Conditions of a commit (reasons 3 and 4 of R7) -/
@[simp] theorem rwiCommit_imem (r v s) : (rwiCommit r v s).imem = s.imem := by
  simp only [rwiCommit]
  split <;> simp

/-! ## The two writes -/
@[simp] theorem rwiGuard_imem (who r f s) (hf : ∀ s, (f s).imem = s.imem) : (rwiGuard who r f s).imem = s.imem := by
  simp only [rwiGuard]
  split <;> simp [hf]

@[simp] theorem discardAll_imem (l reason s) : (discardAll l reason s).imem = s.imem := by
  simp [discardAll]

@[simp] theorem expireRwi_imem (s) : (expireRwi s).imem = s.imem := by
  simp [expireRwi]

@[simp] theorem rwiFirst_imem (who off v s) : (rwiFirst who off v s).imem = s.imem := by
  simp only [rwiFirst]
  split <;> simp

@[simp] theorem rwiSecond_imem (who off v s) : (rwiSecond who off v s).imem = s.imem := by
  simp only [rwiSecond]
  split
  · rfl
  · refine rwiGuard_imem who _ _ s fun s => ?_
    repeat' split
    all_goals simp

@[simp] theorem rwiSelector_imem (who off s) : (rwiSelector who off s).imem = s.imem := by
  simp [rwiSelector]

@[simp] theorem rwiWindowEnd_imem (who off s) : (rwiWindowEnd who off s).imem = s.imem := by
  simp [rwiWindowEnd]

@[simp] theorem mpuFault_imem (n p k a cause s) : (mpuFault n p k a cause s).imem = s.imem := by
  simp [mpuFault]

@[simp] theorem barrierReturn_imem (n timeout s) : (barrierReturn n timeout s).imem = s.imem := rfl

@[simp] theorem unstall_imem (n s) : (unstall n s).imem = s.imem := rfl

@[simp] theorem refuseAccess_imem (n p k a cause s) : (refuseAccess n p k a cause s).imem = s.imem := by
  simp [refuseAccess]

@[simp] theorem barrierRead_imem (n s) : (barrierRead n s).imem = s.imem := by
  simp [barrierRead]

@[simp] theorem barrierDrained_imem (n s) : (barrierDrained n s).imem = s.imem := by
  simp [barrierDrained]

@[simp] theorem barrierTimeout_imem (n s) : (barrierTimeout n s).imem = s.imem := by
  simp [barrierTimeout]

@[simp] theorem dmaErr_imem (who code s) : (dmaErr who code s).imem = s.imem := rfl

@[simp] theorem chanGuard_imem (who c f s) (hf : ∀ s, (f s).imem = s.imem) : (chanGuard who c f s).imem = s.imem := by
  simp [chanGuard, hf]

@[simp] theorem endDescriptor_imem (c code s) : (endDescriptor c code s).imem = s.imem := rfl

@[simp] theorem chanRefused_imem (c n p k a cause s) : (chanRefused c n p k a cause s).imem = s.imem := by
  simp [chanRefused]

@[simp] theorem fetchDescriptor_imem (c s) : (fetchDescriptor c s).imem = s.imem := by
  simp only [fetchDescriptor]
  split <;> simp

@[simp] theorem dmaStart_imem (who c p s) : (dmaStart who c p s).imem = s.imem := by
  simp [dmaStart]

@[simp] theorem chanAbort_imem (c s) : (chanAbort c s).imem = s.imem := by
  simp [chanAbort]

@[simp] theorem dmaHalt_imem (who c s) : (dmaHalt who c s).imem = s.imem := by
  simp [dmaHalt]

@[simp] theorem failBurst_imem (c s) : (failBurst c s).imem = s.imem := by
  simp [failBurst]

@[simp] theorem readBurst_imem (ecc c d s) : (readBurst ecc c d s).imem = s.imem := by
  simp only [readBurst]
  repeat' split
  all_goals simp

@[simp] theorem chanConfig_imem (who c f s) : (chanConfig who c f s).imem = s.imem := by
  simp [chanConfig]

@[simp] theorem mbxDeny_imem (who m s) : (mbxDeny who m s).imem = s.imem := by
  simp [mbxDeny]

@[simp] theorem lockRead_imem (who m s) : (lockRead who m s).imem = s.imem := by
  simp only [lockRead]
  split <;> simp

@[simp] theorem lockRelease_imem (who m v s) : (lockRelease who m v s).imem = s.imem := by
  simp [lockRelease]

@[simp] theorem msgWrite_imem (who m i v s) : (msgWrite who m i v s).imem = s.imem := by
  simp [msgWrite]

@[simp] theorem raiseBits_imem (m v) : ∀ (n s), (raiseBits m v n s).imem = s.imem
  | 0, _ => rfl
  | n + 1, s => by simp [raiseBits, raiseBits_imem m v n s]

@[simp] theorem dbSet_imem (who m v s) : (dbSet who m v s).imem = s.imem := by
  simp [dbSet]

@[simp] theorem dbClear_imem (who m v s) : (dbClear who m v s).imem = s.imem := by
  simp [dbClear]

@[simp] theorem ackWrite_imem (who m v s) : (ackWrite who m v s).imem = s.imem := by
  simp [ackWrite]

@[simp] theorem hwRelease_imem (m s) : (hwRelease m s).imem = s.imem := by
  simp only [hwRelease]
  split
  · rfl
  · exact foldl_imem (fun s n => mbxError_imem s (.ini n) m 5) _ s

@[simp] theorem releaseLocksOf_imem (n s) : (releaseLocksOf n s).imem = s.imem :=
  foldl_imem (fun s m => by split <;> simp) _ s

/-! ## A pending handover (R395) -/
@[simp] theorem handoverEnd_imem (s) : (handoverEnd s).imem = s.imem := by
  simp [handoverEnd]

@[simp] theorem handoverCheck_imem (s) : (handoverCheck s).imem = s.imem := by
  simp [handoverCheck]

@[simp] theorem mbxForce_imem (who m v s) : (mbxForce who m v s).imem = s.imem := by
  simp [mbxForce]

@[simp] theorem mbxCfgWrite_imem (who m v s) : (mbxCfgWrite who m v s).imem = s.imem := by
  simp [mbxCfgWrite]

@[simp] theorem mbxMaskWrite_imem (who m v s) : (mbxMaskWrite who m v s).imem = s.imem := by
  simp [mbxMaskWrite]

/-! ## Queues (R323 to R325) -/
theorem nextFrom_imem {q e : Nat} {t : State} : ∀ {n s}, nextFrom q n s = some (e, t) → t.imem = s.imem
  | 0, _, h => by cases h
  | n + 1, s, h => by
    simp only [nextFrom] at h
    split at h
    · cases h
    · split at h
      · cases h
      · generalize (if (s.queue q).inTurn then 0 else _) = d at h
        split at h
        · cases h
          simp
        · exact (nextFrom_imem h).trans (updQueue_imem ..)

/-! ## The replay filter (R424) -/
@[simp] theorem replayLookup_imem (e s) : (replayLookup e s).imem = s.imem := by
  simp only [replayLookup]
  repeat' split
  all_goals simp

/-! ## Bindings (R75, R76) -/
@[simp] theorem rqeOwner_imem (who f s) (hf : ∀ s, (f s).imem = s.imem) : (rqeOwner who f s).imem = s.imem := by
  simp [rqeOwner, hf]

@[simp] theorem bindWrite_imem (who v s) : (bindWrite who v s).imem = s.imem := by
  simp [bindWrite]

/-! ## Ring events (R101) -/
@[simp] theorem dropCount_imem (port fn n s) : (dropCount port fn n s).imem = s.imem := by
  simp [dropCount]

@[simp] theorem returnReservations_imem (p i s) : (returnReservations p i s).imem = s.imem := by
  simp only [returnReservations, updSq_imem, updCq_imem, updPitch_imem]

@[simp] theorem flushList_imem (p) : ∀ (l s), (flushList p l s).imem = s.imem
  | [], _ => rfl
  | c :: l, s => by
    simp only [flushList]
    split
    · exact (flushList_imem p l _).trans (by simp)
    · rfl

@[simp] theorem flushLatched_imem (p s) : (flushLatched p s).imem = s.imem := by
  simp [flushLatched]

@[simp] theorem ringEvent_imem (p i status code seq s) : (ringEvent p i status code seq s).imem = s.imem := by
  simp only [ringEvent, flushLatched_imem, dropCount_imem, raise_imem, returnReservations_imem, updSq_imem, updCq_imem]

/-! ## Sweeps (R83 to R85) -/
@[simp] theorem lostRecord_imem (k s) : (lostRecord k s).imem = s.imem := by
  simp [lostRecord]

@[simp] theorem sweepStart_imem (port s) : (sweepStart port s).imem = s.imem := by
  simp only [sweepStart]
  split
  · rfl
  · refine (foldl_imem (fun s a => emit_imem s _) _ _).trans ?_
    simp

@[simp] theorem rqeWake_imem (who s) : (rqeWake who s).imem = s.imem := by
  simp only [rqeWake]
  split <;> simp

/-! ## Record reads (R81, R90, R97, R98, R411) -/
@[simp] theorem takeCqHead_imem (p i h s) : (takeCqHead p i h s).imem = s.imem := by
  simp [takeCqHead]

@[simp] theorem reserveFetches_imem (p i) : ∀ (n s), (reserveFetches p i n s).1.imem = s.imem
  | 0, _ => rfl
  | n + 1, s => by
    simp only [reserveFetches]
    repeat' split
    · rfl
    · exact (reserveFetches_imem p i n _).trans (by simp)
    · simp
    · rfl

@[simp] theorem fetchTurn_imem (p i s) : (fetchTurn p i s).imem = s.imem := by
  simp [fetchTurn]

@[simp] theorem nextTurn_imem (p i s) : (nextTurn p i s).imem = s.imem := by
  simp [nextTurn]

@[simp] theorem nextTurns_imem (port s) : (nextTurns port s).imem = s.imem := by
  simp [nextTurns]

@[simp] theorem takeRecord_imem (p i r s) : (takeRecord p i r s).imem = s.imem := by
  simp [takeRecord]

@[simp] theorem failTwice_imem (p i s) : (failTwice p i s).imem = s.imem := by
  simp only [failTwice, ringEvent_imem, updSq_imem]

@[simp] theorem readFailed_imem (p i s) : (readFailed p i s).imem = s.imem := by
  simp [readFailed]

@[simp] theorem sweptRecord_imem (p i r s) : (sweptRecord p i r s).imem = s.imem := by
  simp only [sweptRecord]
  repeat' split
  all_goals simp

/-! ## Entry checks and admission (R86 to R91, R424) -/
@[simp] theorem refuseSqe_imem (p i sqe st s) : (refuseSqe p i sqe st s).imem = s.imem := by
  simp [refuseSqe]

@[simp] theorem admitSqe_imem (p i sqe s) : (admitSqe p i sqe s).imem = s.imem := by
  simp [admitSqe]

@[simp] theorem fenceStops_imem (p i s) : (fenceStops p i s).imem = s.imem := by
  simp [fenceStops]

@[simp] theorem sqeTaken_imem (p i sqe s) : (sqeTaken p i sqe s).imem = s.imem := by
  simp only [sqeTaken]
  repeat' split
  all_goals simp

@[simp] theorem sqeReadFailed_imem (p i why s) : (sqeReadFailed p i why s).imem = s.imem := by
  simp [sqeReadFailed]

@[simp] theorem sqeArrived_imem (p i sqe s) : (sqeArrived p i sqe s).imem = s.imem := by
  simp [sqeArrived]

/-! ## Ring control (R79, R102, R103, R105) -/
@[simp] theorem ringCtrl_imem (who v f s) (hf : ∀ port fn p s, (f port fn p s).imem = s.imem) : (ringCtrl who v f s).imem = s.imem := by
  simp only [ringCtrl]
  split
  · rfl
  · simp [hf]

@[simp] theorem createCq_imem (who port fn p s) : (createCq who port fn p s).imem = s.imem := by
  simp [createCq]

@[simp] theorem openRecord_imem (p i o r s) : (openRecord p i o r s).imem = s.imem := by
  simp only [openRecord]
  split <;> simp

@[simp] theorem openWith_imem (p i o r s) : (openWith p i o r s).imem = s.imem := by
  simp only [openWith]
  repeat' split
  all_goals simp

@[simp] theorem openNow_imem (p i o r s) : (openNow p i o r s).imem = s.imem := by
  simp only [openNow]
  split <;> simp

@[simp] theorem createSq_imem (who port fn p r s) : (createSq who port fn p r s).imem = s.imem := by
  simp only [createSq]
  split <;> simp

@[simp] theorem ringCreate_imem (who v r s) : (ringCreate who v r s).imem = s.imem := by
  simp [ringCreate]

@[simp] theorem drainSq_imem (p i s) : (drainSq p i s).imem = s.imem := by
  simp [drainSq]

@[simp] theorem ringDelete_imem (who v s) : (ringDelete who v s).imem = s.imem := by
  simp [ringDelete]

@[simp] theorem ringReset_imem (who v r s) : (ringReset who v r s).imem = s.imem := by
  simp [ringReset]

@[simp] theorem recordReadDone_imem (p i r s) : (recordReadDone p i r s).imem = s.imem := by
  simp only [recordReadDone]
  split <;> simp

@[simp] theorem cqAdopt_imem (who v s) : (cqAdopt who v s).imem = s.imem := by
  simp [cqAdopt]

/-! ## Orphans (R106) -/
@[simp] theorem freeList_imem (p) : ∀ (l s), (freeList p l s).imem = s.imem
  | [], _ => rfl
  | h :: l, s => (freeList_imem p l _).trans (by simp)

@[simp] theorem orphanExpire_imem (p s) : (orphanExpire p s).imem = s.imem := by
  simp only [orphanExpire]
  split
  · rfl
  · rw [raise_imem, tallyRec_imem, updCq_imem, foldl_imem (fun s e => updEntry_imem s e _), freeList_imem, updCq_imem,
      foldl_imem (fun s i => returnReservations_imem p i s)]

@[simp] theorem orphanTimeoutWrite_imem (who v s) : (orphanTimeoutWrite who v s).imem = s.imem := by
  simp [orphanTimeoutWrite]

/-! ## Interrupts (R99) -/
@[simp] theorem coalesceTimer_imem (p s) : (coalesceTimer p s).imem = s.imem := by
  simp [coalesceTimer]

@[simp] theorem sendPending_imem (port fn s) : (sendPending port fn s).imem = s.imem := by
  simp only [sendPending]
  split
  · rfl
  · exact foldl_imem (fun s v => emit_imem s _) _ _

@[simp] theorem msixUnmask_imem (port fn vec s) : (msixUnmask port fn vec s).imem = s.imem := by
  simp [msixUnmask]

@[simp] theorem dropFromQueues_imem (e s) : (dropFromQueues e s).imem = s.imem := by
  simp only [dropFromQueues]
  split <;> simp

@[simp] theorem abortSq_imem (p i s) : (abortSq p i s).imem = s.imem := by
  simp [abortSq]

@[simp] theorem stopSq_imem (k s) : (stopSq k s).imem = s.imem := by
  simp [stopSq]

@[simp] theorem orphanCq_imem (p s) : (orphanCq p s).imem = s.imem := by
  simp [orphanCq]

@[simp] theorem stopRings_imem (port fns s) : (stopRings port fns s).imem = s.imem := by
  simp [stopRings]

@[simp] theorem mapFns_imem (port fns f s) : (mapFns port fns f s).imem = s.imem := rfl

@[simp] theorem functionLevelReset_imem (port fn s) : (functionLevelReset port fn s).imem = s.imem := by
  simp [functionLevelReset]

@[simp] theorem linkGone_imem (port s) : (linkGone port s).imem = s.imem := by
  simp [linkGone]

@[simp] theorem pcieUp_imem (port s) : (pcieUp port s).imem = s.imem := by
  simp [pcieUp]

@[simp] theorem releaseFn_imem (port fn s) : (releaseFn port fn s).imem = s.imem := by
  simp [releaseFn]

@[simp] theorem setBme_imem (port fn on s) : (setBme port fn on s).imem = s.imem := by
  simp [setBme]

/-! ## Configuration space (R69, R71, R74, R431) -/
@[simp] theorem configWrite_imem (port fn reg v s) : (configWrite port fn reg v s).imem = s.imem := by
  simp only [configWrite]
  split <;> simp

@[simp] theorem configRequest_imem (port fn write reg v s) : (configRequest port fn write reg v s).imem = s.imem := by
  simp [configRequest]

/-! ## Selection (R324) -/
theorem selectCmd_imem {mask e s t} (h : selectCmd mask s = some (e, t)) : t.imem = s.imem := by
  simp only [selectCmd] at h
  split at h
  · cases h
  · split at h
    · cases h
      simp
    · split at h
      · cases h
      · exact (nextFrom_imem h :)

/-! ## Dispatch (R317 to R319, R326) -/
@[simp] theorem bindCore_imem (c e s) : (bindCore c e s).imem = s.imem := by
  simp only [bindCore]
  split <;> simp

theorem tryDispatch_imem {c s t} (h : tryDispatch c s = some t) : t.imem = s.imem := by
  simp only [tryDispatch] at h
  split at h
  · cases h
  · split at h
    · cases h
    · cases h
      simp [selectCmd_imem ‹_›]

@[simp] theorem serveBlocked_imem (s) : (serveBlocked s).imem = s.imem :=
  foldl_imem (fun s c => by
    split
    · exact tryDispatch_imem ‹_›
    · rfl) _ s

@[simp] theorem commandEnqueue_imem (e s) : (commandEnqueue e s).imem = s.imem := by
  simp only [commandEnqueue]
  repeat' split
  all_goals simp

/-! ## Mis-steps (R130, R322) -/
@[simp] theorem coreFault_imem (c e cause s) : (coreFault c e cause s).imem = s.imem := by
  simp only [coreFault]
  split <;> simp

@[simp] theorem unbind_imem (c s) : (unbind c s).imem = s.imem := rfl

/-! ## The load (R317, R322, R327) -/
@[simp] theorem dispatchTimeout_imem (c s) : (dispatchTimeout c s).imem = s.imem := by
  simp [dispatchTimeout]

/-! ## Host reads of a core (R320) -/
@[simp] theorem hrdGo_imem (c v s) : (hrdGo c v s).imem = s.imem := by
  simp only [hrdGo]
  repeat' split
  all_goals simp

/-! ## Completion by a core (R130, R262, R321, R322) -/
@[simp] theorem eccEnd_imem (e s) : (eccEnd e s).imem = s.imem := by
  simp only [eccEnd]
  split <;> simp

@[simp] theorem commandComplete_imem (c v ecc s) : (commandComplete c v ecc s).imem = s.imem := by
  simp only [commandComplete]
  repeat' split
  all_goals simp

/-! ## Draining, reloading, masks (R316, R327, R330) -/
@[simp] theorem cmcGuard_imem (who f s) (hf : ∀ c s, (f c s).imem = s.imem) : (cmcGuard who f s).imem = s.imem := by
  simp [cmcGuard, hf]

@[simp] theorem persMaskWrite_imem (who v s) : (persMaskWrite who v s).imem = s.imem := by
  simp [persMaskWrite]

/-! ## Recipe sets (R135 to R138, R142) -/
@[simp] theorem leaveContexts_imem (s) : (leaveContexts s).imem = s.imem :=
  foldl_imem (fun s e => by
    split
    · split <;> simp
    · rfl) _ s

@[simp] theorem recipeSetSwitch_imem (x s) : (recipeSetSwitch x s).imem = s.imem := by
  simp [recipeSetSwitch]

/-! ## Slots (R151, R297, R299) -/
@[simp] theorem putKey_imem (n owner a tag k csn s) : (putKey n owner a tag k csn s).imem = s.imem := by
  simp [putKey]

/-! ## The cache (R113, R167 to R171) -/
@[simp] theorem kbcHit_imem (p s) : (kbcHit p s).imem = s.imem := rfl

@[simp] theorem kbcMiss_imem (p s) : (kbcMiss p s).imem = s.imem := rfl

@[simp] theorem kbcFail_imem (p s) : (kbcFail p s).imem = s.imem := rfl

@[simp] theorem clockWay_imem (p set) : ∀ (n w s), (clockWay p set n w s).2.imem = s.imem
  | 0, _, _ => rfl
  | n + 1, w, s => by
    simp only [clockWay]
    split
    · exact (clockWay_imem p set n _ _).trans (setKbc_imem ..)
    · rfl

@[simp] theorem pickWay_imem (p set s) : (pickWay p set s).2.imem = s.imem := by
  simp only [pickWay]
  repeat' split
  all_goals simp

@[simp] theorem cachePlace_imem (p b mac k s) : (cachePlace p b mac k s).2.imem = s.imem := by
  simp only [cachePlace]
  split <;> simp

/-! ## Checks 11 to 13, the data, execution -/
@[simp] theorem lanesUsed_imem (lane s) : (lanesUsed lane s).imem = s.imem := by
  simp [lanesUsed]

@[simp] theorem setCounter_imem (n v s) : (setCounter n v s).imem = s.imem := rfl

@[simp] theorem journalCounter_imem (n v due s) : (journalCounter n v due s).imem = s.imem := by
  simp [journalCounter]

/-! ## Running an opcode -/
@[simp] theorem engineFaulted_imem (x status s) : (engineFaulted x status s).imem = s.imem := by
  simp only [engineFaulted]
  split <;> simp

@[simp] theorem conclude_imem (e recipe status a needed s) : (conclude e recipe status a needed s).imem = s.imem := by
  simp only [conclude]
  repeat' split
  all_goals simp

@[simp] theorem afterMismatch_imem (x lanes s) : (afterMismatch x lanes s).imem = s.imem := by
  simp only [afterMismatch]
  split <;> simp

/-! ## Recipe steps (R138, R140, R141) -/
@[simp] theorem runSteps_imem (x l s) : (runSteps x l s).imem = s.imem := by
  simp only [runSteps]
  split <;> simp

@[simp] theorem waiting_imem (s t) : (waiting s t).imem = t.imem := rfl

/-! ## KBPKs and exports -/
@[simp] theorem countExport_imem (p a s) : (countExport p a s).imem = s.imem := by
  simp [countExport]

/-! ## KEY_CACHE_EVICT -/
@[simp] theorem evictEntry_imem (p idx s) : (evictEntry p idx s).imem = s.imem := rfl

@[simp] theorem evictPitch_imem (p s) : (evictPitch p s).imem = s.imem := rfl

/-! ## Engines by number -/
@[simp] theorem engRelease_imem (lattice k s) : (engRelease lattice k s).imem = s.imem := by
  simp [engRelease]

/-! ## Grants (R261, R281) -/
@[simp] theorem grant_imem (k r s) : (grant k r s).imem = s.imem := by
  simp only [grant]
  split <;> simp

@[simp] theorem grantAll_imem (lattice) : ∀ (n s), (grantAll lattice n s).imem = s.imem
  | 0, _ => rfl
  | n + 1, s => by
    simp only [grantAll]
    split
    · rfl
    · split
      · exact (grantAll_imem lattice n _).trans (grant_imem ..)
      · rfl

@[simp] theorem serveEngines_imem (s) : (serveEngines s).imem = s.imem := by
  simp [serveEngines]

@[simp] theorem resumeService_imem (s) : (resumeService s).imem = s.imem := by
  simp only [resumeService, serveEngines_imem, serveContexts_imem, serveBlocked_imem]

/-! ## ENGINE_REQUEST -/
@[simp] theorem coreRefused_imem (core s) : (coreRefused core s).imem = s.imem := by
  simp [coreRefused]

@[simp] theorem engineRequest_imem (core lattice handover s) : (engineRequest core lattice handover s).imem = s.imem := by
  simp only [engineRequest]
  repeat' split
  all_goals simp

/-! ## The end of an operation (R262, R275, R277) -/
@[simp] theorem handedEnd_imem (handover e d s) : (handedEnd handover e d s).imem = s.imem := by
  simp only [handedEnd]
  split <;> simp

@[simp] theorem engineEnd_imem (handover e d s) : (engineEnd handover e d s).imem = s.imem := by
  simp [engineEnd]

@[simp] theorem engineKey_imem (handover e p g d s) : (engineKey handover e p g d s).imem = s.imem := by
  simp [engineKey]

theorem engineSettle_imem {handover e s t} (h : engineSettle handover e s = some t) : t.imem = s.imem := by
  simp only [engineSettle] at h
  repeat' split at h
  all_goals
    cases h
    try simp

@[simp] theorem longEnded_imem (lattice k s) : (longEnded lattice k s).imem = s.imem := by
  simp [longEnded]

@[simp] theorem engineOpComplete_imem (lattice k s) : (engineOpComplete lattice k s).imem = s.imem := by
  simp only [engineOpComplete]
  repeat' split
  all_goals simp
  simp [engineSettle_imem ‹_›]

/-! ## SIGN_CHECK_DONE (R275, R277) -/
@[simp] theorem checkFailed_imem (lattice sign chk s) : (checkFailed lattice sign chk s).imem = s.imem := rfl

@[simp] theorem signCheckFail_imem (lattice handover sign chk e d s) : (signCheckFail lattice handover sign chk e d s).imem = s.imem := by
  simp [signCheckFail]

@[simp] theorem signCheckDone_imem (lattice k pass s) : (signCheckDone lattice k pass s).imem = s.imem := by
  simp only [signCheckDone]
  repeat' split
  all_goals simp
  simp [engineSettle_imem ‹_›]

/-! ## ENGINE_FAULT (R280) -/
@[simp] theorem abortReset_imem (x s) : (abortReset x s).imem = s.imem := by
  simp [abortReset]

@[simp] theorem engReleaseOpt_imem (lattice k s) : (engReleaseOpt lattice k s).imem = s.imem := by
  simp only [engReleaseOpt]
  split <;> simp

@[simp] theorem engineFault_imem (lattice k s) : (engineFault lattice k s).imem = s.imem := by
  simp only [engineFault]
  repeat' split
  all_goals simp

/-! ## Flushes (R461 to R464) -/
@[simp] theorem tailCheck_imem (s) : (tailCheck s).imem = s.imem := by
  simp [tailCheck]

@[simp] theorem landFlush_imem (s) : (landFlush s).imem = s.imem := by
  simp [landFlush]

@[simp] theorem admitStaged_imem (s) : (admitStaged s).imem = s.imem := by
  simp [admitStaged]

@[simp] theorem tallyFlushDone_imem (s) : (tallyFlushDone s).imem = s.imem := by
  simp [tallyFlushDone]

@[simp] theorem flushNow_imem (s) : (flushNow s).imem = s.imem := by
  simp [flushNow]

@[simp] theorem suppressedRec_imem (s x) : (suppressedRec s x).imem = s.imem := by
  simp [suppressedRec]

@[simp] theorem tallyFlushTimer_imem (s) : (tallyFlushTimer s).imem = s.imem := by
  simp [tallyFlushTimer]

@[simp] theorem flashRecovered_imem (flash s) : (flashRecovered flash s).imem = s.imem := by
  simp [flashRecovered]

@[simp] theorem flashFailed_imem (flash s) : (flashFailed flash s).imem = s.imem := by
  simp [flashFailed]

@[simp] theorem tallyPageRetry_imem (flash ok s) : (tallyPageRetry flash ok s).imem = s.imem := by
  simp [tallyPageRetry]

@[simp] theorem tailEraseDone_imem (s) : (tailEraseDone s).imem = s.imem := by
  simp [tailEraseDone]

/-! ## Reading (R467, R474) -/
@[simp] theorem tallyFetch_imem (who v s) : (tallyFetch who v s).imem = s.imem := by
  simp [tallyFetch]

@[simp] theorem tallyFetchDone_imem (who s) : (tallyFetchDone who s).imem = s.imem := by
  simp only [tallyFetchDone]
  repeat' split
  all_goals simp

/-! ## Events (R471, R475) -/
@[simp] theorem eventClaim_imem (who s) : (eventClaim who s).imem = s.imem := by
  simp only [eventClaim]
  repeat' split
  all_goals simp

@[simp] theorem hostPendingClear_imem (who n v s) : (hostPendingClear who n v s).imem = s.imem := by
  simp only [hostPendingClear]
  split <;> simp

@[simp] theorem tamperQualify_imem (n s) : (tamperQualify n s).imem = s.imem := by
  simp [tamperQualify]

@[simp] theorem conditionClear_imem (n s) : (conditionClear n s).imem = s.imem := by
  simp [conditionClear]

@[simp] theorem endForce_imem (n s) : (endForce n s).imem = s.imem := by
  simp [endForce]

@[simp] theorem holdRelease_imem (n s) : (holdRelease n s).imem = s.imem := by
  simp [holdRelease]

@[simp] theorem windowClose_imem (s) : (windowClose s).imem = s.imem := by
  simp only [windowClose]
  split <;> simp

/-! ## Meshes, inputs, sensors -/
@[simp] theorem sampled_imem (n need count bad s) : (sampled n need count bad s).imem = s.imem := by
  simp [sampled]

@[simp] theorem meshOne_imem (mismatch i s) : (meshOne mismatch i s).imem = s.imem := by
  simp [meshOne]

@[simp] theorem encOne_imem (level i s) : (encOne level i s).imem = s.imem := by
  simp [encOne]

@[simp] theorem tempRun_imem (key n need bad s) : (tempRun key n need bad s).imem = s.imem := by
  simp [tempRun]

@[simp] theorem tempWarn_imem (key t s) : (tempWarn key t s).imem = s.imem := by
  simp [tempWarn]

@[simp] theorem sensorSample_imem (sensor v s) : (sensorSample sensor v s).imem = s.imem := by
  simp [sensorSample]

/-! ## The battery domain (R364, R368 to R370) -/
@[simp] theorem vbatApply_imem (s) : (vbatApply s).imem = s.imem := by
  simp [vbatApply]

@[simp] theorem batteryAlarm_imem (n ticks celsius mv joins s) : (batteryAlarm n ticks celsius mv joins s).imem = s.imem := by
  simp only [batteryAlarm]
  split <;> simp

@[simp] theorem secondsTick_imem (main s) : (secondsTick main s).imem = s.imem := by
  simp [secondsTick]

/-! ## Units that the governor takes in and out (R27, R329, R443) -/
@[simp] theorem envelopeWrite_imem (v s) : (envelopeWrite v s).imem = s.imem := by
  simp [envelopeWrite]

/-! ## Regions (R448) -/
@[simp] theorem operandWiped_imem (r s) : (operandWiped r s).imem = s.imem := by
  simp [operandWiped]

@[simp] theorem bistRegionTake_imem (r s) : (bistRegionTake r s).imem = s.imem := by
  simp [bistRegionTake]

/-! ## The end of a region (R449, R451 to R453) -/
@[simp] theorem bistRecord_imem (r failure action s) : (bistRecord r failure action s).imem = s.imem := by
  simp [bistRecord]

@[simp] theorem regionRetire_imem (r s) : (regionRetire r s).imem = s.imem := by
  simp [regionRetire]

@[simp] theorem softRepair_imem (r s) : (softRepair r s).imem = s.imem := by
  simp [softRepair]

@[simp] theorem passEnded_imem (n s) : (passEnded n s).imem = s.imem := by
  simp [passEnded]

@[simp] theorem standbyKat_imem (failed s) : (standbyKat failed s).imem = s.imem := by
  simp only [standbyKat]
  repeat' split
  all_goals simp

/-! ## Running a mode -/
@[simp] theorem spill_imem (r text s) : (spill r text s).imem = s.imem := by
  simp [spill]

/-! ## The derivation cache (R216 to R219) -/
@[simp] theorem dkcClock_imem (p set) : ∀ (n w s), (dkcClock p set n w s).2.imem = s.imem
  | 0, _, _ => rfl
  | n + 1, w, s => by
    simp only [dkcClock]
    split
    · exact (dkcClock_imem p set n _ _).trans (setDkc_imem ..)
    · rfl

@[simp] theorem dkcPick_imem (p set s) : (dkcPick p set s).2.imem = s.imem := by
  simp only [dkcPick]
  repeat' split
  all_goals simp

/-! ## Walkers (R218, R220) -/
@[simp] theorem setWalker_imem (n w s) : (setWalker n w s).imem = s.imem := by
  simp [setWalker]

@[simp] theorem queueWalker_imem (e s) : (queueWalker e s).imem = s.imem := by
  simp [queueWalker]

@[simp] theorem walkerStore_imem (w s) : (walkerStore w s).imem = s.imem := by
  simp only [walkerStore]
  repeat' split
  all_goals simp

@[simp] theorem walkerDone_imem (n ecc s) : (walkerDone n ecc s).imem = s.imem := by
  simp only [walkerDone]
  repeat' split
  all_goals simp

@[simp] theorem sourceFail_imem (k test s) : (sourceFail k test s).imem = s.imem := by
  simp [sourceFail]

/-! ## The churn -/
@[simp] theorem seed9_imem (s) : (seed9 s).2.imem = s.imem := by
  simp [seed9]

@[simp] theorem sweepBegin_imem (s) : (sweepBegin s).imem = s.imem := by
  simp [sweepBegin]

@[simp] theorem churnStep_imem (s) : (churnStep s).imem = s.imem := rfl

@[simp] theorem correct_imem (s) : (correct s).imem = s.imem := rfl

@[simp] theorem tagFault_imem (s) : (tagFault s).imem = s.imem := by
  simp [tagFault]

@[simp] theorem churnWait_imem (n tag s) : (churnWait n tag s).imem = s.imem := rfl

@[simp] theorem remask_imem (fault s) : (remask fault s).imem = s.imem := by
  simp only [remask]
  split <;> simp

@[simp] theorem churnRemask_imem (fault s) : (churnRemask fault s).imem = s.imem := by
  simp [churnRemask]

/-! ## Restoration (R301) -/
@[simp] theorem emptySlot_imem (n s) : (emptySlot n s).imem = s.imem := by
  simp [emptySlot]

@[simp] theorem restoreFail_imem (e s) : (restoreFail e s).imem = s.imem := by
  simp only [restoreFail]
  split <;> simp

@[simp] theorem endWaits_imem (l churn s) : (endWaits l churn s).imem = s.imem := by
  simp only [endWaits]
  have hentries := foldl_imem (fun s (e : Nat × Bool) => updEntry_imem s e.1 fun x => { x with restore := none }) l s
  split <;> exact hentries

@[simp] theorem slotRestoreDone_imem (n ok s) : (slotRestoreDone n ok s).imem = s.imem := by
  simp only [slotRestoreDone]
  repeat' split
  all_goals simp

/-! ## Erasure (R308, R309) -/
@[simp] theorem abortEntry_imem (status e s) : (abortEntry status e s).imem = s.imem := by
  simp only [abortEntry]
  repeat' split
  all_goals simp

@[simp] theorem abortAll_imem (status s) : (abortAll status s).imem = s.imem := by
  simp [abortAll]

@[simp] theorem recount_imem (p old new s) : (recount p old new s).imem = s.imem := by
  simp [recount]

@[simp] theorem abortHeldCq_imem (p s) : (abortHeldCq p s).imem = s.imem := by
  simp [abortHeldCq]

@[simp] theorem abortHeld_imem (s) : (abortHeld s).imem = s.imem := by
  simp [abortHeld]

@[simp] theorem eraseRecord_imem (s) : (eraseRecord s).imem = s.imem := by
  simp [eraseRecord]

@[simp] theorem overwriteAll_imem (s) : (overwriteAll s).imem = s.imem := rfl

@[simp] theorem burnAfterErase_imem (s) : (burnAfterErase s).imem = s.imem := by
  simp [burnAfterErase]

@[simp] theorem newEpoch_imem (s) : (newEpoch s).imem = s.imem := by
  simp [newEpoch]

@[simp] theorem freshCaches_imem (s) : (freshCaches s).imem = s.imem := rfl

@[simp] theorem chanEraseEvents_imem (s) : (chanEraseEvents s).imem = s.imem := by
  simp [chanEraseEvents]

@[simp] theorem deliverHeld_imem (s) : (deliverHeld s).imem = s.imem := by
  simp [deliverHeld]

/-! ## Cache flushes (R172, R233) -/
@[simp] theorem evictDkc_imem (p s) : (evictDkc p s).imem = s.imem := rfl

@[simp] theorem cacheFlush_imem (who dkc v s) : (cacheFlush who dkc v s).imem = s.imem := by
  simp [cacheFlush]

@[simp] theorem cacheSweepDone_imem (dkc s) : (cacheSweepDone dkc s).imem = s.imem := rfl

/-! ## Steps 2 and 3 -/
@[simp] theorem batCopyRec_imem (cycles s r) : (batCopyRec cycles s r).imem = s.imem := rfl

@[simp] theorem batteryCheck_imem (warm s) : (batteryCheck warm s).imem = s.imem := by
  simp only [batteryCheck]
  have htally := foldl_imem (batCopyRec_imem (s.tly.cycles + if warm then 0 else 1)) s.bat.tally s
  generalize s.bat.tally.foldl _ s = t at htally
  split <;> split
  all_goals simp [htally]

@[simp] theorem fuseSense_imem (s) : (fuseSense s).imem = s.imem := by
  simp [fuseSense]

@[simp] theorem scrapBegin_imem (s) : (scrapBegin s).imem = s.imem := rfl

theorem senseStep_imem {warm s t} (h : senseStep warm s = some t) : t.imem = s.imem := by
  simp only [senseStep] at h
  split at h
  · cases h
  · repeat' split at h
    all_goals
      cases h
      simp [*]

/-! ## Steps 7 to 9 -/
@[simp] theorem bistStart_imem (warm env s) : (bistStart warm env s).imem = s.imem := by
  simp [bistStart]

theorem entropyStart_imem {env s t} (h : entropyStart env s = some t) : t.imem = s.imem := by
  simp only [entropyStart, Option.ite_none_right_eq_some, Option.some.injEq] at h
  obtain ⟨-, rfl⟩ := h
  exact foldl_imem (fun s k => by split <;> simp) _ s

@[simp] theorem placeImages_imem (env s) : (placeImages env s).imem = s.imem := rfl

theorem imageStep_imem {s t} (h : imageStep s = some t) : t.imem = s.imem := by
  simp only [imageStep] at h
  split at h
  · cases h
  · cases h
    rfl

/-! ## Step 10 -/
@[simp] theorem mailboxSides_imem (s) : (mailboxSides s).imem = s.imem :=
  foldl_imem (fun s _ => updBox_imem s _ _) _ _

@[simp] theorem longRecord_imem (s u) : (longRecord s u).imem = s.imem := by
  simp [longRecord]

@[simp] theorem longRecords_imem (s) : (longRecords s).imem = s.imem := by
  simp [longRecords]

@[simp] theorem drawNonces_imem (s) : (drawNonces s).imem = s.imem := by
  simp [drawNonces]

@[simp] theorem noteTestEn_imem (env s) : (noteTestEn env s).imem = s.imem := by
  simp [noteTestEn]

@[simp] theorem startDrbgs_imem (env s) : (startDrbgs env s).imem = s.imem := by
  simp [startDrbgs]

@[simp] theorem endLong_imem (s) : (endLong s).imem = s.imem := by
  simp [endLong]

@[simp] theorem secStart_imem (warm env s) : (secStart warm env s).imem = s.imem := by
  simp [secStart]

/-! ## Steps 11 and 12 (R36, R148, R313) -/
@[simp] theorem restoreRec_imem (s r) : (restoreRec s r).imem = s.imem := by
  simp only [restoreRec]
  split <;> simp

@[simp] theorem loadSlot_imem (s r) : (loadSlot s r).imem = s.imem := by
  simp only [loadSlot]
  split <;> simp

@[simp] theorem readFlashes_imem (env s) : (readFlashes env s).imem = s.imem := by
  simp [readFlashes]

@[simp] theorem restoreDevice_imem (s) : (restoreDevice s).imem = s.imem := rfl

@[simp] theorem rosterFromRecord_imem (s) : (rosterFromRecord s).imem = s.imem := rfl

@[simp] theorem openStore_imem (env seed s) : (openStore env seed s).imem = s.imem := by
  simp [openStore]

@[simp] theorem emptyStore_imem (s) : (emptyStore s).imem = s.imem := rfl

@[simp] theorem newVaultSeed_imem (s) : (newVaultSeed s).2.imem = s.imem := by
  simp [newVaultSeed]

@[simp] theorem unsealTable_imem (env s) : (unsealTable env s).imem = s.imem := by
  simp only [unsealTable]
  split <;> simp

theorem unsealStep_imem {env s t} (h : unsealStep env s = some t) : t.imem = s.imem := by
  simp only [unsealStep, Option.ite_none_left_eq_some, Option.some.injEq] at h
  obtain ⟨-, rfl⟩ := h
  simp

@[simp] theorem loadStore_imem (warm s) : (loadStore warm s).imem = s.imem := by
  simp [loadStore]

/-! ## The start -/
@[simp] theorem startRole_imem (env s) : (startRole env s).imem = s.imem := rfl

@[simp] theorem leaveMinimal_imem (s) : (leaveMinimal s).imem = s.imem := by
  simp [leaveMinimal]

/-! ## READY (R430, R431, R436, R455) -/
@[simp] theorem openPorts_imem (s) : (openPorts s).imem = s.imem := rfl

@[simp] theorem startReady_imem (s) : (startReady s).imem = s.imem := by
  simp [startReady]

/-! ## Failed starts (R436, R437) -/
@[simp] theorem enterMinimal_imem (s) : (enterMinimal s).imem = s.imem := by
  simp [enterMinimal]

@[simp] theorem startStepFail_imem (n noImage s) : (startStepFail n noImage s).imem = s.imem := by
  simp [startStepFail]

/-! ## The Quiet state -/
@[simp] theorem quietEnter_imem (s) : (quietEnter s).imem = s.imem := by
  simp [quietEnter]

@[simp] theorem supplyWarning_imem (rail mv s) : (supplyWarning rail mv s).imem = s.imem := by
  simp [supplyWarning]

/-! ## Reset levels (R429, R439) -/
@[simp] theorem pairSupplyGone_imem (s) : (pairSupplyGone s).imem = s.imem := rfl

@[simp] theorem portResume_imem (port s) : (portResume port s).imem = s.imem := by
  simp [portResume]

@[simp] theorem railResume_imem (rail s) : (railResume rail s).imem = s.imem := by
  simp [railResume]

/-! ## PWRFAIL_N (R442, R312) -/
@[simp] theorem pwrfailAssert_imem (s) : (pwrfailAssert s).imem = s.imem := by
  simp [pwrfailAssert]

/-! ## The governor (R444, R445) -/
@[simp] theorem setBand_imem (b s) : (setBand b s).imem = s.imem := by
  simp [setBand]

@[simp] theorem bandSample_imem (mw s) : (bandSample mw s).imem = s.imem := by
  simp [bandSample]

@[simp] theorem governorSample_imem (mw s) : (governorSample mw s).imem = s.imem := by
  simp [governorSample]

/-! ## Calibration (R446) -/
@[simp] theorem calibrationStart_imem (v s) : (calibrationStart v s).imem = s.imem := by
  simp [calibrationStart]

@[simp] theorem calibrationDone_imem (code s) : (calibrationDone code s).imem = s.imem := by
  simp [calibrationDone]

/-! ## Frequency monitors (R23, R347) -/
@[simp] theorem monitorOne_imem (s m) : (monitorOne s m).imem = s.imem := by
  simp [monitorOne]

/-! ## Transport (R385, R386) -/
@[simp] theorem zack_imem (who code s) : (zack who code s).imem = s.imem := by
  simp [zack]

@[simp] theorem heard_imem (who s) : (heard who s).imem = s.imem := by
  simp [heard]

@[simp] theorem zreply_imem (ty h status b s) : (zreply ty h status b s).imem = s.imem := rfl

@[simp] theorem zrefuse_imem (ty h status s) : (zrefuse ty h status s).imem = s.imem := by
  simp [zrefuse]

@[simp] theorem zmessage_imem (ty h always writes f s) (hf : ∀ s, (f s).imem = s.imem) : (zmessage ty h always writes f s).imem = s.imem := by
  simp [zmessage, hf]

@[simp] theorem zstore_imem (f s) (hf : ∀ s, (f s).imem = s.imem) : (zstore f s).imem = s.imem := by
  simp [zstore, hf]

@[simp] theorem zhoavanFragment_imem (who index body s) : (zhoavanFragment who index body s).imem = s.imem := by
  simp [zhoavanFragment]

@[simp] theorem unknownMessage_imem (h type s) : (unknownMessage h type s).imem = s.imem := by
  simp [unknownMessage]

/-! ## Rosters and quorums (R388 to R390) -/
@[simp] theorem endNonce_imem (n s) : (endNonce n s).imem = s.imem := rfl

@[simp] theorem quorumFail_imem (ty h s) : (quorumFail ty h s).imem = s.imem := by
  simp [quorumFail]

@[simp] theorem identitySigns_imem (m s) : (identitySigns m s).2.2.imem = s.imem := by
  simp only [identitySigns, draw9_imem]

/-! ## Nonces (R390) -/
@[simp] theorem nonceGet_imem (h s) : (nonceGet h s).imem = s.imem :=
  zmessage_imem _ h false false _ s fun s => by
    dsimp only
    repeat' split
    all_goals simp

/-! ## PMKs (R149, R394) -/
@[simp] theorem setPmk_imem (p entry v c s) : (setPmk p entry v c s).imem = s.imem := by
  simp [setPmk]

@[simp] theorem clearSlot_imem (n c s) : (clearSlot n c s).imem = s.imem := by
  simp [clearSlot]

/-! ## Rosters (R392) -/
@[simp] theorem setHouse_imem (r c s) : (setHouse r c s).imem = s.imem := by
  simp [setHouse]

/-! ## The tally (R467, R468) -/
@[simp] theorem tallyRead_imem (h first count s) : (tallyRead h first count s).imem = s.imem := by
  simp [tallyRead]

/-! ## Preconditions and tokens (R380, R381) -/
@[simp] theorem burnRefused_imem (m s) : (burnRefused m s).imem = s.imem := rfl

@[simp] theorem lateBurn_imem (c st s) : (lateBurn c st s).imem = s.imem := by
  simp [lateBurn]

@[simp] theorem burned_imem (group n s) : (burned group n s).imem = s.imem := rfl

/-! ## Transitions (R377 to R379) -/
@[simp] theorem intent_imem (target actor c s) : (intent target actor c s).imem = s.imem := by
  simp [intent]

@[simp] theorem burnPlan_imem (target phase state group l s) : (burnPlan target phase state group l s).imem = s.imem := rfl

@[simp] theorem toFielded_imem (actor c s) : (toFielded actor c s).imem = s.imem := by
  simp [toFielded]

@[simp] theorem eraseThenBurn_imem (dst actor c s) : (eraseThenBurn dst actor c s).imem = s.imem := by
  simp [eraseThenBurn]

@[simp] theorem waferTest_imem (c s) : (waferTest c s).imem = s.imem := by
  simp [waferTest]

@[simp] theorem manufacturing_imem (certWritten s) : (manufacturing certWritten s).imem = s.imem := by
  simp [manufacturing]

@[simp] theorem jtagScrap_imem (t b s) : (jtagScrap t b s).imem = s.imem := by
  simp [jtagScrap]

/-! ## Windows (R382, R383) -/
@[simp] theorem burnClasses_imem (verified s) : (burnClasses verified s).imem = s.imem := rfl

@[simp] theorem burnBit_imem (n verified s) : (burnBit n verified s).imem = s.imem := rfl

@[simp] theorem burnScrap_imem (s) : (burnScrap s).imem = s.imem := rfl

/-! ## Other burns (R358, R359, R384, R393, R452) -/
@[simp] theorem raiseClass_imem (n cls s) : (raiseClass n cls s).imem = s.imem := by
  simp [raiseClass]

@[simp] theorem lateClass_imem (n disable c st s) : (lateClass n disable c st s).imem = s.imem := by
  simp [lateClass]

/-! ## Firmware images (R434 to R437) -/
@[simp] theorem putImage_imem (b i s) : (putImage b i s).imem = s.imem := rfl

/-! ## Claims (R397) -/
@[simp] theorem ownClaim_imem (who v s) : (ownClaim who v s).imem = s.imem := by
  simp only [ownClaim]
  split <;> simp

/-! ## Changes of ownership (R395) -/
@[simp] theorem ownChange_imem (new key cause s) : (ownChange new key cause s).imem = s.imem := by
  simp [ownChange]

@[simp] theorem setCompat_imem (now on s) : (setCompat now on s).imem = s.imem := rfl

@[simp] theorem burnOwner_imem (b s) : (burnOwner b s).imem = s.imem := rfl

@[simp] theorem redrawNonce_imem (n s) : (redrawNonce n s).imem = s.imem := by
  simp [redrawNonce]

@[simp] theorem claimAccepted_imem (n b s) : (claimAccepted n b s).imem = s.imem := by
  simp [claimAccepted]

@[simp] theorem claimVerified_imem (c s) : (claimVerified c s).imem = s.imem := by
  simp only [claimVerified]
  split <;> simp

/-! ## Handover and release -/
@[simp] theorem ownHandover_imem (who v s) : (ownHandover who v s).imem = s.imem := by
  simp [ownHandover]

/-! ## Links -/
@[simp] theorem ownerLinkLoss_imem (s) : (ownerLinkLoss s).imem = s.imem := by
  simp [ownerLinkLoss]

/-! ## Roles (R407 to R409) -/
@[simp] theorem roleTo_imem (r s) : (roleTo r s).imem = s.imem := by
  simp [roleTo]

@[simp] theorem healthFrame_imem (s) : (healthFrame s).imem = s.imem := by
  simp [healthFrame]

/-! ## Link, bond and session (R403 to R406) -/
@[simp] theorem makeOffer_imem (s) : (makeOffer s).imem = s.imem := by
  simp only [makeOffer, emit_imem, identitySigns_imem, draw9_imem]

@[simp] theorem sent_imem (s) : (sent s).imem = s.imem := rfl

@[simp] theorem offerResync_imem (s) : (offerResync s).imem = s.imem := by
  simp [offerResync]

@[simp] theorem sessionUp_imem (s) : (sessionUp s).imem = s.imem := by
  simp only [sessionUp]
  split <;> simp

@[simp] theorem pairLinkUp_imem (width nonce s) : (pairLinkUp width nonce s).imem = s.imem := by
  simp [pairLinkUp]

@[simp] theorem bondFail_imem (result peer s) : (bondFail result peer s).imem = s.imem := by
  simp [bondFail]

@[simp] theorem pairOffer_imem (o s) : (pairOffer o s).imem = s.imem := by
  simp only [pairOffer]
  split
  · rfl
  · repeat' split
    all_goals simp only [bondFail_imem, emit_imem, identitySigns_imem, draw9_imem]

@[simp] theorem pairResponse_imem (c sigP384 sigMldsa s) : (pairResponse c sigP384 sigMldsa s).imem = s.imem := by
  simp only [pairResponse]
  split <;> simp

@[simp] theorem keepAlive_imem (s) : (keepAlive s).imem = s.imem := by
  simp [keepAlive]

@[simp] theorem pairLinkDown_imem (s) : (pairLinkDown s).imem = s.imem := by
  simp [pairLinkDown]

@[simp] theorem standbyLinkTimeout_imem (s) : (standbyLinkTimeout s).imem = s.imem := by
  simp [standbyLinkTimeout]

/-! ## RELEASED (R408) -/
@[simp] theorem discardEntries_imem (s) : (discardEntries s).imem = s.imem := rfl

@[simp] theorem toReleased_imem (s) : (toReleased s).imem = s.imem := by
  simp [toReleased]

@[simp] theorem grantLoss_imem (s) : (grantLoss s).imem = s.imem := by
  simp [grantLoss]

@[simp] theorem peerClaimAssert_imem (s) : (peerClaimAssert s).imem = s.imem := by
  simp [peerClaimAssert]

/-! ## Takeover (R411, R418, R420) -/
@[simp] theorem applyLeap_imem (l s) : (applyLeap l s).imem = s.imem := rfl

@[simp] theorem freshDkc_imem (s) : (freshDkc s).imem = s.imem := rfl

@[simp] theorem takeOver_imem (s) : (takeOver s).imem = s.imem := by
  simp only [takeOver, raise_imem, resumeService_imem, roleTo_imem, tallyRec_imem, applyLeap_imem, freshDkc_imem]

@[simp] theorem tryTakeOver_imem (s) : (tryTakeOver s).imem = s.imem := by
  simp [tryTakeOver]

@[simp] theorem grantQualify_imem (s) : (grantQualify s).imem = s.imem := by
  simp [grantQualify]

@[simp] theorem takeoverClaimTimeout_imem (s) : (takeoverClaimTimeout s).imem = s.imem := by
  simp [takeoverClaimTimeout]

@[simp] theorem peerClaimClear_imem (s) : (peerClaimClear s).imem = s.imem := by
  simp [peerClaimClear]

/-! ## Skims out (R414 to R416) -/
@[simp] theorem closeEpoch_imem (s) : (closeEpoch s).imem = s.imem := by
  simp [closeEpoch]

@[simp] theorem mirrorEpochClose_imem (s) : (mirrorEpochClose s).imem = s.imem := by
  simp [mirrorEpochClose]

@[simp] theorem peerSays_imem (role flags s) : (peerSays role flags s).imem = s.imem := rfl

@[simp] theorem yieldDone_imem (s) : (yieldDone s).imem = s.imem := by
  simp [yieldDone]

@[simp] theorem skimAck_imem (epoch csn role flags s) : (skimAck epoch csn role flags s).imem = s.imem := by
  simp [skimAck]

@[simp] theorem ackTimeout_imem (s) : (ackTimeout s).imem = s.imem := by
  simp [ackTimeout]

@[simp] theorem soloWaitExpiry_imem (s) : (soloWaitExpiry s).imem = s.imem := by
  simp [soloWaitExpiry]

/-! ## Skims and resync in (R407, R414, R417, R422) -/
@[simp] theorem applySlot_imem (n csn v s) : (applySlot n csn v s).imem = s.imem := by
  simp [applySlot]

@[simp] theorem recap_imem (p kbc dkc s) : (recap p kbc dkc s).imem = s.imem := by
  simp [recap]

@[simp] theorem tagFailed_imem (s) : (tagFailed s).imem = s.imem := by
  simp [tagFailed]

@[simp] theorem toStandby_imem (s) : (toStandby s).imem = s.imem := by
  simp [toStandby]

@[simp] theorem clearMirrored_imem (s) : (clearMirrored s).imem = s.imem := rfl

/-! ## The commanded hand-over (R422, R428) -/
@[simp] theorem abortUndispatched_imem (s) : (abortUndispatched s).imem = s.imem :=
  foldl_imem (fun s e => by
    split
    · split <;> simp
    · rfl) _ s

@[simp] theorem yieldStart_imem (who v s) : (yieldStart who v s).imem = s.imem := by
  simp [yieldStart]

@[simp] theorem yieldDrainExpiry_imem (s) : (yieldDrainExpiry s).imem = s.imem := by
  simp [yieldDrainExpiry]

/-! ## Images (R435) -/
@[simp] theorem pairImageReceive_imem (i s) : (pairImageReceive i s).imem = s.imem := by
  simp [pairImageReceive]

/-! ## Registers of the pair (R419, R427) -/
@[simp] theorem sealPar_imem (s) : (sealPar s).imem = s.imem := by
  simp [sealPar]

@[simp] theorem parWrite_imem (off v s) : (parWrite off v s).imem = s.imem := by
  simp only [parWrite]
  repeat' split
  all_goals simp

/-! ## Evidence (R397) -/
@[simp] theorem attest_imem (h s) : (attest h s).imem = s.imem := by
  simp [attest]

/-! ## SPDM (R72, R376) -/
@[simp] theorem spdmError_imem (port code s) : (spdmError port code s).imem = s.imem := rfl

@[simp] theorem spdmReply_imem (port code b s) : (spdmReply port code b s).imem = s.imem := by
  simp [spdmReply]

@[simp] theorem spdmRequest_imem (port f s) (hf : ∀ s, (f s).imem = s.imem) : (spdmRequest port f s).imem = s.imem := by
  simp [spdmRequest, hf]

@[simp] theorem spdmAfter_imem (port n f s) (hf : ∀ s, (f s).imem = s.imem) : (spdmAfter port n f s).imem = s.imem := by
  simp [spdmAfter, hf]

@[simp] theorem spdmIdentity_imem (port f s) (hf : ∀ s, (f s).imem = s.imem) : (spdmIdentity port f s).imem = s.imem := by
  simp [spdmIdentity, hf]

@[simp] theorem spdmSession_imem (port n f s) (hf : ∀ s, (f s).imem = s.imem) : (spdmSession port n f s).imem = s.imem := by
  simp [spdmSession, hf]

@[simp] theorem transcriptSign_imem (port m s) : (transcriptSign port m s).2.imem = s.imem := by
  simp [transcriptSign]

@[simp] theorem challenge_imem (port nonce s) : (challenge port nonce s).imem = s.imem := by
  simp [challenge]

@[simp] theorem measurements_imem (port signed nonce s) : (measurements port signed nonce s).imem = s.imem := by
  simp [measurements]

@[simp] theorem keyExchange_imem (port exchange s) : (keyExchange port exchange s).imem = s.imem := by
  simp only [keyExchange]
  split <;> simp

@[simp] theorem spdmEvent_imem (port s) : (spdmEvent port s).imem = s.imem := by
  simp [spdmEvent]

@[simp] theorem spdmFinish_imem (port verify s) : (spdmFinish port verify s).imem = s.imem := by
  simp [spdmFinish]

@[simp] theorem secOnly_imem (who f s) (hf : ∀ s, (f s).imem = s.imem) : (secOnly who f s).imem = s.imem := by
  simp [secOnly, hf]

@[simp] theorem ownerOnly_imem (who f s) (hf : ∀ s, (f s).imem = s.imem) : (ownerOnly who f s).imem = s.imem := by
  simp [ownerOnly, hf]

/-! ## GLB, OWN -/
@[simp] theorem writeGlb_imem (who o v s) : (writeGlb who o v s).imem = s.imem := by
  simp only [writeGlb]
  split <;> simp

@[simp] theorem writeOwn_imem (who o v s) : (writeOwn who o v s).imem = s.imem := by
  simp only [writeOwn]
  repeat' split
  all_goals simp

/-! ## RQE -/
@[simp] theorem sweepPeriodWrite_imem (who v s) : (sweepPeriodWrite who v s).imem = s.imem := by
  simp [sweepPeriodWrite]

@[simp] theorem fnLimitWrite_imem (who v s) : (fnLimitWrite who v s).imem = s.imem := by
  simp [fnLimitWrite]

@[simp] theorem stageRing_imem (who f s) : (stageRing who f s).imem = s.imem := by
  simp only [stageRing]
  split <;> simp

@[simp] theorem ringCfgWrite_imem (who v s) : (ringCfgWrite who v s).imem = s.imem := by
  simp only [ringCfgWrite]
  split <;> simp

@[simp] theorem countReached_imem (p s) : (countReached p s).imem = s.imem := by
  simp [countReached]

@[simp] theorem coalWrite_imem (who v s) : (coalWrite who v s).imem = s.imem := by
  simp only [coalWrite]
  split <;> simp

@[simp] theorem ringControl_imem (who v s) : (ringControl who v s).imem = s.imem := by
  simp only [ringControl]
  split <;> simp

@[simp] theorem writeRqe_imem (who o v s) : (writeRqe who o v s).imem = s.imem := by
  simp only [writeRqe]
  split <;> simp [rqeOwner, fromHost]

/-! ## PIT -/
@[simp] theorem writePit_imem (who o v s) : (writePit who o v s).imem = s.imem := by
  simp only [writePit]
  split <;> simp

/-! ## SCH, CMC, DMA, MBX, MPU -/
@[simp] theorem writeSch_imem (who o v s) : (writeSch who o v s).imem = s.imem :=
  secOnly_imem who _ s fun s => by split <;> simp

@[simp] theorem windowFault_imem (c s) : (windowFault c s).imem = s.imem := by
  simp [windowFault]

@[simp] theorem writeCoreLocal_imem (c o v s) : (writeCoreLocal c o v s).imem = s.imem := by
  simp only [writeCoreLocal]
  repeat' split
  all_goals simp

@[simp] theorem writeDma_imem (who p o v s) : (writeDma who p o v s).imem = s.imem := by
  simp only [writeDma]
  repeat' split
  all_goals simp

@[simp] theorem writeMbx_imem (who m o v s) : (writeMbx who m o v s).imem = s.imem := by
  simp only [writeMbx]
  repeat' split
  all_goals simp

@[simp] theorem regionWrite_imem (f s) : (regionWrite f s).imem = s.imem := by
  simp [regionWrite]

@[simp] theorem writeMpu_imem (who o v s) : (writeMpu who o v s).imem = s.imem := by
  simp only [writeMpu]
  repeat' split
  all_goals simp

/-! ## KST, KBC, DKC, LAN, PKE, LTC, ENT -/
@[simp] theorem writeKst_imem (who o v s) : (writeKst who o v s).imem = s.imem :=
  secOnly_imem who _ s fun s => by split <;> rfl

@[simp] theorem writeKbc_imem (who o v s) : (writeKbc who o v s).imem = s.imem := by
  simp only [writeKbc]
  split <;> simp

@[simp] theorem writeDkc_imem (who o v s) : (writeDkc who o v s).imem = s.imem := by
  simp only [writeDkc]
  split <;> simp

@[simp] theorem writeLan_imem (who o v s) : (writeLan who o v s).imem = s.imem := by
  simp only [writeLan]
  split <;> simp

@[simp] theorem writePke_imem (who o v s) : (writePke who o v s).imem = s.imem := by
  simp only [writePke]
  split <;> simp

@[simp] theorem writeLtc_imem (who o v s) : (writeLtc who o v s).imem = s.imem := by
  simp only [writeLtc]
  split <;> simp

@[simp] theorem writeEnt_imem (who o v s) : (writeEnt who o v s).imem = s.imem := by
  simp only [writeEnt]
  split <;> simp

/-! ## TMP, LCS, PAR, PWR, BST, TLY, EVC -/
@[simp] theorem writeTmp_imem (who o v s) : (writeTmp who o v s).imem = s.imem := by
  simp only [writeTmp]
  split <;> simp

@[simp] theorem writeLcs_imem (who o v s) : (writeLcs who o v s).imem = s.imem := by
  simp [writeLcs]

@[simp] theorem writePar_imem (who o v s) : (writePar who o v s).imem = s.imem := by
  simp [writePar]

@[simp] theorem writePwr_imem (who o v s) : (writePwr who o v s).imem = s.imem := by
  simp only [writePwr]
  split <;> simp

@[simp] theorem writeBst_imem (who o v s) : (writeBst who o v s).imem = s.imem := by
  simp only [writeBst]
  split <;> simp

@[simp] theorem writeEvc_imem (who o v s) : (writeEvc who o v s).imem = s.imem := by
  simp only [writeEvc]
  split
  · simp
  · split <;> simp [secOnly]

/-! ## The map -/
theorem rwiAccess_imem {who off v s t} (h : rwiAccess who off v s = some t) : t.imem = s.imem := by
  simp only [rwiAccess] at h
  split at h
  · cases h
    simp
  · split at h
    · cases h
    · obtain ⟨-, -, rfl⟩ := Option.map_eq_some_iff.mp h
      simp

@[simp] theorem asInitiator_imem (who off f s) (hf : ∀ s, (f s).imem = s.imem) : (asInitiator who off f s).imem = s.imem := by
  simp only [asInitiator]
  split <;> simp [hf]

/-! ## Reads that have an effect -/
@[simp] theorem busyRead_imem (who s) : (busyRead who s).imem = s.imem := rfl

/-! ## BUS_ACCESS (R64, R65) -/
@[simp] theorem busEcc_imem (n line s) : (busEcc n line s).imem = s.imem := by
  simp only [busEcc]
  repeat' split
  all_goals simp

/-! ## REG_ACCESS (R386, R387, R397) -/
@[simp] theorem regAccessRead_imem (h off s) : (regAccessRead h off s).imem = s.imem := rfl

end Sys2Proof.Machine
end

section
/-! What the action of an opcode leaves of the internal memory, however it ends (R128 to R250). -/

namespace Sys2Proof.Machine

/-! ## What an action leaves -/

/-- Begun with the internal memory `m`, the action ends with it, however it ends. -/
structure Leaves {α : Type} (m : List Host.Cell) (a : Act α) : Prop where
  run : ∀ s, s.imem = m → (a.run s).2.imem = m

section
variable {α β : Type} {m : List Host.Cell}

@[simp] theorem leaves_pure (x : α) : Leaves m (pure x) := ⟨fun _ h => h⟩

@[simp] theorem leaves_throw (e : Stop) : Leaves m (throw e : Act α) := ⟨fun _ h => h⟩

@[simp] theorem leaves_refuse (st : BitVec 16) : Leaves m (refuse st : Act α) := leaves_throw _

@[simp] theorem leaves_check (b : Bool) (st : BitVec 16) : Leaves m (check b st) := by
  unfold check
  split <;> simp

@[simp] theorem leaves_set {t : State} (h : t.imem = m) : Leaves m (set t : Act PUnit) := ⟨fun _ _ => h⟩

theorem leaves_modify {f : State → State} (h : ∀ s, (f s).imem = s.imem) : Leaves m (modify f : Act PUnit) :=
  ⟨fun s hs => (h s).trans hs⟩

theorem leaves_bind {a : Act α} {f : α → Act β} (ha : Leaves m a) (hf : ∀ x, Leaves m (f x)) : Leaves m (a >>= f) := by
  refine ⟨fun s hs => ?_⟩
  have hrun := ha.run s hs
  show (ExceptT.bindCont f (a.run s).1 (a.run s).2).2.imem = m
  cases (a.run s).1 with
  | ok x => exact (hf x).run _ hrun
  | error e => exact hrun

/-- What is read from the state has its memory. -/
theorem leaves_get_bind {f : State → Act β} (hf : ∀ s, s.imem = m → Leaves m (f s)) : Leaves m (get >>= f) :=
  ⟨fun s hs => (hf s hs).run s hs⟩

theorem leaves_map {a : Act α} {f : α → β} (ha : Leaves m a) : Leaves m (f <$> a) := leaves_bind ha fun _ => leaves_pure _

theorem leaves_tryCatch {a : Act α} {h : Stop → Act α} (ha : Leaves m a) (hh : ∀ e, Leaves m (h e)) :
    Leaves m (tryCatchThe Stop a h) := by
  refine ⟨fun s hs => ?_⟩
  have hrun := ha.run s hs
  simp only [ExceptT.run, tryCatchThe, MonadExceptOf.tryCatch, ExceptT.tryCatch, ExceptT.mk, Bind.bind, StateT.bind] at hrun ⊢
  rcases hrunA : a s with ⟨e | x, t⟩ <;> rw [hrunA] at hrun
  · exact (hh e).run t hrun
  · exact hrun

theorem leaves_forM {f : α → Act PUnit} (hf : ∀ x, Leaves m (f x)) : ∀ l : List α, Leaves m (forM l f)
  | [] => leaves_pure _
  | x :: l => leaves_bind (hf x) fun _ => leaves_forM hf l

theorem leaves_mapM {f : α → Act β} (hf : ∀ x, Leaves m (f x)) (l : List α) : Leaves m (l.mapM f) := by
  rw [← List.mapM'_eq_mapM]
  induction l with
  | nil => exact leaves_pure _
  | cons x l ih => exact leaves_bind (hf x) fun _ => leaves_bind ih fun _ => leaves_pure _

end

section
variable {m : List Host.Cell}

/-! ## The form of an SQE (check 1 of R128) -/
@[simp] theorem checkForm_leaves (x flags forms used) : Leaves m (checkForm x flags forms used) := by
  simp only [checkForm]
  repeat' with_reducible first | apply leaves_get_bind | apply leaves_bind | apply leaves_map | apply leaves_modify | split | intro _
  all_goals simp [*]

/-! ## Checks 2 to 10 of R128 -/
@[simp] theorem noData_leaves (r) : Leaves m (noData r) := by
  simp [noData]

@[simp] theorem checkErased_leaves (refs creates) : Leaves m (checkErased refs creates) := by
  simp only [checkErased]
  repeat' with_reducible first | apply leaves_get_bind | apply leaves_bind | apply leaves_map | apply leaves_modify | split | intro _
  all_goals simp [*]

@[simp] theorem failedRead_leaves {α : Type} (r why) : Leaves m (failedRead r why : Act α) :=
  leaves_bind (leaves_modify (aerReport_imem r.x.port why)) fun _ => leaves_refuse _

@[simp] theorem checkRange_leaves (r ref h) : Leaves m (checkRange r ref h) := by
  simp only [checkRange]
  repeat' with_reducible first | apply leaves_get_bind | apply leaves_bind | apply leaves_map | apply leaves_modify | split | intro _
  all_goals simp [*]

@[simp] theorem checkOwned_leaves (r ref) : Leaves m (checkOwned r ref) := by
  simp only [checkOwned]
  repeat' with_reducible first | apply leaves_get_bind | apply leaves_bind | apply leaves_map | apply leaves_modify | split | intro _
  all_goals simp [*]

@[simp] theorem slotRead_leaves (r n) : Leaves m (slotRead r n) := by
  simp only [slotRead]
  repeat' with_reducible first | apply leaves_get_bind | apply leaves_bind | apply leaves_map | apply leaves_modify | split | intro _
  all_goals simp [*]

@[simp] theorem readSlots_leaves (r l) : Leaves m (readSlots r l) :=
  leaves_get_bind fun _ _ => leaves_forM (slotRead_leaves r) _

@[simp] theorem checkFound_leaves (r wrapped ref h) : Leaves m (checkFound r wrapped ref h) := by
  simp only [checkFound]
  repeat' with_reducible first | apply leaves_get_bind | apply leaves_bind | apply leaves_map | apply leaves_modify | split | intro _
  all_goals simp [*]

@[simp] theorem lookupBlock_leaves (r fill binaryOnly raw kb) : Leaves m (lookupBlock r fill binaryOnly raw kb) := by
  simp only [lookupBlock]
  repeat' with_reducible first | apply leaves_get_bind | apply leaves_bind | apply leaves_map | apply leaves_modify | split | intro _
  all_goals simp [*]

@[simp] theorem checkBlock_leaves (r fill under ref f) : Leaves m (checkBlock r fill under ref f) := by
  simp only [checkBlock]
  repeat' with_reducible first | apply leaves_get_bind | apply leaves_bind | apply leaves_map | apply leaves_modify | split | intro _
  all_goals simp [*]

@[simp] theorem checkUse_leaves (r ctrOk need k) : Leaves m (checkUse r ctrOk need k) := by
  simp [checkUse]

@[simp] theorem checkLife_leaves (k) : Leaves m (checkLife k) := leaves_get_bind fun _ _ => leaves_check _ _

theorem keeping_leaves {r first} (h : Leaves m first) : Leaves m (keeping r first) := by
  unfold keeping
  split
  · exact leaves_pure _
  · exact leaves_bind h fun _ => leaves_bind (leaves_modify fun s => updEntry_imem s r.e _) fun _ => leaves_pure _

@[simp] theorem captureWith_leaves (r fill l also) : Leaves m (captureWith r fill l also) := by
  refine keeping_leaves ?_
  refine leaves_bind (leaves_forM (fun w => checkRange_leaves r w.ref w.read) l) fun _ => ?_
  refine leaves_bind (leaves_forM (fun w => checkOwned_leaves r w.ref) l) fun _ => leaves_bind (readSlots_leaves r _) fun _ => ?_
  refine leaves_bind (leaves_mapM (fun w => checkFound_leaves r false w.ref w.read) l) fun found => ?_
  refine leaves_bind (leaves_mapM (fun w : Want × Found => checkBlock_leaves r fill none w.1.ref w.2) _) fun keys => ?_
  refine leaves_bind (leaves_forM (fun w => ?use) _) fun _ => leaves_bind (leaves_check _ _) fun _ => ?_
  case use => split <;> simp
  exact leaves_bind (leaves_forM (fun k => by split <;> simp) keys) fun _ => leaves_pure _

@[simp] theorem capture_leaves (r l also) : Leaves m (capture r l also) := by
  simp only [capture]
  repeat' with_reducible first | apply leaves_get_bind | apply leaves_bind | apply leaves_map | apply leaves_modify | split | intro _
  all_goals simp [*]

@[simp] theorem checkModulus_leaves (r ref n) : Leaves m (checkModulus r ref n) := by
  simp only [checkModulus]
  repeat' with_reducible first | apply leaves_get_bind | apply leaves_bind | apply leaves_map | apply leaves_modify | split | intro _
  all_goals simp [*]

@[simp] theorem captureOne_leaves (r ref need) : Leaves m (captureOne r ref need) := by
  simp only [captureOne]
  repeat' with_reducible first | apply leaves_get_bind | apply leaves_bind | apply leaves_map | apply leaves_modify | split | intro _
  all_goals simp [*]

@[simp] theorem captureTwo_leaves (r a b needA needB also) : Leaves m (captureTwo r a b needA needB also) := by
  simp only [captureTwo]
  repeat' with_reducible first | apply leaves_get_bind | apply leaves_bind | apply leaves_map | apply leaves_modify | split | intro _
  all_goals simp [*]

/-! ## Checks 11 to 13, the data, execution -/
@[simp] theorem checkTarget_leaves (r n a) : Leaves m (checkTarget r n a) := by
  simp only [checkTarget]
  repeat' with_reducible first | apply leaves_get_bind | apply leaves_bind | apply leaves_map | apply leaves_modify | split | intro _
  all_goals simp [*]

@[simp] theorem checkCap_leaves (r n) : Leaves m (checkCap r n) := by
  simp only [checkCap]
  repeat' with_reducible first | apply leaves_get_bind | apply leaves_bind | apply leaves_map | apply leaves_modify | split | intro _
  all_goals simp [*]

@[simp] theorem readData_leaves (r) : Leaves m (readData r) := by
  simp only [readData]
  repeat' with_reducible first | apply leaves_get_bind | apply leaves_bind | apply leaves_map | apply leaves_modify | split | intro _
  all_goals simp [*]

@[simp] theorem unitFaults_leaves (r lane inline) : Leaves m (unitFaults r lane inline) := by
  simp only [unitFaults]
  repeat' with_reducible first | apply leaves_get_bind | apply leaves_bind | apply leaves_map | apply leaves_modify | split | intro _
  all_goals simp [*]

@[simp] theorem drawFrom_leaves (inst n) : Leaves m (drawFrom inst n) := by
  simp only [drawFrom]
  repeat' with_reducible first | apply leaves_get_bind | apply leaves_bind | apply leaves_map | apply leaves_modify | split | intro _
  all_goals simp [*]

@[simp] theorem commitSlot_leaves (r n k) : Leaves m (commitSlot r n k) := by
  simp only [commitSlot]
  repeat' with_reducible first | apply leaves_get_bind | apply leaves_bind | apply leaves_map | apply leaves_modify | split | intro _
  all_goals simp [*]

@[simp] theorem spendCounter_leaves (r k) : Leaves m (spendCounter r k) := by
  simp only [spendCounter]
  repeat' with_reducible first | apply leaves_get_bind | apply leaves_bind | apply leaves_map | apply leaves_modify | split | intro _
  all_goals simp [*]

theorem spent_leaves {α : Type} {v} {a : Act α} (h : Leaves m a) : Leaves m (spent v a) :=
  leaves_tryCatch h fun e => by split <;> simp

@[simp] theorem replayAfterCapture_leaves (r) : Leaves m (replayAfterCapture r) := by
  simp only [replayAfterCapture]
  repeat' with_reducible first | apply leaves_get_bind | apply leaves_bind | apply leaves_map | apply leaves_modify | split | intro _
  all_goals simp [*]

/-! ## KBPKs and exports -/
@[simp] theorem checkAuth_leaves (r a) : Leaves m (checkAuth r a) := by
  simp only [checkAuth]
  repeat' with_reducible first | apply leaves_get_bind | apply leaves_bind | apply leaves_map | apply leaves_modify | split | intro _
  all_goals simp [*]

@[simp] theorem writeOut_leaves (r more kbpk expo ctx a tag k) : Leaves m (writeOut r more kbpk expo ctx a tag k) := by
  simp only [writeOut]
  repeat' with_reducible first | apply leaves_get_bind | apply leaves_bind | apply leaves_map | apply leaves_modify | split | intro _
  all_goals simp [*]

/-! ## KEY_IMPORT_BLOCK -/
@[simp] theorem importKeys_leaves (r toSlot a b) : Leaves m (importKeys r toSlot a b) := by
  simp only [importKeys]
  repeat' with_reducible first | apply leaves_get_bind | apply leaves_bind | apply leaves_map | apply leaves_modify | apply keeping_leaves | split | intro _
  all_goals simp [*]

@[simp] theorem keyImport_leaves (r) : Leaves m (keyImport r) := by
  simp only [keyImport]
  repeat' with_reducible first | apply leaves_get_bind | apply leaves_bind | apply leaves_map | apply leaves_modify | split | intro _
  all_goals simp [*]

/-! ## KEY_EXPORT_BLOCK -/
@[simp] theorem keyExport_leaves (r) : Leaves m (keyExport r) := by
  simp only [keyExport]
  repeat' with_reducible first | apply leaves_get_bind | apply leaves_bind | apply leaves_map | apply leaves_modify | split | intro _
  all_goals simp [*]

/-! ## KEY_GENERATE_SYM -/
@[simp] theorem keyGenerate_leaves (r) : Leaves m (keyGenerate r) := by
  simp only [keyGenerate]
  repeat' with_reducible first | apply leaves_get_bind | apply leaves_bind | apply leaves_map | apply leaves_modify | split | intro _
  all_goals simp [*]

/-! ## KEY_CHECK_VALUE -/
@[simp] theorem keyCheckValue_leaves (r) : Leaves m (keyCheckValue r) := by
  simp only [keyCheckValue]
  repeat' with_reducible first | apply leaves_get_bind | apply leaves_bind | apply leaves_map | apply leaves_modify | split | intro _
  all_goals simp [*]

/-! ## KEY_TRANSLATE_BLOCK -/
@[simp] theorem keyTranslate_leaves (r) : Leaves m (keyTranslate r) := by
  simp only [keyTranslate]
  repeat' with_reducible first | apply leaves_get_bind | apply leaves_bind | apply leaves_map | apply leaves_modify | split | intro _
  all_goals simp [*]

/-! ## KEY_CACHE_EVICT -/
@[simp] theorem keyCacheEvict_leaves (r) : Leaves m (keyCacheEvict r) := by
  simp only [keyCacheEvict]
  repeat' with_reducible first | apply leaves_get_bind | apply leaves_bind | apply leaves_map | apply leaves_modify | split | intro _
  all_goals simp [*]

/-! ## Engines in service (R260, R276) -/
@[simp] theorem checkPair_leaves (lattice) : Leaves m (checkPair lattice) := by
  simp only [checkPair]
  repeat' with_reducible first | apply leaves_get_bind | apply leaves_bind | apply leaves_map | apply leaves_modify | split | intro _
  all_goals simp [*]

/-! ## Algorithms (R116, R265, R266) -/
@[simp] theorem drawSign_leaves (inst alg extra) : Leaves m (drawSign inst alg extra) := by
  simp only [drawSign]
  repeat' with_reducible first | apply leaves_get_bind | apply leaves_bind | apply leaves_map | apply leaves_modify | split | intro _
  all_goals simp [*]

@[simp] theorem makeSign_leaves (inst alg hash extra key text) : Leaves m (makeSign inst alg hash extra key text) := by
  simp only [makeSign]
  repeat' with_reducible first | apply leaves_get_bind | apply leaves_bind | apply leaves_map | apply leaves_modify | split | intro _
  all_goals simp [*]

/-! ## PK_SIGN -/
@[simp] theorem useCounter_leaves (r k) : Leaves m (useCounter r k) := by
  simp only [useCounter]
  repeat' with_reducible first | apply leaves_get_bind | apply leaves_bind | apply leaves_map | apply leaves_modify | split | intro _
  all_goals simp [*]

@[simp] theorem pkSignCmd_leaves (r) : Leaves m (pkSignCmd r) := by
  simp only [pkSignCmd]
  repeat' with_reducible first | apply leaves_get_bind | apply leaves_bind | apply leaves_map | apply leaves_modify | apply spent_leaves | split | intro _
  all_goals simp [*]

/-! ## PK_VERIFY -/
@[simp] theorem pkVerifyCmd_leaves (r) : Leaves m (pkVerifyCmd r) := by
  simp only [pkVerifyCmd]
  repeat' with_reducible first | apply leaves_get_bind | apply leaves_bind | apply leaves_map | apply leaves_modify | split | intro _
  all_goals simp [*]

/-! ## PK_AGREE (R268, R270) -/
@[simp] theorem checkSlot_leaves (r off a) : Leaves m (checkSlot r off a) := by
  simp only [checkSlot]
  repeat' with_reducible first | apply leaves_get_bind | apply leaves_bind | apply leaves_map | apply leaves_modify | split | intro _
  all_goals simp [*]

@[simp] theorem pkAgreeCmd_leaves (r) : Leaves m (pkAgreeCmd r) := by
  simp only [pkAgreeCmd]
  repeat' with_reducible first | apply leaves_get_bind | apply leaves_bind | apply leaves_map | apply leaves_modify | split | intro _
  all_goals simp [*]

/-! ## RSA_DECRYPT (R269) -/
@[simp] theorem rsaDecryptCmd_leaves (r) : Leaves m (rsaDecryptCmd r) := by
  simp only [rsaDecryptCmd]
  repeat' with_reducible first | apply leaves_get_bind | apply leaves_bind | apply leaves_map | apply leaves_modify | split | intro _
  all_goals simp [*]

/-! ## PK_GENERATE (R277, R278) -/
@[simp] theorem generateKey_leaves (alg bits e) : Leaves m (generateKey alg bits e) := by
  simp only [generateKey]
  repeat' with_reducible first | apply leaves_get_bind | apply leaves_bind | apply leaves_map | apply leaves_modify | split | intro _
  all_goals simp [*]

@[simp] theorem pkGenerateCmd_leaves (r) : Leaves m (pkGenerateCmd r) := by
  simp only [pkGenerateCmd]
  repeat' with_reducible first | apply leaves_get_bind | apply leaves_bind | apply leaves_map | apply leaves_modify | split | intro _
  all_goals simp [*]

/-! ## ML-KEM (R282, R283) -/
@[simp] theorem kemEncapsCmd_leaves (r) : Leaves m (kemEncapsCmd r) := by
  simp only [kemEncapsCmd]
  repeat' with_reducible first | apply leaves_get_bind | apply leaves_bind | apply leaves_map | apply leaves_modify | split | intro _
  all_goals simp [*]

@[simp] theorem kemDecapsCmd_leaves (r) : Leaves m (kemDecapsCmd r) := by
  simp only [kemDecapsCmd]
  repeat' with_reducible first | apply leaves_get_bind | apply leaves_bind | apply leaves_map | apply leaves_modify | split | intro _
  all_goals simp [*]

/-! ## ML-DSA (R266, R267, R284, R285) -/
@[simp] theorem pqSignCmd_leaves (r) : Leaves m (pqSignCmd r) := by
  simp only [pqSignCmd]
  repeat' with_reducible first | apply leaves_get_bind | apply leaves_bind | apply leaves_map | apply leaves_modify | apply spent_leaves | split | intro _
  all_goals simp [*]

@[simp] theorem noSetThree_leaves (r a) : Leaves m (noSetThree r a) := by
  simp only [noSetThree]
  repeat' with_reducible first | apply leaves_get_bind | apply leaves_bind | apply leaves_map | apply leaves_modify | split | intro _
  all_goals simp [*]

@[simp] theorem pqVerifyCmd_leaves (r) : Leaves m (pqVerifyCmd r) := by
  simp only [pqVerifyCmd]
  repeat' with_reducible first | apply leaves_get_bind | apply leaves_bind | apply leaves_map | apply leaves_modify | split | intro _
  all_goals simp [*]

/-! ## Remote key loading (R174 to R177) -/
@[simp] theorem encapsulate_leaves (profile rcpt pt) : Leaves m (encapsulate profile rcpt pt) := by
  simp only [encapsulate]
  repeat' with_reducible first | apply leaves_get_bind | apply leaves_bind | apply leaves_map | apply leaves_modify | split | intro _
  all_goals simp [*]

@[simp] theorem sendMessage_leaves (r profile k rcpt signer pt) : Leaves m (sendMessage r profile k rcpt signer pt) := by
  simp only [sendMessage]
  repeat' with_reducible first | apply leaves_get_bind | apply leaves_bind | apply leaves_map | apply leaves_modify | apply spent_leaves | split | intro _
  all_goals simp [*]

@[simp] theorem remoteSendCmd_leaves (r) : Leaves m (remoteSendCmd r) := by
  simp only [remoteSendCmd]
  repeat' with_reducible first | apply leaves_get_bind | apply leaves_bind | apply leaves_map | apply leaves_modify | apply spent_leaves | split | intro _
  all_goals simp [*]

@[simp] theorem receivedKey_leaves (r kbpk raw) : Leaves m (receivedKey r kbpk raw) := by
  simp only [receivedKey]
  repeat' with_reducible first | apply leaves_get_bind | apply leaves_bind | apply leaves_map | apply leaves_modify | split | intro _
  all_goals simp [*]

@[simp] theorem receiveMessage_leaves (r profile k sender ec) : Leaves m (receiveMessage r profile k sender ec) := by
  simp only [receiveMessage]
  repeat' with_reducible first | apply leaves_get_bind | apply leaves_bind | apply leaves_map | apply leaves_modify | split | intro _
  all_goals simp [*]

@[simp] theorem remoteReceiveCmd_leaves (r) : Leaves m (remoteReceiveCmd r) := by
  simp only [remoteReceiveCmd]
  repeat' with_reducible first | apply leaves_get_bind | apply leaves_bind | apply leaves_map | apply leaves_modify | split | intro _
  all_goals simp [*]

/-! ## PANs and PIN blocks -/
@[simp] theorem pinFresh_leaves (r fmt) : Leaves m (pinFresh r fmt) := by
  simp only [pinFresh]
  repeat' with_reducible first | apply leaves_get_bind | apply leaves_bind | apply leaves_map | apply leaves_modify | split | intro _
  all_goals simp [*]

@[simp] theorem verdict_leaves (ok) : Leaves m (verdict ok) := by
  simp only [verdict]
  repeat' with_reducible first | apply leaves_get_bind | apply leaves_bind | apply leaves_map | apply leaves_modify | split | intro _
  all_goals simp [*]

/-! ## PIN_TRANSLATE -/
@[simp] theorem pinTranslate_leaves (r) : Leaves m (pinTranslate r) := by
  simp only [pinTranslate]
  repeat' with_reducible first | apply leaves_get_bind | apply leaves_bind | apply leaves_map | apply leaves_modify | split | intro _
  all_goals simp [*]

/-! ## The offset method (R187 to R189) -/
@[simp] theorem offsetPins_leaves (r gen) : Leaves m (offsetPins r gen) := by
  simp only [offsetPins]
  repeat' with_reducible first | apply leaves_get_bind | apply leaves_bind | apply leaves_map | apply leaves_modify | split | intro _
  all_goals simp [*]

@[simp] theorem pinVerifyOffset_leaves (r) : Leaves m (pinVerifyOffset r) := by
  simp only [pinVerifyOffset]
  repeat' with_reducible first | apply leaves_get_bind | apply leaves_bind | apply leaves_map | apply leaves_modify | split | intro _
  all_goals simp [*]

@[simp] theorem pinGenerateOffset_leaves (r) : Leaves m (pinGenerateOffset r) := by
  simp only [pinGenerateOffset]
  repeat' with_reducible first | apply leaves_get_bind | apply leaves_bind | apply leaves_map | apply leaves_modify | split | intro _
  all_goals simp [*]

/-! ## The PVV method (R190, R191) -/
@[simp] theorem pinVerifyPvv_leaves (r) : Leaves m (pinVerifyPvv r) := by
  simp only [pinVerifyPvv]
  repeat' with_reducible first | apply leaves_get_bind | apply leaves_bind | apply leaves_map | apply leaves_modify | split | intro _
  all_goals simp [*]

@[simp] theorem messageLen_leaves (r max) : Leaves m (messageLen r max) := by
  simp [messageLen]

@[simp] theorem macGenerate_leaves (r) : Leaves m (macGenerate r) := by
  simp only [macGenerate]
  repeat' with_reducible first | apply leaves_get_bind | apply leaves_bind | apply leaves_map | apply leaves_modify | split | intro _
  all_goals simp [*]

@[simp] theorem macVerify_leaves (r) : Leaves m (macVerify r) := by
  simp only [macVerify]
  repeat' with_reducible first | apply leaves_get_bind | apply leaves_bind | apply leaves_map | apply leaves_modify | split | intro _
  all_goals simp [*]

@[simp] theorem macTranslate_leaves (r) : Leaves m (macTranslate r) := by
  simp only [macTranslate]
  repeat' with_reducible first | apply leaves_get_bind | apply leaves_bind | apply leaves_map | apply leaves_modify | split | intro _
  all_goals simp [*]

/-! ## Running a mode -/
@[simp] theorem bulkRun_leaves (r b k k2 ck gen iv inl) : Leaves m (bulkRun r b k k2 ck gen iv inl) := by
  simp only [bulkRun]
  repeat' with_reducible first | apply leaves_get_bind | apply leaves_bind | apply leaves_map | apply leaves_modify | apply spent_leaves | split | intro _
  all_goals simp [*]

@[simp] theorem bulk_leaves (r) : Leaves m (bulk r) := by
  simp only [bulk]
  repeat' with_reducible first | apply leaves_get_bind | apply leaves_bind | apply leaves_map | apply leaves_modify | apply spent_leaves | split | intro _
  all_goals simp [*]

/-! ## CIPHER_CONTEXT (R150, R248) -/
@[simp] theorem rotateContext_leaves (r want) : Leaves m (rotateContext r want) := by
  simp only [rotateContext]
  repeat' with_reducible first | apply leaves_get_bind | apply leaves_bind | apply leaves_map | apply leaves_modify | split | intro _
  all_goals simp [*]

@[simp] theorem cipherContext_leaves (r) : Leaves m (cipherContext r) := by
  simp only [cipherContext]
  repeat' with_reducible first | apply leaves_get_bind | apply leaves_bind | apply leaves_map | apply leaves_modify | split | intro _
  all_goals simp [*]

/-! ## Hashes (R254 to R257) -/
@[simp] theorem hashCmd_leaves (r) : Leaves m (hashCmd r) := by
  simp only [hashCmd]
  repeat' with_reducible first | apply leaves_get_bind | apply leaves_bind | apply leaves_map | apply leaves_modify | split | intro _
  all_goals simp [*]

@[simp] theorem keyedHashCmd_leaves (r) : Leaves m (keyedHashCmd r) := by
  simp only [keyedHashCmd]
  repeat' with_reducible first | apply leaves_get_bind | apply leaves_bind | apply leaves_map | apply leaves_modify | split | intro _
  all_goals simp [*]

/-! ## Tokenisation (R252) -/
@[simp] theorem token_leaves (enc r) : Leaves m (token enc r) := by
  simp only [token]
  repeat' with_reducible first | apply leaves_get_bind | apply leaves_bind | apply leaves_map | apply leaves_modify | split | intro _
  all_goals simp [*]

/-! ## Card verification codes -/
@[simp] theorem cvcCode_leaves (r gen) : Leaves m (cvcCode r gen) := by
  simp only [cvcCode]
  repeat' with_reducible first | apply leaves_get_bind | apply leaves_bind | apply leaves_map | apply leaves_modify | split | intro _
  all_goals simp [*]

@[simp] theorem cvcGenerate_leaves (r) : Leaves m (cvcGenerate r) := by
  simp only [cvcGenerate]
  repeat' with_reducible first | apply leaves_get_bind | apply leaves_bind | apply leaves_map | apply leaves_modify | split | intro _
  all_goals simp [*]

@[simp] theorem cvcVerify_leaves (r) : Leaves m (cvcVerify r) := by
  simp only [cvcVerify]
  repeat' with_reducible first | apply leaves_get_bind | apply leaves_bind | apply leaves_map | apply leaves_modify | split | intro _
  all_goals simp [*]

/-! ## ARQC and ARPC (R197, R198) -/
@[simp] theorem arqcVerify_leaves (r) : Leaves m (arqcVerify r) := by
  simp only [arqcVerify]
  repeat' with_reducible first | apply leaves_get_bind | apply leaves_bind | apply leaves_map | apply leaves_modify | split | intro _
  all_goals simp [*]

@[simp] theorem arqcVerifyArpc_leaves (r) : Leaves m (arqcVerifyArpc r) := by
  simp only [arqcVerifyArpc]
  repeat' with_reducible first | apply leaves_get_bind | apply leaves_bind | apply leaves_map | apply leaves_modify | split | intro _
  all_goals simp [*]

/-! ## Issuer scripts (R199, R200) -/
@[simp] theorem emvScript_leaves (r) : Leaves m (emvScript r) := by
  simp only [emvScript]
  repeat' with_reducible first | apply leaves_get_bind | apply leaves_bind | apply leaves_map | apply leaves_modify | apply spent_leaves | split | intro _
  all_goals simp [*]

/-! ## Walkers (R218, R220) -/
@[simp] theorem startWalker_leaves (r k bdk mode count) : Leaves m (startWalker r k bdk mode count) := by
  simp only [startWalker]
  repeat' with_reducible first | apply leaves_get_bind | apply leaves_bind | apply leaves_map | apply leaves_modify | split | intro _
  all_goals simp [*]

@[simp] theorem dkcStep_leaves (r k bdk) : Leaves m (dkcStep r k bdk) := by
  simp only [dkcStep]
  repeat' with_reducible first | apply leaves_get_bind | apply leaves_bind | apply leaves_map | apply leaves_modify | split | intro _
  all_goals simp [*]

/-! ## DUKPT_DECRYPT_DATA (R226) -/
@[simp] theorem dukptDecrypt_leaves (r) : Leaves m (dukptDecrypt r) := by
  simp only [dukptDecrypt]
  repeat' with_reducible first | apply leaves_get_bind | apply leaves_bind | apply leaves_map | apply leaves_modify | split | intro _
  all_goals simp [*]

/-! ## DUKPT_PIN_TRANSLATE (R227) -/
@[simp] theorem dukptPin_leaves (r) : Leaves m (dukptPin r) := by
  simp only [dukptPin]
  repeat' with_reducible first | apply leaves_get_bind | apply leaves_bind | apply leaves_map | apply leaves_modify | split | intro _
  all_goals simp [*]

/-! ## DUKPT_MAC_VERIFY (R228) -/
@[simp] theorem dukptMac_leaves (r) : Leaves m (dukptMac r) := by
  simp only [dukptMac]
  repeat' with_reducible first | apply leaves_get_bind | apply leaves_bind | apply leaves_map | apply leaves_modify | split | intro _
  all_goals simp [*]

/-! ## DUKPT_INITIAL_KEY (R229) -/
@[simp] theorem dukptInitialKey_leaves (r) : Leaves m (dukptInitialKey r) := by
  simp only [dukptInitialKey]
  repeat' with_reducible first | apply leaves_get_bind | apply leaves_bind | apply leaves_map | apply leaves_modify | split | intro _
  all_goals simp [*]

@[simp] theorem echoCmd_leaves (r) : Leaves m (echoCmd r) := by
  simp only [echoCmd]
  repeat' with_reducible first | apply leaves_get_bind | apply leaves_bind | apply leaves_map | apply leaves_modify | split | intro _
  all_goals simp [*]

@[simp] theorem randomCmd_leaves (r) : Leaves m (randomCmd r) := by
  simp only [randomCmd]
  repeat' with_reducible first | apply leaves_get_bind | apply leaves_bind | apply leaves_map | apply leaves_modify | split | intro _
  all_goals simp [*]

@[simp] theorem pitchStatusCmd_leaves (r) : Leaves m (pitchStatusCmd r) := by
  simp only [pitchStatusCmd]
  repeat' with_reducible first | apply leaves_get_bind | apply leaves_bind | apply leaves_map | apply leaves_modify | split | intro _
  all_goals simp [*]

end

/-! ## Running an opcode -/
theorem imem_of_run {α : Type} {a : Act α} (ha : ∀ m, Leaves m a) {s t : State} {x : Except Stop α} (hrun : a.run s = (x, t)) :
    t.imem = s.imem := by
  have hleft := (ha s.imem).run s rfl
  rwa [hrun] at hleft

/-- An opcode whose action leaves the internal memory leaves it as a command. -/
@[simp] theorem runOp_imem (e opcode env op s) (hop : ∀ r m, Leaves m (op r)) : (runOp e opcode env op s).imem = s.imem := by
  simp only [runOp]
  split
  · simp
  · split
    · simp
    · next x _ _ =>
      generalize hu : (if x.replayWait = true then replayLookup e _ else _) = u
      have himem : u.imem = s.imem := by
        rw [← hu]
        simp
      split
      · exact himem
      · split
        · exact himem
        · split
          all_goals
            have hrun := imem_of_run (hop _) ‹_›
            simp [hrun, himem]

end Sys2Proof.Machine
end

section
/-! The writers of the internal memory, and the commands that reach them: each keeps its canonical form. -/

namespace Sys2Proof.Machine

open Sys2Proof.Safety

/-! ## What keeps the canonical form -/
theorem foldl_memInv {α : Type} {f : State → α → State} (hf : ∀ s x, MemInv s → MemInv (f s x)) :
    ∀ (l : List α) {s}, MemInv s → MemInv (l.foldl f s)
  | [], _, h => h
  | x :: l, _, h => foldl_memInv hf l (hf _ x h)

/-- A state with the same memory. -/
theorem memInv_of_imem {s t : State} (h : MemInv s) (himem : t.imem = s.imem) : MemInv t := by
  rw [MemInv, himem]
  exact h

section
variable {s t : State}

/-! ## Starts and cores -/
@[simp] theorem coldClear_memInv (s) : MemInv (coldClear s) := rfl

@[simp] theorem warmClear_memInv (s) : MemInv (warmClear s) := rfl

@[simp] theorem newMemKey_memInv (s) : MemInv (newMemKey s) := rfl

theorem zeroCoreMemory_memInv (c) (h : MemInv s) : MemInv (zeroCoreMemory c s) := smap_filter_wf 0 s.imem _ h

@[simp] theorem coreLoad_memInv (c fw) (h : MemInv s) : MemInv (coreLoad c fw s) := by
  have hzero := zeroCoreMemory_memInv c h
  simp [MemInv, coreLoad, hzero]

@[simp] theorem coreTryOff_memInv (c) (h : MemInv s) : MemInv (coreTryOff c s) := by
  simp only [coreTryOff]
  repeat' split
  all_goals simp [MemInv, h]

@[simp] theorem requestDrain_memInv (c) (h : MemInv s) : MemInv (requestDrain c s) := by
  simp only [requestDrain]
  repeat' split
  all_goals simp [MemInv, h]

@[simp] theorem updateTake_memInv (c) (h : MemInv s) : MemInv (updateTake c s) := by
  simp only [updateTake]
  repeat' split
  all_goals simp [MemInv, h]

@[simp] theorem updateNext_memInv (n) (h : MemInv s) : MemInv (updateNext n s) := by
  simp only [updateNext]
  split
  all_goals simp [MemInv, h]

@[simp] theorem updateRejoined_memInv (c) (h : MemInv s) : MemInv (updateRejoined c s) := by
  simp only [updateRejoined]
  split <;> simp [MemInv, h]

@[simp] theorem liveUpdateStart_memInv (who v) (h : MemInv s) : MemInv (liveUpdateStart who v s) := by
  simp only [liveUpdateStart]
  split <;> simp [MemInv, h]

@[simp] theorem faultReload_memInv (c cause) (h : MemInv s) : MemInv (faultReload c cause s) := by
  simp only [faultReload]
  split <;> simp [MemInv, h]

theorem tryDispatch_memInv {c} (h : MemInv s) (ht : tryDispatch c s = some t) : MemInv t :=
  memInv_of_imem h (tryDispatch_imem ht)

@[simp] theorem dispatchLoad_memInv (c) (h : MemInv s) : MemInv (dispatchLoad c s) := by
  simp only [dispatchLoad]
  split
  · exact h
  · generalize hcore : State.updCore _ c (fun k => { k with mask := k.maskNext, completed := false, boundPitch := none }) = u
    have hu : MemInv u := by
      rw [← hcore]
      split <;> simp [MemInv, h]
    generalize hjoin : (if (u.core c).state = .loading then _ else u) = w
    have hw : MemInv w := by
      rw [← hjoin]
      split <;> simp [MemInv, hu]
    split
    · simp [MemInv, hw]
    · split
      · exact tryDispatch_memInv hw ‹_›
      · split <;> simp [MemInv, hw]

@[simp] theorem cmcGuard_memInv {who f} (hf : ∀ c s, MemInv s → MemInv (f c s)) (h : MemInv s) : MemInv (cmcGuard who f s) := by
  simp only [cmcGuard]
  split
  · exact hf _ _ h
  · exact h

@[simp] theorem coreReload_memInv (who v) (h : MemInv s) : MemInv (coreReload who v s) :=
  cmcGuard_memInv (fun c s h => by split <;> simp [MemInv, h]) h

theorem requestDrains_memInv (who) (v : Word) (h : MemInv s) :
    MemInv (cmcGuard who (fun c s => if v.getLsbD 0 then requestDrain c s else s) s) :=
  cmcGuard_memInv (fun c s h => by split <;> simp [MemInv, h]) h

@[simp] theorem coreLoadTimeout_memInv (c) (h : MemInv s) : MemInv (coreLoadTimeout c s) := by
  simp only [coreLoadTimeout]
  repeat' split
  all_goals simp [MemInv, h]

@[simp] theorem loadCores_memInv (h : MemInv s) : MemInv (loadCores s) :=
  foldl_memInv (fun s c h => by split <;> simp [MemInv, h]) _ h

@[simp] theorem reloadCores_memInv (h : MemInv s) : MemInv (reloadCores s) :=
  foldl_memInv (fun s c h => by dsimp only; split <;> simp [MemInv, h]) _ h

theorem governCore_memInv (s c) (h : MemInv s) : MemInv (governCore s c) := by
  simp only [governCore]
  repeat' split
  all_goals simp [MemInv, h]

@[simp] theorem envelopeTransition_memInv (h : MemInv s) : MemInv (envelopeTransition s) := by
  simp only [envelopeTransition]
  split
  · exact h
  · have hcores := foldl_memInv governCore_memInv (List.range 24) (s := { s with pwr := { s.pwr with inForceBounded := s.bounded } }) h
    simp [MemInv, hcores]

@[simp] theorem memoryStart_memInv (s) : MemInv (memoryStart s) := by
  simp only [memoryStart]
  split <;> simp [MemInv]

theorem startStep_memInv {warm env n} (h : MemInv s) (ht : startStep warm env n s = some t) : MemInv t := by
  simp only [startStep] at ht
  split at ht
  · exact Option.some.inj ht ▸ memInv_of_imem h (by simp)
  · exact memInv_of_imem h (senseStep_imem ht)
  · obtain ⟨-, ht⟩ := Option.ite_none_left_eq_some.mp ht
    exact Option.some.inj ht ▸ h
  · exact Option.some.inj ht ▸ memInv_of_imem h (by simp)
  · exact memInv_of_imem h (entropyStart_imem ht)
  · exact memInv_of_imem h (imageStep_imem ht)
  · exact Option.some.inj ht ▸ memInv_of_imem h (by simp)
  · exact memInv_of_imem h (unsealStep_imem ht)
  · exact Option.some.inj ht ▸ memInv_of_imem h (by simp)
  · exact Option.some.inj ht ▸ memoryStart_memInv s
  · exact Option.some.inj ht ▸ h

@[simp] theorem startSteps_memInv (warm env) : ∀ (fuel n) {s}, MemInv s → MemInv (startSteps warm env fuel n s)
  | 0, _, _, h => h
  | fuel + 1, n, s, h => by
    simp only [startSteps]
    split
    · exact h
    · split
      · exact h
      · have hstep := startStep_memInv h ‹_›
        exact startSteps_memInv warm env fuel (n + 1) hstep

@[simp] theorem coldStart_memInv (env s) : MemInv (coldStart env s) := by
  have hclear := coldClear_memInv s
  exact startSteps_memInv _ _ _ _ (by simp [MemInv, hclear])

@[simp] theorem warmStart_memInv (env s) : MemInv (warmStart env s) := by
  simp only [warmStart]
  split <;> simp [MemInv]

/-! ## Regions, rails and erasure -/
@[simp] theorem regionReturn_memInv (r) (h : MemInv s) : MemInv (regionReturn r s) := by
  simp only [regionReturn]
  repeat' split
  all_goals simp [MemInv, h]

@[simp] theorem triggeredPass_memInv (r) (h : MemInv s) : MemInv (triggeredPass r s) := by
  simp only [triggeredPass]
  split <;> simp [MemInv, h]

@[simp] theorem bistRegionDone_memInv (r result) (h : MemInv s) : MemInv (bistRegionDone r result s) := by
  simp only [bistRegionDone]
  repeat' split
  all_goals simp [MemInv, h]

@[simp] theorem bistInterval_memInv (powerOk) (h : MemInv s) : MemInv (bistInterval powerOk s) := by
  simp only [bistInterval]
  repeat' split
  all_goals simp [MemInv, h]

@[simp] theorem quietRegions_memInv (h : MemInv s) : MemInv (quietRegions s) := by
  simp only [quietRegions]
  split
  · exact h
  · exact foldl_memInv (fun s r h => regionReturn_memInv r h) _ h

theorem resumeService_memInv (h : MemInv s) : MemInv (resumeService s) := by simp [MemInv, h]

@[simp] theorem quietEnd_memInv (h : MemInv s) : MemInv (quietEnd s) := by
  simp only [quietEnd]
  exact resumeService_memInv (quietRegions_memInv (by simp [MemInv, h]))

@[simp] theorem quietExit_memInv (lowest) (h : MemInv s) : MemInv (quietExit lowest s) := by
  simp only [quietExit]
  repeat' split
  all_goals simp [MemInv, h]

@[simp] theorem railReset_memInv (rail) (h : MemInv s) : MemInv (railReset rail s) := by
  simp only [railReset]
  repeat' split
  all_goals simp [MemInv, h]

@[simp] theorem eraseOverwriteDone_memInv (h : MemInv s) : MemInv (eraseOverwriteDone s) := by
  simp only [eraseOverwriteDone]
  split <;> simp [MemInv, h]

@[simp] theorem eraseRestartDone_memInv (katFailed) (h : MemInv s) : MemInv (eraseRestartDone katFailed s) := by
  simp only [eraseRestartDone]
  split <;> simp [MemInv, h]

@[simp] theorem burnFinish_memInv (s) : MemInv (burnFinish s) := rfl

@[simp] theorem burnNext_memInv (l) (h : MemInv s) : MemInv (burnNext l s) := by
  simp only [burnNext]
  split <;> simp [MemInv, h]

@[simp] theorem fuseBurnDone_memInv (verified) (h : MemInv s) : MemInv (fuseBurnDone verified s) := by
  simp only [fuseBurnDone]
  repeat' split
  all_goals simp [MemInv, h]

/-! ## DMA and host reads -/
@[simp] theorem writeBurst_memInv (c d) (h : MemInv s) : MemInv (writeBurst c d s) := by
  simp only [writeBurst]
  repeat' split
  all_goals simp [MemInv, h, memWrites_wf]

@[simp] theorem burstComplete_memInv (c r) (h : MemInv s) : MemInv (burstComplete c r s) := by
  simp only [burstComplete]
  repeat' split
  all_goals simp [MemInv, h]

@[simp] theorem writeBack_memInv (c code residue) (h : MemInv s) : MemInv (writeBack c code residue s) := memWrites_wf _ _ _ h

@[simp] theorem descriptorEnd_memInv (c) (h : MemInv s) : MemInv (descriptorEnd c s) := by
  simp only [descriptorEnd]
  repeat' split
  all_goals simp [MemInv, h]

@[simp] theorem drainDmaTimeout_memInv (c) (h : MemInv s) : MemInv (drainDmaTimeout c s) := by
  simp only [drainDmaTimeout]
  split
  · have habort : ∀ n {u}, MemInv u → MemInv (descriptorEnd n (chanAbort n u)) := fun n u hu =>
      descriptorEnd_memInv n (memInv_of_imem hu (by simp))
    exact coreTryOff_memInv c (habort _ (habort _ h))
  · exact h

@[simp] theorem hrdDone_memInv (c r) (h : MemInv s) : MemInv (hrdDone c r s) := by
  simp only [hrdDone]
  repeat' split
  all_goals simp [MemInv, h, memWrites_wf]

/-! ## The pair -/
@[simp] theorem standbyAccept_memInv (v) (h : MemInv s) : MemInv (standbyAccept v s) := by
  simp only [standbyAccept]
  repeat' split
  all_goals simp [MemInv, h]

@[simp] theorem applyDevice_memInv (mode epoch leap cfg churn cap v) (h : MemInv s) :
    MemInv (applyDevice mode epoch leap cfg churn cap v s) := by
  simp only [applyDevice]
  split <;> simp [MemInv, h]

theorem applyRecord_memInv (s r) (h : MemInv s) : MemInv (applyRecord s r) := by
  simp only [applyRecord]
  split
  all_goals simp [MemInv, h]

@[simp] theorem applySkim_memInv (k) (h : MemInv s) : MemInv (applySkim k s) := by
  have hrecords := foldl_memInv applyRecord_memInv k.records h
  simp [MemInv, applySkim, hrecords]

@[simp] theorem skimReceive_memInv (k) (h : MemInv s) : MemInv (skimReceive k s) := by
  simp only [skimReceive]
  repeat' split
  all_goals simp [MemInv, h]

@[simp] theorem resyncReceive_memInv (l last) (h : MemInv s) : MemInv (resyncReceive l last s) := by
  simp only [resyncReceive]
  split
  · exact h
  · generalize hrole : (if s.par.role = .syncing then s else _) = u
    have hu : MemInv u := by
      rw [← hrole]
      split <;> simp [MemInv, h]
    generalize hclear : (if u.par.resyncing then u else _) = w
    have hw : MemInv w := by
      rw [← hclear]
      split <;> simp [MemInv, hu]
    have hrecords := foldl_memInv applyRecord_memInv l hw
    split
    · simp [MemInv, hrecords]
    · exact foldl_memInv (fun s k h => skimReceive_memInv k h) _ (memInv_of_imem hrecords (by simp))

/-! ## Registers and the bus -/
@[simp] theorem writeCmc_memInv (who o v) (h : MemInv s) : MemInv (writeCmc who o v s) := by
  simp only [writeCmc, secOnly]
  split
  · split <;> simp [MemInv, h]
  · split
    · split
      · simp [MemInv, h]
      · simp [MemInv, h]
      · exact coreReload_memInv who v (requestDrains_memInv who v h)
      all_goals simp [MemInv, h]
    · exact h

@[simp] theorem writeAt_memInv (who p off v) (h : MemInv s) : MemInv (writeAt who p off v s) := by
  simp only [writeAt]
  split
  · exact h
  · split
    · exact memInv_of_imem h (rwiAccess_imem ‹_›)
    · repeat' split
      all_goals simp [MemInv, h]

@[simp] theorem readAt_memInv (who off) (h : MemInv s) : MemInv (readAt who off s) := by
  simp only [readAt]
  repeat' split
  all_goals simp [MemInv, h]

@[simp] theorem regWrite_memInv (who p off v) (h : MemInv s) : MemInv (regWrite who p off v s) := by
  simp only [regWrite]
  split <;> simp [MemInv, h]

@[simp] theorem regRead_memInv (who off) (h : MemInv s) : MemInv (regRead who off s) := by
  simp only [regRead]
  split <;> simp [MemInv, h]

@[simp] theorem asInitiator_memInv {f} (who off) (hf : ∀ s, MemInv s → MemInv (f s)) (h : MemInv s) :
    MemInv (asInitiator who off f s) := by
  simp only [asInitiator, fromHost]
  repeat' split
  all_goals first | exact hf s h | simp [MemInv, h]

@[simp] theorem busDo_memInv (n p k a data len ecc) (h : MemInv s) : MemInv (busDo n p k a data len ecc s) := by
  simp only [busDo]
  repeat' split
  all_goals simp [MemInv, h, memWrites_wf]

@[simp] theorem busAccess_memInv (n p k a data len posted ecc) (h : MemInv s) : MemInv (busAccess n p k a data len posted ecc s) := by
  simp only [busAccess]
  repeat' split
  all_goals simp [MemInv, h]

@[simp] theorem ownerWrite_memInv (who off v) (h : MemInv s) : MemInv (ownerWrite who off v s) := by
  simp only [ownerWrite]
  split <;> simp [MemInv, h]

@[simp] theorem regAccessWrite_memInv (h' off v) (h : MemInv s) : MemInv (regAccessWrite h' off v s) := by
  simp only [regAccessWrite]
  repeat' split
  all_goals simp [MemInv, h]

/-! ## Zhoavan messages -/
theorem zmessage_memInv {ty h' always writes f} (hf : ∀ s, MemInv s → MemInv (f s)) (h : MemInv s) :
    MemInv (zmessage ty h' always writes f s) := by
  have hsame : ∀ t : State, t.imem = s.imem → MemInv t := fun _ => memInv_of_imem h
  simp only [zmessage]
  repeat' split
  all_goals first
    | exact hf _ (hsame _ (by simp))
    | exact hsame _ (by simp)

theorem zstore_memInv {f} (hf : MemInv s → MemInv (f s)) (h : MemInv s) : MemInv (zstore f s) := by
  simp only [zstore]
  split
  · exact h
  · exact hf h

theorem zfinishL_memInv {late ty h' a} (ha : ∀ b t, a = .ok (b, t) → MemInv t) (hl : ∀ st, MemInv (late st s)) :
    MemInv (zfinishL late ty h' a s) := by
  unfold zfinishL
  split
  · exact memInv_of_imem (ha _ _ rfl) (by simp)
  · exact memInv_of_imem (hl ‹_›) (by simp)

theorem zfinish_memInv {ty h' a} (ha : ∀ b t, a = .ok (b, t) → MemInv t) (h : MemInv s) : MemInv (zfinish ty h' a s) :=
  zfinishL_memInv ha fun _ => h

/-- The change of a gated message keeps the canonical form. -/
def KeepsForm (f : Nat → State → ZAns) : Prop := ∀ c s b t, MemInv s → f c s = .ok (b, t) → MemInv t

theorem zquorumL_memInv {late ty h' digest extra r f} (hf : KeepsForm f) (hl : ∀ st s, (late st s).imem = s.imem) (h : MemInv s) :
    MemInv (zquorumL late ty h' digest extra r f s) := by
  simp only [zquorumL]
  repeat' split
  · simp [MemInv, h]
  · simp [MemInv, h]
  · exact zfinishL_memInv (fun b t => hf _ _ b t (by simp [MemInv, h])) fun st => memInv_of_imem h (by simp [hl])
  · simp [MemInv, h]

theorem zquorum_memInv {ty h' digest extra r f} (hf : KeepsForm f) (h : MemInv s) : MemInv (zquorum ty h' digest extra r f s) :=
  zquorumL_memInv hf (fun _ _ => rfl) h

theorem zgate_memInv {ty h' house f} (hf : KeepsForm f) {s} (h : MemInv s) : MemInv (zgate ty h' house f s) := zquorum_memInv hf h

theorem createPitch_keepsForm (target v) : KeepsForm (createPitch target v) := by
  intro c s b t h ha
  simp only [createPitch] at ha
  repeat' split at ha
  all_goals cases ha
  all_goals simp [MemInv, h]

theorem deletePitch_keepsForm (target) : KeepsForm (deletePitch target) := by
  intro c s b t h ha
  simp only [deletePitch] at ha
  repeat' split at ha
  all_goals cases ha
  all_goals simp [MemInv, h]

theorem pmkLoad_keepsForm (target seed nonce b) : KeepsForm (pmkLoad target seed nonce b) := by
  intro c s b t h ha
  simp only [pmkLoad] at ha
  repeat' split at ha
  all_goals cases ha
  all_goals simp [MemInv, h]

theorem pmkClear_keepsForm (target entry) : KeepsForm (pmkClear target entry) := by
  intro c s b t h ha
  simp only [pmkClear] at ha
  repeat' split at ha
  all_goals cases ha
  all_goals simp [MemInv, h]

theorem setRoster_keepsForm (target r) : KeepsForm (setRoster target r) := by
  intro c s b t h ha
  simp only [setRoster] at ha
  repeat' split at ha
  all_goals cases ha
  all_goals simp [MemInv, h]

theorem exportAuth_keepsForm (target seconds count) : KeepsForm (exportAuth target seconds count) := by
  intro c s b t h ha
  simp only [exportAuth] at ha
  repeat' split at ha
  all_goals cases ha
  all_goals simp [MemInv, h]

theorem attrWiden_keepsForm (target n attrs) : KeepsForm (attrWiden target n attrs) := by
  intro c s b t h ha
  simp only [attrWiden] at ha
  repeat' split at ha
  all_goals cases ha
  all_goals simp [MemInv, h]

theorem tallyClear_keepsForm : KeepsForm tallyClear := by
  intro c s b t h ha
  cases ha
  simp [MemInv, h]

theorem lcsTransition_keepsForm (h' target b) : KeepsForm (lcsTransition h' target b) := by
  intro c s b t h ha
  simp only [lcsTransition] at ha
  repeat' split at ha
  all_goals cases ha
  all_goals simp [MemInv, h]

theorem reintegrate_keepsForm (declared) : KeepsForm (reintegrate declared) := by
  intro c s b t _ ha
  cases ha
  exact coldClear_memInv _

theorem zeroise_keepsForm : KeepsForm zeroise := by
  intro c s b t h ha
  cases ha
  simp [MemInv, h]

theorem tamperFuse_keepsForm (n disable cls b) : KeepsForm (tamperFuse n disable cls b) := by
  intro c s b t h ha
  simp only [tamperFuse] at ha
  repeat' split at ha
  all_goals cases ha
  all_goals simp [MemInv, h]

theorem ownerRotate_keepsForm (k b) : KeepsForm (ownerRotate k b) := by
  intro c s b t h ha
  simp only [ownerRotate] at ha
  repeat' split at ha
  all_goals cases ha
  all_goals simp [MemInv, h]

theorem fwAccept_keepsForm : KeepsForm fwAccept := by
  intro c s b t h ha
  simp only [fwAccept] at ha
  repeat' split at ha
  all_goals cases ha
  all_goals simp [MemInv, h]

theorem configPitch_memInv {target v body} (h : MemInv s) (ha : configPitch target v s = .ok (body, t)) : MemInv t := by
  simp only [configPitch] at ha
  repeat' split at ha
  all_goals cases ha
  all_goals exact memInv_of_imem h (by simp [setShares_imem ‹_›])

theorem tamperClass_memInv {bank v body} (h : MemInv s) (ha : tamperClass bank v s = .ok (body, t)) : MemInv t := by
  simp only [tamperClass] at ha
  repeat' split at ha
  all_goals cases ha
  all_goals simp [MemInv, h]

theorem fuseRepair_memInv {b body} (h : MemInv s) (ha : fuseRepair b s = .ok (body, t)) : MemInv t := by
  simp only [fuseRepair] at ha
  repeat' split at ha
  all_goals cases ha
  all_goals simp [MemInv, h]

theorem fwStage_memInv {i body} (h : MemInv s) (ha : fwStage i s = .ok (body, t)) : MemInv t := by
  simp only [fwStage] at ha
  repeat' split at ha
  all_goals cases ha
  all_goals simp [MemInv, h]

end

/-! ## Every command -/

/-- The state an outcome hands on, if any, has the canonical form. -/
def EndsInForm (o : Host.Outcome State Fault Refusal) : Prop := ∀ t, o = .next t → MemInv t

theorem endsInForm_next {t : State} (h : MemInv t) : EndsInForm (.next t) := by
  rintro _ ⟨⟩
  exact h

theorem endsInForm_fault (f : Fault) : EndsInForm (.fault f) := fun _ h => by simp at h

theorem endsInForm_guard {p : Prop} [Decidable p] {f : Fault} {t : State} (h : MemInv t) :
    EndsInForm (if p then .fault f else .next t) := by
  split
  · exact endsInForm_fault f
  · exact endsInForm_next h

section
variable {s : State}

theorem firstRoster_memInv (h' r) (h : MemInv s) : MemInv (firstRoster h' r s) := by
  simp only [firstRoster]
  split
  · simp [MemInv, h]
  · split
    · exact zfinish_memInv (fun b t => setRoster_keepsForm _ _ _ _ b t (by simp [MemInv, h])) (by simp [MemInv, h])
    · simp [MemInv, h]

theorem rosterSet_memInv (h' r) (h : MemInv s) : MemInv (rosterSet h' r s) := by
  simp only [rosterSet]
  repeat' split
  · exact zgate_memInv (setRoster_keepsForm _ r) h
  · exact firstRoster_memInv h' r h
  · exact zquorum_memInv (setRoster_keepsForm _ r) h

theorem regAccess_memInv (h' write off v) (h : MemInv s) : MemInv (regAccess h' write off v s) := by
  have hrun : ∀ s, MemInv s → MemInv (if write then regAccessWrite h' off v s else regAccessRead h' off s) := fun s h => by
    split <;> simp [MemInv, h]
  simp only [regAccess]
  split
  · exact hrun _ (by simp [MemInv, h])
  · exact zmessage_memInv hrun h

end

/-! ## The gated messages -/

section
variable {s : State}

theorem gated_endsInForm {ty ty' h' house always writes f} (hf : KeepsForm f) (h : MemInv s) :
    EndsInForm (.next (zmessage ty h' always writes (zgate ty' h' house f) s)) :=
  endsInForm_next (zmessage_memInv (fun _ => zgate_memInv hf) h)

theorem storeGated_endsInForm {ty ty' h' house always writes f} (hf : KeepsForm f) (h : MemInv s) :
    EndsInForm (.next (zstore (zmessage ty h' always writes (zgate ty' h' house f)) s)) :=
  endsInForm_next (zstore_memInv (zmessage_memInv fun _ => zgate_memInv hf) h)

theorem execPitchConfig_endsInForm (h' v) (h : MemInv s) : EndsInForm (execPitchConfig h' v s) :=
  endsInForm_next (zmessage_memInv (fun _ h => zfinish_memInv (fun _ _ => configPitch_memInv h) h) h)

theorem execPmkLoad_endsInForm (h' b) (h : MemInv s) : EndsInForm (execPmkLoad h' b s) :=
  endsInForm_next (zstore_memInv (zmessage_memInv fun _ => zgate_memInv (pmkLoad_keepsForm _ _ _ _)) h)

theorem execTamperClass_endsInForm (h' bank v) (h : MemInv s) : EndsInForm (execTamperClass h' bank v s) := by
  refine endsInForm_next (zmessage_memInv (fun s h => zfinish_memInv (fun _ _ => tamperClass_memInv h) ?_) h)
  repeat' split
  all_goals simp [MemInv, h]

theorem execLcsTransition_endsInForm (h' target c) (h : MemInv s) : EndsInForm (execLcsTransition h' target c s) :=
  endsInForm_next (zmessage_memInv (fun _ => zquorumL_memInv (lcsTransition_keepsForm _ _ _) (lateBurn_imem _)) h)

theorem execReintegrate_endsInForm (h' declared version) (h : MemInv s) : EndsInForm (execReintegrate h' declared version s) := by
  refine endsInForm_next (zmessage_memInv (fun s h => ?_) h)
  split
  · simp [MemInv, h]
  · exact zquorum_memInv (reintegrate_keepsForm _) h

theorem execTamperFuse_endsInForm (h' source disable cls c) (h : MemInv s) :
    EndsInForm (execTamperFuse h' source disable cls c s) :=
  endsInForm_next (zmessage_memInv (fun _ => zquorumL_memInv (tamperFuse_keepsForm _ _ _ _) (lateClass_imem _ _ _)) h)

theorem execFuseRepair_endsInForm (h' c) (h : MemInv s) : EndsInForm (execFuseRepair h' c s) := by
  refine endsInForm_next (zmessage_memInv (fun s h => ?_) h)
  repeat' split
  · exact zquorumL_memInv (fun _ _ _ _ => fuseRepair_memInv) (lateBurn_imem _) h
  · exact zfinishL_memInv (fun _ _ => fuseRepair_memInv h) fun st => memInv_of_imem h (lateBurn_imem _ st s)
  · simp [MemInv, h]

theorem execOwnerRotate_endsInForm (h' keyHash c) (h : MemInv s) : EndsInForm (execOwnerRotate h' keyHash c s) :=
  endsInForm_next (zmessage_memInv (fun _ => zquorumL_memInv (ownerRotate_keepsForm _ _) (lateBurn_imem _)) h)

theorem execFwStage_endsInForm (h' img) (h : MemInv s) : EndsInForm (execFwStage h' img s) :=
  endsInForm_next (zmessage_memInv (fun _ h => zfinish_memInv (fun _ _ => fwStage_memInv h) h) h)

theorem execFwAccept_endsInForm (h') (h : MemInv s) : EndsInForm (execFwAccept h' s) := by
  refine endsInForm_next (zmessage_memInv (fun s h => ?_) h)
  have hnonce : MemInv (endNonce h'.nonce s) := by simp [MemInv, h]
  split
  · have hanswer : ∀ b t, fwAccept (nextCsn (endNonce h'.nonce s)) (tookCsn (endNonce h'.nonce s)) = .ok (b, t) → MemInv t :=
      fun b t => fwAccept_keepsForm _ _ b t (by simp [MemInv, h])
    split
    · simp [MemInv, h]
    · dsimp only
      split <;> split
      case isTrue => exact zfinish_memInv hanswer hnonce
      case isTrue => exact zfinish_memInv hanswer hnonce
      all_goals simp [MemInv, h]
  · exact zquorum_memInv fwAccept_keepsForm h

theorem execStandbyKat_endsInForm (failed) (h : MemInv s) : EndsInForm (execStandbyKat failed s) := by
  simp only [execStandbyKat]
  split
  · exact endsInForm_next (by simp [MemInv, h])
  · exact endsInForm_fault _

theorem execRegWrite_endsInForm (who off v) (h : MemInv s) : EndsInForm (execRegWrite who off v s) :=
  endsInForm_next (asInitiator_memInv _ _ (fun s h => by simp [MemInv, h]) h)

end

/-- Every command keeps the canonical form of the internal memory. -/
theorem exec_endsInForm (c : Instr) {s : State} (h : MemInv s) : EndsInForm (exec c s) := by
  cases c
  case pitchCreate => exact gated_endsInForm (createPitch_keepsForm _ _) h
  case pitchDelete => exact gated_endsInForm (deletePitch_keepsForm _) h
  case pitchConfig => exact execPitchConfig_endsInForm _ _ h
  case pmkLoad => exact execPmkLoad_endsInForm _ _ h
  case pmkClear => exact storeGated_endsInForm (pmkClear_keepsForm _ _) h
  case rosterSet => exact endsInForm_next (zmessage_memInv (fun s => rosterSet_memInv _ _) h)
  case exportAuth => exact gated_endsInForm (exportAuth_keepsForm _ _ _) h
  case attrWiden => exact storeGated_endsInForm (attrWiden_keepsForm _ _ _) h
  case tallyClear => exact gated_endsInForm tallyClear_keepsForm h
  case tamperClass => exact execTamperClass_endsInForm _ _ _ h
  case lcsTransition => exact execLcsTransition_endsInForm _ _ _ h
  case reintegrate => exact execReintegrate_endsInForm _ _ _ h
  case zeroise => exact gated_endsInForm zeroise_keepsForm h
  case tamperFuse => exact execTamperFuse_endsInForm _ _ _ _ _ h
  case fuseRepair => exact execFuseRepair_endsInForm _ _ h
  case ownerRotate => exact execOwnerRotate_endsInForm _ _ _ h
  case fwStage => exact execFwStage_endsInForm _ _ h
  case fwAccept => exact execFwAccept_endsInForm _ h
  case regAccess => exact endsInForm_next (regAccess_memInv _ _ _ _ h)
  case attest => exact endsInForm_next (zmessage_memInv (fun s h => by simp [MemInv, h]) h)
  case regWrite => exact execRegWrite_endsInForm _ _ _ h
  case coreDrain => exact endsInForm_next (requestDrains_memInv _ _ h)
  case heartbeat => exact endsInForm_next (by simp [MemInv, h, spdmSession])
  case exportAuthExpiry => exact endsInForm_next (by split <;> simp [MemInv, h])
  case pwrfailDeassertTimer => exact endsInForm_next (by split <;> simp [MemInv, h])
  case seedBlockReady =>
    refine endsInForm_next ?_
    repeat' split
    all_goals simp [MemInv, h]
  case standbyKat => exact execStandbyKat_endsInForm _ h
  case ideIntegrityFail => exact endsInForm_guard (by simp [MemInv, h])
  case ideKm => exact endsInForm_guard (by simp [MemInv, h])
  case coreException => exact endsInForm_guard (by simp [MemInv, h])
  case coreWatchdog => exact endsInForm_guard (by simp [MemInv, h])
  case dispatchLoad => exact endsInForm_guard (by simp [MemInv, h])
  case dispatchTimeout => exact endsInForm_guard (by simp [MemInv, h])
  case hrdGo => exact endsInForm_guard (by simp [MemInv, h])
  case hrdDone => exact endsInForm_guard (by simp [MemInv, h])
  case commandComplete => exact endsInForm_guard (by simp [MemInv, h])
  case coreLoadTimeout => exact endsInForm_guard (by simp [MemInv, h])
  case coreDrainDmaTimeout => exact endsInForm_guard (by simp [MemInv, h])
  case engineRequest => exact endsInForm_guard (by simp [MemInv, h])
  case engineOpComplete => exact endsInForm_guard (by simp [MemInv, h])
  case signCheckDone => exact endsInForm_guard (by simp [MemInv, h])
  case engineFault => exact endsInForm_guard (by simp [MemInv, h])
  case tamperQualify => exact endsInForm_guard (by simp [MemInv, h])
  case tamperConditionClear => exact endsInForm_guard (by simp [MemInv, h])
  case holdRelease => exact endsInForm_guard (by simp [MemInv, h])
  case sensorSample => exact endsInForm_guard (by simp [MemInv, h])
  case bistRegionTake => exact endsInForm_guard (by simp [MemInv, h])
  case bistRegionDone => exact endsInForm_guard (by simp [MemInv, h])
  case drbgReseed => exact endsInForm_guard (by simp [MemInv, h])
  case drbgSeedTimeout => exact endsInForm_guard (by simp [MemInv, h])
  case supplyWarning => exact endsInForm_guard (by simp [MemInv, h])
  case railReset => exact endsInForm_guard (by simp [MemInv, h])
  case railResume => exact endsInForm_guard (by simp [MemInv, h])
  all_goals exact endsInForm_next (by simp [MemInv, h])

/-- Every step keeps the canonical form of the internal memory: the idle cycle changes the clock alone, and a command is taken off
the queue before it runs. -/
theorem step_memInv {s t : State} (h : MemInv s) (ht : step s = .next t) : MemInv t := by
  simp only [step] at ht
  split at ht
  · exact endsInForm_next (t := { s with clk := s.clk + 1 }) h t ht
  · next c rest _ => exact exec_endsInForm c (s := { s with pending := rest }) h t ht

end Sys2Proof.Machine
end

section
/-! The obligation about the internal memory's form. -/

namespace Sys2Proof.Proofs

open Sys2Proof.Machine

/-- Settles O6: only the bus, the DMA, the host reads and the starts write the internal memory, and they write it in its canonical
form; every other command leaves it. -/
theorem stepKeepsMemoryForm : Obligations.StepKeepsMemoryForm := by
  unfold Obligations.StepKeepsMemoryForm
  exact fun s t h ht => step_memInv h ht

end Sys2Proof.Proofs
end

section
/-! Bus accesses and the MPU's barrier (R65, R67, R68). -/

namespace Sys2Proof.Machine

open Sys2Proof.Safety

/-! ## Accesses -/

/-- The state in which a permitted access is done: a posted one is outstanding, under the generation that checked it (R67). -/
def State.posts (s : State) (n : BitVec 6) (posted : Bool) : State :=
  { s with mpu := { s.mpu with
      outstanding := if posted then s.mpu.outstanding ++ [(n, s.mpu.commits)] else s.mpu.outstanding } }

theorem busAccess_granted {s : State} {n : BitVec 6} {p : Priv} {k : Access} {a len : Nat}
    (hcause : s.mpuCause n.toNat p k a len = none) (data : Bytes) (posted ecc : Bool) :
    busAccess n p k a data len posted ecc s = busDo n p k a data len ecc (s.posts n posted) := by
  cases posted <;> simp [busAccess, hcause, State.posts]

theorem busAccess_refused {s : State} {n : BitVec 6} {p : Priv} {k : Access} {a len : Nat} {c : BitVec 4}
    (hcause : s.mpuCause n.toNat p k a len = some c) (data : Bytes) (posted ecc : Bool) :
    busAccess n p k a data len posted ecc s = refuseAccess n p k a c s := by
  simp [busAccess, hcause]

theorem busDo_write {a : Nat} (hmemory : isRegister a = false) (n : BitVec 6) (p : Priv) (data : Bytes) (len : Nat) (ecc : Bool)
    (s : State) : busDo n p .write a data len ecc s = { s with imem := memWrites s.imem a (data.take len) } := by
  simp [busDo, hmemory]

theorem busDo_read {s : State} {k : Access} {a : Nat} {ecc : Bool} (hmemory : isRegister a = false) (hk : k ≠ .write)
    (hread : s.readFault ecc a = none) (n : BitVec 6) (p : Priv) (data : Bytes) (len : Nat) :
    busDo n p k a data len ecc s = s.emit (.busData n (memReads s.imem a len)) := by
  cases k with
  | write => exact absurd rfl hk
  | _ => simp [busDo, hmemory, hread]

/-- The fault record of a refused access where none is held (R68). -/
theorem refuseAccess_records {s : State} (hfree : s.mpu.faultValid = false) (n : BitVec 6) (p : Priv) (k : Access) (a : Nat)
    (c : BitVec 4) :
    (refuseAccess n p k a c s).mpu
      = { s.mpu with faultValid := true, faultMore := 0, faultCause := c, faultIni := BitVec.ofNat 6 n.toNat,
                     faultPriv := BitVec.ofNat 2 (privCode (judged n.toNat p)), faultType := BitVec.ofNat 3 (accessCode k),
                     faultAddr := BitVec.ofNat 40 a } := by
  simp [refuseAccess, mpuFault, hfree]

theorem refuseAccess_onlyFault (n : BitVec 6) (p : Priv) (k : Access) (a : Nat) (c : BitVec 4) (s : State) :
    let t := refuseAccess n p k a c s
    t = { s with mpu := t.mpu, evc := t.evc, rqe := t.rqe, out := t.out } := by
  simp only [refuseAccess, mpuFault]
  generalize (if s.mpu.faultValid then _ else _ : Mpu) = m
  obtain ⟨u, hu⟩ := raise_onlyEvents (504 + (n.toNat + 63) % 64 % 40) { s with mpu := m }
  rw [hu]
  rfl

/-! ## The barrier -/

theorem olderOutstanding_of_drained (s : State) (stalled : List (BitVec 6)) (timeout : Bool) (out : List Out) :
    State.olderOutstanding { s with
      mpu := { s.mpu with outstanding := s.mpu.outstanding.filter fun x => decide (s.mpu.commits ≤ x.2),
                          stalled := stalled, barrierTimeout := timeout },
      out := out } = false := by
  simp [State.olderOutstanding]

end Sys2Proof.Machine

namespace Sys2Proof.Proofs

open Sys2Proof.Machine Sys2Proof.Safety

/-- Settles O10: a granted access is `busDo` in the state where it is posted, a refused one `refuseAccess`; the barrier's clauses are the
branches of its read, its drain and its timeout. -/
theorem busAccessAndBarrier : Obligations.BusAccessAndBarrier := by
  unfold Obligations.BusAccessAndBarrier
  refine ⟨fun s n p k a data len posted ecc => ⟨fun hcause hmemory hread => ?granted, fun c hcause hfree => ?refused⟩,
    fun s n => ⟨fun hn hold => ?answered, fun hn hold => ?stalls, fun hstalled => ⟨?drained, ?timeout⟩⟩⟩
  case granted =>
    refine ⟨_, congrArg Host.Outcome.next (busAccess_granted hcause data posted ecc), ?_⟩
    by_cases hk : k = .write
    · subst hk
      rw [busDo_write hmemory]
      exact ⟨fun _ => ⟨rfl, rfl, fun x hx => memRead_writes_outside _ _ _ _ (by rw [List.length_take]; omega)⟩,
        fun h => absurd rfl h, rfl, rfl⟩
    · have hread' : (s.posts n posted).readFault ecc a.toNat = none := hread.resolve_left hk
      rw [busDo_read hmemory hk hread']
      exact ⟨fun h => absurd h hk, fun _ => ⟨rfl, rfl⟩, rfl, rfl⟩
  case refused =>
    refine ⟨_, congrArg Host.Outcome.next (busAccess_refused hcause data posted ecc), ?_, List.getLast?_concat, ?_,
      refuseAccess_onlyFault n p k a.toNat c s⟩
    · simp
    · simp [refuseAccess_records hfree]
  case answered =>
    have hpermitted : reservedIni n = false := by simp [reservedIni, hn]
    simp [exec, execMpuBarrierRead, barrierRead, hpermitted, hold, barrierReturn, State.barrierWord, State.barrierWord.bit', State.emit]
  case stalls =>
    have hpermitted : reservedIni n = false := by simp [reservedIni, hn]
    simp [exec, execMpuBarrierRead, barrierRead, hpermitted, hold]
  case drained =>
    have hstalled' : s.mpu.stalled.contains n = true := List.contains_iff_mem.mpr hstalled
    refine ⟨_, congrArg Host.Outcome.next (if_pos hstalled'), rfl, olderOutstanding_of_drained s _ _ _, ?_, rfl⟩
    simp [barrierReturn, State.barrierWord, State.barrierWord.bit', State.emit, unstall]
  case timeout =>
    have hstalled' : s.mpu.stalled.contains n = true := List.contains_iff_mem.mpr hstalled
    exact congrArg Host.Outcome.next (if_pos hstalled')

end Sys2Proof.Proofs
end

section
/-! Pitches by their registers (R33, R41, R43, R47, R50, R52, R55, R58, R63, R171), and what a sealed change can change beside them. -/

namespace Sys2Proof.Machine

open Sys2Proof.Safety

/-! ## What a sealed change can change (R110, R311, R414) -/

/-- `t` is `s` but for what a commit to the sealed store changes. -/
def OnlySeals (s t : State) : Prop := ∃ u, t = withSeals s u

section
variable {s t u : State}

theorem OnlySeals.of_eq (h : t = withSeals s t) : OnlySeals s t := ⟨t, h⟩

theorem OnlySeals.refl (s : State) : OnlySeals s s := .of_eq rfl

theorem OnlySeals.trans : OnlySeals s t → OnlySeals t u → OnlySeals s u := by
  rintro ⟨x, rfl⟩ ⟨y, rfl⟩
  exact ⟨y, rfl⟩

theorem OnlyNotes.seals : OnlyNotes s t → OnlySeals s t := by
  rintro ⟨x, rfl⟩
  exact ⟨{ x with csn := s.csn, par := s.par, kst := s.kst }, rfl⟩

theorem OnlySeals.pit (h : OnlySeals s t) : t.pit = s.pit := by
  obtain ⟨x, rfl⟩ := h
  rfl

theorem OnlySeals.pitch (h : OnlySeals s t) (q : Nat) : t.pitch q = s.pitch q := by
  rw [State.pitch, h.pit, State.pitch]

theorem OnlySeals.blockOwner (h : OnlySeals s t) (n : Nat) : t.blockOwner n = s.blockOwner n := by
  rw [State.blockOwner, h.pit, State.blockOwner]

end

theorem tookCsn_onlySeals (s : State) : OnlySeals s (tookCsn s) := .of_eq rfl

theorem mirror_onlySeals (r : SkimRecord) (s : State) : OnlySeals s (mirror r s) := by
  simp only [mirror]
  split
  · exact .of_eq rfl
  · exact .refl s

theorem journalStart_onlySeals (s : State) : OnlySeals s (journalStart s) := by
  simp only [journalStart]
  split
  · exact .of_eq rfl
  · exact .refl s

theorem raise_onlySeals (src : Nat) (s : State) : OnlySeals s (raise src s) := (raise_onlyNotes src s).seals

theorem OnlySeals.ite {c : Prop} [Decidable c] {f : State → State} (hf : ∀ s, OnlySeals s (f s)) (s : State) :
    OnlySeals s (if c then f s else s) := by
  split
  · exact hf s
  · exact .refl s

/-- The state with one more record in the journal. -/
def journalled (what : Sealed) (csn : Nat) (s : State) : State :=
  { s with kst := { s.kst with journal := s.kst.journal ++ [{ csn := csn, what := what }] } }

theorem journalled_onlySeals (what : Sealed) (csn : Nat) (s : State) : OnlySeals s (journalled what csn s) := .of_eq rfl

theorem journal_onlySeals (what : Sealed) (csn : Nat) (s : State) : OnlySeals s (journal what csn s) :=
  ((journalled_onlySeals what csn s).trans (.ite (raise_onlySeals 363) _)).trans (.ite journalStart_onlySeals _)

theorem sealPitch_onlySeals (p c : Nat) (s : State) : OnlySeals s (sealPitch p c s) :=
  (journal_onlySeals _ c s).trans (mirror_onlySeals _ _)

/-! ## One pitch changed -/

@[simp] theorem pitch_updPitch_self (s : State) (p : Nat) (f : Pitch → Pitch) : (s.updPitch p f).pitch p = f (s.pitch p) :=
  smap_get_upd_self ({} : Pitch) s.pit.pitches p f

theorem pitch_updPitch_other (s : State) {p q : Nat} (f : Pitch → Pitch) (hq : q ≠ p) : (s.updPitch p f).pitch q = s.pitch q :=
  smap_get_upd_other ({} : Pitch) s.pit.pitches p q f hq

/-- `t` is `s` with `x` in place of pitch `p`. -/
def OnePitch (s : State) (p : Nat) (x : Pitch) (t : State) : Prop :=
  t.pitch p = x ∧ (∀ q, q ≠ p → t.pitch q = s.pitch q) ∧ t = { s with pit := { s.pit with pitches := t.pit.pitches } }

/-- `t` is `s` with `x` in place of pitch `p`, and with what a commit changes. -/
def PitchSealed (s : State) (p : Nat) (x : Pitch) (t : State) : Prop :=
  t.pitch p = x ∧ (∀ q, q ≠ p → t.pitch q = s.pitch q) ∧ t = { withSeals s t with pit := { s.pit with pitches := t.pit.pitches } }

section
variable {s t u : State} {p : Nat} {x : Pitch}

theorem updPitch_onePitch (s : State) (p : Nat) (f : Pitch → Pitch) : OnePitch s p (f (s.pitch p)) (s.updPitch p f) :=
  ⟨pitch_updPitch_self s p f, fun _ => pitch_updPitch_other s f, rfl⟩

theorem OnePitch.updPitch (h : OnePitch s p x t) (f : Pitch → Pitch) : OnePitch s p (f x) (t.updPitch p f) := by
  obtain ⟨hp, hothers, ht⟩ := h
  refine ⟨by rw [pitch_updPitch_self, hp], fun q hq => (pitch_updPitch_other t f hq).trans (hothers q hq), ?_⟩
  rw [ht]
  rfl

theorem OnePitch.pitchSealed (h : OnePitch s p x t) (hu : OnlySeals t u) : PitchSealed s p x u := by
  obtain ⟨hp, hothers, ht⟩ := h
  refine ⟨(hu.pitch p).trans hp, fun q hq => (hu.pitch q).trans (hothers q hq), ?_⟩
  obtain ⟨y, rfl⟩ := hu
  rw [ht]
  rfl

end

/-- A change by register, journalled and mirrored. -/
theorem sealNow_pitchSealed (s : State) (p : Nat) (f : Pitch → Pitch) :
    PitchSealed s p (f (s.pitch p)) (sealNow p (s.updPitch p f)) :=
  (updPitch_onePitch s p f).pitchSealed (sealPitch_onlySeals p _ _)

/-! ## Who may write -/

section
variable {s : State} {who : Who}

/-- The guard of the window registers passes what that of the others does. -/
theorem pitGuard_windows_of_may (h : PitMay s who) (f : State → State) : pitGuard who true f s = f s := by
  obtain ⟨hwho, hcut, -, -⟩ := h
  have hmay : (s.isOwner who || isSec who) = true := by simpa using hwho
  simp [pitGuard, hmay, fromHost, hcut]

theorem pitWrite_of_may (h : PitMay s who) (hfree : (s.pitch (s.selPitch who)).state ≠ .free) (window : Bool)
    (f : Nat → State → State) : pitWrite who window f s = f (s.selPitch who) s := by
  cases window with
  | false => simp only [pitWrite, pitGuard_of_may h, if_neg hfree]
  | true => simp only [pitWrite, pitGuard_windows_of_may h, if_neg hfree]

/-- A write for a FREE pitch (R63). -/
theorem pitWrite_free (h : PitMay s who) (hfree : (s.pitch (s.selPitch who)).state = .free) (f : Nat → State → State) :
    pitWrite who false f s = pitErr who 3 s := by
  simp only [pitWrite, pitGuard_of_may h, if_pos hfree]

/-- A write by anyone else (R58). -/
theorem pitGuard_other (howner : s.isOwner who = false) (hsec : isSec who = false) (window : Bool) (f : State → State) :
    pitGuard who window f s = s := by
  simp [pitGuard, howner, hsec]

end

/-! ## The writes past the guard -/

section
variable {s : State} {who : Who} {v : Word} (hmay : PitMay s who)
include hmay

theorem pitCtrlWrite_suspend (hstate : (s.pitch (s.selPitch who)).state = .active) (hs : v.getLsbD 0 = true) (hr : v.getLsbD 1 = false) :
    pitCtrlWrite who v s = sealNow (s.selPitch who) (s.updPitch (s.selPitch who) fun x => { x with state := .suspended }) := by
  rw [pitCtrlWrite, pitWrite_of_may hmay (by simp [hstate])]
  simp only [hstate, hs, hr, Bool.and_false, Bool.false_eq_true, reduceCtorEq, if_true, if_false, suspendPitch]

theorem pitCtrlWrite_resume (hstate : (s.pitch (s.selPitch who)).state = .suspended) (hs : v.getLsbD 0 = false)
    (hr : v.getLsbD 1 = true) :
    pitCtrlWrite who v s = sealNow (s.selPitch who) (s.updPitch (s.selPitch who) fun x => { x with state := .active }) := by
  rw [pitCtrlWrite, pitWrite_of_may hmay (by simp [hstate])]
  simp only [hstate, hs, hr, Bool.and_true, Bool.false_eq_true, reduceCtorEq, if_true, if_false, resumePitch]

theorem quotaWrite_free (hfree : (s.pitch (s.selPitch who)).state = .free) : quotaWrite who v s = pitErr who 3 s :=
  pitWrite_free hmay hfree _

section
variable (hfree : (s.pitch (s.selPitch who)).state ≠ .free)
include hfree

theorem quotaWrite_of_range (hlow : 1 ≤ v.toNat % 2 ^ 18) (hhigh : v.toNat % 2 ^ 18 ≤ 131072) :
    quotaWrite who v s = sealNow (s.selPitch who) (s.updPitch (s.selPitch who) fun x => { x with quota := v.toNat % 2 ^ 18 }) := by
  have hrange : ¬(v.toNat % 2 ^ 18 = 0 ∨ 131072 < v.toNat % 2 ^ 18) := by omega
  simp only [quotaWrite, pitWrite_of_may hmay hfree, if_neg hrange]

theorem quotaWrite_zero (hzero : v.toNat % 2 ^ 18 = 0) : quotaWrite who v s = pitErr who 1 s := by
  simp only [quotaWrite, pitWrite_of_may hmay hfree, if_pos (Or.inl hzero)]

theorem reserveWrite_of_range (hrange : v.toNat % 2 ^ 13 ≤ 4096)
    (hsum : s.reserveSum - (s.pitch (s.selPitch who)).reserve + v.toNat % 2 ^ 13 ≤ 65536) :
    reserveWrite who v s = sealNow (s.selPitch who) (s.updPitch (s.selPitch who) fun x => { x with reserve := v.toNat % 2 ^ 13 }) := by
  simp only [reserveWrite, pitWrite_of_may hmay hfree, if_neg (Nat.not_lt.mpr hrange), if_neg (Nat.not_lt.mpr hsum)]

theorem reserveWrite_beyond_range (hrange : 4096 < v.toNat % 2 ^ 13) : reserveWrite who v s = pitErr who 1 s := by
  simp only [reserveWrite, pitWrite_of_may hmay hfree, if_pos hrange]

theorem reserveWrite_beyond_sum (hrange : v.toNat % 2 ^ 13 ≤ 4096)
    (hsum : 65536 < s.reserveSum - (s.pitch (s.selPitch who)).reserve + v.toNat % 2 ^ 13) :
    reserveWrite who v s = pitErr who 2 s := by
  simp only [reserveWrite, pitWrite_of_may hmay hfree, if_neg (Nat.not_lt.mpr hrange), if_pos hsum]

end

end

end Sys2Proof.Machine

namespace Sys2Proof.Proofs

open Sys2Proof.Machine Sys2Proof.Safety

/-- Settles O29: past the guard each write is one sealed change of its pitch, or PIT_ERR; before it, nothing. -/
theorem pitchControl : Obligations.PitchControl := by
  unfold Obligations.PitchControl
  refine ⟨fun s who v p hmay hsel => ?permitted, fun s who v howner hsec c hc => ?other⟩
  case other =>
    have hstop : ∀ window f, pitGuard who window f s = s := fun window f => pitGuard_other howner hsec window f
    have hblocks : blkOwnerWrite who v s = s := by
      simp only [blkOwnerWrite, hstop, ite_self]
    simp only [List.mem_cons, List.not_mem_nil, or_false] at hc
    rcases hc with rfl | rfl | rfl | rfl | rfl | rfl | rfl
    case inr.inr.inr.inr.inr.inr => exact congrArg Host.Outcome.next hblocks
    all_goals exact congrArg Host.Outcome.next (hstop _ _)
  case permitted =>
    subst hsel
    have hsealed := sealNow_pitchSealed s (s.selPitch who)
    refine ⟨fun hstate hs hr => ⟨_, congrArg Host.Outcome.next (pitCtrlWrite_suspend hmay hstate hs hr), hsealed _⟩,
      fun hstate hs hr => ⟨_, congrArg Host.Outcome.next (pitCtrlWrite_resume hmay hstate hs hr), hsealed _⟩,
      fun hfree hlow hhigh => ⟨_, congrArg Host.Outcome.next (quotaWrite_of_range hmay hfree hlow hhigh), hsealed _⟩,
      fun hfree hrange hsum => ⟨_, congrArg Host.Outcome.next (reserveWrite_of_range hmay hfree hrange hsum), hsealed _⟩,
      fun hfree hrange => congrArg Host.Outcome.next (reserveWrite_beyond_range hmay hfree hrange),
      fun hfree hzero => congrArg Host.Outcome.next (quotaWrite_zero hmay hfree hzero),
      fun hfree hrange hsum => congrArg Host.Outcome.next (reserveWrite_beyond_sum hmay hfree hrange hsum), fun hfree => ?free⟩
    case free => exact ⟨congrArg Host.Outcome.next (pitWrite_free hmay hfree _), congrArg Host.Outcome.next (quotaWrite_free hmay hfree)⟩

end Sys2Proof.Proofs
end

section
/-! Cache shares, windows and slot blocks of a pitch (R47, R50, R52, R55, R171). -/

namespace Sys2Proof.Machine

open Sys2Proof.Safety

/-! ## Cache shares (R52, R171) -/

theorem bumpGen_of_noWrap {s : State} {p : Nat} (h : (s.pitch p).gen ≠ 0xFFFF) :
    bumpGen p s = s.updPitch p fun v => { v with gen := v.gen + 1 } := by
  simp only [bumpGen, if_neg h]

/-- The state with new shares of a pitch and its next generation. -/
def reshared (p kbc dkc : Nat) (s : State) : State :=
  (s.updPitch p fun v => { v with kbcCap := kbc, dkcCap := dkc }).updPitch p fun v => { v with gen := v.gen + 1 }

theorem reshared_onePitch (s : State) (p kbc dkc : Nat) :
    OnePitch s p { s.pitch p with kbcCap := kbc, dkcCap := dkc, gen := (s.pitch p).gen + 1 } (reshared p kbc dkc s) :=
  (updPitch_onePitch s p _).updPitch _

theorem setShares_of_room {s : State} {p kbc dkc : Nat} (hkbc : kbc ≤ 4096) (hdkc : dkc ≤ 8192)
    (hkbcSum : s.kbcSum - (s.pitch p).kbcCap + kbc ≤ 4096) (hdkcSum : s.dkcSum - (s.pitch p).dkcCap + dkc ≤ 8192)
    (hnew : kbc ≠ (s.pitch p).kbcCap) (hgen : (s.pitch p).gen ≠ 0xFFFF) :
    setShares p kbc dkc s = .ok (reshared p kbc dkc s) := by
  have hrange : ¬(4096 < kbc ∨ 8192 < dkc) := by omega
  have hsums : ¬(4096 < s.kbcSum - (s.pitch p).kbcCap + kbc ∨ 8192 < s.dkcSum - (s.pitch p).dkcCap + dkc) := by omega
  have hsame : ¬(kbc = (s.pitch p).kbcCap ∧ dkc = (s.pitch p).dkcCap) := fun h => hnew h.1
  simp only [setShares, if_neg hrange, if_neg hsums, if_neg hsame]
  rw [bumpGen_of_noWrap (by rw [pitch_updPitch_self]; exact hgen), reshared]

theorem serves_not_free {s : State} {p : Nat} (h : Serving s p) : (s.pitch p).state ≠ .free ∧ (s.pitch p).state ≠ .deleting := by
  rcases h with h | h <;> simp [h]

theorem cacheShareWrite_of_shares {s t : State} {who : Who} {v : Word} (hmay : PitMay s who) (hserves : Serving s (s.selPitch who))
    (hshares : setShares (s.selPitch who) (v.toNat % 2 ^ 13) (v.toNat / 2 ^ 16 % 2 ^ 14) s = .ok t) :
    cacheShareWrite who v s = sealNow (s.selPitch who) t := by
  obtain ⟨hfree, hdeleting⟩ := serves_not_free hserves
  simp only [cacheShareWrite, pitWrite_of_may hmay hfree, if_neg hdeleting, hshares]

/-! ## Windows (R50, R51) -/

section
variable {s : State} {who : Who} {v : Word} (hmay : PitMay s who) (hserves : Serving s (s.selPitch who)) (hv : v.getLsbD 0 = true)
include hmay hserves hv

theorem winCommit_ok (hset : windowSetOk (padWindows (s.pitch (s.selPitch who)).staged) = true) :
    winCommit who v s
      = s.updPitch (s.selPitch who) fun v => { v with live := padWindows v.staged, winSet := v.winSet + 1 } := by
  obtain ⟨hfree, hdeleting⟩ := serves_not_free hserves
  simp only [winCommit, pitWrite_of_may hmay hfree, hv, Bool.not_true, Bool.false_eq_true, if_false, if_neg hdeleting, if_pos hset]

theorem winCommit_refused (hset : windowSetOk (padWindows (s.pitch (s.selPitch who)).staged) = false) :
    winCommit who v s = pitErr who 4 s := by
  obtain ⟨hfree, hdeleting⟩ := serves_not_free hserves
  simp only [winCommit, pitWrite_of_may hmay hfree, hv, Bool.not_true, Bool.false_eq_true, if_false, if_neg hdeleting, hset]

end

/-! ## Slot blocks (R45, R47) -/

/-- The owner of a block as the map holds it. -/
def ownerAs (n p : BitVec 12) : BlockOwner := if p = n then .home else .other p

/-- The state in which block `n` belongs to pitch `p`, under the next CSN, before the journal has it. -/
def blockGiven (n p : BitVec 12) (s : State) : State :=
  { tookCsn s with pit := { s.pit with blocks := s.pit.blocks.set .home n.toNat (ownerAs n p) } }

theorem blockGiven_blockOwner_self (n p : BitVec 12) (s : State) : (blockGiven n p s).blockOwner n.toNat = some p.toNat := by
  by_cases h : p = n
  · simp [State.blockOwner, blockGiven, ownerAs, h]
  · simp [State.blockOwner, blockGiven, ownerAs, h]

theorem blockGiven_blockOwner_other (n p : BitVec 12) (s : State) {k : Nat} (hk : k ≠ n.toNat) :
    (blockGiven n p s).blockOwner k = s.blockOwner k := by
  simp only [State.blockOwner, blockGiven, smap_get_set_other _ _ _ _ _ hk]

section
variable {s : State} {who : Who} {v : Word} (hmay : PitMay s who) (hcsn : s.csnClosed = false)
  (howner : s.blockOwner (s.pitSel who).blk.toNat = some (s.pitSel who).blk.toNat) (hv : v.getLsbD 12 = false)
include hmay hcsn howner

theorem blkOwnerWrite_deleting (hdeleting : (s.pitch (s.pitSel who).blk.toNat).state = .deleting) :
    blkOwnerWrite who v s = pitErr who 3 s := by
  simp only [blkOwnerWrite, hcsn, pitGuard_of_may hmay, howner, hdeleting, decide_true, Bool.true_or, Bool.false_eq_true, if_false, if_true]

include hv

theorem blkOwnerWrite_occupied (hold : (s.pitch (s.pitSel who).blk.toNat).state ≠ .deleting)
    (hnew : (s.pitch (v.extractLsb' 0 12).toNat).state ≠ .deleting) (hused : s.blockUsed (s.pitSel who).blk.toNat ≠ 0) :
    blkOwnerWrite who v s = pitErr who 5 s := by
  simp only [blkOwnerWrite, hcsn, pitGuard_of_may hmay, howner, hv, Option.map_some, hold, hnew, hused, decide_false, Bool.or_self,
    Bool.false_eq_true, if_false, ne_eq, not_false_eq_true, if_true]

theorem blkOwnerWrite_empty (hold : (s.pitch (s.pitSel who).blk.toNat).state ≠ .deleting)
    (hnew : (s.pitch (v.extractLsb' 0 12).toNat).state ≠ .deleting) (hused : s.blockUsed (s.pitSel who).blk.toNat = 0) :
    blkOwnerWrite who v s
      = mirror (.block (s.pitSel who).blk (nextCsn s) (some (v.extractLsb' 0 12)))
          (journal (.block (s.pitSel who).blk (ownerAs (s.pitSel who).blk (v.extractLsb' 0 12))) (nextCsn s)
            (blockGiven (s.pitSel who).blk (v.extractLsb' 0 12) s)) := by
  simp only [blkOwnerWrite, hcsn, pitGuard_of_may hmay, howner, hv, Option.map_some, hold, hnew, hused, decide_false, Bool.or_self,
    Bool.false_eq_true, if_false, ne_eq, not_true_eq_false]
  rfl

end

/-- Block `n` is given to pitch `p`: what its map, the CSN and the rest of the state become. -/
theorem blockGiven_sealed {s t : State} {n p : BitVec 12} (h : OnlySeals (blockGiven n p s) t) :
    t.blockOwner n.toNat = some p.toNat ∧ (∀ k, k ≠ n.toNat → t.blockOwner k = s.blockOwner k)
      ∧ t = { withSeals s t with pit := { s.pit with blocks := t.pit.blocks } } := by
  refine ⟨(h.blockOwner _).trans (blockGiven_blockOwner_self n p s),
    fun k hk => (h.blockOwner k).trans (blockGiven_blockOwner_other n p s hk), ?_⟩
  obtain ⟨u, rfl⟩ := h
  rfl

end Sys2Proof.Machine

namespace Sys2Proof.Proofs

open Sys2Proof.Machine Sys2Proof.Safety

/-- Settles O30: new shares are one sealed change of the pitch, a committed window set one change without a seal, and a block's new owner
one entry of the block map under the next CSN. -/
theorem pitchSharesWindowsBlocks : Obligations.PitchSharesWindowsBlocks := by
  unfold Obligations.PitchSharesWindowsBlocks
  intro s who v p hmay hsel
  subst hsel
  refine ⟨fun hserves hkbc hdkc hkbcSum hdkcSum hnew hgen => ?shares, fun hserves hv => ⟨fun hset => ?windows, fun hset => ?overlap⟩,
    fun n hn hcsn hhome hv => ?blocks⟩
  case shares =>
    have hshares := setShares_of_room hkbc hdkc hkbcSum hdkcSum hnew hgen
    exact ⟨_, congrArg Host.Outcome.next (cacheShareWrite_of_shares hmay hserves hshares),
      (reshared_onePitch s _ _ _).pitchSealed (sealPitch_onlySeals _ _ _)⟩
  case windows => exact ⟨_, congrArg Host.Outcome.next (winCommit_ok hmay hserves hv hset), updPitch_onePitch s _ _⟩
  case overlap => exact congrArg Host.Outcome.next (winCommit_refused hmay hserves hv hset)
  case blocks =>
    subst hn
    have howner : s.blockOwner (s.pitSel who).blk.toNat = some (s.pitSel who).blk.toNat := by rw [State.blockOwner, hhome]
    have hnumber : v.toNat % 4096 = (v.extractLsb' 0 12).toNat := by simp [BitVec.extractLsb'_toNat]
    rw [hnumber]
    refine ⟨fun hused hold hnew => ?given, fun hdeleting => congrArg Host.Outcome.next (blkOwnerWrite_deleting hmay hcsn howner hdeleting),
      fun hused hold hnew => congrArg Host.Outcome.next (blkOwnerWrite_occupied hmay hcsn howner hv hold hnew hused)⟩
    case given =>
      obtain ⟨howns, hothers, hframe⟩ := blockGiven_sealed ((journal_onlySeals _ _ _).trans (mirror_onlySeals _ _))
      exact ⟨_, congrArg Host.Outcome.next (blkOwnerWrite_empty hmay hcsn howner hv hold hnew hused), howns, by simp [blockGiven, tookCsn],
        hothers, hframe⟩

end Sys2Proof.Proofs
end

section
/-! The making, deletion and freeing of a pitch (R34, R35, R54), and the gate of the messages that a quorum carries (R386 to R390). -/

namespace Sys2Proof.Machine

open Sys2Proof.Safety

/-! ## Records of the tally stay in its buffer (R459 to R463) -/

section
variable {r : TallyRec} {s : State}

theorem mem_buffer_enterBuffer (x : TallyRec) (h : r ∈ s.tly.buffer) : r ∈ (enterBuffer x s).tly.buffer := by
  rw [enterBuffer_buffer]
  exact List.mem_append_left _ h

theorem mem_buffer_tallyDrop (h : r ∈ s.tly.buffer) : r ∈ (tallyDrop s).tly.buffer := by simpa [tallyDrop] using h

theorem mem_buffer_tallyExempt (x : TallyRec) (h : r ∈ s.tly.buffer) : r ∈ (tallyExempt x s).tly.buffer := by
  simp only [tallyExempt]
  split
  · rw [startFlush_buffer]
    exact mem_buffer_enterBuffer x h
  · split
    · exact h
    · exact mem_buffer_tallyDrop h

theorem mem_buffer_tallyLimited (x : TallyRec) (h : r ∈ s.tly.buffer) : r ∈ (tallyLimited x s).tly.buffer := by
  simp only [tallyLimited]
  split
  · simpa using h
  · split
    · exact mem_buffer_enterBuffer _ h
    · exact mem_buffer_tallyDrop (s := { s with tly := { s.tly with missing := _ } }) h

theorem mem_buffer_tallyRec (code : BitVec 16) (actor : BitVec 6) (event : BitVec 10) (own : Option Nat) (payload : Bytes)
    (h : r ∈ s.tly.buffer) : r ∈ (tallyRec code actor event own payload s).tly.buffer := by
  simp only [tallyRec]
  split
  · exact mem_buffer_tallyExempt _ h
  · exact mem_buffer_tallyLimited _ h

end

theorem stamped_mem_tallyExempt {s : State} (hroom : ExemptRoom s) (r : TallyRec) : stamped r s ∈ (tallyExempt r s).tly.buffer := by
  simp only [tallyExempt, if_pos (show s.tly.buffer.length < 256 from hroom), startFlush_buffer]
  exact stamped_mem_enterBuffer r s

/-! ## Records and the DRBGs (R288, R289) -/

section
variable {r : TallyRec} {s : State}

theorem mem_buffer_drbgFailed (i : Nat) (kat : Bool) (h : r ∈ s.tly.buffer) : r ∈ (drbgFailed i kat s).tly.buffer := by
  simp only [drbgFailed, aerInternal_tly, raise_tly]
  exact mem_buffer_tallyRec _ _ _ _ _ h

theorem mem_buffer_drbgFail (i : Nat) (kat : Bool) (h : r ∈ s.tly.buffer) : r ∈ (drbgFail i kat s).tly.buffer := by
  apply mem_buffer_drbgFailed
  rw [updDrbg_tly]
  exact h

theorem mem_buffer_drbgStart (katOk : Bool) (i : Nat) (a b : Bytes) (h : r ∈ s.tly.buffer) :
    r ∈ (drbgStart katOk i a b s).tly.buffer := by
  simp only [drbgStart]
  split
  · rw [updDrbg_tly]
    exact h
  · apply mem_buffer_drbgFailed
    rw [updDrbg_tly]
    exact h

theorem mem_buffer_seedInstance (katOk : Bool) (i : Nat) (block : Bytes) (h : r ∈ s.tly.buffer) :
    r ∈ (seedInstance katOk i block s).tly.buffer := by
  simp only [seedInstance]
  split
  · exact h
  · split
    · exact h
    · exact mem_buffer_drbgStart _ _ _ _ h

theorem mem_buffer_drbgRequest (i n : Nat) (h : r ∈ s.tly.buffer) : r ∈ (drbgRequest i n s).tly.buffer := by
  have hserved : r ∈ (s.updDrbg i fun d => d.served n).tly.buffer := h
  simp only [drbgRequest, drbgLimit, drbgReseed]
  split
  · exact mem_buffer_drbgFail i false hserved
  · split
    · split
      · exact hserved
      · split
        · split
          · exact hserved
          · rw [raise_tly]
            exact hserved
        · exact mem_buffer_seedInstance (s := { s.updDrbg i _ with units := _ }) true i _ hserved
    · exact hserved

end

/-- An exempt record with room is recorded (R463). -/
theorem tallyRec_recorded {code : BitVec 16} (hcode : exemptCode code.toNat = true) {s : State} (hroom : ExemptRoom s)
    (actor : BitVec 6) (event : BitVec 10) (own : Option Nat) (payload : Bytes) :
    Recorded s (tallyRec code actor event own payload s) code payload := by
  simp only [tallyRec, hcode, if_true]
  exact ⟨_, stamped_mem_tallyExempt hroom _, rfl, rfl, rfl⟩

/-! ## The gate of the quorum (R386, R389, R390) -/

/-- `t` is `s` but for what the taking of a message changes: mailbox 0's acknowledge and its event, the message in assembly, the state of
the I3C link (R385, R386, R491). -/
def OnlyTaking (s t : State) : Prop :=
  ∃ u, t = { withEvents s u with mbx := u.mbx, own := { s.own with fragment := u.own.fragment, i3cSilent := u.own.i3cSilent } }

section
variable {s t u : State}

theorem OnlyTaking.of_eq
    (h : t = { withEvents s t with mbx := t.mbx, own := { s.own with fragment := t.own.fragment, i3cSilent := t.own.i3cSilent } }) :
    OnlyTaking s t := ⟨t, h⟩

theorem OnlyTaking.refl (s : State) : OnlyTaking s s := .of_eq rfl

theorem OnlyTaking.trans : OnlyTaking s t → OnlyTaking t u → OnlyTaking s u := by
  rintro ⟨x, rfl⟩ ⟨y, rfl⟩
  exact ⟨y, rfl⟩

theorem OnlyEvents.taking : OnlyEvents s t → OnlyTaking s t := by
  rintro ⟨x, rfl⟩
  exact ⟨{ x with mbx := s.mbx, own := s.own }, rfl⟩

end

theorem heard_onlyTaking (who : Who) (s : State) : OnlyTaking s (heard who s) := by
  simp only [heard]
  split
  · exact .of_eq rfl
  · exact .refl s

theorem zack_onlyTaking (who : Who) (code : BitVec 16) (s : State) : OnlyTaking s (zack who code s) := by
  simp only [zack]
  split
  · exact (OnlyTaking.of_eq rfl : OnlyTaking s (s.updBox 0 _)).trans (raise_onlyEvents _ _).taking
  · exact .refl s

/-- The state in which a message that is taken is carried out: its sender acknowledged, no message in assembly. -/
def State.taken (s : State) (h : ZHdr) : State :=
  zack h.sender 1 { heard h.sender s with own := { (heard h.sender s).own with fragment := none } }

theorem taken_onlyTaking (s : State) (h : ZHdr) : OnlyTaking s (s.taken h) :=
  ((heard_onlyTaking h.sender s).trans (.of_eq rfl)).trans (zack_onlyTaking _ _ _)

/-- A message that is carried out reaches its own work. -/
theorem zmessage_carried {s : State} {h : ZHdr} (hc : Carried s h) (ty : BitVec 16) (always writes : Bool) (f : State → State) :
    zmessage ty h always writes f s = f (s.taken h) := by
  obtain ⟨⟨howner, hcsn, hminimal⟩, hcarries, hopened⟩ := hc
  obtain ⟨x, hx⟩ := heard_onlyTaking h.sender s
  obtain ⟨y, hy⟩ := taken_onlyTaking s h
  have howner' : (heard h.sender s).isOwner h.sender = true := by rw [hx]; exact howner
  have hcsn' : (heard h.sender s).csnClosed = false := by rw [hx]; exact hcsn
  have hminimal' : (s.taken h).glb.minimal = false := by rw [hy]; exact hminimal
  have hcarries' : (s.taken h).carriesOut = true := by rw [hy]; exact hcarries
  have hopened' : (s.taken h).kst.opened = true := by rw [hy]; exact hopened
  simp only [State.taken] at hminimal' hcarries' hopened' ⊢
  simp only [zmessage, howner', hcsn', hminimal', hcarries', hopened', Bool.not_true, Bool.or_self, Bool.and_false, Bool.false_and,
    Bool.false_eq_true, if_false]

/-- The state in which the change of a gated message is made: its nonce ended, the next CSN taken, QUORUM_OK recorded. -/
def State.gatedBy (s : State) (ty : BitVec 16) (h : ZHdr) : State :=
  tallyRec 0x0303 s.own.owner 0x3FF (some (s.csn + 1)) (toLE 2 ty.toNat ++ toLE 2 h.target.toNat ++ toLE 2 (officerMap h.sigs))
    (tookCsn (endNonce h.nonce (s.taken h)))

/-- A gated message whose quorum holds makes its change. -/
theorem zmessage_gated {s : State} {ty : BitVec 16} {h : ZHdr} {house : Bool} (hg : Gated s ty h house) (always writes : Bool)
    (f : Nat → State → ZAns) :
    zmessage ty h always writes (zgate ty h house f) s
      = zfinish ty h (f (s.csn + 1) (s.gatedBy ty h)) (endNonce h.nonce (s.taken h)) := by
  obtain ⟨hcarried, -, hnonce, r, hroster, hquorum⟩ := hg
  rw [zmessage_carried hcarried]
  obtain ⟨y, hy⟩ := taken_onlyTaking s h
  have hnonce' : ((s.taken h).nonceFor h).isSome = true := by rw [hy]; exact hnonce
  have hroster' : (s.taken h).rosterFor house h.target = some r := by rw [hy]; exact hroster
  have hcsn : (s.taken h).csn = s.csn := by rw [hy]; rfl
  have howner : (s.taken h).own.owner = s.own.owner := by rw [hy]
  obtain ⟨c, hc⟩ := Option.isSome_iff_exists.mp hnonce'
  have hnext : nextCsn (endNonce h.nonce (s.taken h)) = s.csn + 1 := congrArg (· + 1) hcsn
  have hactor : (endNonce h.nonce (s.taken h)).own.owner = s.own.owner := howner
  simp only [zgate, zquorum, zquorumL, hc, hroster', hquorum, Bool.and_true, if_true, hnext, hactor, zfinish, State.gatedBy]

/-- A gated message whose change is made is answered with its body. -/
theorem zmessage_gated_ok {s t : State} {ty : BitVec 16} {h : ZHdr} {house : Bool} (hg : Gated s ty h house) (always writes : Bool)
    {f : Nat → State → ZAns} {b : Bytes} (hf : f (s.csn + 1) (s.gatedBy ty h) = .ok (b, t)) :
    zmessage ty h always writes (zgate ty h house f) s = zreply ty h 0 b t := by
  rw [zmessage_gated hg, hf]
  rfl

theorem zreply_replied (ty : BitVec 16) (h : ZHdr) (status : BitVec 16) (b : Bytes) (s : State) :
    Replied (zreply ty h status b s) ty h status b := List.getLast?_concat

/-- `t` is `s` but for what a message that is carried out changes beside its own part, the PIT errors left. -/
def OnlyMessage (s t : State) : Prop :=
  ∃ u, t = { withSeals s u with
    mbx := u.mbx, own := { s.own with fragment := u.own.fragment, ceremonies := u.own.ceremonies, i3cSilent := u.own.i3cSilent } }

section
variable {s t u : State}

theorem OnlyMessage.of_eq
    (h : t = { withSeals s t with
      mbx := t.mbx, own := { s.own with fragment := t.own.fragment, ceremonies := t.own.ceremonies, i3cSilent := t.own.i3cSilent } }) :
    OnlyMessage s t := ⟨t, h⟩

theorem OnlyMessage.trans : OnlyMessage s t → OnlyMessage t u → OnlyMessage s u := by
  rintro ⟨x, rfl⟩ ⟨y, rfl⟩
  exact ⟨y, rfl⟩

theorem OnlyTaking.message : OnlyTaking s t → OnlyMessage s t := by
  rintro ⟨x, rfl⟩
  exact .of_eq rfl

theorem OnlySeals.message : OnlySeals s t → OnlyMessage s t := by
  rintro ⟨x, rfl⟩
  exact .of_eq rfl

theorem OnlyMessage.pit (h : OnlyMessage s t) : t.pit = s.pit := by
  obtain ⟨x, rfl⟩ := h
  rfl

theorem OnlyMessage.pitch (h : OnlyMessage s t) (q : Nat) : t.pitch q = s.pitch q := by
  rw [State.pitch, h.pit, State.pitch]

end

theorem endNonce_onlyMessage (n : Bytes) (s : State) : OnlyMessage s (endNonce n s) := .of_eq rfl

theorem gatedBy_onlyMessage (s : State) (ty : BitVec 16) (h : ZHdr) : OnlyMessage s (s.gatedBy ty h) := by
  have hended := (taken_onlyTaking s h).message.trans (endNonce_onlyMessage h.nonce _)
  have htook := hended.trans (tookCsn_onlySeals _).message
  exact htook.trans (tallyRec_onlyNotes _ _ _ _ _ _).seals.message

section
variable (ty : BitVec 16) (h : ZHdr) (status : BitVec 16) (b : Bytes) (s : State)

@[simp] theorem zreply_pitch (q : Nat) : (zreply ty h status b s).pitch q = s.pitch q := rfl

@[simp] theorem zreply_csn : (zreply ty h status b s).csn = s.csn := rfl

@[simp] theorem zreply_tly : (zreply ty h status b s).tly = s.tly := rfl

end

theorem zreply_onlySeals (ty : BitVec 16) (h : ZHdr) (status : BitVec 16) (b : Bytes) (s : State) :
    OnlySeals s (zreply ty h status b s) := .of_eq rfl

/-- A message that changes one pitch changes nothing else of the PIT. -/
theorem OnlyMessage.updPitch_frame {s t u : State} {p : Nat} {f : Pitch → Pitch} (h : OnlyMessage s u)
    (ht : OnlySeals (u.updPitch p f) t) : t = { withMessage s t with pit := { s.pit with pitches := t.pit.pitches } } := by
  obtain ⟨x, rfl⟩ := h
  obtain ⟨y, rfl⟩ := ht
  rfl

theorem gatedBy_csn (s : State) (ty : BitVec 16) (h : ZHdr) : (s.gatedBy ty h).csn = s.csn + 1 := by
  obtain ⟨y, hy⟩ := taken_onlyTaking s h
  have hcsn : (s.taken h).csn = s.csn := by rw [hy]; rfl
  simp [State.gatedBy, tookCsn, endNonce, hcsn]

theorem gatedBy_recorded {s : State} (hroom : ExemptRoom s) (ty : BitVec 16) (h : ZHdr) :
    Recorded s (s.gatedBy ty h) 0x0303 (toLE 2 ty.toNat ++ toLE 2 h.target.toNat ++ toLE 2 (officerMap h.sigs)) := by
  obtain ⟨y, hy⟩ := taken_onlyTaking s h
  have htly : (tookCsn (endNonce h.nonce (s.taken h))).tly = s.tly := by rw [tookCsn, endNonce, hy]; rfl
  have hroom' : ExemptRoom (tookCsn (endNonce h.nonce (s.taken h))) := by rw [ExemptRoom, htly]; exact hroom
  obtain ⟨r, hmem, hnumber, hrec⟩ := tallyRec_recorded (code := 0x0303) (by decide) hroom' s.own.owner 0x3FF (some (s.csn + 1)) _
  exact ⟨r, hmem, hnumber.trans (by rw [htly]), hrec⟩

/-! ## Creation (R34) -/

theorem State.pitch_congr {s t : State} (h : t.pit = s.pit) (q : Nat) : t.pitch q = s.pitch q := by
  rw [State.pitch, h, State.pitch]

/-- The pitch that a creation makes: the values of the message, and of the number what stays. -/
def madeOf (x : Pitch) (k : Bytes) (o : Pitch) : Pitch :=
  { x with gen := o.gen, bindA := o.bindA, bindB := o.bindB, fnA := o.fnA, fnB := o.fnB, winSet := o.winSet, ctxKey := some k }

/-- The state in which the pitch stands, its context key drawn, before the record and the journal. -/
def pitchMade (p : Nat) (x : Pitch) (s : State) : State := (drbgRequest 9 32 s).updPitch p fun o => madeOf x (s.drbgOut 9 32) o

theorem pitchMade_pitch (p : Nat) (x : Pitch) (s : State) :
    (pitchMade p x s).pitch p = madeOf x (s.drbgOut 9 32) (s.pitch p)
      ∧ ∀ q, q ≠ p → (pitchMade p x s).pitch q = s.pitch q := by
  have hdrawn : ∀ q, (drbgRequest 9 32 s).pitch q = s.pitch q := fun q => by rw [State.pitch, drbgRequest_pit, State.pitch]
  exact ⟨by rw [pitchMade, pitch_updPitch_self, hdrawn], fun q hq => by rw [pitchMade, pitch_updPitch_other _ _ hq, hdrawn]⟩

/-- The record of a creation, and the seals of the pitch, its roster and its context key. -/
def creationSealed (target : BitVec 16) (x : Pitch) (r : Roster) (k : Bytes) (c : Nat) (s : State) : State :=
  let n := BitVec.ofNat 12 target.toNat
  let s := sealPitch target.toNat c (tallyRec 0x0401 s.own.owner 0x3FF (some c) (toLE 2 target.toNat ++ [x.pers.setWidth 8]) s)
  let s := mirror (.roster target c r) (journal (.roster target (some r)) c s)
  mirror (.contextKey n c k 0) (journal (.contextKey n (some k) 0) c s)

section
variable (target : BitVec 16) (x : Pitch) (r : Roster) (k : Bytes) (c : Nat) (s : State)

theorem creationSealed_pit : (creationSealed target x r k c s).pit = s.pit := by simp [creationSealed]

theorem creationSealed_csn : (creationSealed target x r k c s).csn = s.csn := by simp [creationSealed]

theorem mem_buffer_creationSealed {y : TallyRec} (h : y ∈ s.tly.buffer) : y ∈ (creationSealed target x r k c s).tly.buffer := by
  simp only [creationSealed, mirror_tly, journal_tly, sealPitch_tly]
  exact mem_buffer_tallyRec _ _ _ _ _ h

end

/-- The state in which a creation ends, but for its reply. -/
def State.created (s : State) (target : BitVec 16) (x : Pitch) (r : Roster) (c : Nat) : State :=
  creationSealed target x r (s.drbgOut 9 32) c (pitchMade target.toNat x s)

section
variable (s : State) (target : BitVec 16) (x : Pitch) (r : Roster) (c : Nat)

theorem created_pitch_self :
    (s.created target x r c).pitch target.toNat = madeOf x (s.drbgOut 9 32) (s.pitch target.toNat) := by
  rw [State.created, State.pitch_congr (creationSealed_pit ..), (pitchMade_pitch target.toNat x s).1]

theorem created_pitch_other {q : Nat} (hq : q ≠ target.toNat) : (s.created target x r c).pitch q = s.pitch q := by
  rw [State.created, State.pitch_congr (creationSealed_pit ..), (pitchMade_pitch target.toNat x s).2 q hq]

theorem created_csn : (s.created target x r c).csn = s.csn := by
  rw [State.created, creationSealed_csn, pitchMade, updPitch_csn, drbgRequest_csn]

theorem mem_buffer_created {y : TallyRec} (h : y ∈ s.tly.buffer) : y ∈ (s.created target x r c).tly.buffer := by
  rw [State.created]
  apply mem_buffer_creationSealed
  rw [pitchMade, updPitch_tly]
  exact mem_buffer_drbgRequest 9 32 h

end

/-- A creation within its bounds answers its CSN. -/
theorem createPitch_ok {s : State} {target : BitVec 16} {v : PitchValues} {x : Pitch} {r : Roster} (c : Nat)
    (hlcs : s.lcsState = 2 ∨ s.lcsState = 3) (htarget : target.toNat < 4096) (hfree : (s.pitch target.toNat).state = .free)
    (hmade : createdPitch s v = some (x, r)) (hreserve : s.reserveSum + x.reserve ≤ 65536) (hkbc : s.kbcSum + x.kbcCap ≤ 4096)
    (hdkc : s.dkcSum + x.dkcCap ≤ 8192) :
    createPitch target v c s = .ok (toLE 8 c, s.created target x r c) := by
  have hstate : (!(decide (s.lcsState = 2) || decide (s.lcsState = 3))) = false := by
    rw [Bool.not_eq_false', Bool.or_eq_true, decide_eq_true_eq, decide_eq_true_eq]
    exact hlcs
  have hused : ¬(target.toNat < 4096 ∧ (s.pitch target.toNat).state ≠ .free) := fun h => h.2 hfree
  have hsums : ¬(65536 < s.reserveSum + x.reserve ∨ 4096 < s.kbcSum + x.kbcCap ∨ 8192 < s.dkcSum + x.dkcCap) := by omega
  simp only [createPitch, hstate, Bool.false_eq_true, if_false, if_neg hused, if_neg (Nat.not_le.mpr htarget), hmade, if_neg hsums,
    draw9, State.created, creationSealed, pitchMade, madeOf]

theorem defaultCfg : Rwi.of (BitVec.ofNat 32 (7 * 256 + 1)) = ⟨0x701, 0xFFFFF8FE⟩ := by decide

/-- The values of a message that names a personality and a roster alone are the defaults (R34). -/
theorem createdPitch_defaults {s : State} {r : Roster} (hr : s.rosterOk r = true) (p : BitVec 2) :
    ∃ x, createdPitch s { personality := some (p.setWidth 8), roster := some r } = some (x, r) ∧ x.state = .active ∧ x.pers = p
      ∧ x.quota = 32 ∧ x.reserve = 0 ∧ x.weight = 16 ∧ x.kbcCap = 1 ∧ x.dkcCap = (if p = 0 then 2 else 0)
      ∧ x.cfg = ⟨0x701, 0xFFFFF8FE⟩ ∧ x.roster = some r := by
  have hpers : (p.setWidth 8).extractLsb' 0 2 = p := by
    revert p
    decide
  have hzero : p.setWidth 8 = 0 ↔ p = 0 := by
    revert p
    decide
  have hknown : ¬4 ≤ (p.setWidth 8).toNat := by
    revert p
    decide
  refine ⟨_, if_neg ?_, rfl, hpers, rfl, rfl, rfl, rfl, ?_, defaultCfg, rfl⟩
  · simp only [Option.getD_none, hr, hknown, hzero]
    split <;> decide
  · simp only [Option.getD_none, hzero]

/-! ## Deletion (R54) -/

theorem deletePitch_ok {s : State} {target : BitVec 16} (c : Nat) (htarget : target.toNat < 4096) (hserves : Serving s target.toNat) :
    deletePitch target c s
      = .ok (toLE 8 c, sealPitch target.toNat c
          (s.updPitch target.toNat fun v => { v with state := .deleting, delStep := 0, exportAuth := none })) := by
  have hpass : ¬(4096 ≤ target.toNat ∨ ¬((s.pitch target.toNat).state = .active ∨ (s.pitch target.toNat).state = .suspended)) := by
    rw [not_or, not_not]
    exact ⟨Nat.not_le.mpr htarget, hserves⟩
  simp only [deletePitch, if_neg hpass]

/-- The pitch of the end of a deletion (R54 step 7). -/
def freed (v : Pitch) : Pitch := { gen := v.gen, bindA := v.bindA, bindB := v.bindB, fnA := v.fnA, fnB := v.fnB, winSet := v.winSet }

/-- The state in which a deletion ends (R54 step 7). -/
def freedState (p : Nat) (s : State) : State :=
  sealPitch p (s.csn + 1) (tallyRec 0x0402 0 0x3FF (some (s.csn + 1)) (toLE 2 p ++ toLE 4 ((s.pitch p).delStep - 1))
    ((tookCsn s).updPitch p freed))

theorem pitchFreed_eq {s : State} {p : Nat} (hstate : (s.pitch p).state = .deleting) (hstep : (s.pitch p).delStep ≠ 0)
    (hsweeps : s.caches.sweeps = []) (hpending : s.removalPending p = false) (hcsn : s.csnClosed = false) :
    pitchFreed p s = freedState p s := by
  have hdue : (s.pitch p).state = .deleting ∧ (s.pitch p).delStep ≠ 0 ∧ ¬s.caches.sweeps.any (fun x => x.1.toNat = p)
      ∧ ¬s.removalPending p ∧ ¬s.csnClosed := by
    simp [hstate, hstep, hsweeps, hpending, hcsn]
  simp only [pitchFreed, if_pos hdue]
  rfl

theorem freed_sealed (s : State) (p : Nat) : PitchSealed s p (freed (s.pitch p)) (freedState p s) := by
  refine (updPitch_onePitch s p freed).pitchSealed ?_
  have htook : OnlySeals (s.updPitch p freed) ((tookCsn s).updPitch p freed) := .of_eq rfl
  exact (htook.trans (tallyRec_onlyNotes _ _ _ _ _ _).seals).trans (sealPitch_onlySeals _ _ _)

theorem freedState_csn (p : Nat) (s : State) : (freedState p s).csn = s.csn + 1 := by simp [freedState, tookCsn]

theorem freedState_recorded {s : State} (hroom : ExemptRoom s) (p : Nat) :
    Recorded s (freedState p s) 0x0402 (toLE 2 p ++ toLE 4 ((s.pitch p).delStep - 1)) := by
  rw [Recorded, freedState, sealPitch_tly]
  exact tallyRec_recorded (s := (tookCsn s).updPitch p freed) (by decide) hroom _ _ _ _

/-! ## A drained deletion (R54 steps 3 to 6) -/

section
variable {s t u : State}

theorem OnlySeals.cq (h : OnlySeals s t) (p : Nat) : t.cq p = s.cq p := by
  obtain ⟨x, rfl⟩ := h
  rfl

theorem OnlySeals.slots (h : OnlySeals s t) : t.kst.slots = s.kst.slots := by
  obtain ⟨x, rfl⟩ := h
  rfl

end

theorem foldl_onlySeals {α : Type} {f : State → α → State} (hf : ∀ s x, OnlySeals s (f s x)) :
    ∀ (l : List α) (s : State), OnlySeals s (l.foldl f s)
  | [], s => .refl s
  | x :: l, s => (hf s x).trans (foldl_onlySeals hf l _)

section
variable {s t : State}

theorem OnlySeals.journal (h : OnlySeals s t) (what : Sealed) (c : Nat) : OnlySeals s (journal what c t) :=
  h.trans (journal_onlySeals what c t)

theorem OnlySeals.mirror (h : OnlySeals s t) (r : SkimRecord) : OnlySeals s (mirror r t) := h.trans (mirror_onlySeals r t)

end

theorem removePitch_onlySeals (p : Nat) (s : State) : OnlySeals s (removePitch p s) := by
  simp only [removePitch]
  apply OnlySeals.journal
  apply OnlySeals.journal
  apply OnlySeals.mirror
  exact journal_onlySeals _ _ s

/-- The state with the slots of a pitch's blocks emptied, before the journal has them. -/
def slotsEmptied (p : Nat) (s : State) : State := { s with kst := { s.kst with slots := s.kst.slots.mapv {} (emptySlotOf s p) } }

theorem emptySlots_onlySeals (p : Nat) (s : State) : OnlySeals (slotsEmptied p s) (emptySlots p s) := by
  simp only [emptySlots]
  exact foldl_onlySeals (fun s e => (journal_onlySeals _ _ s).mirror _) _ _

/-- A slot of the pitch's blocks is empty after the emptying (R54 step 4). -/
theorem slotKind_emptySlotOf {s : State} {p n : Nat} (howner : s.blockOwner (n / 64) = some p) (v : Slot) :
    slotKind (emptySlotOf s p n v) = 0 := by
  simp only [emptySlotOf, howner, true_and]
  split
  · rfl
  · next h => exact not_not.mp h

/-- The pitch of the start of step 6. -/
def drained (slots : Nat) (v : Pitch) : Pitch :=
  { v with kbcCap := 0, dkcCap := 0, reserve := 0, pmk := [none, none, none, none], delStep := slots + 1 }

theorem pitchDeleteDrained_eq {s : State} {p : Nat} (hstate : (s.pitch p).state = .deleting) (hflight : (s.pitch p).inFlight = 0)
    (hstep : (s.pitch p).delStep = 0) (hwaits : s.storeWaits = false) :
    pitchDeleteDrained p s
      = removePitch p ((bumpGen p (emptySlots p (releaseRings p s))).updPitch p (drained (s.slotsUsed p))) := by
  have hdue : (s.pitch p).state = .deleting ∧ (s.pitch p).inFlight = 0 ∧ (s.pitch p).delStep = 0 ∧ ¬s.storeWaits := by
    simp [hstate, hflight, hstep, hwaits]
  simp only [pitchDeleteDrained, if_pos hdue]
  rfl

/-- What an advance of the generation changes beside it: the caches. -/
theorem bumpGen_onlyCaches (p : Nat) (s : State) :
    ∃ c, bumpGen p s = { s.updPitch p fun v => { v with gen := v.gen + 1 } with caches := c } := by
  simp only [bumpGen]
  split
  · exact ⟨_, rfl⟩
  · exact ⟨s.caches, rfl⟩

theorem foldl_updSq_onlyRings (p : Nat) (l : List Nat) (s : State) :
    ∃ x, l.foldl (fun s i => s.updSq p i fun _ => {}) s = { s with rqe := { s.rqe with sqs := x } } := by
  induction l generalizing s with
  | nil => exact ⟨s.rqe.sqs, rfl⟩
  | cons i l ih => exact ih _

/-- What the release of the rings leaves (R54 step 3). -/
theorem releaseRings_facts (p : Nat) (s : State) :
    (releaseRings p s).pitch p = { s.pitch p with live := [], staged := [] } ∧ (releaseRings p s).cq p = {}
      ∧ (releaseRings p s).kst = s.kst ∧ (releaseRings p s).pit.blocks = s.pit.blocks := by
  obtain ⟨x, hx⟩ := foldl_updSq_onlyRings p (List.range 4) s
  simp only [releaseRings, hx]
  exact ⟨pitch_updPitch_self _ _ _, smap_get_upd_self ({} : Cq) s.rqe.cqs p fun _ => {}, rfl, rfl⟩

theorem blockOwner_of_blocks {s t : State} (h : t.pit.blocks = s.pit.blocks) : t.blockOwner = s.blockOwner := by
  funext n
  rw [State.blockOwner, h, State.blockOwner]

/-- What is left of a drained pitch, and of the store, when its removals enter the journal (R54 steps 3 to 6). -/
theorem pitchDeleteDrained_facts {s : State} {p : Nat} (hstate : (s.pitch p).state = .deleting) (hflight : (s.pitch p).inFlight = 0)
    (hstep : (s.pitch p).delStep = 0) (hwaits : s.storeWaits = false) :
    (pitchDeleteDrained p s).pitch p
        = drained (s.slotsUsed p) { s.pitch p with live := [], staged := [], gen := (s.pitch p).gen + 1 }
      ∧ (pitchDeleteDrained p s).cq p = {} ∧ (pitchDeleteDrained p s).blockOwner = s.blockOwner
      ∧ (pitchDeleteDrained p s).kst.slots = s.kst.slots.mapv {} (emptySlotOf s p) := by
  obtain ⟨hpitch, hcq, hkst, hblocks⟩ := releaseRings_facts p s
  have hempty := emptySlots_onlySeals p (releaseRings p s)
  obtain ⟨x, hbump⟩ := bumpGen_onlyCaches p (emptySlots p (releaseRings p s))
  have hremove := removePitch_onlySeals p ((bumpGen p (emptySlots p (releaseRings p s))).updPitch p (drained (s.slotsUsed p)))
  rw [pitchDeleteDrained_eq hstate hflight hstep hwaits]
  generalize emptySlots p (releaseRings p s) = u at hempty hbump hremove ⊢
  refine ⟨?_, ?_, ?_, ?_⟩
  · have hgen : (bumpGen p u).pitch p
        = { s.pitch p with live := [], staged := [], gen := (s.pitch p).gen + 1 } := by
      rw [hbump]
      refine (pitch_updPitch_self u p _).trans ?_
      rw [hempty.pitch, show (slotsEmptied p (releaseRings p s)).pitch p = _ from hpitch]
    rw [hremove.pitch, pitch_updPitch_self, hgen]
  · rw [hremove.cq, hbump]
    exact (hempty.cq p).trans hcq
  · refine blockOwner_of_blocks ?_
    rw [hremove.pit, hbump]
    exact (congrArg Pit.blocks hempty.pit).trans hblocks
  · rw [hremove.slots, hbump]
    refine hempty.slots.trans ?_
    have howners : emptySlotOf (releaseRings p s) p = emptySlotOf s p := by
      funext n v
      simp only [emptySlotOf, blockOwner_of_blocks hblocks]
    rw [slotsEmptied, howners, hkst]

/-- No slot of the pitch is left (R54 step 4). -/
theorem slotsUsed_of_emptied {s t : State} {p : Nat} (howners : t.blockOwner = s.blockOwner)
    (hslots : t.kst.slots = s.kst.slots.mapv {} (emptySlotOf s p)) : t.slotsUsed p = 0 := by
  rw [State.slotsUsed, hslots, howners, List.length_eq_zero_iff, List.filter_eq_nil_iff]
  rintro ⟨n, v⟩ hmem
  obtain ⟨⟨m, w⟩, -, hw⟩ := List.mem_filterMap.mp hmem
  obtain ⟨-, hpair⟩ := Option.ite_none_left_eq_some.mp hw
  obtain ⟨rfl, rfl⟩ := Prod.mk.inj (Option.some.inj hpair)
  by_cases howner : s.blockOwner (m / 64) = some p
  · simp [slotKind_emptySlotOf howner]
  · simp [howner]

/-- The slots of the others stay. -/
theorem mem_emptied {s : State} {p : Nat} {e : Nat × Slot} (hmem : e ∈ s.kst.slots) (howner : s.blockOwner (e.1 / 64) ≠ some p)
    (hval : e.2 ≠ {}) : e ∈ s.kst.slots.mapv {} (emptySlotOf s p) := by
  have hsame : emptySlotOf s p e.1 e.2 = e.2 := if_neg fun h => howner h.1
  exact List.mem_filterMap.mpr ⟨e, hmem, by rw [hsame, if_neg hval]⟩

end Sys2Proof.Machine

namespace Sys2Proof.Proofs

open Sys2Proof.Machine Sys2Proof.Safety

/-- Settles O31: a creation and a deletion are the changes of gated messages; a drained pitch and a freed one follow from what each step of
the removal leaves. -/
theorem pitchLifetime : Obligations.PitchLifetime := by
  unfold Obligations.PitchLifetime
  refine ⟨fun s h v x r hg htarget hlcs hfree hmade hreserve hkbc hdkc => ?create, fun s p r hr => createdPitch_defaults hr p,
    fun s h hg htarget hserves => ?delete, fun s p hstate hflight hstep hwaits => ?drained,
    fun s p hstate hstep hsweeps hpending hcsn hroom => ?freed⟩
  case create =>
    obtain ⟨u, hu⟩ := gatedBy_onlyMessage s 0x0010 h
    have hok := createPitch_ok (s := s.gatedBy 0x0010 h) (x := x) (r := r) (v := v) (target := h.target) (s.csn + 1)
      (by rw [hu]; exact hlcs) htarget (by rw [hu]; exact hfree) (by rw [hu]; exact hmade) (by rw [hu]; exact hreserve)
      (by rw [hu]; exact hkbc) (by rw [hu]; exact hdkc)
    obtain ⟨y, hmem, hrecord⟩ := gatedBy_recorded hg.2.1 0x0010 h
    have hpitches := (gatedBy_onlyMessage s 0x0010 h).pitch
    refine ⟨_, (s.gatedBy 0x0010 h).drbgOut 9 32, congrArg Host.Outcome.next (zmessage_gated_ok hg false true hok),
      zreply_replied _ _ _ _ _, ?csn, ?self, fun q hq => ?other, y, ?record, hrecord⟩
    case csn => rw [zreply_csn, created_csn, gatedBy_csn]
    case self => rw [zreply_pitch, created_pitch_self, hpitches, madeOf]
    case other => rw [zreply_pitch, created_pitch_other _ _ _ _ _ hq, hpitches]
    case record =>
      rw [zreply_tly]
      exact mem_buffer_created _ _ _ _ _ hmem
  case delete =>
    have hgated := gatedBy_onlyMessage s 0x0011 h
    have hserves' : Serving (s.gatedBy 0x0011 h) h.target.toNat := by
      rw [Serving, hgated.pitch]
      exact hserves
    have hok := deletePitch_ok (s.csn + 1) htarget hserves'
    refine ⟨_, congrArg Host.Outcome.next (zmessage_gated_ok hg false true hok), zreply_replied _ _ _ _ _, ?self, ?frame⟩
    case self => rw [zreply_pitch, (sealPitch_onlySeals _ _ _).pitch, pitch_updPitch_self, hgated.pitch]
    case frame => exact hgated.updPitch_frame ((sealPitch_onlySeals _ _ _).trans (zreply_onlySeals _ _ _ _ _))
  case drained =>
    obtain ⟨hpitch, hcq, howners, hslots⟩ := pitchDeleteDrained_facts hstate hflight hstep hwaits
    refine ⟨_, rfl, ?_⟩
    rw [hpitch]
    exact ⟨rfl, rfl, rfl, rfl, rfl, slotsUsed_of_emptied howners hslots, rfl, hcq,
      fun e hmem howner hval => hslots ▸ mem_emptied hmem howner hval⟩
  case freed =>
    obtain ⟨hself, hothers, hframe⟩ := freed_sealed s p.toNat
    exact ⟨_, congrArg Host.Outcome.next (pitchFreed_eq hstate hstep hsweeps hpending hcsn), hself, hothers, freedState_csn _ s,
      freedState_recorded hroom _, hframe⟩

end Sys2Proof.Proofs
end

section
/-! Selection and dispatch (R57, R317 to R325). -/

namespace Sys2Proof.Machine

open Sys2Proof.Safety

/-! ## What a selection changes (R324, R325) -/

/-- `t` is `s` but for the queues and the personality served last. -/
def OnlyQueues (s t : State) : Prop := ∃ x y, t = { s with sch := { s.sch with queues := x, lastServed := y } }

section
variable {s t u : State}

theorem OnlyQueues.trans : OnlyQueues s t → OnlyQueues t u → OnlyQueues s u := by
  rintro ⟨x, y, rfl⟩ ⟨z, w, rfl⟩
  exact ⟨z, w, rfl⟩

theorem OnlyQueues.entries : OnlyQueues s t → t.sch.entries = s.sch.entries := by
  rintro ⟨x, y, rfl⟩
  rfl

end

theorem updQueue_onlyQueues (q : Nat) (f : Queue → Queue) (s : State) : OnlyQueues s (s.updQueue q f) := ⟨_, s.sch.lastServed, rfl⟩

theorem lastServed_onlyQueues (x : SMap Nat) (s : State) : OnlyQueues s { s with sch := { s.sch with lastServed := x } } :=
  ⟨s.sch.queues, x, rfl⟩

@[simp] theorem queue_updQueue_self (q : Nat) (f : Queue → Queue) (s : State) : (s.updQueue q f).queue q = f (s.queue q) :=
  smap_get_upd_self ({} : Queue) s.sch.queues q f

theorem takeFrom_onlyQueues (q e : Nat) (s : State) : OnlyQueues s (takeFrom q e s) := by
  simp only [takeFrom]
  split
  · exact (updQueue_onlyQueues q _ s).trans (updQueue_onlyQueues q _ _)
  · exact updQueue_onlyQueues q _ s

theorem nextFrom_onlyQueues {q e fuel : Nat} {s u : State} (h : nextFrom q fuel s = some (e, u)) : OnlyQueues s u := by
  induction fuel generalizing s with
  | zero => cases h
  | succ fuel ih =>
    simp only [nextFrom] at h
    split at h
    · cases h
    · split at h
      · cases h
      · split at h <;> split at h
        case isTrue.isTrue | isFalse.isTrue =>
          obtain ⟨rfl, rfl⟩ := Prod.mk.inj (Option.some.inj h)
          exact (updQueue_onlyQueues q _ s).trans (takeFrom_onlyQueues q _ _)
        all_goals exact (updQueue_onlyQueues q _ s).trans (ih h)

theorem selectCmd_onlyQueues {mask : BitVec 4} {e : Nat} {s u : State} (h : selectCmd mask s = some (e, u)) : OnlyQueues s u := by
  simp only [selectCmd] at h
  split at h
  · cases h
  · split at h
    · cases h
      exact takeFrom_onlyQueues _ _ s
    · split at h
      · cases h
      · exact (lastServed_onlyQueues _ s).trans (nextFrom_onlyQueues h)

/-! ## The only command of a queue (R324, R325) -/

/-- Queue `q` holds the command `e` of pitch `p` alone. -/
def Sole (q e p : Nat) (s : State) : Prop := (s.queue q).cmds = [e] ∧ (s.queue q).turn = [p] ∧ s.pitchOf e = p

section
variable {s : State} {q e p : Nat}

theorem Sole.inQueue (h : Sole q e p s) : s.inQueue q p = [e] := by
  obtain ⟨hcmds, -, hpitch⟩ := h
  simp [State.inQueue, hcmds, hpitch]

/-- Once taken, it leaves the queue empty. -/
theorem takeFrom_sole (hcmds : (s.queue q).cmds = [e]) : ((takeFrom q e s).queue q).cmds = [] := by
  simp only [takeFrom]
  split <;> simp [hcmds]

theorem Sole.updQueue (h : Sole q e p s) {f : Queue → Queue} (hcmds : (f (s.queue q)).cmds = [e]) (hturn : (f (s.queue q)).turn = [p]) :
    Sole q e p (s.updQueue q f) := by
  refine ⟨by rw [queue_updQueue_self, hcmds], by rw [queue_updQueue_self, hturn], ?_⟩
  obtain ⟨-, -, hpitch⟩ := h
  exact hpitch

/-- The deficit of the only pitch at its turn. -/
def State.due (s : State) (q p : Nat) : Nat :=
  (s.queue q).deficit.get 0 p + if (s.queue q).inTurn then 0 else (s.pitch p).weight

/-- The deficit covers the command: it is taken. -/
theorem nextFrom_takes (h : Sole q e p s) (hcost : s.costOf e ≤ s.due q p) (fuel : Nat) :
    ∃ u, nextFrom q (fuel + 1) s = some (e, u) ∧ (u.queue q).cmds = [] := by
  have hqueue := h.inQueue
  obtain ⟨hcmds, hturn, -⟩ := h
  rw [State.due] at hcost
  simp only [nextFrom, hturn, hqueue, if_pos hcost]
  refine ⟨_, rfl, takeFrom_sole ?_⟩
  rw [queue_updQueue_self]
  exact hcmds

/-- The state after a turn that takes nothing. -/
def passed (q p : Nat) (s : State) : State :=
  s.updQueue q fun x => { x with turn := [p], inTurn := false, deficit := x.deficit.set 0 p (s.due q p) }

theorem passed_sole (h : Sole q e p s) : Sole q e p (passed q p s) := h.updQueue h.1 rfl

theorem passed_due (q p : Nat) (s : State) : (passed q p s).due q p = s.due q p + (s.pitch p).weight := by
  rw [State.due, passed, queue_updQueue_self]
  simp only [smap_get_set_self, Bool.false_eq_true, if_false]
  rfl

/-- It does not: the pitch's next turn. -/
theorem nextFrom_passes (h : Sole q e p s) (hcost : ¬s.costOf e ≤ s.due q p) (fuel : Nat) :
    nextFrom q (fuel + 1) s = nextFrom q fuel (passed q p s) := by
  have hqueue := h.inQueue
  obtain ⟨hcmds, hturn, -⟩ := h
  rw [State.due] at hcost
  simp only [nextFrom, hturn, hqueue, if_neg hcost]
  rfl

/-- Turn after turn the deficit grows by the weight, until it covers the command. -/
theorem nextFrom_sole (hsole : Sole q e p s) (hweight : 1 ≤ (s.pitch p).weight) (fuel : Nat) (hcost : s.costOf e ≤ s.due q p + fuel) :
    ∃ u, nextFrom q (fuel + 1) s = some (e, u) ∧ (u.queue q).cmds = [] := by
  induction fuel generalizing s with
  | zero => exact nextFrom_takes hsole hcost 0
  | succ fuel ih =>
    by_cases hcovered : s.costOf e ≤ s.due q p
    · exact nextFrom_takes hsole hcovered _
    · rw [nextFrom_passes hsole hcovered]
      refine ih (passed_sole hsole) hweight ?_
      have hpassed : (passed q p s).costOf e = s.costOf e := rfl
      rw [passed_due, hpassed]
      omega

end

/-- The served queue is the one picked, whichever personality was served last. -/
theorem pickPers_sole {q : Nat} (hq : q < 32) (first : Nat) : pickPers [q] (q % 8) first = some q := by
  have hmem : q ∈ (List.range 4).map fun k => 8 * ((first + k) % 4) + q % 8 :=
    List.mem_map.mpr ⟨(q / 8 + 4 - first % 4) % 4, List.mem_range.mpr (by omega), by omega⟩
  obtain ⟨r, hr⟩ := Option.isSome_iff_exists.mp (List.find?_isSome.mpr ⟨q, hmem, show [q].contains q = true by simp⟩)
  have hrq : r = q := by simpa using List.find?_some hr
  rw [pickPers, hr, hrq]

/-- The only command of the only served queue is selected (R324, R325). -/
theorem selectCmd_sole {s : State} {m : BitVec 4} {q e p : Nat} (hserved : s.served m = [q]) (hsole : Sole q e p s)
    (hweight : 1 ≤ (s.pitch p).weight) (hcost : s.costOf e ≤ 4112) : ∃ u, selectCmd m s = some (e, u) ∧ (u.queue q).cmds = [] := by
  have hq : q < 32 := List.mem_range.mp (List.mem_of_mem_filter (hserved ▸ List.mem_singleton.mpr rfl : q ∈ s.served m))
  have hold : s.oldestQueue [q] = some (q, e) := by simp [State.oldestQueue, hsole.1]
  have hturns : (s.queue q).turn.length = 1 := by rw [hsole.2.1]; rfl
  simp only [selectCmd, hserved, hold]
  split
  · exact ⟨_, rfl, takeFrom_sole hsole.1⟩
  · have htop : [q].foldl (fun a q => max a (q % 8)) 0 = q % 8 := by simp
    rw [htop, pickPers_sole hq]
    dsimp only
    generalize SMap.set 0 s.sch.lastServed (q % 8) ((q / 8 + 1) % 4) = x
    have hpicked : ∀ fuel, 4112 ≤ fuel → ∃ u, nextFrom q (fuel + 1) { s with sch := { s.sch with lastServed := x } } = some (e, u)
        ∧ (u.queue q).cmds = [] := fun fuel hfuel =>
      nextFrom_sole (s := { s with sch := { s.sch with lastServed := x } }) hsole hweight fuel
        ((hcost.trans hfuel).trans (Nat.le_add_left ..))
    refine hpicked _ ?_
    omega

/-! ## Binding and waiting (R57, R317, R319) -/

section
variable {s : State} {c e : Nat} {x : Entry}

@[simp] theorem core_updCore_self (s : State) (c : Nat) (f : Core → Core) : (s.updCore c f).core c = f (s.core c) :=
  smap_get_upd_self ({} : Core) s.cmc.cores c f

@[simp] theorem entry_updEntry_self (s : State) (e : Nat) (f : Entry → Entry) : (s.updEntry e f).entry e = (s.entry e).map f :=
  smap_get_upd_self none s.sch.entries e _

/-- The core as the command is bound to it. -/
def boundCore (e : Nat) (x : Entry) (k : Core) : Core :=
  { k with state := .busy, entry := some e, boundPitch := some x.pitch, blocked := false, handed := false, completed := false,
           scratch := [], hrdStatus := 0 }

/-- What a binding makes of the core, the command, its pitch and the output. -/
theorem bindCore_facts (hx : s.entry e = some x) :
    (bindCore c e s).core c = boundCore e x (s.core c)
      ∧ (bindCore c e s).entry e = some { s.dispatched x with phase := .bound (BitVec.ofNat 5 c) }
      ∧ (bindCore c e s).out = s.out ++ [.read (coreWho c) (dispatchWord x.pitch e)]
      ∧ ((bindCore c e s).pitch x.pitch.toNat).schDisp = (s.pitch x.pitch.toNat).schDisp + 1 := by
  have hdispatched : ∀ h, State.dispatched (State.updPitch { s with sch := { s.sch with hist := h } } x.pitch.toNat
      fun v => { v with schDisp := v.schDisp + 1 }) x = s.dispatched x := fun h => by
    simp only [State.dispatched, pitch_updPitch_self]
    rfl
  simp only [bindCore, hx]
  refine ⟨core_updCore_self _ c _, (entry_updEntry_self _ e _).trans ?_, rfl, ?_⟩
  · refine (congrArg (Option.map _) hx).trans ?_
    rw [Option.map_some, hdispatched]
  · exact congrArg Pitch.schDisp (pitch_updPitch_self _ _ _)

end

/-- A core that waits for work and is not asked to leave. -/
def Waits (s : State) (c : Nat) : Prop :=
  (s.core c).state = .idle ∧ (s.core c).blocked = false ∧ (s.core c).entry = none ∧ (s.core c).drain = false

/-- The state in which its load asks for work: its mask taken over. -/
def State.asked (s : State) (c : Nat) : State := s.updCore c fun k => { k with mask := k.maskNext, completed := false, boundPitch := none }

/-- The state of a load that waits (R317). -/
def State.loadWaits (s : State) (c : Nat) : State :=
  { s with sch := { s.sch with loads := s.sch.loads + 1 } }.updCore c fun k => { k with blocked := true, blockedAt := s.sch.loads + 1 }

section
variable {s t : State} {c : Nat} (h : Waits s c)
include h

/-- What of a load that asks for work the model looks at. -/
theorem asked_facts : ¬((s.core c).state = .off ∨ (s.core c).state = .failed ∨ (s.core c).blocked = true)
    ∧ ((s.asked c).core c).state = .idle ∧ ((s.asked c).core c).drain = false ∧ ((s.asked c).core c).blocked = false := by
  obtain ⟨hidle, hblocked, hentry, hdrain⟩ := h
  simp [State.asked, hidle, hblocked, hdrain]

theorem dispatchLoad_served (ht : tryDispatch c (s.asked c) = some t) : dispatchLoad c s = t := by
  obtain ⟨hserves, hidle, hdrain, -⟩ := asked_facts h
  obtain ⟨-, -, hentry, -⟩ := h
  simp only [State.asked] at hidle hdrain ht
  simp only [dispatchLoad, if_neg hserves, hentry, hidle, hdrain, ht, reduceCtorEq, Bool.false_eq_true, if_false]

theorem dispatchLoad_blocks (ht : tryDispatch c (s.asked c) = none) (htimeout : s.sch.timeoutUs ≠ 0) :
    dispatchLoad c s = (s.asked c).loadWaits c := by
  obtain ⟨hserves, hidle, hdrain, -⟩ := asked_facts h
  obtain ⟨-, -, hentry, -⟩ := h
  simp only [State.asked] at hidle hdrain ht
  simp only [dispatchLoad, if_neg hserves, hentry, hidle, hdrain, ht, reduceCtorEq, Bool.false_eq_true, if_false]
  exact if_neg htimeout

theorem dispatchLoad_empty (ht : tryDispatch c (s.asked c) = none) (htimeout : s.sch.timeoutUs = 0) :
    dispatchLoad c s = (s.asked c).emit (.read (coreWho c) 0) := by
  obtain ⟨hserves, hidle, hdrain, -⟩ := asked_facts h
  obtain ⟨-, -, hentry, -⟩ := h
  simp only [State.asked] at hidle hdrain ht
  simp only [dispatchLoad, if_neg hserves, hentry, hidle, hdrain, ht, reduceCtorEq, Bool.false_eq_true, if_false]
  exact if_pos htimeout

end

/-- A selected command is bound to the core (R317, R324). -/
theorem tryDispatch_asked {s u : State} {c e : Nat} (hrun : s.dispatchStopped = false)
    (hsel : selectCmd (s.core c).maskNext (s.asked c) = some (e, u)) : tryDispatch c (s.asked c) = some (bindCore c e u) := by
  have hrun' : (s.asked c).dispatchStopped = false := hrun
  have hmask : ((s.asked c).core c).mask = (s.core c).maskNext := by rw [State.asked, core_updCore_self]
  simp only [tryDispatch, hrun', Bool.false_eq_true, if_false, hmask, hsel]

theorem tryDispatch_stopped {s : State} (hstop : s.dispatchStopped = true) (c : Nat) : tryDispatch c (s.asked c) = none := by
  have hstop' : (s.asked c).dispatchStopped = true := hstop
  simp only [tryDispatch, hstop', if_true]

/-- A queued command (R323). -/
theorem commandEnqueue_joins {s : State} {e : Nat} {x : Entry} (hx : s.entry e = some x) (hphase : x.phase = .admitted)
    (hrecipe : s.onRecipe x = false) (hfence : s.fenceWaits x = false) (hreplay : x.replayWait = false) (hctx : x.ctx = none)
    (hcores : s.blockedCores = []) :
    commandEnqueue e s
      = joinQueue (s.queueOf x) e x.pitch.toNat (s.updEntry e fun x => { x with phase := .queued, queuedAt := s.clk }) := by
  simp only [commandEnqueue, hx, hphase, hctx, hrecipe, hfence, hreplay, Option.isSome_none, Bool.false_eq_true, if_false, ne_eq,
    not_true_eq_false, or_self]
  have hnone : (joinQueue (s.queueOf x) e x.pitch.toNat
      (s.updEntry e fun x => { x with phase := .queued, queuedAt := s.clk })).blockedCores = [] := hcores
  rw [serveBlocked, hnone, List.foldl_nil]

/-- What the queue holds then. -/
theorem joinQueue_facts (q e p : Nat) (s : State) :
    ((joinQueue q e p s).queue q).cmds = (s.queue q).cmds ++ [e] ∧ p ∈ ((joinQueue q e p s).queue q).turn := by
  rw [joinQueue, queue_updQueue_self]
  refine ⟨rfl, ?_⟩
  dsimp only
  split
  · next h => exact List.contains_iff_mem.mp h
  · exact List.mem_append_right _ (List.mem_singleton.mpr rfl)

end Sys2Proof.Machine

namespace Sys2Proof.Proofs

open Sys2Proof.Machine Sys2Proof.Safety

/-- Settles O44: a load that waits for work is bound, blocks or reads 0 as dispatch answers; the only command of the only served queue is
selected once its pitch's deficit covers it; an admitted command joins its queue. -/
theorem dispatch : Obligations.Dispatch := by
  unfold Obligations.Dispatch
  refine ⟨fun s u c e x hc hidle hblocked hentry hdrain hrun hx hsel => ?bound,
    fun s m q e p hserved hcmds hturn hpitch hweight hcost => ?selected,
    fun s c hc hidle hblocked hentry hdrain hstop => ⟨fun htimeout => ?blocks, fun htimeout => ?empty⟩,
    fun s c hc hblocked => ?timeout, fun s e x hx hphase hrecipe hfence hreplay hctx hcores => ?joins⟩
  case bound =>
    have hasked : Waits s c.toNat := ⟨hidle, hblocked, hentry, hdrain⟩
    have hexec := dispatchLoad_served hasked (tryDispatch_asked hrun hsel)
    obtain ⟨y, z, hu⟩ := selectCmd_onlyQueues hsel
    have hxu : u.entry e = some x := by rw [hu]; exact hx
    obtain ⟨hcore, hbound, hout, hcount⟩ := bindCore_facts (c := c.toNat) hxu
    have hcoreU : u.core c.toNat = { s.core c.toNat with mask := (s.core c.toNat).maskNext, completed := false, boundPitch := none } := by
      rw [hu]
      exact core_updCore_self s c.toNat _
    have hmask : (u.core c.toNat).mask = (s.core c.toNat).maskNext := by rw [hcoreU]
    refine ⟨_, (if_neg (Nat.not_le.mpr hc)).trans (congrArg Host.Outcome.next hexec), ?_, ?_, ?_, ?_, ?_, ?_, ?_⟩
    · rw [hcore, boundCore]
    · rw [hcore, boundCore]
    · rw [hcore, boundCore]
    · rw [hcore, boundCore, hmask]
    · rw [hbound, BitVec.ofNat_toNat, BitVec.setWidth_eq, hu]
      rfl
    · rw [hout, hu]
      rfl
    · rw [hcount, hu]
      rfl
  case selected =>
    obtain ⟨u, hsel, hempty⟩ := selectCmd_sole hserved ⟨hcmds, hturn, hpitch⟩ hweight hcost
    exact ⟨u, hsel, hempty, (selectCmd_onlyQueues hsel).entries⟩
  case blocks =>
    have hexec := dispatchLoad_blocks ⟨hidle, hblocked, hentry, hdrain⟩ (tryDispatch_stopped hstop c.toNat) htimeout
    refine ⟨_, (if_neg (Nat.not_le.mpr hc)).trans (congrArg Host.Outcome.next hexec), ?_, rfl, rfl⟩
    rw [State.loadWaits, core_updCore_self]
  case empty =>
    have hwaits : Waits s c.toNat := ⟨hidle, hblocked, hentry, hdrain⟩
    have hexec := dispatchLoad_empty hwaits (tryDispatch_stopped hstop c.toNat) htimeout
    obtain ⟨-, -, -, hfree⟩ := asked_facts hwaits
    exact ⟨_, (if_neg (Nat.not_le.mpr hc)).trans (congrArg Host.Outcome.next hexec), hfree, rfl⟩
  case timeout =>
    refine ⟨_, (if_neg (Nat.not_le.mpr hc)).trans (congrArg Host.Outcome.next (if_pos hblocked)), ?_, rfl, rfl⟩
    exact congrArg Core.blocked (core_updCore_self s c.toNat _)
  case joins =>
    have hexec := commandEnqueue_joins hx hphase hrecipe hfence hreplay hctx hcores
    obtain ⟨hqueue, hmem⟩ := joinQueue_facts (s.queueOf x) e.toNat x.pitch.toNat
      (s.updEntry e.toNat fun x => { x with phase := .queued, queuedAt := s.clk })
    refine ⟨_, congrArg Host.Outcome.next hexec, ?_, hqueue, hmem, rfl⟩
    refine (entry_updEntry_self s e.toNat _).trans ?_
    rw [hx, Option.map_some]

end Sys2Proof.Proofs
end

section
/-! A completion latched on a CQ that is no ring event: the state that the obligation about SQEs does not exclude (R91, R101). -/

namespace Sys2Proof.Machine

open Sys2Proof.Safety

/-- A fenced command of SQ 1 of pitch 5, the last that its fence waits for. -/
def fencedEntry : Entry :=
  { sqe := [], pitch := 5, sq := 1, port := .a, resPort := .a, prio := 0, winSet := 0, windows := [], fence := true, queuedAt := 0 }

/-- SQ 0 of pitch 5 has one SQE on its way and another published, its memory in no window; SQ 1 is fenced; and a completion of SQ 1 that is
no ring event stands latched on their CQ. -/
def latchedState : State :=
  { State.reset with
    glb := { State.reset.glb with startDone := true }
    par := { State.reset.par with role := .single }
    pit := { State.reset.pit with pitches := [(5, { state := .active })] }
    rqe := { State.reset.rqe with
      sqs := [(sqKey 5 0, { state := .active, log2 := 6, fetching := 1, published := 2 }),
              (sqKey 5 1, { state := .active, log2 := 6, fenced := true })]
      cqs := [(5, { state := .active, log2 := 6, latched := [{ status := 0, sqIndex := 1, port := .a }] })]
      fns := [(fnKey .a 0, { bme := true })] }
    sch := { State.reset.sch with entries := [(0, some fencedEntry)] } }

/-- The refusal of the SQE ends in the ring event of SQ 0's next turn, whose CQE takes the latched one along; and with that the fence of
SQ 1 ends. -/
theorem sqeArrived_endsFence :
    (sqeArrived (5 : BitVec 12).toNat (0 : BitVec 2).toNat (padTo 128 (zeros 128)) latchedState).sch.entries
      = [(0, some { fencedEntry with fence := false })] := by
  decide +kernel

end Sys2Proof.Machine

namespace Sys2Proof.Proofs

open Sys2Proof.Machine Sys2Proof.Safety

/-- Refutes O28: the tracker does not stay as it is where a completion that is no ring event is latched on the CQ of a ring that has its
turn after the refusal. -/
theorem not_sqeAdmission : ¬ Obligations.SqeAdmission := by
  unfold Obligations.SqeAdmission
  intro h
  obtain ⟨-, hrefused⟩ := h latchedState 5 0 (zeros 128) rfl rfl rfl Nat.one_ne_zero rfl rfl
  obtain ⟨t, ht, -, -, -, hsch⟩ := hrefused stBadField (by decide)
  obtain rfl := Host.Outcome.next.inj ht
  have hentries := sqeArrived_endsFence
  rw [hsch] at hentries
  exact absurd hentries (by decide +kernel)

end Sys2Proof.Proofs
end

section
/-! Engines (R57, R261, R262, R264, R275, R280): the unit an operation leaves, the one request that the first free engine takes, the command
whose operation ended, a check that fails and an engine that resets. -/

namespace Sys2Proof.Machine

open Sys2Proof.Safety

/-! ## Sparse maps changed throughout -/

section
variable {α : Type} {d : α} {m : SMap α} {k j : Nat}

/-- The map lists the key with a value other than the default, or not at all: a change throughout then reaches the value that is read. -/
def KeyClean (d : α) (m : SMap α) (k : Nat) : Prop := (∀ v ∈ m, v.1 ≠ k) ∨ m.get d k ≠ d

theorem smap_get_absent (d : α) (h : ∀ v ∈ m, v.1 ≠ k) : m.get d k = d := by
  induction m with
  | nil => rfl
  | cons v m ih =>
    have hm : ∀ w ∈ m, w.1 ≠ k := fun w hw => h w (List.mem_cons_of_mem _ hw)
    rw [SMap.get, if_neg (h v List.mem_cons_self), ih hm]

theorem smap_mem_put {v : Nat × α} {w : α} (h : v ∈ m.put k w) : v = (k, w) ∨ v ∈ m := by
  induction m with
  | nil => exact .inl (List.mem_singleton.mp h)
  | cons e m ih =>
    simp only [SMap.put] at h
    split_ifs at h <;> grind

variable [DecidableEq α]

/-- A written key is clean. -/
theorem keyClean_set_self (d : α) (m : SMap α) (k : Nat) (v : α) : KeyClean d (m.set d k v) k := by
  by_cases hv : v = d
  · refine .inl fun w hw => ?_
    rw [SMap.set, if_pos hv] at hw
    exact of_decide_eq_true (List.mem_filter.mp hw).2
  · exact .inr (by rwa [smap_get_set_self])

/-- A write leaves the other keys clean. -/
theorem KeyClean.set_other (h : KeyClean d m k) (hk : k ≠ j) (v : α) : KeyClean d (m.set d j v) k := by
  obtain habsent | hvalue := h
  · refine .inl fun w hw => ?_
    simp only [SMap.set] at hw
    split at hw
    · exact habsent w (List.mem_of_mem_filter hw)
    · obtain rfl | hw := smap_mem_put hw
      · exact hk.symm
      · exact habsent w hw
  · exact .inr (by rwa [smap_get_set_other _ _ _ _ _ hk])

/-- What a clean key reads after a change throughout that keeps defaults and takes no value to the default. -/
theorem smap_get_mapv {f : Nat → α → α} (h : KeyClean d m k) (hd : f k d = d) (hv : m.get d k ≠ d → f k (m.get d k) ≠ d) :
    (m.mapv d f).get d k = f k (m.get d k) := by
  obtain habsent | hvalue := h
  · rw [smap_get_absent d habsent, hd]
    refine smap_get_absent d fun w hw => ?_
    obtain ⟨v, hmem, hw⟩ := List.mem_filterMap.mp hw
    split at hw
    · cases hw
    · exact Option.some.inj hw ▸ habsent v hmem
  · replace hv := hv hvalue
    induction m with
    | nil => exact absurd rfl hvalue
    | cons e m ih =>
      by_cases he : e.1 = k
      · subst he
        simp only [SMap.get, if_true] at hv ⊢
        simp [SMap.mapv, hv, SMap.get]
      · simp only [SMap.get, if_neg he] at hvalue hv ⊢
        rw [← ih hvalue hv]
        by_cases hdrop : f e.1 e.2 = d <;> simp [SMap.mapv, hdrop, SMap.get, he]

/-- And it stays clean. -/
theorem KeyClean.mapv {f : Nat → α → α} (h : KeyClean d m k) (hd : f k d = d) (hv : m.get d k ≠ d → f k (m.get d k) ≠ d) :
    KeyClean d (m.mapv d f) k := by
  by_cases hvalue : m.get d k = d
  · obtain habsent | hne := h
    · refine .inl fun w hw => ?_
      obtain ⟨v, hmem, hw⟩ := List.mem_filterMap.mp hw
      split at hw
      · cases hw
      · exact Option.some.inj hw ▸ habsent v hmem
    · exact absurd hvalue hne
  · exact .inr (by rw [smap_get_mapv h hd hv]; exact hv hvalue)

end

/-! ## Engines by number -/

/-- An engine that is free: its operand memory keeps what it held (R264). -/
def FuncUnit.freed (u : FuncUnit) : FuncUnit := { operand := u.operand }

section
variable {s t : State} {l : Bool} {k j : Nat}

@[simp] theorem engine_updEngine_self (l : Bool) (k : Nat) (f : FuncUnit → FuncUnit) (s : State) :
    (s.updEngine l k f).engine l k = f (s.engine l k) := by
  cases l
  · exact smap_get_upd_self ({} : FuncUnit) s.units.pke k f
  · exact smap_get_upd_self ({} : FuncUnit) s.units.ltc k f

theorem engine_updEngine_other (hj : j ≠ k) (f : FuncUnit → FuncUnit) (s : State) : (s.updEngine l k f).engine l j = s.engine l j := by
  cases l
  · exact smap_get_upd_other ({} : FuncUnit) s.units.pke k j f hj
  · exact smap_get_upd_other ({} : FuncUnit) s.units.ltc k j f hj

@[simp] theorem updEngine_reqs (l : Bool) (k : Nat) (f : FuncUnit → FuncUnit) (s : State) :
    (s.updEngine l k f).units.reqs = s.units.reqs := by cases l <;> rfl

theorem State.engine_congr (h : t.units = s.units) (l : Bool) (k : Nat) : t.engine l k = s.engine l k := by rw [State.engine, State.engine, h]

theorem State.entry_congr (h : t.sch = s.sch) (e : Nat) : t.entry e = s.entry e := by rw [State.entry, State.entry, h]

@[simp] theorem engRelease_sch (l : Bool) (k : Nat) (s : State) : (engRelease l k s).sch = s.sch := updEngine_sch ..

@[simp] theorem engRelease_evc (l : Bool) (k : Nat) (s : State) : (engRelease l k s).evc = s.evc := updEngine_evc ..

@[simp] theorem engRelease_tmp (l : Bool) (k : Nat) (s : State) : (engRelease l k s).tmp = s.tmp := updEngine_tmp ..

@[simp] theorem engRelease_reqs (l : Bool) (k : Nat) (s : State) : (engRelease l k s).units.reqs = s.units.reqs := updEngine_reqs ..

@[simp] theorem engine_engRelease_self (l : Bool) (k : Nat) (s : State) : (engRelease l k s).engine l k = (s.engine l k).freed :=
  engine_updEngine_self ..

theorem engine_engRelease_other (hj : j ≠ k) (s : State) : (engRelease l k s).engine l j = s.engine l j := engine_updEngine_other hj ..

/-- The engines of a kind. -/
def Units.engines (u : Units) (l : Bool) : SMap FuncUnit := if l then u.ltc else u.pke

theorem engine_eq_get (s : State) (l : Bool) (k : Nat) : s.engine l k = (s.units.engines l).get {} k := by cases l <;> rfl

/-- The list of the engines names the engine by its own values alone. -/
def EngClean (l : Bool) (k : Nat) (s : State) : Prop := KeyClean {} (s.units.engines l) k

theorem EngClean.congr (h : EngClean l k s) (hunits : t.units = s.units) : EngClean l k t := by rwa [EngClean, hunits]

theorem engRelease_clean (l : Bool) (k : Nat) (s : State) : EngClean l k (engRelease l k s) := by
  cases l <;> exact keyClean_set_self _ _ _ _

theorem EngClean.engRelease (h : EngClean l k s) (hk : k ≠ j) : EngClean l k (engRelease l j s) := by
  cases l <;> exact KeyClean.set_other h hk _

/-- A change throughout leaves a clean engine that it would leave alone. -/
theorem engine_mapv {f : Nat → FuncUnit → FuncUnit} (h : EngClean l k s) (hd : f k {} = {}) (hf : f k (s.engine l k) = s.engine l k)
    (ht : t.units.engines l = (s.units.engines l).mapv {} f) : t.engine l k = s.engine l k := by
  rw [engine_eq_get] at hf ⊢
  rw [ht, smap_get_mapv h hd fun hv => by rwa [hf], hf, engine_eq_get]

end

/-! ## Requests and grants (R261, R281) -/

section
variable {s : State} {l : Bool} {k e : Nat} {r : EngReq} {x : Entry}

/-- What an engine becomes that takes a request, as far as the request says it. -/
def Takes (r : EngReq) (u : FuncUnit) : Prop :=
  u.state = (if r.check.isSome then 2 else 1) ∧ u.entry = some r.entry ∧ u.checks = r.check ∧ u.core = r.core ∧ u.handover = r.handover

theorem grant_takes (hx : s.entry r.entry = some x) (k : Nat) : Takes r ((grant k r s).engine r.lattice k) := by
  have hx' : State.entry { s with units := { s.units with reqs := s.units.reqs.erase r } } r.entry = some x := hx
  simp only [grant, hx', engine_updEngine_self, Takes, and_self]

theorem engine_grant_other {j : Nat} (hj : j ≠ k) (r : EngReq) (s : State) :
    (grant k r s).engine r.lattice j = s.engine r.lattice j := by
  simp only [grant]
  split
  · rfl
  · exact engine_updEngine_other hj _ _

@[simp] theorem grant_reqs (k : Nat) (r : EngReq) (s : State) : (grant k r s).units.reqs = s.units.reqs.erase r := by
  simp only [grant]
  split
  · rfl
  · exact updEngine_reqs ..

@[simp] theorem grant_sch (k : Nat) (r : EngReq) (s : State) : (grant k r s).sch = s.sch := by
  simp only [grant]
  split
  · rfl
  · exact updEngine_sch ..

@[simp] theorem grant_cmc (k : Nat) (r : EngReq) (s : State) : (grant k r s).cmc = s.cmc := by
  simp only [grant]
  split
  · rfl
  · exact updEngine_cmc ..

theorem grantAll_stopped (h : s.enginesStopped = true) (l : Bool) : ∀ n, grantAll l n s = s
  | 0 => rfl
  | _ + 1 => by rw [grantAll, if_pos h]

theorem grantAll_none (h : (s.units.reqs.filter fun r => r.lattice = l) = []) : ∀ n, grantAll l n s = s
  | 0 => rfl
  | _ + 1 => by simp [grantAll, h, bestReq]

theorem grantAll_idle (h : s.units.reqs = []) (l : Bool) (n : Nat) : grantAll l n s = s := grantAll_none (by rw [h]; rfl) n

theorem serveEngines_stopped (h : s.enginesStopped = true) : serveEngines s = s := by
  rw [serveEngines, grantAll_stopped h, grantAll_stopped h]

theorem serveEngines_idle (h : s.units.reqs = []) : serveEngines s = s := by
  rw [serveEngines, grantAll_idle h, grantAll_idle h]

/-- Engines of the request's kind serve the only request. -/
theorem grantAll_one (hreqs : s.units.reqs = [r]) (hrun : s.enginesStopped = false)
    (hfree : (List.range (engCount r.lattice)).find? (s.engFree r.lattice) = some k) (n : Nat) :
    grantAll r.lattice (n + 1) s = grant k r s := by
  have hbest : bestReq (s.units.reqs.filter fun q => q.lattice = r.lattice) = some r := by simp [hreqs, bestReq]
  have hnone : (grant k r s).units.reqs = [] := by simp [hreqs]
  simp only [grantAll, hrun, Bool.false_eq_true, if_false, hfree, hbest]
  exact grantAll_idle hnone _ n

/-- The only request goes to the first free engine of its kind (R261). -/
theorem serveEngines_one (hreqs : s.units.reqs = [r]) (hrun : s.enginesStopped = false)
    (hfree : (List.range (engCount r.lattice)).find? (s.engFree r.lattice) = some k) : serveEngines s = grant k r s := by
  have hnone : (grant k r s).units.reqs = [] := by simp [hreqs]
  rw [serveEngines]
  cases hl : r.lattice with
  | false =>
    have hserved := grantAll_one hreqs hrun hfree 25
    rw [hl] at hserved
    rw [hserved, grantAll_idle hnone]
  | true =>
    have hserved := grantAll_one hreqs hrun hfree 7
    rw [hl] at hserved
    rw [grantAll_none (l := false) (by simp [hreqs, hl]), hserved]

end

/-! ## A core's request (R57, R261) -/

/-- The request that a core makes for its command. -/
def coreReq (c : BitVec 5) (l h : Bool) (e : Nat) (x : Entry) : EngReq :=
  { lattice := l, check := none, prio := x.prio.toNat, core := some c, entry := e, handover := h }

/-- The state in which it waits for an engine. -/
def State.requested (s : State) (c : BitVec 5) (l h : Bool) (e : Nat) (x : Entry) : State :=
  { s with units := { s.units with reqs := s.units.reqs ++ [coreReq c l h e x] } }.updCore c.toNat
    fun k => { k with handed := k.handed || h }

section
variable {s : State} {c : BitVec 5} {l h : Bool} {e : Nat} {x : Entry}

theorem engineRequest_taken (hentry : (s.core c.toNat).entry = some e) (hx : s.entry e = some x)
    (hlast : h = true → ∃ d, x.prepared = some d ∧ (d.engine = 0 ∨ d.engine = engKind l)) (hroom : s.outstandingOf c < 16) :
    engineRequest c l h s = serveEngines (s.requested c l h e x) := by
  simp only [engineRequest, hentry, hx]
  refine if_neg ?_
  rintro (hfull | ⟨hh, hother⟩)
  · omega
  · obtain ⟨d, hd, hengine⟩ := hlast hh
    rw [hd] at hother
    exact hother (by simpa using hengine)

theorem requested_reqs (hreqs : s.units.reqs = []) : (s.requested c l h e x).units.reqs = [coreReq c l h e x] := by
  rw [State.requested, updCore_units, hreqs]
  rfl

theorem requested_handed : ((s.requested c l h e x).core c.toNat).handed = ((s.core c.toNat).handed || h) := by
  rw [State.requested, core_updCore_self]
  rfl

end

/-! ## Messages sent stay sent -/

section
variable {s : State} {o : Out}

theorem mem_out_msixSend (port : Port) (fn : BitVec 7) (vec : BitVec 11) (h : o ∈ s.out) : o ∈ (msixSend port fn vec s).out := by
  simp only [msixSend]
  split
  · exact List.mem_append_left _ h
  · split
    · exact h
    · simpa using h

theorem mem_out_raisePort (port : Port) (vec : BitVec 11) (src : Nat) (h : o ∈ s.out) : o ∈ (raisePort port vec src s).out := by
  simp only [raisePort]
  split
  · simpa using h
  · exact mem_out_msixSend _ _ _ (by simpa using h)

theorem mem_out_raise (src : Nat) (h : o ∈ s.out) : o ∈ (raise src s).out := by
  have hsec : o ∈ (if (s.evc.routes.get {} src).sec then raiseAt 24 src (raiseCores (s.evc.routes.get {} src).cores src 24 s)
      else raiseCores (s.evc.routes.get {} src).cores src 24 s).out := by split <;> simpa using h
  have hport : ∀ {c : Bool} {p vec} {u : State}, o ∈ u.out → o ∈ (if c then raisePort p vec src u else u).out := fun hu => by
    split
    · exact mem_out_raisePort _ _ _ hu
    · exact hu
  exact hport (hport hsec)

end

/-! ## The end of an operation (R262, R264) -/

/-- The operation's result as the command keeps it once the operation is over. -/
def Prepared.over (d : Prepared) : Prepared := { d with engine := 0, gen := none, method := none }

/-- The command whose operation ended. -/
def Entry.opOver (d : Prepared) (x : Entry) : Entry :=
  { x with prepared := some d.over, decided := if d.status = 0 then x.decided else some d.status }

section
variable {s : State} {l : Bool} {k j e : Nat} {x : Entry} {d : Prepared} {h : Bool}

/-- An operation that ends changes its engine's long-operation registers and what its event changes. -/
theorem longEnded_cases (l : Bool) (k : Nat) (s : State) : longEnded l k s = s ∨ longEnded l k s = raise (s.engEvent l k)
    (s.updEngine l k fun u => { u with longValid := false, longPitch := 0, longOpcode := 0, longTag := 0 }) := by
  simp only [longEnded]
  split
  · exact .inr rfl
  · exact .inl rfl

@[simp] theorem longEnded_sch (l : Bool) (k : Nat) (s : State) : (longEnded l k s).sch = s.sch := by
  obtain h | h := longEnded_cases l k s <;> simp [h]

@[simp] theorem longEnded_reqs (l : Bool) (k : Nat) (s : State) : (longEnded l k s).units.reqs = s.units.reqs := by
  obtain h | h := longEnded_cases l k s <;> simp [h]

@[simp] theorem longEnded_bst (l : Bool) (k : Nat) (s : State) : (longEnded l k s).bst = s.bst := by
  obtain h | h := longEnded_cases l k s <;> simp [h]

@[simp] theorem longEnded_pwr (l : Bool) (k : Nat) (s : State) : (longEnded l k s).pwr = s.pwr := by
  obtain h | h := longEnded_cases l k s <;> simp [h]

@[simp] theorem longEnded_enginesStopped (l : Bool) (k : Nat) (s : State) : (longEnded l k s).enginesStopped = s.enginesStopped := by
  obtain h | h := longEnded_cases l k s <;> simp [h, State.enginesStopped, State.erasing]

theorem engine_longEnded_other (hj : j ≠ k) (s : State) : (longEnded l k s).engine l j = s.engine l j := by
  obtain h | h := longEnded_cases l k s <;> rw [h]
  rw [State.engine_congr (raise_units ..), engine_updEngine_other hj]

/-- Neither is the operation's own: the unit's state and operand memory. -/
theorem engine_longEnded_self (l : Bool) (k : Nat) (s : State) :
    ((longEnded l k s).engine l k).freed = (s.engine l k).freed ∧ ((longEnded l k s).engine l k).state = (s.engine l k).state := by
  obtain h | h := longEnded_cases l k s <;> rw [h]
  · exact ⟨rfl, rfl⟩
  · rw [State.engine_congr (raise_units ..), engine_updEngine_self]
    exact ⟨rfl, rfl⟩

/-- A command that was not handed over goes on at its core. -/
theorem engineEnd_kept (hx : s.entry e = some x) (hphase : x.phase ≠ .handed) (h : Bool) (d : Prepared) :
    engineEnd h e d s = s.updEntry e (Entry.opOver d) := by
  have hentry : (s.updEntry e (Entry.opOver d)).entry e = some (x.opOver d) := by rw [entry_updEntry_self, hx]; rfl
  have hkept : ¬(h && (x.opOver d).phase = .handed) = true := by simp [Entry.opOver, hphase]
  change handedEnd h e d.over (s.updEntry e (Entry.opOver d)) = _
  rw [handedEnd, hentry]
  exact if_neg hkept

/-- One that was handed over ends with its operation. -/
theorem engineEnd_handed (hx : s.entry e = some x) (hphase : x.phase = .handed) (d : Prepared) :
    engineEnd true e d s = finish e (preparedDone (x.opOver d) d.over) (s.updEntry e (Entry.opOver d)) := by
  have hentry : (s.updEntry e (Entry.opOver d)).entry e = some (x.opOver d) := by rw [entry_updEntry_self, hx]; rfl
  have hended : (true && (x.opOver d).phase = .handed) = true := by simp [Entry.opOver, hphase]
  change handedEnd true e d.over (s.updEntry e (Entry.opOver d)) = _
  rw [handedEnd, hentry]
  exact if_pos hended

/-- An operation that made no key has no commit point of its own. -/
theorem engineSettle_plain (hx : s.entry e = some x) (hd : x.prepared = some d) (hgen : d.gen = none) (h : Bool) :
    engineSettle h e s = some (engineEnd h e d s) := by
  simp only [engineSettle, hx, hd, hgen]

end

/-! ## The entry of a command that ended -/

/-- If the tracker still holds the entry, its completion is held with this status. -/
def HeldWith (e : Nat) (st : BitVec 16) (s : State) : Prop :=
  KeyClean none s.sch.entries e ∧ ∀ y, s.entry e = some y → y.phase = .held ∧ y.decided = some st

section
variable {s t : State} {e : Nat} {st : BitVec 16}

theorem HeldWith.congr (h : HeldWith e st s) (ht : t.sch.entries = s.sch.entries) : HeldWith e st t := by
  rwa [HeldWith, State.entry, ht]

theorem heldWith_write_self {v : Option Entry} (ht : t.sch.entries = s.sch.entries.set none e v)
    (hv : ∀ y, v = some y → y.phase = .held ∧ y.decided = some st) : HeldWith e st t := by
  rw [HeldWith, State.entry, ht, smap_get_set_self]
  exact ⟨keyClean_set_self _ _ _ _, hv⟩

theorem ended_heldWith (e : Nat) (d : Done) (s : State) : HeldWith e d.status (s.updEntry e fun x => x.ended d) := by
  refine heldWith_write_self (s := s) rfl fun y hy => ?_
  obtain ⟨x, -, rfl⟩ := Option.map_eq_some_iff.mp hy
  exact ⟨rfl, rfl⟩

/-- What is written at another place, or is no other outcome. -/
theorem HeldWith.write {i : Nat} {v : Option Entry} (h : HeldWith e st s) (ht : t.sch.entries = s.sch.entries.set none i v)
    (hv : i = e → ∀ y, v = some y → y.phase = .held ∧ y.decided = some st) : HeldWith e st t := by
  by_cases hi : e = i
  · subst hi
    exact heldWith_write_self ht (hv rfl)
  · rw [HeldWith, State.entry, ht, smap_get_set_other _ _ _ _ _ hi]
    exact ⟨h.1.set_other hi _, h.2⟩

/-- A change of the tracker that keeps phases and outcomes. -/
theorem HeldWith.updEntry (h : HeldWith e st s) {f : Entry → Entry} (hf : ∀ x, (f x).phase = x.phase ∧ (f x).decided = x.decided)
    (i : Nat) : HeldWith e st (s.updEntry i f) := by
  refine h.write (i := i) rfl fun hi y hy => ?_
  subst hi
  obtain ⟨x, hx, rfl⟩ := Option.map_eq_some_iff.mp hy
  rw [(hf x).1, (hf x).2]
  exact h.2 x hx

theorem HeldWith.setNone (h : HeldWith e st s) (i : Nat) : HeldWith e st (s.setEntry i none) :=
  h.write (i := i) (v := none) rfl fun _ y hy => absurd hy (by simp)

/-- The entry of a command once the fence of its ring has passed. -/
def fencePassed (p : Nat) (i : BitVec 2) (o : Option Entry) : Option Entry :=
  match o with
  | none => none
  | some x => some (if x.pitch.toNat = p ∧ x.sq = i then { x with fence := false } else x)

theorem HeldWith.mapped {p : Nat} {i : BitVec 2} (h : HeldWith e st s)
    (ht : t.sch.entries = s.sch.entries.mapv none fun _ => fencePassed p i) : HeldWith e st t := by
  obtain ⟨hclean, hheld⟩ := h
  have hsome : ∀ o, o ≠ none → fencePassed p i o ≠ none := by
    rintro (_ | x) ho
    · exact absurd rfl ho
    · simp [fencePassed]
  rw [HeldWith, State.entry, ht, smap_get_mapv hclean rfl (hsome _)]
  refine ⟨hclean.mapv rfl (hsome _), fun y hy => ?_⟩
  cases hx : s.entry e with
  | none => exact absurd hy (by rw [← State.entry, hx]; simp [fencePassed])
  | some x =>
    rw [← State.entry, hx] at hy
    obtain rfl := Option.some.inj hy
    split <;> exact hheld x hx

theorem HeldWith.endFence (h : HeldWith e st s) (ends : Bool) (p : Nat) (i : BitVec 2) : HeldWith e st (endFence ends p i s) := by
  simp only [Machine.endFence]
  split
  · exact h
  · exact h.mapped (p := p) (i := i) rfl

theorem HeldWith.settleFence (h : HeldWith e st s) (p : Nat) (i : BitVec 2) : HeldWith e st (settleFence p i s) :=
  HeldWith.endFence (h.congr (congrArg Sch.entries (updSq_sch ..))) _ p i

theorem HeldWith.refusedWritten (h : HeldWith e st s) (p : Nat) (i : BitVec 2) : HeldWith e st (refusedWritten p i s) :=
  HeldWith.settleFence (h.congr (congrArg Sch.entries (updSq_sch ..))) p i

theorem HeldWith.freeEntry (h : HeldWith e st s) (i : Nat) : HeldWith e st (freeEntry i s) := by
  simp only [Machine.freeEntry]
  split
  · exact h
  · have hfreed : ∀ (disc : Bool) (p q : Nat) f, HeldWith e st (returnCredit disc p ((s.setEntry i none).updPitch q f)) :=
      fun _ _ _ _ => (h.setNone i).congr (by rw [returnCredit_sch, updPitch_sch])
    split
    · exact (hfreed _ _ _ _).congr (by rw [updSq_sch])
    · exact ((hfreed _ _ _ _).congr (by rw [updSq_sch])).endFence _ _ _ |>.settleFence _ _

theorem HeldWith.freeOpt (h : HeldWith e st s) : ∀ o, HeldWith e st (freeOpt o s)
  | none => h
  | some i => h.freeEntry i

theorem HeldWith.postNow (h : HeldWith e st s) (p : Nat) (c : HeldCqe) : HeldWith e st (postNow p c s) := by
  have hemit : HeldWith e st (if c.result = [] then s else s.emit (.result (s.cq p).port c.resultPtr c.result)) :=
    h.congr (by split <;> rfl)
  simp only [Machine.postNow]
  generalize (if c.result = [] then s else s.emit (.result (s.cq p).port c.resultPtr c.result)) = u at hemit ⊢
  have hwritten : ∀ cqe disc, HeldWith e st (returnCredit disc p (writeCqe p cqe u)) := fun _ _ =>
    hemit.congr (by rw [returnCredit_sch, writeCqe_sch])
  have hpassed : ∀ (b : Bool) cqe disc, HeldWith e st (if b then Machine.refusedWritten p c.cqe.sqIndex (returnCredit disc p (writeCqe p cqe u))
      else returnCredit disc p (writeCqe p cqe u)) := fun _ _ _ => by
    split
    · exact (hwritten _ _).refusedWritten _ _
    · exact hwritten _ _
  have hsent : ∀ v : State, HeldWith e st v → ∀ a b, HeldWith e st (coalesce p a b v) := fun v hv _ _ =>
    hv.congr (by rw [coalesce_sch])
  refine HeldWith.freeOpt ?_ _
  refine hsent _ ?_ _ _
  exact hpassed ..

theorem HeldWith.post (h : HeldWith e st s) (p : Nat) (c : HeldCqe) : HeldWith e st (post p c s) := by
  simp only [Machine.post]
  split
  · exact h.postNow p c
  · exact h.congr (by rw [updCq_sch])

theorem HeldWith.grantContexts (h : HeldWith e st s) (n : Nat) : HeldWith e st (grantContexts n s) := by
  induction n generalizing s with
  | zero => exact h
  | succ n ih =>
    simp only [Machine.grantContexts]
    split
    · exact h
    · split
      · split
        · next hnext =>
          refine ih ?_
          have hqueues := h.congr (nextFrom_onlyQueues hnext).entries
          simp only [grantCtx]
          split
          · exact hqueues
          · exact (hqueues.updEntry (f := fun x => { State.dispatched _ x with ctx := some _ }) (fun _ => ⟨rfl, rfl⟩) _).congr (by rw [updCtx_sch])
        · exact h
      · exact h

/-- A command that ends is held with its status, if the tracker still holds it. -/
theorem finish_heldWith {x : Entry} (hx : s.entry e = some x) (d : Done) : HeldWith e d.status (finish e d s) := by
  simp only [finish, hx]
  refine HeldWith.grantContexts ?_ _
  split
  · exact (ended_heldWith e d _).freeEntry e
  · exact (ended_heldWith e d _).post _ _

end

/-! ## The engines of a command that ends, and of an erase -/

/-- The engines once a command has left them (R264). -/
def Units.left (e : Nat) (u : Units) : Units :=
  { u with reqs := u.reqs.filter fun r => r.entry ≠ e, pke := u.pke.mapv {} fun _ u => orphanUnit e u,
           ltc := u.ltc.mapv {} fun _ u => orphanUnit e u }

/-- The engines as an erase stops them (R308). -/
def Units.stopped (u : Units) : Units :=
  { u with reqs := [], pke := u.pke.mapv {} fun _ u => unitStop u, ltc := u.ltc.mapv {} fun _ u => unitStop u }

section
variable {s t : State} {l : Bool} {k j e : Nat} {x : Entry}

theorem leaveEngine_units (e : Nat) (x : Entry) (s : State) : (leaveEngine e x s).units = s.units.left e := by
  rw [leaveEngine, releaseCtx_units, takeFrom_units]
  rfl

theorem finish_units (hx : s.entry e = some x) (d : Done) : (finish e d s).units = s.units.left e := by
  have hend : ∀ (b : Bool) p c (u : State), (if b then freeEntry e u else post p c u).units = u.units := fun b _ _ _ => by
    split
    · exact freeEntry_units ..
    · exact post_units ..
  simp only [finish, hx]
  rw [serveContexts_units, hend, updEntry_units, leaveEngine_units, updPitch_units, raiseMark_units]
  refine congrArg (Units.left e) ?_
  split
  · split
    · rfl
    · exact replayStatus_units ..
  · rfl

/-- An engine that is free stays as it is when a command ends. -/
theorem engine_left (h : EngClean l k s) (hfree : (s.engine l k).entry = none) (ht : t.units = s.units.left e) :
    t.engine l k = s.engine l k := by
  refine engine_mapv (f := fun _ => orphanUnit e) h rfl (by simp [orphanUnit, hfree]) ?_
  rw [ht]
  cases l <;> rfl

/-- And when the engines stop. -/
theorem engine_stopped (h : EngClean l k s) (hfree : (s.engine l k).state = 0) (ht : t.units = s.units.stopped) :
    t.engine l k = s.engine l k := by
  refine engine_mapv (f := fun _ => unitStop) h rfl (by simp [unitStop, hfree]) ?_
  rw [ht]
  cases l <;> rfl

/-- A source that qualifies leaves the engines, or stops them where it raises the line. -/
theorem qualify_units (n : Nat) (s : State) : (qualify n s).units = s.units ∨ (qualify n s).units = s.units.stopped := by
  obtain h | h := qualify_cases n s
  · exact .inl (by rw [h])
  · have hjoined : (windowJoin n (s.classOf n) (raise (376 + n) (marked n s))).units = s.units := by
      rw [windowJoin_units, raise_units]
      rfl
    rw [h]
    generalize windowJoin n (s.classOf n) (raise (376 + n) (marked n s)) = u at hjoined ⊢
    obtain h | ⟨map, h⟩ | h := classAct_cases n (s.classOf n) u <;> rw [h]
    · exact .inl hjoined
    · change (eraseRise 1 u).units = s.units ∨ (eraseRise 1 u).units = s.units.stopped
      rw [eraseRise]
      split
      · exact .inl hjoined
      · refine .inr ?_
        rw [raise_units, ← hjoined]
        rfl
    · exact .inl ((holdStart_units ..).trans hjoined)

/-- An edge source in service that qualifies is latched (R347). -/
theorem qualify_latches_edge {n : Nat} (h44 : 44 ≤ n) (hn : n < 48) (hhandover : s.tmp.handover = true)
    (henabled : s.tmp.disabled.getLsbD n = false) : (qualify n s).tmp.latch.getLsbD n = true := by
  have hserves : ¬(s.tmp.disabled.getLsbD n ∨ s.tmp.handover = false ∨ 48 ≤ n) := by simp [hhandover, henabled]; omega
  have hedge : ¬(n < 44 ∧ s.tmp.active.getLsbD n) := fun h => by omega
  have hmarked : qualify n s = classAct n (s.classOf n) (windowJoin n (s.classOf n) (raise (376 + n) (marked n s))) := by
    rw [qualify, if_neg hserves, if_neg hedge]
    rfl
  rw [hmarked, (classAct_bits ..).1, (windowJoin_bits ..).1, raise_tmp]
  simp [marked, hn, getLsbD_setBit48]

end

/-! ## A record keeps what pends -/

section
variable {s t : State}

theorem raise_keepsPending_of_evc (src : Nat) (h : t.evc = s.evc) : KeepsPending s (raise src t) :=
  (KeepsPending.of_eq h).trans (raise_keepsPending src t)

theorem startFlush_keepsPending (s : State) : KeepsPending s (startFlush s) := .of_eq (startFlush_evc s)

theorem enterBuffer_keepsPending (r : TallyRec) (h : t.evc = s.evc) : KeepsPending s (enterBuffer r t) := by
  have hfull : ∀ (c : Prop) [Decidable c] (u : State), u.evc = s.evc → KeepsPending s (if c then startFlush (raise 473 u) else u) :=
    fun _ _ u hu => (KeepsPending.of_eq hu).trans (.ite (f := fun u => startFlush (raise 473 u))
      (fun u => (raise_keepsPending 473 u).trans (startFlush_keepsPending _)) u)
  rw [enterBuffer]
  exact hfull _ _ h

theorem tallyRec_keepsPending (code : BitVec 16) (actor : BitVec 6) (event : BitVec 10) (own : Option Nat) (payload : Bytes) (s : State) :
    KeepsPending s (tallyRec code actor event own payload s) := by
  simp only [tallyRec]
  split
  · simp only [tallyExempt]
    split
    · exact (enterBuffer_keepsPending _ rfl).trans (startFlush_keepsPending _)
    · split
      · exact .of_eq rfl
      · exact raise_keepsPending_of_evc _ rfl
  · simp only [tallyLimited]
    split
    · exact raise_keepsPending_of_evc _ rfl
    · split
      · exact enterBuffer_keepsPending _ rfl
      · exact raise_keepsPending_of_evc _ rfl

end

/-! ## What the end of an operation makes of command and engines (R262, R264) -/

section
variable {s t : State} {l : Bool} {k j e : Nat} {x : Entry} {d : Prepared} {h : Bool} {b : BitVec 5}

/-- The end of an operation leaves the engines, or releases what the command still held. -/
theorem engineEnd_units (hx : s.entry e = some x) (h : Bool) (d : Prepared) :
    (engineEnd h e d s).units = s.units ∨ (engineEnd h e d s).units = s.units.left e := by
  change (handedEnd h e d.over (s.updEntry e (Entry.opOver d))).units = _ ∨ (handedEnd h e d.over (s.updEntry e (Entry.opOver d))).units = _
  have hentry : (s.updEntry e (Entry.opOver d)).entry e = some (x.opOver d) := by rw [entry_updEntry_self, hx]; rfl
  rw [handedEnd, hentry]
  dsimp only
  split
  · exact .inr (by rw [finish_units hentry, updEntry_units])
  · exact .inl (updEntry_units ..)

theorem engineEnd_reqs (hx : s.entry e = some x) (hreqs : s.units.reqs = []) (h : Bool) (d : Prepared) :
    (engineEnd h e d s).units.reqs = [] := by
  obtain hu | hu := engineEnd_units hx h d <;> rw [hu]
  · exact hreqs
  · simp [Units.left, hreqs]

theorem engine_engineEnd (hx : s.entry e = some x) (hclean : EngClean l k s) (hfree : (s.engine l k).entry = none) (h : Bool)
    (d : Prepared) : (engineEnd h e d s).engine l k = s.engine l k := by
  obtain hu | hu := engineEnd_units hx h d
  · exact State.engine_congr hu l k
  · exact engine_left hclean hfree hu

@[simp] theorem engineEnd_evc (h : Bool) (e : Nat) (d : Prepared) (s : State) : (engineEnd h e d s).evc = s.evc := by
  change (handedEnd h e d.over (s.updEntry e (Entry.opOver d))).evc = s.evc
  rw [handedEnd]
  split
  · exact updEntry_evc ..
  · split
    · rw [finish_evc, updEntry_evc]
    · exact updEntry_evc ..

/-- The command of a core that goes on. -/
theorem engineEnd_entry (hx : s.entry e = some x) (hphase : x.phase ≠ .handed) (h : Bool) (d : Prepared) :
    (engineEnd h e d s).entry e = some (x.opOver d) := by
  rw [engineEnd_kept hx hphase, entry_updEntry_self, hx]
  rfl

/-- The command that was handed over. -/
theorem engineEnd_heldWith (hx : s.entry e = some x) (hphase : x.phase = .handed) (d : Prepared) :
    HeldWith e d.status (engineEnd true e d s) := by
  have hentry : (s.updEntry e (Entry.opOver d)).entry e = some (x.opOver d) := by rw [entry_updEntry_self, hx]; rfl
  rw [engineEnd_handed hx hphase]
  exact finish_heldWith hentry (preparedDone (x.opOver d) d.over)

end

/-! ## ENGINE_OP_COMPLETE (R262, R275) -/

/-- The operation of command `e` on engine `k` has come to its end: the one whose result the command gives. -/
structure OpEnds (s : State) (l : Bool) (k e : Nat) (x : Entry) (d : Prepared) : Prop where
  entry : (s.engine l k).entry = some e
  state : (s.engine l k).state = 1
  behind : (s.engine l k).behind = false
  quiet : s.pwr.quiet = false
  command : s.entry e = some x
  prepared : x.prepared = some d
  kind : d.engine = engKind l
  gen : d.gen = none
  reqs : s.units.reqs = []

/-- The request for the check of a signature. -/
def checkReq (l : Bool) (k e : Nat) : EngReq := { lattice := l, check := some k, prio := 0, core := none, entry := e, handover := false }

/-- The state in which the signature waits behind the result port for its check. -/
def State.checkQueued (s : State) (l : Bool) (k e : Nat) : State :=
  let u := (longEnded l k s).updEngine l k fun u => { u with behind := true, core := none }
  { u with units := { u.units with reqs := u.units.reqs ++ [checkReq l k e] } }

section
variable {s : State} {l : Bool} {k j e : Nat} {x : Entry} {d : Prepared} (hop : OpEnds s l k e x d)
include hop

theorem OpEnds.runs : ¬((s.engine l k).state ≠ 1 ∨ (s.engine l k).behind = true ∨ s.pwr.quiet = true) := by
  simp [hop.state, hop.behind, hop.quiet]

theorem OpEnds.command_freed : (engRelease l k (longEnded l k s)).entry e = some x :=
  (State.entry_congr (by simp) e).trans hop.command

/-- Without a check the operation ends. -/
theorem OpEnds.complete (hcheck : d.check = false) :
    engineOpComplete l k s = engineEnd (s.engine l k).handover e d (engRelease l k (longEnded l k s)) := by
  simp only [engineOpComplete, if_neg hop.runs, hop.entry, hop.command, Option.bind_some, hop.prepared, hop.kind, ne_eq,
    not_true_eq_false, if_false, hcheck, Bool.false_eq_true, engineSettle_plain hop.command_freed hop.prepared hop.gen]
  exact serveEngines_idle (engineEnd_reqs hop.command_freed (by simp [hop.reqs]) _ _)

theorem OpEnds.engine_complete (hcheck : d.check = false) :
    (engineOpComplete l k s).engine l k = { operand := (s.engine l k).operand } := by
  rw [hop.complete hcheck, engine_engineEnd hop.command_freed (engRelease_clean l k _) (by simp [FuncUnit.freed]),
    engine_engRelease_self, (engine_longEnded_self l k s).1]
  rfl

/-- With one it waits for its check. -/
theorem OpEnds.waits (hcheck : d.check = true) : engineOpComplete l k s = serveEngines (s.checkQueued l k e) := by
  simp only [engineOpComplete, if_neg hop.runs, hop.entry, hop.command, Option.bind_some, hop.prepared, hop.kind, ne_eq,
    not_true_eq_false, if_false, hcheck, if_true]
  rfl

theorem OpEnds.queued_reqs : (s.checkQueued l k e).units.reqs = [checkReq l k e] := by
  simp [State.checkQueued, hop.reqs]

theorem OpEnds.queued_entry : (s.checkQueued l k e).entry e = some x :=
  (State.entry_congr (by simp [State.checkQueued]) e).trans hop.command

omit hop in
theorem queued_behind : ((s.checkQueued l k e).engine l k).behind = true := by
  change ((State.updEngine (longEnded l k s) l k _).engine l k).behind = true
  rw [engine_updEngine_self]

omit hop in
theorem queued_enginesStopped : (s.checkQueued l k e).enginesStopped = s.enginesStopped := by
  rw [← longEnded_enginesStopped l k s]
  simp [State.checkQueued, State.enginesStopped, State.erasing]

omit hop in
theorem State.engServes_congr {t : State} (hbst : t.bst = s.bst) (hpwr : t.pwr = s.pwr) (l : Bool) (j : Nat) :
    t.engServes l j = s.engServes l j := by
  cases s
  cases t
  cases hbst
  cases hpwr
  rfl

/-- The engines that are free stay the same ones: the signing engine is none of them. -/
theorem OpEnds.queued_engFree : (s.checkQueued l k e).engFree l = s.engFree l := by
  funext j
  have hserves : (s.checkQueued l k e).engServes l j = s.engServes l j :=
    State.engServes_congr (by simp [State.checkQueued]) (by simp [State.checkQueued]) l j
  have hstate : ((s.checkQueued l k e).engine l j).state = (s.engine l j).state := by
    change ((State.updEngine (longEnded l k s) l k _).engine l j).state = _
    by_cases hj : j = k
    · subst hj
      rw [engine_updEngine_self]
      exact (engine_longEnded_self l j s).2
    · rw [engine_updEngine_other hj, engine_longEnded_other hj]
  rw [State.engFree, State.engFree, hserves, hstate]

theorem OpEnds.free_other (hfree : (List.range (engCount l)).find? (s.engFree l) = some j) : j ≠ k := by
  rintro rfl
  have hj := List.find?_some hfree
  simp [State.engFree, hop.state] at hj

/-- A free engine takes the check at once. -/
theorem OpEnds.checks (hcheck : d.check = true) (hrun : s.enginesStopped = false)
    (hfree : (List.range (engCount l)).find? (s.engFree l) = some j) :
    engineOpComplete l k s = grant j (checkReq l k e) (s.checkQueued l k e) := by
  rw [hop.waits hcheck]
  refine serveEngines_one hop.queued_reqs (queued_enginesStopped.trans hrun) ?_
  rw [checkReq, hop.queued_engFree]
  exact hfree

end

/-! ## SIGN_CHECK_DONE (R275, R277) -/

/-- Engine `k` checks what engine `j` signed for the command `e` of a core. -/
structure Checks (s : State) (l : Bool) (k j e : Nat) (x : Entry) (d : Prepared) : Prop where
  other : j ≠ k
  entry : (s.engine l k).entry = some e
  checks : (s.engine l k).checks = some j
  quiet : s.pwr.quiet = false
  command : s.entry e = some x
  prepared : x.prepared = some d
  gen : d.gen = none
  kept : x.phase ≠ .handed
  reqs : s.units.reqs = []

/-- Both engines free. -/
def State.bothFreed (s : State) (l : Bool) (k j : Nat) : State := engRelease l j (engRelease l k s)

/-- The outcome of a failed check. -/
def Prepared.failed (d : Prepared) : Prepared := { d with status := stHwFault, result := [] }

section
variable {s : State} {l : Bool} {k j e : Nat} {x : Entry} {d : Prepared} {p : Bool}

/-- What a failed check notes: the fault registers of the kind, the record, the events of both engines. -/
def FailNoted (s t : State) : Prop :=
  t.sch = s.sch ∧ t.bst = s.bst ∧ t.tmp = s.tmp ∧ t.units.reqs = s.units.reqs ∧ ∀ l, t.units.engines l = s.units.engines l

theorem checkFailed_noted (l : Bool) (j k : Nat) (s : State) : FailNoted s (checkFailed l j k s) := by
  refine ⟨rfl, rfl, rfl, ?_, fun i => ?_⟩ <;> cases l
  · rfl
  · rfl
  · cases i <;> rfl
  · cases i <;> rfl

/-- A failed check: the outcome, its note, the alarm, both engines to their self-test. -/
theorem signCheckFail_cases (hgen : d.gen = none) (h : Bool) (s : State) :
    ∃ u, FailNoted (engineEnd h e d.failed s) u
      ∧ signCheckFail l h j k e d s = bistTrigger (engBase l + k) 46 (bistTrigger (engBase l + j) 46 (qualify 46 u)) := by
  have hplain : ¬d.gen.isSome = true := by simp [hgen]
  simp only [signCheckFail, if_neg hplain]
  refine ⟨_, ?_, rfl⟩
  obtain ⟨hsch, hbst, htmp, hreqs, hengines⟩ := checkFailed_noted l j k (engineEnd h e d.failed s)
  refine ⟨?_, ?_, ?_, ?_, fun i => ?_⟩
  · rw [raise_sch, raise_sch, tallyRec_sch, ← hsch]; rfl
  · rw [raise_bst, raise_bst, tallyRec_bst, ← hbst]; rfl
  · rw [raise_tmp, raise_tmp, tallyRec_tmp, ← htmp]; rfl
  · rw [raise_units, raise_units, tallyRec_units, ← hreqs]; rfl
  · rw [raise_units, raise_units, tallyRec_units, ← hengines i]; rfl

end

section
variable {s : State} {l : Bool} {k j e : Nat} {x : Entry} {d : Prepared} {p : Bool} (hc : Checks s l k j e x d)
include hc

theorem Checks.command_freed : (s.bothFreed l k j).entry e = some x :=
  (State.entry_congr (by simp [State.bothFreed]) e).trans hc.command

omit hc in
theorem bothFreed_reqs (h : s.units.reqs = []) : (s.bothFreed l k j).units.reqs = [] := by simp [State.bothFreed, h]

/-- Each of the two engines, by name `i`: free, and clean in its list. -/
theorem Checks.engine_freed {i : Nat} (hi : i = k ∨ i = j) :
    EngClean l i (s.bothFreed l k j) ∧ (s.bothFreed l k j).engine l i = (s.engine l i).freed := by
  obtain rfl | rfl := hi
  · refine ⟨(engRelease_clean l i s).engRelease hc.other.symm, ?_⟩
    rw [State.bothFreed, engine_engRelease_other hc.other.symm, engine_engRelease_self]
  · refine ⟨engRelease_clean l i _, ?_⟩
    rw [State.bothFreed, engine_engRelease_self, engine_engRelease_other hc.other]

theorem Checks.passes (hp : checkPasses p d = true) :
    signCheckDone l k p s = engineEnd (s.engine l j).handover e d (s.bothFreed l k j) := by
  simp only [signCheckDone, hc.quiet, Bool.false_eq_true, if_false, hc.checks, hc.entry, hc.command, Option.bind_some, hc.prepared, hp,
    if_true]
  have hsettle := engineSettle_plain hc.command_freed hc.prepared hc.gen (s.engine l j).handover
  rw [State.bothFreed] at hsettle
  rw [hsettle]
  exact serveEngines_idle (engineEnd_reqs hc.command_freed (bothFreed_reqs hc.reqs) _ _)

theorem Checks.fails (hp : checkPasses p d = false) :
    signCheckDone l k p s = serveEngines (signCheckFail l (s.engine l j).handover j k e d (s.bothFreed l k j)) := by
  simp only [signCheckDone, hc.quiet, Bool.false_eq_true, if_false, hc.checks, hc.entry, hc.command, Option.bind_some, hc.prepared, hp]
  rfl

/-- The state as the alarm is raised. -/
theorem Checks.fails_cases (hp : checkPasses p d = false) :
    ∃ u, FailNoted (engineEnd (s.engine l j).handover e d.failed (s.bothFreed l k j)) u
      ∧ signCheckDone l k p s = bistTrigger (engBase l + k) 46 (bistTrigger (engBase l + j) 46 (qualify 46 u)) := by
  obtain ⟨u, hu, hfail⟩ := signCheckFail_cases (l := l) (j := j) (k := k) (e := e) hc.gen (s.engine l j).handover (s.bothFreed l k j)
  refine ⟨u, hu, ?_⟩
  rw [hc.fails hp, hfail]
  obtain ⟨-, -, -, hreqs, -⟩ := hu
  refine serveEngines_idle ?_
  rw [bistTrigger_units, bistTrigger_units]
  obtain hq | hq := qualify_units 46 u <;> rw [hq]
  · rw [hreqs, engineEnd_reqs hc.command_freed (bothFreed_reqs hc.reqs)]
  · rfl

/-- Both engines are free however the check comes out (R275). -/
theorem Checks.engine_done {i : Nat} (hi : i = k ∨ i = j) (p : Bool) :
    (signCheckDone l k p s).engine l i = { operand := (s.engine l i).operand } := by
  obtain ⟨hclean, hfreed⟩ := hc.engine_freed hi
  have hunits : ∀ d, (engineEnd (s.engine l j).handover e d (s.bothFreed l k j)).units = (s.bothFreed l k j).units := fun d => by
    rw [engineEnd_kept hc.command_freed hc.kept, updEntry_units]
  cases hp : checkPasses p d with
  | true =>
    rw [hc.passes hp, State.engine_congr (hunits d), hfreed]
    rfl
  | false =>
    obtain ⟨u, ⟨-, -, -, -, hengines⟩, hfail⟩ := hc.fails_cases hp
    have hu : EngClean l i u ∧ u.engine l i = (s.engine l i).freed := by
      rw [EngClean, engine_eq_get u, hengines, hunits, ← engine_eq_get]
      exact ⟨hclean, hfreed⟩
    have hkept : (qualify 46 u).engine l i = u.engine l i := by
      obtain hq | hq := qualify_units 46 u
      · exact State.engine_congr hq l i
      · exact engine_stopped hu.1 (by rw [hu.2]; rfl) hq
    rw [hfail, State.engine_congr (bistTrigger_units ..), State.engine_congr (bistTrigger_units ..), hkept, hu.2]
    rfl

/-- What a failed check leaves: HW_FAULT without a result, both engines to their self-test, the alarm latched (R275). -/
theorem Checks.fail_facts (hp : checkPasses p d = false) :
    (signCheckDone l k p s).entry e = some (x.opOver d.failed)
      ∧ (engBase l + k, 46) ∈ (signCheckDone l k p s).bst.triggered ∧ (engBase l + j, 46) ∈ (signCheckDone l k p s).bst.triggered
      ∧ (s.tmp.handover = true → s.tmp.disabled.getLsbD 46 = false → (signCheckDone l k p s).tmp.latch.getLsbD 46 = true) := by
  obtain ⟨u, ⟨hsch, -, htmp, -, -⟩, hfail⟩ := hc.fails_cases hp
  have hentry : u.entry e = some (x.opOver d.failed) :=
    (State.entry_congr hsch e).trans (engineEnd_entry hc.command_freed hc.kept _ _)
  have htmp' : u.tmp = s.tmp := by
    rw [htmp, engineEnd_kept hc.command_freed hc.kept, updEntry_tmp, State.bothFreed, engRelease_tmp, engRelease_tmp]
  rw [hfail]
  refine ⟨?_, ?_, ?_, fun hhandover henabled => ?_⟩
  · rw [State.entry_congr (bistTrigger_sch ..), State.entry_congr (bistTrigger_sch ..), State.entry_congr (qualify_sch ..), hentry]
  · simp [bistTrigger]
  · simp [bistTrigger]
  · rw [bistTrigger_tmp, bistTrigger_tmp]
    exact qualify_latches_edge (by decide) (by decide) (by rw [htmp']; exact hhandover) (by rw [htmp']; exact henabled)

end

/-! ## ENGINE_FAULT (R280) -/

/-- The state in which a faulted engine has released its command: its event, and the engines that worked for it free. -/
def State.faulted (s : State) (l : Bool) (k e : Nat) : State :=
  let t := raise (s.engEvent l k) s
  let t := engRelease l k (engReleaseOpt l (t.checkerOf l k) (engReleaseOpt l (s.engine l k).checks t))
  { t with units := { t.units with reqs := t.units.reqs.filter fun r => r.entry ≠ e } }

/-- The outcome of a command whose engine faulted: nothing but what it has already sealed. -/
def Prepared.aborted (d : Prepared) (x : Entry) : Prepared :=
  { d with status := stAbortReset, result := [], inline := if x.csn.isSome then d.inline else 0 }

section
variable {s : State} {l : Bool} {k e : Nat} {x : Entry} {d : Prepared}

@[simp] theorem engReleaseOpt_sch (l : Bool) (o : Option Nat) (s : State) : (engReleaseOpt l o s).sch = s.sch := by
  cases o
  · rfl
  · exact engRelease_sch ..

@[simp] theorem engReleaseOpt_evc (l : Bool) (o : Option Nat) (s : State) : (engReleaseOpt l o s).evc = s.evc := by
  cases o
  · rfl
  · exact engRelease_evc ..

@[simp] theorem engReleaseOpt_reqs (l : Bool) (o : Option Nat) (s : State) : (engReleaseOpt l o s).units.reqs = s.units.reqs := by
  cases o
  · rfl
  · exact engRelease_reqs ..

theorem engReleaseOpt_freed (l : Bool) (o : Option Nat) (k : Nat) (s : State) :
    ((engReleaseOpt l o s).engine l k).freed = (s.engine l k).freed := by
  cases o with
  | none => rfl
  | some j =>
    by_cases hj : k = j
    · subst hj
      rw [engReleaseOpt, engine_engRelease_self]
      rfl
    · exact congrArg FuncUnit.freed (engine_engRelease_other hj s)

theorem faulted_sch (l : Bool) (k e : Nat) (s : State) : (s.faulted l k e).sch = s.sch := by simp [State.faulted]

theorem faulted_reqs (h : s.units.reqs = []) : (s.faulted l k e).units.reqs = [] := by simp [State.faulted, h]

theorem faulted_keepsPending (l : Bool) (k e : Nat) (s : State) : KeepsPending (raise (s.engEvent l k) s) (s.faulted l k e) :=
  .of_eq (by simp [State.faulted])

theorem faulted_engine (l : Bool) (k e : Nat) (s : State) :
    EngClean l k (s.faulted l k e) ∧ (s.faulted l k e).engine l k = (s.engine l k).freed := by
  refine ⟨?_, ?_⟩
  · have hclean := engRelease_clean l k (engReleaseOpt l ((raise (s.engEvent l k) s).checkerOf l k)
      (engReleaseOpt l (s.engine l k).checks (raise (s.engEvent l k) s)))
    cases l <;> exact hclean
  · change (engRelease l k (engReleaseOpt l _ (engReleaseOpt l _ (raise _ s)))).engine l k = _
    rw [engine_engRelease_self, engReleaseOpt_freed, engReleaseOpt_freed, State.engine_congr (raise_units ..)]

theorem engineFault_ends (hstate : (s.engine l k).state ≠ 0) (hentry : (s.engine l k).entry = some e) (hx : s.entry e = some x)
    (hd : x.prepared = some d) (hreqs : s.units.reqs = []) :
    engineFault l k s = engineEnd true e (d.aborted x) (abortReset x (s.faulted l k e)) := by
  have hcommand : (s.faulted l k e).entry e = some x := (State.entry_congr (faulted_sch l k e s) e).trans hx
  have habort : (abortReset x (s.faulted l k e)).entry e = some x := (State.entry_congr (tally_sch ..) e).trans hcommand
  have hidle := engineEnd_reqs habort (by rw [abortReset, tally_units, faulted_reqs hreqs]) true (d.aborted x)
  rw [← serveEngines_idle hidle]
  rw [State.faulted] at hcommand
  simp only [engineFault, if_neg hstate, hentry, hcommand, hd, Option.getD_some]
  rfl

end

/-! ## The clauses -/

/-- A core's request waits while engines are not granted, and takes the first free engine while they are (R261). -/
theorem engineRequest_served {s : State} {c : BitVec 5} {l h : Bool} {e : Nat} {x : Entry} (hc : c.toNat < 24)
    (hentry : (s.core c.toNat).entry = some e) (hx : s.entry e = some x)
    (hlast : h = true → ∃ d, x.prepared = some d ∧ (d.engine = 0 ∨ d.engine = engKind l)) (hreqs : s.units.reqs = [])
    (hroom : s.outstandingOf c < 16) :
    (s.enginesStopped = true → ∃ t, exec (.engineRequest c l h) s = .next t
        ∧ t.units.reqs = [{ lattice := l, check := none, prio := x.prio.toNat, core := some c, entry := e, handover := h }]
        ∧ (t.core c.toNat).handed = ((s.core c.toNat).handed || h))
      ∧ (∀ k, s.enginesStopped = false → (List.range (engCount l)).find? (s.engFree l) = some k →
        ∃ t, exec (.engineRequest c l h) s = .next t ∧ t.units.reqs = [] ∧ (t.engine l k).state = 1 ∧ (t.engine l k).entry = some e
          ∧ (t.engine l k).core = some c ∧ (t.engine l k).handover = h ∧ (t.core c.toNat).handed = ((s.core c.toNat).handed || h)) := by
  have hexec : exec (.engineRequest c l h) s = .next (serveEngines (s.requested c l h e x)) := by
    change execEngineRequest c l h s = _
    rw [execEngineRequest, if_neg (by omega), engineRequest_taken hentry hx hlast hroom]
  have hone : (s.requested c l h e x).units.reqs = [coreReq c l h e x] := requested_reqs hreqs
  refine ⟨fun hstop => ⟨_, hexec, ?_⟩, fun k hrun hfree => ⟨_, hexec, ?_⟩⟩
  · have hstopped : (s.requested c l h e x).enginesStopped = true := hstop
    rw [serveEngines_stopped hstopped]
    exact ⟨hone, requested_handed⟩
  · have hserved : serveEngines (s.requested c l h e x) = grant k (coreReq c l h e x) (s.requested c l h e x) :=
      serveEngines_one hone hrun hfree
    obtain ⟨hstate, hcommand, -, hcore, hhandover⟩ := grant_takes (s := s.requested c l h e x) (r := coreReq c l h e x) hx k
    have hhanded : ((grant k (coreReq c l h e x) (s.requested c l h e x)).core c.toNat).handed = ((s.core c.toNat).handed || h) := by
      rw [State.core, grant_cmc]
      exact requested_handed
    rw [hserved]
    exact ⟨by simp [hone], hstate, hcommand, hcore, hhandover, hhanded⟩

/-- A core without a bound command is refused with KEY_PITCH and its event (R57, R470). -/
theorem engineRequest_unbound {s : State} {c : BitVec 5} (hc : c.toNat < 24) (hentry : (s.core c.toNat).entry = none) (l h : Bool) :
    ∃ t, exec (.engineRequest c l h) s = .next t ∧ (Routed (504 + (c.toNat + 1) % 40) s → Pends (504 + (c.toNat + 1) % 40) t)
      ∧ .coreRefused c stKeyPitch ∈ t.out ∧ t = withEvents s t := by
  have hexec : exec (.engineRequest c l h) s = .next (coreRefused c s) := by
    change execEngineRequest c l h s = _
    simp only [execEngineRequest, if_neg (Nat.not_le.mpr hc), engineRequest, hentry]
  refine ⟨_, hexec, fun hrouted => raise_pends hrouted, mem_out_raise _ (List.mem_append_right _ (List.mem_singleton.mpr rfl)), ?_⟩
  obtain ⟨u, hu⟩ := raise_onlyEvents (504 + (c.toNat + 1) % 40) (s.emit (.coreRefused c stKeyPitch))
  rw [coreRefused, hu]
  rfl

/-- The end of an operation (R262, R264, R275). -/
theorem OpEnds.clauses {s : State} {l : Bool} {k : BitVec 5} {e : Nat} {x : Entry} {d : Prepared} (hk : k.toNat < engCount l)
    (hop : OpEnds s l k.toNat e x d) :
    (d.check = false → ∀ b, x.phase = .bound b → ∃ t, exec (.engineOpComplete l k) s = .next t
        ∧ t.engine l k.toNat = { operand := (s.engine l k.toNat).operand }
        ∧ t.entry e = some (x.opOver d))
      ∧ (d.check = false → x.phase = .handed → (s.engine l k.toNat).handover = true → ∃ t, exec (.engineOpComplete l k) s = .next t
        ∧ t.engine l k.toNat = { operand := (s.engine l k.toNat).operand }
        ∧ (∀ y, t.entry e = some y → y.phase = .held ∧ y.decided = some d.status))
      ∧ (d.check = true → s.enginesStopped = true → ∃ t, exec (.engineOpComplete l k) s = .next t ∧ (t.engine l k.toNat).behind = true
        ∧ t.units.reqs = [{ lattice := l, check := some k.toNat, prio := 0, core := none, entry := e, handover := false }]
        ∧ t.entry e = some x)
      ∧ (d.check = true → s.enginesStopped = false → ∀ j, (List.range (engCount l)).find? (s.engFree l) = some j →
        ∃ t, exec (.engineOpComplete l k) s = .next t ∧ (t.engine l k.toNat).behind = true ∧ t.units.reqs = [] ∧ j ≠ k.toNat
          ∧ (t.engine l j).state = 2 ∧ (t.engine l j).checks = some k.toNat ∧ (t.engine l j).entry = some e ∧ t.entry e = some x) := by
  have hexec : exec (.engineOpComplete l k) s = .next (engineOpComplete l k.toNat s) := if_neg (by omega)
  refine ⟨fun hcheck b hphase => ⟨_, hexec, hop.engine_complete hcheck, ?_⟩,
    fun hcheck hphase hhandover => ⟨_, hexec, hop.engine_complete hcheck, ?_⟩,
    fun hcheck hstop => ⟨_, hexec, ?_⟩, fun hcheck hrun j hfree => ⟨_, hexec, ?_⟩⟩
  · rw [hop.complete hcheck, engineEnd_entry hop.command_freed (by simp [hphase])]
  · rw [hop.complete hcheck, hhandover]
    exact (engineEnd_heldWith hop.command_freed hphase d).2
  · rw [hop.waits hcheck, serveEngines_stopped (queued_enginesStopped.trans hstop)]
    exact ⟨queued_behind, hop.queued_reqs, hop.queued_entry⟩
  · have hother := hop.free_other hfree
    obtain ⟨hstate, hcommand, hchecks, -, -⟩ := grant_takes (r := checkReq l k.toNat e) hop.queued_entry j
    have hbehind := engine_grant_other hother.symm (checkReq l k.toNat e) (s.checkQueued l k.toNat e)
    rw [hop.checks hcheck hrun hfree]
    refine ⟨?_, by simp [hop.queued_reqs], hother, hstate, hchecks, hcommand, ?_⟩
    · exact (congrArg FuncUnit.behind hbehind).trans queued_behind
    · rw [State.entry_congr (grant_sch ..), hop.queued_entry]

/-- The end of a check (R275). -/
theorem Checks.clauses {s : State} {l : Bool} {k : BitVec 5} {j e : Nat} {x : Entry} {d : Prepared} (hk : k.toNat < engCount l)
    (hc : Checks s l k.toNat j e x d) (p : Bool) :
    ∃ t, exec (.signCheckDone l k p) s = .next t ∧ t.engine l k.toNat = { operand := (s.engine l k.toNat).operand }
      ∧ t.engine l j = { operand := (s.engine l j).operand }
      ∧ (checkPasses p d = true → t.entry e = some (x.opOver d))
      ∧ (checkPasses p d = false →
        (∃ y, t.entry e = some y ∧ y.decided = some stHwFault
          ∧ y.prepared = some { d with status := stHwFault, result := [], engine := 0, gen := none, method := none })
        ∧ (engBase l + k.toNat, 46) ∈ t.bst.triggered ∧ (engBase l + j, 46) ∈ t.bst.triggered
        ∧ (s.tmp.handover = true → s.tmp.disabled.getLsbD 46 = false → t.tmp.latch.getLsbD 46 = true)) := by
  have hexec : exec (.signCheckDone l k p) s = .next (signCheckDone l k.toNat p s) := if_neg (by omega)
  refine ⟨_, hexec, hc.engine_done (.inl rfl) p, hc.engine_done (.inr rfl) p, fun hp => ?_, fun hp => ?_⟩
  · rw [hc.passes hp, engineEnd_entry hc.command_freed hc.kept]
  · obtain ⟨hentry, halarm⟩ := hc.fail_facts hp
    exact ⟨⟨_, hentry, rfl, rfl⟩, halarm⟩

/-- A fault of an engine (R280). -/
theorem engineFault_clauses {s : State} {l : Bool} {k : BitVec 5} {e : Nat} {x : Entry} {d : Prepared} (hk : k.toNat < engCount l)
    (hstate : (s.engine l k.toNat).state ≠ 0) (hentry : (s.engine l k.toNat).entry = some e) (hx : s.entry e = some x)
    (hd : x.prepared = some d) (hreqs : s.units.reqs = []) :
    ∃ t, exec (.engineFault l k) s = .next t ∧ t.engine l k.toNat = { operand := (s.engine l k.toNat).operand }
      ∧ (∀ b, x.phase = .bound b → ∃ y, t.entry e = some y ∧ y.decided = some stAbortReset)
      ∧ (x.phase = .handed → ∀ y, t.entry e = some y → y.phase = .held ∧ y.decided = some stAbortReset)
      ∧ (Routed (s.engEvent l k.toNat) s → Pends (s.engEvent l k.toNat) t) := by
  have hexec : exec (.engineFault l k) s = .next (engineFault l k.toNat s) := if_neg (by omega)
  have hcommand : (abortReset x (s.faulted l k.toNat e)).entry e = some x :=
    (State.entry_congr ((tally_sch ..).trans (faulted_sch ..)) e).trans hx
  obtain ⟨hclean, hfreed⟩ := faulted_engine l k.toNat e s
  have hnoted : (abortReset x (s.faulted l k.toNat e)).units = (s.faulted l k.toNat e).units := tally_units ..
  have hengine : (abortReset x (s.faulted l k.toNat e)).engine l k.toNat = (s.engine l k.toNat).freed :=
    (State.engine_congr hnoted ..).trans hfreed
  rw [engineFault_ends hstate hentry hx hd hreqs] at hexec
  refine ⟨_, hexec, ?_, fun b hphase => ?_, fun hphase => (engineEnd_heldWith hcommand hphase _).2, fun hrouted => ?_⟩
  · rw [engine_engineEnd hcommand (hclean.congr hnoted) (by rw [hengine]; rfl), hengine]
    rfl
  · exact ⟨_, engineEnd_entry hcommand (by simp [hphase]) _ _, rfl⟩
  · have hnote : KeepsPending (s.faulted l k.toNat e) (abortReset x (s.faulted l k.toNat e)) :=
      tallyRec_keepsPending _ _ _ _ _ _
    rw [Pends, engineEnd_evc]
    exact ((faulted_keepsPending l k.toNat e s).trans hnote) _ (raise_pends hrouted)

end Sys2Proof.Machine

namespace Sys2Proof.Proofs

open Sys2Proof.Machine Sys2Proof.Safety

/-- Settles O47: without other requests each operation's end serves nobody else, and an engine that is free is left alone by what the
command or an erase releases afterwards. -/
theorem engineOperations : Obligations.EngineOperations := by
  unfold Obligations.EngineOperations
  refine ⟨fun s c e x l h hc hentry hx hlast hreqs hroom => engineRequest_served hc hentry hx hlast hreqs hroom,
    fun s c l h hc hentry => engineRequest_unbound hc hentry l h, ?_, ?_,
    fun s l k e x d hk hstate hentry hx hd hreqs => engineFault_clauses hk hstate hentry hx hd hreqs⟩
  · intro s l k e x d hk hentry hstate hbehind hquiet hx hd hkind hgen hreqs
    exact OpEnds.clauses hk ⟨hentry, hstate, hbehind, hquiet, hx, hd, hkind, hgen, hreqs⟩
  · intro s l k j e x d b p hk hother hentry hchecks hquiet hx hd hgen hphase hreqs
    exact Checks.clauses hk ⟨hother, hentry, hchecks, hquiet, hx, hd, hgen, by simp [hphase], hreqs⟩ p

end Sys2Proof.Proofs
end

section
/-! KEY_CHECK_VALUE and the key checks before it (R128, R173): how a command in execution goes on or stops, the opcode over its tracker entry,
the capture of one key stage by stage, and the stage at which each check refuses. -/

namespace Sys2Proof.Machine

open Sys2Proof.Safety

/-! ## How a command in execution goes on or stops -/

section
variable {α β : Type} {m : Act α} {f : α → Act β} {s t : State} {a : α} {st : BitVec 16} {o : Stop}

theorem run_bind_ok (h : m.run s = (.ok a, t)) : (m >>= f).run s = (f a).run t := by
  change ExceptT.bindCont f (m s).1 (m s).2 = _
  rw [show m s = _ from h]
  rfl

theorem run_bind_stops (h : m.run s = (.error o, t)) : (m >>= f).run s = (.error o, t) := by
  change ExceptT.bindCont f (m s).1 (m s).2 = _
  rw [show m s = _ from h]
  rfl

theorem run_get (s : State) : (get : Act State).run s = (.ok s, s) := rfl

theorem run_check_ok {b : Bool} (h : b = true) (st : BitVec 16) (s : State) : (check b st).run s = (.ok (), s) := by
  rw [check, if_pos h]
  rfl

theorem run_check_fails {b : Bool} (h : b = false) (st : BitVec 16) (s : State) : (check b st).run s = (.error (.fail st 0 0), s) := by
  simp only [check, h, Bool.false_eq_true, if_false]
  rfl

end

/-! ## An opcode over its tracker entry -/

/-- What becomes of a command whose opcode came to an outcome. -/
def opOutcome (e : BitVec 17) (env : CmdEnv) (x : Entry) (s : State) : Except Stop Ans × State → State
  | (.ok a, t) => conclude e.toNat (decide (x.phase = .admitted)) a.status a 0 t
  | (.error (.fail st n i), t) => conclude e.toNat (decide (x.phase = .admitted)) st { inline := i } n t
  | (.error (.mismatch l i), t) => afterMismatch x l (conclude e.toNat (decide (x.phase = .admitted)) stHwFault { inline := i } 0 t)
  | (.error .wait, t) => runSteps x env.steps (waiting s t)
  | (.error .parked, t) => runSteps x env.steps t
  | (.error (.restore n tag), t) => runSteps x env.steps (t.updEntry e.toNat fun x => { x with restore := some (n, tag) })
  | (.error (.replayed m), t) => finish e.toNat { status := m.status, replayed := true, csn := some m.csn } t

section
variable {s t : State} {e : BitVec 17} {env : CmdEnv} {op : Nat} {x : Entry} (hruns : Runs s e env op x)
include hruns

theorem runs_phase : x.phase = .admitted ∧ x.ctx.isSome = true ∨ ∃ c, x.phase = .bound c := by
  obtain ⟨-, -, hnow, -⟩ := hruns
  simp only [State.runsNow, Bool.and_eq_true] at hnow
  obtain ⟨-, hphase⟩ := hnow
  cases hp : x.phase <;> simp_all

/-- A command that runs does not wait for its context. -/
theorem routeRecipe_of_runs : routeRecipe e.toNat s = s := by
  have hwants : s.wantsCtx x = false := by
    obtain ⟨-, hctx⟩ | ⟨c, hphase⟩ := runs_phase hruns
    · simp [State.wantsCtx, Option.isSome_iff_ne_none.mp hctx]
    · simp [State.wantsCtx, hphase]
  obtain ⟨hx, -⟩ := hruns
  simp only [routeRecipe, hx, hwants, Bool.false_eq_true, false_and, if_false]

theorem runOp_of_runs (f : Run → Act Ans) : runOp e.toNat op env f s = opOutcome e env x s ((f (runOf e env x)).run s) := by
  have hroute := routeRecipe_of_runs hruns
  have hphase := runs_phase hruns
  obtain ⟨hx, hreplay, hnow, -, -, -, hbroken⟩ := hruns
  have hheld : x.phase ≠ .held := by
    obtain ⟨hp, -⟩ | ⟨c, hp⟩ := hphase <;> simp [hp]
  simp only [runOp, hroute, hx, hnow, hreplay, Bool.not_true, Bool.false_eq_true, if_false, false_or, if_neg hheld, hbroken]
  rfl

end


/-! ## The capture of one key, stage by stage (R128, R166) -/

section
variable {s t u : State} {r : Run} {ref : Ref} {need : Key → Bool} {k : Key} {h n : Nat} {o : Stop}

/-- Checks 9 and 10 of a key found, and its place in the tracker entry. -/
def useFound (r : Run) (need : Key → Bool) (found : Option (Key × Nat)) : Act Key := do
  let keep : Act PUnit :=
    modify fun s => s.updEntry r.e fun x => { x with captured := some ([found].map fun k => k.map fun y => y.1.keep y.2) }
  match found with
  | some k => do
    checkUse r false need k.1
    checkLife k.1
    keep
    pure k.1
  | none => do
    keep
    refuse stKeyNotFound

/-- The capture of one key: its range, its owner, its read, its place, its block, its use. -/
theorem captureOne_eq (hcaptured : r.x.captured = none) (ref : Ref) (need : Key → Bool) :
    captureOne r ref need = (do
      checkRange r ref r.env.blkA
      checkOwned r ref
      readSlots r [(ref, r.env.blkA)]
      let found ← checkFound r false ref r.env.blkA
      let key ← checkBlock r true none ref found
      useFound r need key) := by
  simp only [captureOne, capture, captureWith, keeping, hcaptured, bind_assoc, pure_bind, List.forM_eq_forM, List.forM_cons, List.forM_nil,
    List.mapM_cons, List.mapM_nil, List.zip_cons_cons, List.zip_nil_left, List.map_cons, List.map_nil, check, if_true]
  refine bind_congr fun _ => bind_congr fun _ => bind_congr fun _ => bind_congr fun _ => bind_congr fun key => ?_
  cases key <;> rfl

theorem captureOne_range_stops (hcaptured : r.x.captured = none) (hrange : (checkRange r ref r.env.blkA).run s = (.error o, t)) :
    (captureOne r ref need).run s = (.error o, t) := by
  rw [captureOne_eq hcaptured]
  exact run_bind_stops hrange

theorem captureOne_owned_stops (hcaptured : r.x.captured = none) (hrange : (checkRange r ref r.env.blkA).run s = (.ok (), s))
    (howned : (checkOwned r ref).run s = (.error o, t)) : (captureOne r ref need).run s = (.error o, t) := by
  rw [captureOne_eq hcaptured, run_bind_ok hrange]
  exact run_bind_stops howned

/-- A reference in range that the pitch owns. -/
def Placed (r : Run) (ref : Ref) (s : State) : Prop :=
  (checkRange r ref r.env.blkA).run s = (.ok (), s) ∧ (checkOwned r ref).run s = (.ok (), s)

theorem captureOne_read_stops (hcaptured : r.x.captured = none) (hplaced : Placed r ref s)
    (hread : (readSlots r [(ref, r.env.blkA)]).run s = (.error o, t)) : (captureOne r ref need).run s = (.error o, t) := by
  rw [captureOne_eq hcaptured, run_bind_ok hplaced.1, run_bind_ok hplaced.2]
  exact run_bind_stops hread

/-- And that reads without an error. -/
def Reads (r : Run) (ref : Ref) (s : State) : Prop := Placed r ref s ∧ (readSlots r [(ref, r.env.blkA)]).run s = (.ok (), s)

theorem captureOne_found_stops (hcaptured : r.x.captured = none) (hreads : Reads r ref s)
    (hfound : (checkFound r false ref r.env.blkA).run s = (.error o, t)) : (captureOne r ref need).run s = (.error o, t) := by
  obtain ⟨⟨hrange, howned⟩, hread⟩ := hreads
  rw [captureOne_eq hcaptured, run_bind_ok hrange, run_bind_ok howned, run_bind_ok hread]
  exact run_bind_stops hfound

theorem captureOne_found (hcaptured : r.x.captured = none) (hreads : Reads r ref s)
    (hfound : (checkFound r false ref r.env.blkA).run s = (.ok (.key k), t)) :
    (captureOne r ref need).run s = (useFound r need (some (k, 0))).run t := by
  obtain ⟨⟨hrange, howned⟩, hread⟩ := hreads
  rw [captureOne_eq hcaptured, run_bind_ok hrange, run_bind_ok howned, run_bind_ok hread, run_bind_ok hfound]
  rfl

/-! ## Checks 9 and 10 -/

theorem checkUse_ok (huse : Usable r false k) (hneed : need k = true) (s : State) : (checkUse r false need k).run s = (.ok (), s) := by
  obtain ⟨hrow, hlen, hworld, howner, hweak, hctr⟩ := huse
  have hcounter : (k.attr.ctrKind = 0 || k.slot.isSome || false) = true := by simpa using hctr
  exact run_check_ok (by simp [hrow, hlen, hworld, howner, hweak, hneed, hcounter]) _ s

theorem checkUse_fails (hother : k.attr.world.testBit r.world = false ∨ k.attr.owner ≠ r.p) (s : State) :
    (checkUse r false need k).run s = (.error (.fail stKeyUsage 0 0), s) :=
  run_check_fails (by obtain h | h := hother <;> simp [h]) _ s

theorem checkLife_ok (hlife : k.attr.life.testBit (s.lcsState - 1) = true) : (checkLife k).run s = (.ok (), s) :=
  run_check_ok hlife _ s

theorem checkLife_fails (hlife : k.attr.life.testBit (s.lcsState - 1) = false) :
    (checkLife k).run s = (.error (.fail stKeyLifecycle 0 0), s) := run_check_fails hlife _ s

theorem useFound_usage (hother : k.attr.world.testBit r.world = false ∨ k.attr.owner ≠ r.p) (h : Nat) (s : State) :
    (useFound r need (some (k, h))).run s = (.error (.fail stKeyUsage 0 0), s) := run_bind_stops (checkUse_fails hother s)

theorem useFound_lifecycle (huse : Usable r false k) (hneed : need k = true) (hlife : k.attr.life.testBit (s.lcsState - 1) = false) (h : Nat) :
    (useFound r need (some (k, h))).run s = (.error (.fail stKeyLifecycle 0 0), s) :=
  (run_bind_ok (checkUse_ok huse hneed s)).trans (run_bind_stops (checkLife_fails hlife))

theorem useFound_keeps (hallowed : Allowed s r false k) (hneed : need k = true) (h : Nat) :
    (useFound r need (some (k, h))).run s = (.ok k, kept r.e [some (k, h)] s) :=
  (run_bind_ok (checkUse_ok hallowed.1 hneed s)).trans (run_bind_ok (checkLife_ok hallowed.2))

/-! ## References (R46, R113, R301) -/

theorem slot_placed (howner : s.blockOwner (n / 64) = some r.p) : Placed r (.slot n) s :=
  ⟨rfl, run_check_ok (decide_eq_true howner) _ s⟩

theorem checkOwned_fails (howner : s.blockOwner (n / 64) ≠ some r.p) :
    (checkOwned r (.slot n)).run s = (.error (.fail stKeyPitch 0 0), s) := run_check_fails (decide_eq_false howner) _ s

theorem readSlots_slot (r : Run) (n : Nat) (h : HostRead) (s : State) : (readSlots r [(.slot n, h)]).run s = (slotRead r n).run s := by
  change (([n] : List Nat).eraseDups.forM (slotRead r)).run s = _
  simp [List.eraseDups_cons]

theorem slot_reads (howner : s.blockOwner (n / 64) = some r.p) (hclean : r.env.slotFault = .clean) : Reads r (.slot n) s := by
  refine ⟨slot_placed howner, ?_⟩
  rw [readSlots_slot]
  simp only [slotRead, hclean]
  rfl

theorem handle_reads (r : Run) (ep q i : Nat) (s : State) : Reads r (.handle ep q i) s := ⟨⟨rfl, rfl⟩, rfl⟩

theorem slotRead_double {m : BitVec 18} (hdouble : r.env.slotFault = .double m) (hlo : n ≤ m.toNat) (hhi : m.toNat < n + s.runOf n) :
    (slotRead r n).run s = (.error (.restore m false), s) := by
  have hhit : (decide (n ≤ m.toNat) && decide (m.toNat < n + s.runOf n)) = true := by simp [hlo, hhi]
  rw [slotRead, run_bind_ok (run_get s)]
  simp only [hdouble, hhit, if_true]
  rfl

theorem checkFound_slot (hkey : s.slotKey n = some k) (h : HostRead) : (checkFound r false (.slot n) h).run s = (.ok (.key k), s) := by
  rw [checkFound, run_bind_ok (run_get s), hkey]
  rfl

theorem checkFound_slot_empty (hkey : s.slotKey n = none) (h : HostRead) :
    (checkFound r false (.slot n) h).run s = (.error (.fail stKeyNotFound 0 0), s) := by
  rw [checkFound, run_bind_ok (run_get s), hkey]
  rfl

/-- The state once a handle has hit its entry (R113, R169). -/
def cacheHit (p i : Nat) (s : State) : State := kbcHit p (s.setKbc p i { s.kbcEntry p i with ref := true })

theorem checkFound_handle {ep q i : Nat} (hlive : s.handleLive r.p ep q i = true) (h : HostRead) :
    (checkFound r false (.handle ep q i) h).run s = (.ok (.key (s.cachedKey r.p i)), cacheHit r.p i s) := by
  rw [checkFound, run_bind_ok (run_get s), if_pos hlive]
  rfl

theorem checkFound_handle_stale {ep q i : Nat} (hlive : s.handleLive r.p ep q i = false) (h : HostRead) :
    (checkFound r false (.handle ep q i) h).run s = (.error (.fail stKeyNotFound 0 0), kbcMiss r.p s) := by
  rw [checkFound, run_bind_ok (run_get s)]
  simp only [hlive, Bool.false_eq_true, if_false]
  rfl

theorem checkRange_outside {b : Nat} (hwindow : windowCovers r.x.windows r.x.port false (BitVec.ofNat 64 b) n = false) (h : HostRead) :
    (checkRange r (.host n b) h).run s = (.error (.fail stBadPointer 0 0), s) := run_bind_stops (run_check_fails hwindow _ s)

theorem checkRange_failed {b : Nat} {h : HostRead} {why : ReadFail}
    (hwindow : windowCovers r.x.windows r.x.port false (BitVec.ofNat 64 b) n = true) (hread : s.hostRead r.x.port h = .failed why) :
    (checkRange r (.host n b) h).run s = (.error (.fail stDmaFault 0 0), aerReport r.x.port why s) := by
  rw [checkRange, run_bind_ok (run_check_ok hwindow _ s), run_bind_ok (run_get s), hread]
  rfl

end

/-! ## KEY_CHECK_VALUE (R173) -/

section
variable {s t : State} {r : Run} {a : Ref} {k : Key} {c : Bytes} {o : Stop}

/-- The answer of KEY_CHECK_VALUE for its key. -/
def kcvOf (r : Run) (k : Key) : Act Ans :=
  match kcv (r.x.byte 0x40) k.attr k.tag k.val with
  | none => refuse stBadField
  | some c => do
    unitFaults r true 0
    pure { inline := inlineOf c }

/-- An SQE of the opcode's form names one key that is not absent. -/
structure KcvFormed (r : Run) (a : Ref) : Prop where
  form : Formed r.x 0 [(offA, anyType), (offB, [0])] [(0x40, 1)] [a, .none]
  method : r.x.byte 0x40 ≤ 1
  captured : r.x.captured = none

/-- A reference that is read is of an allowed type (R112). -/
theorem readRefs_type {sqe : Bytes} {off : Nat} {types : List Nat} {l : List RefForm} {refs : List Ref}
    (h : readRefs sqe ((off, types) :: l) = some (a :: refs)) : types.contains a.type = true := by
  simp only [readRefs] at h
  split at h
  · split at h
    · next hallowed =>
      obtain ⟨rfl, -⟩ := List.cons.inj (Option.some.inj h)
      exact hallowed
    · cases h
  · cases h

theorem KcvFormed.some (h : KcvFormed r a) : a ≠ .none := by
  rintro rfl
  exact absurd (readRefs_type h.form.1) (by decide)

theorem noData_ok (hdata : r.x.dataLen = 0) (s : State) : (noData r).run s = (.ok (), s) := run_check_ok (decide_eq_true hdata) _ s

theorem checkForm_ok {x : Entry} {flags : Nat} {forms : List RefForm} {used : List (Nat × Nat)} {refs : List Ref}
    (h : Formed x flags forms used refs) (s : State) : (checkForm x flags forms used).run s = (.ok refs, s) := by
  obtain ⟨hrefs, hflags, hplace, hunused⟩ := h
  simp only [checkForm, hrefs, hflags, hplace, hunused, ne_eq, not_true_eq_false, or_self, if_false]
  rfl

theorem keyCheckValue_run (h : KcvFormed r a) (s : State) : (keyCheckValue r).run s = (do
    noData r
    checkErased [a] false
    let k ← captureOne r a fun _ => true
    kcvOf r k : Act Ans).run s := by
  rw [keyCheckValue, run_bind_ok (checkForm_ok h.form s)]
  dsimp only
  rw [run_bind_ok (run_check_ok (decide_eq_true h.method) _ s)]
  rfl

theorem keyCheckValue_length (h : KcvFormed r a) (hdata : r.x.dataLen ≠ 0) (s : State) :
    (keyCheckValue r).run s = (.error (.fail stBadLength 0 0), s) := by
  rw [keyCheckValue_run h]
  exact run_bind_stops (run_check_fails (decide_eq_false hdata) _ s)

theorem keyCheckValue_erased (h : KcvFormed r a) (hdata : r.x.dataLen = 0) (hlatch : s.bat.latch = true) :
    (keyCheckValue r).run s = (.error (.fail stKeyErased 0 0), s) := by
  have hnone : a ≠ .none := h.some
  rw [keyCheckValue_run h, run_bind_ok (noData_ok hdata s)]
  exact run_bind_stops (run_check_fails (by simp [hlatch, hnone]) _ s)

/-- Past its length and an erase, the command comes to its key. -/
theorem keyCheckValue_captures (h : KcvFormed r a) (hdata : r.x.dataLen = 0) (hlatch : s.bat.latch = false) :
    (keyCheckValue r).run s = (captureOne r a (fun _ => true) >>= kcvOf r).run s := by
  have herased : (checkErased [a] false).run s = (.ok (), s) := run_check_ok (by simp [hlatch]) _ s
  rw [keyCheckValue_run h, run_bind_ok (noData_ok hdata s), run_bind_ok herased]

/-- The lanes work where neither a memory error nor a failed comparison nor a broken recipe is in the way (R143, R144, R235). -/
theorem unitFaults_ok (hecc : r.env.ecc = none) (hbroken : r.broken = false) (hdup : r.env.dupFail = false) (htwin : r.env.twinFail = none)
    (hlanes : Lanes s) (inl : BitVec 64) : (unitFaults r true inl).run s = (.ok (), lanesUsed true s) := by
  have hserves : (true && decide ((s.drbg 6).state = 2)) = false := by simpa using hlanes
  simp only [unitFaults, hecc, hbroken, hdup, htwin, Bool.false_eq_true, if_false]
  rw [run_bind_ok (run_get s)]
  simp only [hserves, Bool.false_eq_true, if_false]
  rfl

theorem keyCheckValue_stops (h : KcvFormed r a) (hdata : r.x.dataLen = 0) (hlatch : s.bat.latch = false)
    (hstop : (captureOne r a fun _ => true).run s = (.error o, t)) : (keyCheckValue r).run s = (.error o, t) := by
  rw [keyCheckValue_captures h hdata hlatch]
  exact run_bind_stops hstop

end

/-! ## The command in its tracker entry -/

/-- The command runs, with a key to look up: no data, no erase. -/
structure KcvRuns (s : State) (e : BitVec 17) (env : CmdEnv) (x : Entry) (a : Ref) : Prop where
  runs : Runs s e env 0x0104 x
  formed : KcvFormed (runOf e env x) a
  data : x.dataLen = 0
  latch : s.bat.latch = false

section
variable {s t : State} {e : BitVec 17} {env : CmdEnv} {x : Entry} {a : Ref} {k : Key} {c : Bytes} {st : BitVec 16} {n : Nat}

theorem keyCheckValue_refuses (hruns : Runs s e env 0x0104 x)
    (hstop : (keyCheckValue (runOf e env x)).run s = (.error (.fail st 0 0), t)) : Refuses (.keyCheckValue e env) s e x st t := by
  change Host.Outcome.next (runOp e.toNat 0x0104 env keyCheckValue s) = _
  rw [runOp_of_runs hruns, hstop]
  rfl

section
variable (h : KcvRuns s e env x a)
include h

theorem KcvRuns.refuses (hstop : (captureOne (runOf e env x) a fun _ => true).run s = (.error (.fail st 0 0), t)) :
    Refuses (.keyCheckValue e env) s e x st t :=
  keyCheckValue_refuses h.runs (keyCheckValue_stops h.formed h.data h.latch hstop)

/-- The command answers the KCV of the key found. -/
theorem KcvRuns.ends (hreads : Reads (runOf e env x) a s)
    (hfound : (checkFound (runOf e env x) false a env.blkA).run s = (.ok (.key k), t)) (hallowed : Allowed t (runOf e env x) false k)
    (hlanes : Lanes t) (hkcv : kcv (x.byte 0x40) k.attr k.tag k.val = some c) :
    Ends (.keyCheckValue e env) s e x { inline := inlineOf c } (lanesUsed true (kept e.toNat [some (k, 0)] t)) := by
  obtain ⟨-, -, -, hecc, hdup, htwin, -⟩ := h.runs
  have hcaptured : (captureOne (runOf e env x) a fun _ => true).run s = (.ok k, kept e.toNat [some (k, 0)] t) :=
    (captureOne_found h.formed.captured hreads hfound).trans (useFound_keeps hallowed rfl 0)
  have hfaults : (unitFaults (runOf e env x) true 0).run (kept e.toNat [some (k, 0)] t)
      = (.ok (), lanesUsed true (kept e.toNat [some (k, 0)] t)) := 
    unitFaults_ok (s := kept e.toNat [some (k, 0)] t) hecc rfl hdup htwin hlanes 0
  have hof : (kcvOf (runOf e env x) k).run (kept e.toNat [some (k, 0)] t)
      = (.ok { inline := inlineOf c }, lanesUsed true (kept e.toNat [some (k, 0)] t)) := by
    have hkcv' : kcv ((runOf e env x).x.byte 0x40) k.attr k.tag k.val = some c := hkcv
    simp only [kcvOf, hkcv']
    exact run_bind_ok hfaults
  change Host.Outcome.next (runOp e.toNat 0x0104 env keyCheckValue s) = _
  rw [runOp_of_runs h.runs, keyCheckValue_captures h.formed h.data h.latch, run_bind_ok hcaptured, hof]
  rfl

end

/-- A slot of its run that reads with an error of two bits is restored first (R301). -/
theorem KcvRuns.restores {m : BitVec 18} (h : KcvRuns s e env x (.slot n)) (howner : s.blockOwner (n / 64) = some x.pitch.toNat)
    (hdouble : env.slotFault = .double m) (hlo : n ≤ m.toNat) (hhi : m.toNat < n + s.runOf n) :
    exec (.keyCheckValue e env) s
      = .next (runSteps x env.steps (s.updEntry e.toNat fun x => { x with restore := some (m, false) })) := by
  have hread : (readSlots (runOf e env x) [(.slot n, env.blkA)]).run s = (.error (.restore m false), s) :=
    (readSlots_slot _ n _ s).trans (slotRead_double hdouble hlo hhi)
  change Host.Outcome.next (runOp e.toNat 0x0104 env keyCheckValue s) = _
  rw [runOp_of_runs h.runs, keyCheckValue_stops h.formed h.data h.latch
    (captureOne_read_stops h.formed.captured (slot_placed howner) hread)]
  rfl

end

end Sys2Proof.Machine

namespace Sys2Proof.Proofs

open Sys2Proof.Machine Sys2Proof.Safety

/-- Settles O52: each check is a stage of the capture, and the first stage that fails stops the command. -/
theorem keyChecks : Obligations.KeyChecks := by
  unfold Obligations.KeyChecks
  intro s e env x a hruns hcaptured hform hmethod
  have hformed : KcvFormed (runOf e env x) a := ⟨hform, hmethod, hcaptured⟩
  refine ⟨fun hdata => keyCheckValue_refuses hruns (keyCheckValue_length hformed hdata s),
    fun hdata hlatch => keyCheckValue_refuses hruns (keyCheckValue_erased hformed hdata hlatch), fun hdata hlatch => ?_⟩
  have h : KcvRuns s e env x a := ⟨hruns, hformed, hdata, hlatch⟩
  refine ⟨?range, ?read, ?owner, ?restore, ?empty, ?slot, ?stale, ?handle⟩
  case range =>
    rintro n b rfl hwindow
    exact h.refuses (captureOne_range_stops hcaptured (checkRange_outside hwindow _))
  case read =>
    rintro n b why rfl hwindow hread
    exact h.refuses (captureOne_range_stops hcaptured (checkRange_failed hwindow hread))
  case owner =>
    rintro n rfl howner
    exact h.refuses (captureOne_owned_stops hcaptured rfl (checkOwned_fails howner))
  case restore =>
    rintro n m rfl howner hdouble hlo hhi
    exact h.restores howner hdouble hlo hhi
  case empty =>
    rintro n rfl howner hclean hkey
    exact h.refuses (captureOne_found_stops hcaptured (slot_reads howner hclean) (checkFound_slot_empty hkey _))
  case slot =>
    rintro n k rfl howner hclean hkey
    have hcapture := fun need => captureOne_found (need := need) hcaptured (slot_reads (r := runOf e env x) howner hclean)
      (checkFound_slot hkey _)
    exact ⟨fun hother => h.refuses ((hcapture _).trans (useFound_usage hother 0 s)),
      fun huse hlife => h.refuses ((hcapture _).trans (useFound_lifecycle huse rfl hlife 0)),
      fun c hallowed hlanes hkcv => h.ends (slot_reads howner hclean) (checkFound_slot hkey _) hallowed hlanes hkcv⟩
  case stale =>
    rintro ep q i rfl hlive
    exact h.refuses (captureOne_found_stops hcaptured (handle_reads _ ep q i s) (checkFound_handle_stale (r := runOf e env x) hlive _))
  case handle =>
    rintro ep q i k c rfl hlive rfl hallowed hlanes hkcv
    exact h.ends (handle_reads _ ep q i s) (checkFound_handle (r := runOf e env x) hlive _) hallowed hlanes hkcv

end Sys2Proof.Proofs
end

section
/-! Commands of the rings over their checks (R128): how a command in execution passes a stage, the outcome of an opcode as its answer or its
refusal, and for each stage that the opcodes share when it is passed and the state that it leaves. -/

namespace Sys2Proof.Machine

open Sys2Proof.Safety

/-! ## Stages of a command in execution -/

section
variable {α β : Type} {m : Act α} {f : α → Act β} {s t : State} {a : α} {st : BitVec 16} {n : Nat} {i : BitVec 64}
  {out : Except Stop β × State}

theorem run_passes (h : m.run s = (.ok a, t)) (hrest : (f a).run t = out) : (m >>= f).run s = out := (run_bind_ok h).trans hrest

/-- A stage that stands under a condition. -/
theorem run_passes_if {c : Prop} [Decidable c] {m : Act PUnit} {f : PUnit → Act β} (h : c → m.run s = (.ok ⟨⟩, t)) (hskip : ¬c → t = s)
    (hrest : (f ⟨⟩).run t = out) : (if c then m >>= f else f ⟨⟩ : Act β).run s = out := by
  split
  · next hc => exact run_passes (h hc) hrest
  · next hc => rwa [hskip hc] at hrest

theorem run_if {c : Prop} [Decidable c] {m m' : Act β} (h : c) (hrest : m.run s = out) : (if c then m else m').run s = out := by
  rwa [if_pos h]

theorem run_unless {c : Prop} [Decidable c] {m m' : Act β} (h : ¬c) (hrest : m'.run s = out) : (if c then m else m').run s = out := by
  rwa [if_neg h]

/-- The state that a stage leaves, under the name that a statement gives it. -/
theorem run_to {w : State} (h : m.run s = (.ok a, t)) (hw : w = t) : m.run s = (.ok a, w) := hw ▸ h

theorem run_modify (g : State → State) (s : State) : (modify g : Act PUnit).run s = (.ok ⟨⟩, g s) := rfl

theorem run_tryCatch (m : Act α) (g : Stop → Act α) (s : State) :
    (tryCatch m g).run s = (match (m.run s).1 with | .ok a => pure a | .error o => g o : Act α).run (m.run s).2 := by
  have hbind : ∀ k : Except Stop α → StateM State (Except Stop α), (m.run >>= k) s = k (m.run s).1 (m.run s).2 := fun _ => rfl
  change ExceptT.run (ExceptT.tryCatch m g) s = _
  refine (hbind _).trans ?_
  cases (m.run s).1 <;> rfl

theorem run_spent_congr {m m' : Act α} (v : BitVec 64) (h : m.run s = m'.run t) : (spent v m).run s = (spent v m').run t := by
  rw [spent, spent, run_tryCatch, run_tryCatch, h]

theorem run_spent_ok (v : BitVec 64) (h : m.run s = (.ok a, t)) : (spent v m).run s = (.ok a, t) := by
  rw [spent, run_tryCatch, h]
  rfl

/-- After a commit point a refusal shows the spent value (R110, R275). -/
theorem run_spent_fails (v : BitVec 64) (h : m.run s = (.error (.fail st n i), t)) : (spent v m).run s = (.error (.fail st n v), t) := by
  rw [spent, run_tryCatch, h]
  rfl

end

/-! ## The outcome of an opcode -/

section
variable (e : BitVec 17) (env : CmdEnv) (x : Entry)

@[simp] theorem runOf_x : (runOf e env x).x = x := rfl
@[simp] theorem runOf_e : (runOf e env x).e = e.toNat := rfl
@[simp] theorem runOf_p : (runOf e env x).p = x.pitch.toNat := rfl
@[simp] theorem runOf_env : (runOf e env x).env = env := rfl
@[simp] theorem runOf_drbg : (runOf e env x).drbg = x.drbg := rfl

end

section
variable {s t : State} {e : BitVec 17} {env : CmdEnv} {op : Nat} {x : Entry} {f : Run → Act Ans} {c : Instr} {a : Ans} {st : BitVec 16}
  (hexec : exec c s = .next (runOp e.toNat op env f s)) (hruns : Runs s e env op x)
include hexec hruns

theorem ends_of_run (h : (f (runOf e env x)).run s = (.ok a, t)) : Ends c s e x a t := by
  rw [Ends, hexec, runOp_of_runs hruns, h]
  rfl

theorem concludes_of_run {inl : BitVec 64} (h : (f (runOf e env x)).run s = (.error (.fail st 0 inl), t)) :
    exec c s = .next (conclude e.toNat (decide (x.phase = .admitted)) st { inline := inl } 0 t) := by
  rw [hexec, runOp_of_runs hruns, h]
  rfl

theorem refuses_of_run (h : (f (runOf e env x)).run s = (.error (.fail st 0 0), t)) : Refuses c s e x st t :=
  concludes_of_run hexec hruns h

end

/-! ## The stages that opcodes share -/

section
variable {s : State} {r : Run} {n : Nat}

theorem checkErased_ok {refs : List Ref} {creates : Bool} (hlatch : s.bat.latch = false) : (checkErased refs creates).run s = (.ok ⟨⟩, s) :=
  run_check_ok (by simp [hlatch]) _ s

theorem checkCap_ok (h : n ≤ r.x.resultCap) (s : State) : (checkCap r n).run s = (.ok ⟨⟩, s) := by
  rw [checkCap, if_pos h]
  rfl

theorem messageLen_ok {max : Nat} (hdata : n = r.x.dataLen) (hmin : 1 ≤ n) (hmax : n ≤ max) (s : State) :
    (messageLen r max).run s = (.ok ⟨⟩, s) := by
  subst hdata
  exact run_check_ok (by simp [hmin, hmax]) _ s

theorem readData_ok {d : Bytes} (h : Input s r.x r.env d) : (readData r).run s = (.ok d, s) := by
  obtain ⟨hlen, hread⟩ := h
  by_cases hempty : r.x.dataLen = 0
  · rw [readData, if_pos hempty, List.length_eq_zero_iff.mp (hlen.trans hempty)]
    rfl
  · have hsome : s.hostRead r.x.port r.env.data = .data d := hread.resolve_left fun hd => hempty (by rw [← hlen, hd]; rfl)
    rw [readData, if_neg hempty, run_bind_ok (run_get s), hsome]
    simp only [hlen, if_true]
    rfl

theorem drawFrom_ok {inst : Nat} (h : (s.drbg inst).state ≠ 2) (n : Nat) :
    (drawFrom inst n).run s = (.ok (s.drbgOut inst n), drbgRequest inst n s) := by
  rw [drawFrom, run_bind_ok (run_get s), if_neg h]
  rfl

theorem verdict_true {b : Bool} (h : b = true) (s : State) : (verdict b).run s = (.ok { inline := 1 }, s) := by
  subst h
  rfl

theorem verdict_false {b : Bool} (h : b = false) (s : State) : (verdict b).run s = (.error (.fail stVerifyMismatch 0 0), s) := by
  subst h
  rfl

end

section
variable {s u : State} {e : BitVec 17} {env : CmdEnv} {op : Nat} {x : Entry} (hruns : Runs s e env op x)
include hruns

/-- The units serve where nothing of what `Runs` excludes is in the way (R18, R140, R143, R144, R235). -/
theorem unitFaults_passes (lane : Bool) (hlanes : lane = true → Lanes u) (inl : BitVec 64) :
    (unitFaults (runOf e env x) lane inl).run u = (.ok ⟨⟩, lanesUsed lane u) := by
  obtain ⟨-, -, -, hecc, hdup, htwin, -⟩ := hruns
  have hserves : (lane && decide ((u.drbg 6).state = 2)) = false := by
    cases lane
    · rfl
    · simpa using hlanes rfl
  have henv : (runOf e env x).env = env := rfl
  have hbroken : (runOf e env x).broken = false := rfl
  simp only [unitFaults, henv, hecc, hdup, htwin, hbroken, Bool.false_eq_true, if_false]
  rw [run_bind_ok (run_get u)]
  simp only [hserves, Bool.false_eq_true, if_false]
  rfl

theorem lanes_pass (hlanes : Lanes u) (inl : BitVec 64) : (unitFaults (runOf e env x) true inl).run u = (.ok ⟨⟩, lanesUsed true u) :=
  unitFaults_passes hruns true (fun _ => hlanes) inl

/-- An opcode without lanes leaves the state as it is. -/
theorem laneless_passes (inl : BitVec 64) : (unitFaults (runOf e env x) false inl).run u = (.ok ⟨⟩, u) :=
  unitFaults_passes hruns false (fun h => absurd h (by decide)) inl

end

end Sys2Proof.Machine
end

section
/-! PIN commands (R119): the fresh bytes of a PIN block, and translation, offsets and PVVs. -/

namespace Sys2Proof.Machine

open Sys2Proof.Safety

theorem pinFresh_ok {r : Run} {fmt : Nat} {u : State} (h : pinServes r fmt u) :
    (pinFresh r fmt).run u = (.ok (pinBytes r fmt u), pinDrawn r fmt u) := by
  by_cases hfmt : fmt = 0
  · rw [pinFresh, pinBytes, pinDrawn, if_pos hfmt, if_pos hfmt, if_pos hfmt]
    rfl
  · rw [pinFresh, pinBytes, pinDrawn, if_neg hfmt, if_neg hfmt, if_neg hfmt, drawFrom_ok (h.resolve_left hfmt)]

/-- A format without a PAN takes no part of one (R179). -/
theorem panField_congr {fmt : Nat} {d d' : List Nat} (h : fmt = 1 ∨ d = d') : panField fmt d = panField fmt d' := by
  obtain rfl | rfl := h <;> rfl

end Sys2Proof.Machine

namespace Sys2Proof.Proofs

open Sys2Proof.Machine Sys2Proof.Safety

/-- Settles O54: past its checks each command comes to the clear PIN field, which breaks its format or gives the PIN. -/
theorem pinCommands : Obligations.PinCommands := by
  unfold Obligations.PinCommands
  refine ⟨?translate, ?offset, ?pvv⟩
  case translate =>
    rintro s u e env x a b ka kb fin fout pan new pf ⟨hruns, hlatch⟩ rfl rfl hform hpair hblock hpan hnew hsame hfree hdata hkeys hcap
      hserves
      hlanes rfl
    have hpanA : (readPan (x.bytes 0x50 12)).getD [] = pan := by
      obtain hfree' | hread := hpan
      · exact (hfree hfree').symm
      · rw [hread]; rfl
    have hpanB : (if x.flag 9 then readPan (x.bytes 0x60 12) else readPan (x.bytes 0x50 12)).getD [] = new := by
      split
      · next h9 => rw [(hnew h9).2.2]; rfl
      · next h9 => rw [hpanA, hsame (by simpa using h9)]
    have hfields : (translatePair (x.byte 0x5C) (x.byte 0x5D) && pinBlockOk (x.byte 0x5C) (x.bytes 0x40 16)
        && !(x.flag 9 && (x.byte 0x5C = 1 || x.byte 0x5D = 1))
        && (!(decide (x.byte 0x5C ≠ 1) || decide (x.byte 0x5D ≠ 1)) || (readPan (x.bytes 0x50 12)).isSome)
        && (!x.flag 9 || (if x.flag 9 then readPan (x.bytes 0x60 12) else readPan (x.bytes 0x50 12)).isSome)) = true := by
      have hread : (!(decide (x.byte 0x5C ≠ 1) || decide (x.byte 0x5D ≠ 1)) || (readPan (x.bytes 0x50 12)).isSome) = true := by
        obtain ⟨hin, hout⟩ | hread := hpan
        · simp [hin, hout]
        · simp [hread]
      rw [hpair, hblock, hread]
      cases h9 : x.flag 9
      · rfl
      · obtain ⟨hin, hout, hread'⟩ := hnew h9
        simp [hin, hout, hread']
    have hrun : (pinTranslate (runOf e env x)).run s = (match pinOf (x.byte 0x5C) (pinDecipher (x.byte 0x5C) ka.val
          ((x.bytes 0x40 16).take (pinLen (x.byte 0x5C))) (panField (x.byte 0x5C) pan)) with
        | none => refuse stPinFormat
        | some pin => pure { result := pinBuild (x.byte 0x5D) kb.val pin (pinBytes (runOf e env x) (x.byte 0x5D) u) new } : Act Ans).run
          (lanesUsed true (pinDrawn (runOf e env x) (x.byte 0x5D) u)) := by
      refine run_passes (checkForm_ok hform s) ?_
      refine run_passes (run_check_ok hfields _ s) ?_
      refine run_passes (noData_ok hdata s) ?_
      refine run_passes (checkErased_ok hlatch) ?_
      refine run_passes hkeys ?_
      refine run_passes (checkCap_ok hcap u) ?_
      refine run_passes (pinFresh_ok hserves) ?_
      refine run_passes (lanes_pass hruns hlanes 0) ?_
      rw [← hpanA, ← hpanB]
      rfl
    refine ⟨fun pin hpin => ends_of_run rfl hruns ?_, fun hpin => refuses_of_run rfl hruns ?_⟩
    · rw [hrun, hpin]; rfl
    · rw [hrun, hpin]; rfl
  case offset =>
    rintro s u e env x a b ka kb gen table pan nat off len pf ⟨hruns, hlatch⟩ rfl hform hformat hblock hmin hmax htable hpan hoff hdata
      hkeys
      hlanes rfl rfl
    have hfields : (offsetFields x && (gen || (readOffset (x.bytes 0x68 6) (x.byte 0x5D)).isSome)) = true := by
      have hread : (decide (x.byte 0x5C = 1) || (readPan (x.bytes 0x50 12)).isSome) = true := by
        by_cases hfmt : x.byte 0x5C = 1
        · simp [hfmt]
        · simp [hpan hfmt]
      have hread' : (gen || (readOffset (x.bytes 0x68 6) (x.byte 0x5D)).isSome) = true := by
        cases gen
        · simp [hoff rfl]
        · rfl
      simp [offsetFields, hformat, hblock, hmin, hmax, htable, hread, hread']
    have hpan' : panField (x.byte 0x5C) ((readPan (x.bytes 0x50 12)).getD []) = panField (x.byte 0x5C) pan :=
      panField_congr (or_iff_not_imp_left.mpr fun hfmt => by rw [hpan hfmt]; rfl)
    have htable' : (readTable (x.bytes 0x60 8)).getD [] = table := by rw [htable]; rfl
    have hrun : (offsetPins (runOf e env x) gen).run s = (match pinOf (x.byte 0x5C) (pinDecipher (x.byte 0x5C) ka.val
          ((x.bytes 0x40 16).take (pinLen (x.byte 0x5C))) (panField (x.byte 0x5C) pan)) with
        | none => refuse stPinFormat
        | some pin => pure (naturalPin kb (x.bytes 0x70 8) table (x.byte 0x5D), pin) : Act (List Nat × List Nat)).run
          (lanesUsed true u) := by
      refine run_passes (checkForm_ok hform s) ?_
      refine run_passes (run_check_ok hfields _ s) ?_
      refine run_passes (noData_ok hdata s) ?_
      refine run_passes (checkErased_ok hlatch) ?_
      refine run_passes hkeys ?_
      refine run_passes (lanes_pass hruns hlanes 0) ?_
      rw [← hpan', ← htable']
      rfl
    refine ⟨fun hpin => ?_, fun pin hpin hgen => ?_, fun pin hpin hgen => ?_⟩
    · rw [hpin] at hrun
      cases gen
      · exact refuses_of_run rfl hruns (run_bind_stops hrun)
      · exact refuses_of_run rfl hruns (run_bind_stops hrun)
    · subst hgen
      rw [hpin] at hrun
      have hoff' : (readOffset (x.bytes 0x68 6) (x.byte 0x5D)).getD [] = off := by rw [hoff rfl]; rfl
      subst hoff'
      refine ⟨fun hmatch => ends_of_run rfl hruns (run_passes hrun (verdict_true ?_ _)),
        fun hother => refuses_of_run rfl hruns (run_passes hrun (verdict_false ?_ _))⟩
      · exact Bool.and_eq_true_iff.mpr (hmatch.imp decide_eq_true decide_eq_true)
      · exact Bool.eq_false_iff.mpr fun hmatch => hother ((Bool.and_eq_true_iff.mp hmatch).imp of_decide_eq_true of_decide_eq_true)
    · subst hgen
      rw [hpin] at hrun
      refine ⟨fun hlong => ends_of_run rfl hruns (run_passes hrun ?_), fun hshort => refuses_of_run rfl hruns (run_passes hrun ?_)⟩
      · exact run_unless (Nat.not_lt.mpr hlong) rfl
      · exact run_if hshort rfl
  case pvv =>
    rintro s u e env x a b ka kb pan pf ⟨hruns, hlatch⟩ hform hpan hformat hblock hkey hdigits hdata hkeys hlanes rfl
    have hfields : (formatOk (x.byte 0x5C) && pinBlockOk (x.byte 0x5C) (x.bytes 0x40 16) && decide (x.byte 0x5D ≤ 6)
        && (nibbles (x.bytes 0x5E 2)).all fun n => decide (n ≤ 9)) = true := by rw [hformat, hblock, hdigits, decide_eq_true hkey]; rfl
    have hrun : (pinVerifyPvv (runOf e env x)).run s = (match pinOf (x.byte 0x5C) (pinDecipher (x.byte 0x5C) ka.val
          ((x.bytes 0x40 16).take (pinLen (x.byte 0x5C))) (panField (x.byte 0x5C) pan)) with
        | none => refuse stPinFormat
        | some pin => verdict (pvv kb.val pan (x.byte 0x5D) pin = nibbles (x.bytes 0x5E 2)) : Act Ans).run (lanesUsed true u) := by
      refine run_passes (checkForm_ok hform s) ?_
      have hpan' : readPan ((runOf e env x).x.bytes 0x50 12) = some pan := hpan
      simp only [hpan']
      refine run_passes (run_check_ok hfields _ s) ?_
      refine run_passes (noData_ok hdata s) ?_
      refine run_passes (checkErased_ok hlatch) ?_
      refine run_passes hkeys ?_
      exact run_passes (lanes_pass hruns hlanes 0) rfl
    refine ⟨fun hpin => ?_, fun pin hpin => ⟨fun hmatch => ?_, fun hother => ?_⟩⟩ <;> rw [hpin] at hrun
    · exact refuses_of_run rfl hruns hrun
    · exact ends_of_run rfl hruns (hrun.trans (verdict_true (decide_eq_true hmatch) _))
    · exact refuses_of_run rfl hruns (hrun.trans (verdict_false (decide_eq_false hother) _))

end Sys2Proof.Proofs
end

section
/-! Message commands (R121, R123, R124): MACs, hashes and tokens. -/

namespace Sys2Proof.Proofs

open Sys2Proof.Machine Sys2Proof.Safety

/-- Settles O56: each command passes its checks to the lanes or the hash unit, and its answer or its verdict follows. -/
theorem messageCommands : Obligations.MessageCommands := by
  unfold Obligations.MessageCommands
  refine ⟨?generate, ?verify, ?translate, ?hash, ?keyed, ?token⟩
  case generate =>
    rintro s u e env x a k m d ⟨hruns, hlatch⟩ hform rfl hok hdata hmin hmax hkey hcap hlanes
    refine ends_of_run rfl hruns ?_
    refine run_passes (checkForm_ok hform s) ?_
    refine run_passes (run_check_ok hok _ s) ?_
    refine run_passes (messageLen_ok hdata.1 hmin hmax s) ?_
    refine run_passes (checkErased_ok hlatch) ?_
    refine run_passes hkey ?_
    refine run_passes (checkCap_ok hcap u) ?_
    refine run_passes (readData_ok hdata) ?_
    exact run_passes (lanes_pass hruns hlanes 0) rfl
  case verify =>
    rintro s u e env x a k m d ⟨hruns, hlatch⟩ rfl hform hok hdata hmin hmax hkey hlanes
    have hrun : (macVerify (runOf e env x)).run s
        = (verdict (macOf (macParams x 0x40) k.val d = x.bytes 0x50 (macParams x 0x40).len)).run (lanesUsed true u) := by
      refine run_passes (checkForm_ok hform s) ?_
      refine run_passes (run_check_ok hok _ s) ?_
      refine run_passes (messageLen_ok hdata.1 hmin hmax s) ?_
      refine run_passes (checkErased_ok hlatch) ?_
      refine run_passes hkey ?_
      refine run_passes (readData_ok hdata) ?_
      exact run_passes (lanes_pass hruns hlanes 0) rfl
    exact ⟨fun hmac => ends_of_run rfl hruns (hrun.trans (verdict_true (decide_eq_true hmac) _)),
      fun hmac => refuses_of_run rfl hruns (hrun.trans (verdict_false (decide_eq_false hmac) _))⟩
  case translate =>
    rintro s u e env x a b ka kb mi mo d ⟨hruns, hlatch⟩ rfl rfl hform hin hout hdata hmin hmax hkeys hcap hlanes
    have hrun : (macTranslate (runOf e env x)).run s
        = (if macOf (macParams x 0x40) ka.val d = x.bytes 0x50 (macParams x 0x40).len
            then pure (macAns (macOf (macParams x 0x43) kb.val d)) else refuse stVerifyMismatch : Act Ans).run (lanesUsed true u) := by
      refine run_passes (checkForm_ok hform s) ?_
      refine run_passes (run_check_ok (Bool.and_eq_true_iff.mpr ⟨hin, hout⟩) _ s) ?_
      refine run_passes (messageLen_ok hdata.1 hmin hmax s) ?_
      refine run_passes (checkErased_ok hlatch) ?_
      refine run_passes hkeys ?_
      refine run_passes (checkCap_ok hcap u) ?_
      refine run_passes (readData_ok hdata) ?_
      exact run_passes (lanes_pass hruns hlanes 0) rfl
    refine ⟨fun hmac => ends_of_run rfl hruns ?_, fun hmac => refuses_of_run rfl hruns ?_⟩
    · rw [hrun, if_pos hmac]; rfl
    · rw [hrun, if_neg hmac]; rfl
  case hash =>
    rintro s e env x d code out hruns hform rfl rfl hok hdata hmax hcap
    refine ends_of_run rfl hruns ?_
    refine run_passes (checkForm_ok hform s) ?_
    refine run_passes (run_check_ok hok _ s) ?_
    refine run_passes (run_check_ok (decide_eq_true (hdata.1 ▸ hmax)) _ s) ?_
    refine run_passes (checkCap_ok hcap s) ?_
    refine run_passes (readData_ok hdata) ?_
    exact run_passes (laneless_passes hruns 0) rfl
  case keyed =>
    rintro s u e env x a k d code out cust ⟨hruns, hlatch⟩ rfl rfl rfl hform hok hdata hmax hkey hcap
    refine ends_of_run rfl hruns ?_
    refine run_passes (checkForm_ok hform s) ?_
    refine run_passes (run_check_ok hok _ s) ?_
    refine run_passes (run_check_ok (decide_eq_true (hdata.1 ▸ hmax)) _ s) ?_
    refine run_passes (checkErased_ok hlatch) ?_
    refine run_passes hkey ?_
    refine run_passes (checkCap_ok hcap u) ?_
    refine run_passes (readData_ok hdata) ?_
    exact run_passes (laneless_passes hruns 0) rfl
  case token =>
    rintro s u e env x a k enc n l m sy ⟨hruns, hlatch⟩ rfl rfl rfl hform hok hdata hcap hkey hlanes rfl
    refine ends_of_run (f := token enc) (by cases enc <;> rfl) hruns ?_
    refine run_passes (checkForm_ok hform s) ?_
    refine run_passes (run_check_ok hok _ s) ?_
    refine run_passes (noData_ok hdata s) ?_
    refine run_passes (checkErased_ok hlatch) ?_
    refine run_passes hkey ?_
    refine run_passes (checkCap_ok hcap u) ?_
    exact run_passes (lanes_pass hruns hlanes 0) rfl

end Sys2Proof.Proofs
end

section
/-! Card commands (R120): card verification codes, cryptograms and issuer scripts. -/

namespace Sys2Proof.Proofs

open Sys2Proof.Machine Sys2Proof.Safety

/-- Settles O55: past its checks each command comes to its code or its cryptogram, which it answers or compares. -/
theorem cardCommands : Obligations.CardCommands := by
  unfold Obligations.CardCommands
  refine ⟨?cvc, ?arqc, ?arpc, ?script⟩
  case cvc =>
    rintro s u e env x a k gen pan d ⟨hruns, hlatch⟩ hform hpan hexpiry hvariant hservice hcode hdata hkey hlanes rfl
    have hfields : (expiryOk (x.bytes 0x4C 2) && decide (x.byte 0x50 ≤ 2) && (decide (x.byte 0x50 ≠ 0) || threeDigits (x.bytes 0x4E 2))
        && (gen || threeDigits (x.bytes 0x52 2))) = true := by simpa [hexpiry, hvariant] using ⟨hservice, hcode⟩
    have hrun : (cvcCode (runOf e env x) gen).run s = (.ok (cvc k (ofNibbles (pan ++ nibbles (x.bytes 0x4C 2) ++ serviceCode x
        ++ List.replicate (32 - (pan ++ nibbles (x.bytes 0x4C 2) ++ serviceCode x).length) 0))), lanesUsed true u) := by
      refine run_passes (checkForm_ok hform s) ?_
      have hpan' : readPan ((runOf e env x).x.bytes 0x40 12) = some pan := hpan
      simp only [hpan']
      refine run_passes (run_check_ok hfields _ s) ?_
      refine run_passes (noData_ok hdata s) ?_
      refine run_passes (checkErased_ok hlatch) ?_
      refine run_passes hkey ?_
      exact run_passes (lanes_pass hruns hlanes 0) rfl
    refine ⟨?_, ?_⟩ <;> rintro rfl
    · exact ends_of_run rfl hruns (run_passes hrun rfl)
    · exact ⟨fun hsame => ends_of_run rfl hruns (run_passes hrun (verdict_true (decide_eq_true hsame) _)),
        fun hother => refuses_of_run rfl hruns (run_passes hrun (verdict_false (decide_eq_false hother) _))⟩
  case arqc =>
    rintro s u e env x a k d ⟨hruns, hlatch⟩ hform hfields hdata hmin hmax hkey hlanes
    have hlength : (decide (1 ≤ x.dataLen) && decide (x.dataLen ≤ 255)) = true := by rw [← hdata.1]; simp [hmin, hmax]
    have hrun : (arqcVerify (runOf e env x)).run s
        = (verdict (emvMac (decide (k.attr.alg = .t)) (arqcKey x k) d = x.bytes 0x50 8)).run (lanesUsed true u) := by
      refine run_passes (checkForm_ok hform s) ?_
      refine run_passes (run_check_ok hfields _ s) ?_
      refine run_passes (run_check_ok hlength _ s) ?_
      refine run_passes (checkErased_ok hlatch) ?_
      refine run_passes hkey ?_
      refine run_passes (readData_ok hdata) ?_
      exact run_passes (lanes_pass hruns hlanes 0) rfl
    exact ⟨fun hmac => ends_of_run rfl hruns (hrun.trans (verdict_true (decide_eq_true hmac) _)),
      fun hmac => refuses_of_run rfl hruns (hrun.trans (verdict_false (decide_eq_false hmac) _))⟩
  case arpc =>
    rintro s u e env x a k m n d prop ⟨hruns, hlatch⟩ rfl rfl hprop hform hfields hmethod hdata hmin hmax hkey hcap hlanes
    have hmethods : (emvFieldsOk x && (x.byte 0x5C = 1 || x.byte 0x5C = 2) && (decide (x.byte 0x5C ≠ 1) || x.byte 0x64 = 0)
        && decide (x.byte 0x64 ≤ 8)) = true := by
      rw [hfields]
      obtain ⟨hone, hnone⟩ | ⟨htwo, hsome⟩ := hmethod
      · simp [hone, hnone]
      · simp [htwo, hsome]
    have hlength : (decide (x.byte 0x64 + 1 ≤ x.dataLen) && decide (x.dataLen ≤ x.byte 0x64 + 255)) = true := by
      have hdataLen := hdata.1
      rw [List.length_append, hprop] at hdataLen
      simp only [Bool.and_eq_true, decide_eq_true_eq]
      omega
    have hparts : (d ++ prop).length - x.byte 0x64 = d.length := by rw [List.length_append, hprop, Nat.add_sub_cancel]
    have hhead : (d ++ prop).take ((d ++ prop).length - x.byte 0x64) = d := by rw [hparts, List.take_left]
    have htail : (d ++ prop).drop ((d ++ prop).length - x.byte 0x64) = prop := by rw [hparts, List.drop_left]
    generalize d ++ prop = w at hdata hhead htail
    have hrun : (arqcVerifyArpc (runOf e env x)).run s
        = (if emvMac (decide (k.attr.alg = .t)) (arqcKey x k) (w.take (w.length - x.byte 0x64)) = x.bytes 0x50 8
            then pure { inline := 1, result := arpc (decide (k.attr.alg = .t)) (arqcKey x k) x (w.drop (w.length - x.byte 0x64)) }
            else refuse stVerifyMismatch : Act Ans).run (lanesUsed true u) := by
      refine run_passes (checkForm_ok hform s) ?_
      refine run_passes (run_check_ok hmethods _ s) ?_
      refine run_passes (run_check_ok hlength _ s) ?_
      refine run_passes (checkErased_ok hlatch) ?_
      refine run_passes hkey ?_
      refine run_passes (checkCap_ok hcap u) ?_
      refine run_passes (readData_ok hdata) ?_
      exact run_passes (lanes_pass hruns hlanes 0) rfl
    rw [hhead, htail] at hrun
    exact ⟨fun hmac => ends_of_run rfl hruns (hrun.trans (run_if hmac rfl)),
      fun hmac => refuses_of_run rfl hruns (hrun.trans (run_unless hmac rfl))⟩
  case script =>
    rintro s u e env x a b ka kb d ⟨hruns, hlatch⟩ hform hfields hdata hmin hmax hlc hkeys hcap hlanes
    have hlength : (decide (5 ≤ x.dataLen) && decide (x.dataLen ≤ 255)) = true := by
      rw [← hdata.1]
      simp only [Bool.and_eq_true, decide_eq_true_eq]
      exact ⟨hmin, by split at hmax <;> omega⟩
    have hlimit : decide (x.dataLen - 5 ≤ if x.flag 8 then 239 else 247) = true := by rw [← hdata.1]; exact decide_eq_true hmax
    have hcount : decide ((byteAt d 4).toNat = x.dataLen - 5) = true := by rw [← hdata.1]; exact decide_eq_true hlc
    refine ends_of_run rfl hruns ?_
    refine run_passes (checkForm_ok hform s) ?_
    refine run_passes (run_check_ok hfields _ s) ?_
    refine run_passes (run_check_ok hlength _ s) ?_
    refine run_passes (run_check_ok hlimit _ s) ?_
    refine run_passes (checkErased_ok hlatch) ?_
    refine run_passes hkeys ?_
    refine run_passes (checkCap_ok (hdata.1 ▸ hcap) u) ?_
    refine run_passes (readData_ok hdata) ?_
    refine run_passes (run_check_ok hcount _ u) ?_
    exact run_passes (lanes_pass hruns hlanes 0) rfl

end Sys2Proof.Proofs
end

section
/-! Keys of the key commands (R113, R118, R158, R168, R169): captures without a key, a block imported under its KBPK, target slots and their
commit, keys written out, and what the eviction of a cache entry leaves. -/

namespace Sys2Proof.Machine

open Sys2Proof.Safety

/-! ## Captures -/

section
variable {s t : State} {r : Run} {fill : Bool} {rd : HostRead} {need : Key → Bool} {ref : Ref} {k : Key}

theorem keeping_ok {first : Act (List (Option (Key × Nat)))} {keys : List (Option (Key × Nat))} (hcaptured : r.x.captured = none)
    (h : first.run s = (.ok keys, t)) : (keeping r first).run s = (.ok keys, kept r.e keys t) := by
  simp only [keeping, hcaptured]
  exact run_passes h rfl

theorem slotRead_clean (hclean : r.env.slotFault = .clean) (n : Nat) (s : State) : (slotRead r n).run s = (.ok ⟨⟩, s) := by
  rw [slotRead, run_bind_ok (run_get s), hclean]
  rfl

theorem run_forM_ok {α : Type} {f : α → Act PUnit} (h : ∀ a, (f a).run s = (.ok ⟨⟩, s)) : ∀ l : List α, (l.forM f).run s = (.ok ⟨⟩, s)
  | [] => rfl
  | a :: l => run_passes (h a) (run_forM_ok h l)

theorem readSlots_clean (hclean : r.env.slotFault = .clean) (l : List (Ref × HostRead)) (s : State) :
    (readSlots r l).run s = (.ok ⟨⟩, s) :=
  run_passes (run_get s) (run_forM_ok (fun n => slotRead_clean hclean n s) _)

/-- A reference that is absent captures no key. -/
theorem captureWith_absent {also : List (Option Key) → Bool} (hcaptured : r.x.captured = none) (halso : also [none] = true) :
    (captureWith r fill [⟨.none, rd, need⟩] also).run s = (.ok [none], kept r.e [none] s) := by
  refine keeping_ok hcaptured ?_
  refine run_passes (t := s) rfl ?_
  refine run_passes (t := s) rfl ?_
  refine run_passes (t := s) rfl ?_
  refine run_passes (t := s) (a := [.none]) rfl ?_
  refine run_passes (t := s) (a := [none]) rfl ?_
  refine run_passes (t := s) rfl ?_
  exact run_passes (run_check_ok halso _ s) rfl

theorem capture_absent {also : List (Option Key) → Bool} (hcaptured : r.x.captured = none) (halso : also [none] = true) :
    (capture r [⟨.none, rd, need⟩] also).run s = (.ok [none], kept r.e [none] s) :=
  run_passes (captureWith_absent hcaptured halso) rfl

/-- A reference that names a key, which is fit. -/
theorem captureWith_found {also : List (Option Key) → Bool} (hcaptured : r.x.captured = none) (hreads : Reads r ref s)
    (hfound : (checkFound r false ref r.env.blkA).run s = (.ok (.key k), t)) (hallowed : Allowed t r false k) (hneed : need k = true)
    (halso : also [some k] = true) :
    (captureWith r fill [⟨ref, r.env.blkA, need⟩] also).run s = (.ok [some (k, 0)], kept r.e [some (k, 0)] t) := by
  obtain ⟨⟨hrange, howned⟩, hread⟩ := hreads
  refine keeping_ok hcaptured ?_
  refine run_passes (t := s) (run_passes hrange rfl) ?_
  refine run_passes (t := s) (run_passes howned rfl) ?_
  refine run_passes hread ?_
  refine run_passes (t := t) (a := [.key k]) (run_passes hfound rfl) ?_
  refine run_passes (t := t) (a := [some (k, 0)]) rfl ?_
  refine run_passes (t := t) (run_passes (checkUse_ok hallowed.1 hneed t) rfl) ?_
  refine run_passes (run_check_ok halso _ t) ?_
  exact run_passes (t := t) (run_passes (checkLife_ok hallowed.2) rfl) rfl

end

/-! ## Key blocks (R158, R159, R168, R169) -/

section
variable {s u w : State} {r : Run} {a b : Ref} {kb k : Key} {blk : Block} {v : Bytes} {at' : Attr} {tag : KeyTag} {h : Nat}

/-- A block under a KBPK given beside it. -/
theorem checkFound_block (htype : b.type = 2 ∨ b.type = 4) (rd : HostRead) (s : State) :
    (checkFound r true b rd).run s = (.ok (.block (blockBytes r b rd) none), s) := by
  cases b with
  | host n addr => rfl
  | carried n off => rfl
  | _ => exact absurd htype (by simp [Ref.type])

/-- A block that no cache entry holds is verified and placed in the cache. -/
theorem lookupBlock_fills {raw : Bytes} {binaryOnly : Bool} (hparse : parseBlock raw = some blk)
    (hbinary : binaryOnly = true → blk.binary = true)
    (hmiss : u.kbcFind r.p kb.binding blk.mac = none) (hverify : verifyBlock kb.val blk = some (v, at', tag))
    (hk : k = { val := v, attr := { at' with owner := r.p }, tag := tag, binding := .none, weak := !kbpkCovers kb.val.length at' })
    (hplace : cachePlace r.p kb.binding blk.mac k (kbcMiss r.p u) = (h, w)) :
    ∃ i, (lookupBlock r true binaryOnly raw kb).run u = (.ok ({ k with binding := i }, h), w) := by
  subst hk
  have hform : (binaryOnly && !blk.binary) = false := by
    cases binaryOnly
    · rfl
    · simp [hbinary rfl]
  refine ⟨if h = 0 then .none else .entry (BitVec.ofNat 22 (h % 2 ^ 22)) (BitVec.ofNat 16 (h / 2 ^ 22)), ?_⟩
  refine run_passes (run_get u) ?_
  simp only [hparse, hform, hmiss, hverify, hplace, Bool.false_eq_true, if_false, if_true]
  rfl

theorem checkUse_slot_ok {toSlot : Bool} (huse : Usable r toSlot k) {need : Key → Bool} (hneed : need k = true) (s : State) :
    (checkUse r toSlot need k).run s = (.ok (), s) := by
  obtain ⟨hrow, hlen, hworld, howner, hweak, hctr⟩ := huse
  have hcounter : (k.attr.ctrKind = 0 || k.slot.isSome || toSlot) = true := by simpa [or_assoc] using hctr
  exact run_check_ok (by simp [hrow, hlen, hworld, howner, hweak, hneed, hcounter]) _ s

/-- Checks 5 to 10 of a KBPK and a block under it. -/
theorem importKeys_run {toSlot : Bool} (hcaptured : r.x.captured = none) (hrangeA : (checkRange r a r.env.blkA).run s = (.ok (), s))
    (hrangeB : (checkRange r b r.env.blkB).run s = (.ok (), s)) (howned : (checkOwned r a).run s = (.ok (), s))
    (hclean : r.env.slotFault = .clean) (htype : b.type = 2 ∨ b.type = 4)
    (hfound : (checkFound r false a r.env.blkA).run s = (.ok (.key kb), u))
    (hkbpk : Allowed u r false kb) (hwraps : isKbpk false kb = true)
    (hblock : (lookupBlock r true (b.type = 4) (blockBytes r b r.env.blkB) kb).run u = (.ok (k, h), w)) (hallowed : Allowed w r toSlot k) :
    (importKeys r toSlot a b).run s = (.ok [some (k, h)], kept r.e [some (k, h)] w) := by
  refine keeping_ok hcaptured ?_
  refine run_passes hrangeA ?_
  refine run_passes hrangeB ?_
  refine run_passes howned ?_
  refine run_passes (readSlots_clean hclean _ s) ?_
  refine run_passes hfound ?_
  refine run_passes (checkFound_block htype _ u) ?_
  refine run_passes (checkUse_ok hkbpk.1 hwraps u) ?_
  refine run_passes (checkLife_ok hkbpk.2) ?_
  refine run_passes (a := some (k, h)) (run_passes hblock rfl) ?_
  refine run_passes (checkUse_slot_ok hallowed.1 rfl w) ?_
  exact run_passes (checkLife_ok hallowed.2) rfl

end

/-! ## Target slots and written blocks (R110, R116, R153, R161, R299) -/

section
variable {s t : State} {r : Run} {n : Nat} {a : Attr} {k : Key}

theorem checkTarget_ok (howner : s.blockOwner (n / 64) = some r.p) (hfree : slotsFree s n a = true) :
    (checkTarget r n a).run s = (.ok ⟨⟩, s) :=
  run_passes (run_get s) (run_passes (run_check_ok (decide_eq_true howner) _ s) (run_check_ok hfree _ s))

theorem slotsFree_congr (h : t.kst = s.kst) (n : Nat) (a : Attr) : slotsFree t n a = slotsFree s n a := by
  have hslot : ∀ m, slotEmpty t m = slotEmpty s m := fun m => by rw [slotEmpty, slotEmpty, State.slot, State.slot, h]
  simp only [slotsFree, hslot]

theorem slotsFree_lanesUsed (s : State) (n : Nat) (a : Attr) : slotsFree (lanesUsed true s) n a = slotsFree s n a :=
  slotsFree_congr (drbgRequest_kst 6 32 s) n a

theorem commitSlot_ok (hwaits : s.commitWaits = false) (hfree : slotsFree s n k.attr = true) : (commitSlot r n k).run s
    = (.ok ⟨⟩, putKey n r.p k.attr k.tag k.val (commitEntry r.e s).csn (commitEntry r.e s)) := by
  refine run_passes (run_get s) ?_
  refine run_unless (by simp [hwaits]) ?_
  exact run_passes (run_check_ok hfree _ s) rfl

theorem checkAuth_ok (h : a.expo ≠ 1 ∨ (s.pitch r.p).exportAuth.isSome = true) : (checkAuth r a).run s = (.ok ⟨⟩, s) :=
  run_passes (run_get s) (run_check_ok (by simpa using h) _ s)

theorem writeOut_ok {more expo m : Nat} {kbpk : Key} {ctx : Byte} {tag : KeyTag} {v blk : Bytes}
    (hwrite : writeBlock (s.drbgOut r.drbg 64) kbpk.val expo ctx a tag v = some (blk, m)) (hcap : more + blk.length ≤ r.x.resultCap)
    (hserves : (s.drbg r.drbg).state ≠ 2) :
    (writeOut r more kbpk expo ctx a tag v).run s = (.ok blk, drbgRequest r.drbg m s) := by
  refine run_passes (run_get s) ?_
  simp only [hwrite]
  refine run_passes (checkCap_ok hcap s) ?_
  exact run_passes (drawFrom_ok hserves m) rfl

end

/-! ## Evicted entries (R171) -/

section
variable {s : State} {p q i j : Nat}

theorem kbcEntry_setKbc_self (s : State) (p i : Nat) (v : KbcEntry) : (s.setKbc p i v).kbcEntry p i = v := smap_get_set_self ..

theorem kbcEntry_setKbc_other (h : kbcKey q j ≠ kbcKey p i) (v : KbcEntry) : (s.setKbc p i v).kbcEntry q j = s.kbcEntry q j :=
  smap_get_set_other _ _ _ _ _ h

theorem kbcEntry_evictEntry_valid (p i : Nat) (s : State) : ((evictEntry p i s).kbcEntry p i).valid = false := by
  rw [evictEntry, kbcEntry_setKbc_self]

theorem kbcEntry_evictEntry_other (h : kbcKey q j ≠ kbcKey p i) : (evictEntry p i s).kbcEntry q j = s.kbcEntry q j :=
  kbcEntry_setKbc_other h _

theorem handleLive_evictEntry (p i ep n : Nat) (s : State) : (evictEntry p i s).handleLive p ep n i = false := by
  simp [State.handleLive, State.kbcLive, kbcEntry_evictEntry_valid]

theorem kbcEntry_kept (e : Nat) (keys : List (Option (Key × Nat))) (s : State) (p i : Nat) :
    (kept e keys s).kbcEntry p i = s.kbcEntry p i :=
  rfl

theorem kbcEntry_cacheHit_other (h : kbcKey q j ≠ kbcKey p i) : (cacheHit p i s).kbcEntry q j = s.kbcEntry q j :=
  kbcEntry_setKbc_other h _

end

end Sys2Proof.Machine
end

section
/-! Key commands (R118): blocks taken in and written out, keys generated, translated and evicted. -/

namespace Sys2Proof.Proofs

open Sys2Proof.Machine Sys2Proof.Safety

/-- Settles O53: each clause runs through the checks of its opcode, and the eviction of one entry is read off the cache line that it
writes. -/
theorem keyCommands : Obligations.KeyCommands := by
  unfold Obligations.KeyCommands
  refine ⟨?imported, ?block, ?exported, ?generate, ?generateBlock, ?translate, ?evictAll, ?evictOne⟩
  case imported =>
    rintro s u e env x a b k h ⟨hruns, hlatch⟩ hform htarget hdata hcap himport hlanes
    refine ⟨fun hslot => ?_, fun hslot howner hfree hwaits => ⟨_, rfl, ?_⟩⟩
    · have hslot' : ¬(x.flag 8 = true) := by simp [hslot]
      refine ends_of_run rfl hruns ?_
      refine run_passes (checkForm_ok hform s) ?_
      refine run_passes (run_check_ok htarget _ s) ?_
      refine run_passes (noData_ok hdata s) ?_
      refine run_passes (checkErased_ok hlatch) ?_
      refine run_passes himport ?_
      refine run_unless hslot' ?_
      refine run_passes (checkCap_ok hcap u) ?_
      refine run_passes (lanes_pass hruns hlanes 0) ?_
      exact run_unless hslot' rfl
    · refine ends_of_run rfl hruns ?_
      refine run_passes (checkForm_ok hform s) ?_
      refine run_passes (run_check_ok htarget _ s) ?_
      refine run_passes (noData_ok hdata s) ?_
      refine run_passes (checkErased_ok hlatch) ?_
      refine run_passes himport ?_
      refine run_if hslot (run_passes (checkTarget_ok howner hfree) ?_)
      refine run_passes (checkCap_ok hcap u) ?_
      refine run_passes (lanes_pass hruns hlanes 0) ?_
      exact run_if hslot (run_passes (commitSlot_ok hwaits ((slotsFree_lanesUsed u _ _).trans hfree)) rfl)
  case block =>
    intro s u w r toSlot a b kb k blk v at' tag h hcaptured hrangeA hrangeB howned hclean htype hfound hkbpk hwraps hparse hmiss hverify hk
      hplace hallowed
    have hbinary : decide (b.type = 4) = true → blk.binary = true := fun h4 => by
      obtain h2 | ⟨-, hbinary⟩ := htype
      · exact absurd (of_decide_eq_true h4) (by omega)
      · exact hbinary
    obtain ⟨i, hblock⟩ := lookupBlock_fills hparse hbinary hmiss hverify hk hplace
    exact ⟨i, importKeys_run hcaptured hrangeA hrangeB howned hclean (htype.imp_right And.left) hfound hkbpk hwraps hblock
      hallowed⟩
  case exported =>
    rintro s u w e env x a b k kb blk n ⟨hruns, hlatch⟩ hform htemplate hdata hkeys hauth hwrite hcap hserves rfl hlanes
    refine ends_of_run rfl hruns ?_
    refine run_passes (checkForm_ok hform s) ?_
    refine run_passes (run_check_ok htemplate _ s) ?_
    refine run_passes (noData_ok hdata s) ?_
    refine run_passes (checkErased_ok hlatch) ?_
    refine run_passes hkeys ?_
    refine run_passes (checkAuth_ok hauth) ?_
    refine run_passes (writeOut_ok hwrite (by simpa using hcap) hserves) ?_
    exact run_passes (lanes_pass hruns hlanes 0) rfl
  case generate =>
    rintro s u w e env x h n at' tag k ⟨hruns, hlatch⟩ hcaptured hu hform htemplate hslot hrange hsym hdata rfl hheader rfl rfl rfl howner
      hfree
      hcap hserves hw hlanes hwaits
    have hheader' : symTemplate ((runOf e env x).x.bytes 0x40 16) (symLength (byteAt ((runOf e env x).x.bytes 0x40 16) 7)
        ((runOf e env x).x.byte 0x54)) = some h := hheader
    have hfields : (templateForm (x.bytes 0x40 16) && (x.flag 8 || decide (Ref.none ≠ .none)) && targetOk (runOf e env x) 0x50
        && symFieldsOk (byteAt (x.bytes 0x40 16) 7) (x.byte 0x54) (x.byte 0x55)) = true := by
      have htarget : targetOk (runOf e env x) 0x50 = true := Bool.or_eq_true_iff.mpr (.inr (decide_eq_true hrange))
      simp [htemplate, hslot, hsym, htarget]
    have hsame : ∀ a, slotsFree w (x.num 0x50 4) a = slotsFree u (x.num 0x50 4) a := fun a => by
      rw [hw, slotsFree_lanesUsed, slotsFree_congr (drbgRequest_kst ..)]
    refine ⟨_, _, Prod.mk.eta.symm, ends_of_run rfl hruns ?_⟩
    refine run_passes (checkForm_ok hform s) ?_
    refine run_passes (run_check_ok hfields _ s) ?_
    refine run_passes (noData_ok hdata s) ?_
    refine run_passes (checkErased_ok hlatch) ?_
    refine run_passes (run_to (capture_absent hcaptured (by simp [hheader])) hu) ?_
    rw [hheader']
    refine run_if hslot (run_passes (checkTarget_ok howner hfree) ?_)
    refine run_passes (checkCap_ok hcap _) ?_
    refine run_passes (drawFrom_ok hserves _) ?_
    refine run_passes (a := ([], Binding.none)) rfl ?_
    refine run_passes (run_to (lanes_pass hruns hlanes 0) hw) ?_
    refine run_if hslot (run_passes (commitSlot_ok hwaits ((hsame _).trans hfree)) ?_)
    refine run_passes (run_get _) ?_
    refine run_passes (a := ⟨⟩) rfl ?_
    rw [List.append_nil]
    rfl
  case generateBlock =>
    rintro s u w y e env x a kb k h n m at' tag blk ⟨hruns, hlatch⟩ hform htemplate hslot hsome hsym hdata rfl hheader rfl rfl hkey
      hserves hw
      hserves' rfl hlength hwrite hcap hblk hy hlanes
    have hslot' : ¬(x.flag 8 = true) := by simp [hslot]
    have hheader' : symTemplate ((runOf e env x).x.bytes 0x40 16) (symLength (byteAt ((runOf e env x).x.bytes 0x40 16) 7)
        ((runOf e env x).x.byte 0x54)) = some h := hheader
    have hfields : (templateForm (x.bytes 0x40 16) && (x.flag 8 || decide (a ≠ .none)) && targetOk (runOf e env x) 0x50
        && symFieldsOk (byteAt (x.bytes 0x40 16) 7) (x.byte 0x54) (x.byte 0x55)) = true := by
      simp [htemplate, hslot, hsym, hsome, targetOk]
    refine ⟨_, _, Prod.mk.eta.symm, ends_of_run rfl hruns ?_⟩
    refine run_passes (checkForm_ok hform s) ?_
    refine run_passes (run_check_ok hfields _ s) ?_
    refine run_passes (noData_ok hdata s) ?_
    refine run_passes (checkErased_ok hlatch) ?_
    dsimp only
    rw [hheader']
    refine run_passes (f := _) hkey ?_
    refine run_unless hslot' ?_
    refine run_passes (checkCap_ok hlength u) ?_
    refine run_passes (run_to (drawFrom_ok hserves _) hw) ?_
    refine run_passes (run_to (writeOut_ok hwrite hcap hserves') hy) ?_
    refine run_passes (a := (blk, kb.binding)) rfl ?_
    refine run_passes (lanes_pass hruns hlanes 0) ?_
    refine run_unless hslot' ?_
    refine run_passes (run_get _) ?_
    refine run_passes (a := ⟨⟩) rfl ?_
    rw [if_neg hblk]
    rfl
  case translate =>
    rintro s u w e env x a b src dst k raw v out blk at' tag h ctx n ⟨hruns, hlatch⟩ hform htemplate hmin hmax hkeys hdata hparse hverify
      hheader rfl hallowed hexport hcovers hfits hauth hwrite hcap hserves rfl hlanes
    have hheader' : translateHeader ((runOf e env x).x.bytes 0x40 16) blk = (some h, ctx) := hheader
    have hlen : (decide (16 ≤ x.dataLen) && decide (x.dataLen ≤ 2048)) = true := by simp [← hdata.1, hmin, hmax]
    refine ends_of_run rfl hruns ?_
    refine run_passes (checkForm_ok hform s) ?_
    refine run_passes (run_check_ok htemplate _ s) ?_
    refine run_passes (run_check_ok hlen _ s) ?_
    refine run_passes (checkErased_ok hlatch) ?_
    refine run_passes hkeys ?_
    refine run_passes (readData_ok hdata) ?_
    rw [hparse]
    dsimp only
    rw [hverify]
    dsimp only
    rw [hheader']
    refine run_passes (checkUse_ok hallowed.1 (by simp only [hexport, hcovers, hfits, Bool.and_self]) u) ?_
    refine run_passes (checkLife_ok hallowed.2) ?_
    refine run_passes (checkAuth_ok hauth) ?_
    refine run_passes (writeOut_ok hwrite (by simpa using hcap) hserves) ?_
    exact run_passes (lanes_pass hruns hlanes 0) rfl
  case evictAll =>
    rintro s e env x ⟨hruns, hlatch⟩ hcaptured hform hscope hdata
    refine ends_of_run rfl hruns ?_
    refine run_passes (checkForm_ok hform s) ?_
    refine run_passes (run_check_ok (by simp [hscope]) _ s) ?_
    refine run_passes (noData_ok hdata s) ?_
    refine run_passes (checkErased_ok hlatch) ?_
    refine run_passes (captureWith_absent hcaptured rfl) ?_
    refine run_passes (laneless_passes hruns 0) ?_
    exact run_passes (run_get _) rfl
  case evictOne =>
    rintro s e env x ep q i ⟨hruns, hlatch⟩ hcaptured hform hscope hdata hlive hallowed
    have hrun : (keyCacheEvict (runOf e env x)).run s = (.ok { inline := 1 }, evictEntry x.pitch.toNat i
        (kept e.toNat [some (s.cachedKey x.pitch.toNat i, 0)] (cacheHit x.pitch.toNat i s))) := by
      refine run_passes (checkForm_ok hform s) ?_
      refine run_passes (run_check_ok (by simp [hscope]) _ s) ?_
      refine run_passes (noData_ok hdata s) ?_
      refine run_passes (checkErased_ok hlatch) ?_
      refine run_passes (captureWith_found hcaptured (handle_reads _ ep q i s) (checkFound_handle (r := runOf e env x) hlive _) hallowed rfl
        rfl) ?_
      exact run_passes (laneless_passes hruns 0) rfl
    refine ⟨_, ends_of_run rfl hruns hrun, kbcEntry_evictEntry_valid .., ?_, fun p j hother => ?_⟩
    · exact handleLive_evictEntry ..
    · rw [kbcEntry_evictEntry_other hother, kbcEntry_kept, kbcEntry_cacheHit_other hother]

end Sys2Proof.Proofs
end

section
/-! Cipher commands (R110, R238 to R250): the run of a mode over the data past the commit point, and the checks and the counter before
it. -/

namespace Sys2Proof.Machine

open Sys2Proof.Safety

/-! ## The run of a mode -/

/-- The run of a mode under the context key of a pitch. -/
def bulkPast (r : Run) (b : Bulk) (k k2 : Bytes) (v : Pitch) (iv : Bytes) (inl : BitVec 64) : Act Ans :=
  bulkRun r b k k2 v.ctxKey v.ctxGen.toNat iv inl

/-- What a segment ends with: its tag is compared where the command opens a sealed message, else its output is the result (R243, R249). -/
def bulkTail (r : Run) (b : Bulk) (g : Segment) (rest saved : Bytes) (inl : BitVec 64) : Act Ans :=
  if b.aead && !b.enc && !b.notFinal then
    if g.tag.take b.tag = rest.drop (rest.length - b.tag) then pure { result := g.out ++ saved }
    else do
      if b.held then modify fun s => { s with units := { s.units with heldFail := s.units.heldFail + 1 } }
      else modify (spill r g.out)
      refuse stTagMismatch
  else pure { result := g.out ++ (if b.aead && b.enc && !b.notFinal then g.tag.take b.tag else []) ++ saved, inline := inl }

section
variable {s u w z : State} {e : BitVec 17} {env : CmdEnv} {op : Nat} {x : Entry} {b : Bulk} {k k2 iv d saved : Bytes} {inl : BitVec 64}
  {v : Pitch} {h : Chain} {g : Segment}

theorem bulkStart_eq (b : Bulk) (k k2 iv : Bytes) (v : Pitch) (d : Bytes) :
    (if b.ctxIn then openCtx b (v.ctxKey.getD []) v.ctxGen.toNat (k ++ k2) (if b.ctxIn then d.take 128 else [])
      else some (startChain b k k2 iv)) = bulkStart b k k2 iv v d := by
  unfold bulkStart
  split <;> rfl

theorem bulkPast_noStart {r : Run} (hdata : Input w r.x r.env d) (hstart : bulkStart b k k2 iv v d = none) :
    (bulkPast r b k k2 v iv inl).run w = (.error (.fail stKeyBlockAuth 0 0), w) := by
  refine run_passes (readData_ok hdata) ?_
  dsimp only
  rw [bulkStart_eq, hstart]
  rfl

theorem bulkPast_exhausted {r : Run} (hdata : Input w r.x r.env d) (hstart : bulkStart b k k2 iv v d = some h)
    (hfits : chainFits b h (bulkText b d).length = false) :
    (bulkPast r b k k2 v iv inl).run w = (.error (.fail stCounterExhausted 0 0), w) := by
  refine run_passes (readData_ok hdata) ?_
  dsimp only
  rw [bulkStart_eq, hstart]
  exact run_bind_stops (run_check_fails hfits _ w)

theorem bulkPast_runs (hruns : Runs s e env op x) (hdata : Input w x env d) (hstart : bulkStart b k k2 iv v d = some h)
    (hfits : chainFits b h (bulkText b d).length = true) (hlanes : Lanes w)
    (hdraws : b.ctxOut = true → ((lanesUsed true w).drbg x.drbg).state ≠ 2)
    (hg : g = runSegment b k h ((bulkRest b d).take b.aad) (bulkText b d))
    (hsaved : saved = bulkSaved (runOf e env x) b (k ++ k2) v g.next w) (hz : z = bulkEnd (runOf e env x) b w) :
    (bulkPast (runOf e env x) b k k2 v iv inl).run w = (bulkTail (runOf e env x) b g (bulkRest b d) saved inl).run z := by
  subst hg
  refine run_passes (readData_ok hdata) ?_
  dsimp only
  rw [bulkStart_eq, hstart]
  refine run_passes (run_check_ok hfits _ w) ?_
  refine run_passes (lanes_pass hruns hlanes inl) ?_
  by_cases hctx : b.ctxOut = true
  · rw [bulkSaved, if_pos hctx] at hsaved
    rw [bulkEnd, if_pos hctx] at hz
    subst hsaved
    refine run_if hctx ?_
    refine run_passes (run_to (drawFrom_ok (hdraws hctx) 12) hz) ?_
    rfl
  · rw [bulkSaved, if_neg hctx] at hsaved
    rw [bulkEnd, if_neg hctx] at hz
    subst hsaved
    refine run_unless hctx ?_
    rw [hz]
    rfl

theorem bulkTail_ends {r : Run} {rest : Bytes} (hopens : (b.aead && !b.enc && !b.notFinal) = false) : (bulkTail r b g rest saved inl).run z
    = (.ok { result := g.out ++ (if b.aead && b.enc && !b.notFinal then g.tag.take b.tag else []) ++ saved, inline := inl }, z) := by
  rw [bulkTail, hopens]
  rfl

theorem bulkTail_opens {r : Run} {rest : Bytes} (hopens : (b.aead && !b.enc && !b.notFinal) = true)
    (htag : g.tag.take b.tag = rest.drop (rest.length - b.tag)) :
    (bulkTail r b g rest saved inl).run z = (.ok { result := g.out ++ saved }, z) := by
  rw [bulkTail, if_pos hopens, if_pos htag]
  rfl

theorem bulkTail_held {r : Run} {rest : Bytes} (hopens : (b.aead && !b.enc && !b.notFinal) = true)
    (htag : g.tag.take b.tag ≠ rest.drop (rest.length - b.tag)) (hheld : b.held = true) :
    (bulkTail r b g rest saved inl).run z
      = (.error (.fail stTagMismatch 0 0), { z with units := { z.units with heldFail := z.units.heldFail + 1 } }) := by
  rw [bulkTail, if_pos hopens, if_neg htag]
  exact run_if hheld rfl

theorem bulkTail_spills {r : Run} {rest : Bytes} (hopens : (b.aead && !b.enc && !b.notFinal) = true)
    (htag : g.tag.take b.tag ≠ rest.drop (rest.length - b.tag)) (hheld : b.held = false) :
    (bulkTail r b g rest saved inl).run z = (.error (.fail stTagMismatch 0 0), spill r g.out z) := by
  rw [bulkTail, if_pos hopens, if_neg htag]
  exact run_unless (by simp [hheld]) rfl

/-! ## The checks before it -/

theorem opcode_of_runs (h : Runs s e env op x) : x.opcode = op := by
  obtain ⟨-, -, hnow, -⟩ := h
  simp only [State.runsNow, Bool.and_eq_true, decide_eq_true_eq] at hnow
  obtain ⟨⟨⟨⟨⟨⟨⟨hop, -⟩, -⟩, -⟩, -⟩, -⟩, -⟩, -⟩ := hnow
  exact hop

end

section
variable {s u w z : State} {e : BitVec 17} {env : CmdEnv} {op : Nat} {x : Entry} {b : Bulk} {ka : Key} {k2 iv d : Bytes} {inl : BitVec 64}

theorem bulk_run (h : BulkReady op s e env x b ka k2 iv d inl u w) : (bulk (runOf e env x)).run s
    = (if b.hw then spent inl (bulkPast (runOf e env x) b ka.val k2 (u.pitch x.pitch.toNat) iv inl)
        else bulkPast (runOf e env x) b ka.val k2 (u.pitch x.pitch.toNat) iv inl : Act Ans).run w := by
  obtain ⟨⟨hruns, hlatch⟩, rfl, hfields, hparts, hlengths, ⟨ra, rb, kb, hform, hkeys, rfl⟩, hcap, -, -, -, hnonce⟩ := h
  have hk2 : (match kb with | some k => k.val | none => []) = (kb.map (·.val)).getD [] := by cases kb <;> rfl
  rw [← opcode_of_runs hruns] at hform
  refine run_passes (checkForm_ok hform s) ?_
  refine run_passes (run_check_ok hfields _ s) ?_
  refine run_passes (run_check_ok (decide_eq_true hparts) _ s) ?_
  refine run_passes (run_check_ok hlengths _ s) ?_
  refine run_passes (checkErased_ok hlatch) ?_
  refine run_passes hkeys ?_
  refine run_passes (run_get u) ?_
  refine run_passes (checkCap_ok hcap u) ?_
  dsimp only
  obtain ⟨hhw, rfl, rfl, rfl⟩ | ⟨hhw, n, hspend, rfl, rfl⟩ := hnonce
  · refine run_unless (by simp [hhw]) ?_
    rw [hhw]
    cases kb <;> rfl
  · refine run_if hhw (run_passes hspend ?_)
    rw [hhw]
    cases kb <;> rfl

theorem spentIf_ok {c : Bool} {m : Act Ans} {a : Ans} (h : m.run w = (.ok a, z)) :
    (if c then spent inl m else m : Act Ans).run w = (.ok a, z) := by
  cases c
  · exact h
  · exact run_spent_ok inl h

/-- A refusal shows the value that was spent before it, where one was. -/
theorem spentIf_fails {c : Bool} {m : Act Ans} {st : BitVec 16} (hnone : c = false → inl = 0) (h : m.run w = (.error (.fail st 0 0), z)) :
    (if c then spent inl m else m : Act Ans).run w = (.error (.fail st 0 inl), z) := by
  cases c
  · rw [hnone rfl]
    exact h
  · exact run_spent_fails inl h

theorem exec_bulkCommands {c : Nat × (BitVec 17 → CmdEnv → Instr)} (hc : c ∈ bulkCommands) (e : BitVec 17) (env : CmdEnv) (s : State) :
    exec (c.2 e env) s = .next (runOp e.toNat c.1 env bulk s) := by
  simp only [bulkCommands, List.mem_cons, List.not_mem_nil, or_false] at hc
  obtain rfl | rfl | rfl | rfl := hc <;> rfl

end

end Sys2Proof.Machine
end

section
/-! The commit points of the cipher commands: the value of a counter that a command spends (R110, R245), and the rotation of a pitch's
context key (R248). -/

namespace Sys2Proof.Machine

open Sys2Proof.Safety

theorem leNat_toLE : ∀ n v : Nat, leNat (toLE n v) = v % 256 ^ n
  | 0, v => by simp [toLE, leNat, Nat.mod_one]
  | n + 1, v => by
    have hmod : v % 256 ^ (n + 1) = v % 256 + 256 * (v / 256 % 256 ^ n) := by rw [Nat.pow_succ', Nat.mod_mul]
    simp [toLE, leNat, leNat_toLE n (v / 256), hmod]

/-! ## What a commit leaves -/

section
variable {s : State} {e p n v : Nat} {x : Entry}

theorem csn_commitEntry (h : s.entry e = some x) : (commitEntry e s).csn = s.csn + 1 := by
  simp only [commitEntry, h, replayInsert_csn]
  rfl

theorem slot_setSlot_self (s : State) (n : Nat) (v : Slot) : (s.setSlot n v).slot n = v := smap_get_set_self ..

theorem slot_setSlot_other {m : Nat} (h : m ≠ n) (v : Slot) : (s.setSlot n v).slot m = s.slot m := smap_get_set_other _ _ _ _ _ h

theorem OnlySeals.slot {t : State} (h : OnlySeals s t) (m : Nat) : t.slot m = s.slot m := by rw [State.slot, h.slots, State.slot]

theorem ctxGen_updPitch {f : Pitch → Pitch} (h : ∀ v, (f v).ctxGen = v.ctxGen) (s : State) (p q : Nat) :
    ((s.updPitch p f).pitch q).ctxGen = (s.pitch q).ctxGen := by
  by_cases hq : q = p
  · rw [hq, pitch_updPitch_self, h]
  · rw [pitch_updPitch_other s f hq]

theorem ctxGen_replayInsert (p : Nat) (r : ReplayEntry) (s : State) (q : Nat) :
    ((replayInsert p r s).pitch q).ctxGen = (s.pitch q).ctxGen := by
  rw [replayInsert, (mirror_onlySeals _ _).pitch]
  exact ctxGen_updPitch (by intro _; rfl) s p q

theorem ctxGen_commitEntry (e : Nat) (s : State) (p : Nat) : ((commitEntry e s).pitch p).ctxGen = (s.pitch p).ctxGen := by
  unfold commitEntry
  split
  · rfl
  · exact (ctxGen_replayInsert ..).trans (ctxGen_updPitch (by intro _; rfl) ..)

end

/-! ## Counters (R245, R311) -/

/-- The state once the counter in slot `c` has given its value `v`. -/
def counterSpent (e c v : Nat) (s : State) : State :=
  mirror (.counter (BitVec.ofNat 18 c) (journalCounter c (v + 1) (v % 4096 = 0 || !(commitEntry e s).kst.leaped.contains c)
      (setCounter c (v + 1) (commitEntry e s))).csn (BitVec.ofNat 64 (v + 1)))
    (journalCounter c (v + 1) (v % 4096 = 0 || !(commitEntry e s).kst.leaped.contains c) (setCounter c (v + 1) (commitEntry e s)))

section
variable {s : State} {r : Run} {k : Key} {e c m n v : Nat} {x : Entry}

theorem spendCounter_ok (hslot : k.slot = some n) (hwaits : s.commitWaits = false) (hclean : r.env.slotFault = .clean)
    (hv : v = s.counterValue (n + runSlots k.attr.len) (counterEnd k.attr)) (hlow : v < counterEnd k.attr) :
    (spendCounter r k).run s = (.ok v, counterSpent r.e (n + runSlots k.attr.len) v s) := by
  subst hv
  refine run_passes (run_get s) ?_
  refine run_unless (by simp [hwaits]) ?_
  rw [hslot]
  refine run_passes (slotRead_clean hclean _ s) ?_
  refine run_passes (run_get s) ?_
  exact run_unless (by omega) rfl

theorem spendCounter_exhausted (hslot : k.slot = some n) (hwaits : s.commitWaits = false) (hclean : r.env.slotFault = .clean)
    (hend : counterEnd k.attr ≤ s.counterValue (n + runSlots k.attr.len) (counterEnd k.attr)) :
    (spendCounter r k).run s = (.error (.fail stCounterExhausted 0 0), s) := by
  refine run_passes (run_get s) ?_
  refine run_unless (by simp [hwaits]) ?_
  rw [hslot]
  refine run_passes (slotRead_clean hclean _ s) ?_
  refine run_passes (run_get s) ?_
  exact run_if hend rfl

theorem journalCounter_onlySeals (c v : Nat) (due : Bool) (s : State) : OnlySeals s (journalCounter c v due s) := by
  simp only [journalCounter]
  split
  · exact journal_onlySeals _ _ s
  · exact .refl s

theorem csn_journalCounter (c v : Nat) (due : Bool) (s : State) : (journalCounter c v due s).csn = s.csn := by
  simp only [journalCounter]
  split
  · exact journal_csn _ _ s
  · rfl

theorem csn_counterSpent (c v : Nat) (h : s.entry e = some x) : (counterSpent e c v s).csn = s.csn + 1 := by
  rw [counterSpent, mirror_csn, csn_journalCounter]
  exact csn_commitEntry h

theorem slot_counterSpent (e c v m : Nat) (s : State) : (counterSpent e c v s).slot m = (setCounter c (v + 1) (commitEntry e s)).slot m :=
  ((journalCounter_onlySeals ..).trans (mirror_onlySeals ..)).slot m

theorem slot_setCounter_self (c v : Nat) (s : State) : (setCounter c v s).slot c = { s.slot c with key := toLE 8 v ++ zeros 24 } :=
  slot_setSlot_self s c { s.slot c with key := toLE 8 v ++ zeros 24 }

theorem slot_setCounter_other (h : m ≠ c) (v : Nat) (s : State) : (setCounter c v s).slot m = s.slot m :=
  slot_setSlot_other (s := s) h { s.slot c with key := toLE 8 v ++ zeros 24 }

theorem slot_commitEntry (e m : Nat) (s : State) : (commitEntry e s).slot m = s.slot m := by rw [State.slot, commitEntry_kst, State.slot]

theorem slot_counterSpent_self (e c v : Nat) (s : State) :
    (counterSpent e c v s).slot c = { s.slot c with key := toLE 8 (v + 1) ++ zeros 24 } := by
  rw [slot_counterSpent, slot_setCounter_self, slot_commitEntry]

theorem slot_counterSpent_other (h : m ≠ c) (e v : Nat) (s : State) : (counterSpent e c v s).slot m = s.slot m := by
  rw [slot_counterSpent, slot_setCounter_other h, slot_commitEntry]

theorem value_counterSpent (hfits : v + 1 < 2 ^ 64) (e c : Nat) (s : State) :
    leNat (((counterSpent e c v s).slot c).key.take 8) = v + 1 := by
  have htake : (toLE 8 (v + 1) ++ zeros 24).take 8 = toLE 8 (v + 1) := List.take_left' rfl
  rw [slot_counterSpent_self, htake, leNat_toLE]
  exact Nat.mod_eq_of_lt hfits

end

/-! ## The context key (R248) -/

/-- The state once a pitch has a new context key. -/
def contextRotated (p : BitVec 12) (key : Bytes) (s : State) : State :=
  mirror (.contextKey p s.csn key ((s.pitch p.toNat).ctxGen + 1))
    (journal (.contextKey p (some key) ((s.pitch p.toNat).ctxGen + 1)) s.csn
      (s.updPitch p.toNat fun v => { v with ctxKey := some key, ctxGen := (s.pitch p.toNat).ctxGen + 1 }))

section
variable {s w : State} {e : BitVec 17} {env : CmdEnv} {x : Entry} {want : Nat}

theorem pitch_contextRotated (p : BitVec 12) (key : Bytes) (s : State) : (contextRotated p key s).pitch p.toNat
    = { s.pitch p.toNat with ctxKey := some key, ctxGen := (s.pitch p.toNat).ctxGen + 1 } := by
  rw [contextRotated, ((journal_onlySeals ..).trans (mirror_onlySeals ..)).pitch, pitch_updPitch_self]

theorem csn_contextRotated (p : BitVec 12) (key : Bytes) (s : State) : (contextRotated p key s).csn = s.csn := by
  rw [contextRotated, mirror_csn, journal_csn, updPitch_csn]

theorem slots_contextRotated (p : BitVec 12) (key : Bytes) (s : State) : (contextRotated p key s).kst.slots = s.kst.slots := by
  rw [contextRotated, ((journal_onlySeals ..).trans (mirror_onlySeals ..)).slots, updPitch_kst]

theorem rotateContext_refused (hwaits : s.commitWaits = false) (hgen : (s.pitch x.pitch.toNat).ctxGen.toNat ≠ want) :
    (rotateContext (runOf e env x) want).run s = (.error (.fail stBadField 0 0), s) := by
  refine run_passes (run_get s) ?_
  refine run_unless (by simp [hwaits]) ?_
  exact run_bind_stops (run_check_fails (decide_eq_false hgen) _ s)

theorem rotateContext_ok (hwaits : s.commitWaits = false) (hgen : (s.pitch x.pitch.toNat).ctxGen.toNat = want)
    (hserves : (s.drbg 9).state ≠ 2)
    (hw : w = commitEntry e.toNat (drbgRequest 9 32 s)) :
    (rotateContext (runOf e env x) want).run s
      = (.ok { inline := ((contextRotated x.pitch (s.drbgOut 9 32) w).pitch x.pitch.toNat).ctxGen },
          contextRotated x.pitch (s.drbgOut 9 32) w) := by
  refine run_passes (run_get s) ?_
  refine run_unless (by simp [hwaits]) ?_
  refine run_passes (run_check_ok (decide_eq_true hgen) _ s) ?_
  refine run_passes (drawFrom_ok hserves 32) ?_
  refine run_passes (run_to (run_modify (commitEntry e.toNat) _) hw) ?_
  refine run_passes (run_modify _ w) ?_
  exact run_passes (run_get _) rfl

theorem ctxGen_rotated (e p : Nat) (s : State) : ((commitEntry e (drbgRequest 9 32 s)).pitch p).ctxGen = (s.pitch p).ctxGen := by
  rw [ctxGen_commitEntry, State.pitch, drbgRequest_pit, State.pitch]

end

end Sys2Proof.Machine

namespace Sys2Proof.Proofs

open Sys2Proof.Machine Sys2Proof.Safety

/-- Settles O57: the run of a mode past the checks and the counter of its key, and the two commit points that the other clauses name. -/
theorem cipherCommands : Obligations.CipherCommands := by
  unfold Obligations.CipherCommands
  refine ⟨?bulk, ?counter, ?rotate, ?checked⟩
  case bulk =>
    intro c hc s u w e env x b ka k2 iv d inl h
    have hexec : exec (c.2 e env) s = .next (runOp e.toNat c.1 env bulk s) := exec_bulkCommands hc e env s
    have hrun := bulk_run h
    obtain ⟨⟨hruns, -⟩, -, -, -, -, -, -, hdata, hlanes, hdraws, hnonce⟩ := h
    have hends : ∀ {a t}, (bulkPast (runOf e env x) b ka.val k2 (u.pitch x.pitch.toNat) iv inl).run w = (.ok a, t) →
        (bulk (runOf e env x)).run s = (.ok a, t) := fun h => hrun.trans (spentIf_ok h)
    have hnone : b.hw = false → inl = 0 := fun hhw => by
      obtain ⟨-, -, hinl, -⟩ | ⟨htrue, -⟩ := hnonce
      · exact hinl
      · simp [hhw] at htrue
    have hstops : ∀ {st t}, (bulkPast (runOf e env x) b ka.val k2 (u.pitch x.pitch.toNat) iv inl).run w = (.error (.fail st 0 0), t) →
        (bulk (runOf e env x)).run s = (.error (.fail st 0 inl), t) := fun h => hrun.trans (spentIf_fails hnone h)
    refine ⟨fun hstart => concludes_of_run hexec hruns (hstops (bulkPast_noStart hdata hstart)), fun h g saved z hstart hg hsaved hz => ?_⟩
    refine ⟨fun hfits => concludes_of_run hexec hruns (hstops (bulkPast_exhausted hdata hstart hfits)), fun hfits => ?_⟩
    have hseg := bulkPast_runs (inl := inl) hruns hdata hstart hfits hlanes hdraws hg hsaved hz
    refine ⟨fun hopens => ends_of_run hexec hruns (hends (hseg.trans (bulkTail_ends hopens))), fun hopens hinl => ⟨?opened, ?failed⟩⟩
    case opened => exact fun htag => ends_of_run hexec hruns (hends (hseg.trans (bulkTail_opens hopens htag)))
    case failed =>
      subst hinl
      exact fun htag => ⟨fun hheld => refuses_of_run hexec hruns (hstops (hseg.trans (bulkTail_held hopens htag hheld))),
        fun hheld => refuses_of_run hexec hruns (hstops (hseg.trans (bulkTail_spills hopens htag hheld)))⟩
  case counter =>
    intro u r k n v hslot hwaits hclean hv hentry
    exact ⟨fun hlow hfits => ⟨_, spendCounter_ok hslot hwaits hclean hv hlow, csn_counterSpent _ v hentry, value_counterSpent hfits ..,
        by rw [slot_counterSpent_self], fun m hm => slot_counterSpent_other hm ..⟩,
      fun hend => spendCounter_exhausted hslot hwaits hclean (hv ▸ hend)⟩
  case rotate =>
    rintro s e env x ⟨hruns, hlatch⟩ hform hop hdata hwaits
    have hform' : Formed x 0 [(offA, [0]), (offB, [0])] ([(0x40, 1)] ++ if x.byte 0x40 = 1 then [(0x48, 8)] else []) [.none, .none] := by
      rwa [if_pos hop]
    have hrun : (cipherContext (runOf e env x)).run s = (rotateContext (runOf e env x) (x.num 0x48 8)).run s := by
      refine run_passes (checkForm_ok hform' s) ?_
      refine run_passes (run_check_ok (by simp [hop]) _ s) ?_
      refine run_passes (run_check_ok (by simp [hop, hdata]) _ s) ?_
      refine run_passes (checkErased_ok hlatch) ?_
      exact run_if hop (run_passes (laneless_passes hruns 0) rfl)
    refine ⟨fun hgen hserves => ?_, fun hgen => refuses_of_run rfl hruns (hrun.trans (rotateContext_refused hwaits hgen))⟩
    obtain ⟨w, hw⟩ : ∃ w, w = commitEntry e.toNat (drbgRequest 9 32 s) := ⟨_, rfl⟩
    have hpitch := pitch_contextRotated x.pitch (s.drbgOut 9 32) w
    have hgen' : ((contextRotated x.pitch (s.drbgOut 9 32) w).pitch x.pitch.toNat).ctxGen = (s.pitch x.pitch.toNat).ctxGen + 1 := by
      rw [hpitch, hw, ctxGen_rotated]
    refine ⟨contextRotated x.pitch (s.drbgOut 9 32) w,
      hgen' ▸ ends_of_run rfl hruns (hrun.trans (rotateContext_ok hwaits hgen hserves hw)), ?_,
      by rw [hpitch], hgen', ?_⟩
    · have hentry : (drbgRequest 9 32 s).entry e.toNat = some x := by
        rw [State.entry, drbgRequest_sch]
        exact hruns.1
      rw [csn_contextRotated, hw, csn_commitEntry hentry, drbgRequest_csn]
    · rw [slots_contextRotated, hw, commitEntry_kst, drbgRequest_kst]
  case checked =>
    rintro s e env x d ⟨hruns, hlatch⟩ hform hop hdata hlen hlanes
    have hform' : Formed x 0 [(offA, [0]), (offB, [0])] ([(0x40, 1)] ++ if x.byte 0x40 = 1 then [(0x48, 8)] else []) [.none, .none] := by
      rwa [if_neg (by omega)]
    have hlen' : x.dataLen = 128 := hdata.1 ▸ hlen
    have hrun : (cipherContext (runOf e env x)).run s
        = (match unsealCtx ((s.pitch x.pitch.toNat).ctxKey.getD []) (s.pitch x.pitch.toNat).ctxGen.toNat d with
            | some _ => pure { inline := 1 }
            | none => refuse stKeyBlockAuth : Act Ans).run (lanesUsed true s) := by
      refine run_passes (checkForm_ok hform' s) ?_
      refine run_passes (run_check_ok (by simp [hop]) _ s) ?_
      refine run_passes (run_check_ok (by simp [hop, hlen']) _ s) ?_
      refine run_passes (checkErased_ok hlatch) ?_
      refine run_unless (by simp [hop]) ?_
      refine run_passes (run_get s) ?_
      refine run_passes (readData_ok hdata) ?_
      exact run_passes (lanes_pass hruns hlanes 0) rfl
    split
    · next hopens =>
      obtain ⟨body, hbody⟩ := Option.isSome_iff_exists.mp hopens
      rw [hbody] at hrun
      exact ends_of_run rfl hruns hrun
    · next hfails =>
      rw [Option.not_isSome_iff_eq_none.mp hfails] at hrun
      exact refuses_of_run rfl hruns hrun

end Sys2Proof.Proofs
end

section
/-! The derivation cache and its walkers (R216 to R220, R223): what a lookup comes to, what a walker leaves at its end, and what the
end of a command leaves of the caches. -/

namespace Sys2Proof.Machine

open Sys2Proof.Safety

/-! ## Lines of the derivation cache -/

section
variable {s t : State} {p i e n : Nat}

theorem dkcEntry_setDkc_self (s : State) (p i : Nat) (v : DkcEntry) : (s.setDkc p i v).dkcEntry p i = v := smap_get_set_self ..

end

/-! ## The lookup (R218, R223) -/

section
variable {s : State} {r : Run} {k : Ksn} {bdk : Key} {i : Nat}

theorem dkcStep_unreachable (hanchor : r.x.anchor = none) (hreach : k.reachable = false) (s : State) :
    (dkcStep r k bdk).run s = (.error (.fail stCounterExhausted 0 0), s) := by
  unfold dkcStep
  rw [hanchor]
  exact run_bind_stops (run_check_fails hreach _ s)

/-- The walker that a command sets to work for its key. -/
def walkerFor (r : Run) (k : Ksn) (bdk : Key) (mode : BitVec 2) (s : State) : Walker :=
  { entry := r.e, pitch := r.x.pitch, tdes := k.tdes, binding := bdk.binding, id := k.id, anchor := highOf k.ctr,
    key := walkerKey k bdk.val, gen := (s.pitch r.p).gen, mode := mode }

/-- The state once the first walker works for a command. -/
def walks (r : Run) (k : Ksn) (bdk : Key) (mode : BitVec 2) (count : Pitch → Pitch) (s : State) : State :=
  let t := (s.updPitch r.p count).updEntry r.e fun x => { x with walker := some 0 }
  setWalker 0 (some (walkerFor r k bdk mode s)) { t with caches := { t.caches with walkQueue := t.caches.walkQueue.erase r.e } }

theorem startWalker_first {mode : BitVec 2} {count : Pitch → Pitch} (hfree : s.caches.walker0 = none) (hqueue : s.caches.walkQueue = []) :
    (startWalker r k bdk mode count).run s = (.error .parked, walks r k bdk mode count s) := by
  have hfree' : s.freeWalker = some 0 := by rw [State.freeWalker, hfree]; rfl
  refine run_passes (run_get s) ?_
  rw [hfree']
  exact run_if (.inl hqueue) rfl

theorem entry_walks {x : Entry} (hx : s.entry r.e = some x) (k : Ksn) (bdk : Key) (mode : BitVec 2) (count : Pitch → Pitch) :
    (walks r k bdk mode count s).entry r.e = some { x with walker := some 0 } := by
  refine (entry_updEntry_self (s.updPitch r.p count) r.e fun x => { x with walker := some 0 }).trans ?_
  rw [State.entry, updPitch_sch, ← State.entry, hx]
  rfl

theorem pitch_walks (r : Run) (k : Ksn) (bdk : Key) (mode : BitVec 2) (count : Pitch → Pitch) (s : State) :
    (walks r k bdk mode count s).pitch r.p = count (s.pitch r.p) := pitch_updPitch_self s r.p count

/-! A lookup of a counter that terminals reach, for which no walker works. -/

section
variable (hanchor : r.x.anchor = none) (hreach : k.reachable = true) (hidle : s.walkerBusy r.x.pitch k bdk.binding = false)
include hanchor hreach hidle

theorem dkcStep_replayed (hfind : s.dkcFind r.p k.tdes k.id bdk.binding = some i)
    (hlow : s.replayRefuses r.p k.ctr (s.dkcEntry r.p i).high = true) :
    (dkcStep r k bdk).run s = (.error (.fail stCounterExhausted 0 0), s.updPitch r.p fun v => { v with dkcReplay := v.dkcReplay + 1 }) := by
  unfold dkcStep
  rw [hanchor]
  refine run_passes (run_check_ok hreach _ s) ?_
  refine run_passes (run_get s) ?_
  refine run_unless (by simp [hidle]) ?_
  rw [hfind]
  exact run_if hlow rfl

theorem dkcStep_hit (hfind : s.dkcFind r.p k.tdes k.id bdk.binding = some i)
    (hhigh : s.replayRefuses r.p k.ctr (s.dkcEntry r.p i).high = false) (hhit : (s.dkcEntry r.p i).anchor = highOf k.ctr) :
    (dkcStep r k bdk).run s = (.ok (s.dkcEntry r.p i).key,
      (s.setDkc r.p i { s.dkcEntry r.p i with ref := true }).updPitch r.p fun v => { v with dkcHit := v.dkcHit + 1 }) := by
  unfold dkcStep
  rw [hanchor]
  refine run_passes (run_check_ok hreach _ s) ?_
  refine run_passes (run_get s) ?_
  refine run_unless (by simp [hidle]) ?_
  rw [hfind]
  exact run_unless (by simp [hhigh]) (run_if hhit rfl)

theorem dkcStep_miss (hfind : s.dkcFind r.p k.tdes k.id bdk.binding = none) (hfree : s.caches.walker0 = none)
    (hqueue : s.caches.walkQueue = []) : (dkcStep r k bdk).run s = (.error .parked,
      walks r k bdk (if (s.pitch r.p).dkcCap = 0 then 0 else 2) (fun v => { v with dkcMiss := v.dkcMiss + 1 }) s) := by
  unfold dkcStep
  rw [hanchor]
  refine run_passes (run_check_ok hreach _ s) ?_
  refine run_passes (run_get s) ?_
  refine run_unless (by simp [hidle]) ?_
  rw [hfind]
  exact startWalker_first hfree hqueue

end

end

/-! ## The end of a walker (R18, R218, R220) -/

section
variable {s t : State} {w : Walker} {x : Entry} {e p i : Nat}

/-- `t` is `s` but for the lines of the derivation cache and the hands of their sets. -/
def OnlyLines (s t : State) : Prop := ∃ c : Caches, t = { s with caches := { s.caches with dkc := c.dkc, dkcHand := c.dkcHand } }

theorem OnlyLines.refl (s : State) : OnlyLines s s := ⟨s.caches, rfl⟩

theorem OnlyLines.trans {u : State} : OnlyLines s t → OnlyLines t u → OnlyLines s u := by
  rintro ⟨c, rfl⟩ ⟨d, rfl⟩
  exact ⟨d, rfl⟩

theorem OnlyLines.hands (m : SMap Nat) : OnlyLines s t → OnlyLines s { t with caches := { t.caches with dkcHand := m } } := by
  rintro ⟨c, rfl⟩
  exact ⟨{ c with dkcHand := m }, rfl⟩

theorem OnlyLines.sch (h : OnlyLines s t) : t.sch = s.sch := by
  obtain ⟨c, rfl⟩ := h
  rfl

theorem OnlyLines.walker1 (h : OnlyLines s t) : t.caches.walker1 = s.caches.walker1 := by
  obtain ⟨c, rfl⟩ := h
  rfl

theorem setDkc_onlyLines (s : State) (p i : Nat) (v : DkcEntry) : OnlyLines s (s.setDkc p i v) := ⟨(s.setDkc p i v).caches, rfl⟩

theorem dkcClock_onlyLines (p set : Nat) : ∀ (n w : Nat) (s : State), OnlyLines s (dkcClock p set n w s).2
  | 0, _, s => .refl s
  | n + 1, w, s => by
    simp only [dkcClock]
    split
    · exact (setDkc_onlyLines s ..).trans (dkcClock_onlyLines p set n _ _)
    · exact .refl s

theorem dkcPick_onlyLines (p set : Nat) (s : State) : OnlyLines s (dkcPick p set s).2 := by
  simp only [dkcPick]
  split
  · exact .refl s
  · split
    · exact .refl s
    · exact (dkcClock_onlyLines p set 16 (s.caches.dkcHand.get 0 (2 ^ 20 * p + set)) s).hands _

theorem walkerStore_onlyLines (w : Walker) (s : State) : OnlyLines s (walkerStore w s) := by
  simp only [walkerStore]
  split
  · exact .refl s
  · split
    · exact setDkc_onlyLines s ..
    · split
      · exact .refl s
      · exact (dkcPick_onlyLines _ _ s).trans (setDkc_onlyLines ..)

theorem walkerStore_stale (h : w.gen ≠ (s.pitch w.pitch.toNat).gen) : walkerStore w s = s := if_pos (.inl h)

theorem walkerStore_found (hgen : w.gen = (s.pitch w.pitch.toNat).gen) (hmode : w.mode = 1)
    (hfind : s.dkcFind w.pitch.toNat w.tdes w.id w.binding = some i) : walkerStore w s
      = s.setDkc w.pitch.toNat i { s.dkcEntry w.pitch.toNat i with anchor := w.anchor, key := w.key, ref := true } := by
  have hstores : ¬(w.gen ≠ (s.pitch w.pitch.toNat).gen ∨ w.mode = 0) := by simp [hgen, hmode]
  simp only [walkerStore, if_neg hstores, hfind]

/-- The state once a walker's key is with its command. -/
def handedOver (w : Walker) (s : State) : State := s.updEntry w.entry fun x => { x with walker := none, anchor := some w.key }

theorem walkerDone_ok (hwalker : s.caches.walker0 = some w) (hx : s.entry w.entry = some x) (hmine : x.walker = some 0) :
    walkerDone 0 none s = setWalker 0 none (walkerStore w (handedOver w s)) := by
  simp only [walkerDone, if_true, hwalker, hx, hmine, decide_true]
  rfl

theorem walkerDone_ecc (hwalker : s.caches.walker0 = some w) (hx : s.entry w.entry = some x) (hmine : x.walker = some 0) (l : BitVec 31) :
    walkerDone 0 (some l) s = finish w.entry { status := stMemoryEcc } (setWalker 0 none (memoryFault l s)) := by
  simp only [walkerDone, if_true, hwalker, hx, hmine, decide_true]

theorem memoryFault_sch (l : BitVec 31) (s : State) : (memoryFault l s).sch = s.sch := by simp only [memoryFault, raise_sch, tallyRec_sch]

theorem memoryFault_caches (l : BitVec 31) (s : State) : (memoryFault l s).caches = s.caches := by
  simp only [memoryFault, raise_caches, tallyRec_caches]

theorem entry_walked (w : Walker) (s : State) (e : Nat) : (setWalker 0 none (walkerStore w s)).entry e = s.entry e :=
  congrArg (fun u : Sch => (u.entries.get none e)) (walkerStore_onlyLines w s).sch

theorem entry_handedOver_self (w : Walker) (s : State) : (handedOver w s).entry w.entry
    = (s.entry w.entry).map fun x => { x with walker := none, anchor := some w.key } := entry_updEntry_self ..

theorem entry_handedOver_other (h : e ≠ w.entry) : (handedOver w s).entry e = s.entry e :=
  smap_get_upd_other none s.sch.entries _ _ _ h

theorem entry_faulted (hx : s.entry e = some x) (l : BitVec 31) : (setWalker 0 none (memoryFault l s)).entry e = some x := by
  rw [← hx]
  exact congrArg (fun u : Sch => (u.entries.get none e)) (memoryFault_sch l s)

/-! ## The caches as the end of a command leaves them -/

theorem leaveEngine_caches (e : Nat) (x : Entry) (s : State) :
    (leaveEngine e x s).caches = { s.caches with walkQueue := s.caches.walkQueue.erase e } := by
  rw [leaveEngine, releaseCtx_caches, takeFrom_caches]

/-- The end of a command that raises no mark leaves the caches but for its place before the walkers. -/
theorem finish_caches (hx : s.entry e = some x) {d : Done} (hhigh : d.high = none) :
    (finish e d s).caches = { s.caches with walkQueue := s.caches.walkQueue.erase e } := by
  have hend : ∀ (b : Bool) p c (u : State), (if b then freeEntry e u else post p c u).caches = u.caches := fun b _ _ _ => by
    split
    · exact freeEntry_caches ..
    · exact post_caches ..
  simp only [finish, hx, hhigh, raiseMark]
  rw [serveContexts_caches, hend, updEntry_caches, leaveEngine_caches, updPitch_caches]
  refine congrArg (fun c : Caches => { c with walkQueue := c.walkQueue.erase e }) ?_
  split
  · split
    · rfl
    · exact replayStatus_caches ..
  · rfl

end

end Sys2Proof.Machine
end

section
/-! DUKPT commands (R122, R208 to R229) and the end of a walker (R18, R218 to R220). -/

namespace Sys2Proof.Proofs

open Sys2Proof.Machine Sys2Proof.Safety

/-- Settles O58: the lookup by its outcomes, each command through its checks, and the end of a walker by what its store and the end of its
command leave of the caches. -/
theorem dukptCommands : Obligations.DukptCommands := by
  unfold Obligations.DukptCommands
  refine ⟨⟨?lookup, ?unreachable, ?decrypt, ?pin, ?mac, ?initial⟩, ?walker⟩
  case lookup =>
    intro s r k bdk hanchor hreach hidle
    refine ⟨fun i hfind hlow => ⟨_, dkcStep_replayed hanchor hreach hidle hfind hlow, rfl⟩, fun i hfind hhigh hhit =>
      ⟨_, dkcStep_hit hanchor hreach hidle hfind hhigh hhit, dkcEntry_setDkc_self .., ?_⟩, fun hfind hfree hqueue hx =>
      ⟨_, dkcStep_miss hanchor hreach hidle hfind hfree hqueue, ?_, rfl, ?_⟩⟩
    · rw [pitch_updPitch_self]
      rfl
    · rw [entry_walks hx]
      rfl
    · rw [pitch_walks]
  case unreachable =>
    exact fun s r k bdk hanchor hreach => dkcStep_unreachable hanchor hreach s
  case decrypt =>
    rintro s u w e env x a k bdk ak d iv wk m ⟨hruns, hlatch⟩ rfl rfl hform hksn huse hmode hmin hmax hblocks hkey hcap hstep hdata rfl
      hfits hlanes
      rfl
    have hfields : (ksnFieldOk x && decide (x.byte 0x4D ≤ 1) && (x.byte 0x4E = 2 || (x.byte 0x4E = 3 && !(readKsn x).tdes))) = true := by
      obtain h2 | ⟨h3, haes⟩ := hmode
      · simp [hksn, huse, h2]
      · simp [hksn, huse, h3, haes]
    have hlen : (decide (16 ≤ x.dataLen) && decide (x.dataLen ≤ 4096)) = true := by simp [← hdata.1, hmin, hmax]
    have hblocks' : (x.byte 0x4E = 3 || x.dataLen % blockLen (readKsn x).tdes = 0) = true := by simpa [← hdata.1] using hblocks
    have hfits' : (x.byte 0x4E ≠ 3 || ctrFits (x.bytes 0x50 (blockLen (readKsn x).tdes)) ((x.dataLen + 15) / 16)) = true := by
      simpa [← hdata.1] using hfits
    refine ends_of_run rfl hruns ?_
    refine run_passes (checkForm_ok hform s) ?_
    refine run_passes (run_check_ok hfields _ s) ?_
    refine run_passes (run_check_ok hlen _ s) ?_
    refine run_passes (run_check_ok hblocks' _ s) ?_
    refine run_passes (checkErased_ok hlatch) ?_
    refine run_passes hkey ?_
    refine run_passes (checkCap_ok (hdata.1 ▸ hcap) u) ?_
    refine run_passes hstep ?_
    refine run_passes (readData_ok hdata) ?_
    refine run_passes (run_check_ok hfits' _ w) ?_
    exact run_passes (lanes_pass hruns hlanes 0) rfl
  case pin =>
    rintro s u w v e env x a b k bdk kb ak wk fin fout pan pf ⟨hruns, hlatch⟩ rfl rfl rfl hform hksn hpair hblock hpan rfl hdata hkeys
      hcap hstep
      hserves rfl hlanes rfl rfl
    have hfields : (ksnFieldOk x && translatePair (x.byte 0x4D) (x.byte 0x4E) && pinBlockOk (x.byte 0x4D) (x.bytes 0x50 16)
        && (!(decide (x.byte 0x4D ≠ 1) || decide (x.byte 0x4E ≠ 1)) || (readPan (x.bytes 0x60 12)).isSome)) = true := by
      rw [hksn, hpair, hblock]
      obtain ⟨hin, hout⟩ | hread := hpan
      · simp [hin, hout]
      · simp [hread]
    have hrun : (dukptPin (runOf e env x)).run s = (match pinOf (x.byte 0x4D) (pinDecipher (x.byte 0x4D) (workingKey (readKsn x) ak .pin)
          ((x.bytes 0x50 16).take (pinLen (x.byte 0x4D))) (panField (x.byte 0x4D) ((readPan (x.bytes 0x60 12)).getD []))) with
        | some pin => pure { result := pinBuild (x.byte 0x4E) kb.val pin (pinBytes (runOf e env x) (x.byte 0x4E) w)
                               ((readPan (x.bytes 0x60 12)).getD []), high := some ((readKsn x).mark bdk) }
        | none => refuse stPinFormat : Act Ans).run (lanesUsed true (pinDrawn (runOf e env x) (x.byte 0x4E) w)) := by
      refine run_passes (checkForm_ok hform s) ?_
      refine run_passes (run_check_ok hfields _ s) ?_
      refine run_passes (noData_ok hdata s) ?_
      refine run_passes (checkErased_ok hlatch) ?_
      refine run_passes hkeys ?_
      refine run_passes (checkCap_ok hcap u) ?_
      refine run_passes hstep ?_
      refine run_passes (pinFresh_ok hserves) ?_
      exact run_passes (lanes_pass hruns hlanes 0) rfl
    refine ⟨fun pin hpin => ends_of_run rfl hruns ?_, fun hpin => refuses_of_run rfl hruns ?_⟩
    · rw [hrun, hpin]; rfl
    · rw [hrun, hpin]; rfl
  case mac =>
    rintro s u w e env x a k bdk ak d wk n ⟨hruns, hlatch⟩ rfl rfl hform hksn hmin hmax huse hempty hlong hkey hstep hdata hlanes rfl
    have hfields : (ksnFieldOk x && decide (4 ≤ x.byte 0x4D) && decide (x.byte 0x4D ≤ if (readKsn x).tdes then 8 else 16)
        && decide (x.byte 0x4E ≤ 1)) = true := by simp [hksn, hmin, hmax, huse]
    have hrun : (dukptMac (runOf e env x)).run s
        = (if (isoMac (if (readKsn x).tdes then 3 else 5) 1
              (workingKey (readKsn x) ak (if x.byte 0x4E = 0 then .macRequest else .macResponse)) d).take (x.byte 0x4D) = x.bytes 0x50 (x.byte 0x4D)
            then pure { inline := 1, high := some ((readKsn x).mark bdk) } else refuse stVerifyMismatch : Act Ans).run
              (lanesUsed true w) := by
      refine run_passes (checkForm_ok hform s) ?_
      refine run_passes (run_check_ok hfields _ s) ?_
      refine run_passes (messageLen_ok hdata.1 hempty hlong s) ?_
      refine run_passes (checkErased_ok hlatch) ?_
      refine run_passes hkey ?_
      refine run_passes hstep ?_
      refine run_passes (readData_ok hdata) ?_
      exact run_passes (lanes_pass hruns hlanes 0) rfl
    exact ⟨fun hmac => ends_of_run rfl hruns (hrun.trans (run_if hmac rfl)),
      fun hmac => refuses_of_run rfl hruns (hrun.trans (run_unless hmac rfl))⟩
  case initial =>
    rintro s u w e env x a b bdk kb h at' tag ik blk n ⟨hruns, hlatch⟩ hform hzero htemplate hdata hheader huse halg hmode hkeys rfl rfl rfl
      hwrite hcap hserves rfl hlanes
    have hheader' : readHeader ((runOf e env x).x.bytes 0x50 16) = some h := hheader
    have hok : (match readHeader ((runOf e env x).x.bytes 0x50 16) with
        | some h => h.use = .b1 && h.alg = .a && h.mode = .x
        | none => false) = true := by
      rw [hheader']
      simp [huse, halg, hmode]
    have hkeys' : FindsBoth (runOf e env x) a b (bdkOk false) (isKbpk true) (fun bdk kb => (h.use = .b1 && h.alg = .a && h.mode = .x)
        && decide (bdk.val.length ≤ kb.val.length)) s bdk kb u := by
      simpa [huse, halg, hmode] using hkeys
    refine ends_of_run rfl hruns ?_
    refine run_passes (checkForm_ok hform s) ?_
    refine run_passes (run_check_ok (by simp [hzero, htemplate]) _ s) ?_
    refine run_passes (noData_ok hdata s) ?_
    refine run_passes (checkErased_ok hlatch) ?_
    dsimp only
    rw [hheader']
    refine run_passes hkeys' ?_
    refine run_passes (writeOut_ok hwrite (by simpa using hcap) hserves) ?_
    exact run_passes (lanes_pass hruns hlanes 0) rfl
  case walker =>
    intro s w x hwalker hx hmine
    refine ⟨⟨_, congrArg Host.Outcome.next (walkerDone_ok hwalker hx hmine), rfl, ?_, ?_, ?_, ?_, ?_⟩, fun l =>
      ⟨_, congrArg Host.Outcome.next (walkerDone_ecc hwalker hx hmine l), ?_, ?_, ?_⟩⟩
    · exact (walkerStore_onlyLines ..).walker1
    · rw [entry_walked, entry_handedOver_self, hx]
      rfl
    · intro e he
      rw [entry_walked, entry_handedOver_other he]
    · intro hgen
      rw [walkerStore_stale (s := handedOver w s) hgen]
      rfl
    · intro i hgen hmode hfind
      rw [walkerStore_found (s := handedOver w s) hgen hmode hfind]
      exact dkcEntry_setDkc_self (handedOver w s) ..
    · rw [finish_caches (entry_faulted hx l) rfl]
      rfl
    · rw [finish_caches (entry_faulted hx l) rfl]
      have hdkc : (memoryFault l s).caches.dkc = s.caches.dkc := by rw [memoryFault_caches]
      exact hdkc
    · exact (finish_heldWith (entry_faulted hx l) _).2

end Sys2Proof.Proofs
end

section
/-! Stages of the engine commands (R110, R245, R265 to R278, R424): the counter of a signing key, the signature, its pair of engines,
the target slot of a derived key, and each public-key command past its checks. -/

namespace Sys2Proof.Machine

open Sys2Proof.Safety

section
variable {s u w y : State} {r : Run} {k : Key} {n alg inst hash : Nat} {inl : BitVec 64} {extra key m rand sig : Bytes}

theorem checkPair_ok {lattice : Bool} (h : TwoServe lattice s) : (checkPair lattice).run s = (.ok ⟨⟩, s) :=
  run_passes (run_get s) (run_check_ok (decide_eq_true h) _ s)

theorem checkSlot_ok {off : Nat} {a : Attr}
    (h : r.x.flag 8 = true → s.blockOwner (r.x.num off 4 / 64) = some r.p ∧ slotsFree s (r.x.num off 4) a = true) :
    (checkSlot r off a).run s = (.ok ⟨⟩, s) := by
  by_cases hslot : r.x.flag 8 = true
  · exact run_if hslot (checkTarget_ok (h hslot).1 (h hslot).2)
  · exact run_unless hslot rfl

theorem replayAfterCapture_ok (hbusy : s.replayBusy r.e r.p r.x.sqe = false) (hfind : s.replayFind r.p r.x.sqe = none) :
    (replayAfterCapture r).run s = (.ok ⟨⟩, s) := by
  refine run_passes (run_get s) ?_
  refine run_unless (by simp [hbusy]) ?_
  rw [hfind]
  rfl

/-- The lookup that precedes the counter of a signing key. -/
theorem lookup_of_signCount (h : SignCount r k u inl w) (hcounts : k.attr.ctrKind = 1) : (replayAfterCapture r).run u = (.ok ⟨⟩, u) := by
  obtain ⟨hnone, -⟩ | ⟨-, hbusy, hfind, -⟩ := h
  · exact absurd hcounts hnone
  · exact replayAfterCapture_ok hbusy hfind

theorem useCounter_ok (h : SignCount r k u inl w) : (useCounter r k).run u = (.ok inl, w) := by
  obtain ⟨hnone, rfl, rfl⟩ | ⟨hcounts, hbusy, hfind, v, hspend, rfl⟩ := h
  · exact run_unless hnone rfl
  · exact run_if hcounts (run_passes (replayAfterCapture_ok hbusy hfind) (run_passes hspend rfl))

theorem makeSign_ok (hdraw : SignDraw inst alg extra w rand y) (hsign : pkSign alg hash extra key m rand = some sig) :
    (makeSign inst alg hash extra key m).run w = (.ok sig, y) := by
  refine run_passes hdraw ?_
  rw [hsign]
  rfl

theorem makeSign_fails (hdraw : SignDraw inst alg extra w rand y) (hsign : pkSign alg hash extra key m rand = none) :
    (makeSign inst alg hash extra key m).run w = (.error (.fail stHwFault 0 0), y) := by
  refine run_passes hdraw ?_
  rw [hsign]
  rfl

/-- A prime search that runs to its end or its bound (R277, R278). -/
theorem generateKey_ok {bits ex : Nat} {made : Option Bytes} {g : Drbg} (hserves : (s.drbg 7).state ≠ 2)
    (hmade : pkGenerate alg bits ex (s.drbg 7) = (made, g)) :
    (generateKey alg bits ex).run s = (.ok made, drbgLimit 7 (s.updDrbg 7 fun _ => g)) := by
  refine run_passes (run_get s) ?_
  refine run_passes (run_check_ok (decide_eq_true hserves) _ s) ?_
  rw [hmade]
  rfl

end

/-! ## The runs of the commands -/

section
variable {s u w : State} {e : BitVec 17} {env : CmdEnv} {x : Entry} {a : Ref} {k : Key} {alg n : Nat} {d : Bytes} {inl : BitVec 64}

/-- PK_SIGN past its checks and its counter. -/
theorem pkSignCmd_run (hready : Ready s e env 0x0801 x) (halg : alg = x.byte 0x40)
    (hform : Formed x 0 [(offA, heldType), (offB, [0])] sigFields [a, .none]) (hfields : sigFieldsOk x = true)
    (hlen : sigDataOk x x.dataLen = true) (hkey : Finds (runOf e env x) a (sigKey alg false) s k u)
    (hn : n = sigLen alg (modulusLen k.attr)) (hcap : n ≤ x.resultCap)
    (hpair : (runOf e env x).signChecked alg = true → TwoServe false u) (hcount : SignCount (runOf e env x) k u inl w)
    (hdata : Input w x env d) : (pkSignCmd (runOf e env x)).run s = (spent inl do
        let sig ← makeSign 7 alg (x.byte 0x41) (sigExtra x d) k.val (sigInput x d)
        pure { result := sig, inline := inl, engine := 1, check := (runOf e env x).signChecked alg, long := longSign alg n,
               operand := k.val ++ sigInput x d ++ sig,
               method := some ⟨alg, x.byte 0x41, sigExtra x d, k.val, sigInput x d, sig⟩ } : Act Ans).run w := by
  obtain ⟨hruns, hlatch⟩ := hready
  subst halg hn
  refine run_passes (checkForm_ok hform s) ?_
  refine run_passes (run_check_ok hfields _ s) ?_
  refine run_passes (run_check_ok hlen _ s) ?_
  refine run_passes (checkErased_ok hlatch) ?_
  refine run_passes hkey ?_
  refine run_passes_if (lookup_of_signCount hcount) (fun _ => rfl) ?_
  refine run_passes (checkCap_ok hcap u) ?_
  refine run_passes_if (fun h => checkPair_ok (hpair h)) (fun _ => rfl) ?_
  refine run_passes (useCounter_ok hcount) ?_
  refine run_spent_congr inl ?_
  refine run_passes (readData_ok hdata) ?_
  exact run_passes (laneless_passes hruns inl) rfl

theorem pkVerifyCmd_run {sl : Nat} (hready : Ready s e env 0x0802 x) (halg : alg = x.byte 0x40) (hsl : sl = x.num 0x48 2)
    (hform : Formed x 0 [(offA, anyType), (offB, [0])] (sigFields ++ [(0x48, 2)]) [a, .none]) (hfields : sigFieldsOk x = true)
    (hlens : (decide (sl ≤ x.dataLen) && sigDataOk x (x.dataLen - sl) && (isRsaSig alg || sl = sigLen alg 0)) = true)
    (hmodulus : isRsaSig alg = true → (checkModulus (runOf e env x) a sl).run s = (.ok (), s))
    (hkey : Finds (runOf e env x) a (sigKey alg true) s k u) (hdata : Input u x env d) (hn : x.dataLen - sl = n) :
    (pkVerifyCmd (runOf e env x)).run s = (match sigRange alg k.val (d.drop n) with
        | some st => refuse st
        | none => pure
            { status := if pkVerify alg (x.byte 0x41) (sigExtra x (d.take n)) k.val (sigInput x (d.take n)) (d.drop n) then 0
                        else stSignatureInvalid,
              inline := if pkVerify alg (x.byte 0x41) (sigExtra x (d.take n)) k.val (sigInput x (d.take n)) (d.drop n) then 1 else 0,
              engine := 1, long := longVerify alg, operand := k.val ++ sigInput x (d.take n) ++ d.drop n } : Act Ans).run u := by
  obtain ⟨hruns, hlatch⟩ := hready
  subst halg hsl hn
  refine run_passes (checkForm_ok hform s) ?_
  refine run_passes (run_check_ok hfields _ s) ?_
  refine run_passes (run_check_ok hlens _ s) ?_
  refine run_passes_if hmodulus (fun _ => rfl) ?_
  refine run_passes (checkErased_ok hlatch) ?_
  refine run_passes hkey ?_
  refine run_passes (readData_ok hdata) ?_
  exact run_passes (laneless_passes hruns 0) rfl

/-- PK_AGREE past its checks. -/
theorem pkAgreeCmd_run {c : Nat} {h : Header} {at' : Attr} {t pt ctx z v : Bytes} (hready : Ready s e env 0x0803 x) (hc : c = x.byte 0x40)
    (ht : t = x.bytes 0x50 16)
    (hform : Formed x 1 [(offA, anyType), (offB, [0])] ([(0x40, 1), (0x41, 1), (0x42, 1), (0x50, 16)] ++ targetField x 0x44) [a, .none])
    (hfields : (isEcdsa c && (x.byte 0x41 = 0x21 || x.byte 0x41 = 0x22) && templateForm t && targetOk (runOf e env x) 0x44) = true)
    (hlen : x.dataLen = 2 * curveLen c + 1 + x.byte 0x42) (hheader : symTemplate t (agreeLen (byteAt t 7)) = some h)
    (hkey : Finds (runOf e env x) a (agreeKey c) s k u) (hat : at' = newAttr h (agreeLen (byteAt t 7)) x.pitch.toNat)
    (hslot : x.flag 8 = true → u.blockOwner (x.num 0x44 4 / 64) = some x.pitch.toNat ∧ slotsFree u (x.num 0x44 4) at' = true)
    (hcap : 8 ≤ x.resultCap) (hdata : Input u x env d) (hpt : d.take (2 * curveLen c + 1) = pt) (hctx : d.drop (2 * curveLen c + 1) = ctx)
    (hz : z = (curve c).dh (beNat k.val) pt) (hv : v = agreeKdf (x.byte 0x41) z ctx at'.len) :
    (pkAgreeCmd (runOf e env x)).run s = (match pointCheck c pt with
      | some st => refuse st
      | none => pure
          { inline := inlineOf (kcvDefault at' {} v), engine := 1, long := decide (c = 6), operand := k.val ++ pt ++ z,
            gen := some { slot := targetSlot (runOf e env x) 0x44, key := v, attrs := at'.pack, mac := v } } : Act Ans).run u := by
  obtain ⟨hruns, hlatch⟩ := hready
  subst hc ht hat hpt hctx hz hv
  have hheader' : symTemplate ((runOf e env x).x.bytes 0x50 16) (agreeLen (byteAt ((runOf e env x).x.bytes 0x50 16) 7)) = some h := hheader
  have hneed : (fun k => agreeKey (x.byte 0x40) k && (some h).isSome) = agreeKey (x.byte 0x40) := by simp
  refine run_passes (checkForm_ok hform s) ?_
  refine run_passes (run_check_ok hfields _ s) ?_
  refine run_passes (run_check_ok (decide_eq_true hlen) _ s) ?_
  refine run_passes (checkErased_ok hlatch) ?_
  dsimp only
  rw [hheader']
  refine run_passes (hneed ▸ hkey) ?_
  refine run_passes (checkSlot_ok hslot) ?_
  refine run_passes (checkCap_ok hcap u) ?_
  refine run_passes (readData_ok hdata) ?_
  exact run_passes (laneless_passes hruns 0) rfl

/-- RSA_DECRYPT past its checks. -/
theorem rsaDecryptCmd_run {t c lab : Bytes} (hready : Ready s e env 0x0804 x) (ht : t = x.bytes 0x50 16)
    (hform : Formed x 0 [(offA, anyType), (offB, [0])] [(0x40, 1), (0x41, 1), (0x42, 1), (0x44, 1), (0x50, 16)] [a, .none])
    (halg : x.byte 0x40 = 0x22) (hmin : 1 ≤ x.byte 0x41) (hmax : x.byte 0x41 ≤ 6) (hout : x.byte 0x42 = 1)
    (htemplate : templateForm t = true)
    (hlab : x.byte 0x44 ≤ x.dataLen)
    (hmodulus : (checkModulus (runOf e env x) a (x.dataLen - x.byte 0x44)).run s = (.ok (), s))
    (hkey : Finds (runOf e env x) a (fun k => k.attr.use = .k2 && k.attr.mode = .d) s k u) (hn : n = modulusLen k.attr)
    (hcap : 8 ≤ x.resultCap) (hdata : Input u x env d) (hhead : d.take n = c) (htail : d.drop n = lab)
    (hrange : (beNat c ≠ 0 && decide (beNat c < privateModulus k.val n)) = true) :
    (rsaDecryptCmd (runOf e env x)).run s = (match oaepDecrypt (x.byte 0x41) (8 * n) lab k.val c with
      | none => refuse stKeyBlockAuth
      | some v => match symTemplate t v.length with
        | none => refuse stKeyUsage
        | some h => pure
            { inline := inlineOf (kcvDefault (newAttr h v.length x.pitch.toNat) {} v), engine := 1, long := decide (384 ≤ n),
              operand := k.val ++ d ++ v, gen := some { key := v, attrs := (newAttr h v.length x.pitch.toNat).pack, mac := v } }
      : Act Ans).run u := by
  obtain ⟨hruns, hlatch⟩ := hready
  subst ht hn hhead htail
  have hform' : Formed x 0 [(offA, anyType), (offB, [0])]
      ([(0x40, 1), (0x41, 1), (0x42, 1), (0x44, 1)] ++ if x.byte 0x42 = 1 then [(0x50, 16)] else []) [a, .none] := by rwa [if_pos hout]
  have hneed : (fun k : Key => k.attr.use = .k2 && k.attr.mode = .d && x.byte 0x42 = 1)
      = fun k => k.attr.use = .k2 && k.attr.mode = .d := by simp [hout]
  refine run_passes (checkForm_ok hform' s) ?_
  refine run_passes (run_check_ok (by simp [halg, hmin, hmax, hout, htemplate]) _ s) ?_
  refine run_passes (run_check_ok (decide_eq_true hlab) _ s) ?_
  refine run_passes hmodulus ?_
  refine run_passes (checkErased_ok hlatch) ?_
  refine run_passes (hneed ▸ hkey) ?_
  refine run_passes (checkCap_ok hcap u) ?_
  refine run_passes (readData_ok hdata) ?_
  refine run_passes (laneless_passes hruns 0) ?_
  exact run_passes (run_check_ok hrange _ u) rfl

/-- PK_GENERATE past its checks and its search. -/
theorem pkGenerateCmd_run {bits ex len pl : Nat} {h : Header} {t : Bytes} {made : Option Bytes} {g : Drbg}
    (hready : Ready s e env 0x0805 x) (hcaptured : x.captured = none)
    (hu : u = kept e.toNat [none] s) (halg : alg = x.byte 0x40) (hbits : bits = x.num 0x42 2)
    (hex : ex = if x.num 0x44 4 = 0 then 65537 else x.num 0x44 4) (ht : t = x.bytes 0x50 16)
    (hform : Formed x 1 [(offA, [0]), (offB, 0 :: anyType)]
      ([(0x40, 1), (0x50, 16)] ++ (if isRsa alg then [(0x42, 2), (0x44, 4)] else []) ++ targetField x 0x48) [.none, .none])
    (hfields : ((isEcdsa alg || isEddsa alg || (isRsa alg && decide (2048 ≤ bits) && decide (bits ≤ 8192) && bits % 1024 = 0
      && ex % 2 = 1 && decide (65537 ≤ ex))) && templateForm t && targetOk (runOf e env x) 0x48) = true)
    (hdata : x.dataLen = 0) (hheader : genTemplate t alg bits = some h) (hlen : len = genLen alg bits) (hpl : pl = genPublicLen alg bits)
    (hslot : x.flag 8 = true → u.blockOwner (x.num 0x48 4 / 64) = some x.pitch.toNat
      ∧ slotsFree u (x.num 0x48 4) (newAttr h len x.pitch.toNat) = true)
    (hcap : 8 + pl ≤ x.resultCap) (hpair : TwoServe false u) (hserves : (u.drbg 7).state ≠ 2)
    (hmade : pkGenerate alg bits ex (u.drbg 7) = (made, g)) :
    (pkGenerateCmd (runOf e env x)).run s = (match made with
      | none => do
        modify (tally 0x0504 (toLE 2 x.pitch.toNat ++ x.bytes 4 4 ++ toLE 2 bits))
        refuse stHwFault
      | some k => pure
          { result := pkPublic alg k, operand := k, engine := 1, check := true, long := longGenerate alg,
            gen := some { slot := targetSlot (runOf e env x) 0x48, key := k, attrs := (newAttr h len x.pitch.toNat).pack, binding := .none,
                          mac := k } }
      : Act Ans).run (drbgLimit 7 (u.updDrbg 7 fun _ => g)) := by
  obtain ⟨hruns, hlatch⟩ := hready
  subst halg hbits hex ht hlen hpl
  have hheader' : genTemplate ((runOf e env x).x.bytes 0x50 16) ((runOf e env x).x.byte 0x40) ((runOf e env x).x.num 0x42 2)
      = some h := hheader
  refine run_passes (checkForm_ok hform s) ?_
  refine run_passes (run_check_ok hfields _ s) ?_
  refine run_passes (noData_ok hdata s) ?_
  refine run_passes (checkErased_ok hlatch) ?_
  refine run_passes (run_to (capture_absent hcaptured (by simp [hheader])) hu) ?_
  dsimp only
  rw [hheader']
  refine run_passes (checkSlot_ok hslot) ?_
  refine run_passes (checkCap_ok hcap u) ?_
  refine run_passes (checkPair_ok hpair) ?_
  refine run_passes (laneless_passes hruns 0) ?_
  refine run_passes (generateKey_ok hserves hmade) ?_
  cases made with
  | none => rfl
  | some k =>
    refine run_passes (a := ([], Binding.none)) rfl ?_
    rw [List.append_nil]
    rfl

end

end Sys2Proof.Machine
end

section
/-! Public-key commands (R125, R265 to R278): signatures, agreement, RSA decryption and key generation. -/

namespace Sys2Proof.Proofs

open Sys2Proof.Machine Sys2Proof.Safety

/-- Settles O59: each command runs through its checks to the operation of its engine, whose outcome is its answer. -/
theorem publicKeyCommands : Obligations.PublicKeyCommands := by
  unfold Obligations.PublicKeyCommands
  refine ⟨?sign, ?verify, ?agree, ?decrypt, ?generate⟩
  case sign =>
    rintro s u w y e env x a k alg n d m rand inl hready halg hform hfields hlen hkey hn hcap hpair hcount hdata rfl hdraw
    have hrun := pkSignCmd_run hready halg hform hfields hlen hkey hn hcap hpair hcount hdata
    split
    · next hsign => exact concludes_of_run rfl hready.1 (hrun.trans (run_spent_fails inl (run_bind_stops (makeSign_fails hdraw hsign))))
    · next sig hsign => exact ends_of_run rfl hready.1 (hrun.trans (run_spent_ok inl (run_passes (makeSign_ok hdraw hsign) rfl)))
  case verify =>
    rintro s u e env x a k alg sl m sig ok hready halg hsl hform hfields hlen hlong hmodulus hkey hsig hdata rfl
    have htotal : m.length + sl = x.dataLen := by rw [← hdata.1, List.length_append, hsig]
    have hn : x.dataLen - sl = m.length := by omega
    have hlens : (decide (sl ≤ x.dataLen) && sigDataOk x (x.dataLen - sl) && (isRsaSig alg || sl = sigLen alg 0)) = true := by
      have hle : sl ≤ x.dataLen := by omega
      simp [hn, hlen, hlong, hle]
    have hrun := pkVerifyCmd_run hready halg hsl hform hfields hlens hmodulus hkey hdata hn
    rw [List.take_left, List.drop_left] at hrun
    split
    · next st hrange =>
      rw [hrange] at hrun
      exact refuses_of_run rfl hready.1 hrun
    · next hrange =>
      rw [hrange] at hrun
      exact ends_of_run rfl hready.1 hrun
  case agree =>
    rintro s u e env x a k c h pt ctx z v at' hready hc hform hcurve hkdf htemplate htarget hpt hctx hheader hkey hdata rfl hslot hcap rfl
      rfl
    have hfields : (isEcdsa c && (x.byte 0x41 = 0x21 || x.byte 0x41 = 0x22) && templateForm (x.bytes 0x50 16)
        && targetOk (runOf e env x) 0x44) = true := by simp [hcurve, hkdf, htemplate, htarget]
    have hrun := pkAgreeCmd_run hready hc rfl hform hfields (by rw [← hdata.1, List.length_append, hpt, hctx]) hheader hkey rfl hslot hcap
      hdata (List.take_left' hpt) (List.drop_left' hpt) rfl rfl
    split
    · next st hpoint =>
      rw [hpoint] at hrun
      exact refuses_of_run rfl hready.1 hrun
    · next hpoint =>
      rw [hpoint] at hrun
      exact ends_of_run rfl hready.1 hrun
  case decrypt =>
    rintro s u e env x a k n c lab hready hform halg hmin hmax hout htemplate hmodulus hkey hn hc hlab hdata hcap hzero hrange
    have htotal : x.dataLen = n + x.byte 0x44 := by rw [← hdata.1, List.length_append, hc, hlab]
    have hmodulus' : (checkModulus (runOf e env x) a (x.dataLen - x.byte 0x44)).run s = (.ok (), s) := by
      rwa [htotal, Nat.add_sub_cancel]
    have hrun := rsaDecryptCmd_run hready rfl hform halg hmin hmax hout htemplate (by omega) hmodulus' hkey hn hcap hdata
      (List.take_left' hc) (List.drop_left' hc) (by simp [hzero, hrange])
    split
    · next hopens =>
      rw [hopens] at hrun
      exact refuses_of_run rfl hready.1 hrun
    · next v hopens =>
      rw [hopens] at hrun
      dsimp only at hrun
      split
      · next hheader =>
        rw [hheader] at hrun
        exact refuses_of_run rfl hready.1 hrun
      · next h hheader =>
        rw [hheader] at hrun
        exact ends_of_run rfl hready.1 hrun
  case generate =>
    rintro s u e env x alg bits ex len pl h d hready hcaptured hu halg hbits hex hform hkind htemplate htarget hdata hheader hlen hpl
      hslot hcap
      hpair hserves rfl
    have hfields : ((isEcdsa alg || isEddsa alg || (isRsa alg && decide (2048 ≤ bits) && decide (bits ≤ 8192) && bits % 1024 = 0
        && ex % 2 = 1 && decide (65537 ≤ ex))) && templateForm (x.bytes 0x50 16) && targetOk (runOf e env x) 0x48) = true := by
      rw [htemplate, htarget]
      obtain hec | hed | ⟨hrsa, hmin, hmax, hstep, hodd, hlow⟩ := hkind
      · simp [hec]
      · simp [hed]
      · simp [hrsa, hmin, hmax, hstep, hodd, hlow]
    have hrun := fun made => pkGenerateCmd_run (made := made) (g := (pkGenerate alg bits ex (u.drbg 7)).2) hready hcaptured hu halg hbits
      hex
      rfl hform hfields hdata hheader hlen hpl hslot hcap hpair hserves
    split
    · next hnone => exact refuses_of_run rfl hready.1 (hrun none (Prod.ext hnone rfl))
    · next k hsome => exact ends_of_run rfl hready.1 (hrun (some k) (Prod.ext hsome rfl))

end Sys2Proof.Proofs
end

section
/-! The runs of the lattice commands (R126, R245, R266, R279, R282 to R285) and of the remote key commands (R174 to R177). -/

namespace Sys2Proof.Machine

open Sys2Proof.Safety

/-- A group of stages under a condition, before the stages that follow it in either case. -/
theorem run_after_if {β : Type} {c : Prop} [Decidable c] {m rest : Act β} {s t : State} {out : Except Stop β × State}
    (h : c → m.run s = rest.run t) (hskip : ¬c → t = s) (hrest : rest.run t = out) : (if c then m else rest : Act β).run s = out := by
  split
  · next hc => exact (h hc).trans hrest
  · next hc => rwa [hskip hc] at hrest

section
variable {s u w y : State} {e : BitVec 17} {env : CmdEnv} {x : Entry} {a : Ref} {k : Key} {n : Nat} {d : Bytes} {inl : BitVec 64}
  {h : Header}

/-! ## ML-KEM (R282, R283) -/

/-- KEM_ENCAPS past its checks. -/
theorem kemEncapsCmd_run (hready : Ready s e env 0x0901 x) (hform : Formed x 1 [(offA, anyType), (offB, [0])] (kemFields x) [a, .none])
    (hfields : kemFieldsOk (runOf e env x) = true) (hdata : x.dataLen = 0) (hheader : kemTemplate (x.bytes 0x50 16) = some h)
    (hkey : Finds (runOf e env x) a (fun k => k.attr.use = .u92 && k.attr.mode = .e && k.attr.len = kemKeyLen (x.byte 0x40)) s k u)
    (hslot : x.flag 8 = true → u.blockOwner (x.num 0x44 4 / 64) = some x.pitch.toNat
      ∧ slotsFree u (x.num 0x44 4) (newAttr h 32 x.pitch.toNat) = true) (hcap : kemCtLen (x.byte 0x40) ≤ x.resultCap) :
    (kemEncapsCmd (runOf e env x)).run s = (do
      check (kemModulusOk k.val) stInputRange
      let m ← drawFrom 8 32
      let (c, z) := kemEncaps (x.byte 0x40) k.val m
      pure { result := c, engine := 2, operand := k.val ++ m ++ z ++ c, gen := some (kemNew (runOf e env x) h z) } : Act Ans).run u := by
  obtain ⟨hruns, hlatch⟩ := hready
  have hheader' : kemTemplate ((runOf e env x).x.bytes 0x50 16) = some h := hheader
  have hneed : (fun k : Key => k.attr.use = .u92 && k.attr.mode = .e && k.attr.len = kemKeyLen (x.byte 0x40) && (some h).isSome)
      = fun k => k.attr.use = .u92 && k.attr.mode = .e && k.attr.len = kemKeyLen (x.byte 0x40) := by simp
  refine run_passes (checkForm_ok hform s) ?_
  refine run_passes (run_check_ok hfields _ s) ?_
  refine run_passes (noData_ok hdata s) ?_
  refine run_passes (checkErased_ok hlatch) ?_
  dsimp only
  rw [hheader']
  refine run_passes (hneed ▸ hkey) ?_
  refine run_passes (checkSlot_ok hslot) ?_
  refine run_passes (checkCap_ok hcap u) ?_
  exact run_passes (laneless_passes hruns 0) rfl

/-- KEM_DECAPS. -/
theorem kemDecapsCmd_run (hready : Ready s e env 0x0902 x) (hform : Formed x 1 [(offA, heldType), (offB, [0])] (kemFields x) [a, .none])
    (hfields : kemFieldsOk (runOf e env x) = true) (hlen : x.dataLen = kemCtLen (x.byte 0x40))
    (hheader : kemTemplate (x.bytes 0x50 16) = some h)
    (hkey : Finds (runOf e env x) a (fun k => k.attr.use = .u92 && k.attr.mode = .d) s k u) (hdata : Input u x env d)
    (hslot : x.flag 8 = true → u.blockOwner (x.num 0x44 4 / 64) = some x.pitch.toNat
      ∧ slotsFree u (x.num 0x44 4) (newAttr h 32 x.pitch.toNat) = true) :
    (kemDecapsCmd (runOf e env x)).run s = (.ok
      { engine := 2, operand := k.val ++ d ++ kemDecaps (x.byte 0x40) k.val d,
        gen := some (kemNew (runOf e env x) h (kemDecaps (x.byte 0x40) k.val d)) }, u) := by
  obtain ⟨hruns, hlatch⟩ := hready
  have hheader' : kemTemplate ((runOf e env x).x.bytes 0x50 16) = some h := hheader
  have hneed : (fun k : Key => k.attr.use = .u92 && k.attr.mode = .d && (some h).isSome)
      = fun k => k.attr.use = .u92 && k.attr.mode = .d := by simp
  refine run_passes (checkForm_ok hform s) ?_
  refine run_passes (run_check_ok hfields _ s) ?_
  refine run_passes (run_check_ok (decide_eq_true hlen) _ s) ?_
  refine run_passes (checkErased_ok hlatch) ?_
  dsimp only
  rw [hheader']
  refine run_passes (hneed ▸ hkey) ?_
  refine run_passes (checkSlot_ok hslot) ?_
  refine run_passes (readData_ok hdata) ?_
  exact run_passes (laneless_passes hruns 0) rfl

/-! ## ML-DSA (R266, R284, R285) -/

/-- The random input of an ML-DSA signature: hedged from DRBG 8, or zeros (R284). -/
def DsaDraw (mode : Nat) (w : State) (rnd : Bytes) (y : State) : Prop :=
  mode = 0 ∧ (w.drbg 8).state ≠ 2 ∧ rnd = w.drbgOut 8 32 ∧ y = drbgRequest 8 32 w ∨ mode = 1 ∧ rnd = zeros 32 ∧ y = w

/-- PQ_SIGN. -/
theorem pqSignCmd_run {ctx m rnd : Bytes} {made : Option Bytes} {i : Nat} (hready : Ready s e env 0x0903 x)
    (hform : Formed x 0 [(offA, anyType), (offB, [0])] dsaFields [a, .none]) (hfields : dsaFieldsOk x = true)
    (hlen : dsaDataOk x x.dataLen = true) (hkey : Finds (runOf e env x) a (fun k => k.attr.use = .u93 && k.attr.mode = .s) s k u)
    (hcap : dsaSigLen (x.byte 0x40) ≤ x.resultCap) (hpair : TwoServe true u) (hcount : SignCount (runOf e env x) k u inl w)
    (hdata : Input w x env d) (hdraw : DsaDraw (x.byte 0x42) w rnd y) (hctx : ctx = d.take (x.byte 0x44)) (hm : m = d.drop (x.byte 0x44))
    (hmade : dsaRun (x.byte 0x40) (x.byte 0x41) ctx k.val m rnd = (made, i)) : (pqSignCmd (runOf e env x)).run s = (.ok
      { status := if made.isSome then 0 else stHwFault, result := made.getD [], inline := inl, engine := 2, check := true,
        long := decide (1600000 < dsaCycles (x.byte 0x40) i), operand := k.val ++ m ++ made.getD [],
        method := some ⟨0x30 + x.byte 0x40, x.byte 0x41, ctx, k.val, m, made.getD []⟩ }, y) := by
  obtain ⟨hruns, hlatch⟩ := hready
  subst hctx hm
  have hmade' : dsaRun ((runOf e env x).x.byte 0x40) ((runOf e env x).x.byte 0x41) (d.take ((runOf e env x).x.byte 0x44)) k.val
      (d.drop ((runOf e env x).x.byte 0x44)) rnd = (made, i) := hmade
  refine run_passes (checkForm_ok hform s) ?_
  refine run_passes (run_check_ok hfields _ s) ?_
  refine run_passes (run_check_ok hlen _ s) ?_
  refine run_passes (checkErased_ok hlatch) ?_
  refine run_passes hkey ?_
  refine run_passes_if (lookup_of_signCount hcount) (fun _ => rfl) ?_
  refine run_passes (checkCap_ok hcap u) ?_
  refine run_passes (checkPair_ok hpair) ?_
  refine run_passes (useCounter_ok hcount) ?_
  refine run_spent_ok inl ?_
  refine run_passes (readData_ok hdata) ?_
  refine run_passes (laneless_passes hruns inl) ?_
  obtain ⟨hmode, hserves, rfl, hy⟩ | ⟨hmode, rfl, hy⟩ := hdraw
  · refine run_if hmode (run_passes (run_to (drawFrom_ok hserves 32) hy) ?_)
    dsimp only
    rw [hmade']
    rfl
  · refine run_unless (show ¬(x.byte 0x42 = 0) by omega) (run_passes (a := zeros 32) rfl ?_)
    dsimp only
    rw [hmade', hy]
    rfl

/-- PQ_VERIFY past its checks. -/
theorem pqVerifyCmd_run {sl : Nat} {ok : Bool} (hready : Ready s e env 0x0904 x) (hsl : sl = x.num 0x48 2)
    (hform : Formed x 0 [(offA, anyType), (offB, [0])] (dsaFields ++ [(0x48, 2)]) [a, .none]) (hfields : dsaFieldsOk x = true)
    (hset : x.byte 0x40 ≠ 3) (hlens : (sl = dsaSigLen (x.byte 0x40) && decide (sl ≤ x.dataLen) && dsaDataOk x (x.dataLen - sl)) = true)
    (hkey : Finds (runOf e env x) a (fun k => k.attr.use = .u93 && k.attr.mode = .v && k.attr.len = dsaKeyLen (x.byte 0x40)) s k u)
    (hdata : Input u x env d) (hn : x.dataLen - sl = n) (hok : ok = pkVerify (0x30 + x.byte 0x40) (x.byte 0x41)
      ((d.take n).take (x.byte 0x44)) k.val ((d.take n).drop (x.byte 0x44)) (d.drop n)) : (pqVerifyCmd (runOf e env x)).run s = (.ok
      { status := if ok then 0 else stSignatureInvalid, inline := if ok then 1 else 0, engine := 2,
        operand := k.val ++ d.take n ++ d.drop n }, u) := by
  obtain ⟨hruns, hlatch⟩ := hready
  subst hsl hn hok
  refine run_passes (checkForm_ok hform s) ?_
  refine run_passes (run_check_ok hfields _ s) ?_
  refine run_passes (run_check_ok hlens _ s) ?_
  refine run_passes (checkErased_ok hlatch) ?_
  refine run_unless hset ?_
  refine run_passes hkey ?_
  refine run_passes (readData_ok hdata) ?_
  exact run_passes (laneless_passes hruns 0) rfl

end

end Sys2Proof.Machine
end

section
/-! Remote key loading (R174 to R177): the message that a sender makes, and the checks of a receiver in their order. -/

namespace Sys2Proof.Machine

open Sys2Proof.Safety

/-! ## REMOTE_KEY_SEND (R176) -/

section
variable {s u v w y z : State} {e : BitVec 17} {env : CmdEnv} {x : Entry} {profile code alg sl kl el n hash : Nat} {k rcpt signer : Key}
  {ec : Option Key} {pt enc sec head blk rand sig extra m : Bytes} {refs : List Ref}

theorem sendMessage_run {op : Nat} (hruns : Runs s e env op x) (hsig : transportSig signer.attr = some (code, alg, sl))
    (hel : el = encLen profile rcpt.attr) (hkl : kl = blockLength { k with val := zeros 32 } k.attr k.tag k.attr.len)
    (hauth : k.attr.expo ≠ 1 ∨ (u.pitch x.pitch.toNat).exportAuth.isSome = true) (hcap : 64 + el + kl + sl ≤ x.resultCap)
    (hpair : (decide (code = 2) || x.signCheck) = true → TwoServe (decide (code = 2)) u)
    (hmodulus : profile = 3 → kemModulusOk rcpt.val = true) (hserves : (u.drbg x.drbg).state ≠ 2) (hv : v = drbgRequest x.drbg 16 u)
    (henc : (encapsulate profile rcpt pt).run v = (.ok (enc, sec), w))
    (hhead : head = transportHead profile code el kl sl (u.drbgOut x.drbg 16) (keyPrint (if profile = 3 then rcpt.val ++ pt else rcpt.val))
      (keyPrint (pkPublic alg signer.val)) ++ enc)
    (hwrite : writeBlock (w.drbgOut x.drbg 64) (transportKbpk sec head) 0 (KeyTag.context k.tag) k.attr k.tag k.val = some (blk, n))
    (hfits : 64 + el + sl + blk.length ≤ x.resultCap) (hserves' : (w.drbg x.drbg).state ≠ 2) (hy : y = drbgRequest x.drbg n w)
    (hinput : transportInput code (head ++ blk) = (hash, extra, m)) (hdraw : SignDraw (if code = 2 then 8 else 7) alg extra y rand z)
    (hsign : pkSign alg hash extra signer.val m rand = some sig) : (sendMessage (runOf e env x) profile k rcpt signer pt).run u = (.ok
      { result := head ++ blk ++ sig, operand := signer.val ++ m ++ sig, method := some ⟨alg, hash, extra, signer.val, m, sig⟩,
        inline := inlineOf (kcvDefault k.attr k.tag k.val), engine := if code = 2 then 2 else 1, check := decide (code = 2) || x.signCheck,
        long := decide (code = 3) && longSign 0x21 sl }, countExport x.pitch.toNat k.attr z) := by
  subst hel hkl
  unfold sendMessage
  rw [hsig]
  refine run_passes (checkAuth_ok hauth) ?_
  refine run_passes (checkCap_ok hcap u) ?_
  refine run_passes_if (fun h => checkPair_ok (hpair h)) (fun _ => rfl) ?_
  refine run_passes (laneless_passes hruns 0) ?_
  refine run_passes_if (fun h => run_check_ok (hmodulus h) _ u) (fun _ => rfl) ?_
  refine run_passes (run_to (drawFrom_ok hserves 16) hv) ?_
  refine run_passes henc ?_
  dsimp only
  rw [← hhead]
  generalize transportKbpk sec head = kbpk at hwrite
  refine run_passes (run_to (writeOut_ok hwrite hfits hserves') hy) ?_
  rw [hinput]
  exact run_passes (makeSign_ok hdraw hsign) (run_passes (run_modify _ z) rfl)

/-- REMOTE_KEY_SEND past the capture of its keys. -/
theorem remoteSendCmd_run (hready : Ready s e env 0x0A02 x) (hprofile : profile = x.byte 0x40)
    (hform : Formed x 0 ([(offA, anyType), (offB, anyType), (offC, anyType)] ++ if profile = 3 then [(offD, anyType)] else [])
      ([(0x40, 1), (0x48, 8)] ++ if profile = 3 then [(0x50, 8)] else []) refs) (hok : profileOk profile = true) (hdata : x.dataLen = 0)
    (hkeys : (capture (runOf e env x) (sendWants (runOf e env x) profile refs) (fun _ => true)).run s
      = (.ok ([some k, some rcpt, some signer] ++ (ec.map some).toList), u)) (hec : ec.isSome = decide (profile = 3))
    (hpt : pt = if profile = 1 then [] else if profile = 2 then rcpt.val else (ec.map (·.val)).getD []) :
    (remoteSendCmd (runOf e env x)).run s = (sendMessage (runOf e env x) profile k rcpt signer pt).run u := by
  obtain ⟨hruns, hlatch⟩ := hready
  subst hprofile
  refine run_passes (checkForm_ok hform s) ?_
  refine run_passes (run_check_ok hok _ s) ?_
  refine run_passes (noData_ok hdata s) ?_
  refine run_passes (checkErased_ok hlatch) ?_
  refine run_passes hkeys ?_
  cases ec with
  | none =>
    have hthree : x.byte 0x40 ≠ 3 := by simpa using hec
    have hpt' : pt = if x.byte 0x40 = 2 then rcpt.val else [] := by
      simp only [profileOk, Bool.or_eq_true, decide_eq_true_eq] at hok
      rw [hpt]
      obtain (h1 | h2) | h3 := hok
      · simp [h1]
      · simp [h2]
      · exact absurd h3 hthree
    rw [hpt']
    rfl
  | some q =>
    have hthree : x.byte 0x40 = 3 := by simpa using hec
    have hpt' : pt = q.val := by simp [hpt, hthree]
    rw [hpt']
    rfl

end

/-! ## REMOTE_KEY_RECEIVE (R177) -/

/-- What a receiver does with its message once its header is checked (R177). -/
def receiveChecks (r : Run) (profile : Nat) (k sender : Key) (ec : Option Key) (m : Bytes) (el kl : Nat) : Act Ans := do
  check (slice m 0x20 16 = keyPrint (recipientEncoding profile k ec)) stBadField
  check (transportVerified m sender el kl) stSignatureInvalid
  match receiverZ profile k ec (slice m 64 el) with
  | .inl st => refuse st
  | .inr z =>
    let got ← receivedKey r (transportKbpk z (m.take (64 + el))) (slice m (64 + el) kl)
    pure { inline := inlineOf (kcvDefault got.attr got.tag got.val), engine := if profile = 3 then 2 else 1,
           long := decide (profile = 1) && decide (384 ≤ el),
           gen := some { slot := targetSlot r 0x44, key := got.val, attrs := got.attr.pack, tag := got.tag,
                         mac := writtenMac (slice m (64 + el) kl) }, operand := k.val ++ slice m 64 el ++ z }

/-- The header of a message that a receiver takes (R174, R177). -/
structure HeaderOk (profile : Nat) (k : Key) (m : Bytes) (el kl : Nat) : Prop where
  encLength : el = fieldLE m 4 2
  keyLength : kl = fieldLE m 6 2
  length : m.length = 64 + el + kl + fieldLE m 8 2
  recipient : el = encLen profile k.attr
  version : byteAt m 0 = 1
  profile : (byteAt m 1).toNat = profile
  flags : byteAt m 3 = 0
  reserved : allZero (slice m 0x0A 6) = true

section
variable {s u : State} {e : BitVec 17} {env : CmdEnv} {x : Entry} {profile el kl : Nat} {k sender : Key} {ec : Option Key} {m : Bytes}
  {refs : List Ref}

theorem receiveMessage_run {op : Nat} (hruns : Runs s e env op x) (hdata : Input u x env m)
    (hslot : x.flag 8 = true → u.blockOwner (x.num 0x44 4 / 64) = some x.pitch.toNat ∧ slotEmpty u (x.num 0x44 4) = true)
    (hcap : 8 ≤ x.resultCap) (hheader : HeaderOk profile k m el kl) :
    (receiveMessage (runOf e env x) profile k sender ec).run u = (receiveChecks (runOf e env x) profile k sender ec m el kl).run u := by
  obtain ⟨rfl, rfl, hlength, hrecipient, hversion, hprofile, hflags, hreserved⟩ := hheader
  have hlens : (x.dataLen = 64 + fieldLE m 4 2 + fieldLE m 6 2 + fieldLE m 8 2 && fieldLE m 4 2 = encLen profile k.attr) = true := by
    rw [← hdata.1, ← hlength, ← hrecipient]
    simp
  have hform : (byteAt m 0 = 1 && (byteAt m 1).toNat = profile && byteAt m 3 = 0 && allZero (slice m 0x0A 6)) = true := by
    simp [hversion, hprofile, hflags, hreserved]
  refine run_after_if (t := u) (fun hto => ?slot) (fun _ => rfl) ?_
  case slot =>
    obtain ⟨howner, hempty⟩ := hslot hto
    refine run_passes (run_get u) ?_
    refine run_passes (run_check_ok (decide_eq_true howner) _ u) ?_
    exact run_passes (run_check_ok hempty _ u) rfl
  refine run_passes (checkCap_ok hcap u) ?_
  refine run_passes (readData_ok hdata) ?_
  refine run_passes (laneless_passes hruns 0) ?_
  refine run_passes (run_check_ok hlens _ u) ?_
  exact run_passes (run_check_ok hform _ u) rfl

/-- REMOTE_KEY_RECEIVE past the capture of its keys. -/
theorem remoteReceiveCmd_run (hready : Ready s e env 0x0A01 x) (hprofile : profile = x.byte 0x40)
    (hform : Formed x 1 ([(offA, anyType), (offB, anyType)] ++ if profile = 3 then [(offC, anyType)] else [])
      ([(0x40, 1)] ++ (if profile = 3 then [(0x48, 8)] else []) ++ targetField x 0x44) refs)
    (hfields : (profileOk profile && targetOk (runOf e env x) 0x44) = true)
    (hlen : (decide (64 ≤ x.dataLen) && decide (x.dataLen ≤ 8192)) = true)
    (hkeys : (capture (runOf e env x) (receiveWants (runOf e env x) profile refs) (fun _ => true)).run s
      = (.ok ([some k, some sender] ++ (ec.map some).toList), u)) :
    (remoteReceiveCmd (runOf e env x)).run s = (receiveMessage (runOf e env x) profile k sender ec).run u := by
  obtain ⟨hruns, hlatch⟩ := hready
  subst hprofile
  refine run_passes (checkForm_ok hform s) ?_
  refine run_passes (run_check_ok hfields _ s) ?_
  refine run_passes (run_check_ok hlen _ s) ?_
  refine run_passes (checkErased_ok hlatch) ?_
  refine run_passes hkeys ?_
  cases ec <;> rfl

end

/-! The checks in their order. -/

section
variable {s : State} {r : Run} {profile el kl : Nat} {k sender got : Key} {ec : Option Key} {m z : Bytes} {st : BitVec 16} {o : Stop}

theorem receiveChecks_otherRecipient (h : slice m 0x20 16 ≠ keyPrint (recipientEncoding profile k ec)) :
    (receiveChecks r profile k sender ec m el kl).run s = (.error (.fail stBadField 0 0), s) :=
  run_bind_stops (run_check_fails (decide_eq_false h) _ s)

variable (hprint : slice m 0x20 16 = keyPrint (recipientEncoding profile k ec))
include hprint

theorem receiveChecks_unsigned (h : transportVerified m sender el kl = false) :
    (receiveChecks r profile k sender ec m el kl).run s = (.error (.fail stSignatureInvalid 0 0), s) :=
  run_passes (run_check_ok (decide_eq_true hprint) _ s) (run_bind_stops (run_check_fails h _ s))

variable (hsigned : transportVerified m sender el kl = true)
include hsigned

theorem receiveChecks_noSecret (h : receiverZ profile k ec (slice m 64 el) = .inl st) :
    (receiveChecks r profile k sender ec m el kl).run s = (.error (.fail st 0 0), s) := by
  refine run_passes (run_check_ok (decide_eq_true hprint) _ s) ?_
  refine run_passes (run_check_ok hsigned _ s) ?_
  rw [h]
  rfl

theorem receiveChecks_noKey (hz : receiverZ profile k ec (slice m 64 el) = .inr z)
    (h : (receivedKey r (transportKbpk z (m.take (64 + el))) (slice m (64 + el) kl)).run s = (.error o, s)) :
    (receiveChecks r profile k sender ec m el kl).run s = (.error o, s) := by
  refine run_passes (run_check_ok (decide_eq_true hprint) _ s) ?_
  refine run_passes (run_check_ok hsigned _ s) ?_
  rw [hz]
  exact run_bind_stops h

theorem receiveChecks_key (hz : receiverZ profile k ec (slice m 64 el) = .inr z)
    (h : (receivedKey r (transportKbpk z (m.take (64 + el))) (slice m (64 + el) kl)).run s = (.ok got, s)) :
    (receiveChecks r profile k sender ec m el kl).run s = (.ok
      { inline := inlineOf (kcvDefault got.attr got.tag got.val), engine := if profile = 3 then 2 else 1,
        long := decide (profile = 1) && decide (384 ≤ el),
        gen := some { slot := targetSlot r 0x44, key := got.val, attrs := got.attr.pack, tag := got.tag,
                      mac := writtenMac (slice m (64 + el) kl) }, operand := k.val ++ slice m 64 el ++ z }, s) := by
  refine run_passes (run_check_ok (decide_eq_true hprint) _ s) ?_
  refine run_passes (run_check_ok hsigned _ s) ?_
  rw [hz]
  exact run_passes h rfl

end

/-! The key that a message carries. -/

section
variable {s : State} {r : Run} {kbpk raw v : Bytes} {a : Attr} {tag : KeyTag}

theorem receivedKey_unverified (h : (parseBlock raw).bind (verifyBlock kbpk) = none) (s : State) :
    (receivedKey r kbpk raw).run s = (.error (.fail stKeyBlockAuth 0 0), s) := by
  unfold receivedKey
  rw [h]
  rfl

/-- What check 9 asks of a key that a message carries. -/
def receivedOk (r : Run) (a : Attr) : Bool :=
  rowOk a.use a.alg a.mode && lenOk a.use a.alg a.mode a.len && a.world.testBit r.world && (a.ctrKind = 0 || r.x.flag 8)

theorem receivedKey_verified (h : (parseBlock raw).bind (verifyBlock kbpk) = some (v, a, tag)) (s : State) :
    (receivedKey r kbpk raw).run s = (if receivedOk r a then
        if r.x.flag 8 && !slotsFree s (r.x.num 0x44 4) { a with owner := r.p } then refuse stBadField
        else pure { val := v, attr := { a with owner := r.p }, tag := tag, binding := .none }
      else refuse stKeyUsage : Act Key).run s := by
  have huse : (checkUse r (r.x.flag 8) (fun _ => true) { val := v, attr := { a with owner := r.p }, tag := tag, binding := .none }).run s
      = (check (receivedOk r a) stKeyUsage).run s := by simp [checkUse, receivedOk]
  unfold receivedKey
  rw [h]
  cases hok : receivedOk r a
  · rw [hok] at huse
    exact run_bind_stops huse
  · rw [hok] at huse
    refine run_passes huse ?_
    rw [if_pos rfl]
    cases hfull : r.x.flag 8 && !slotsFree s (r.x.num 0x44 4) { a with owner := r.p }
    · refine run_after_if (t := s) (fun hto => ?slot) (fun _ => rfl) rfl
      case slot =>
        have hfree : slotsFree s (r.x.num 0x44 4) { a with owner := r.p } = true := by simpa [hto] using hfull
        exact run_passes (run_get s) (run_passes (run_check_ok hfree _ s) rfl)
    · obtain ⟨hto, hfull⟩ := Bool.and_eq_true_iff.mp hfull
      have hfree : slotsFree s (r.x.num 0x44 4) { a with owner := r.p } = false := by simpa using hfull
      exact run_if hto (run_passes (run_get s) (run_bind_stops (run_check_fails hfree _ s)))

end

end Sys2Proof.Machine
end

section
/-! KEM, ML-DSA and remote key commands (R126, R174 to R177, R245, R266, R279, R282 to R285). -/

namespace Sys2Proof.Proofs

open Sys2Proof.Machine Sys2Proof.Safety

/-- Settles O60: each command runs through its checks to its engine's outcome, and a received message through its own checks in their
order. -/
theorem latticeAndRemoteCommands : Obligations.LatticeAndRemoteCommands := by
  unfold Obligations.LatticeAndRemoteCommands
  refine ⟨?encaps, ?decaps, ?sign, ?verify, ?send, ?receive⟩
  case encaps =>
    intro s u e env x a k h m c z hready hform hfields hdata hheader hkey hslot hcap
    have hrun := kemEncapsCmd_run hready hform hfields hdata hheader hkey hslot hcap
    refine ⟨fun hmodulus => refuses_of_run rfl hready.1 (hrun.trans (run_bind_stops (run_check_fails hmodulus _ u))),
      fun hmodulus hserves hm hmade => ends_of_run rfl hready.1 (hrun.trans ?_)⟩
    subst hm
    refine run_passes (run_check_ok hmodulus _ u) ?_
    refine run_passes (drawFrom_ok hserves 32) ?_
    rw [hmade]
    rfl
  case decaps =>
    rintro s u e env x a k h d z hready hform hfields hlen hheader hkey hdata hslot rfl
    exact ends_of_run rfl hready.1 (kemDecapsCmd_run hready hform hfields (hdata.1 ▸ hlen) hheader hkey hdata hslot)
  case sign =>
    rintro s u w y e env x a k d ctx m rnd sig inl made i hready hform hfields hlen hkey hcap hpair hcount hdata hdraw hctx hm hmade rfl
    exact ends_of_run rfl hready.1
      (pqSignCmd_run hready hform hfields (hdata.1 ▸ hlen) hkey hcap hpair hcount hdata hdraw hctx hm hmade)
  case verify =>
    rintro s u e env x a k m sig ok hready hform hfields hset hsl hsig hlen hkey hdata rfl
    have htotal : m.length + x.num 0x48 2 = x.dataLen := by rw [← hdata.1, List.length_append, hsig]
    have hn : x.dataLen - x.num 0x48 2 = m.length := by omega
    have hlens : (x.num 0x48 2 = dsaSigLen (x.byte 0x40) && decide (x.num 0x48 2 ≤ x.dataLen)
        && dsaDataOk x (x.dataLen - x.num 0x48 2)) = true := by
      have hle : x.num 0x48 2 ≤ x.dataLen := by omega
      rw [hn, hlen, decide_eq_true hsl, decide_eq_true hle]
      rfl
    have hrun := pqVerifyCmd_run hready rfl hform hfields hset hlens hkey hdata hn rfl
    rw [List.take_left, List.drop_left] at hrun
    exact ends_of_run rfl hready.1 hrun
  case send =>
    rintro s u v w y z' e env x profile refs k rcpt signer ec code alg sl kl el n pt enc z head blk rand sig inp hready hprofile hform hok
      hdata
      hkeys hec hpt hsig hel hkl hauth hcap hpair hmodulus hserves hv henc hhead hwrite hfits hserves' hy hinput hdraw hsign
    obtain ⟨hash, extra, m⟩ := inp
    exact ends_of_run rfl hready.1 ((remoteSendCmd_run hready hprofile hform hok hdata hkeys hec hpt).trans
      (sendMessage_run hready.1 hsig hel hkl hauth hcap hpair hmodulus hserves hv henc hhead hwrite hfits hserves' hy hinput.symm
        hdraw hsign))
  case receive =>
    intro s u e env x profile refs k sender ec m el kl hready hprofile hform hok htarget hmin hmax hkeys hec hdata hslot hcap hel hkl
      hlength
      hrecipient hversion hnumber hflags hreserved
    have hlen : (decide (64 ≤ x.dataLen) && decide (x.dataLen ≤ 8192)) = true := by simp [← hdata.1, hmin, hmax]
    have hrun := (remoteReceiveCmd_run hready hprofile hform (by simp [hok, htarget]) hlen hkeys).trans
      (receiveMessage_run (sender := sender)
      (ec := ec) hready.1 hdata hslot hcap ⟨hel, hkl, hlength, hrecipient, hversion, hnumber, hflags, hreserved⟩)
    split
    case isFalse hprint => exact refuses_of_run rfl hready.1 (hrun.trans (receiveChecks_otherRecipient hprint))
    case isTrue hprint =>
    split
    case isFalse hsigned => exact refuses_of_run rfl hready.1 (hrun.trans (receiveChecks_unsigned hprint (by simpa using hsigned)))
    case isTrue hsigned =>
    split
    case h_1 st hz => exact refuses_of_run rfl hready.1 (hrun.trans (receiveChecks_noSecret hprint hsigned hz))
    case h_2 z hz =>
    have hstops := fun (st : BitVec 16) h => refuses_of_run (st := st) (c := .remoteKeyReceive e env) rfl hready.1
      (hrun.trans (receiveChecks_noKey hprint hsigned hz h))
    split
    case h_1 hopens => exact hstops _ (receivedKey_unverified hopens u)
    case h_2 v a tag hopens =>
    have hkey := receivedKey_verified (r := runOf e env x) hopens u
    split
    case isFalse huse => exact hstops _ (hkey.trans (run_unless huse rfl))
    case isTrue huse =>
    split
    case isTrue hfull => exact hstops _ (hkey.trans (run_if huse (run_if hfull rfl)))
    case isFalse hfree =>
    exact ends_of_run rfl hready.1 (hrun.trans (receiveChecks_key hprint hsigned hz (hkey.trans (run_if huse (run_unless hfree rfl)))))

end Sys2Proof.Proofs
end

section
/-! The end of a command on a core (R130, R320 to R322): what it counts, which cores it leaves as they are, and the record of a mis-step. -/

namespace Sys2Proof.Machine

open Sys2Proof.Safety

/-! ## Counts of a pitch (R93, R132) -/

/-- No pitch has counted another command as DONE or refused. -/
def CountsKept (s t : State) : Prop := ∀ q, (t.pitch q).done = (s.pitch q).done ∧ (t.pitch q).refused = (s.pitch q).refused

section
variable {s t u : State}

theorem CountsKept.of_pit (h : t.pit = s.pit) : CountsKept s t := fun q => by rw [State.pitch, h]; exact ⟨rfl, rfl⟩

theorem CountsKept.refl (s : State) : CountsKept s s := .of_pit rfl

theorem CountsKept.trans (h : CountsKept s t) (h' : CountsKept t u) : CountsKept s u := fun q =>
  ⟨(h' q).1.trans (h q).1, (h' q).2.trans (h q).2⟩

theorem updPitch_countsKept {f : Pitch → Pitch} (hf : ∀ v, (f v).done = v.done ∧ (f v).refused = v.refused) (p : Nat) (s : State) :
    CountsKept s (s.updPitch p f) := fun q => by
  by_cases hq : q = p
  · rw [hq, pitch_updPitch_self]
    exact hf _
  · rw [pitch_updPitch_other s f hq]
    exact ⟨rfl, rfl⟩

theorem replayStatus_countsKept (p c : Nat) (st : BitVec 16) (s : State) : CountsKept s (replayStatus p c st s) := by
  unfold replayStatus
  dsimp only
  split
  · exact .refl s
  · split
    · exact .refl s
    · exact (updPitch_countsKept (by intro _; exact ⟨rfl, rfl⟩) p s).trans (.of_pit (mirror_pit ..))

theorem freeEntry_countsKept (e : Nat) (s : State) : CountsKept s (freeEntry e s) := by
  unfold freeEntry
  split
  · exact .refl s
  · next x hx =>
    have hcount := (updPitch_countsKept (f := fun v => { v with inFlight := v.inFlight - 1 }) (fun _ => ⟨rfl, rfl⟩) x.pitch.toNat
      (s.setEntry e none)).trans (.of_pit (returnCredit_pit x.discard x.pitch.toNat _))
    dsimp only
    split
    · exact hcount.trans (.of_pit (updSq_pit ..))
    · exact hcount.trans (.of_pit (by rw [settleFence_pit, endFence_pit, updSq_pit]))

theorem postNow_countsKept (p : Nat) (h : HeldCqe) (s : State) : CountsKept s (postNow p h s) := by
  have hfree : ∀ (o : Option Nat) (v : State), CountsKept v (freeOpt o v) := fun o v => by
    cases o
    · exact .refl v
    · exact freeEntry_countsKept _ v
  have hpassed : ∀ (b : Bool) (v : State), (if b then refusedWritten p h.cqe.sqIndex v else v).pit = v.pit := fun b v => by
    cases b
    · rfl
    · exact refusedWritten_pit ..
  have hsent : ∀ (c : Prop) [Decidable c] (o : Out), (if c then s else s.emit o).pit = s.pit := fun c _ o => by split <;> rfl
  unfold postNow
  dsimp only
  refine .trans (.of_pit ?_) (hfree _ _)
  rw [coalesce_pit, hpassed, returnCredit_pit, writeCqe_pit, hsent]

theorem post_countsKept (p : Nat) (h : HeldCqe) (s : State) : CountsKept s (post p h s) := by
  unfold post
  split
  · exact postNow_countsKept p h s
  · exact .of_pit (updCq_pit ..)

/-- What a command leaves when it ends counts nothing more. -/
theorem left_countsKept (b : Bool) (e p : Nat) (x : Entry) (f : Entry → Entry) (c : HeldCqe) (s : State) : CountsKept s (serveContexts
    (if b then freeEntry e ((leaveEngine e x s).updEntry e f) else post p c ((leaveEngine e x s).updEntry e f))) := by
  have hleft : CountsKept s ((leaveEngine e x s).updEntry e f) := .of_pit (by rw [updEntry_pit, leaveEngine_pit])
  refine hleft.trans (.trans ?_ (.of_pit (serveContexts_pit _)))
  cases b
  · exact post_countsKept p c _
  · exact freeEntry_countsKept e _

/-- The end of a command is counted once, by its status. -/
theorem finish_counts {e : Nat} {x : Entry} (hx : s.entry e = some x) (d : Done) :
    ((finish e d s).pitch x.pitch.toNat).done = (s.pitch x.pitch.toNat).done + (if d.status = 0 then 1 else 0)
      ∧ ((finish e d s).pitch x.pitch.toNat).refused = (s.pitch x.pitch.toNat).refused + (if d.status = 0 then 0 else 1) := by
  have hreplay : CountsKept s (match d.csn with
      | some c => if d.replayed then s else replayStatus x.pitch.toNat c d.status s
      | none => s) := by
    split
    · split
      · exact .refl s
      · exact replayStatus_countsKept _ _ _ s
    · exact .refl s
  have hmarked := hreplay.trans (.of_pit (raiseMark_pit x.pitch.toNat d.status d.high _)) x.pitch.toNat
  have hleft := fun b c u => left_countsKept b e x.pitch.toNat x (fun y => y.ended d) c u x.pitch.toNat
  simp only [finish, hx]
  rw [(hleft ..).1, (hleft ..).2, pitch_updPitch_self]
  by_cases hst : d.status = 0
  · rw [if_pos hst, if_pos hst, if_pos hst]
    exact ⟨congrArg (· + 1) hmarked.1, hmarked.2.trans (BitVec.add_zero _).symm⟩
  · rw [if_neg hst, if_neg hst, if_neg hst]
    exact ⟨hmarked.1.trans (BitVec.add_zero _).symm, congrArg (· + 1) hmarked.2⟩

end

/-! ## The cores as the end of a command leaves them -/

section
variable {s : State}

theorem grantContexts_cores (n : Nat) (s : State) : (grantContexts n s).cmc.cores = s.cmc.cores := by
  induction n generalizing s with
  | zero => rfl
  | succ n ih =>
    simp only [grantContexts]
    split
    · rfl
    · split
      · split
        · next hnext =>
          obtain ⟨a, b, rfl⟩ := nextFrom_onlyQueues hnext
          rw [ih, grantCtx]
          split <;> rfl
        · rfl
      · rfl

theorem leaveEngine_cores (e : Nat) (x : Entry) (s : State) : (leaveEngine e x s).cmc.cores = s.cmc.cores := by
  have hrelease : ∀ (k : Option Nat) (t : State), (releaseCtx k t).cmc.cores = t.cmc.cores := fun k t => by cases k <;> rfl
  rw [leaveEngine, hrelease, takeFrom_cmc]

theorem finish_cores (e : Nat) (d : Done) (s : State) : (finish e d s).cmc.cores = s.cmc.cores := by
  have hend : ∀ (b : Bool) p c (u : State), (if b then freeEntry e u else post p c u).cmc = u.cmc := fun b _ _ _ => by
    split
    · exact freeEntry_cmc ..
    · exact post_cmc ..
  unfold finish
  split
  · rfl
  · dsimp only
    rw [serveContexts, grantContexts_cores, hend, updEntry_cmc, leaveEngine_cores, updPitch_cmc, raiseMark_cmc]
    split
    · split
      · rfl
      · rw [replayStatus_cmc]
    · rfl

end

end Sys2Proof.Machine
end

section
/-! Host reads and completion of the command on a core (R110, R130, R131, R320 to R322). -/

namespace Sys2Proof.Machine

open Sys2Proof.Safety

/-! ## Mis-steps (R130, R322) -/

/-- A limited record with a token and room is recorded, whatever its actor and event (R463, R465). -/
theorem tallyRec_limited_recorded {code : BitVec 16} (hcode : exemptCode code.toNat = false) {s : State} (hroom : Room code.toNat s)
    (actor : BitVec 6) (event : BitVec 10) (own : Option Nat) (payload : Bytes) :
    Recorded s (tallyRec code actor event own payload s) code payload := by
  obtain ⟨htoken, hplace⟩ := hroom
  simp only [tallyRec, hcode, Bool.false_eq_true, if_false, tallyLimited, if_neg (Nat.not_le.mpr htoken), if_pos hplace]
  exact ⟨_, stamped_mem_enterBuffer _ _, rfl, rfl, rfl⟩

/-- What a command comes to at a mis-step of its core (R110, R322). -/
def faultDone (x : Entry) : Done :=
  if x.committedC then preparedDone x (x.prepared.getD {}) else { status := stHwFault, csn := x.csn }

theorem faultDone_status (x : Entry) : (faultDone x).status = if x.committedC then (x.prepared.getD {}).status else stHwFault := by
  unfold faultDone
  split <;> rfl

section
variable {s t : State} {c e cause : Nat} {x : Entry}

theorem coreFault_eq (hx : s.entry e = some x) (c cause : Nat) : coreFault c e cause s = raise (272 + c)
    (tallyRec 0x0505 0 (BitVec.ofNat 10 (272 + c)) none ([BitVec.ofNat 8 c, BitVec.ofNat 8 cause] ++ toLE 2 x.pitch.toNat)
      (finish e (faultDone x) s)) := by
  have hpitch : s.pitchOf e = x.pitch.toNat := by rw [State.pitchOf, hx]
  simp only [coreFault, hx, hpitch, faultDone]

theorem coreFault_heldWith (hx : s.entry e = some x) (c cause : Nat) : HeldWith e (faultDone x).status (coreFault c e cause s) := by
  rw [coreFault_eq hx]
  exact (finish_heldWith hx _).congr (by rw [raise_sch, tallyRec_sch])

theorem recorded_of_tly {u v : State} {code : BitVec 16} {payload : Bytes} (h : Recorded t u code payload) (ht : t.tly = s.tly)
    (hv : v.tly = u.tly) : Recorded s v code payload := by
  rw [Recorded, hv, ← ht]
  exact h

theorem coreFault_recorded (hx : s.entry e = some x) (hroom : Room 0x0505 s) (c cause : Nat) :
    Recorded s (coreFault c e cause s) 0x0505 ([BitVec.ofNat 8 c, BitVec.ofNat 8 cause] ++ toLE 2 x.pitch.toNat) := by
  have hroom' : Room (0x0505 : BitVec 16).toNat (finish e (faultDone x) s) := by
    rw [Room, finish_tly]
    exact hroom
  rw [coreFault_eq hx]
  exact recorded_of_tly (tallyRec_limited_recorded rfl hroom' ..) (finish_tly ..) (raise_tly ..)

/-! ## The core after its command (R321, R327) -/

/-- The core without its command. -/
def coreFreed (c : Nat) (s : State) : State := unbind c (s.updCore c fun k => { k with completed := true })

theorem core_coreFreed (c : Nat) (s : State) : (coreFreed c s).core c
    = { s.core c with completed := true, entry := none, state := if (s.core c).state = .busy then .idle else (s.core c).state,
                      hrdStatus := 0 } := by
  rw [coreFreed, unbind, core_updCore_self, core_updCore_self]

theorem coreFreed_heldWith {st : BitVec 16} (h : HeldWith e st s) (c : Nat) : HeldWith e st (coreFreed c s) :=
  h.congr (by rw [coreFreed, unbind, updCore_sch, updCore_sch])

theorem coreFreed_tly (c : Nat) (s : State) : (coreFreed c s).tly = s.tly := by rw [coreFreed, unbind, updCore_tly, updCore_tly]

theorem pitch_coreFreed (c : Nat) (s : State) (p : Nat) : (coreFreed c s).pitch p = s.pitch p := by
  rw [State.pitch, coreFreed, unbind, updCore_pit, updCore_pit, State.pitch]

theorem core_coreLoad (c : Nat) (fw : BitVec 16) (s : State) :
    ((coreLoad c fw s).core c).state = .loading ∧ ((coreLoad c fw s).core c).entry = none ∧ ((coreLoad c fw s).core c).fw = fw := by
  rw [coreLoad, core_updCore_self]
  exact ⟨rfl, rfl, rfl⟩

theorem OnlyCores.sch : OnlyCores s t → t.sch = s.sch := by
  rintro ⟨u, rfl⟩
  rfl

theorem OnlyCores.tly : OnlyCores s t → t.tly = s.tly := by
  rintro ⟨u, rfl⟩
  rfl

theorem core_finish (e : Nat) (d : Done) (s : State) (c : Nat) : (finish e d s).core c = s.core c := by
  rw [State.core, finish_cores, State.core]

theorem faultReload_eq (hentry : (s.core c).entry = some e) (cause : Nat) :
    faultReload c cause s = coreLoad c (s.core c).fw (coreFault c e cause s) := by
  rw [faultReload, hentry]

/-- A mis-step ends the command with its fault, recorded with the cause, and the core loads its image again. -/
theorem faultReload_facts (hentry : (s.core c).entry = some e) (hx : s.entry e = some x) (hroom : Room 0x0505 s) (cause : Nat) :
    ((faultReload c cause s).core c).state = .loading ∧ ((faultReload c cause s).core c).entry = none
      ∧ ((faultReload c cause s).core c).fw = (s.core c).fw
      ∧ (∀ y, (faultReload c cause s).entry e = some y → y.phase = .held ∧ y.decided = some (faultDone x).status)
      ∧ Recorded s (faultReload c cause s) 0x0505 ([BitVec.ofNat 8 c, BitVec.ofNat 8 cause] ++ toLE 2 x.pitch.toNat) := by
  rw [faultReload_eq hentry]
  have hload := coreLoad_onlyCores c (s.core c).fw (coreFault c e cause s)
  obtain ⟨hstate, hfree, hfw⟩ := core_coreLoad c (s.core c).fw (coreFault c e cause s)
  exact ⟨hstate, hfree, hfw, ((coreFault_heldWith hx c cause).congr (congrArg Sch.entries hload.sch)).2,
    recorded_of_tly (coreFault_recorded hx hroom c cause) rfl hload.tly⟩

theorem setWidth_status (st : BitVec 16) : (st.setWidth 32).extractLsb' 0 16 = st := by
  ext i hi
  simp [show i < 32 by omega, BitVec.getLsbD_eq_getElem hi]

theorem commandComplete_badStatus {st : BitVec 16} (hentry : (s.core c).entry = some e) (hx : s.entry e = some x)
    (hbad : st.toNat ∉ statusCodes) (ecc : Bool) : commandComplete c (st.setWidth 32) ecc s = coreFreed c (coreFault c e 5 s) := by
  have htop : (st.setWidth 32).getLsbD 31 = false := by simp
  have hbad' : (!statusCodes.contains st.toNat) = true := by simpa using hbad
  simp only [commandComplete, hentry, hx, htop, setWidth_status, hbad', Bool.false_eq_true, if_false, if_true]
  rfl

theorem commandComplete_ends {st : BitVec 16} (hentry : (s.core c).entry = some e) (hx : s.entry e = some x)
    (hgood : st.toNat ∈ statusCodes) (hlen : (s.core c).resLen.toNat ≤ fieldLE x.sqe 0x2C 4) (hreadable : s.kst.readable = true) :
    commandComplete c (st.setWidth 32) false s = coreFreed c (finish e (coreDone (s.core c) x st s.imem) s) := by
  have htop : (st.setWidth 32).getLsbD 31 = false := by simp
  have hgood' : (!statusCodes.contains st.toNat) = false := by simpa using hgood
  have hread : (if (s.core c).resLen = 0 then none else s.readFault false (s.core c).resSrc.toNat) = none := by
    rw [State.readFault, hreadable]
    split <;> rfl
  simp only [commandComplete, hentry, hx, htop, setWidth_status, hgood', if_neg (Nat.not_lt.mpr hlen), hread, Bool.false_eq_true, if_false]
  rfl

/-! ## Host reads of a core (R320) -/

section
variable (hentry : (s.core c).entry = some e) (hx : s.entry e = some x)
include hentry hx

theorem hrdGo_goes (hidle : (s.core c).hrdStatus ≠ 1) (hmin : 1 ≤ (s.core c).hrdLen.toNat) (hmax : (s.core c).hrdLen.toNat ≤ 65536)
    (hrange : (s.core c).hrdOff.toNat + (s.core c).hrdLen.toNat ≤ fieldLE x.sqe 0x28 4)
    (hplace : inCoreMemory c (s.core c).hrdDst.toNat (s.core c).hrdLen.toNat = true) :
    hrdGo c 1 s = (s.updCore c fun k => { k with hrdStatus := 1 }).emit
      (.hostRead x.port (BitVec.ofNat 64 (fieldLE x.sqe 0x20 8 + (s.core c).hrdOff.toNat)) (s.core c).hrdLen.toNat) := by
  have hbound : (s.core c).entry.bind s.entry = some x := by rw [hentry]; exact hx
  have hgo : (1 : Word).getLsbD 0 = true := rfl
  have hfits : ¬((s.core c).hrdLen.toNat = 0 ∨ 65536 < (s.core c).hrdLen.toNat
      ∨ fieldLE x.sqe 0x28 4 < (s.core c).hrdOff.toNat + (s.core c).hrdLen.toNat) := by omega
  simp only [hrdGo, hgo, hbound, if_neg hidle, if_neg hfits, hplace, Bool.not_true, Bool.false_eq_true, if_false]

theorem hrdGo_empty (hidle : (s.core c).hrdStatus ≠ 1) (hlen : (s.core c).hrdLen = 0) :
    hrdGo c 1 s = s.updCore c fun k => { k with hrdStatus := 2 } := by
  have hbound : (s.core c).entry.bind s.entry = some x := by rw [hentry]; exact hx
  have hgo : (1 : Word).getLsbD 0 = true := rfl
  have hzero : (s.core c).hrdLen.toNat = 0 := by rw [hlen]; rfl
  simp only [hrdGo, hgo, hbound, if_neg hidle, hzero, Bool.not_true, Bool.false_eq_true, if_false, true_or, if_true]

theorem hrdDone_data (hout : (s.core c).hrdStatus = 1) (hcut : s.ideCut x.port = false) (b : Bytes) : hrdDone c (.data b) s
    = { s with imem := memWrites s.imem (s.core c).hrdDst.toNat (padTo (s.core c).hrdLen.toNat b) }.updCore c
        fun k => { k with hrdStatus := 5 } := by
  have hbound : (s.core c).entry.bind s.entry = some x := by rw [hentry]; exact hx
  simp only [hrdDone, hbound, hout, ne_eq, not_true_eq_false, if_false, State.hostRead, hcut, Bool.false_eq_true]

theorem hrdDone_failed (hout : (s.core c).hrdStatus = 1) (why : ReadFail) :
    ∃ why', hrdDone c (.failed why) s = (aerReport x.port why' s).updCore c fun k => { k with hrdStatus := 4 } := by
  have hbound : (s.core c).entry.bind s.entry = some x := by rw [hentry]; exact hx
  simp only [hrdDone, hbound, hout, ne_eq, not_true_eq_false, if_false, State.hostRead]
  cases s.ideCut x.port
  · exact ⟨why, rfl⟩
  · exact ⟨.timeout, rfl⟩

end

end

end Sys2Proof.Machine

namespace Sys2Proof.Proofs

open Sys2Proof.Machine Sys2Proof.Safety

/-- Settles O45: a completion and a mis-step are each the end of the command, and then the change of its core. -/
theorem coreCompletion : Obligations.CoreCompletion := by
  unfold Obligations.CoreCompletion
  intro s c e x hc hentry hx hbusy fault hfault
  rw [← faultDone_status] at hfault
  subst hfault
  have hexec : ∀ f : State → State, (if 24 ≤ c.toNat then .fault .noSuchUnit else .next (f s) : Host.Outcome State Fault Refusal)
      = .next (f s) := fun f => if_neg (by omega)
  refine ⟨fun hidle => ⟨?goes, ?empty⟩, ?data, ?failed, ?ends, ?bad, fun hroom => ⟨?exception, ?watchdog⟩⟩
  case goes =>
    intro hmin hmax hrange hplace
    refine ⟨_, (hexec _).trans (congrArg _ (hrdGo_goes hentry hx hidle hmin hmax hrange hplace)), ?_, rfl⟩
    exact congrArg Core.hrdStatus (core_updCore_self s c.toNat _)
  case empty =>
    intro hlen
    exact ⟨_, (hexec _).trans (congrArg _ (hrdGo_empty hentry hx hidle hlen)), congrArg Core.hrdStatus (core_updCore_self s c.toNat _), rfl⟩
  case data =>
    intro hout hcut b
    exact ⟨_, (hexec _).trans (congrArg _ (hrdDone_data hentry hx hout hcut b)), congrArg Core.hrdStatus (core_updCore_self _ c.toNat _),
      rfl, rfl⟩
  case failed =>
    intro hout why
    obtain ⟨why', hdone⟩ := hrdDone_failed hentry hx hout why
    exact ⟨_, (hexec _).trans (congrArg _ hdone), congrArg Core.hrdStatus (core_updCore_self _ c.toNat _), aerReport_imem ..⟩
  case ends =>
    intro st hgood hprepared hlen hreadable
    have hstatus : (coreDone (s.core c.toNat) x st s.imem).status = st := by rw [coreDone, hprepared]
    have hcounts := finish_counts hx (coreDone (s.core c.toNat) x st s.imem)
    have hheld := coreFreed_heldWith (finish_heldWith hx (coreDone (s.core c.toNat) x st s.imem)) c.toNat
    rw [hstatus] at hcounts hheld
    refine ⟨_, (hexec _).trans (congrArg _ (commandComplete_ends hentry hx hgood hlen hreadable)), ?_, ?_, hheld.2, ?_⟩
    · rw [core_coreFreed]
    · rw [core_coreFreed, core_finish, hbusy]
      rfl
    · rwa [pitch_coreFreed]
  case bad =>
    intro st ecc hbad hroom
    refine ⟨_, (hexec _).trans (congrArg _ (commandComplete_badStatus hentry hx hbad ecc)), ?_,
      (coreFreed_heldWith (coreFault_heldWith hx c.toNat 5) c.toNat).2,
      recorded_of_tly (coreFault_recorded hx hroom c.toNat 5) rfl (coreFreed_tly ..)⟩
    rw [core_coreFreed]
  case exception => exact ⟨_, hexec _, faultReload_facts hentry hx hroom 3⟩
  case watchdog => exact ⟨_, hexec _, faultReload_facts hentry hx hroom 4⟩

end Sys2Proof.Proofs
end

section
/-! Messages that a pitch's quorum carries (R149, R165, R387, R392, R394, R396): PMKs loaded and cleared, rosters, exports authorised,
widened attributes. The CSN of a change is the one that its gate takes (log entry 92). -/

namespace Sys2Proof.Machine

open Sys2Proof.Safety

/-! ## What the gate leaves of the keys (R389, R390) -/

section
variable {s t : State}

theorem OnlyMessage.slots (h : OnlyMessage s t) : t.kst.slots = s.kst.slots := by
  obtain ⟨x, rfl⟩ := h
  rfl

theorem OnlyMessage.slot (h : OnlyMessage s t) (n : Nat) : t.slot n = s.slot n := by rw [State.slot, h.slots, State.slot]

theorem OnlyMessage.slotEmpty (h : OnlyMessage s t) (n : Nat) : slotEmpty t n = slotEmpty s n := by
  rw [Machine.slotEmpty, h.slot, Machine.slotEmpty]

theorem OnlyMessage.slotKey (h : OnlyMessage s t) (n : Nat) : t.slotKey n = s.slotKey n := by
  simp only [State.slotKey, h.slot]

theorem OnlyMessage.blockOwner (h : OnlyMessage s t) (n : Nat) : t.blockOwner n = s.blockOwner n := by
  rw [State.blockOwner, h.pit, State.blockOwner]

theorem OnlyMessage.serving (h : OnlyMessage s t) {p : Nat} (hs : Serving s p) : Serving t p := by
  rw [Serving, h.pitch]
  exact hs

theorem OnlyMessage.rosterOk (h : OnlyMessage s t) (r : Roster) : t.rosterOk r = s.rosterOk r := by
  obtain ⟨x, rfl⟩ := h
  rfl

theorem OnlyMessage.pmkFor (h : OnlyMessage s t) (p : Nat) (kp : Option Bytes) : t.pmkFor p kp = s.pmkFor p kp := by
  have hkey : ∀ i, t.pmkKey p i = s.pmkKey p i := fun i => by simp only [State.pmkKey, h.pitch, h.slotKey]
  simp only [State.pmkFor, hkey]

theorem OnlyMessage.pmkOf (h : OnlyMessage s t) (p : Nat) (seed nonce : Bytes) (b : PmkBody) :
    pmkOf p seed nonce b t = pmkOf p seed nonce b s := by
  simp only [Machine.pmkOf, h.pmkFor]

end

theorem zstore_of_room {s : State} (h : s.storeWaits = false) (f : State → State) : zstore f s = f s := by simp [zstore, h]

theorem nonceFor_taken (s : State) (h : ZHdr) : (s.taken h).nonceFor h = s.nonceFor h := by
  obtain ⟨x, hx⟩ := taken_onlyTaking s h
  rw [hx]
  rfl

@[simp] theorem zreply_slot (ty : BitVec 16) (h : ZHdr) (status : BitVec 16) (b : Bytes) (s : State) (n : Nat) :
    (zreply ty h status b s).slot n = s.slot n := rfl

/-! ## One slot written, the PMK table changed (R297, R394) -/

section
variable (n c : Nat) (s : State)

theorem writeSlot_onlySeals (key : Bytes) (attrs : BitVec 128) (tag : KeyTag) :
    OnlySeals (s.setSlot n { key := key, attrs := attrs, gen := (s.slot n).gen + 1, tag := tag }) (writeSlot n key attrs tag c s) :=
  (journal_onlySeals _ _ _).trans (mirror_onlySeals _ _)

theorem clearSlot_onlySeals : OnlySeals (s.setSlot n { gen := (s.slot n).gen + 1 }) (clearSlot n c s) :=
  (journal_onlySeals _ _ _).trans (mirror_onlySeals _ _)

@[simp] theorem clearSlot_csn : (clearSlot n c s).csn = s.csn := by simp [clearSlot]

@[simp] theorem clearSlot_pit : (clearSlot n c s).pit = s.pit := by simp [clearSlot]

/-- A PMK takes one slot and no counter (R149). -/
theorem putKey_pmk (p : Nat) (k : Bytes) :
    putKey n p (pmkAttr p) {} k c s = writeSlot n (padTo 32 (k.take 32)) (pmkAttr p).pack {} c s := by
  simp [putKey, pmkAttr, runSlots]

end

section
variable (p entry : Nat) (v : Option (BitVec 18)) (c : Nat) (s : State)

theorem setPmk_onlySeals : OnlySeals (s.updPitch p fun x => { x with pmk := x.pmk.set entry v }) (setPmk p entry v c s) :=
  (journal_onlySeals _ _ _).trans (mirror_onlySeals _ _)

@[simp] theorem setPmk_csn : (setPmk p entry v c s).csn = s.csn := by simp [setPmk]

theorem pmk_setPmk : ((setPmk p entry v c s).pitch p).pmk = (s.pitch p).pmk.set entry v := by
  rw [(setPmk_onlySeals p entry v c s).pitch, pitch_updPitch_self]

theorem slot_setPmk (m : Nat) : (setPmk p entry v c s).slot m = s.slot m := (setPmk_onlySeals p entry v c s).slot m

end

section
variable {s u w t : State} {n p : Nat} {v : Slot} {f : Pitch → Pitch}

/-- What a message that writes one slot leaves of the slots. -/
theorem OnlyMessage.setSlot_slots (h : OnlyMessage s u) (ht : OnlySeals (u.setSlot n v) t) :
    t.slot n = v ∧ ∀ m, m ≠ n → t.slot m = s.slot m :=
  ⟨(ht.slot n).trans (slot_setSlot_self u n v), fun m hm => (ht.slot m).trans ((slot_setSlot_other hm v).trans (h.slot m))⟩

/-- A message that writes one slot changes nothing else of the key store. -/
theorem OnlyMessage.setSlot_frame (h : OnlyMessage s u) (ht : OnlySeals (u.setSlot n v) t) :
    t = { withMessage s t with kst := { (withMessage s t).kst with slots := t.kst.slots } } := by
  obtain ⟨x, rfl⟩ := h
  obtain ⟨y, rfl⟩ := ht
  rfl

/-- A message that writes one slot and changes one pitch. -/
theorem OnlyMessage.setSlot_updPitch_frame (h : OnlyMessage s u) (hw : OnlySeals (u.setSlot n v) w)
    (ht : OnlySeals (w.updPitch p f) t) :
    t = { withMessage s t with kst := { (withMessage s t).kst with slots := t.kst.slots },
                               pit := { s.pit with pitches := t.pit.pitches } } := by
  obtain ⟨x, rfl⟩ := h
  obtain ⟨y, rfl⟩ := hw
  obtain ⟨z, rfl⟩ := ht
  rfl

end

/-! ## The changes past the gate -/

section
variable {s : State} {target : BitVec 16}

/-- The first check of the messages of a pitch passes for one that serves. -/
theorem serving_passes {p : Nat} (h : Serving s p) :
    (!(decide ((s.pitch p).state = .active) || decide ((s.pitch p).state = .suspended))) = false := by
  rw [Bool.not_eq_false', Bool.or_eq_true, decide_eq_true_eq, decide_eq_true_eq]
  exact h

variable (hserves : Serving s target.toNat)
include hserves

theorem pmkLoad_ok {seed nonce : Bytes} {b : PmkBody} {n : BitVec 18} {k : Bytes} {l : List Bytes} (hentry : b.entry < 4)
    (hfree : (s.pitch target.toNat).pmk.getD b.entry none = none) (hpmk : pmkOf target.toNat seed nonce b s = .ok (k, l))
    (hslot : b.slot = some n) (howner : s.blockOwner (n.toNat / 64) = some target.toNat) (hempty : slotEmpty s n.toNat = true) (c : Nat) :
    pmkLoad target seed nonce b c s
      = .ok (toLE 8 c ++ kcvKbpk k ++ (l.map kcvKbpk).flatten,
          setPmk target.toNat b.entry (some n) c (writeSlot n.toNat (padTo 32 (k.take 32)) (pmkAttr target.toNat).pack {} c s)) := by
  simp only [pmkLoad, serving_passes hserves, if_neg (Nat.not_le.mpr hentry), hfree, hpmk, hslot, howner, hempty, Option.isSome_none,
    Option.map_some, Option.orElse_some, Bool.not_true, Bool.false_eq_true, if_false, ne_eq, not_true_eq_false, BitVec.ofNat_toNat,
    BitVec.setWidth_eq, putKey_pmk]

theorem pmkClear_ok {i : Nat} {n : BitVec 18} (hentry : (s.pitch target.toNat).pmk.getD i none = some n) (c : Nat) :
    pmkClear target i c s = .ok (toLE 8 c, setPmk target.toNat i none c (clearSlot n.toNat c s)) := by
  simp only [pmkClear, serving_passes hserves, hentry, Bool.false_eq_true, if_false]

theorem setRoster_ok {r : Roster} (htarget : target ≠ 0xFFFF) (hroster : s.rosterOk r = true) (c : Nat) :
    ∃ t, setRoster target r c s = .ok (toLE 8 c, t)
      ∧ OnlySeals (s.updPitch target.toNat fun v => { v with roster := some r, rosterDigest := sha384 (rosterBytes r) }) t := by
  simp only [setRoster, hroster, if_neg htarget, serving_passes hserves, Bool.not_true, Bool.false_eq_true, if_false]
  exact ⟨_, rfl, (journal_onlySeals _ _ _).trans (mirror_onlySeals _ _)⟩

theorem exportAuth_ok {secs n : Nat} (hsecs : 1 ≤ secs) (hsecs' : secs ≤ 3600) (hn : 1 ≤ n) (hn' : n ≤ 65535) (c : Nat) :
    exportAuth target secs n c s
      = .ok ([], s.updPitch target.toNat fun v => { v with exportAuth := some { seconds := secs, count := n } }) := by
  have hrange : ¬(secs = 0 ∨ 3600 < secs ∨ n = 0 ∨ 65535 < n) := by omega
  simp only [exportAuth, serving_passes hserves, if_neg hrange, Bool.false_eq_true, if_false]

theorem attrWiden_ok {n : BitVec 18} {attrs : BitVec 128} {k : Key} (hkey : s.slotKey n.toNat = some k)
    (howner : s.blockOwner (n.toNat / 64) = some target.toNat) (hpmk : (s.pitch target.toNat).pmk.contains (some n) = false)
    (hwidens : widens k.attr (Attr.unpack attrs) = true) (c : Nat) :
    ∃ t, attrWiden target n.toNat attrs c s = .ok (toLE 8 c, t)
      ∧ OnlySeals (s.setSlot n.toNat { s.slot n.toNat with attrs := (Attr.unpack attrs).pack }) t := by
  simp only [attrWiden, serving_passes hserves, hkey, howner, hpmk, hwidens, BitVec.ofNat_toNat, BitVec.setWidth_eq, ne_eq,
    not_true_eq_false, decide_false, Bool.or_self, Bool.not_true, Bool.false_eq_true, if_false]
  exact ⟨_, rfl, (journal_onlySeals _ _ _).trans (mirror_onlySeals _ _)⟩

end

/-! ## The messages through their gate -/

section
variable {s t : State} {h : ZHdr} {b : Bytes}

/-- The seed of a PMK_LOAD is that of the live nonce (R390, R394). -/
theorem execPmkLoad_gated {c : Ceremony} (hg : Gated s 0x0020 h false) (hwaits : s.storeWaits = false) (hc : s.nonceFor h = some c)
    {body : PmkBody} (hload : pmkLoad h.target c.seed h.nonce body (s.csn + 1) (s.gatedBy 0x0020 h) = .ok (b, t)) :
    execPmkLoad h body s = .next (zreply 0x0020 h 0 b t) := by
  have hgate := zmessage_gated_ok hg false true hload
  rw [zmessage_carried hg.1] at hgate
  simp only [execPmkLoad, zstore_of_room hwaits, zmessage_carried hg.1, nonceFor_taken, hc, hgate]

theorem execPmkClear_gated (hg : Gated s 0x0021 h false) (hwaits : s.storeWaits = false) {i : Nat}
    (hclear : pmkClear h.target i (s.csn + 1) (s.gatedBy 0x0021 h) = .ok (b, t)) :
    execPmkClear h i s = .next (zreply 0x0021 h 0 b t) := by
  rw [execPmkClear, zstore_of_room hwaits, zmessage_gated_ok hg false true hclear]

theorem execRosterSet_gated (hg : Gated s 0x0022 h false) (htarget : h.target ≠ 0xFFFF) {r : Roster}
    (hset : setRoster h.target r (s.csn + 1) (s.gatedBy 0x0022 h) = .ok (b, t)) :
    execRosterSet h r s = .next (zreply 0x0022 h 0 b t) := by
  have hgate : rosterSet h r = zgate 0x0022 h false (setRoster h.target r) := by
    funext u
    rw [rosterSet, if_pos htarget]
  rw [execRosterSet, hgate, zmessage_gated_ok hg false true hset]

theorem execAttrWiden_gated (hg : Gated s 0x0024 h false) (hwaits : s.storeWaits = false) {n : BitVec 18} {attrs : BitVec 128}
    (hwiden : attrWiden h.target n.toNat attrs (s.csn + 1) (s.gatedBy 0x0024 h) = .ok (b, t)) :
    execAttrWiden h n attrs s = .next (zreply 0x0024 h 0 b t) := by
  rw [execAttrWiden, zstore_of_room hwaits, zmessage_gated_ok hg false true hwiden]

end

theorem execExportAuthExpiry_of_auth {s : State} {p : BitVec 12} {a : ExportAuth} (h : (s.pitch p.toNat).exportAuth = some a) :
    execExportAuthExpiry p s = .next (s.updPitch p.toNat fun v => { v with exportAuth := none }) := by
  rw [execExportAuthExpiry, h]

end Sys2Proof.Machine

namespace Sys2Proof.Proofs

open Sys2Proof.Machine Sys2Proof.Safety

/-- Settles O34: each message is its change in the state that the gate leaves, which has the slots and pitches of the state before it. -/
theorem pitchQuorumMessages : Obligations.PitchQuorumMessages := by
  unfold Obligations.PitchQuorumMessages
  refine ⟨?load, ?clear, ?roster, ?authorise, ?widen, ?expiry⟩
  case load =>
    intro s h b c n k l hg hwaits hserves hnonce hentry hfree hpmk hslot howner hempty
    have hgated := gatedBy_onlyMessage s 0x0020 h
    have hok := pmkLoad_ok (s := s.gatedBy 0x0020 h) (hgated.serving hserves) hentry (by rw [hgated.pitch]; exact hfree)
      ((hgated.pmkOf ..).trans hpmk) hslot ((hgated.blockOwner _).trans howner) ((hgated.slotEmpty _).trans hempty) (s.csn + 1)
    have hwrite := writeSlot_onlySeals n.toNat (s.csn + 1) (s.gatedBy 0x0020 h) (padTo 32 (k.take 32)) (pmkAttr h.target.toNat).pack {}
    obtain ⟨hself, hothers⟩ := hgated.setSlot_slots hwrite
    refine ⟨_, execPmkLoad_gated hg hwaits hnonce hok, ?_, zreply_replied _ _ _ _ _, ?_, ?_, ?_, fun m hm => ?_⟩
    · rw [zreply_csn, setPmk_csn, writeSlot_csn, gatedBy_csn]
    · rw [zreply_pitch, pmk_setPmk, State.pitch_congr (writeSlot_pit ..), hgated.pitch]
    · rw [zreply_slot, slot_setPmk, hself]
    · rw [zreply_slot, slot_setPmk, hself, hgated.slot]
    · rw [zreply_slot, slot_setPmk, hothers m hm]
  case clear =>
    intro s h i n hg hwaits hserves hentry
    have hgated := gatedBy_onlyMessage s 0x0021 h
    have hok := pmkClear_ok (s := s.gatedBy 0x0021 h) (hgated.serving hserves) (by rw [hgated.pitch]; exact hentry) (s.csn + 1)
    have hcleared := clearSlot_onlySeals n.toNat (s.csn + 1) (s.gatedBy 0x0021 h)
    obtain ⟨hself, hothers⟩ := hgated.setSlot_slots hcleared
    refine ⟨_, execPmkClear_gated hg hwaits hok, zreply_replied _ _ _ _ _, ?_, ?_, ?_, fun m hm => ?_, ?_⟩
    · rw [zreply_csn, setPmk_csn, clearSlot_csn, gatedBy_csn]
    · rw [zreply_pitch, pmk_setPmk, State.pitch_congr (clearSlot_pit ..), hgated.pitch]
    · rw [zreply_slot, slot_setPmk, hself, hgated.slot]
    · rw [zreply_slot, slot_setPmk, hothers m hm]
    · exact hgated.setSlot_updPitch_frame hcleared ((setPmk_onlySeals ..).trans (zreply_onlySeals ..))
  case roster =>
    intro s h r hg hserves htarget hroster
    have hgated := gatedBy_onlyMessage s 0x0022 h
    have hpitch : h.target ≠ 0xFFFF := fun heq => absurd htarget (by rw [heq]; decide)
    obtain ⟨t, hok, hset⟩ := setRoster_ok (s := s.gatedBy 0x0022 h) (hgated.serving hserves) hpitch ((hgated.rosterOk r).trans hroster)
      (s.csn + 1)
    refine ⟨_, execRosterSet_gated hg hpitch hok, zreply_replied _ _ _ _ _, ?_, hgated.updPitch_frame (hset.trans (zreply_onlySeals ..))⟩
    rw [zreply_pitch, hset.pitch, pitch_updPitch_self, hgated.pitch]
  case authorise =>
    intro s h secs n hg hserves hsecs hsecs' hn hn'
    have hgated := gatedBy_onlyMessage s 0x0023 h
    have hok := exportAuth_ok (s := s.gatedBy 0x0023 h) (hgated.serving hserves) hsecs hsecs' hn hn' (s.csn + 1)
    refine ⟨_, congrArg Host.Outcome.next (zmessage_gated_ok hg false false hok), zreply_replied _ _ _ _ _, ?_,
      hgated.updPitch_frame (zreply_onlySeals _ _ _ _ _)⟩
    rw [zreply_pitch, pitch_updPitch_self, hgated.pitch]
  case widen =>
    intro s h n attrs k hg hwaits hserves hkey howner hpmk hwidens
    have hgated := gatedBy_onlyMessage s 0x0024 h
    obtain ⟨t, hok, hset⟩ := attrWiden_ok (s := s.gatedBy 0x0024 h) (hgated.serving hserves) ((hgated.slotKey _).trans hkey)
      ((hgated.blockOwner _).trans howner) (by rw [hgated.pitch]; exact hpmk) hwidens (s.csn + 1)
    rw [hgated.slot] at hset
    have hsealed := hset.trans (zreply_onlySeals 0x0024 h 0 (toLE 8 (s.csn + 1)) t)
    obtain ⟨hself, hothers⟩ := hgated.setSlot_slots hsealed
    exact ⟨_, execAttrWiden_gated hg hwaits hok, zreply_replied _ _ _ _ _, hself, hothers, hgated.setSlot_frame hsealed⟩
  case expiry =>
    intro s p a hauth
    exact ⟨_, execExportAuthExpiry_of_auth hauth, pitch_updPitch_self _ _ _, rfl⟩

end Sys2Proof.Proofs
end

section
/-! The claim on the active role: what a role change, a takeover and a release leave of the state (R408, R411, R418, R420). -/

namespace Sys2Proof.Machine

open Sys2Proof.Safety

/-! ## Sparse maps changed throughout -/

/-- What holds of the default and of every new value holds of what is read after a change throughout. -/
theorem smap_get_mapv_all {α : Type} [DecidableEq α] {d : α} {f : Nat → α → α} {P : α → Prop} (hd : P d)
    (hf : ∀ k v, P (f k v)) (m : SMap α) (k : Nat) : P ((m.mapv d f).get d k) := by
  induction m with
  | nil => exact hd
  | cons e m ih =>
    by_cases hdrop : f e.1 e.2 = d
    · simpa only [SMap.mapv, List.filterMap_cons, if_pos hdrop] using ih
    · simp only [SMap.mapv, List.filterMap_cons, if_neg hdrop, SMap.get]
      split
      · exact hf _ _
      · exact ih

/-! ## Roles (R407, R408) -/

/-- The state in a role, before the record and the event of the change. -/
def State.inRole (r : Role) (s : State) : State := { s with par := { s.par with role := r } }

/-- Beside the role itself, a change of role is a record and an event. -/
theorem roleTo_onlyNotes (r : Role) (s : State) : OnlyNotes (s.inRole r) (roleTo r s) := by
  simp only [roleTo]
  split
  · next h => exact ⟨s, by rw [State.inRole, ← h]; rfl⟩
  · exact (tallyRec_onlyNotes ..).trans (raise_onlyNotes ..)

theorem mem_buffer_roleTo {r : TallyRec} {s : State} (role : Role) (h : r ∈ s.tly.buffer) : r ∈ (roleTo role s).tly.buffer := by
  simp only [roleTo]
  split
  · exact h
  · rw [raise_tly]
    exact mem_buffer_tallyRec (s := { s with par := _ }) _ _ _ _ _ h

/-! ## What goes with a takeover -/

/-- `t` is `s` but for records, events, rings, and the queues, cores and engines of the service that resumes. -/
def OnlyService (s t : State) : Prop :=
  ∃ u : State, t = { s with tly := u.tly, evc := u.evc, rqe := u.rqe, out := u.out, sch := u.sch, cmc := u.cmc, pit := u.pit,
                            units := u.units }

section
variable {s t u : State}

theorem OnlyService.trans : OnlyService s t → OnlyService t u → OnlyService s u := by
  rintro ⟨x, rfl⟩ ⟨y, rfl⟩
  exact ⟨y, rfl⟩

theorem OnlyNotes.service : OnlyNotes s t → OnlyService s t := by
  rintro ⟨x, rfl⟩
  exact ⟨{ withNotes s x with sch := s.sch }, rfl⟩

theorem OnlyGrants.service : OnlyGrants s t → OnlyService s t := by
  rintro ⟨x, rfl⟩
  exact ⟨{ s with sch := x.sch, cmc := x.cmc, pit := x.pit, units := x.units, out := x.out }, rfl⟩

theorem OnlyService.csn : OnlyService s t → t.csn = s.csn := by
  rintro ⟨x, rfl⟩
  rfl

theorem OnlyService.kst : OnlyService s t → t.kst = s.kst := by
  rintro ⟨x, rfl⟩
  rfl

theorem OnlyService.par : OnlyService s t → t.par = s.par := by
  rintro ⟨x, rfl⟩
  rfl

theorem OnlyService.caches : OnlyService s t → t.caches = s.caches := by
  rintro ⟨x, rfl⟩
  rfl

theorem OnlyGrants.tly : OnlyGrants s t → t.tly = s.tly := by
  rintro ⟨x, rfl⟩
  rfl

end

/-! ## Takeover (R411, R418, R420) -/

/-- The CSNs leapt and the derivation cache begun anew (R221, R418). -/
def State.leapt (s : State) : State := applyLeap (2 ^ s.par.leapLog2.toNat) (freshDkc s)

/-- The leap with the record of the takeover (R418). -/
def State.leapNoted (s : State) : State :=
  tallyRec 0x0602 0 424 (some s.leapt.csn) (toLE 8 (2 ^ s.par.leapLog2.toNat) ++ toLE 8 (s.leapt.csn + 1)) s.leapt

/-- The pair's registers of a device that takes over, before its change of role (R420 steps 2 to 6): `l` is the leap. -/
def State.takingOver (l : Nat) (s : State) : State :=
  { s with par := { s.par with
    claim := true, takeStep := 0, stuck := false, takeovers := satInc s.par.takeovers, takeoverFlag := true, yielded := false,
    standbyLost := false, soloWait := false, relaxedInForce := s.par.relaxed, epoch := s.par.lastEpoch + 1,
    records := [.leap s.csn l], unacked := [], ackedCsn := s.csn, rstLow := s.par.fence && !s.par.lastYield,
    resyncing := false, skimQueue := [] } }

/-- The rings that were active wait for their resync. -/
def ringsResync (s : State) : State :=
  { s with rqe := { s.rqe with sqs := s.rqe.sqs.mapv {} fun _ q => if q.state = .active then { q with resync := true } else q } }

/-- A takeover by its stages. -/
theorem takeOver_eq (s : State) :
    takeOver s = raise 424 (resumeService (ringsResync (roleTo .active (s.leapNoted.takingOver (2 ^ s.par.leapLog2.toNat))))) := rfl

/-- The pair's registers and the CSNs that a takeover ends with. -/
def State.takenOver (s : State) : State := (s.leapt.takingOver (2 ^ s.par.leapLog2.toNat)).inRole .active

/-- Beside the leap and the pair's registers, a takeover is records, events, the rings' resync and the service that resumes. -/
theorem takeOver_onlyService (s : State) : OnlyService s.takenOver (takeOver s) := by
  have hnoted : OnlyService s.takenOver ((s.leapNoted.takingOver (2 ^ s.par.leapLog2.toNat)).inRole .active) := by
    obtain ⟨u, hu⟩ : OnlyService s.leapt s.leapNoted := (tallyRec_onlyNotes ..).service
    exact ⟨u, by rw [hu]; rfl⟩
  have hrings (t : State) : OnlyService t (ringsResync t) := ⟨ringsResync t, rfl⟩
  rw [takeOver_eq]
  exact (((hnoted.trans (roleTo_onlyNotes ..).service).trans (hrings _)).trans (resumeService_onlyGrants _).service).trans
    (raise_onlyNotes ..).service

/-- The record of the leap stays in the tally through the rest of the takeover. -/
theorem takeOver_recorded {s : State} (hroom : ExemptRoom s) :
    Recorded s (takeOver s) 0x0602 (toLE 8 (2 ^ s.par.leapLog2.toNat) ++ toLE 8 (s.leapt.csn + 1)) := by
  have hroom' : ExemptRoom s.leapt := hroom
  obtain ⟨r, hr, hfields⟩ := tallyRec_recorded (code := 0x0602) (by decide) hroom' 0 424 (some s.leapt.csn)
    (toLE 8 (2 ^ s.par.leapLog2.toNat) ++ toLE 8 (s.leapt.csn + 1))
  refine ⟨r, ?_, hfields⟩
  rw [takeOver_eq, raise_tly, (resumeService_onlyGrants _).tly]
  exact mem_buffer_roleTo (s := s.leapNoted.takingOver _) .active hr

/-- The highest CSN applied after a takeover (R418). -/
theorem takeOver_csn (s : State) : (takeOver s).csn = s.csn + 2 ^ s.par.leapLog2.toNat - 1 := (takeOver_onlyService s).csn

theorem takeOver_kst (s : State) : (takeOver s).kst = { s.kst with leap := 2 ^ s.par.leapLog2.toNat, leaped := [] } :=
  (takeOver_onlyService s).kst

theorem takeOver_par (s : State) : (takeOver s).par = s.takenOver.par := (takeOver_onlyService s).par

theorem takeOver_caches (s : State) : (takeOver s).caches = { s.caches with dkc := [], dkcHand := [] } := (takeOver_onlyService s).caches

section
variable {s : State} (hgrant : s.par.grant = true) (hrole : s.par.role = .standby ∨ s.par.role = .waiting)
include hgrant hrole

/-- A granted device waits for its peer's claim to end. -/
theorem tryTakeOver_waits (hpeer : s.par.peerClaim = true) : tryTakeOver s = { s with par := { s.par with takeStep := 1 } } := by
  rcases hrole with hrole | hrole <;> simp [tryTakeOver, hgrant, hrole, hpeer]

/-- A granted device that sees no claim takes over. -/
theorem tryTakeOver_takes (hpeer : s.par.peerClaim = false) : tryTakeOver s = takeOver s := by
  rcases hrole with hrole | hrole <;> simp [tryTakeOver, hgrant, hrole, hpeer]

end

/-- The state with the witness's grant. -/
def State.granted (s : State) : State := { s with par := { s.par with grant := true } }

/-- The state after the peer's claim has ended. -/
def State.peerCleared (s : State) : State := { s with par := { s.par with peerClaim := false, stuck := false } }

/-- A role that may take over is not SINGLE. -/
theorem ne_single_of_candidate {r : Role} (h : r = .standby ∨ r = .waiting) : r ≠ .single := by
  rcases h with rfl | rfl <;> decide

theorem grantQualify_candidate {s : State} (hrole : s.par.role = .standby ∨ s.par.role = .waiting) (hstart : s.glb.startDone = true) :
    grantQualify s = tryTakeOver s.granted := by
  have hpair : ¬(s.par.role = .single ∨ ¬ s.glb.startDone = true) := by simp [ne_single_of_candidate hrole, hstart]
  rw [grantQualify, if_neg hpair]
  rfl

theorem peerClaimClear_pair {s : State} (hrole : s.par.role ≠ .single) :
    peerClaimClear s = if s.par.takeStep = 1 then tryTakeOver s.peerCleared else s.peerCleared := by
  rw [peerClaimClear, if_neg hrole]
  rfl

/-- The state with the error of a peer's claim that is stuck (R420 step 1). -/
def State.claimStuck (s : State) : State := parErr 3 { s with par := { s.par with stuck := true } }

theorem takeoverClaimTimeout_stuck {s : State} (hstep : s.par.takeStep = 1) (hpeer : s.par.peerClaim = true) :
    takeoverClaimTimeout s = raise 434 s.claimStuck := if_pos ⟨hstep, hpeer⟩

/-! ## Release (R408) -/

theorem discardEntries_core_entry (s : State) (k : Nat) : ((discardEntries s).core k).entry = none := by
  simp only [State.core, discardEntries]
  exact smap_get_mapv_all (P := fun c : Core => c.entry = none) rfl (fun _ _ => rfl) _ k

/-- What a device that is RELEASED has left: no role, no claim, no work; its CSN and its keys stay. -/
theorem toReleased_effect (s : State) :
    (toReleased s).par.role = .released ∧ (toReleased s).par.claim = false ∧ (toReleased s).sch.entries = []
      ∧ (toReleased s).units.reqs = [] ∧ (∀ k, ((toReleased s).core k).entry = none) ∧ (toReleased s).csn = s.csn
      ∧ (toReleased s).kst = s.kst := by
  simp only [toReleased, State.core, tally_par, tally_sch, tally_units, tally_cmc, tally_csn, tally_kst]
  have hrole := (roleTo_onlyNotes .released { s with par := { s.par with
    claim := false, yieldStep := 0, unacked := [], records := [], soloWait := false, standbyLost := false, resyncing := false,
    takeStep := 0 } }).service
  exact ⟨congrArg Par.role hrole.par, congrArg Par.claim hrole.par, rfl, rfl, discardEntries_core_entry _, hrole.csn, hrole.kst⟩

/-- `t` is `s` but for what the witness and the peer say. -/
def OnlyArbiter (s t : State) : Prop :=
  t = { s with par := { s.par with peerClaim := t.par.peerClaim, grant := t.par.grant, takeStep := t.par.takeStep } }

/-- A device that claims is RELEASED by what ends its claim; another device only notes it. -/
theorem claim_ended {s t : State} (h : OnlyArbiter s t) :
    (s.claims = true → (if t.claims then toReleased t else t) = toReleased t ∧ t.csn = s.csn ∧ t.kst = s.kst)
      ∧ (s.claims = false → (if t.claims then toReleased t else t) = t) := by
  have hclaims : t.claims = s.claims := by rw [h]; rfl
  rw [hclaims]
  exact ⟨fun hs => ⟨if_pos hs, by rw [h], by rw [h]⟩, fun hs => if_neg (by simp [hs])⟩

/-- A peer's claim and the loss of the grant are each noted, and then end the device's own claim (R408). -/
theorem claimEnd_exec {s : State} (hrole : s.par.role ≠ .single) {c : Instr} (hc : c ∈ [Instr.peerClaimAssert, .witGrantLoss]) :
    ∃ t, OnlyArbiter s t ∧ exec c s = .next (if t.claims then toReleased t else t) := by
  rcases List.mem_pair.mp hc with rfl | rfl
  · exact ⟨{ s with par := { s.par with peerClaim := true } }, rfl, congrArg Host.Outcome.next (if_neg hrole)⟩
  · exact ⟨{ s with par := { s.par with grant := false, takeStep := 0 } }, rfl, congrArg Host.Outcome.next (if_neg hrole)⟩

end Sys2Proof.Machine

namespace Sys2Proof.Proofs

open Sys2Proof.Machine Sys2Proof.Safety

/-- Settles O49: a grant and the end of the peer's claim come to one takeover, what ends this device's own claim to one release; each
is read off its effect. -/
theorem takeover : Obligations.Takeover := by
  unfold Obligations.Takeover
  refine ⟨fun s hrole hstart => ⟨fun hpeer => ?wait, fun hpeer hroom => ?take⟩, fun s hstep hpeer => ?stuck,
    fun s hrole => ⟨fun hstep => ?cleared, fun hstep hgrant hcandidate => ?clearedTake⟩,
    fun s hrole c hc => ⟨fun hclaims => ?released, fun hclaims => ?noted⟩, fun s => rfl, fun s hsingle c hc => ?single⟩
  case wait =>
    exact congrArg Host.Outcome.next
      ((grantQualify_candidate hrole hstart).trans (tryTakeOver_waits (s := s.granted) rfl hrole hpeer))
  case take =>
    have hkst := takeOver_kst s.granted
    have hpar := takeOver_par s.granted
    refine ⟨takeOver s.granted, congrArg Host.Outcome.next
      ((grantQualify_candidate hrole hstart).trans (tryTakeOver_takes (s := s.granted) rfl hrole hpeer)),
      congrArg Par.role hpar, congrArg Par.claim hpar, takeOver_csn _, congrArg Kst.leap hkst, congrArg Kst.leaped hkst, ?_,
      congrArg Par.epoch hpar, congrArg Par.unacked hpar, takeOver_recorded (s := s.granted) hroom, by rw [hkst]; rfl,
      congrArg Caches.dkc (takeOver_caches _)⟩
    rw [takeOver_csn, hpar]
    rfl
  case stuck =>
    have hpar := raise_par 434 s.claimStuck
    obtain ⟨u, hu⟩ := raise_onlyEvents 434 s.claimStuck
    exact ⟨_, congrArg Host.Outcome.next (takeoverClaimTimeout_stuck hstep hpeer), congrArg Par.stuck hpar, congrArg Par.errCode hpar,
      congrArg Par.errValid hpar, by rw [hpar]; rfl, raise_pends (s := s.claimStuck), by rw [hu]; rfl⟩
  case cleared => exact congrArg Host.Outcome.next ((peerClaimClear_pair hrole).trans (if_neg hstep))
  case clearedTake =>
    have htake := tryTakeOver_takes (s := s.peerCleared) hgrant hcandidate rfl
    have hpar := takeOver_par s.peerCleared
    exact ⟨_, congrArg Host.Outcome.next (((peerClaimClear_pair hrole).trans (if_pos hstep)).trans htake),
      congrArg Par.role hpar, congrArg Par.claim hpar, takeOver_csn _⟩
  case released =>
    obtain ⟨t, ht, hexec⟩ := claimEnd_exec hrole hc
    obtain ⟨hreleased, hcsn, hkst⟩ := (claim_ended ht).1 hclaims
    obtain ⟨hrole', hclaim, hentries, hreqs, hcores, hcsn', hkst'⟩ := toReleased_effect t
    exact ⟨_, hexec.trans (congrArg _ hreleased), hrole', hclaim, hentries, hreqs, hcores, hcsn'.trans hcsn, hkst'.trans hkst⟩
  case noted =>
    obtain ⟨t, ht, hexec⟩ := claimEnd_exec hrole hc
    exact ⟨t, hexec.trans (congrArg _ ((claim_ended ht).2 hclaims)), ht⟩
  case single =>
    simp only [List.mem_cons, List.not_mem_nil, or_false] at hc
    rcases hc with rfl | rfl | rfl | rfl
    · exact congrArg Host.Outcome.next (if_pos (.inl hsingle))
    all_goals exact congrArg Host.Outcome.next (if_pos hsingle)

end Sys2Proof.Proofs
end

section
/-! Entropy sources and DRBG instances (R286 to R289): what a failure leaves of its source, what a block at hand makes of an instance, and
what an instance in error leaves of the state. -/

namespace Sys2Proof.Machine

open Sys2Proof.Safety

variable {s t u : State} {k i test : Nat}

/-! ## Failures of a source (R287) -/

theorem source_updSource_self (s : State) (k : Nat) (f : EntSource → EntSource) : (s.updSource k f).source k = f (s.source k) :=
  smap_get_upd_self ..

/-- A tally record and its event leave the routes as they are, so that the event pends where it is routed (R471, R472). -/
theorem recordRaised_pends {src : Nat} (h : Routed src s) (code : BitVec 16) (actor : BitVec 6) (event : BitVec 10) (own : Option Nat)
    (payload : Bytes) : Pends src (raise src (tallyRec code actor event own payload s)) := by
  obtain ⟨u, hu⟩ := tallyRec_onlyNotes code actor event own payload s
  refine raise_pends ?_
  rw [hu]
  exact h

theorem recordRaised_onlyNotes (src : Nat) (code : BitVec 16) (actor : BitVec 6) (event : BitVec 10) (own : Option Nat)
    (payload : Bytes) (s : State) : OnlyNotes s (raise src (tallyRec code actor event own payload s)) :=
  (tallyRec_onlyNotes ..).trans (raise_onlyNotes ..)

/-- What a record changes beside an effect on the units, by the blocks of the state. -/
theorem OnlyNotes.eq_unitBlocks {x : Units} (h : OnlyNotes { s with units := x } t) :
    t = { s with units := t.units, tly := t.tly, evc := t.evc, rqe := t.rqe, out := t.out } := by
  obtain ⟨u, rfl⟩ := h
  rfl

/-- A source after the failure of a test at this operating second (R287). -/
def EntSource.failedAt (now test : Nat) (x : EntSource) : EntSource :=
  { x with state := 3, failures := x.failures ++ [now],
           rctFails := if test = 0 then satInc x.rctFails else x.rctFails,
           aptFails := if test = 1 then satInc x.aptFails else x.aptFails,
           startupFails := if test = 2 then satInc x.startupFails else x.startupFails }

theorem sourceFail_eq (k test : Nat) (s : State) : sourceFail k test s = raise (568 + k)
    (tallyRec 0x0901 0 (BitVec.ofNat 10 (568 + k)) none [BitVec.ofNat 8 k, BitVec.ofNat 8 test, 3]
      (s.updSource k (EntSource.failedAt s.tly.seconds test))) := rfl

theorem sourceFail_source (k test : Nat) (s : State) :
    (sourceFail k test s).source k = (s.source k).failedAt s.tly.seconds test := by
  rw [State.source, sourceFail_eq, raise_units, tallyRec_units]
  exact source_updSource_self ..

theorem sourceFail_pends (h : Routed (568 + k) s) : Pends (568 + k) (sourceFail k test s) :=
  recordRaised_pends (s := s.updSource k (EntSource.failedAt s.tly.seconds test)) h ..

theorem sourceFail_frame (k test : Nat) (s : State) : sourceFail k test s =
    { s with units := (sourceFail k test s).units, tly := (sourceFail k test s).tly, evc := (sourceFail k test s).evc,
             rqe := (sourceFail k test s).rqe, out := (sourceFail k test s).out } :=
  (recordRaised_onlyNotes ..).eq_unitBlocks

/-! ## Blocks and instances (R288, R289) -/

theorem drbg_updDrbg_self (s : State) (i : Nat) (f : Drbg → Drbg) : (s.updDrbg i f).drbg i = f (s.drbg i) :=
  smap_get_upd_self ..

/-- A block reseeds an instance that is ready. -/
theorem seedInstance_ready (h : (s.drbg i).state = 1) (katOk : Bool) (b : Bytes) :
    seedInstance katOk i b s = s.updDrbg i fun d => d.reseeded b := if_pos h

/-- A reseed with blocks at hand takes the oldest. -/
theorem drbgReseed_oldest {b : Bytes} {l : List Bytes} (hstate : (s.drbg i).state = 1) (hblocks : s.units.seedBlocks = b :: l) :
    drbgReseed i s = ({ s with units := { s.units with seedBlocks := l } } : State).updDrbg i fun d => d.reseeded b := by
  simp only [drbgReseed, ne_eq, hstate, not_true_eq_false, if_false, hblocks]
  exact seedInstance_ready (s := { s with units := { s.units with seedBlocks := l } }) hstate true b

/-- Instance 0, where it waits, is the first that takes a block (log entry 45). -/
theorem firstWanting_zero (h : (s.drbg 0).waiting = true) : (List.range 10).find? (fun i => (s.drbg i).wants) = some 0 := by
  have hwants : (s.drbg 0).wants = true := by rw [Drbg.wants, h, Bool.or_true]
  exact List.find?_cons_of_pos hwants

theorem firstWanting_none (h : ∀ i, i < 10 → (s.drbg i).wants = false) :
    (List.range 10).find? (fun i => (s.drbg i).wants) = none :=
  List.find?_eq_none.mpr fun i hi => by simp [h i (List.mem_range.mp hi)]

/-- An instance for want of seed, at its record and event (R289). -/
theorem drbgFail_seedless (i : Nat) (s : State) : drbgFail i false s = raise 572
    (tallyRec 0x0902 0 572 none [BitVec.ofNat 8 i, 0]
      (s.updDrbg i fun d => { d with state := 2, kat := false, waiting := true, block := none })) := rfl

theorem drbgFail_state (i : Nat) (s : State) : ((drbgFail i false s).drbg i).state = 2 := by
  rw [State.drbg, drbgFail_seedless, raise_units, tallyRec_units]
  exact congrArg Drbg.state (drbg_updDrbg_self ..)

theorem drbgFail_recorded (hroom : ExemptRoom s) (i : Nat) : Recorded s (drbgFail i false s) 0x0902 [BitVec.ofNat 8 i, 0] := by
  have hroom' : ExemptRoom (s.updDrbg i fun d => { d with state := 2, kat := false, waiting := true, block := none }) := hroom
  rw [drbgFail_seedless]
  exact recorded_of_tly (tallyRec_recorded (by decide) hroom' ..) rfl (raise_tly ..)

theorem drbgFail_frame (i : Nat) (s : State) : drbgFail i false s =
    { s with units := (drbgFail i false s).units, tly := (drbgFail i false s).tly, evc := (drbgFail i false s).evc,
             rqe := (drbgFail i false s).rqe, out := (drbgFail i false s).out } := by
  rw [drbgFail_seedless]
  exact (recordRaised_onlyNotes ..).eq_unitBlocks

/-! ## The commands -/

section
variable {src : BitVec 2}

/-- The test's number is that of its counter: 1 the proportion test, 0 the repetition test (R287). -/
theorem entropyTestFail_exec {apt : Bool} {n : Nat} (hstate : (s.source src.toNat).state = 2) (hfails : s.testFails apt n = true) :
    exec (.entropyTestFail src apt n) s = .next (sourceFail src.toNat (if apt then 1 else 0) s) :=
  congrArg Host.Outcome.next (if_pos ⟨hstate, hfails⟩)

theorem entropyStartupDone_exec {kat : Bool} {run equal : Nat} (hstate : (s.source src.toNat).state = 1) :
    exec (.entropyStartupDone src kat run equal) s =
      .next (if kat && !s.testFails false run && !s.testFails true equal then s.updSource src.toNat fun x => { x with state := 2 }
             else sourceFail src.toNat 2 s) :=
  congrArg Host.Outcome.next (if_neg (not_not_intro hstate))

theorem entropyRetry_exec (hstate : (s.source src.toNat).state = 3) :
    exec (.entropyRetry src) s =
      .next (s.updSource src.toNat fun x => { x with state := if s.recentFailures src.toNat < 3 then 1 else 4 }) :=
  congrArg Host.Outcome.next (if_neg (not_not_intro hstate))

/-- A block of a HEALTHY source that no instance waits for is kept (R286). -/
theorem seedBlockReady_kept (hstate : (s.source src.toNat).state = 2) (hnone : ∀ i, i < 10 → (s.drbg i).wants = false) (kat : Bool) :
    exec (.seedBlockReady src kat) s =
      .next { s.drew 96 with units := { s.units with seedBlocks := s.units.seedBlocks ++ [s.seedBlock] } } := by
  refine congrArg Host.Outcome.next ((if_neg (not_not_intro hstate)).trans ?_)
  rw [firstWanting_none hnone]
  rfl

/-- A block of a HEALTHY source reseeds instance 0 where that waits, before any other (R288, R289; log entry 45). -/
theorem seedBlockReady_first (hstate : (s.source src.toNat).state = 2) (hready : (s.drbg 0).state = 1)
    (hwaiting : (s.drbg 0).waiting = true) (kat : Bool) :
    exec (.seedBlockReady src kat) s = .next ((s.drew 96).updDrbg 0 fun d => d.reseeded s.seedBlock) := by
  refine congrArg Host.Outcome.next ((if_neg (not_not_intro hstate)).trans ?_)
  rw [firstWanting_zero hwaiting]
  exact seedInstance_ready (s := s.drew 96) hready kat _

end

section
variable {inst : BitVec 4}

theorem drbgReseed_exec (hinst : inst.toNat < 10) : exec (.drbgReseed inst) s = .next (drbgReseed inst.toNat s) :=
  if_neg (Nat.not_le.mpr hinst)

theorem drbgSeedTimeout_exec (hinst : inst.toNat < 10) (hstate : (s.drbg inst.toNat).state = 1) :
    exec (.drbgSeedTimeout inst) s = .next (drbgFail inst.toNat false s) :=
  (if_neg (Nat.not_le.mpr hinst)).trans (congrArg Host.Outcome.next (if_pos hstate))

end

end Sys2Proof.Machine

namespace Sys2Proof.Proofs

open Sys2Proof.Machine
open Sys2Proof.Safety

/-- Settles O18: each command by its equation; a failed test by what `sourceFail` leaves of its source, a start-up test by its verdict, a
block by the instance that takes it, a timeout by `drbgFail`. -/
theorem entropyAndDrbgs : Obligations.EntropyAndDrbgs := by
  unfold Obligations.EntropyAndDrbgs
  refine ⟨?testFail, ?startup, ?retry, ?kept, ?first, ?reseed, ?timeout⟩
  case testFail =>
    intro s k apt n hstate hfails
    have hsource := sourceFail_source k.toNat (if apt then 1 else 0) s
    refine ⟨_, entropyTestFail_exec hstate hfails, congrArg EntSource.state hsource, ?_, ?_, sourceFail_pends, sourceFail_frame ..⟩
    · rw [hsource]
      cases apt <;> rfl
    · rw [hsource]
      cases apt <;> rfl
  case startup =>
    intro s k kat run equal hstate
    refine ⟨_, entropyStartupDone_exec hstate, ?_⟩
    split
    case isTrue => exact ⟨congrArg EntSource.state (source_updSource_self ..), rfl⟩
    case isFalse => exact ⟨congrArg EntSource.state (sourceFail_source ..), sourceFail_frame ..⟩
  case retry =>
    intro s k hstate
    exact ⟨_, entropyRetry_exec hstate, congrArg EntSource.state (source_updSource_self ..), rfl⟩
  case kept =>
    intro s k kat hstate hnone
    exact ⟨_, seedBlockReady_kept hstate hnone kat, rfl, rfl⟩
  case first =>
    intro s k kat hstate hready hwaiting
    have hdrbg := drbg_updDrbg_self (s.drew 96) 0 fun d => d.reseeded s.seedBlock
    exact ⟨_, seedBlockReady_first hstate hready hwaiting kat, hdrbg, congrArg Drbg.since hdrbg, congrArg Drbg.waiting hdrbg, rfl⟩
  case reseed =>
    intro s i b l hinst hstate hblocks
    have hdrbg := drbg_updDrbg_self { s with units := { s.units with seedBlocks := l } } i.toNat fun d => d.reseeded b
    have hexec := (drbgReseed_exec hinst).trans (congrArg Host.Outcome.next (drbgReseed_oldest hstate hblocks))
    exact ⟨_, hexec, rfl, hdrbg, congrArg Drbg.since hdrbg, congrArg Drbg.reseeds hdrbg, rfl⟩
  case timeout =>
    intro s i hinst hstate hroom
    exact ⟨_, drbgSeedTimeout_exec hinst hstate, drbgFail_state .., drbgFail_recorded hroom _, drbgFail_frame ..⟩

end Sys2Proof.Proofs
end

section
/-! The churn and the restoration of slots (R297, R301 to R305): what a pace interval makes of the boundary, and what the end of a
restoration leaves of the slots and of the commands that waited. -/

namespace Sys2Proof.Machine

open Sys2Proof.Safety

variable {s t : State} {n e : Nat} {v : Slot}

/-! ## An alarm leaves the churn (R301, R347) -/

/-- Where the churn stands: its boundary, the re-mask that waits, the tag mismatches (R301, R302). -/
def Kst.churn (k : Kst) : Nat × Option (BitVec 18 × Bool) × BitVec 8 := (k.boundary, k.restoring, k.tagFail)

theorem eraseRise_churn (src : BitVec 4) (s : State) : (eraseRise src s).kst.churn = s.kst.churn := by
  simp only [eraseRise]
  split
  · rfl
  · rw [raise_kst]
    rfl

theorem windowJoin_churn (n c : Nat) (s : State) : (windowJoin n c s).kst.churn = s.kst.churn := by
  simp only [windowJoin]
  split
  · rfl
  · split <;> rfl

theorem classAct_churn (n c : Nat) (s : State) : (classAct n c s).kst.churn = s.kst.churn := by
  obtain h | ⟨map, h⟩ | h := classAct_cases n c s <;> rw [h]
  · exact eraseRise_churn 1 s
  · rfl

theorem qualify_churn (n : Nat) (s : State) : (qualify n s).kst.churn = s.kst.churn := by
  obtain h | h := qualify_cases n s
  · rw [h]
  · rw [h, classAct_churn, windowJoin_churn, raise_kst]
    rfl

/-! ## A pace interval (R302) -/

theorem churnRemask_paused (h : s.churnPaused = true) (f : SlotFault) : churnRemask f s = s := by
  simp only [churnRemask, h, Bool.true_or, if_true]

section
variable (hpaused : s.churnPaused = false) (hcleared : s.kst.cleared = false) (hidle : s.kst.restoring = none)
include hpaused hcleared hidle

theorem churnRemask_runs (f : SlotFault) : churnRemask f s = if s.kst.boundary = sweepEnd then sweepBegin s else remask f s := by
  simp only [churnRemask, hpaused, hcleared, hidle, Option.isSome_none, Bool.or_self, Bool.false_eq_true, if_false]

/-- Before the end of the sweep a slot is re-masked. -/
theorem churnRemask_slot (hb : s.kst.boundary < 262144) (f : SlotFault) : exec (.churnRemask f) s = .next (remask f s) :=
  congrArg Host.Outcome.next ((churnRemask_runs hpaused hcleared hidle f).trans (if_neg (Nat.ne_of_lt hb)))

/-- At its end a new sweep begins. -/
theorem churnRemask_end (hb : s.kst.boundary = 262144) (f : SlotFault) : exec (.churnRemask f) s = .next (sweepBegin s) :=
  congrArg Host.Outcome.next ((churnRemask_runs hpaused hcleared hidle f).trans (if_pos hb))

end

/-- The slot at the boundary with a tag mismatch holds the boundary (R301). -/
theorem tagFault_churn (s : State) : (tagFault s).kst.churn = (s.kst.boundary, s.kst.restoring, satInc s.kst.tagFail) :=
  qualify_churn ..

theorem sweepBegin_kst (s : State) : ∃ house, (sweepBegin s).kst =
    { s.kst with seedOld := s.kst.seedNew, seedNew := BitVec.ofNat 256 (leNat (s.drbgOut 9 32)), houseOld := s.kst.houseNew,
                 houseNew := house, epoch := s.kst.epoch + 1, boundary := 0,
                 sweepPeriod := s.kst.churnPeriod.val.extractLsb' 0 2 } := by
  simp only [sweepBegin, seed9, draw9, drbgRequest_kst]
  exact ⟨_, rfl⟩

/-- The churn lags, before the record and the event of it (R304). -/
def State.lagged (s : State) : State := { s with kst := { s.kst with lagging := true } }

theorem churnLagTimer_paused (h : s.churnPaused = true) :
    exec .churnLagTimer s =
      .next (raise 361 (tallyRec 0x0202 0 361 none (toLE 4 10 ++ toLE 4 s.kst.epoch.toNat ++ toLE 4 s.kst.boundary) s.lagged)) :=
  congrArg Host.Outcome.next (if_pos h)

/-! ## The end of the waits (R301) -/

/-- No command waits for a slot in this tracker entry. -/
def RestoresNone (e : Nat) (s : State) : Prop := ∀ x, s.entry e = some x → x.restore = none

/-- The commands of a list wait for no slot any more. -/
def waitsDropped (l : List (Nat × Bool)) (s : State) : State :=
  l.foldl (fun s e => s.updEntry e.1 fun x => { x with restore := none }) s

theorem waitsDropped_kst (l : List (Nat × Bool)) (s : State) : (waitsDropped l s).kst = s.kst :=
  List.foldlRecOn l _ (motive := fun t : State => t.kst = s.kst) rfl fun _ h _ _ => h

theorem updEntry_restoresNone_self (e : Nat) (s : State) : RestoresNone e (s.updEntry e fun x => { x with restore := none }) := by
  intro x hx
  rw [entry_updEntry_self] at hx
  obtain ⟨y, -, rfl⟩ := Option.map_eq_some_iff.mp hx
  rfl

theorem RestoresNone.updEntry (h : RestoresNone e s) (i : Nat) : RestoresNone e (s.updEntry i fun x => { x with restore := none }) := by
  by_cases hi : e = i
  · exact hi ▸ updEntry_restoresNone_self e s
  · intro x hx
    rw [State.entry, State.updEntry, smap_get_upd_other _ _ _ _ _ hi] at hx
    exact h x hx

theorem waitsDropped_restoresNone (l : List (Nat × Bool)) (s : State) :
    ∀ w ∈ l, RestoresNone w.1 (waitsDropped l s) := by
  induction l generalizing s with
  | nil => exact fun w hw => absurd hw List.not_mem_nil
  | cons a l ih =>
    intro w hw
    obtain rfl | hw := List.mem_cons.mp hw
    · exact List.foldlRecOn l _ (motive := RestoresNone w.1) (updEntry_restoresNone_self w.1 s) fun _ h _ _ => h.updEntry _
    · exact ih _ w hw

/-- The state in which neither command nor churn waits for the slot. -/
def State.waitsEnded (s : State) (n : Nat) : State := endWaits (s.waitingFor n) (s.churnFor n).isSome s

theorem waitsEnded_churn {tag : Bool} (h : s.churnFor n = some tag) :
    s.waitsEnded n = { waitsDropped (s.waitingFor n) s with kst := { s.kst with restoring := none } } := by
  rw [State.waitsEnded, h, ← waitsDropped_kst (s.waitingFor n) s]
  rfl

theorem waitsEnded_noChurn (h : s.churnFor n = none) : s.waitsEnded n = waitsDropped (s.waitingFor n) s := by
  rw [State.waitsEnded, h]
  rfl

theorem waitsEnded_facts (s : State) (n : Nat) :
    (s.waitsEnded n).sch = (waitsDropped (s.waitingFor n) s).sch ∧ (s.waitsEnded n).kst.slots = s.kst.slots
      ∧ (s.waitsEnded n).kst.restored = s.kst.restored ∧ (s.waitsEnded n).churnFor n = none := by
  cases hchurn : s.churnFor n with
  | some tag =>
    rw [waitsEnded_churn hchurn]
    exact ⟨rfl, rfl, rfl, rfl⟩
  | none =>
    rw [waitsEnded_noChurn hchurn, State.churnFor, waitsDropped_kst]
    exact ⟨rfl, rfl, rfl, hchurn⟩

/-! ## The slot read again (R301) -/

/-- The slot as the sealed store holds it, and the count of restorations. -/
def slotRestored (n : Nat) (v : Slot) (s : State) : State :=
  { s.setSlot n v with kst := { (s.setSlot n v).kst with restored := satInc s.kst.restored } }

section
variable (hwaits : s.waitingFor n ≠ [] ∨ s.churnFor n ≠ none)
include hwaits

theorem slotRestoreDone_found (hsealed : s.sealedSlot n = some v) :
    ∃ u, OnlyNotes (s.waitsEnded n) u ∧ slotRestoreDone n true s = slotRestored n v u := by
  have hwaits' : ¬(s.waitingFor n = [] ∧ s.churnFor n = none) := by tauto
  simp only [slotRestoreDone, if_neg hwaits', hsealed, if_true]
  exact ⟨_, (tallyRec_onlyNotes ..).trans (raise_onlyNotes ..), rfl⟩

/-- A slot that is not held is emptied, and the commands that waited for it end. -/
theorem slotRestoreDone_lost :
    ∃ u, OnlyNotes (s.waitsEnded n) u
      ∧ slotRestoreDone n false s = (s.waitingFor n).foldl (fun s e => restoreFail e.1 s) (emptySlot n u) := by
  have hwaits' : ¬(s.waitingFor n = [] ∧ s.churnFor n = none) := by tauto
  simp only [slotRestoreDone, if_neg hwaits', Bool.false_eq_true, if_false]
  exact ⟨_, (tallyRec_onlyNotes ..).trans (raise_onlyNotes ..), rfl⟩

end

theorem slotRestoreDone_idle (hnone : s.waitingFor n = []) (hchurn : s.churnFor n = none) (ok : Bool) : slotRestoreDone n ok s = s := by
  simp only [slotRestoreDone, hnone, hchurn, and_self, if_true]

theorem engineFaulted_kst (x : Entry) (status : BitVec 16) (s : State) : (engineFaulted x status s).kst = s.kst := by
  simp only [engineFaulted]
  split
  · split
    · exact raise_kst ..
    · rfl
  · rfl

theorem conclude_kst (e : Nat) (recipe : Bool) (status : BitVec 16) (a : Ans) (needed : Nat) (s : State) :
    (conclude e recipe status a needed s).kst = s.kst := by
  simp only [conclude]
  split
  · split
    · rfl
    · rw [engineFaulted_kst, finish_kst]
  · rfl

theorem restoreFail_kst (e : Nat) (s : State) : (restoreFail e s).kst = s.kst := by
  simp only [restoreFail]
  split
  · rfl
  · exact conclude_kst ..

theorem restoreFails_kst (l : List (Nat × Bool)) (s : State) : (l.foldl (fun s e => restoreFail e.1 s) s).kst = s.kst :=
  List.foldlRecOn l _ (motive := fun t : State => t.kst = s.kst) rfl fun _ h _ _ => (restoreFail_kst ..).trans h

theorem State.slot_congr (h : t.kst.slots = s.kst.slots) (m : Nat) : t.slot m = s.slot m := by rw [State.slot, h, State.slot]

theorem emptySlot_onlySeals (n : Nat) (s : State) : OnlySeals (s.setSlot n { gen := (s.slot n).gen + 1 }) (emptySlot n s) :=
  journal_onlySeals ..

/-- What the emptying of a slot that is not held leaves of the slots (R297, R301). -/
theorem slotRestoreDone_lost_slots (hwaits : s.waitingFor n ≠ [] ∨ s.churnFor n ≠ none) :
    (slotRestoreDone n false s).slot n = { gen := (s.slot n).gen + 1 } ∧ ∀ m, m ≠ n → (slotRestoreDone n false s).slot m = s.slot m := by
  obtain ⟨u, hu, hdone⟩ := slotRestoreDone_lost hwaits
  obtain ⟨-, hslots, -, -⟩ := waitsEnded_facts s n
  have hslot : ∀ m, u.slot m = s.slot m := fun m => (hu.seals.slot m).trans (State.slot_congr hslots m)
  have hempty : ∀ m, (slotRestoreDone n false s).slot m = (u.setSlot n { gen := (s.slot n).gen + 1 }).slot m := fun m => by
    rw [hdone, State.slot_congr (congrArg Kst.slots (restoreFails_kst ..)), (emptySlot_onlySeals n u).slot, hslot n]
  exact ⟨(hempty n).trans (slot_setSlot_self ..), fun m hm => (hempty m).trans ((slot_setSlot_other hm _).trans (hslot m))⟩

end Sys2Proof.Machine

namespace Sys2Proof.Proofs

open Sys2Proof.Machine Sys2Proof.Safety

/-- Settles O38: a pace interval re-masks the slot at the boundary, begins a sweep or is paused; the end of a restoration is the state in
which nothing waits for the slot, with the slot as it was sealed or emptied. -/
theorem churnAndRestore : Obligations.ChurnAndRestore := by
  unfold Obligations.ChurnAndRestore
  refine ⟨fun s hpaused hcleared hidle hb => ⟨?clean, fun n hn => ⟨?single, ?double, ?tag⟩⟩, ?sweep, ?paused, ?lag, ?found, ?lost, ?idle⟩
  case clean => exact churnRemask_slot hpaused hcleared hidle hb .clean
  case single =>
    have hremask : remask (.single n) s = churnStep (correct s) := congrArg churnStep (if_pos hn)
    exact ⟨_, (churnRemask_slot hpaused hcleared hidle hb _).trans (congrArg _ hremask), rfl, rfl, rfl⟩
  case double => exact (churnRemask_slot hpaused hcleared hidle hb _).trans (congrArg _ (if_pos hn))
  case tag =>
    have hremask : remask (.tag n) s = tagFault (churnWait n true s) := if_pos hn
    have hchurn := tagFault_churn (churnWait n true s)
    exact ⟨_, (churnRemask_slot hpaused hcleared hidle hb _).trans (congrArg _ hremask), congrArg Prod.fst hchurn,
      congrArg (·.2.1) hchurn, congrArg (·.2.2) hchurn⟩
  case sweep =>
    intro s f hpaused hcleared hidle hb
    obtain ⟨house, hkst⟩ := sweepBegin_kst s
    refine ⟨_, churnRemask_end hpaused hcleared hidle hb f, ?_⟩
    rw [hkst]
    exact ⟨rfl, rfl, rfl, rfl, rfl, rfl, rfl⟩
  case paused => exact fun s f hpaused => congrArg _ (churnRemask_paused hpaused f)
  case lag =>
    intro s hpaused hroom
    obtain ⟨u, hu⟩ := recordRaised_onlyNotes 361 0x0202 0 361 none (toLE 4 10 ++ toLE 4 s.kst.epoch.toNat ++ toLE 4 s.kst.boundary)
      s.lagged
    refine ⟨_, churnLagTimer_paused hpaused, by rw [hu]; rfl,
      recorded_of_tly (tallyRec_recorded (s := s.lagged) (by decide) hroom _ _ _ _) rfl (raise_tly ..),
      fun hrouted => recordRaised_pends (s := s.lagged) hrouted _ _ _ _ _, ?_⟩
    rw [hu]
    rfl
  case found =>
    intro s n v hwaits hsealed
    obtain ⟨u, ⟨y, rfl⟩, hdone⟩ := slotRestoreDone_found hwaits hsealed
    obtain ⟨hsch, hslots, hrestored, hchurn⟩ := waitsEnded_facts s n.toNat
    refine ⟨_, congrArg Host.Outcome.next hdone, slot_setSlot_self .., congrArg satInc hrestored, fun m hm => ?_, hchurn, ?_⟩
    · exact (slot_setSlot_other hm v).trans (State.slot_congr hslots m)
    · intro w hw x hx
      refine waitsDropped_restoresNone _ s w hw x (Eq.trans ?_ hx)
      rw [State.entry, ← hsch]
      rfl
  case lost =>
    intro s n hwaits
    obtain ⟨hself, hothers⟩ := slotRestoreDone_lost_slots hwaits
    exact ⟨_, rfl, hself, hothers⟩
  case idle => exact fun s n ok hnone hchurn => congrArg _ (slotRestoreDone_idle hnone hchurn ok)

end Sys2Proof.Proofs
end

section
/-! A tracker whose list gives a number twice: the state that the obligation about the erasure does not exclude (R91, R309). -/

namespace Sys2Proof.Machine

/-- A command of SQ `i` of pitch 5. -/
def plainEntry (i : BitVec 2) : Entry :=
  { sqe := [], pitch := 5, sq := i, port := .a, resPort := .a, prio := 0, winSet := 0, windows := [], queuedAt := 0 }

/-- The erase line is high. The tracker's list is not in the canonical form of a sparse map: it gives number 0 first as free, so that no
command is read there, and behind that as taken; number 1 is a fenced command whose completion is discarded. -/
def shadowedState : State :=
  { State.reset with
    kst := { State.reset.kst with line := true }
    sch := { State.reset.sch with
      entries := [(0, none), (0, some (plainEntry 0)), (1, some { plainEntry 1 with fence := true, discard := true })] } }

/-- Number 0 holds no command to end. The end of the fenced command ends its fence throughout the list, which drops the first number 0; the
command behind it is then read, ADMITTED. -/
theorem eraseOverwriteDone_uncovers : (eraseOverwriteDone shadowedState).entry 0 = some (plainEntry 0) := by decide +kernel

end Sys2Proof.Machine

namespace Sys2Proof.Proofs

open Sys2Proof.Machine

/-- Refutes O39, in its clause about commands in flight: where the tracker's list gives a number twice, which the statement does not
exclude, a command that no read shows before the overwrite is ADMITTED after it, without a completion. -/
theorem not_erasureJournalFlushes : ¬ Obligations.ErasureJournalFlushes := by
  unfold Obligations.ErasureJournalFlushes
  rintro ⟨⟨hoverwrite, -⟩, -⟩
  obtain ⟨t, ht, -, -, -, -, -, -, -, -, -, hheld⟩ := hoverwrite shadowedState rfl
  obtain rfl := Host.Outcome.next.inj ht
  exact absurd (hheld 0 _ eraseOverwriteDone_uncovers) (by decide)

end Sys2Proof.Proofs
end

section
/-! The device's own messages (R307, R358, R384, R393, R398, R434, R452): what each makes of the state that its gate leaves. -/

namespace Sys2Proof.Machine

open Sys2Proof.Safety

/-! ## What a message that is carried out leaves -/

section
variable {s t : State}

theorem OnlyMessage.lcs (h : OnlyMessage s t) : t.lcs = s.lcs := by
  obtain ⟨x, rfl⟩ := h
  rfl

theorem OnlyMessage.glb (h : OnlyMessage s t) : t.glb = s.glb := by
  obtain ⟨x, rfl⟩ := h
  rfl

theorem OnlyMessage.bat (h : OnlyMessage s t) : t.bat = s.bat := by
  obtain ⟨x, rfl⟩ := h
  rfl

theorem OnlyMessage.bst (h : OnlyMessage s t) : t.bst = s.bst := by
  obtain ⟨x, rfl⟩ := h
  rfl

theorem OnlyMessage.line (h : OnlyMessage s t) : t.kst.line = s.kst.line := by
  obtain ⟨x, rfl⟩ := h
  rfl

theorem OnlyMessage.lcsState (h : OnlyMessage s t) : t.lcsState = s.lcsState := by rw [State.lcsState, h.lcs, State.lcsState]

theorem OnlyMessage.burnCheck (h : OnlyMessage s t) (c : BurnConditions) (holdup : Bool) : t.burnCheck c holdup = s.burnCheck c holdup := by
  obtain ⟨x, rfl⟩ := h
  rfl

theorem OnlyMessage.classOf (h : OnlyMessage s t) (n : Nat) : t.classOf n = s.classOf n := by
  obtain ⟨x, rfl⟩ := h
  rfl

theorem OnlyMessage.rwiGet (h : OnlyMessage s t) (r : RwiReg) : t.rwiGet r = s.rwiGet r := by
  obtain ⟨x, rfl⟩ := h
  cases r <;> rfl

end

/-! ## Gates -/

section
variable {s : State} {ty : BitVec 16} {h : ZHdr}

/-- A message that writes no sealed store reaches its work where the store is not open, too (R148, R386). -/
theorem zmessage_served (ht : Taken s h) (hcarries : s.carriesOut = true) (ty : BitVec 16) (f : State → State) :
    zmessage ty h false false f s = f (s.taken h) := by
  obtain ⟨howner, hcsn, hminimal⟩ := ht
  obtain ⟨x, hx⟩ := heard_onlyTaking h.sender s
  obtain ⟨y, hy⟩ := taken_onlyTaking s h
  have howner' : (heard h.sender s).isOwner h.sender = true := by rw [hx]; exact howner
  have hcsn' : (heard h.sender s).csnClosed = false := by rw [hx]; exact hcsn
  have hminimal' : (s.taken h).glb.minimal = false := by rw [hy]; exact hminimal
  have hcarries' : (s.taken h).carriesOut = true := by rw [hy]; exact hcarries
  simp only [State.taken] at hminimal' hcarries' ⊢
  simp only [zmessage, howner', hcsn', hminimal', hcarries', Bool.not_true, Bool.not_false, Bool.or_self, Bool.and_false, Bool.false_and,
    Bool.false_eq_true, if_false]

/-- The quorum of a message with a live nonce: with its quorum the change is made, else the message is refused (R389, R390). -/
theorem zquorumL_taken (hnonce : (s.nonceFor h).isSome = true) (late : BitVec 16 → State → State) (digest : Bytes) (extra : Bool)
    (r : Roster) (f : Nat → State → ZAns) :
    zquorumL late ty h digest extra (some r) f (s.taken h)
      = if quorumOk r digest h.sigs && extra then
          zfinishL late ty h (f (s.csn + 1) (s.gatedBy ty h)) (endNonce h.nonce (s.taken h))
        else quorumFail ty h (endNonce h.nonce (s.taken h)) := by
  obtain ⟨y, hy⟩ := taken_onlyTaking s h
  have hnext : nextCsn (endNonce h.nonce (s.taken h)) = s.csn + 1 := by rw [hy]; rfl
  have hactor : (endNonce h.nonce (s.taken h)).own.owner = s.own.owner := by rw [hy]; rfl
  obtain ⟨c, hc⟩ := Option.isSome_iff_exists.mp hnonce
  rw [← nonceFor_taken] at hc
  simp only [zquorumL, hc, hnext, hactor, State.gatedBy]

theorem zquorumL_gated (hg : Gated s ty h true) (late : BitVec 16 → State → State) (f : Nat → State → ZAns) :
    zquorumL late ty h (zhDigest ty h) true (s.taken h).own.houseRoster f (s.taken h)
      = zfinishL late ty h (f (s.csn + 1) (s.gatedBy ty h)) (endNonce h.nonce (s.taken h)) := by
  obtain ⟨-, -, hnonce, r, hroster, hquorum⟩ := hg
  obtain ⟨y, hy⟩ := taken_onlyTaking s h
  have hroster' : (s.taken h).own.houseRoster = some r := by rw [hy]; exact hroster
  rw [hroster', zquorumL_taken hnonce, hquorum, Bool.and_self, if_pos rfl]

/-- A message that the house roster gates and whose change is made is answered with its body. -/
theorem zmessage_house_ok {t : State} (hg : Gated s ty h true) (late : BitVec 16 → State → State) (writes : Bool)
    {f : Nat → State → ZAns} {b : Bytes} (hf : f (s.csn + 1) (s.gatedBy ty h) = .ok (b, t)) :
    zmessage ty h false writes (fun s => zquorumL late ty h (zhDigest ty h) true s.own.houseRoster f s) s = zreply ty h 0 b t := by
  rw [zmessage_carried hg.1, zquorumL_gated hg, hf]
  rfl

end

/-! ## ZEROISE (R307) -/

/-- What the erase line clears and stops as it rises (R307, R308). -/
structure ErasedBy (src : BitVec 4) (t : State) : Prop where
  line : t.kst.line = true
  phase : t.kst.phase = 1
  readable : t.kst.readable = false
  seeds : t.kst.seedNew = 0 ∧ t.kst.seedOld = 0 ∧ t.kst.houseNew = 0 ∧ t.kst.houseOld = 0
  keys : t.kst.checkKey = 0 ∧ t.kst.memKey = 0 ∧ t.kst.dsk = none ∧ t.kst.identity = false
  caches : t.caches.kbc = [] ∧ t.caches.dkc = []
  reqs : t.units.reqs = []
  latch : t.bat.latch = true ∧ t.bat.latchSource = src

theorem eraseRise_erasedBy {s : State} (hline : s.kst.line = false) (src : BitVec 4) : ErasedBy src (eraseRise src s) := by
  simp only [eraseRise, hline, Bool.false_eq_true, if_false]
  constructor <;> simp only [raise_kst, raise_caches, raise_units, raise_bat, and_self]

theorem ErasedBy.congr {src : BitVec 4} {s t : State} (h : ErasedBy src s) (hkst : t.kst = s.kst) (hcaches : t.caches = s.caches)
    (hunits : t.units = s.units) (hbat : t.bat = s.bat) : ErasedBy src t := by
  obtain ⟨hline, hphase, hreadable, hseeds, hkeys, hlines, hreqs, hlatch⟩ := h
  constructor <;> simp only [hkst, hcaches, hunits, hbat] <;> assumption

/-- The state whose ERASE_CMD holds the command. -/
def eraseCommanded (s : State) : State := { s with kst := { s.kst with eraseCmd := Rwi.of 0x5A } }

theorem eraseCommanded_line (s : State) : (eraseCommanded s).kst.line = s.kst.line := rfl

/-- Outside a lifecycle transition ERASE_CMD raises the erase line with source 2. -/
theorem rwiCommit_eraseCmd {s : State} (hphase : s.lcs.phase ≠ 1) :
    rwiCommit .eraseCmd 0x5A s = eraseRise 2 (eraseCommanded s) := by
  have hword : (0x5A : Word) &&& RwiReg.eraseCmd.mask = 0x5A := by decide
  simp only [rwiCommit, hword, if_neg hphase]
  rfl

/-! ## Tamper classes (R358, R359) -/

theorem and_classMask (b : Nat) (v : Word) : v &&& (RwiReg.tmpClass b).mask = v := BitVec.and_allOnes

theorem rwiCommit_class_self {b : Nat} (hb : b < 3) (v : Word) (s : State) :
    (rwiCommit (.tmpClass b) v s).rwiGet (.tmpClass b) = ⟨v, ~~~v⟩ := by
  rw [rwiCommit_get v s fun _ h => RwiReg.tmpClass.inj h ▸ hb, and_classMask]
  rfl

theorem sealFlashes_eraseCmd (f : Flash → Flash) (s : State) : (sealFlashes f s).kst.eraseCmd = s.kst.eraseCmd := by
  simp only [sealFlashes]
  split <;> rfl

/-- A write of the flashes writes no register. -/
theorem sealFlashes_rwiGet (f : Flash → Flash) (s : State) (r : RwiReg) : (sealFlashes f s).rwiGet r = s.rwiGet r := by
  cases r with
  | churn => exact sealFlashes_churnPeriod f s
  | eraseCmd => exact sealFlashes_eraseCmd f s
  | _ =>
    rw [sealFlashes_eq]
    rfl

theorem putClass_rwiGet_other {b : Nat} {r : RwiReg} (h : r ≠ .tmpClass b) (w : Rwi) (s : State) :
    State.rwiGet { s with tmp := putClass b w s.tmp } r = s.rwiGet r := by
  cases r with
  | tmpClass k =>
    match b, k with
    | 0, 0 | 1, 1 | 2, 2 => exact absurd rfl h
    | 0, 1 | 0, 2 | 0, _ + 3 | 1, 0 | 1, 2 | 1, _ + 3 | 2, 0 | 2, 1 | 2, _ + 3 | _ + 3, _ => rfl
  | _ =>
    match b with
    | 0 | 1 | 2 | _ + 3 => rfl

/-- A commit of a class register changes no other register. -/
theorem rwiCommit_class_other {b : Nat} {r : RwiReg} (h : r ≠ .tmpClass b) (v : Word) (s : State) :
    (rwiCommit (.tmpClass b) v s).rwiGet r = s.rwiGet r := by
  have hcopy : ∀ t : State, (bumpCopy t).rwiGet r = t.rwiGet r := fun t => by cases r <;> rfl
  rw [rwiCommit, sealFlashes_rwiGet, hcopy, putClass_rwiGet_other h]

/-! ## Fields of two bits (R347, R358) -/

/-- The field at `k` of a word that is put together from what stands below it, the field, and what stands above. -/
theorem field_self {k r x : Nat} (q : Nat) (hr : r < 4 ^ k) (hx : x < 4) : (r + 4 ^ k * (x + 4 * q)) / 4 ^ k % 4 = x := by
  rw [Nat.add_mul_div_left _ _ (by positivity), Nat.div_eq_of_lt hr, Nat.zero_add, Nat.add_mul_mod_self_left, Nat.mod_eq_of_lt hx]

/-- A field below `k` does not depend on what stands from `k` on. -/
theorem field_below {j k : Nat} (h : j < k) (r m : Nat) : (r + 4 ^ k * m) / 4 ^ j % 4 = r / 4 ^ j % 4 := by
  obtain ⟨d, rfl⟩ := Nat.exists_eq_add_of_lt h
  have hpow : 4 ^ (j + d + 1) * m = 4 ^ j * (4 * (4 ^ d * m)) := by ring
  rw [hpow, Nat.add_mul_div_left _ _ (by positivity), Nat.add_mul_mod_self_left]

/-- A field above `k` depends on what stands above `k` alone. -/
theorem field_above {j k r x : Nat} (h : k < j) (q : Nat) (hr : r < 4 ^ k) (hx : x < 4) :
    (r + 4 ^ k * (x + 4 * q)) / 4 ^ j % 4 = q / 4 ^ (j - k - 1) % 4 := by
  obtain ⟨d, rfl⟩ := Nat.exists_eq_add_of_lt h
  have hpow : 4 ^ (k + d + 1) = 4 ^ k * (4 * 4 ^ d) := by ring
  have hupper : (x + 4 * q) / 4 = q := by omega
  rw [hpow, ← Nat.div_div_eq_div_mul, Nat.add_mul_div_left _ _ (by positivity), Nat.div_eq_of_lt hr, Nat.zero_add,
    ← Nat.div_div_eq_div_mul, hupper, show k + d + 1 - k - 1 = d by omega]

/-- The fields of a value whose field at `k` is replaced. -/
theorem field_replace (v : Nat) {c : Nat} (hc : c < 4) (k j : Nat) :
    (v - v / 4 ^ k % 4 * 4 ^ k + c * 4 ^ k) / 4 ^ j % 4 = if j = k then c else v / 4 ^ j % 4 := by
  have hold : v = v % 4 ^ k + 4 ^ k * (v / 4 ^ k % 4 + 4 * (v / 4 ^ k / 4)) := by rw [Nat.mod_add_div, Nat.mod_add_div]
  have hbelow : v % 4 ^ k < 4 ^ k := Nat.mod_lt _ (by positivity)
  have hfield : v / 4 ^ k % 4 < 4 := Nat.mod_lt _ (by decide)
  generalize v % 4 ^ k = r at hold hbelow
  generalize v / 4 ^ k % 4 = x at hold hfield ⊢
  generalize v / 4 ^ k / 4 = q at hold
  have hnew : v - x * 4 ^ k + c * 4 ^ k = r + 4 ^ k * (c + 4 * q) := by
    have hsum : v = r + 4 ^ k * (4 * q) + x * 4 ^ k := by rw [hold]; ring
    rw [hsum, Nat.add_sub_cancel]
    ring
  rw [hnew]
  rcases Nat.lt_trichotomy j k with hlt | rfl | hgt
  · rw [if_neg hlt.ne, field_below hlt, hold, field_below hlt]
  · rw [if_pos rfl, field_self q hbelow hc]
  · rw [if_neg hgt.ne', field_above hgt q hbelow hc, hold, field_above hgt q hbelow hfield]

theorem classField_ofNat {j : Nat} (hj : j < 16) (v : Nat) : classField (BitVec.ofNat 32 v) j = v / 4 ^ j % 4 := by
  have hdvd : 4 ^ j * 4 ∣ 2 ^ 32 := by
    rw [← pow_succ, show (2 : Nat) ^ 32 = 4 ^ 16 by norm_num]
    exact pow_dvd_pow 4 hj
  rw [classField, BitVec.toNat_ofNat, ← Nat.mod_mul_right_div_self, Nat.mod_mod_of_dvd _ hdvd, Nat.mod_mul_right_div_self]

/-- The class of a source whose class is not fixed stands in the register of its bank. -/
theorem classOf_eq_field {n : Nat} (hn : n < 48) (hfixed : fixedSource n = false) (s : State) :
    s.classOf n = classField (s.rwiGet (.tmpClass (n / 16))).val (n % 16) := by
  have hbank : n / 16 < 3 := by omega
  rw [State.classOf, hfixed, if_neg Bool.false_ne_true]
  rcases (by omega : n < 16 ∨ (16 ≤ n ∧ n < 32) ∨ 32 ≤ n) with h | ⟨hlo, hhi⟩ | h
  · rw [show n / 16 = 0 by omega, if_pos h]
    rfl
  · rw [show n / 16 = 1 by omega, if_neg (by omega), if_pos hhi]
    rfl
  · rw [show n / 16 = 2 by omega, if_neg (by omega), if_neg (by omega)]
    rfl

theorem classOf_of_fixed {n : Nat} (hfixed : fixedSource n = true) (s : State) : s.classOf n = 2 := by rw [State.classOf, if_pos hfixed]

/-- The word of the class register that a raise of source `n` writes. -/
def raisedWord (n cls : Nat) (s : State) : Word :=
  let old := (s.rwiGet (.tmpClass (n / 16))).val.toNat
  BitVec.ofNat 32 (old - s.classOf n * 4 ^ (n % 16) + cls * 4 ^ (n % 16))

/-- The state in which a raised class has its fuses. -/
def classFused (n cls : Nat) (s : State) : State :=
  { s with lcs := { s.lcs with fuses :=
    { s.lcs.fuses with cls := s.lcs.fuses.cls ||| BitVec.ofNat 96 (classThermo cls * 4 ^ n) } } }

/-- The state in which a raised class is committed. -/
def classCommitted (n cls : Nat) (s : State) : State := rwiCommit (.tmpClass (n / 16)) (raisedWord n cls s) (classFused n cls s)

theorem raiseClass_eq (n cls : Nat) (s : State) :
    raiseClass n cls s = burned 2 (cls - (classCommitted n cls s).classOf n) (classCommitted n cls s) := rfl

theorem burned_rwiGet (g : BitVec 3) (m : Nat) (s : State) (r : RwiReg) : (burned g m s).rwiGet r = s.rwiGet r := by cases r <;> rfl

theorem burned_fuses (g : BitVec 3) (m : Nat) (s : State) : (burned g m s).lcs.fuses = s.lcs.fuses := rfl

theorem classFused_rwiGet (n cls : Nat) (s : State) (r : RwiReg) : (classFused n cls s).rwiGet r = s.rwiGet r := by cases r <;> rfl

/-- A raise of a class burns the class's fuses (R358). -/
theorem raiseClass_fuses (n cls : Nat) (s : State) :
    (raiseClass n cls s).lcs.fuses.cls = s.lcs.fuses.cls ||| BitVec.ofNat 96 (classThermo cls * 4 ^ n) := by
  rw [raiseClass_eq, burned_fuses, classCommitted, rwiCommit, sealFlashes_lcs]
  rfl

section
variable {n cls : Nat}

theorem raiseClass_self (hn : n < 48) (s : State) :
    ((raiseClass n cls s).rwiGet (.tmpClass (n / 16))).val = raisedWord n cls s := by
  rw [raiseClass_eq, burned_rwiGet, classCommitted, rwiCommit_class_self (by omega)]

theorem raiseClass_other (s : State) {r : RwiReg} (h : r ≠ .tmpClass (n / 16)) : (raiseClass n cls s).rwiGet r = s.rwiGet r := by
  rw [raiseClass_eq, burned_rwiGet, classCommitted, rwiCommit_class_other h, classFused_rwiGet]

/-- A raise of source `n` writes its field alone. -/
theorem raisedWord_field (hn : n < 48) (hfixed : fixedSource n = false) (hcls : cls < 4) (s : State) {j : Nat} (hj : j < 16) :
    classField (raisedWord n cls s) j
      = if j = n % 16 then cls else classField (s.rwiGet (.tmpClass (n / 16))).val j := by
  rw [raisedWord, classField_ofNat hj, classOf_eq_field hn hfixed, classField, field_replace _ hcls, classField]

/-- A raise gives its source the class and leaves every other one (R359). -/
theorem raiseClass_classOf (hn : n < 48) (hfixed : fixedSource n = false) (hcls : cls < 4) (s : State) {k : Nat} (hk : k < 48) :
    (raiseClass n cls s).classOf k = if k = n then cls else s.classOf k := by
  cases hk' : fixedSource k with
  | true =>
    have hne : k ≠ n := fun h => by rw [h, hfixed] at hk'; exact Bool.false_ne_true hk'
    rw [if_neg hne, classOf_of_fixed hk', classOf_of_fixed hk']
  | false =>
    rw [classOf_eq_field hk hk', classOf_eq_field hk hk']
    by_cases hbank : k / 16 = n / 16
    · rw [hbank, raiseClass_self hn, raisedWord_field hn hfixed hcls s (Nat.mod_lt _ (by decide))]
      exact if_congr (by omega) rfl rfl
    · have hreg : RwiReg.tmpClass (k / 16) ≠ .tmpClass (n / 16) := fun h => hbank (RwiReg.tmpClass.inj h)
      rw [raiseClass_other s hreg, if_neg fun h : k = n => hbank (congrArg (· / 16) h)]

end

/-- TAMPER_CLASS in INTEGRATOR commits a word without a reserved class (R358). -/
theorem tamperClass_ok {s : State} {b : BitVec 2} {v : Word} (hlcs : s.lcsState = 2) (hb : b ≠ 3) (hv : anyField3 v 16 = false) :
    tamperClass b v s = .ok ([], rwiCommit (.tmpClass b.toNat) v s) := by
  have hopen : s.locked = false := by simp [State.locked, hlcs]
  simp only [tamperClass, hlcs, ne_eq, not_true_eq_false, if_false, if_neg hb, State.commitRefusal, hopen, hv, Bool.false_eq_true, or_self]

/-- TAMPER_FUSE in FIELDED raises a class that is lower (R359). -/
theorem tamperFuse_ok {s : State} {n cls : Nat} {c : BurnConditions} (hlcs : s.lcsState = 3) (hn : n < 48) (hlower : s.classOf n < cls)
    (hcls : cls ≠ 3) (hcheck : s.burnCheck c true = 0) (k : Nat) :
    tamperFuse n false cls c k s = .ok (toLE 8 k, raiseClass n cls s) := by
  simp [tamperFuse, hlcs, hn.not_ge, hlower.not_ge, hcls, hcheck]

/-! ## OWNER_ROTATE and FUSE_REPAIR (R393, R452) -/

/-- The fuses of a unit whose owner has changed to the key of hash `k`. -/
def rotatedFuses (k : Bytes) (s : State) : Fuses :=
  { s.lcs.fuses with owner0 := { s.lcs.fuses.owner0 with revoked := true }, owner1 := { burned := true, hash := k } }

theorem ownerRotate_ok {s : State} {k : Bytes} {c : BurnConditions} (hlcs : s.lcsState = 2 ∨ s.lcsState = 3) (hk : k.length = 48)
    (hfirst : s.lcs.fuses.owner0.burned = true) (hsecond : s.lcs.fuses.owner1.burned = false) (hcheck : s.burnCheck c true = 0)
    (n : Nat) :
    ownerRotate k c n s = .ok (toLE 8 n, burned 6 2 { s with lcs := { s.lcs with fuses := rotatedFuses k s } }) := by
  have hstate : (decide (s.lcsState = 2) || decide (s.lcsState = 3)) = true := by simpa using hlcs
  simp [ownerRotate, hstate, hk, hfirst, hsecond, hcheck, rotatedFuses]

/-- FUSE_REPAIR fuses the pending repairs and leaves none pending (R452). -/
theorem fuseRepair_ok {s : State} {c : BurnConditions} (hcheck : s.burnCheck c true = 0) :
    ∃ t, fuseRepair c s = .ok ([], t) ∧ t.bst = { s.bst with pending := 0 }
      ∧ t.lcs.fuses.repairs = min 512 (s.lcs.fuses.repairs + s.bst.pending.toNat) := by
  simp only [fuseRepair, hcheck, ne_eq, not_true_eq_false, if_false]
  refine ⟨_, rfl, ?_, ?_⟩
  · rw [tallyRec_bst]
    rfl
  · rw [tallyRec_lcs]
    rfl

/-! ## The messages of classes, fuses and the erasure, as they are carried out -/

section
variable (ty : BitVec 16) (h : ZHdr) (status : BitVec 16) (b : Bytes) (s : State)

theorem zreply_classOf (n : Nat) : (zreply ty h status b s).classOf n = s.classOf n := rfl

theorem zreply_lcs : (zreply ty h status b s).lcs = s.lcs := rfl

theorem zreply_rwiGet (r : RwiReg) : (zreply ty h status b s).rwiGet r = s.rwiGet r := by cases r <;> rfl

end

section
variable {s : State} {h : ZHdr}

theorem ErasedBy.zreply {src : BitVec 4} {t : State} (he : ErasedBy src t) (ty : BitVec 16) (h : ZHdr) (status : BitVec 16) (b : Bytes) :
    ErasedBy src (zreply ty h status b t) := he.congr rfl rfl rfl rfl

theorem zeroise_message (hg : Gated s 0x0042 h true) (hline : s.kst.line = false) (hphase : s.lcs.phase ≠ 1) :
    ∃ t, execZeroise h s = .next t ∧ Replied t 0x0042 h 0 (toLE 8 (s.csn + 1)) ∧ ErasedBy 2 t := by
  have hgate := gatedBy_onlyMessage s 0x0042 h
  have hphase' : (s.gatedBy 0x0042 h).lcs.phase ≠ 1 := by rwa [hgate.lcs]
  have hok : zeroise (s.csn + 1) (s.gatedBy 0x0042 h) = .ok (toLE 8 (s.csn + 1), eraseRise 2 (eraseCommanded (s.gatedBy 0x0042 h))) := by
    rw [zeroise, rwiCommit_eraseCmd hphase']
  refine ⟨_, congrArg Host.Outcome.next (zmessage_gated_ok hg false false hok), zreply_replied .., ?_⟩
  have hdown : (eraseCommanded (s.gatedBy 0x0042 h)).kst.line = false := by rw [eraseCommanded_line, hgate.line, hline]
  exact (eraseRise_erasedBy hdown 2).zreply ..

theorem tamperClass_message {b : BitVec 2} {v : Word} (hc : Carried s h) (hlcs : s.lcsState = 2) (hb : b ≠ 3)
    (hv : anyField3 v 16 = false) :
    ∃ t, execTamperClass h b v s = .next t ∧ Replied t 0x0043 h 0 [] ∧ t.rwiGet (.tmpClass b.toNat) = ⟨v, ~~~v⟩
      ∧ ∀ r, r ≠ .tmpClass b.toNat → t.rwiGet r = s.rwiGet r := by
  have htaken := (taken_onlyTaking s h).message
  have hrun : execTamperClass h b v s = .next (zreply 0x0043 h 0 [] (rwiCommit (.tmpClass b.toNat) v (s.taken h))) := by
    rw [execTamperClass, zmessage_carried hc, tamperClass_ok (htaken.lcsState.trans hlcs) hb hv]
    rfl
  have hbank : b.toNat < 3 := by bv_omega
  refine ⟨_, hrun, zreply_replied .., ?_, fun r hr => ?_⟩
  · rw [zreply_rwiGet, rwiCommit_class_self hbank]
  · rw [zreply_rwiGet, rwiCommit_class_other hr, htaken.rwiGet]

theorem tamperFuse_message {n : BitVec 6} {cls : BitVec 2} {c : BurnConditions} (hg : Gated s 0x0044 h true) (hlcs : s.lcsState = 3)
    (hn : n.toNat < 48) (hfixed : fixedSource n.toNat = false) (hlower : s.classOf n.toNat < cls.toNat) (hcls : cls ≠ 3)
    (hcheck : s.burnCheck c true = 0) :
    ∃ t, execTamperFuse h n false cls c s = .next t ∧ Replied t 0x0044 h 0 (toLE 8 (s.csn + 1)) ∧ t.classOf n.toNat = cls.toNat
      ∧ (∀ k, k < 48 → k ≠ n.toNat → t.classOf k = s.classOf k)
      ∧ t.lcs.fuses.cls = s.lcs.fuses.cls ||| BitVec.ofNat 96 (classThermo cls.toNat * 4 ^ n.toNat) := by
  have hgate := gatedBy_onlyMessage s 0x0044 h
  have hcls3 : cls.toNat ≠ 3 := by bv_omega
  have hok := tamperFuse_ok (s := s.gatedBy 0x0044 h) (hgate.lcsState.trans hlcs) hn (by rwa [hgate.classOf]) hcls3
    ((hgate.burnCheck c true).trans hcheck) (s.csn + 1)
  have hclasses : ∀ k, k < 48 → (raiseClass n.toNat cls.toNat (s.gatedBy 0x0044 h)).classOf k
      = if k = n.toNat then cls.toNat else s.classOf k := fun k hk => by
    rw [raiseClass_classOf hn hfixed cls.isLt _ hk, hgate.classOf]
  refine ⟨_, congrArg Host.Outcome.next (zmessage_house_ok hg _ true hok), zreply_replied .., ?_, fun k hk hne => ?_, ?_⟩
  · rw [zreply_classOf, hclasses _ hn, if_pos rfl]
  · rw [zreply_classOf, hclasses k hk, if_neg hne]
  · rw [zreply_lcs, raiseClass_fuses, hgate.lcs]

theorem ownerRotate_message {k : Bytes} {c : BurnConditions} (hg : Gated s 0x0046 h true) (hlcs : s.lcsState = 2 ∨ s.lcsState = 3)
    (hk : k.length = 48) (hfirst : s.lcs.fuses.owner0.burned = true) (hsecond : s.lcs.fuses.owner1.burned = false)
    (hcheck : s.burnCheck c true = 0) :
    ∃ t, execOwnerRotate h k c s = .next t ∧ Replied t 0x0046 h 0 (toLE 8 (s.csn + 1)) ∧ t.lcs.fuses = rotatedFuses k s := by
  have hgate := gatedBy_onlyMessage s 0x0046 h
  have hok := ownerRotate_ok (s := s.gatedBy 0x0046 h) (by rwa [hgate.lcsState]) hk (by rwa [hgate.lcs]) (by rwa [hgate.lcs])
    ((hgate.burnCheck c true).trans hcheck) (s.csn + 1)
  refine ⟨_, congrArg Host.Outcome.next (zmessage_house_ok hg _ false hok), zreply_replied .., ?_⟩
  exact congrArg (fun l : Lcs => { l.fuses with
    owner0 := { l.fuses.owner0 with revoked := true }, owner1 := { burned := true, hash := k } }) hgate.lcs

theorem fuseRepair_message {c : BurnConditions} (hc : Carried s h) (hlcs : s.lcsState = 2) (hcheck : s.burnCheck c true = 0) :
    ∃ t, execFuseRepair h c s = .next t ∧ Replied t 0x0045 h 0 [] ∧ t.bst = { s.bst with pending := 0 }
      ∧ t.lcs.fuses.repairs = min 512 (s.lcs.fuses.repairs + s.bst.pending.toNat) := by
  have htaken := (taken_onlyTaking s h).message
  have hlcs' : (s.taken h).lcsState = 2 := htaken.lcsState.trans hlcs
  obtain ⟨t, hok, hbst, hrepairs⟩ := fuseRepair_ok ((htaken.burnCheck c true).trans hcheck)
  have hrun : execFuseRepair h c s = .next (zreply 0x0045 h 0 [] t) := by
    rw [execFuseRepair, zmessage_carried hc, hlcs', hok]
    rfl
  refine ⟨_, hrun, zreply_replied .., hbst.trans (by rw [htaken.bst]), hrepairs.trans (by rw [htaken.lcs, htaken.bst])⟩

end

/-! ## The tally's stores (R461, R468) -/

/-- The head, the tail and its erasure stand as they did. -/
structure KeepsStored (s t : State) : Prop where
  head : t.tly.head = s.tly.head
  tail : t.tly.tail = s.tly.tail
  erasing : t.tly.erasing = s.tly.erasing

section
variable {s t u : State}

theorem KeepsStored.refl (s : State) : KeepsStored s s := ⟨rfl, rfl, rfl⟩

theorem KeepsStored.trans : KeepsStored s t → KeepsStored t u → KeepsStored s u := by
  rintro ⟨hhead, htail, herasing⟩ ⟨hhead', htail', herasing'⟩
  exact ⟨hhead'.trans hhead, htail'.trans htail, herasing'.trans herasing⟩

theorem KeepsStored.of_tly (h : t.tly = s.tly) : KeepsStored s t := by constructor <;> rw [h]

end

theorem startFlush_keepsStored (s : State) : KeepsStored s (startFlush s) := by
  simp only [startFlush]
  split
  · exact ⟨rfl, rfl, rfl⟩
  · exact .refl s

theorem raise_keepsStored (src : Nat) (s : State) : KeepsStored s (raise src s) := .of_tly (raise_tly src s)

theorem enterBuffer_keepsStored (r : TallyRec) (s : State) : KeepsStored s (enterBuffer r s) := by
  have hbuf : KeepsStored s (buffered r s) := ⟨rfl, rfl, rfl⟩
  rw [enterBuffer_eq]
  split
  · exact (hbuf.trans (raise_keepsStored _ _)).trans (startFlush_keepsStored _)
  · exact hbuf

theorem tallyDrop_keepsStored (s : State) : KeepsStored s (tallyDrop s) := by constructor <;> rw [tallyDrop, raise_tly]

theorem tallyExempt_keepsStored (r : TallyRec) (s : State) : KeepsStored s (tallyExempt r s) := by
  simp only [tallyExempt]
  split
  · exact (enterBuffer_keepsStored r s).trans (startFlush_keepsStored _)
  · split
    · exact ⟨rfl, rfl, rfl⟩
    · exact tallyDrop_keepsStored s

/-- An exempt record enters the buffer alone (R463). -/
theorem tallyRec_keepsStored {code : BitVec 16} (hcode : exemptCode code.toNat = true) (actor : BitVec 6) (event : BitVec 10)
    (own : Option Nat) (payload : Bytes) (s : State) : KeepsStored s (tallyRec code actor event own payload s) := by
  simp only [tallyRec, hcode, if_true]
  exact tallyExempt_keepsStored _ s

theorem foldl_enterBuffer_keepsStored (l : List TallyRec) (s : State) :
    KeepsStored s (l.foldl (fun s r => enterBuffer r s) s) := by
  induction l generalizing s with
  | nil => exact .refl s
  | cons r l ih => exact (enterBuffer_keepsStored r s).trans (ih _)

/-- No dropped record is left to report. -/
def dropsReported (s : State) : State := { s with tly := { s.tly with droppedUnreported := 0 } }

/-- The count of dropped records is reported before what waited (R463). -/
def droppedReported (s : State) : State :=
  if s.tly.droppedUnreported ≠ 0 ∧ s.tly.buffer.length < 256 then
    enterBuffer (exemptRec 0x0F03 (toLE 4 s.tly.droppedUnreported)) (dropsReported s)
  else s

/-- What waits leaves the staging area as far as the buffer has room. -/
def stagedTaken (s : State) : State :=
  { s with tly := { s.tly with staging := s.tly.staging.drop (256 - s.tly.buffer.length) } }

theorem admitStaged_eq (s : State) :
    admitStaged s
      = if s.tly.droppedUnreported = 0
            ∧ (droppedReported s).tly.staging.take (256 - (droppedReported s).tly.buffer.length) = [] then droppedReported s
        else startFlush (((droppedReported s).tly.staging.take (256 - (droppedReported s).tly.buffer.length)).foldl
          (fun s r => enterBuffer r s) (stagedTaken (droppedReported s))) := rfl

theorem admitStaged_keepsStored (s : State) : KeepsStored s (admitStaged s) := by
  have hreported : KeepsStored s (droppedReported s) := by
    simp only [droppedReported]
    split
    · exact KeepsStored.trans (t := dropsReported s) ⟨rfl, rfl, rfl⟩ (enterBuffer_keepsStored _ _)
    · exact .refl s
  have hstaged : KeepsStored (droppedReported s) (stagedTaken (droppedReported s)) := ⟨rfl, rfl, rfl⟩
  rw [admitStaged_eq]
  split
  · exact hreported
  · exact ((hreported.trans hstaged).trans (foldl_enterBuffer_keepsStored _ _)).trans (startFlush_keepsStored _)

theorem admitStaged_onlyNotes (s : State) : OnlyNotes s (admitStaged s) := by
  have hreported : OnlyNotes s (droppedReported s) := by
    simp only [droppedReported]
    split
    · exact (onlyNotes_tly s _).trans (enterBuffer_onlyNotes _ _)
    · exact .of_eq rfl
  have hfold : ∀ (l : List TallyRec) (t : State), OnlyNotes t (l.foldl (fun s r => enterBuffer r s) t) := fun l => by
    induction l with
    | nil => exact fun t => .of_eq rfl
    | cons r l ih => exact fun t => (enterBuffer_onlyNotes r t).trans (ih _)
  rw [admitStaged_eq]
  split
  · exact hreported
  · exact ((hreported.trans (onlyNotes_tly _ _)).trans (hfold _ _)).trans (startFlush_onlyNotes _)

theorem tailCheck_head (s : State) : (tailCheck s).tly.head = s.tly.head := by
  simp only [tailCheck]
  split <;> rfl

theorem tailCheck_onlyNotes (s : State) : OnlyNotes s (tailCheck s) := by
  simp only [tailCheck]
  split
  · exact onlyNotes_tly s _
  · exact .of_eq rfl

/-- A flush adds to the head (R461). -/
theorem landFlush_head (s : State) : (landFlush s).tly.head = s.tly.head ++ s.landing.filter (·.headCopy) := by
  simp only [landFlush]
  rw [tailCheck_head]
  split
  · rw [raise_tly]
    rfl
  · rfl

theorem landFlush_onlyNotes (s : State) : OnlyNotes s (landFlush s) := by
  simp only [landFlush]
  refine OnlyNotes.trans ?_ (tailCheck_onlyNotes _)
  split
  · exact (onlyNotes_tly s _).trans (raise_onlyNotes _ _)
  · exact onlyNotes_tly s _

theorem tallyFlushDone_onlyNotes (s : State) : OnlyNotes s (tallyFlushDone s) := by
  simp only [tallyFlushDone]
  split
  · exact .of_eq rfl
  · split
    · exact onlyNotes_tly s _
    · exact ((landFlush_onlyNotes s).trans (raise_onlyNotes _ _)).trans (admitStaged_onlyNotes _)

theorem flushNow_onlyNotes (s : State) : OnlyNotes s (flushNow s) := (onlyNotes_tly s _).trans (tallyFlushDone_onlyNotes _)

/-- No flush takes a record from the head. -/
theorem mem_head_tallyFlushDone {r : TallyRec} {s : State} (h : r ∈ s.tly.head) : r ∈ (tallyFlushDone s).tly.head := by
  simp only [tallyFlushDone]
  split
  · exact h
  · split
    · exact h
    · rw [(admitStaged_keepsStored _).head, raise_tly, landFlush_head]
      exact List.mem_append_left _ h

theorem mem_head_flushNow {r : TallyRec} {s : State} (h : r ∈ s.tly.head) : r ∈ (flushNow s).tly.head := mem_head_tallyFlushDone h

/-- The state whose tail is empty. -/
def tailCleared (s : State) : State := { s with tly := tailOldest { s.tly with tail := [], erasing := false } }

theorem tallyClear_eq (c : Nat) (s : State) :
    ∃ payload, tallyClear c s = .ok ([], raise 477 (tallyRec 0x0F02 (tailCleared (flushNow s)).own.owner 477 (some c) payload
      (tailCleared (flushNow s)))) := ⟨_, rfl⟩

/-- TALLY_CLEAR empties the tail and leaves the head (R468). -/
theorem tallyClear_ok (c : Nat) (s : State) :
    ∃ t, tallyClear c s = .ok ([], t) ∧ t.tly.tail = [] ∧ t.tly.erasing = false ∧ ∀ r ∈ s.tly.head, r ∈ t.tly.head := by
  obtain ⟨payload, heq⟩ := tallyClear_eq c s
  have hrecord := tallyRec_keepsStored (code := 0x0F02) (by decide) (tailCleared (flushNow s)).own.owner 477 (some c) payload
    (tailCleared (flushNow s))
  have hkept := hrecord.trans (raise_keepsStored 477 _)
  refine ⟨_, heq, hkept.tail, hkept.erasing, fun r hr => ?_⟩
  rw [hkept.head]
  exact mem_head_flushNow hr

theorem tallyClear_message {s : State} {h : ZHdr} (hg : Gated s 0x0051 h true) :
    ∃ t, execTallyClear h s = .next t ∧ Replied t 0x0051 h 0 [] ∧ t.tly.tail = [] ∧ t.tly.erasing = false
      ∧ ∀ r ∈ s.tly.head, r ∈ t.tly.head := by
  obtain ⟨y, hy⟩ := taken_onlyTaking s h
  have hbefore : (tookCsn (endNonce h.nonce (s.taken h))).tly = s.tly := by rw [tookCsn, endNonce, hy]; rfl
  have hgate : KeepsStored s (s.gatedBy 0x0051 h) := (KeepsStored.of_tly hbefore).trans (tallyRec_keepsStored (by decide) _ _ _ _ _)
  obtain ⟨t, hok, htail, herasing, hkept⟩ := tallyClear_ok (s.csn + 1) (s.gatedBy 0x0051 h)
  exact ⟨_, congrArg Host.Outcome.next (zmessage_gated_ok hg false false hok), zreply_replied .., htail, herasing,
    fun r hr => hkept r (hgate.head ▸ hr)⟩

/-! ## REINTEGRATE (R398, R399) -/

section
variable (ty : BitVec 16) (h : ZHdr) (st : BitVec 16) (s : State)

theorem zrefuse_replied : Replied (zrefuse ty h st s) ty h st [] := by
  simp only [zrefuse]
  exact zreply_replied ..

theorem zrefuse_bat : (zrefuse ty h st s).bat = s.bat := by
  simp only [zrefuse]
  split
  · rfl
  · split <;> rfl

theorem zrefuse_kst : (zrefuse ty h st s).kst = s.kst := by
  simp only [zrefuse]
  split
  · rfl
  · split <;> rfl

theorem zrefuse_glb : (zrefuse ty h st s).glb = s.glb := by
  simp only [zrefuse]
  split
  · rfl
  · split <;> rfl

theorem quorumFail_bat : (quorumFail ty h s).bat = s.bat := by rw [quorumFail, zrefuse_bat, tallyRec_bat]

theorem quorumFail_kst : (quorumFail ty h s).kst = s.kst := by rw [quorumFail, zrefuse_kst, tallyRec_kst]

end

theorem OnlyNotes.kst {s t : State} : OnlyNotes s t → t.kst = s.kst := by
  rintro ⟨x, rfl⟩
  rfl

/-- The state with the new store in both flashes and the latch cleared. -/
def storeMade (f : Flash) (c : Nat) (s : State) : State :=
  { s with kst := { s.kst with flash0 := f, flash1 := f, lastCsn := max s.kst.lastCsn c },
           bat := { s.bat with latch := false, latchSource := 0 } }

/-- The state with its new seed and store, before the start. -/
def reintegrated (d : Byte) (c : Nat) (s : State) : State :=
  storeMade (newStore d c (newVaultSeed s).2) c (newVaultSeed s).2

theorem reintegrate_eq (d : Byte) (c : Nat) (s : State) :
    reintegrate d c s = .ok (toLE 8 c, coldClear (flushNow (reintegrated d c s))) := by
  simp only [reintegrate]
  rfl

theorem coldClear_bat (s : State) : (coldClear s).bat = s.bat := rfl

theorem coldClear_flashes (s : State) : (coldClear s).kst.flash0 = s.kst.flash0 ∧ (coldClear s).kst.flash1 = s.kst.flash1 := ⟨rfl, rfl⟩

theorem coldClear_startDone (s : State) : (coldClear s).glb.startDone = false := rfl

/-- A re-integration makes a store with a seed, clears the latch and starts cold (R399). -/
theorem reintegrate_ok (d : Byte) (c : Nat) (s : State) :
    ∃ t, reintegrate d c s = .ok (toLE 8 c, t) ∧ t.bat.latch = false ∧ t.bat.seed ≠ none
      ∧ t.kst.flash0.header = some deviceFingerprint ∧ t.kst.flash0 = t.kst.flash1 ∧ t.kst.flash0.holdup = d ∧ t.glb.startDone = false := by
  have hflush := flushNow_onlyNotes (reintegrated d c s)
  have hbat := hflush.seals.message.bat
  have hkst := hflush.kst
  obtain ⟨hfirst, hsecond⟩ := coldClear_flashes (flushNow (reintegrated d c s))
  refine ⟨_, reintegrate_eq d c s, ?_⟩
  rw [coldClear_bat, hfirst, hsecond, hbat, hkst, coldClear_startDone]
  exact ⟨rfl, Option.some_ne_none _, rfl, rfl, rfl, rfl⟩

theorem reintegrate_message {s : State} {h : ZHdr} {d : Byte} {r : Roster} (ht : Taken s h) (hcarries : s.carriesOut = true)
    (hable : s.reintegrable = true) (hnonce : (s.nonceFor h).isSome = true) (hrecord : s.own.houseRecord = some r)
    (hquorum : quorumOk r (reintegrateDigest h) h.sigs = true) :
    ∃ t, execReintegrate h d s.own.houseVersion s = .next t
      ∧ (s.ownerSigOk (reintegrateDigest h) h.ownerSig = false → Replied t 0x0041 h 6 [] ∧ t.bat = s.bat ∧ t.kst = s.kst)
      ∧ (s.ownerSigOk (reintegrateDigest h) h.ownerSig = true → Replied t 0x0041 h 0 (toLE 8 (s.csn + 1)) ∧ t.bat.latch = false
          ∧ t.bat.seed ≠ none ∧ t.kst.flash0.header = some deviceFingerprint ∧ t.kst.flash0 = t.kst.flash1
          ∧ t.kst.flash0.holdup = d ∧ t.glb.startDone = false) := by
  obtain ⟨y, hy⟩ := taken_onlyTaking s h
  have hable' : (s.taken h).reintegrable = true := by rw [hy]; exact hable
  have hrecord' : (s.taken h).own.houseRecord = some r := by rw [hy]; exact hrecord
  have hversion : (s.taken h).own.houseVersion = s.own.houseVersion := by rw [hy]
  have hsigned : ∀ x y, (s.taken h).ownerSigOk x y = s.ownerSigOk x y := fun _ _ => by rw [hy]; rfl
  have hbat : (endNonce h.nonce (s.taken h)).bat = s.bat := by rw [endNonce, hy]; rfl
  have hkst : (endNonce h.nonce (s.taken h)).kst = s.kst := by rw [endNonce, hy]; rfl
  obtain ⟨t, hok, hmade⟩ := reintegrate_ok d (s.csn + 1) (s.gatedBy 0x0041 h)
  simp only [execReintegrate, zmessage_served ht hcarries, hable', Bool.not_true, Bool.false_eq_true, if_false, zquorum, hrecord', hversion,
    hsigned, zquorumL_taken hnonce, hquorum, decide_true, Bool.true_and, hok]
  cases s.ownerSigOk (reintegrateDigest h) h.ownerSig with
  | false =>
    refine ⟨_, rfl, fun _ => ⟨?_, ?_, ?_⟩, fun hfalse => absurd hfalse Bool.false_ne_true⟩
    · exact zrefuse_replied ..
    · exact (quorumFail_bat ..).trans hbat
    · exact (quorumFail_kst ..).trans hkst
  | true => exact ⟨_, rfl, fun htrue => absurd htrue.symm Bool.false_ne_true, fun _ => ⟨zreply_replied .., hmade⟩⟩

/-! ## FW_STAGE (R434, R435) -/

/-- An image that stands in the slot that does not run, staged where it passes. -/
def imageStaged (i : Image) (s : State) : State :=
  { putImage s.spareSlot i s with
    glb := { (putImage s.spareSlot i s).glb with staged := if imageOk i then some i else none } }

/-- The standby is offered the image, too. -/
def imageOffered (i : Image) (s : State) : State := if s.mirrors then s.emit (.pairImage i) else s

theorem fwStage_ok {s : State} (hlcs : s.lcsState = 2 ∨ s.lcsState = 3 ∨ s.lcsState = 4) (i : Image) :
    fwStage i s = .ok ([if imageOk i then 1 else 0], imageOffered i (imageStaged i s)) := by
  have hstate : (decide (s.lcsState = 2) || decide (s.lcsState = 3) || decide (s.lcsState = 4)) = true := by
    simpa [or_assoc] using hlcs
  simp only [fwStage, hstate, Bool.not_true, Bool.false_eq_true, if_false]
  rfl

theorem imageOffered_glb (i : Image) (s : State) : (imageOffered i s).glb = s.glb := by
  simp only [imageOffered]
  split <;> rfl

theorem imageStaged_staged (i : Image) (s : State) : (imageStaged i s).glb.staged = if imageOk i then some i else none := rfl

/-- The image goes to the spare slot of both flashes; the other slot stays. -/
theorem imageStaged_slots (i : Image) (s : State) :
    if s.spareSlot then (imageStaged i s).glb.slotB0 = some i ∧ (imageStaged i s).glb.slotB1 = some i
        ∧ (imageStaged i s).glb.slotA0 = s.glb.slotA0
    else (imageStaged i s).glb.slotA0 = some i ∧ (imageStaged i s).glb.slotA1 = some i ∧ (imageStaged i s).glb.slotB0 = s.glb.slotB0 := by
  cases hspare : s.spareSlot <;> simp [imageStaged, putImage, hspare]

/-- Staging changes the image slots alone, beside what its message does. -/
theorem imageStaged_frame {s u t : State} {i : Image} (hu : OnlyMessage s u) (ht : OnlySeals (imageStaged i u) t) :
    t = { withMessage s t with glb := t.glb } := by
  obtain ⟨x, rfl⟩ := hu
  obtain ⟨y, rfl⟩ := ht
  rfl

theorem imageOffered_onlySeals (i : Image) (s : State) : OnlySeals s (imageOffered i s) := by
  simp only [imageOffered]
  split <;> exact .of_eq rfl

theorem fwStage_message {s : State} {h : ZHdr} {i : Image} (hc : Carried s h) (hlcs : s.lcsState = 2 ∨ s.lcsState = 3 ∨ s.lcsState = 4) :
    ∃ t, execFwStage h i s = .next t ∧ t.glb.staged = (if imageOk i then some i else none)
      ∧ (if s.spareSlot then t.glb.slotB0 = some i ∧ t.glb.slotB1 = some i ∧ t.glb.slotA0 = s.glb.slotA0
         else t.glb.slotA0 = some i ∧ t.glb.slotA1 = some i ∧ t.glb.slotB0 = s.glb.slotB0)
      ∧ Replied t 0x0030 h 0 [if imageOk i then 1 else 0] ∧ t = { withMessage s t with glb := t.glb } := by
  have htaken := (taken_onlyTaking s h).message
  have hspare : (s.taken h).spareSlot = s.spareSlot := by rw [State.spareSlot, htaken.glb, State.spareSlot]
  have hrun : execFwStage h i s
      = .next (zreply 0x0030 h 0 [if imageOk i then 1 else 0] (imageOffered i (imageStaged i (s.taken h)))) := by
    rw [execFwStage, zmessage_carried hc, fwStage_ok (by rwa [htaken.lcsState])]
    rfl
  have hglb : (zreply 0x0030 h 0 [if imageOk i then 1 else 0] (imageOffered i (imageStaged i (s.taken h)))).glb
      = (imageStaged i (s.taken h)).glb := imageOffered_glb i _
  have hslots := imageStaged_slots i (s.taken h)
  rw [hspare, htaken.glb] at hslots
  refine ⟨_, hrun, ?_, ?_, zreply_replied .., imageStaged_frame htaken ((imageOffered_onlySeals i _).trans (zreply_onlySeals ..))⟩
  · rw [hglb, imageStaged_staged]
  · rw [hglb]
    exact hslots

/-! ## FW_ACCEPT (R435, R137) -/

theorem OnlyCores.glb {s t : State} : OnlyCores s t → t.glb = s.glb := by
  rintro ⟨x, rfl⟩
  rfl

theorem updateTake_onlyCores (c : Nat) (s : State) : OnlyCores s (updateTake c s) := by
  have htook : OnlyCores s { s with cmc := { s.cmc with updCore := BitVec.ofNat 5 c } } := .of_eq rfl
  simp only [updateTake]
  split
  · split
    · exact htook
    · exact htook.trans (coreLoad_onlyCores _ _ _)
  · exact htook.trans (coreLoad_onlyCores _ _ _)
  · exact htook.trans (requestDrain_onlyCores _ _)

theorem updateNext_glb (n : Nat) (s : State) : (updateNext n s).glb = s.glb := by
  simp only [updateNext]
  split
  · exact (updateTake_onlyCores _ _).glb
  · exact tallyRec_glb _ _ _ _ _ _

theorem liveUpdateStart_glb (who : Who) (v : Word) (s : State) : (liveUpdateStart who v s).glb = s.glb := by
  simp only [liveUpdateStart]
  split
  · rfl
  · exact updateNext_glb _ _

/-- What an acceptance makes of the image state (R435, R137). -/
def acceptedGlb (i : Image) (s : State) : Glb :=
  { s.glb with preferB := s.spareSlot, minVersion := i.version, minRecipe := s.raisedRecipe i, recipes := i.recipes, staged := none }

/-- The state with the record of the acceptance. -/
def acceptRecorded (i : Image) (c : Nat) (s : State) : State :=
  tallyRec 0x0306 s.own.owner 0x3FF (some c) ((if s.spareSlot then 1 else 0) :: toLE 2 i.version.toNat) s

/-- The state with the image preferred and its minima sealed. -/
def imageAccepted (i : Image) (c : Nat) (s : State) : State :=
  let t := acceptRecorded i c s
  mirrorDevice (sealFlashes (fun f => { f with minVersion := i.version, minRecipe := t.raisedRecipe i })
    { t with glb := { t.glb with preferB := s.spareSlot, minVersion := i.version, minRecipe := t.raisedRecipe i, recipes := i.recipes,
                                 staged := none } })

theorem imageAccepted_glb (i : Image) (c : Nat) (s : State) : (imageAccepted i c s).glb = acceptedGlb i s := by
  have hglb : (acceptRecorded i c s).glb = s.glb := tallyRec_glb _ _ _ _ _ _
  have hrecipe : (acceptRecorded i c s).raisedRecipe i = s.raisedRecipe i := by rw [State.raisedRecipe, hglb, State.raisedRecipe]
  rw [imageAccepted, mirrorDevice_glb, sealFlashes_glb, hglb, hrecipe]
  rfl

/-- The cores follow an accepted image by a live update (R435). -/
def coresFollow (i : Image) (s : State) : State := liveUpdateStart secIni 0x100 { s with cmc := { s.cmc with updImage := i.version } }

/-- The start that follows an acceptance in minimal service mode (R437). -/
def acceptedStart (s : State) : State := coldClear (flushNow { s with bat := { s.bat with ladder := 0 } })

theorem fwAccept_eq {s : State} {i : Image} (hstaged : s.glb.staged = some i)
    (hcurrent : ¬ (i.version.toNat < s.glb.minVersion.toNat ∨ ¬ s.setAccepted i = true)) (c : Nat) :
    fwAccept c s = if (imageAccepted i c s).glb.minimal then .ok (toLE 8 c, acceptedStart (imageAccepted i c s))
      else if (imageAccepted i c s).cmc.updRunning then .ok (toLE 8 c, imageAccepted i c s)
      else .ok (toLE 8 c, coresFollow i (imageAccepted i c s)) := by
  simp only [fwAccept, hstaged, if_neg hcurrent]
  rfl

theorem coresFollow_glb (i : Image) (s : State) : (coresFollow i s).glb = s.glb := liveUpdateStart_glb _ _ _

/-- An image that is no older than the minimum, and whose set is not, is accepted. -/
theorem fwAccept_ok {s : State} {i : Image} (hstaged : s.glb.staged = some i) (hminimal : s.glb.minimal = false)
    (hversion : s.glb.minVersion.toNat ≤ i.version.toNat) (hset : s.setAccepted i = true) (c : Nat) :
    ∃ t, fwAccept c s = .ok (toLE 8 c, t) ∧ t.glb = acceptedGlb i s := by
  have hcurrent : ¬ (i.version.toNat < s.glb.minVersion.toNat ∨ ¬ s.setAccepted i = true) := by
    rw [hset]
    exact not_or.mpr ⟨hversion.not_gt, not_not.mpr rfl⟩
  have hserving : (imageAccepted i c s).glb.minimal = false := by rw [imageAccepted_glb]; exact hminimal
  rw [fwAccept_eq hstaged hcurrent, hserving, if_neg Bool.false_ne_true]
  split
  · exact ⟨_, rfl, imageAccepted_glb i c s⟩
  · exact ⟨_, rfl, (coresFollow_glb i _).trans (imageAccepted_glb i c s)⟩

/-- An older image, or one with an older set, is refused. -/
theorem fwAccept_older {s : State} {i : Image} (hstaged : s.glb.staged = some i)
    (holder : i.version.toNat < s.glb.minVersion.toNat ∨ s.setAccepted i = false) (c : Nat) : fwAccept c s = .error 0x21 := by
  have hrefused : i.version.toNat < s.glb.minVersion.toNat ∨ ¬ s.setAccepted i = true := by simpa using holder
  simp only [fwAccept, hstaged, if_pos hrefused]

theorem fwAccept_message {s : State} {h : ZHdr} (hg : Gated s 0x0031 h true) (hlcs : s.lcsState ≠ 4) :
    execFwAccept h s
      = .next (zfinish 0x0031 h (fwAccept (s.csn + 1) (s.gatedBy 0x0031 h)) (endNonce h.nonce (s.taken h))) := by
  have htaken := (taken_onlyTaking s h).message
  have hlcs' : (s.taken h).lcsState ≠ 4 := by rwa [htaken.lcsState]
  obtain ⟨⟨-, -, hminimal⟩, -, -⟩ := hg.1
  have hminimal' : (s.taken h).glb.minimal = false := by rwa [htaken.glb]
  rw [execFwAccept, zmessage_carried hg.1, if_neg hlcs', hminimal', if_neg Bool.false_ne_true, zquorum, zquorumL_gated hg, zfinish]

theorem fwAccept_accepted {s : State} {h : ZHdr} {i : Image} (hg : Gated s 0x0031 h true) (hlcs : s.lcsState ≠ 4)
    (hstaged : s.glb.staged = some i) (hversion : s.glb.minVersion.toNat ≤ i.version.toNat) (hset : s.setAccepted i = true) :
    ∃ t, execFwAccept h s = .next t ∧ t.glb = acceptedGlb i s ∧ Replied t 0x0031 h 0 (toLE 8 (s.csn + 1)) := by
  have hglb := (gatedBy_onlyMessage s 0x0031 h).glb
  obtain ⟨⟨-, -, hminimal⟩, -, -⟩ := hg.1
  have hset' : (s.gatedBy 0x0031 h).setAccepted i = true := by rw [State.setAccepted, hglb]; exact hset
  obtain ⟨t, hok, ht⟩ := fwAccept_ok (s := s.gatedBy 0x0031 h) (by rwa [hglb]) (by rwa [hglb]) (by rwa [hglb]) hset' (s.csn + 1)
  refine ⟨zreply 0x0031 h 0 (toLE 8 (s.csn + 1)) t, (fwAccept_message hg hlcs).trans (by rw [hok]; rfl), ht.trans ?_, zreply_replied ..⟩
  rw [acceptedGlb, State.spareSlot, State.raisedRecipe, hglb]
  rfl

theorem fwAccept_refused {s : State} {h : ZHdr} {i : Image} (hg : Gated s 0x0031 h true) (hlcs : s.lcsState ≠ 4)
    (hstaged : s.glb.staged = some i) (holder : i.version.toNat < s.glb.minVersion.toNat ∨ s.setAccepted i = false) :
    ∃ t, execFwAccept h s = .next t ∧ t.glb = s.glb ∧ Replied t 0x0031 h 0x21 [] := by
  have hglb := (gatedBy_onlyMessage s 0x0031 h).glb
  have hended := ((taken_onlyTaking s h).message.trans (endNonce_onlyMessage h.nonce _)).glb
  have holder' : i.version.toNat < (s.gatedBy 0x0031 h).glb.minVersion.toNat ∨ (s.gatedBy 0x0031 h).setAccepted i = false := by
    rw [State.setAccepted, hglb]
    exact holder
  have hrefused := fwAccept_older (s := s.gatedBy 0x0031 h) (by rwa [hglb]) holder' (s.csn + 1)
  exact ⟨_, (fwAccept_message hg hlcs).trans (by rw [hrefused]; rfl), (zrefuse_glb ..).trans hended, zrefuse_replied ..⟩

end Sys2Proof.Machine

namespace Sys2Proof.Proofs

open Sys2Proof.Machine Sys2Proof.Safety

/-- Settles O36, message by message: the gate leaves the parts that each message reads, and its work makes the change stated. -/
theorem deviceMessages : Obligations.DeviceMessages := by
  refine ⟨⟨?zeroise, ?tamperClass, ?tamperFuse, ?ownerRotate, ?fuseRepair, ?tallyClear, ?reintegrate⟩, ?fwStage, ?fwAccept⟩
  case zeroise =>
    intro s h hg hline hphase
    obtain ⟨t, hrun, hreply, hrise, hstage, hreadable, ⟨hnew, hold, hhnew, hhold⟩, ⟨hcheck, hmem, hdsk, hid⟩, ⟨hkbc, hdkc⟩, hreqs,
      hlatch, hsource⟩ := zeroise_message hg hline hphase
    exact ⟨t, hrun, hreply, hrise, hstage, hreadable, hnew, hold, hhnew, hhold, hcheck, hmem, hdsk, hid, hkbc, hdkc, hreqs, hlatch, hsource⟩
  case tamperClass => exact fun s h b v hc hlcs hb hv => tamperClass_message hc hlcs hb hv
  case tamperFuse =>
    exact fun s h n cls c hg hlcs hn hfixed hlower hcls hcheck => tamperFuse_message hg hlcs hn hfixed hlower hcls hcheck
  case ownerRotate =>
    exact fun s h k c hg hlcs hk hfirst hsecond hcheck => ownerRotate_message hg hlcs hk hfirst hsecond hcheck
  case fuseRepair => exact fun s h c hc hlcs hcheck => fuseRepair_message hc hlcs hcheck
  case tallyClear => exact fun s h hg => tallyClear_message hg
  case reintegrate =>
    exact fun s h d r ht hcarries hable hnonce hrecord hquorum => reintegrate_message ht hcarries hable hnonce hrecord hquorum
  case fwStage => exact fun s h i hc hlcs => fwStage_message hc hlcs
  case fwAccept =>
    refine fun s h i hg hlcs hstaged => ⟨fun hversion hset => ?_, fun holder => fwAccept_refused hg hlcs hstaged holder⟩
    obtain ⟨t, hrun, hglb, hreply⟩ := fwAccept_accepted hg hlcs hstaged hversion hset
    refine ⟨t, hrun, ?_, ?_, ?_, ?_, ?_, hreply⟩ <;> rw [hglb] <;> rfl

end Sys2Proof.Proofs
end
